-- ==== Sys2Proof/Word.lean ====
section
/-! DEFINITION. The word types of the W2 and the plainest arithmetic on them. -/
namespace Sys2Proof

/-- A 32-bit register word (R70, R72). -/
abbrev Word := BitVec 32

/-- A 64-bit pair, or a virtual address held in one (R16, R232). -/
abbrev Dword := BitVec 64

/-- A byte of memory (R1). -/
abbrev Byte := BitVec 8

/-- A program counter: bits [47:0] of a canonical address (R141, R159). -/
abbrev Pc := BitVec 48

/-- The 32 lanes of a warp, in ascending order (R5, R70). -/
def lanes : List Nat := List.range 32

/-- The mask with bit `l` set exactly for the lanes where `p` holds (R76). -/
def maskOf (p : Nat → Bool) : Word :=
  lanes.foldl (fun m l => if p l then m ||| BitVec.ofNat 32 (2 ^ l) else m) 0#32

/-- The lanes whose bit is set in `m`, ascending. -/
def lanesOf (m : Word) : List Nat := lanes.filter fun l => m.getLsbD l

/-- The lowest lane of a mask, if any. -/
def lowestLane (m : Word) : Option Nat := (lanesOf m).head?

end Sys2Proof
end

