-- ==== Sys2Proof/Syntax.lean ====
section
/-! DEFINITION. The abstract syntax: one constructor of `Instr` for each row of spec/opcode_table.json (R18, R19, R37, R38 for
the words; 95_what_each_step_holds.md for the events), and the data that event rows carry. -/
namespace Sys2Proof

/-- A tenant's share of one slot (R305): tenant, clusters of the mask, L2 way masks by field, HBM shares by field and
mesh-link shares by link offset (0-35 horizontal, 36-70 vertical), in 64ths. -/
structure Partition where
  tenant : Nat
  clusters : List Nat
  ways : List (Nat × BitVec 24)
  hbm : List (Nat × Nat)
  links : List (Nat × Nat)
  deriving DecidableEq, Repr

/-- One slot-table entry (R304): its duration in units of 10 us and its partitions. -/
structure SlotEntry where
  duration : Nat
  partitions : List Partition
  deriving DecidableEq, Repr

/-- A slot table (R304): epoch in ns, entries, and whether every reserved field of its image is zero (R306). -/
structure SlotTable where
  epoch : Nat
  entries : List SlotEntry
  reservedZero : Bool
  deriving DecidableEq, Repr

/-- What firmware installs with a slot table: `image` lists the bytes of the table that are not 0, by offset (R304), `groups` the multicast groups
that it allots, with the tenant of each (R256), `checksum` the self-test mode (R388). -/
structure TableInstall where
  image : List (Nat × BitVec 8)
  groups : List (Nat × Nat)
  checksum : Bool
  deriving DecidableEq, Repr

/-- A queue descriptor (R345); `reservedZero` says whether its reserved bytes are zero. -/
structure QueueDesc where
  ring : BitVec 64
  capacity : Nat
  number : Nat
  vector : Nat
  tailVa : BitVec 64
  headVa : BitVec 64
  ctx : Nat
  reservedZero : Bool
  deriving DecidableEq, Repr

/-- A mailbox command as a host leaves it (R379): the port and the context of its virtual function, its code, and whether its reserved bytes are
zero. -/
structure Mail where
  port : Nat
  ctx : Nat
  code : Nat
  reservedZero : Bool
  deriving DecidableEq, Repr

/-- The connection over which a peer's traffic comes (R381, R382): the peer's device id, its context, and which of the connections that it has
made between the two contexts it is. -/
structure PeerLink where
  device : Nat
  ctx : Nat
  serial : Nat
  deriving DecidableEq, Repr

/-- A decode-table image (R34): whether its signature verifies, its security version, how many entries it holds, and its
entries by place (0-1023 the L-set half, 1024-2047 the U-set half); a place not listed holds 0, an invalid entry. -/
structure TableImage where
  signed : Bool
  version : Nat
  count : Nat
  entries : List (Nat × BitVec 32)
  deriving DecidableEq, Repr

/-- An image that a start loads (R385, R386): its measurement slot, its security version, whether its signature verifies, and its hash. -/
structure BootImage where
  slot : Nat
  version : Nat
  signed : Bool
  hash : BitVec 512
  deriving DecidableEq, Repr

/-- What firmware sets for a host port (R375, R378): its window in the host region, base and size in GiB; the first port and the width of its group;
the context that it binds the port to; and the port's HDM decoders, each a host range and the device range that it maps onto, as host base, size
and device base. -/
structure PortSetup where
  base : Nat
  size : Nat
  first : Nat
  width : Nat
  ctx : Nat
  decoders : List (Nat × Nat × Nat)
  deriving DecidableEq, Repr

/-- What a device start reports (R385, R394): 0 for success or a reason code 1-5, the failing field, the images that were loaded, the fabric manager's
device id (R380), the self-test mode that firmware chose (R388; true = checksum), what it sets for the host ports, and the target voltages of
the fields in millivolts (R395). -/
structure StartReport where
  reason : Nat
  field : Nat
  images : List BootImage
  deviceId : Nat
  checksumMode : Bool
  ports : List (Nat × PortSetup) := []
  targets : List (Nat × Nat) := []
  deriving DecidableEq, Repr

/-- The readings of a field's sensors, in millivolts, by sensor (R395). -/
structure Sensors where
  field : Nat
  readings : List (Nat × Nat)
  deriving DecidableEq, Repr

/-- Whose a window access is that comes from outside the cores (R242): a management core's, which no access table checks; the host's on a
port, which carries the context that firmware has bound to the port (R378); or a peer's, which carries the peer-side context of its
connection (R382). The last two are the host's accesses to BAR 0 of a physical function and of a virtual one (R379, R394, R396). -/
inductive Master where
  | management
  | port (port : Nat)
  | peer (ctx : Nat)
  | physical
  | virtual (port ctx : Nat)
  deriving DecidableEq, Repr

/-- The unit a fault event is counted against (R389). -/
inductive HealthUnit where
  | registerFile (core quad : Nat)
  | coreStores (core : Nat)
  | matrixArray (core : Nat)
  | l1 (core : Nat)
  | clusterTlb (cluster : Nat)
  | l2Way (field way : Nat)
  | group (g : Nat)
  | hbm (field stack channel : Nat)
  deriving DecidableEq, Repr

/-- The data a fault event has lost, if any (R331): the warp against which the cause 0x180-0x186 is raised, and for a tile
the elements whose mark is set (R290). For cause 0x04B, `line` is a line of page-table nodes that can be read no more (R233). -/
structure LostData where
  core : Nat
  quad : Nat
  warp : Nat
  cause : Nat
  tile : Nat
  elements : List Nat
  line : Nat := 0
  deriving DecidableEq, Repr

/-- The events and the instruction words of the W2, one constructor per row of the opcode table. The events stand first: Lean's
compiler gives code only to the first 245 constructors that carry data, so definitions that build a later one (the decoder of
U-set words and what calls it) are marked noncomputable; the kernel evaluates them like any other. -/
inductive Instr where
  /-- WARP_SELECT (R119): A quadrant selects a ready warp at a run boundary and issues its run. -/
  | warpSelect (core quad : Nat)
  /-- LONG_LATENCY_COMPLETE (R30): A long-latency producer completes and clears its scoreboard entries. -/
  | longLatencyComplete (core quad warp seq : Nat)
  /-- ROTATION (R150): The progress counter reaching 65,536 clears every parked flag and picks the slot to give up. -/
  | rotation (core quad warp : Nat)
  /-- ROTATION_GIVE_UP (R150): At the slot's next run boundary its path goes to the ring bottom and the top entry enters. -/
  | rotationGiveUp (core quad warp : Nat)
  /-- JOIN_PROCEED (R129): A waiting creating JOIN proceeds once crew numbers and granules are free. -/
  | joinProceed (core quad warp slot : Nat)
  /-- CREW_RELEASE (R249): A crew left by its last member is released once no kick or TST/TLD names it. -/
  | crewRelease (core crew : Nat)
  /-- BIN_TIMER_EXPIRY (R127): A bin's timer expires and the bin becomes ready to launch whatever it holds. -/
  | binTimerExpiry (core bin : Nat)
  /-- BIN_LAUNCH (R123): A ready bin launches a warp of up to 32 threads once placement allows and refills from spill. -/
  | binLaunch (core bin : Nat)
  /-- LAUNCH_WARP_CREATE (R351): A launch warp is created on its core as placement allows. -/
  | launchWarpCreate (launch core : Nat)
  /-- WARP_END (R118): A warp with no threads ends once its operations complete and stores perform. -/
  | warpEnd (core quad warp : Nat)
  /-- SCRATCHPAD_ACCEPT (R171): The scratchpad accepts one warp access per non-reserved cycle by quadrant rotation. -/
  | scratchpadAccept (core : Nat)
  /-- WINDOW_ACCESS (R14): A window access arrives at its target core and is checked and performed per granule. -/
  | windowAccess (master : Master) (core off len : Nat) (wdata : Option (List (BitVec 8)))
  /-- MULTICAST_DELIVERY (R256): A broadcast-window write is delivered to every held member of the group. -/
  | multicastDelivery (k : Nat)
  /-- STORE_PERFORM (R202): A store leaves the store buffer and is performed at the L2 or after its GetM. -/
  | storePerform (core quad warp k : Nat)
  /-- DATA_ARRIVAL (R201): Line data arrives over the mesh and is merged, filling L1 sectors and performing waiting stores. -/
  | dataArrival (field line : Nat)
  /-- GETS (R197): A GetS message applied at its ordering point gives the requester a shared or exclusive copy. -/
  | gets (cluster bus : Nat)
  /-- GETM (R197): A GetM message applied at its ordering point gives the requester M and invalidates others. -/
  | getm (cluster bus : Nat)
  /-- PUT (R197): A Put message writes back an owner's dirty sectors and drops the line. -/
  | put (cluster bus : Nat)
  /-- CLEAN (R197): A Clean message writes the owner's dirty sectors to home memory. -/
  | clean (cluster bus : Nat)
  /-- DISC_MESSAGE (R208): A Disc message invalidates every copy and leaves the line undefined. -/
  | discMessage (cluster bus : Nat)
  /-- HGETS (R207): A host shared read of an HBM line is ordered and answered from memory. -/
  | hgets (port line : Nat)
  /-- HGETM (R207): A host exclusive read or write of an HBM line invalidates every device copy. -/
  | hgetm (port line : Nat) (wdata : Option (List (Nat × BitVec 8)))
  /-- SNPDATA (R206): A host SnpData snoop writes back dirty data and leaves shared copies. -/
  | snpdata (line : Nat)
  /-- SNPINV (R206): A host SnpInv snoop writes back dirty data and invalidates every copy. -/
  | snpinv (line : Nat)
  /-- SNPCUR (R206): A host SnpCur snoop writes back dirty data and leaves copies clean. -/
  | snpcur (line : Nat)
  /-- DEFERRED_FAULT_RAISE (R292): A fault found after issue is raised against the warp at a run boundary or wait. -/
  | deferredFaultRaise (core quad warp : Nat)
  /-- WATCHPOINT_REPORT (R339): Gathered watchpoint matches are reported as one trap at the next run boundary. -/
  | watchpointReport (core quad warp : Nat)
  /-- TRAP_RESUME (R335): A write of 1 to the trap window's resume bit checks, replays and resumes a halted warp. -/
  | trapResume (core quad warp : Nat)
  /-- LAUNCH_END_FOR_TRAP (R336): Firmware stops every warp of the launch, drains stores and writes the fault completion. -/
  | launchEndForTrap (launch : Nat)
  /-- PAGE_PULL_COMPLETE (R243): A migrating page pull succeeds, the page is mapped and waiting lanes re-issue. -/
  | pagePullComplete (k pa : Nat) (data : List (Nat × BitVec 8))
  /-- PAGE_PULL_TIMEOUT (R243): A pull fails or exceeds 2 ms and the page is poisoned. -/
  | pagePullTimeout (k : Nat)
  /-- MAP_MEMORY (R240): Map request op 0 maps fresh zeroed memory from the grant. -/
  | mapMemory (ctx pa : Nat)
  /-- UNMAP (R240): Map request op 1 unmaps every page of the range. -/
  | unmap (ctx : Nat)
  /-- PROTECT (R240): Map request op 2 sets R, W and X on every page of the range. -/
  | protect (ctx : Nat)
  /-- GRANT_FIRST_TOUCH (R240): Map request op 3 marks a range first-touch. -/
  | grantFirstTouch (ctx : Nat)
  /-- MIGRATE_IN (R240): Map request op 4 marks a range migrating from a bound peer. -/
  | migrateIn (ctx : Nat)
  /-- MAP_CORE_WINDOWS (R240): Map request op 5 maps windows of consecutive logical cores. -/
  | mapCoreWindows (ctx : Nat)
  /-- MAP_BROADCAST_WINDOW (R240): Map request op 6 maps a multicast group's broadcast window. -/
  | mapBroadcastWindow (ctx : Nat)
  /-- LADLE_REQUEST_START (R252): The Ladle reads a request record and starts it, or gives it a final status. -/
  | ladleRequestStart (core : Nat)
  /-- LADLE_SEGMENT_START (R253): A segment starts, charging Ladle budget and reading its source. -/
  | ladleSegmentStart (core : Nat)
  /-- LADLE_SEGMENT_LAND (R253): A segment's bytes land and its arrival is counted in order. -/
  | ladleSegmentLand (core seg : Nat)
  /-- PEER_ACK (R255): A peer acknowledges a performed segment. -/
  | peerAck (k : Nat)
  /-- PEER_ACK_TIMEOUT (R255): A peer segment unacknowledged after 2 ms sets status 0x87. -/
  | peerAckTimeout (k : Nat)
  /-- PEER_SEGMENT_RECEIVE (R381): A segment arriving from a peer is performed once and duplicates are discarded. -/
  | peerSegmentReceive (device : PeerLink) (ctx seqNo va : Nat) (data : List (BitVec 8))
  /-- MATRIX_ROW_LAND (R267): A streamed operand row lands in the span and advances row progress. -/
  | matrixRowLand (core op : Nat) (sideB : Bool)
  /-- MATRIX_COMPUTE_START (R275): The array's deficit round robin starts a startable queued operation and charges its cost. -/
  | matrixComputeStart (core : Nat)
  /-- MATRIX_OP_COMPLETE (R287): A matrix or tile operation finishes or faults and completes its ticket. -/
  | matrixOpComplete (core : Nat)
  /-- LREL_WAIT_END (R269): Operations issued before an LREL complete and the granules leave the reservation. -/
  | lrelWaitEnd (core quad warp slot : Nat)
  /-- NAP_END (R322): CYCLE reaches the nap's end and the warp becomes ready. -/
  | napEnd (core quad warp : Nat)
  /-- DRAIN_START (R312): At 2,000 ns before an edge the core stops issue and ends work in flight. -/
  | drainStart (core : Nat)
  /-- DRAIN_COMPLETE (R312): State is saved and cleared and the drain completes, with any overrun charged. -/
  | drainComplete (core : Nat)
  /-- SLICE_START (R314): At a slice start budgets reset and the incoming contexts are restored and released. -/
  | sliceStart (core : Nat)
  /-- SLOT_TABLE_INSTALL (R306): Firmware checks and installs a slot table at the end of the old cycle. -/
  | slotTableInstall (table : TableInstall)
  /-- TAIL_REREAD (R347): Loss of the tail line's copy makes the queue slot read the tail again. -/
  | tailReread (ctx queue : Nat)
  /-- QUEUE_QUANTUM (R348): At each 100 µs quantum firmware polls tails and rotates hardware queue slots. -/
  | queueQuantum (ctx : Nat)
  /-- LAUNCH_START (R352): A queued launch whose predecessor and dependence allow reads its record, checks it and starts. -/
  | launchStart (ctx queue : Nat)
  /-- LAUNCH_COMPLETE (R353): A complete launch writes its completion record, signal word and MSI-X. -/
  | launchComplete (launch : Nat)
  /-- CREW_SWAP_OUT (R363): A debugger hit swaps out the halted warp's crew once its warps stop. -/
  | crewSwapOut (core quad warp : Nat)
  /-- CREW_RESUME (R364): A swapped-out crew is restored once its former places are free. -/
  | crewResume (core k : Nat)
  /-- SAMPLER_TICK (R367): At each sampler period each quadrant samples its next candidate warp. -/
  | samplerTick (core : Nat)
  /-- SAMPLER_ENABLE (R367): Setting sampler control bit [0] enables sampling and fixes the tick origin. -/
  | samplerEnable (core : Nat)
  /-- DROPPED_COUNT_CLEAR (R366): A firmware write to the dropped count sets it to 0. -/
  | droppedCountClear (core : Nat)
  /-- REGISTER_WRITE (R13): A write to a register or record with no behaviour of its own stores or discards the value. -/
  | registerWrite (master : Master) (core off : Nat) (value : BitVec 64)
  /-- MIN_VOLTAGE_READ (R396): A read of a minimum-voltage record returns it and resets it. -/
  | minVoltageRead (field : Nat)
  /-- RESTART (R394): A write of 1 to the restart word in minimal mode starts the device again. -/
  | restart (value : BitVec 32)
  /-- REGISTER_QUEUE (R379): Mailbox command 0x01 registers a queue. -/
  | registerQueue (ctx : Mail) (desc : BitVec 512)
  /-- UNREGISTER_QUEUE (R379): Mailbox command 0x02 stops a queue after its current launch. -/
  | unregisterQueue (ctx : Mail) (queue : Nat)
  /-- OPEN_DEBUG_SESSION (R379): Mailbox command 0x03 enables comparators and swap-out for the context. -/
  | openDebugSession (ctx : Mail)
  /-- CLOSE_DEBUG_SESSION (R379): Mailbox command 0x04 clears comparators and resumes halted crews. -/
  | closeDebugSession (ctx : Mail)
  /-- DUMP (R371): Mailbox command 0x05 writes an encrypted dump of a halted context. -/
  | dump (ctx : Mail) (va len : Nat)
  /-- BIND_PEER (R382): Mailbox command 0x06 makes a connection to a peer context. -/
  | bindPeer (ctx : Mail) (device peerCtx : Nat)
  /-- UNBIND_PEER (R379): Mailbox command 0x07 closes a peer connection after its stores drain. -/
  | unbindPeer (ctx : Mail) (device : Nat)
  /-- INSTALL_TENANT_KEY (R387): Mailbox command 0x08 installs the tenant's dump key inside a secured session. -/
  | installTenantKey (ctx : Mail) (key : List (BitVec 8))
  /-- GET_MEASUREMENTS (R386): An SPDM GET_MEASUREMENTS request returns signed measurement evidence. -/
  | getMeasurements (function nonce : Nat)
  /-- DECODE_TABLE_LOAD (R34): Firmware verifies and loads a decode-table image into a slot. -/
  | decodeTableLoad (slot : Nat) (image : TableImage)
  /-- DEVICE_START (R394): The device starts, loads signed images and counts failed starts toward minimal mode. -/
  | deviceStart (report : StartReport)
  /-- START_TIMEOUT (R394): A start not finished within 60 s fails. -/
  | startTimeout
  /-- FAULT_EVENT (R390): A detected soft error, checksum disagreement or ring check failure is counted as transient or lasting. -/
  | faultEvent (unit : HealthUnit) (lost : Option LostData)
  /-- CORE_RETIRE (R392): A suspect core with no launch is retired and its name passes to a spare. -/
  | coreRetire (core : Nat)
  /-- GROUP_SWITCH (R393): At the announced switch frame receivers read a spare wavelength group. -/
  | groupSwitch (group : Nat)
  /-- SCAN_TEST (R388): An idle core receives a scan self-test slice. -/
  | scanTest (core : Nat) (failed : Bool)
  /-- STRETCH_START (R395): A sensor more than 40 mV below target stretches every core clock edge of the field. -/
  | stretchStart (field : Sensors)
  /-- STRETCH_END (R395): Every sensor within 30 mV of target ends clock stretching. -/
  | stretchEnd (field : Sensors)
  /-- PORT_DOWN (R376): A host port going down drops its host lines and fails outstanding accesses. -/
  | portDown (port : Nat)
  /-- PORT_UP (R376): A returning port reports lost dirty lines and waits for acknowledgement. -/
  | portUp (port : Nat)
  /-- LOST_LINES_ACK (R376): The host's acknowledgement lets host-region accesses resume on the port. -/
  | lostLinesAck (port : Nat)
  /-- HOST_RESPONSE (R205): The host's CXL response to a read made on the device's behalf, or to a back-invalidate snoop, arrives at the home field, which then answers the waiting bus message. -/
  | hostResponse (line : Nat) (data : List (Nat × BitVec 8))
  /-- LINK_DROPOUT (R384): A mesh link drops out and firmware removes forbidden turns, drains changed pairs and adds new turns. -/
  | linkDropout (link : Nat)
  /-- OPEN_CONTEXT (R377): The host opens a context through the physical function, creating its virtual function. -/
  | openContext (port ctx : Nat)
  /-- CLOSE_CONTEXT (R377): The host closes a context through the physical function, removing its virtual function and, for the tenant's last context, erasing the tenant key. -/
  | closeContext (port ctx : Nat)
  /-- NEW_LOWEST_READING (R396): A sensor reading below the field's recorded minimum updates the minimum-voltage record. -/
  | newLowestReading (field millivolts sensor : Nat)
  /-- PAGE_TAKE_COMPLETE (R245): Firmware completes a first-touch page take for PGTAKE or for a Ladle, matrix-stream or frame access, mapping the zeroed page. -/
  | pageTakeComplete (k pa : Nat)
  /-- PEER_CONNECTION_FAILURE (R382): An Amdador connection to a peer fails, making later peer requests and page pulls unreachable. -/
  | peerConnectionFailure (ctx device : Nat)
  /-- PEER_PULL_REQUEST (R243): A page pull from a peer device arrives and is served from the bound local context's VA. -/
  | peerPullRequest (device peerCtx va : Nat)
  /-- RUN_FETCH_COMPLETE (R119): A warp's next run finishes fetching, so the warp leaves the not-fetched state and may become ready. -/
  | runFetchComplete (core quad warp : Nat)
  /-- SECURED_SESSION (R379): An SPDM secured session is established with the device, within which a tenant key may be installed. -/
  | securedSession (ctx : Nat)
  /-- ADD (R93): Adds the two lane operands modulo 2^32 in each active lane. -/
  | add (d : BitVec 7) (a : BitVec 7) (b : BitVec 7)
  /-- SUB (R93): Subtracts operand b from operand a modulo 2^32 in each active lane. -/
  | sub (d : BitVec 7) (a : BitVec 7) (b : BitVec 7)
  /-- ADDI (R94): Adds the sign-extended 7-bit immediate to operand a in each active lane. -/
  | addi (d : BitVec 7) (a : BitVec 7) (i : BitVec 7)
  /-- MUL (R93): Writes the low 32 bits of the product of the lane operands. -/
  | mul (d : BitVec 7) (a : BitVec 7) (b : BitVec 7)
  /-- MULH_S (R93): Writes bits [63:32] of the signed product. -/
  | mulhS (d : BitVec 7) (a : BitVec 7) (b : BitVec 7)
  /-- MULH_Z (R93): Writes bits [63:32] of the unsigned product. -/
  | mulhZ (d : BitVec 7) (a : BitVec 7) (b : BitVec 7)
  /-- MAD (R93): Writes the low 32 bits of a times b plus the old destination. -/
  | mad (d : BitVec 7) (a : BitVec 7) (b : BitVec 7)
  /-- MIN_S (R93): Writes the signed minimum of the lane operands. -/
  | minS (d : BitVec 7) (a : BitVec 7) (b : BitVec 7)
  /-- MIN_Z (R93): Writes the unsigned minimum of the lane operands. -/
  | minZ (d : BitVec 7) (a : BitVec 7) (b : BitVec 7)
  /-- MAX_S (R93): Writes the signed maximum of the lane operands. -/
  | maxS (d : BitVec 7) (a : BitVec 7) (b : BitVec 7)
  /-- MAX_Z (R93): Writes the unsigned maximum of the lane operands. -/
  | maxZ (d : BitVec 7) (a : BitVec 7) (b : BitVec 7)
  /-- ABS (R93): Writes the absolute value of the signed operand, 0x8000_0000 giving itself. -/
  | abs (d : BitVec 7) (a : BitVec 7)
  /-- AND (R93): Writes the bitwise AND of the lane operands. -/
  | and (d : BitVec 7) (a : BitVec 7) (b : BitVec 7)
  /-- OR (R93): Writes the bitwise OR of the lane operands. -/
  | or (d : BitVec 7) (a : BitVec 7) (b : BitVec 7)
  /-- XOR (R93): Writes the bitwise XOR of the lane operands. -/
  | xor (d : BitVec 7) (a : BitVec 7) (b : BitVec 7)
  /-- ANDN (R93): Writes a AND NOT b in each active lane. -/
  | andn (d : BitVec 7) (a : BitVec 7) (b : BitVec 7)
  /-- ANDI (R94): ANDs operand a with the sign-extended immediate. -/
  | andi (d : BitVec 7) (a : BitVec 7) (i : BitVec 7)
  /-- ORI (R94): ORs operand a with the sign-extended immediate. -/
  | ori (d : BitVec 7) (a : BitVec 7) (i : BitVec 7)
  /-- XORI (R94): XORs operand a with the sign-extended immediate. -/
  | xori (d : BitVec 7) (a : BitVec 7) (i : BitVec 7)
  /-- SHL (R95): Shifts a left by b mod 256, giving 0 for counts of 32 or more. -/
  | shl (d : BitVec 7) (a : BitVec 7) (b : BitVec 7)
  /-- SHR (R95): Shifts a right logically by b mod 256. -/
  | shr (d : BitVec 7) (a : BitVec 7) (b : BitVec 7)
  /-- SAR (R95): Shifts a right arithmetically by b mod 256. -/
  | sar (d : BitVec 7) (a : BitVec 7) (b : BitVec 7)
  /-- SHLI (R95): Shifts a left by an immediate count 0 to 31. -/
  | shli (d : BitVec 7) (a : BitVec 7) (n : BitVec 5)
  /-- SHRI (R95): Shifts a right logically by an immediate count 0 to 31. -/
  | shri (d : BitVec 7) (a : BitVec 7) (n : BitVec 5)
  /-- SARI (R95): Shifts a right arithmetically by an immediate count 0 to 31. -/
  | sari (d : BitVec 7) (a : BitVec 7) (n : BitVec 5)
  /-- ROTL (R95): Rotates a left by b mod 32. -/
  | rotl (d : BitVec 7) (a : BitVec 7) (b : BitVec 7)
  /-- POPC (R96): Writes the number of 1 bits of a. -/
  | popc (d : BitVec 7) (a : BitVec 7)
  /-- CLZ (R96): Writes the count of leading zero bits of a, 32 for zero. -/
  | clz (d : BitVec 7) (a : BitVec 7)
  /-- BREV (R96): Writes a with its bit order reversed. -/
  | brev (d : BitVec 7) (a : BitVec 7)
  /-- BFX_S (R97): Extracts a sign-extended bit field of a at the position and width held in b. -/
  | bfxS (d : BitVec 7) (a : BitVec 7) (b : BitVec 7)
  /-- BFX_Z (R97): Extracts a zero-extended bit field of a at the position and width held in b. -/
  | bfxZ (d : BitVec 7) (a : BitVec 7) (b : BitVec 7)
  /-- BFI (R97): Inserts the low bits of a into the destination at the field held in b. -/
  | bfi (d : BitVec 7) (a : BitVec 7) (b : BitVec 7)
  /-- ADD_D (R98): Adds two 64-bit even pairs modulo 2^64. -/
  | addD (d : BitVec 7) (a : BitVec 7) (b : BitVec 7)
  /-- SUB_D (R98): Subtracts two 64-bit even pairs modulo 2^64. -/
  | subD (d : BitVec 7) (a : BitVec 7) (b : BitVec 7)
  /-- MUL_D (R98): Multiplies two 64-bit even pairs modulo 2^64. -/
  | mulD (d : BitVec 7) (a : BitVec 7) (b : BitVec 7)
  /-- SHL_D (R98): Shifts a 64-bit pair left by a single-register count. -/
  | shlD (d : BitVec 7) (a : BitVec 7) (b : BitVec 7)
  /-- SHR_D (R98): Shifts a 64-bit pair right logically by a single-register count. -/
  | shrD (d : BitVec 7) (a : BitVec 7) (b : BitVec 7)
  /-- SAR_D (R98): Shifts a 64-bit pair right arithmetically by a single-register count. -/
  | sarD (d : BitVec 7) (a : BitVec 7) (b : BitVec 7)
  /-- CMP_EQ (R99): Writes a lane mask of lanes where a equals b. -/
  | cmpEq (d : BitVec 6) (a : BitVec 7) (b : BitVec 7)
  /-- CMP_NE (R99): Writes a lane mask of lanes where a differs from b. -/
  | cmpNe (d : BitVec 6) (a : BitVec 7) (b : BitVec 7)
  /-- CMP_LT_S (R99): Writes a lane mask of lanes where a is signed-less than b. -/
  | cmpLtS (d : BitVec 6) (a : BitVec 7) (b : BitVec 7)
  /-- CMP_LE_S (R99): Writes a lane mask of lanes where a is signed-less than or equal to b. -/
  | cmpLeS (d : BitVec 6) (a : BitVec 7) (b : BitVec 7)
  /-- CMP_LT_Z (R99): Writes a lane mask of lanes where a is unsigned-less than b. -/
  | cmpLtZ (d : BitVec 6) (a : BitVec 7) (b : BitVec 7)
  /-- CMP_LE_Z (R99): Writes a lane mask of lanes where a is unsigned-less than or equal to b. -/
  | cmpLeZ (d : BitVec 6) (a : BitVec 7) (b : BitVec 7)
  /-- CMPI_EQ (R99): Writes a lane mask of lanes where a equals the sign-extended immediate. -/
  | cmpiEq (d : BitVec 6) (a : BitVec 7) (i : BitVec 7)
  /-- CMPI_LT_S (R99): Writes a lane mask of lanes where a is signed-less than the immediate. -/
  | cmpiLtS (d : BitVec 6) (a : BitVec 7) (i : BitVec 7)
  /-- SEL (R100): Copies a into the destination in active lanes whose mask bit is set. -/
  | sel (d : BitVec 7) (a : BitVec 7) (b : BitVec 6)
  /-- DIV_S (R101): Divides signed 32-bit operands, truncating, with fixed results for zero divisors. -/
  | divS (d : BitVec 7) (a : BitVec 7) (b : BitVec 7)
  /-- DIV_Z (R101): Divides unsigned 32-bit operands with fixed results for zero divisors. -/
  | divZ (d : BitVec 7) (a : BitVec 7) (b : BitVec 7)
  /-- REM_S (R101): Writes the signed remainder taking the sign of the dividend. -/
  | remS (d : BitVec 7) (a : BitVec 7) (b : BitVec 7)
  /-- REM_Z (R101): Writes the unsigned remainder. -/
  | remZ (d : BitVec 7) (a : BitVec 7) (b : BitVec 7)
  /-- ADD_B (R93): Adds a uniform operand to each active lane's a. -/
  | addB (d : BitVec 7) (a : BitVec 7) (b : BitVec 6)
  /-- SUB_B (R93): Subtracts a uniform operand from each active lane's a. -/
  | subB (d : BitVec 7) (a : BitVec 7) (b : BitVec 6)
  /-- MUL_B (R93): Multiplies each active lane's a by a uniform operand. -/
  | mulB (d : BitVec 7) (a : BitVec 7) (b : BitVec 6)
  /-- MAD_B (R93): Multiply-adds with a uniform b operand into the destination. -/
  | madB (d : BitVec 7) (a : BitVec 7) (b : BitVec 6)
  /-- AND_B (R93): ANDs each active lane's a with a uniform operand. -/
  | andB (d : BitVec 7) (a : BitVec 7) (b : BitVec 6)
  /-- OR_B (R93): ORs each active lane's a with a uniform operand. -/
  | orB (d : BitVec 7) (a : BitVec 7) (b : BitVec 6)
  /-- XOR_B (R93): XORs each active lane's a with a uniform operand. -/
  | xorB (d : BitVec 7) (a : BitVec 7) (b : BitVec 6)
  /-- SHL_B (R95): Shifts each active lane's a left by a uniform count. -/
  | shlB (d : BitVec 7) (a : BitVec 7) (b : BitVec 6)
  /-- SHR_B (R95): Shifts each active lane's a right logically by a uniform count. -/
  | shrB (d : BitVec 7) (a : BitVec 7) (b : BitVec 6)
  /-- CMP_EQ_B (R99): Writes a lane mask of lanes whose a equals a uniform operand. -/
  | cmpEqB (d : BitVec 6) (a : BitVec 7) (b : BitVec 6)
  /-- CMP_LT_S_B (R99): Writes a lane mask of lanes whose a is signed-less than a uniform operand. -/
  | cmpLtSB (d : BitVec 6) (a : BitVec 7) (b : BitVec 6)
  /-- FADD (R106): Adds FP32 operands with one rounding under the captured mode. -/
  | fadd (d : BitVec 7) (a : BitVec 7) (b : BitVec 7)
  /-- FSUB (R106): Subtracts FP32 operands with one rounding. -/
  | fsub (d : BitVec 7) (a : BitVec 7) (b : BitVec 7)
  /-- FMUL (R106): Multiplies FP32 operands with one rounding. -/
  | fmul (d : BitVec 7) (a : BitVec 7) (b : BitVec 7)
  /-- FFMA (R106): Computes a times b plus the destination with a single FP32 rounding. -/
  | ffma (d : BitVec 7) (a : BitVec 7) (b : BitVec 7)
  /-- FMIN (R106): Writes the smaller FP32 operand, NaN-avoiding, with −0 below +0. -/
  | fmin (d : BitVec 7) (a : BitVec 7) (b : BitVec 7)
  /-- FMAX (R106): Writes the larger FP32 operand, NaN-avoiding. -/
  | fmax (d : BitVec 7) (a : BitVec 7) (b : BitVec 7)
  /-- FABS (R107): Clears the sign bit of the operand. -/
  | fabs (d : BitVec 7) (a : BitVec 7)
  /-- FNEG (R107): Inverts the sign bit of the operand. -/
  | fneg (d : BitVec 7) (a : BitVec 7)
  /-- FCMP_EQ (R108): Writes a mask of lanes where the FP32 operands are equal. -/
  | fcmpEq (d : BitVec 6) (a : BitVec 7) (b : BitVec 7)
  /-- FCMP_LT (R108): Writes a mask of lanes where FP32 a is less than b. -/
  | fcmpLt (d : BitVec 6) (a : BitVec 7) (b : BitVec 7)
  /-- FCMP_LE (R108): Writes a mask of lanes where FP32 a is less than or equal to b. -/
  | fcmpLe (d : BitVec 6) (a : BitVec 7) (b : BitVec 7)
  /-- FCMP_UN (R108): Writes a mask of lanes where either FP32 operand is a NaN. -/
  | fcmpUn (d : BitVec 6) (a : BitVec 7) (b : BitVec 7)
  /-- FRCP (R109): Writes the correctly rounded FP32 reciprocal. -/
  | frcp (d : BitVec 7) (a : BitVec 7)
  /-- FRSQ (R109): Writes the correctly rounded FP32 reciprocal square root. -/
  | frsq (d : BitVec 7) (a : BitVec 7)
  /-- FSQRT (R109): Writes the correctly rounded FP32 square root. -/
  | fsqrt (d : BitVec 7) (a : BitVec 7)
  /-- FDIV (R106): Divides FP32 operands with one rounding. -/
  | fdiv (d : BitVec 7) (a : BitVec 7) (b : BitVec 7)
  /-- FEX2 (R110): Writes an approximation of 2^a. -/
  | fex2 (d : BitVec 7) (a : BitVec 7)
  /-- FLG2 (R110): Writes an approximation of log2 a. -/
  | flg2 (d : BitVec 7) (a : BitVec 7)
  /-- FSIN (R110): Writes an approximation of sin a. -/
  | fsin (d : BitVec 7) (a : BitVec 7)
  /-- FCOS (R110): Writes an approximation of cos a. -/
  | fcos (d : BitVec 7) (a : BitVec 7)
  /-- FADD_B (R106): Adds a uniform FP32 operand to each active lane's a. -/
  | faddB (d : BitVec 7) (a : BitVec 7) (b : BitVec 6)
  /-- FMUL_B (R106): Multiplies each active lane's a by a uniform FP32 operand. -/
  | fmulB (d : BitVec 7) (a : BitVec 7) (b : BitVec 6)
  /-- FFMA_B (R106): Fused multiply-add with a uniform b operand. -/
  | ffmaB (d : BitVec 7) (a : BitVec 7) (b : BitVec 6)
  /-- DADD (R111): Adds FP64 pairs with one rounding. -/
  | dadd (d : BitVec 7) (a : BitVec 7) (b : BitVec 7)
  /-- DSUB (R111): Subtracts FP64 pairs with one rounding. -/
  | dsub (d : BitVec 7) (a : BitVec 7) (b : BitVec 7)
  /-- DMUL (R111): Multiplies FP64 pairs with one rounding. -/
  | dmul (d : BitVec 7) (a : BitVec 7) (b : BitVec 7)
  /-- DFMA (R111): Fused FP64 multiply-add into the destination pair. -/
  | dfma (d : BitVec 7) (a : BitVec 7) (b : BitVec 7)
  /-- DDIV (R111): Divides FP64 pairs with one rounding. -/
  | ddiv (d : BitVec 7) (a : BitVec 7) (b : BitVec 7)
  /-- DSQRT (R111): Writes the FP64 square root. -/
  | dsqrt (d : BitVec 7) (a : BitVec 7)
  /-- DCMP_EQ (R111): Writes a mask of lanes where the FP64 pairs are equal. -/
  | dcmpEq (d : BitVec 6) (a : BitVec 7) (b : BitVec 7)
  /-- DCMP_LT (R111): Writes a mask of lanes where FP64 a is less than b. -/
  | dcmpLt (d : BitVec 6) (a : BitVec 7) (b : BitVec 7)
  /-- DCMP_LE (R111): Writes a mask of lanes where FP64 a is less than or equal to b. -/
  | dcmpLe (d : BitVec 6) (a : BitVec 7) (b : BitVec 7)
  /-- FADD_F16X2 (R112): Adds two FP16 element pairs independently. -/
  | faddF16x2 (d : BitVec 7) (a : BitVec 7) (b : BitVec 7)
  /-- FMUL_F16X2 (R112): Multiplies two FP16 element pairs independently. -/
  | fmulF16x2 (d : BitVec 7) (a : BitVec 7) (b : BitVec 7)
  /-- FFMA_F16X2 (R112): Fused multiply-adds two FP16 element pairs independently. -/
  | ffmaF16x2 (d : BitVec 7) (a : BitVec 7) (b : BitVec 7)
  /-- CVT_F32_S32 (R113): Converts a signed 32-bit integer to FP32 with rounding. -/
  | cvtF32S32 (d : BitVec 7) (a : BitVec 7)
  /-- CVT_F32_Z32 (R113): Converts an unsigned 32-bit integer to FP32 with rounding. -/
  | cvtF32Z32 (d : BitVec 7) (a : BitVec 7)
  /-- CVT_S32_F32 (R113): Converts FP32 to signed 32-bit, truncating and saturating. -/
  | cvtS32F32 (d : BitVec 7) (a : BitVec 7)
  /-- CVT_Z32_F32 (R113): Converts FP32 to unsigned 32-bit, truncating and saturating. -/
  | cvtZ32F32 (d : BitVec 7) (a : BitVec 7)
  /-- CVT_F64_F32 (R113): Converts FP32 exactly to an FP64 pair. -/
  | cvtF64F32 (d : BitVec 7) (a : BitVec 7)
  /-- CVT_F32_F64 (R113): Converts an FP64 pair to FP32 with rounding. -/
  | cvtF32F64 (d : BitVec 7) (a : BitVec 7)
  /-- CVT_F64_S32 (R113): Converts a signed 32-bit integer exactly to FP64. -/
  | cvtF64S32 (d : BitVec 7) (a : BitVec 7)
  /-- CVT_S32_F64 (R113): Converts an FP64 pair to signed 32-bit, truncating and saturating. -/
  | cvtS32F64 (d : BitVec 7) (a : BitVec 7)
  /-- CVT_F16X2_F32 (R113): Packs two FP32 values rounded to FP16 into one register. -/
  | cvtF16x2F32 (d : BitVec 7) (a : BitVec 7) (b : BitVec 7)
  /-- CVT_F32_F16 (R113): Converts FP16 element h of a exactly to FP32. -/
  | cvtF32F16 (d : BitVec 7) (a : BitVec 7) (h : BitVec 1)
  /-- CVT_BF16X2_F32 (R113): Packs two FP32 values rounded to BF16 into one register. -/
  | cvtBf16x2F32 (d : BitVec 7) (a : BitVec 7) (b : BitVec 7)
  /-- CVT_F32_BF16 (R113): Converts BF16 element h of a exactly to FP32. -/
  | cvtF32Bf16 (d : BitVec 7) (a : BitVec 7) (h : BitVec 1)
  /-- CVT_E4X2_F32 (R113): Packs two FP32 values rounded to E4M3 into the low half. -/
  | cvtE4x2F32 (d : BitVec 7) (a : BitVec 7) (b : BitVec 7)
  /-- CVT_E5X2_F32 (R113): Packs two FP32 values rounded to E5M2 into the low half. -/
  | cvtE5x2F32 (d : BitVec 7) (a : BitVec 7) (b : BitVec 7)
  /-- CVT_F32_E4 (R113): Converts E4M3 byte n of a exactly to FP32. -/
  | cvtF32E4 (d : BitVec 7) (a : BitVec 7) (n : BitVec 2)
  /-- CVT_F32_E5 (R113): Converts E5M2 byte n of a exactly to FP32. -/
  | cvtF32E5 (d : BitVec 7) (a : BitVec 7) (n : BitVec 2)
  /-- MOV (R84): Copies a lane register in each active lane. -/
  | mov (d : BitVec 7) (a : BitVec 7)
  /-- MOV_D (R84): Copies a lane register pair in each active lane. -/
  | movD (d : BitVec 7) (a : BitVec 7)
  /-- MOVI (R85): Writes a sign-extended 14-bit constant to each active lane. -/
  | movi (d : BitVec 7) (i : BitVec 14)
  /-- MOVH (R85): Shifts the destination left 14 bits and inserts a 14-bit constant. -/
  | movh (d : BitVec 7) (i : BitVec 14)
  /-- MOV_B (R84): Copies a uniform register into each active lane. -/
  | movB (d : BitVec 7) (a : BitVec 6)
  /-- SETX (R86): Writes each active lane's index register from a mod 256. -/
  | setx (a : BitVec 7)
  /-- SETXI (R86): Writes each active lane's index register from an immediate 0 to 255. -/
  | setxi (i : BitVec 8)
  /-- MOVX_G (R86): Reads the lane register indexed by vx plus an offset into d. -/
  | movxG (d : BitVec 7) (i : BitVec 7)
  /-- MOVX_P (R86): Writes a into the lane register indexed by vx plus an offset. -/
  | movxP (a : BitVec 7) (i : BitVec 7)
  /-- RDS (R87): Reads a system register into each active lane. -/
  | rds (d : BitVec 7) (n : BitVec 14)
  /-- BRV (R162): Lane branch on a mask that splits the path under R144. -/
  | brv (m : BitVec 6) (o : BitVec 15)
  /-- BRC (R162): Compacting lane branch that waits for the crew and runs the Mangle. -/
  | brc (m : BitVec 6) (o : BitVec 15)
  /-- JMPI (R163): Transfers each lane to its own LAND-headed target from a lane pair. -/
  | jmpi (a : BitVec 7)
  /-- CALLI (R163): Calls a per-lane LAND-headed target, writing return frames. -/
  | calli (a : BitVec 7)
  /-- RET (R164): Returns each lane through its frame at the current depth. -/
  | ret
  /-- PICK_LANE (R166): Copies v[a] from the virtual lane selected per lane by v[b]. -/
  | pickLane (d : BitVec 7) (a : BitVec 7) (b : BitVec 7)
  /-- PICK_FLIP (R166): Copies v[a] from lane l XOR n. -/
  | pickFlip (d : BitVec 7) (a : BitVec 7) (n : BitVec 5)
  /-- PICK_LO (R166): Copies v[a] from lane l minus n. -/
  | pickLo (d : BitVec 7) (a : BitVec 7) (n : BitVec 5)
  /-- PICK_HI (R166): Copies v[a] from lane l plus n. -/
  | pickHi (d : BitVec 7) (a : BitVec 7) (n : BitVec 5)
  /-- PICK_SEAT (R166): Copies v[a] from the lane holding the seat selected by v[b]. -/
  | pickSeat (d : BitVec 7) (a : BitVec 7) (b : BitVec 7)
  /-- VOTE_ANY (R167): Writes 1 if some active lane has a non-zero v[a]. -/
  | voteAny (d : BitVec 6) (a : BitVec 7)
  /-- VOTE_ALL (R167): Writes 1 if every active lane has a non-zero v[a]. -/
  | voteAll (d : BitVec 6) (a : BitVec 7)
  /-- VOTE_BAL (R167): Writes the ballot mask of active lanes with non-zero v[a]. -/
  | voteBal (d : BitVec 6) (a : BitVec 7)
  /-- LDS_8 (R182): Loads a zero-extended scratchpad byte per lane. -/
  | lds8 (d : BitVec 7) (a : BitVec 7) (l : BitVec 4) (k : BitVec 3)
  /-- LDS_8S (R182): Loads a sign-extended scratchpad byte per lane. -/
  | lds8s (d : BitVec 7) (a : BitVec 7) (l : BitVec 4) (k : BitVec 3)
  /-- LDS_16 (R182): Loads a zero-extended scratchpad halfword per lane. -/
  | lds16 (d : BitVec 7) (a : BitVec 7) (l : BitVec 4) (k : BitVec 3)
  /-- LDS_16S (R182): Loads a sign-extended scratchpad halfword per lane. -/
  | lds16s (d : BitVec 7) (a : BitVec 7) (l : BitVec 4) (k : BitVec 3)
  /-- LDS_32 (R182): Loads a scratchpad word per lane. -/
  | lds32 (d : BitVec 7) (a : BitVec 7) (l : BitVec 4) (k : BitVec 3)
  /-- LDS_64 (R182): Loads a scratchpad doubleword into a pair per lane. -/
  | lds64 (d : BitVec 7) (a : BitVec 7) (l : BitVec 4) (k : BitVec 3)
  /-- LDS_128 (R182): Loads 16 scratchpad bytes into a quad per lane. -/
  | lds128 (d : BitVec 7) (a : BitVec 7) (l : BitVec 4) (k : BitVec 3)
  /-- STS_8 (R182): Stores the low byte of each lane to the scratchpad. -/
  | sts8 (d : BitVec 7) (a : BitVec 7) (l : BitVec 4) (k : BitVec 3)
  /-- STS_16 (R182): Stores the low halfword of each lane to the scratchpad. -/
  | sts16 (d : BitVec 7) (a : BitVec 7) (l : BitVec 4) (k : BitVec 3)
  /-- STS_32 (R182): Stores a word per lane to the scratchpad. -/
  | sts32 (d : BitVec 7) (a : BitVec 7) (l : BitVec 4) (k : BitVec 3)
  /-- STS_64 (R182): Stores a pair per lane to the scratchpad. -/
  | sts64 (d : BitVec 7) (a : BitVec 7) (l : BitVec 4) (k : BitVec 3)
  /-- STS_128 (R182): Stores a quad per lane to the scratchpad. -/
  | sts128 (d : BitVec 7) (a : BitVec 7) (l : BitVec 4) (k : BitVec 3)
  /-- ATS_ADD (R183): Scratchpad atomic add returning the old word, lanes in ascending order. -/
  | atsAdd (d : BitVec 7) (a : BitVec 7) (l : BitVec 4) (k : BitVec 3)
  /-- ATS_MIN_S (R183): Scratchpad atomic signed minimum. -/
  | atsMinS (d : BitVec 7) (a : BitVec 7) (l : BitVec 4) (k : BitVec 3)
  /-- ATS_MAX_S (R183): Scratchpad atomic signed maximum. -/
  | atsMaxS (d : BitVec 7) (a : BitVec 7) (l : BitVec 4) (k : BitVec 3)
  /-- ATS_MIN_Z (R183): Scratchpad atomic unsigned minimum. -/
  | atsMinZ (d : BitVec 7) (a : BitVec 7) (l : BitVec 4) (k : BitVec 3)
  /-- ATS_MAX_Z (R183): Scratchpad atomic unsigned maximum. -/
  | atsMaxZ (d : BitVec 7) (a : BitVec 7) (l : BitVec 4) (k : BitVec 3)
  /-- ATS_AND (R183): Scratchpad atomic AND. -/
  | atsAnd (d : BitVec 7) (a : BitVec 7) (l : BitVec 4) (k : BitVec 3)
  /-- ATS_OR (R183): Scratchpad atomic OR. -/
  | atsOr (d : BitVec 7) (a : BitVec 7) (l : BitVec 4) (k : BitVec 3)
  /-- ATS_XOR (R183): Scratchpad atomic XOR. -/
  | atsXor (d : BitVec 7) (a : BitVec 7) (l : BitVec 4) (k : BitVec 3)
  /-- ATS_XCHG (R183): Scratchpad atomic exchange. -/
  | atsXchg (d : BitVec 7) (a : BitVec 7) (l : BitVec 4) (k : BitVec 3)
  /-- ATS_CAS (R183): Scratchpad atomic compare-and-swap on a pair operand. -/
  | atsCas (d : BitVec 7) (a : BitVec 7) (l : BitVec 4) (k : BitVec 3)
  /-- ARSET (R184): Arms an arrival word with a target, clearing count and flags. -/
  | arset (d : BitVec 7) (a : BitVec 7) (l : BitVec 4) (k : BitVec 3)
  /-- ARADD (R184): Makes an arrival of v[d] on an arrival word, returning the old count. -/
  | aradd (d : BitVec 7) (a : BitVec 7) (l : BitVec 4) (k : BitVec 3)
  /-- ARWAIT (R185): Waits until an arrival word's generation passes each lane's value. -/
  | arwait (d : BitVec 7) (a : BitVec 7) (l : BitVec 4) (k : BitVec 3)
  /-- ARPOLL (R185): Reads an arrival word's generation with acquire. -/
  | arpoll (d : BitVec 7) (a : BitVec 7) (l : BitVec 4) (k : BitVec 3)
  /-- LD_8 (R210): Plain load of a zero-extended byte per lane. -/
  | ld8 (d : BitVec 7) (a : BitVec 7) (l : BitVec 4) (k : BitVec 3)
  /-- LD_8S (R210): Plain load of a sign-extended byte per lane. -/
  | ld8s (d : BitVec 7) (a : BitVec 7) (l : BitVec 4) (k : BitVec 3)
  /-- LD_16 (R210): Plain load of a zero-extended halfword per lane. -/
  | ld16 (d : BitVec 7) (a : BitVec 7) (l : BitVec 4) (k : BitVec 3)
  /-- LD_16S (R210): Plain load of a sign-extended halfword per lane. -/
  | ld16s (d : BitVec 7) (a : BitVec 7) (l : BitVec 4) (k : BitVec 3)
  /-- LD_32 (R210): Plain load of a word per lane. -/
  | ld32 (d : BitVec 7) (a : BitVec 7) (l : BitVec 4) (k : BitVec 3)
  /-- LD_64 (R210): Plain load of a doubleword into a pair per lane. -/
  | ld64 (d : BitVec 7) (a : BitVec 7) (l : BitVec 4) (k : BitVec 3)
  /-- LD_128 (R210): Plain load of 16 bytes into a quad per lane. -/
  | ld128 (d : BitVec 7) (a : BitVec 7) (l : BitVec 4) (k : BitVec 3)
  /-- ST_8 (R210): Plain store of a byte per lane into the store buffer. -/
  | st8 (d : BitVec 7) (a : BitVec 7) (l : BitVec 4) (k : BitVec 3)
  /-- ST_16 (R210): Plain store of a halfword per lane. -/
  | st16 (d : BitVec 7) (a : BitVec 7) (l : BitVec 4) (k : BitVec 3)
  /-- ST_32 (R210): Plain store of a word per lane. -/
  | st32 (d : BitVec 7) (a : BitVec 7) (l : BitVec 4) (k : BitVec 3)
  /-- ST_64 (R210): Plain store of a pair per lane. -/
  | st64 (d : BitVec 7) (a : BitVec 7) (l : BitVec 4) (k : BitVec 3)
  /-- ST_128 (R210): Plain store of a quad per lane. -/
  | st128 (d : BitVec 7) (a : BitVec 7) (l : BitVec 4) (k : BitVec 3)
  /-- LD_32_V (R211): Volatile word load read once at the L2, never forwarded. -/
  | ld32V (d : BitVec 7) (a : BitVec 7) (l : BitVec 4) (k : BitVec 3)
  /-- LD_64_V (R211): Volatile doubleword load. -/
  | ld64V (d : BitVec 7) (a : BitVec 7) (l : BitVec 4) (k : BitVec 3)
  /-- ST_32_V (R211): Volatile word store performed exactly once. -/
  | st32V (d : BitVec 7) (a : BitVec 7) (l : BitVec 4) (k : BitVec 3)
  /-- ST_64_V (R211): Volatile doubleword store. -/
  | st64V (d : BitVec 7) (a : BitVec 7) (l : BitVec 4) (k : BitVec 3)
  /-- LD_32_ACQ (R210): Word load with acquire ordering. -/
  | ld32Acq (d : BitVec 7) (a : BitVec 7) (l : BitVec 4) (k : BitVec 3)
  /-- LD_64_ACQ (R210): Doubleword load with acquire ordering. -/
  | ld64Acq (d : BitVec 7) (a : BitVec 7) (l : BitVec 4) (k : BitVec 3)
  /-- ST_32_REL (R210): Word store with release ordering. -/
  | st32Rel (d : BitVec 7) (a : BitVec 7) (l : BitVec 4) (k : BitVec 3)
  /-- ST_64_REL (R210): Doubleword store with release ordering. -/
  | st64Rel (d : BitVec 7) (a : BitVec 7) (l : BitVec 4) (k : BitVec 3)
  /-- AT_ADD (R212): Memory atomic add at the L2 in M, returning the old value. -/
  | atAdd (d : BitVec 7) (a : BitVec 7) (l : BitVec 4) (k : BitVec 3)
  /-- AT_MIN_S (R212): Memory atomic signed minimum. -/
  | atMinS (d : BitVec 7) (a : BitVec 7) (l : BitVec 4) (k : BitVec 3)
  /-- AT_MAX_S (R212): Memory atomic signed maximum. -/
  | atMaxS (d : BitVec 7) (a : BitVec 7) (l : BitVec 4) (k : BitVec 3)
  /-- AT_MIN_Z (R212): Memory atomic unsigned minimum. -/
  | atMinZ (d : BitVec 7) (a : BitVec 7) (l : BitVec 4) (k : BitVec 3)
  /-- AT_MAX_Z (R212): Memory atomic unsigned maximum. -/
  | atMaxZ (d : BitVec 7) (a : BitVec 7) (l : BitVec 4) (k : BitVec 3)
  /-- AT_AND (R212): Memory atomic AND. -/
  | atAnd (d : BitVec 7) (a : BitVec 7) (l : BitVec 4) (k : BitVec 3)
  /-- AT_OR (R212): Memory atomic OR. -/
  | atOr (d : BitVec 7) (a : BitVec 7) (l : BitVec 4) (k : BitVec 3)
  /-- AT_XOR (R212): Memory atomic XOR. -/
  | atXor (d : BitVec 7) (a : BitVec 7) (l : BitVec 4) (k : BitVec 3)
  /-- AT_XCHG (R212): Memory atomic exchange. -/
  | atXchg (d : BitVec 7) (a : BitVec 7) (l : BitVec 4) (k : BitVec 3)
  /-- AT_CAS (R212): Memory atomic 32-bit compare-and-swap on a pair operand. -/
  | atCas (d : BitVec 7) (a : BitVec 7) (l : BitVec 4) (k : BitVec 3)
  /-- AT_INCW (R212): Memory atomic wrapping increment bounded by D. -/
  | atIncw (d : BitVec 7) (a : BitVec 7) (l : BitVec 4) (k : BitVec 3)
  /-- AT_ADD_D (R212): Memory atomic 64-bit add. -/
  | atAddD (d : BitVec 7) (a : BitVec 7) (l : BitVec 4) (k : BitVec 3)
  /-- AT_XCHG_D (R212): Memory atomic 64-bit exchange. -/
  | atXchgD (d : BitVec 7) (a : BitVec 7) (l : BitVec 4) (k : BitVec 3)
  /-- AT_CAS_D (R212): Memory atomic 64-bit compare-and-swap on a quad operand. -/
  | atCasD (d : BitVec 7) (a : BitVec 7) (l : BitVec 4) (k : BitVec 3)
  /-- PREF (R213): Prefetches the line's sector into the L1, dropping failing lanes. -/
  | pref (a : BitVec 7) (l : BitVec 4) (k : BitVec 3)
  /-- WBL (R213): Posts Clean and completes when home memory holds every earlier dirty sector. -/
  | wbl (a : BitVec 7) (l : BitVec 4) (k : BitVec 3)
  /-- DISC (R213): Posts Disc, declaring the line dead, and completes at its ordering point. -/
  | disc (a : BitVec 7) (l : BitVec 4) (k : BitVec 3)
  /-- FENCE (R230): Orders earlier reads and writes before later ones within a scope. -/
  | fence (n : BitVec 3)
  /-- FENCE_ACQ (R230): Orders earlier reads before later accesses within a scope. -/
  | fenceAcq (n : BitVec 3)
  /-- FENCE_REL (R230): Orders earlier accesses before later writes within a scope. -/
  | fenceRel (n : BitVec 3)
  /-- SPAWN (R136): Deposits a new thread per active lane into a spawn bin with payload. -/
  | spawn (d : BitVec 7) (a : BitVec 7) (p : BitVec 4)
  /-- EXIT (R137): Ends the threads of EM, leaving their crews. -/
  | exit
  /-- JOIN (R138): Enters or creates the crew of a key, giving each lane the lowest free seat. -/
  | join (d : BitVec 7) (a : BitVec 7)
  /-- LEAVE (R138): Frees each member lane's seat and invalidates its remap entry. -/
  | leave
  /-- BAR (R139): Arrives at the crew barrier and waits for the phase to complete. -/
  | bar
  /-- BARA (R139): Arrives at the crew barrier without waiting, returning the phase. -/
  | bara (d : BitVec 7)
  /-- BARW (R139): Waits until the crew barrier phase passes each lane's value. -/
  | barw (a : BitVec 7)
  /-- HAMP (R136): Deposits the calling threads under a sort key and ends their current life. -/
  | hamp (d : BitVec 7) (a : BitVec 7) (p : BitVec 4)
  /-- LRES (R276): Reserves a Larder span and returns a handle or a failure code. -/
  | lres (d : BitVec 7) (a : BitVec 7) (b : BitVec 7)
  /-- LREL (R277): Releases a Larder reservation after pending operations on it complete. -/
  | lrel (a : BitVec 7)
  /-- LBIND (R278): Binds or unbinds a reservation to a backing VA and stride. -/
  | lbind (a : BitVec 7) (b : BitVec 7)
  /-- PRSET (R279): Writes a precision register from the lowest active lane. -/
  | prset (n : BitVec 3) (a : BitVec 7)
  /-- PRGET (R279): Reads a precision register into every active lane. -/
  | prget (d : BitVec 7) (n : BitVec 3)
  /-- OPRDY (R271): Waits until observed writes to this core's Larder and scratchpad have landed. -/
  | oprdy
  /-- TZERO (R295): Queues an operation that clears a tile. -/
  | tzero (n : BitVec 3)
  /-- MMA (R296): Queues one matrix step into a tile and returns a ticket. -/
  | mma (d : BitVec 7) (t : BitVec 3) (x : BitVec 4) (y : BitVec 4)
  /-- MMAP (R296): Queues one paired matrix step across leader and follower cores. -/
  | mmap (d : BitVec 7) (t : BitVec 3) (x : BitVec 4) (y : BitVec 4)
  /-- MWAIT (R297): Waits for a ticket's operation to complete, then acquires. -/
  | mwait (a : BitVec 7)
  /-- TST (R298): Queues a conversion of tile rows out to a location. -/
  | tst (d : BitVec 7) (t : BitVec 3) (f : BitVec 4) (b : BitVec 7)
  /-- TLD (R298): Queues a load of tile rows from a location. -/
  | tld (d : BitVec 7) (t : BitVec 3) (f : BitVec 4) (b : BitVec 7)
  /-- TNORM (R295): Queues a renormalisation of a tile to the finest safe exponent. -/
  | tnorm (n : BitVec 3)
  /-- TEXP (R299): Waits for earlier tile operations and reads the tile exponent. -/
  | texp (d : BitVec 7) (t : BitVec 3)
  /-- TCHK (R299): Verifies a tile's stored row and column sums. -/
  | tchk (d : BitVec 7) (t : BitVec 3)
  /-- SADD (R102): Adds two uniform registers. -/
  | sadd (d : BitVec 6) (a : BitVec 6) (b : BitVec 6)
  /-- SSUB (R102): Subtracts two uniform registers. -/
  | ssub (d : BitVec 6) (a : BitVec 6) (b : BitVec 6)
  /-- SADDI (R102): Adds a sign-extended 9-bit immediate to a uniform register. -/
  | saddi (d : BitVec 6) (a : BitVec 6) (i : BitVec 9)
  /-- SMUL (R102): Uniform low 32-bit product. -/
  | smul (d : BitVec 6) (a : BitVec 6) (b : BitVec 6)
  /-- SMULH_S (R102): Uniform signed high product. -/
  | smulhS (d : BitVec 6) (a : BitVec 6) (b : BitVec 6)
  /-- SMULH_Z (R102): Uniform unsigned high product. -/
  | smulhZ (d : BitVec 6) (a : BitVec 6) (b : BitVec 6)
  /-- SMIN_S (R102): Uniform signed minimum. -/
  | sminS (d : BitVec 6) (a : BitVec 6) (b : BitVec 6)
  /-- SMAX_S (R102): Uniform signed maximum. -/
  | smaxS (d : BitVec 6) (a : BitVec 6) (b : BitVec 6)
  /-- SMIN_Z (R102): Uniform unsigned minimum. -/
  | sminZ (d : BitVec 6) (a : BitVec 6) (b : BitVec 6)
  /-- SMAX_Z (R102): Uniform unsigned maximum. -/
  | smaxZ (d : BitVec 6) (a : BitVec 6) (b : BitVec 6)
  /-- SAND (R102): Uniform bitwise AND. -/
  | sand (d : BitVec 6) (a : BitVec 6) (b : BitVec 6)
  /-- SOR (R102): Uniform bitwise OR. -/
  | sor (d : BitVec 6) (a : BitVec 6) (b : BitVec 6)
  /-- SXOR (R102): Uniform bitwise XOR. -/
  | sxor (d : BitVec 6) (a : BitVec 6) (b : BitVec 6)
  /-- SANDN (R102): Uniform a AND NOT b. -/
  | sandn (d : BitVec 6) (a : BitVec 6) (b : BitVec 6)
  /-- SANDI (R102): Uniform AND with a sign-extended 9-bit immediate. -/
  | sandi (d : BitVec 6) (a : BitVec 6) (i : BitVec 9)
  /-- SORI (R102): Uniform OR with a sign-extended 9-bit immediate. -/
  | sori (d : BitVec 6) (a : BitVec 6) (i : BitVec 9)
  /-- SXORI (R102): Uniform XOR with a sign-extended 9-bit immediate. -/
  | sxori (d : BitVec 6) (a : BitVec 6) (i : BitVec 9)
  /-- SSHL (R102): Uniform left shift by a register count. -/
  | sshl (d : BitVec 6) (a : BitVec 6) (b : BitVec 6)
  /-- SSHR (R102): Uniform logical right shift by a register count. -/
  | sshr (d : BitVec 6) (a : BitVec 6) (b : BitVec 6)
  /-- SSAR (R102): Uniform arithmetic right shift by a register count. -/
  | ssar (d : BitVec 6) (a : BitVec 6) (b : BitVec 6)
  /-- SSHLI (R102): Uniform left shift by an immediate count. -/
  | sshli (d : BitVec 6) (a : BitVec 6) (n : BitVec 5)
  /-- SSHRI (R102): Uniform logical right shift by an immediate count. -/
  | sshri (d : BitVec 6) (a : BitVec 6) (n : BitVec 5)
  /-- SSARI (R102): Uniform arithmetic right shift by an immediate count. -/
  | ssari (d : BitVec 6) (a : BitVec 6) (n : BitVec 5)
  /-- SPOPC (R102): Uniform population count. -/
  | spopc (d : BitVec 6) (a : BitVec 6)
  /-- SCLZ (R102): Uniform count of leading zeros. -/
  | sclz (d : BitVec 6) (a : BitVec 6)
  /-- SFFS (R102): Writes the index of the lowest 1 bit, 32 for zero. -/
  | sffs (d : BitVec 6) (a : BitVec 6)
  /-- SBREV (R102): Uniform bit reversal. -/
  | sbrev (d : BitVec 6) (a : BitVec 6)
  /-- SBFX_Z (R102): Uniform zero-extended bit-field extract. -/
  | sbfxZ (d : BitVec 6) (a : BitVec 6) (b : BitVec 6)
  /-- SBFI (R102): Uniform bit-field insert into the destination. -/
  | sbfi (d : BitVec 6) (a : BitVec 6) (b : BitVec 6)
  /-- SADD_D (R102): Uniform 64-bit pair add. -/
  | saddD (d : BitVec 6) (a : BitVec 6) (b : BitVec 6)
  /-- SSUB_D (R102): Uniform 64-bit pair subtract. -/
  | ssubD (d : BitVec 6) (a : BitVec 6) (b : BitVec 6)
  /-- SCMP_EQ (R103): Writes 1 if two uniform registers are equal, else 0. -/
  | scmpEq (d : BitVec 6) (a : BitVec 6) (b : BitVec 6)
  /-- SCMP_NE (R103): Writes 1 if two uniform registers differ. -/
  | scmpNe (d : BitVec 6) (a : BitVec 6) (b : BitVec 6)
  /-- SCMP_LT_S (R103): Writes 1 if a is signed-less than b. -/
  | scmpLtS (d : BitVec 6) (a : BitVec 6) (b : BitVec 6)
  /-- SCMP_LE_S (R103): Writes 1 if a is signed-less than or equal to b. -/
  | scmpLeS (d : BitVec 6) (a : BitVec 6) (b : BitVec 6)
  /-- SCMP_LT_Z (R103): Writes 1 if a is unsigned-less than b. -/
  | scmpLtZ (d : BitVec 6) (a : BitVec 6) (b : BitVec 6)
  /-- SCMP_LE_Z (R103): Writes 1 if a is unsigned-less than or equal to b. -/
  | scmpLeZ (d : BitVec 6) (a : BitVec 6) (b : BitVec 6)
  /-- SSEL (R104): Selects a or b by a condition register s0–s7. -/
  | ssel (d : BitVec 6) (a : BitVec 6) (b : BitVec 6) (f : BitVec 3)
  /-- SDIV_Z (R102): Uniform unsigned division. -/
  | sdivZ (d : BitVec 6) (a : BitVec 6) (b : BitVec 6)
  /-- SREM_Z (R102): Uniform unsigned remainder. -/
  | sremZ (d : BitVec 6) (a : BitVec 6) (b : BitVec 6)
  /-- SMOV (R88): Copies a uniform register. -/
  | smov (d : BitVec 6) (a : BitVec 6)
  /-- SMOVI (R85): Writes a sign-extended 15-bit constant to a uniform register. -/
  | smovi (d : BitVec 6) (i : BitVec 15)
  /-- SMOVH (R85): Shifts a uniform register left 15 bits and inserts a constant. -/
  | smovh (d : BitVec 6) (i : BitVec 15)
  /-- SRDS (R87): Reads a uniform system register into a uniform register. -/
  | srds (d : BitVec 6) (n : BitVec 15)
  /-- SWRS (R87): Writes a system register such as FMODE, EM, CAUSE, EPC, EVA or FMASK. -/
  | swrs (d : BitVec 6) (n : BitVec 15)
  /-- SGETL (R88): Reads one virtual lane of a lane register into a uniform register. -/
  | sgetl (d : BitVec 6) (l : BitVec 5) (k : BitVec 7)
  /-- BRA (R161): Unconditional direct branch of the whole slot. -/
  | bra (o : BitVec 21)
  /-- BZ (R161): Branches the whole slot if a uniform register is zero. -/
  | bz (a : BitVec 6) (o : BitVec 15)
  /-- BNZ (R161): Branches the whole slot if a uniform register is non-zero. -/
  | bnz (a : BitVec 6) (o : BitVec 15)
  /-- BNEG (R161): Branches the whole slot if bit 31 of a uniform register is set. -/
  | bneg (a : BitVec 6) (o : BitVec 15)
  /-- CALL (R163): Direct call that increments depth and writes return frames. -/
  | call (o : BitVec 21)
  /-- CALLS (R163): Calls one LAND-headed target taken from a uniform pair. -/
  | calls (a : BitVec 6)
  /-- RETS (R164): U-set return through the lanes' frames. -/
  | rets
  /-- RCV (R149): Parks the slot at the reconvergence point and tries merges. -/
  | rcv
  /-- LAND (R165): Marks an indirect target; otherwise acts as NOP. -/
  | land
  /-- NOP (R165): Does nothing. -/
  | nop
  /-- SLD_32 (R214): Uniform word load. -/
  | sld32 (d : BitVec 6) (a : BitVec 6) (l : BitVec 4) (i : BitVec 5)
  /-- SLD_64 (R214): Uniform doubleword load into a pair. -/
  | sld64 (d : BitVec 6) (a : BitVec 6) (l : BitVec 4) (i : BitVec 5)
  /-- SST_32 (R214): Uniform word store. -/
  | sst32 (d : BitVec 6) (a : BitVec 6) (l : BitVec 4) (i : BitVec 5)
  /-- SST_64 (R214): Uniform doubleword store. -/
  | sst64 (d : BitVec 6) (a : BitVec 6) (l : BitVec 4) (i : BitVec 5)
  /-- SLD_32_V (R214): Uniform volatile word load. -/
  | sld32V (d : BitVec 6) (a : BitVec 6) (l : BitVec 4) (i : BitVec 5)
  /-- SST_32_V (R214): Uniform volatile word store. -/
  | sst32V (d : BitVec 6) (a : BitVec 6) (l : BitVec 4) (i : BitVec 5)
  /-- SAT_ADD (R214): Uniform atomic add returning the old value. -/
  | satAdd (d : BitVec 6) (a : BitVec 6) (l : BitVec 4) (i : BitVec 5)
  /-- SAT_CAS (R214): Uniform atomic compare-and-swap on a pair. -/
  | satCas (d : BitVec 6) (a : BitVec 6) (l : BitVec 4) (i : BitVec 5)
  /-- SFENCE (R230): Fence for the threads of EM and the warp's uniform stream. -/
  | sfence (n : BitVec 3)
  /-- CPK (R257): Queues a kick of Ladle request records from the crew span. -/
  | cpk (a : BitVec 6) (b : BitVec 6)
  /-- CPQ (R258): Reads free kick-queue entries and the warp's unfinished kicks. -/
  | cpq (d : BitVec 6)
  /-- PDRAIN (R259): Waits until every peer request of the warp's kicks is acknowledged or failed. -/
  | pdrain
  /-- YIELD (R319): Marks the warp yielded at its next run boundary. -/
  | yield
  /-- DONATE (R320): Gives the rest of the slice's budgets to a beneficiary or the pool. -/
  | donate (a : BitVec 6)
  /-- BUDGET (R321): Reads the time and budget fractions left in the slice. -/
  | budget (d : BitVec 6)
  /-- NAP (R322): Suspends the warp for s[a] cycles from its next run boundary. -/
  | nap (a : BitVec 6)
  /-- TRAP (R340): Raises cause 0x1C0 + n on the management-core path. -/
  | trap (n : BitVec 6)
  /-- BKPT (R341): Raises cause 0x00F for a debugger or resumes after it. -/
  | bkpt
  /-- SVC (R342): Requests a numbered firmware service. -/
  | svc (n : BitVec 15)
  /-- ERET (R343): Leaves the in-lane handler, re-issuing, redirecting or escalating. -/
  | eret
  /-- LAUNCH (R356): Issues a child launch from a record and returns its id. -/
  | launch (d : BitVec 6) (a : BitVec 6)
  /-- LWAIT (R357): Waits for a child launch's completion record, then acquires. -/
  | lwait (a : BitVec 6)
  /-- PROBE (R244): Reports the translation of an address without faulting. -/
  | probe (d : BitVec 6) (a : BitVec 6) (l : BitVec 4)
  /-- PGTAKE (R245): Supervisor take of a first-touch page from the launch's pool. -/
  | pgtake (d : BitVec 6) (a : BitVec 6)
  /-- MAPRQ (R246): Releases at system scope and posts map request records to firmware. -/
  | maprq (d : BitVec 6) (a : BitVec 6) (b : BitVec 6)
  /-- TRACE (R372): Writes a trace record with a tag and a value when enabled. -/
  | trace (d : BitVec 6) (t : BitVec 15)
  /-- TRAILER (R22): Closes a run, setting stop sites, flash points and awaits as its fields say. -/
  | trailer (s : BitVec 1) (f : BitVec 1) (a : BitVec 7) (b : BitVec 7)
  deriving DecidableEq, Repr

end Sys2Proof
end

