-- ==== Sys2Proof/Decode.lean ====
section
/-! DEFINITION. Decoding (R15-R20, R33-R38): from a 32-bit word, through a context's decode-table slot, to an instruction or a
named rejection; and the encoder of the same tables. -/
namespace Sys2Proof

/-- Bits [lo+n-1:lo] of a word (R2). -/
def fld (w : BitVec 32) (lo n : Nat) : BitVec n := w.extractLsb' lo n

/-- The set bit and OPC of a word, bits [31:21] (R15). -/
def opc11 (w : BitVec 32) : BitVec 11 := w.extractLsb' 21 11

/-- Words whose bits [31:26] are 0x00. -/
def decodeGroup00 (w : BitVec 32) : Option Instr :=
  if opc11 w = 0x000#11 then some (.add (fld w 14 7) (fld w 7 7) (fld w 0 7)) else
  if opc11 w = 0x001#11 then some (.sub (fld w 14 7) (fld w 7 7) (fld w 0 7)) else
  if opc11 w = 0x002#11 then some (.addi (fld w 14 7) (fld w 7 7) (fld w 0 7)) else
  if opc11 w = 0x003#11 then some (.mul (fld w 14 7) (fld w 7 7) (fld w 0 7)) else
  if opc11 w = 0x004#11 then some (.mulhS (fld w 14 7) (fld w 7 7) (fld w 0 7)) else
  if opc11 w = 0x005#11 then some (.mulhZ (fld w 14 7) (fld w 7 7) (fld w 0 7)) else
  if opc11 w = 0x006#11 then some (.mad (fld w 14 7) (fld w 7 7) (fld w 0 7)) else
  if opc11 w = 0x007#11 then some (.minS (fld w 14 7) (fld w 7 7) (fld w 0 7)) else
  if opc11 w = 0x008#11 then some (.minZ (fld w 14 7) (fld w 7 7) (fld w 0 7)) else
  if opc11 w = 0x009#11 then some (.maxS (fld w 14 7) (fld w 7 7) (fld w 0 7)) else
  if opc11 w = 0x00A#11 then some (.maxZ (fld w 14 7) (fld w 7 7) (fld w 0 7)) else
  if opc11 w = 0x00B#11 then if fld w 0 7 = 0#7 then some (.abs (fld w 14 7) (fld w 7 7)) else none else
  if opc11 w = 0x00C#11 then some (.and (fld w 14 7) (fld w 7 7) (fld w 0 7)) else
  if opc11 w = 0x00D#11 then some (.or (fld w 14 7) (fld w 7 7) (fld w 0 7)) else
  if opc11 w = 0x00E#11 then some (.xor (fld w 14 7) (fld w 7 7) (fld w 0 7)) else
  if opc11 w = 0x00F#11 then some (.andn (fld w 14 7) (fld w 7 7) (fld w 0 7)) else
  if opc11 w = 0x010#11 then some (.andi (fld w 14 7) (fld w 7 7) (fld w 0 7)) else
  if opc11 w = 0x011#11 then some (.ori (fld w 14 7) (fld w 7 7) (fld w 0 7)) else
  if opc11 w = 0x012#11 then some (.xori (fld w 14 7) (fld w 7 7) (fld w 0 7)) else
  if opc11 w = 0x013#11 then some (.shl (fld w 14 7) (fld w 7 7) (fld w 0 7)) else
  if opc11 w = 0x014#11 then some (.shr (fld w 14 7) (fld w 7 7) (fld w 0 7)) else
  if opc11 w = 0x015#11 then some (.sar (fld w 14 7) (fld w 7 7) (fld w 0 7)) else
  if opc11 w = 0x016#11 then if fld w 5 2 = 0#2 then some (.shli (fld w 14 7) (fld w 7 7) (fld w 0 5)) else none else
  if opc11 w = 0x017#11 then if fld w 5 2 = 0#2 then some (.shri (fld w 14 7) (fld w 7 7) (fld w 0 5)) else none else
  if opc11 w = 0x018#11 then if fld w 5 2 = 0#2 then some (.sari (fld w 14 7) (fld w 7 7) (fld w 0 5)) else none else
  if opc11 w = 0x019#11 then some (.rotl (fld w 14 7) (fld w 7 7) (fld w 0 7)) else
  if opc11 w = 0x01A#11 then if fld w 0 7 = 0#7 then some (.popc (fld w 14 7) (fld w 7 7)) else none else
  if opc11 w = 0x01B#11 then if fld w 0 7 = 0#7 then some (.clz (fld w 14 7) (fld w 7 7)) else none else
  if opc11 w = 0x01C#11 then if fld w 0 7 = 0#7 then some (.brev (fld w 14 7) (fld w 7 7)) else none else
  if opc11 w = 0x01D#11 then some (.bfxS (fld w 14 7) (fld w 7 7) (fld w 0 7)) else
  if opc11 w = 0x01E#11 then some (.bfxZ (fld w 14 7) (fld w 7 7) (fld w 0 7)) else
  if opc11 w = 0x01F#11 then some (.bfi (fld w 14 7) (fld w 7 7) (fld w 0 7)) else
  none

/-- Words whose bits [31:26] are 0x01. -/
def decodeGroup01 (w : BitVec 32) : Option Instr :=
  if opc11 w = 0x020#11 then some (.addD (fld w 14 7) (fld w 7 7) (fld w 0 7)) else
  if opc11 w = 0x021#11 then some (.subD (fld w 14 7) (fld w 7 7) (fld w 0 7)) else
  if opc11 w = 0x022#11 then some (.mulD (fld w 14 7) (fld w 7 7) (fld w 0 7)) else
  if opc11 w = 0x023#11 then some (.shlD (fld w 14 7) (fld w 7 7) (fld w 0 7)) else
  if opc11 w = 0x024#11 then some (.shrD (fld w 14 7) (fld w 7 7) (fld w 0 7)) else
  if opc11 w = 0x025#11 then some (.sarD (fld w 14 7) (fld w 7 7) (fld w 0 7)) else
  if opc11 w = 0x026#11 then if fld w 20 1 = 0#1 then some (.cmpEq (fld w 14 6) (fld w 7 7) (fld w 0 7)) else none else
  if opc11 w = 0x027#11 then if fld w 20 1 = 0#1 then some (.cmpNe (fld w 14 6) (fld w 7 7) (fld w 0 7)) else none else
  if opc11 w = 0x028#11 then if fld w 20 1 = 0#1 then some (.cmpLtS (fld w 14 6) (fld w 7 7) (fld w 0 7)) else none else
  if opc11 w = 0x029#11 then if fld w 20 1 = 0#1 then some (.cmpLeS (fld w 14 6) (fld w 7 7) (fld w 0 7)) else none else
  if opc11 w = 0x02A#11 then if fld w 20 1 = 0#1 then some (.cmpLtZ (fld w 14 6) (fld w 7 7) (fld w 0 7)) else none else
  if opc11 w = 0x02B#11 then if fld w 20 1 = 0#1 then some (.cmpLeZ (fld w 14 6) (fld w 7 7) (fld w 0 7)) else none else
  if opc11 w = 0x02C#11 then if fld w 20 1 = 0#1 then some (.cmpiEq (fld w 14 6) (fld w 7 7) (fld w 0 7)) else none else
  if opc11 w = 0x02D#11 then if fld w 20 1 = 0#1 then some (.cmpiLtS (fld w 14 6) (fld w 7 7) (fld w 0 7)) else none else
  if opc11 w = 0x02E#11 then if fld w 6 1 = 0#1 then some (.sel (fld w 14 7) (fld w 7 7) (fld w 0 6)) else none else
  if opc11 w = 0x02F#11 then some (.divS (fld w 14 7) (fld w 7 7) (fld w 0 7)) else
  if opc11 w = 0x030#11 then some (.divZ (fld w 14 7) (fld w 7 7) (fld w 0 7)) else
  if opc11 w = 0x031#11 then some (.remS (fld w 14 7) (fld w 7 7) (fld w 0 7)) else
  if opc11 w = 0x032#11 then some (.remZ (fld w 14 7) (fld w 7 7) (fld w 0 7)) else
  if opc11 w = 0x033#11 then if fld w 6 1 = 0#1 then some (.addB (fld w 14 7) (fld w 7 7) (fld w 0 6)) else none else
  if opc11 w = 0x034#11 then if fld w 6 1 = 0#1 then some (.subB (fld w 14 7) (fld w 7 7) (fld w 0 6)) else none else
  if opc11 w = 0x035#11 then if fld w 6 1 = 0#1 then some (.mulB (fld w 14 7) (fld w 7 7) (fld w 0 6)) else none else
  if opc11 w = 0x036#11 then if fld w 6 1 = 0#1 then some (.madB (fld w 14 7) (fld w 7 7) (fld w 0 6)) else none else
  if opc11 w = 0x037#11 then if fld w 6 1 = 0#1 then some (.andB (fld w 14 7) (fld w 7 7) (fld w 0 6)) else none else
  if opc11 w = 0x038#11 then if fld w 6 1 = 0#1 then some (.orB (fld w 14 7) (fld w 7 7) (fld w 0 6)) else none else
  if opc11 w = 0x039#11 then if fld w 6 1 = 0#1 then some (.xorB (fld w 14 7) (fld w 7 7) (fld w 0 6)) else none else
  if opc11 w = 0x03A#11 then if fld w 6 1 = 0#1 then some (.shlB (fld w 14 7) (fld w 7 7) (fld w 0 6)) else none else
  if opc11 w = 0x03B#11 then if fld w 6 1 = 0#1 then some (.shrB (fld w 14 7) (fld w 7 7) (fld w 0 6)) else none else
  if opc11 w = 0x03C#11 then if fld w 6 1 = 0#1 ∧ fld w 20 1 = 0#1 then some (.cmpEqB (fld w 14 6) (fld w 7 7) (fld w 0 6)) else none else
  if opc11 w = 0x03D#11 then if fld w 6 1 = 0#1 ∧ fld w 20 1 = 0#1 then some (.cmpLtSB (fld w 14 6) (fld w 7 7) (fld w 0 6)) else none else
  none

/-- Words whose bits [31:26] are 0x04. -/
def decodeGroup04 (w : BitVec 32) : Option Instr :=
  if opc11 w = 0x080#11 then some (.fadd (fld w 14 7) (fld w 7 7) (fld w 0 7)) else
  if opc11 w = 0x081#11 then some (.fsub (fld w 14 7) (fld w 7 7) (fld w 0 7)) else
  if opc11 w = 0x082#11 then some (.fmul (fld w 14 7) (fld w 7 7) (fld w 0 7)) else
  if opc11 w = 0x083#11 then some (.ffma (fld w 14 7) (fld w 7 7) (fld w 0 7)) else
  if opc11 w = 0x084#11 then some (.fmin (fld w 14 7) (fld w 7 7) (fld w 0 7)) else
  if opc11 w = 0x085#11 then some (.fmax (fld w 14 7) (fld w 7 7) (fld w 0 7)) else
  if opc11 w = 0x086#11 then if fld w 0 7 = 0#7 then some (.fabs (fld w 14 7) (fld w 7 7)) else none else
  if opc11 w = 0x087#11 then if fld w 0 7 = 0#7 then some (.fneg (fld w 14 7) (fld w 7 7)) else none else
  if opc11 w = 0x088#11 then if fld w 20 1 = 0#1 then some (.fcmpEq (fld w 14 6) (fld w 7 7) (fld w 0 7)) else none else
  if opc11 w = 0x089#11 then if fld w 20 1 = 0#1 then some (.fcmpLt (fld w 14 6) (fld w 7 7) (fld w 0 7)) else none else
  if opc11 w = 0x08A#11 then if fld w 20 1 = 0#1 then some (.fcmpLe (fld w 14 6) (fld w 7 7) (fld w 0 7)) else none else
  if opc11 w = 0x08B#11 then if fld w 20 1 = 0#1 then some (.fcmpUn (fld w 14 6) (fld w 7 7) (fld w 0 7)) else none else
  if opc11 w = 0x08C#11 then if fld w 0 7 = 0#7 then some (.frcp (fld w 14 7) (fld w 7 7)) else none else
  if opc11 w = 0x08D#11 then if fld w 0 7 = 0#7 then some (.frsq (fld w 14 7) (fld w 7 7)) else none else
  if opc11 w = 0x08E#11 then if fld w 0 7 = 0#7 then some (.fsqrt (fld w 14 7) (fld w 7 7)) else none else
  if opc11 w = 0x08F#11 then some (.fdiv (fld w 14 7) (fld w 7 7) (fld w 0 7)) else
  if opc11 w = 0x090#11 then if fld w 0 7 = 0#7 then some (.fex2 (fld w 14 7) (fld w 7 7)) else none else
  if opc11 w = 0x091#11 then if fld w 0 7 = 0#7 then some (.flg2 (fld w 14 7) (fld w 7 7)) else none else
  if opc11 w = 0x092#11 then if fld w 0 7 = 0#7 then some (.fsin (fld w 14 7) (fld w 7 7)) else none else
  if opc11 w = 0x093#11 then if fld w 0 7 = 0#7 then some (.fcos (fld w 14 7) (fld w 7 7)) else none else
  if opc11 w = 0x094#11 then if fld w 6 1 = 0#1 then some (.faddB (fld w 14 7) (fld w 7 7) (fld w 0 6)) else none else
  if opc11 w = 0x095#11 then if fld w 6 1 = 0#1 then some (.fmulB (fld w 14 7) (fld w 7 7) (fld w 0 6)) else none else
  if opc11 w = 0x096#11 then if fld w 6 1 = 0#1 then some (.ffmaB (fld w 14 7) (fld w 7 7) (fld w 0 6)) else none else
  if opc11 w = 0x097#11 then some (.dadd (fld w 14 7) (fld w 7 7) (fld w 0 7)) else
  if opc11 w = 0x098#11 then some (.dsub (fld w 14 7) (fld w 7 7) (fld w 0 7)) else
  if opc11 w = 0x099#11 then some (.dmul (fld w 14 7) (fld w 7 7) (fld w 0 7)) else
  if opc11 w = 0x09A#11 then some (.dfma (fld w 14 7) (fld w 7 7) (fld w 0 7)) else
  if opc11 w = 0x09B#11 then some (.ddiv (fld w 14 7) (fld w 7 7) (fld w 0 7)) else
  if opc11 w = 0x09C#11 then if fld w 0 7 = 0#7 then some (.dsqrt (fld w 14 7) (fld w 7 7)) else none else
  if opc11 w = 0x09D#11 then if fld w 20 1 = 0#1 then some (.dcmpEq (fld w 14 6) (fld w 7 7) (fld w 0 7)) else none else
  if opc11 w = 0x09E#11 then if fld w 20 1 = 0#1 then some (.dcmpLt (fld w 14 6) (fld w 7 7) (fld w 0 7)) else none else
  if opc11 w = 0x09F#11 then if fld w 20 1 = 0#1 then some (.dcmpLe (fld w 14 6) (fld w 7 7) (fld w 0 7)) else none else
  none

/-- Words whose bits [31:26] are 0x05. -/
def decodeGroup05 (w : BitVec 32) : Option Instr :=
  if opc11 w = 0x0A0#11 then some (.faddF16x2 (fld w 14 7) (fld w 7 7) (fld w 0 7)) else
  if opc11 w = 0x0A1#11 then some (.fmulF16x2 (fld w 14 7) (fld w 7 7) (fld w 0 7)) else
  if opc11 w = 0x0A2#11 then some (.ffmaF16x2 (fld w 14 7) (fld w 7 7) (fld w 0 7)) else
  if opc11 w = 0x0A3#11 then if fld w 0 7 = 0#7 then some (.cvtF32S32 (fld w 14 7) (fld w 7 7)) else none else
  if opc11 w = 0x0A4#11 then if fld w 0 7 = 0#7 then some (.cvtF32Z32 (fld w 14 7) (fld w 7 7)) else none else
  if opc11 w = 0x0A5#11 then if fld w 0 7 = 0#7 then some (.cvtS32F32 (fld w 14 7) (fld w 7 7)) else none else
  if opc11 w = 0x0A6#11 then if fld w 0 7 = 0#7 then some (.cvtZ32F32 (fld w 14 7) (fld w 7 7)) else none else
  if opc11 w = 0x0A7#11 then if fld w 0 7 = 0#7 then some (.cvtF64F32 (fld w 14 7) (fld w 7 7)) else none else
  if opc11 w = 0x0A8#11 then if fld w 0 7 = 0#7 then some (.cvtF32F64 (fld w 14 7) (fld w 7 7)) else none else
  if opc11 w = 0x0A9#11 then if fld w 0 7 = 0#7 then some (.cvtF64S32 (fld w 14 7) (fld w 7 7)) else none else
  if opc11 w = 0x0AA#11 then if fld w 0 7 = 0#7 then some (.cvtS32F64 (fld w 14 7) (fld w 7 7)) else none else
  if opc11 w = 0x0AB#11 then some (.cvtF16x2F32 (fld w 14 7) (fld w 7 7) (fld w 0 7)) else
  if opc11 w = 0x0AC#11 then if fld w 1 6 = 0#6 then some (.cvtF32F16 (fld w 14 7) (fld w 7 7) (fld w 0 1)) else none else
  if opc11 w = 0x0AD#11 then some (.cvtBf16x2F32 (fld w 14 7) (fld w 7 7) (fld w 0 7)) else
  if opc11 w = 0x0AE#11 then if fld w 1 6 = 0#6 then some (.cvtF32Bf16 (fld w 14 7) (fld w 7 7) (fld w 0 1)) else none else
  if opc11 w = 0x0AF#11 then some (.cvtE4x2F32 (fld w 14 7) (fld w 7 7) (fld w 0 7)) else
  if opc11 w = 0x0B0#11 then some (.cvtE5x2F32 (fld w 14 7) (fld w 7 7) (fld w 0 7)) else
  if opc11 w = 0x0B1#11 then if fld w 2 5 = 0#5 then some (.cvtF32E4 (fld w 14 7) (fld w 7 7) (fld w 0 2)) else none else
  if opc11 w = 0x0B2#11 then if fld w 2 5 = 0#5 then some (.cvtF32E5 (fld w 14 7) (fld w 7 7) (fld w 0 2)) else none else
  none

/-- Words whose bits [31:26] are 0x08. -/
def decodeGroup08 (w : BitVec 32) : Option Instr :=
  if opc11 w = 0x100#11 then if fld w 0 7 = 0#7 then some (.mov (fld w 14 7) (fld w 7 7)) else none else
  if opc11 w = 0x101#11 then if fld w 0 7 = 0#7 then some (.movD (fld w 14 7) (fld w 7 7)) else none else
  if opc11 w = 0x102#11 then some (.movi (fld w 14 7) (fld w 0 14)) else
  if opc11 w = 0x103#11 then some (.movh (fld w 14 7) (fld w 0 14)) else
  if opc11 w = 0x104#11 then if fld w 0 7 = 0#7 ∧ fld w 13 1 = 0#1 then some (.movB (fld w 14 7) (fld w 7 6)) else none else
  if opc11 w = 0x105#11 then if fld w 0 7 = 0#7 ∧ fld w 14 7 = 0#7 then some (.setx (fld w 7 7)) else none else
  if opc11 w = 0x106#11 then if fld w 8 13 = 0#13 then some (.setxi (fld w 0 8)) else none else
  if opc11 w = 0x107#11 then if fld w 7 7 = 0#7 then some (.movxG (fld w 14 7) (fld w 0 7)) else none else
  if opc11 w = 0x108#11 then if fld w 14 7 = 0#7 then some (.movxP (fld w 7 7) (fld w 0 7)) else none else
  if opc11 w = 0x109#11 then some (.rds (fld w 14 7) (fld w 0 14)) else
  none

/-- Words whose bits [31:26] are 0x0A. -/
def decodeGroup0A (w : BitVec 32) : Option Instr :=
  if opc11 w = 0x140#11 then some (.brv (fld w 15 6) (fld w 0 15)) else
  if opc11 w = 0x141#11 then some (.brc (fld w 15 6) (fld w 0 15)) else
  if opc11 w = 0x142#11 then if fld w 0 7 = 0#7 ∧ fld w 14 7 = 0#7 then some (.jmpi (fld w 7 7)) else none else
  if opc11 w = 0x143#11 then if fld w 0 7 = 0#7 ∧ fld w 14 7 = 0#7 then some (.calli (fld w 7 7)) else none else
  if opc11 w = 0x144#11 then if fld w 0 21 = 0#21 then some (.ret) else none else
  if opc11 w = 0x145#11 then some (.pickLane (fld w 14 7) (fld w 7 7) (fld w 0 7)) else
  if opc11 w = 0x146#11 then if fld w 5 2 = 0#2 then some (.pickFlip (fld w 14 7) (fld w 7 7) (fld w 0 5)) else none else
  if opc11 w = 0x147#11 then if fld w 5 2 = 0#2 then some (.pickLo (fld w 14 7) (fld w 7 7) (fld w 0 5)) else none else
  if opc11 w = 0x148#11 then if fld w 5 2 = 0#2 then some (.pickHi (fld w 14 7) (fld w 7 7) (fld w 0 5)) else none else
  if opc11 w = 0x149#11 then some (.pickSeat (fld w 14 7) (fld w 7 7) (fld w 0 7)) else
  if opc11 w = 0x14A#11 then if fld w 0 7 = 0#7 ∧ fld w 20 1 = 0#1 then some (.voteAny (fld w 14 6) (fld w 7 7)) else none else
  if opc11 w = 0x14B#11 then if fld w 0 7 = 0#7 ∧ fld w 20 1 = 0#1 then some (.voteAll (fld w 14 6) (fld w 7 7)) else none else
  if opc11 w = 0x14C#11 then if fld w 0 7 = 0#7 ∧ fld w 20 1 = 0#1 then some (.voteBal (fld w 14 6) (fld w 7 7)) else none else
  none

/-- Words whose bits [31:26] are 0x0C. -/
noncomputable def decodeGroup0C (w : BitVec 32) : Option Instr :=
  if opc11 w = 0x180#11 then some (.lds8 (fld w 14 7) (fld w 7 7) (fld w 3 4) (fld w 0 3)) else
  if opc11 w = 0x181#11 then some (.lds8s (fld w 14 7) (fld w 7 7) (fld w 3 4) (fld w 0 3)) else
  if opc11 w = 0x182#11 then some (.lds16 (fld w 14 7) (fld w 7 7) (fld w 3 4) (fld w 0 3)) else
  if opc11 w = 0x183#11 then some (.lds16s (fld w 14 7) (fld w 7 7) (fld w 3 4) (fld w 0 3)) else
  if opc11 w = 0x184#11 then some (.lds32 (fld w 14 7) (fld w 7 7) (fld w 3 4) (fld w 0 3)) else
  if opc11 w = 0x185#11 then some (.lds64 (fld w 14 7) (fld w 7 7) (fld w 3 4) (fld w 0 3)) else
  if opc11 w = 0x186#11 then some (.lds128 (fld w 14 7) (fld w 7 7) (fld w 3 4) (fld w 0 3)) else
  if opc11 w = 0x187#11 then some (.sts8 (fld w 14 7) (fld w 7 7) (fld w 3 4) (fld w 0 3)) else
  if opc11 w = 0x188#11 then some (.sts16 (fld w 14 7) (fld w 7 7) (fld w 3 4) (fld w 0 3)) else
  if opc11 w = 0x189#11 then some (.sts32 (fld w 14 7) (fld w 7 7) (fld w 3 4) (fld w 0 3)) else
  if opc11 w = 0x18A#11 then some (.sts64 (fld w 14 7) (fld w 7 7) (fld w 3 4) (fld w 0 3)) else
  if opc11 w = 0x18B#11 then some (.sts128 (fld w 14 7) (fld w 7 7) (fld w 3 4) (fld w 0 3)) else
  if opc11 w = 0x18C#11 then some (.atsAdd (fld w 14 7) (fld w 7 7) (fld w 3 4) (fld w 0 3)) else
  if opc11 w = 0x18D#11 then some (.atsMinS (fld w 14 7) (fld w 7 7) (fld w 3 4) (fld w 0 3)) else
  if opc11 w = 0x18E#11 then some (.atsMaxS (fld w 14 7) (fld w 7 7) (fld w 3 4) (fld w 0 3)) else
  if opc11 w = 0x18F#11 then some (.atsMinZ (fld w 14 7) (fld w 7 7) (fld w 3 4) (fld w 0 3)) else
  if opc11 w = 0x190#11 then some (.atsMaxZ (fld w 14 7) (fld w 7 7) (fld w 3 4) (fld w 0 3)) else
  if opc11 w = 0x191#11 then some (.atsAnd (fld w 14 7) (fld w 7 7) (fld w 3 4) (fld w 0 3)) else
  if opc11 w = 0x192#11 then some (.atsOr (fld w 14 7) (fld w 7 7) (fld w 3 4) (fld w 0 3)) else
  if opc11 w = 0x193#11 then some (.atsXor (fld w 14 7) (fld w 7 7) (fld w 3 4) (fld w 0 3)) else
  if opc11 w = 0x194#11 then some (.atsXchg (fld w 14 7) (fld w 7 7) (fld w 3 4) (fld w 0 3)) else
  if opc11 w = 0x195#11 then some (.atsCas (fld w 14 7) (fld w 7 7) (fld w 3 4) (fld w 0 3)) else
  if opc11 w = 0x196#11 then some (.arset (fld w 14 7) (fld w 7 7) (fld w 3 4) (fld w 0 3)) else
  if opc11 w = 0x197#11 then some (.aradd (fld w 14 7) (fld w 7 7) (fld w 3 4) (fld w 0 3)) else
  if opc11 w = 0x198#11 then some (.arwait (fld w 14 7) (fld w 7 7) (fld w 3 4) (fld w 0 3)) else
  if opc11 w = 0x199#11 then some (.arpoll (fld w 14 7) (fld w 7 7) (fld w 3 4) (fld w 0 3)) else
  none

/-- Words whose bits [31:26] are 0x0E. -/
noncomputable def decodeGroup0E (w : BitVec 32) : Option Instr :=
  if opc11 w = 0x1C0#11 then some (.ld8 (fld w 14 7) (fld w 7 7) (fld w 3 4) (fld w 0 3)) else
  if opc11 w = 0x1C1#11 then some (.ld8s (fld w 14 7) (fld w 7 7) (fld w 3 4) (fld w 0 3)) else
  if opc11 w = 0x1C2#11 then some (.ld16 (fld w 14 7) (fld w 7 7) (fld w 3 4) (fld w 0 3)) else
  if opc11 w = 0x1C3#11 then some (.ld16s (fld w 14 7) (fld w 7 7) (fld w 3 4) (fld w 0 3)) else
  if opc11 w = 0x1C4#11 then some (.ld32 (fld w 14 7) (fld w 7 7) (fld w 3 4) (fld w 0 3)) else
  if opc11 w = 0x1C5#11 then some (.ld64 (fld w 14 7) (fld w 7 7) (fld w 3 4) (fld w 0 3)) else
  if opc11 w = 0x1C6#11 then some (.ld128 (fld w 14 7) (fld w 7 7) (fld w 3 4) (fld w 0 3)) else
  if opc11 w = 0x1C7#11 then some (.st8 (fld w 14 7) (fld w 7 7) (fld w 3 4) (fld w 0 3)) else
  if opc11 w = 0x1C8#11 then some (.st16 (fld w 14 7) (fld w 7 7) (fld w 3 4) (fld w 0 3)) else
  if opc11 w = 0x1C9#11 then some (.st32 (fld w 14 7) (fld w 7 7) (fld w 3 4) (fld w 0 3)) else
  if opc11 w = 0x1CA#11 then some (.st64 (fld w 14 7) (fld w 7 7) (fld w 3 4) (fld w 0 3)) else
  if opc11 w = 0x1CB#11 then some (.st128 (fld w 14 7) (fld w 7 7) (fld w 3 4) (fld w 0 3)) else
  if opc11 w = 0x1CC#11 then some (.ld32V (fld w 14 7) (fld w 7 7) (fld w 3 4) (fld w 0 3)) else
  if opc11 w = 0x1CD#11 then some (.ld64V (fld w 14 7) (fld w 7 7) (fld w 3 4) (fld w 0 3)) else
  if opc11 w = 0x1CE#11 then some (.st32V (fld w 14 7) (fld w 7 7) (fld w 3 4) (fld w 0 3)) else
  if opc11 w = 0x1CF#11 then some (.st64V (fld w 14 7) (fld w 7 7) (fld w 3 4) (fld w 0 3)) else
  if opc11 w = 0x1D0#11 then some (.ld32Acq (fld w 14 7) (fld w 7 7) (fld w 3 4) (fld w 0 3)) else
  if opc11 w = 0x1D1#11 then some (.ld64Acq (fld w 14 7) (fld w 7 7) (fld w 3 4) (fld w 0 3)) else
  if opc11 w = 0x1D2#11 then some (.st32Rel (fld w 14 7) (fld w 7 7) (fld w 3 4) (fld w 0 3)) else
  if opc11 w = 0x1D3#11 then some (.st64Rel (fld w 14 7) (fld w 7 7) (fld w 3 4) (fld w 0 3)) else
  if opc11 w = 0x1D4#11 then some (.atAdd (fld w 14 7) (fld w 7 7) (fld w 3 4) (fld w 0 3)) else
  if opc11 w = 0x1D5#11 then some (.atMinS (fld w 14 7) (fld w 7 7) (fld w 3 4) (fld w 0 3)) else
  if opc11 w = 0x1D6#11 then some (.atMaxS (fld w 14 7) (fld w 7 7) (fld w 3 4) (fld w 0 3)) else
  if opc11 w = 0x1D7#11 then some (.atMinZ (fld w 14 7) (fld w 7 7) (fld w 3 4) (fld w 0 3)) else
  if opc11 w = 0x1D8#11 then some (.atMaxZ (fld w 14 7) (fld w 7 7) (fld w 3 4) (fld w 0 3)) else
  if opc11 w = 0x1D9#11 then some (.atAnd (fld w 14 7) (fld w 7 7) (fld w 3 4) (fld w 0 3)) else
  if opc11 w = 0x1DA#11 then some (.atOr (fld w 14 7) (fld w 7 7) (fld w 3 4) (fld w 0 3)) else
  if opc11 w = 0x1DB#11 then some (.atXor (fld w 14 7) (fld w 7 7) (fld w 3 4) (fld w 0 3)) else
  if opc11 w = 0x1DC#11 then some (.atXchg (fld w 14 7) (fld w 7 7) (fld w 3 4) (fld w 0 3)) else
  if opc11 w = 0x1DD#11 then some (.atCas (fld w 14 7) (fld w 7 7) (fld w 3 4) (fld w 0 3)) else
  if opc11 w = 0x1DE#11 then some (.atIncw (fld w 14 7) (fld w 7 7) (fld w 3 4) (fld w 0 3)) else
  if opc11 w = 0x1DF#11 then some (.atAddD (fld w 14 7) (fld w 7 7) (fld w 3 4) (fld w 0 3)) else
  none

/-- Words whose bits [31:26] are 0x0F. -/
noncomputable def decodeGroup0F (w : BitVec 32) : Option Instr :=
  if opc11 w = 0x1E0#11 then some (.atXchgD (fld w 14 7) (fld w 7 7) (fld w 3 4) (fld w 0 3)) else
  if opc11 w = 0x1E1#11 then some (.atCasD (fld w 14 7) (fld w 7 7) (fld w 3 4) (fld w 0 3)) else
  if opc11 w = 0x1E2#11 then if fld w 14 7 = 0#7 then some (.pref (fld w 7 7) (fld w 3 4) (fld w 0 3)) else none else
  if opc11 w = 0x1E3#11 then if fld w 14 7 = 0#7 then some (.wbl (fld w 7 7) (fld w 3 4) (fld w 0 3)) else none else
  if opc11 w = 0x1E4#11 then if fld w 14 7 = 0#7 then some (.disc (fld w 7 7) (fld w 3 4) (fld w 0 3)) else none else
  if opc11 w = 0x1E5#11 then if fld w 3 18 = 0#18 then some (.fence (fld w 0 3)) else none else
  if opc11 w = 0x1E6#11 then if fld w 3 18 = 0#18 then some (.fenceAcq (fld w 0 3)) else none else
  if opc11 w = 0x1E7#11 then if fld w 3 18 = 0#18 then some (.fenceRel (fld w 0 3)) else none else
  none

/-- Words whose bits [31:26] are 0x10. -/
noncomputable def decodeGroup10 (w : BitVec 32) : Option Instr :=
  if opc11 w = 0x200#11 then if fld w 4 3 = 0#3 then some (.spawn (fld w 14 7) (fld w 7 7) (fld w 0 4)) else none else
  if opc11 w = 0x201#11 then if fld w 0 21 = 0#21 then some (.exit) else none else
  if opc11 w = 0x202#11 then if fld w 0 7 = 0#7 then some (.join (fld w 14 7) (fld w 7 7)) else none else
  if opc11 w = 0x203#11 then if fld w 0 21 = 0#21 then some (.leave) else none else
  if opc11 w = 0x204#11 then if fld w 0 21 = 0#21 then some (.bar) else none else
  if opc11 w = 0x205#11 then if fld w 0 14 = 0#14 then some (.bara (fld w 14 7)) else none else
  if opc11 w = 0x206#11 then if fld w 0 7 = 0#7 ∧ fld w 14 7 = 0#7 then some (.barw (fld w 7 7)) else none else
  if opc11 w = 0x207#11 then if fld w 4 3 = 0#3 then some (.hamp (fld w 14 7) (fld w 7 7) (fld w 0 4)) else none else
  none

/-- Words whose bits [31:26] are 0x14. -/
noncomputable def decodeGroup14 (w : BitVec 32) : Option Instr :=
  if opc11 w = 0x280#11 then some (.lres (fld w 14 7) (fld w 7 7) (fld w 0 7)) else
  if opc11 w = 0x281#11 then if fld w 0 7 = 0#7 ∧ fld w 14 7 = 0#7 then some (.lrel (fld w 7 7)) else none else
  if opc11 w = 0x282#11 then if fld w 14 7 = 0#7 then some (.lbind (fld w 7 7) (fld w 0 7)) else none else
  if opc11 w = 0x283#11 then if fld w 0 7 = 0#7 ∧ fld w 17 4 = 0#4 then some (.prset (fld w 14 3) (fld w 7 7)) else none else
  if opc11 w = 0x284#11 then if fld w 0 7 = 0#7 ∧ fld w 10 4 = 0#4 then some (.prget (fld w 14 7) (fld w 7 3)) else none else
  if opc11 w = 0x285#11 then if fld w 0 21 = 0#21 then some (.oprdy) else none else
  if opc11 w = 0x286#11 then if fld w 0 14 = 0#14 ∧ fld w 17 4 = 0#4 then some (.tzero (fld w 14 3)) else none else
  if opc11 w = 0x287#11 then if fld w 4 3 = 0#3 then some (.mma (fld w 14 7) (fld w 11 3) (fld w 7 4) (fld w 0 4)) else none else
  if opc11 w = 0x288#11 then if fld w 4 3 = 0#3 then some (.mmap (fld w 14 7) (fld w 11 3) (fld w 7 4) (fld w 0 4)) else none else
  if opc11 w = 0x289#11 then if fld w 0 7 = 0#7 ∧ fld w 14 7 = 0#7 then some (.mwait (fld w 7 7)) else none else
  if opc11 w = 0x28A#11 then some (.tst (fld w 14 7) (fld w 11 3) (fld w 7 4) (fld w 0 7)) else
  if opc11 w = 0x28B#11 then some (.tld (fld w 14 7) (fld w 11 3) (fld w 7 4) (fld w 0 7)) else
  if opc11 w = 0x28C#11 then if fld w 0 14 = 0#14 ∧ fld w 17 4 = 0#4 then some (.tnorm (fld w 14 3)) else none else
  if opc11 w = 0x28D#11 then if fld w 0 7 = 0#7 ∧ fld w 10 4 = 0#4 then some (.texp (fld w 14 7) (fld w 7 3)) else none else
  if opc11 w = 0x28E#11 then if fld w 0 7 = 0#7 ∧ fld w 10 4 = 0#4 then some (.tchk (fld w 14 7) (fld w 7 3)) else none else
  none

/-- Words whose bits [31:26] are 0x20. -/
noncomputable def decodeGroup20 (w : BitVec 32) : Option Instr :=
  if opc11 w = 0x400#11 then if fld w 0 3 = 0#3 then some (.sadd (fld w 15 6) (fld w 9 6) (fld w 3 6)) else none else
  if opc11 w = 0x401#11 then if fld w 0 3 = 0#3 then some (.ssub (fld w 15 6) (fld w 9 6) (fld w 3 6)) else none else
  if opc11 w = 0x402#11 then some (.saddi (fld w 15 6) (fld w 9 6) (fld w 0 9)) else
  if opc11 w = 0x403#11 then if fld w 0 3 = 0#3 then some (.smul (fld w 15 6) (fld w 9 6) (fld w 3 6)) else none else
  if opc11 w = 0x404#11 then if fld w 0 3 = 0#3 then some (.smulhS (fld w 15 6) (fld w 9 6) (fld w 3 6)) else none else
  if opc11 w = 0x405#11 then if fld w 0 3 = 0#3 then some (.smulhZ (fld w 15 6) (fld w 9 6) (fld w 3 6)) else none else
  if opc11 w = 0x406#11 then if fld w 0 3 = 0#3 then some (.sminS (fld w 15 6) (fld w 9 6) (fld w 3 6)) else none else
  if opc11 w = 0x407#11 then if fld w 0 3 = 0#3 then some (.smaxS (fld w 15 6) (fld w 9 6) (fld w 3 6)) else none else
  if opc11 w = 0x408#11 then if fld w 0 3 = 0#3 then some (.sminZ (fld w 15 6) (fld w 9 6) (fld w 3 6)) else none else
  if opc11 w = 0x409#11 then if fld w 0 3 = 0#3 then some (.smaxZ (fld w 15 6) (fld w 9 6) (fld w 3 6)) else none else
  if opc11 w = 0x40A#11 then if fld w 0 3 = 0#3 then some (.sand (fld w 15 6) (fld w 9 6) (fld w 3 6)) else none else
  if opc11 w = 0x40B#11 then if fld w 0 3 = 0#3 then some (.sor (fld w 15 6) (fld w 9 6) (fld w 3 6)) else none else
  if opc11 w = 0x40C#11 then if fld w 0 3 = 0#3 then some (.sxor (fld w 15 6) (fld w 9 6) (fld w 3 6)) else none else
  if opc11 w = 0x40D#11 then if fld w 0 3 = 0#3 then some (.sandn (fld w 15 6) (fld w 9 6) (fld w 3 6)) else none else
  if opc11 w = 0x40E#11 then some (.sandi (fld w 15 6) (fld w 9 6) (fld w 0 9)) else
  if opc11 w = 0x40F#11 then some (.sori (fld w 15 6) (fld w 9 6) (fld w 0 9)) else
  if opc11 w = 0x410#11 then some (.sxori (fld w 15 6) (fld w 9 6) (fld w 0 9)) else
  if opc11 w = 0x411#11 then if fld w 0 3 = 0#3 then some (.sshl (fld w 15 6) (fld w 9 6) (fld w 3 6)) else none else
  if opc11 w = 0x412#11 then if fld w 0 3 = 0#3 then some (.sshr (fld w 15 6) (fld w 9 6) (fld w 3 6)) else none else
  if opc11 w = 0x413#11 then if fld w 0 3 = 0#3 then some (.ssar (fld w 15 6) (fld w 9 6) (fld w 3 6)) else none else
  if opc11 w = 0x414#11 then if fld w 5 4 = 0#4 then some (.sshli (fld w 15 6) (fld w 9 6) (fld w 0 5)) else none else
  if opc11 w = 0x415#11 then if fld w 5 4 = 0#4 then some (.sshri (fld w 15 6) (fld w 9 6) (fld w 0 5)) else none else
  if opc11 w = 0x416#11 then if fld w 5 4 = 0#4 then some (.ssari (fld w 15 6) (fld w 9 6) (fld w 0 5)) else none else
  if opc11 w = 0x417#11 then if fld w 0 9 = 0#9 then some (.spopc (fld w 15 6) (fld w 9 6)) else none else
  if opc11 w = 0x418#11 then if fld w 0 9 = 0#9 then some (.sclz (fld w 15 6) (fld w 9 6)) else none else
  if opc11 w = 0x419#11 then if fld w 0 9 = 0#9 then some (.sffs (fld w 15 6) (fld w 9 6)) else none else
  if opc11 w = 0x41A#11 then if fld w 0 9 = 0#9 then some (.sbrev (fld w 15 6) (fld w 9 6)) else none else
  if opc11 w = 0x41B#11 then if fld w 0 3 = 0#3 then some (.sbfxZ (fld w 15 6) (fld w 9 6) (fld w 3 6)) else none else
  if opc11 w = 0x41C#11 then if fld w 0 3 = 0#3 then some (.sbfi (fld w 15 6) (fld w 9 6) (fld w 3 6)) else none else
  if opc11 w = 0x41D#11 then if fld w 0 3 = 0#3 then some (.saddD (fld w 15 6) (fld w 9 6) (fld w 3 6)) else none else
  if opc11 w = 0x41E#11 then if fld w 0 3 = 0#3 then some (.ssubD (fld w 15 6) (fld w 9 6) (fld w 3 6)) else none else
  if opc11 w = 0x41F#11 then if fld w 0 3 = 0#3 then some (.scmpEq (fld w 15 6) (fld w 9 6) (fld w 3 6)) else none else
  none

/-- Words whose bits [31:26] are 0x21. -/
noncomputable def decodeGroup21 (w : BitVec 32) : Option Instr :=
  if opc11 w = 0x420#11 then if fld w 0 3 = 0#3 then some (.scmpNe (fld w 15 6) (fld w 9 6) (fld w 3 6)) else none else
  if opc11 w = 0x421#11 then if fld w 0 3 = 0#3 then some (.scmpLtS (fld w 15 6) (fld w 9 6) (fld w 3 6)) else none else
  if opc11 w = 0x422#11 then if fld w 0 3 = 0#3 then some (.scmpLeS (fld w 15 6) (fld w 9 6) (fld w 3 6)) else none else
  if opc11 w = 0x423#11 then if fld w 0 3 = 0#3 then some (.scmpLtZ (fld w 15 6) (fld w 9 6) (fld w 3 6)) else none else
  if opc11 w = 0x424#11 then if fld w 0 3 = 0#3 then some (.scmpLeZ (fld w 15 6) (fld w 9 6) (fld w 3 6)) else none else
  if opc11 w = 0x425#11 then some (.ssel (fld w 15 6) (fld w 9 6) (fld w 3 6) (fld w 0 3)) else
  if opc11 w = 0x426#11 then if fld w 0 3 = 0#3 then some (.sdivZ (fld w 15 6) (fld w 9 6) (fld w 3 6)) else none else
  if opc11 w = 0x427#11 then if fld w 0 3 = 0#3 then some (.sremZ (fld w 15 6) (fld w 9 6) (fld w 3 6)) else none else
  none

/-- Words whose bits [31:26] are 0x24. -/
noncomputable def decodeGroup24 (w : BitVec 32) : Option Instr :=
  if opc11 w = 0x480#11 then if fld w 0 9 = 0#9 then some (.smov (fld w 15 6) (fld w 9 6)) else none else
  if opc11 w = 0x481#11 then some (.smovi (fld w 15 6) (fld w 0 15)) else
  if opc11 w = 0x482#11 then some (.smovh (fld w 15 6) (fld w 0 15)) else
  if opc11 w = 0x483#11 then some (.srds (fld w 15 6) (fld w 0 15)) else
  if opc11 w = 0x484#11 then some (.swrs (fld w 15 6) (fld w 0 15)) else
  if opc11 w = 0x485#11 then if fld w 12 3 = 0#3 then some (.sgetl (fld w 15 6) (fld w 7 5) (fld w 0 7)) else none else
  none

/-- Words whose bits [31:26] are 0x26. -/
noncomputable def decodeGroup26 (w : BitVec 32) : Option Instr :=
  if opc11 w = 0x4C0#11 then some (.bra (fld w 0 21)) else
  if opc11 w = 0x4C1#11 then some (.bz (fld w 15 6) (fld w 0 15)) else
  if opc11 w = 0x4C2#11 then some (.bnz (fld w 15 6) (fld w 0 15)) else
  if opc11 w = 0x4C3#11 then some (.bneg (fld w 15 6) (fld w 0 15)) else
  if opc11 w = 0x4C4#11 then some (.call (fld w 0 21)) else
  if opc11 w = 0x4C5#11 then if fld w 0 9 = 0#9 ∧ fld w 15 6 = 0#6 then some (.calls (fld w 9 6)) else none else
  if opc11 w = 0x4C6#11 then if fld w 0 21 = 0#21 then some (.rets) else none else
  if opc11 w = 0x4C7#11 then if fld w 0 21 = 0#21 then some (.rcv) else none else
  if opc11 w = 0x4C8#11 then if fld w 0 21 = 0#21 then some (.land) else none else
  if opc11 w = 0x4C9#11 then if fld w 0 21 = 0#21 then some (.nop) else none else
  none

/-- Words whose bits [31:26] are 0x28. -/
noncomputable def decodeGroup28 (w : BitVec 32) : Option Instr :=
  if opc11 w = 0x500#11 then some (.sld32 (fld w 15 6) (fld w 9 6) (fld w 5 4) (fld w 0 5)) else
  if opc11 w = 0x501#11 then some (.sld64 (fld w 15 6) (fld w 9 6) (fld w 5 4) (fld w 0 5)) else
  if opc11 w = 0x502#11 then some (.sst32 (fld w 15 6) (fld w 9 6) (fld w 5 4) (fld w 0 5)) else
  if opc11 w = 0x503#11 then some (.sst64 (fld w 15 6) (fld w 9 6) (fld w 5 4) (fld w 0 5)) else
  if opc11 w = 0x504#11 then some (.sld32V (fld w 15 6) (fld w 9 6) (fld w 5 4) (fld w 0 5)) else
  if opc11 w = 0x505#11 then some (.sst32V (fld w 15 6) (fld w 9 6) (fld w 5 4) (fld w 0 5)) else
  if opc11 w = 0x506#11 then some (.satAdd (fld w 15 6) (fld w 9 6) (fld w 5 4) (fld w 0 5)) else
  if opc11 w = 0x507#11 then some (.satCas (fld w 15 6) (fld w 9 6) (fld w 5 4) (fld w 0 5)) else
  if opc11 w = 0x508#11 then if fld w 3 18 = 0#18 then some (.sfence (fld w 0 3)) else none else
  none

/-- Words whose bits [31:26] are 0x2A. -/
noncomputable def decodeGroup2A (w : BitVec 32) : Option Instr :=
  if opc11 w = 0x540#11 then if fld w 0 3 = 0#3 ∧ fld w 15 6 = 0#6 then some (.cpk (fld w 9 6) (fld w 3 6)) else none else
  if opc11 w = 0x541#11 then if fld w 0 15 = 0#15 then some (.cpq (fld w 15 6)) else none else
  if opc11 w = 0x542#11 then if fld w 0 21 = 0#21 then some (.pdrain) else none else
  none

/-- Words whose bits [31:26] are 0x2B. -/
noncomputable def decodeGroup2B (w : BitVec 32) : Option Instr :=
  if opc11 w = 0x560#11 then if fld w 0 21 = 0#21 then some (.yield) else none else
  if opc11 w = 0x561#11 then if fld w 0 9 = 0#9 ∧ fld w 15 6 = 0#6 then some (.donate (fld w 9 6)) else none else
  if opc11 w = 0x562#11 then if fld w 0 15 = 0#15 then some (.budget (fld w 15 6)) else none else
  if opc11 w = 0x563#11 then if fld w 0 9 = 0#9 ∧ fld w 15 6 = 0#6 then some (.nap (fld w 9 6)) else none else
  none

/-- Words whose bits [31:26] are 0x2C. -/
noncomputable def decodeGroup2C (w : BitVec 32) : Option Instr :=
  if opc11 w = 0x580#11 then if fld w 6 15 = 0#15 then some (.trap (fld w 0 6)) else none else
  if opc11 w = 0x581#11 then if fld w 0 21 = 0#21 then some (.bkpt) else none else
  if opc11 w = 0x582#11 then if fld w 15 6 = 0#6 then some (.svc (fld w 0 15)) else none else
  if opc11 w = 0x583#11 then if fld w 0 21 = 0#21 then some (.eret) else none else
  none

/-- Words whose bits [31:26] are 0x2D. -/
noncomputable def decodeGroup2D (w : BitVec 32) : Option Instr :=
  if opc11 w = 0x5A0#11 then if fld w 0 9 = 0#9 then some (.launch (fld w 15 6) (fld w 9 6)) else none else
  if opc11 w = 0x5A1#11 then if fld w 0 9 = 0#9 ∧ fld w 15 6 = 0#6 then some (.lwait (fld w 9 6)) else none else
  if opc11 w = 0x5B0#11 then if fld w 0 5 = 0#5 then some (.probe (fld w 15 6) (fld w 9 6) (fld w 5 4)) else none else
  if opc11 w = 0x5B1#11 then if fld w 0 9 = 0#9 then some (.pgtake (fld w 15 6) (fld w 9 6)) else none else
  if opc11 w = 0x5B2#11 then if fld w 0 3 = 0#3 then some (.maprq (fld w 15 6) (fld w 9 6) (fld w 3 6)) else none else
  none

/-- Words whose bits [31:26] are 0x2E. -/
noncomputable def decodeGroup2E (w : BitVec 32) : Option Instr :=
  if opc11 w = 0x5C0#11 then some (.trace (fld w 15 6) (fld w 0 15)) else
  none

/-- Words whose bits [31:26] are 0x3F. -/
noncomputable def decodeGroup3F (w : BitVec 32) : Option Instr :=
  if opc11 w = 0x7FF#11 then if fld w 0 5 = 0#5 then some (.trailer (fld w 20 1) (fld w 19 1) (fld w 12 7) (fld w 5 7)) else none else
  none

/-- The native map (R37, R38): the instruction a word encodes, `none` where its opcode is unassigned or a must-be-zero bit
is set. -/
noncomputable def decode (w : BitVec 32) : Option Instr :=
  let g := w.extractLsb' 26 6
  if g = 0x00#6 then decodeGroup00 w else
  if g = 0x01#6 then decodeGroup01 w else
  if g = 0x04#6 then decodeGroup04 w else
  if g = 0x05#6 then decodeGroup05 w else
  if g = 0x08#6 then decodeGroup08 w else
  if g = 0x0A#6 then decodeGroup0A w else
  if g = 0x0C#6 then decodeGroup0C w else
  if g = 0x0E#6 then decodeGroup0E w else
  if g = 0x0F#6 then decodeGroup0F w else
  if g = 0x10#6 then decodeGroup10 w else
  if g = 0x14#6 then decodeGroup14 w else
  if g = 0x20#6 then decodeGroup20 w else
  if g = 0x21#6 then decodeGroup21 w else
  if g = 0x24#6 then decodeGroup24 w else
  if g = 0x26#6 then decodeGroup26 w else
  if g = 0x28#6 then decodeGroup28 w else
  if g = 0x2A#6 then decodeGroup2A w else
  if g = 0x2B#6 then decodeGroup2B w else
  if g = 0x2C#6 then decodeGroup2C w else
  if g = 0x2D#6 then decodeGroup2D w else
  if g = 0x2E#6 then decodeGroup2E w else
  if g = 0x3F#6 then decodeGroup3F w else
  none

/-- The native table (slot 0, R32, R33, R37, R38) in ranges: first and last place (set bit times 1,024 plus OPC), and bits
[31:10] that every entry of the range holds (flags, valid, format). -/
def nativeRanges : List (Nat × Nat × Nat) :=
  [(0x000, 0x001, 0x020), (0x002, 0x002, 0x022), (0x003, 0x00F, 0x020), (0x010, 0x012, 0x022), (0x013, 0x015, 0x020),
   (0x016, 0x018, 0x022), (0x019, 0x02B, 0x020), (0x02C, 0x02D, 0x022), (0x02E, 0x03D, 0x020), (0x080, 0x0B2, 0x020),
   (0x100, 0x101, 0x020), (0x102, 0x103, 0x024), (0x104, 0x105, 0x020), (0x106, 0x106, 0x024), (0x107, 0x108, 0x022),
   (0x109, 0x109, 0x024), (0x140, 0x141, 0x128), (0x142, 0x144, 0x120), (0x145, 0x145, 0x020), (0x146, 0x148, 0x022),
   (0x149, 0x14C, 0x020), (0x180, 0x18B, 0x066), (0x18C, 0x197, 0x0E6), (0x198, 0x199, 0x066), (0x1C0, 0x1CB, 0x066),
   (0x1CC, 0x1CF, 0x0E6), (0x1D0, 0x1D3, 0x066), (0x1D4, 0x1E1, 0x0E6), (0x1E2, 0x1E4, 0x066), (0x1E5, 0x1E7, 0x024),
   (0x200, 0x200, 0x0A0), (0x201, 0x201, 0x120), (0x202, 0x206, 0x020), (0x207, 0x207, 0x1A0), (0x280, 0x286, 0x020),
   (0x287, 0x288, 0x0A0), (0x289, 0x28E, 0x020), (0x400, 0x401, 0x030), (0x402, 0x402, 0x032), (0x403, 0x40D, 0x030),
   (0x40E, 0x410, 0x032), (0x411, 0x413, 0x030), (0x414, 0x416, 0x032), (0x417, 0x427, 0x030), (0x480, 0x480, 0x030),
   (0x481, 0x485, 0x034), (0x4C0, 0x4C0, 0x13A), (0x4C1, 0x4C3, 0x138), (0x4C4, 0x4C4, 0x13A), (0x4C5, 0x4C7, 0x130),
   (0x4C8, 0x4C9, 0x030), (0x500, 0x503, 0x076), (0x504, 0x507, 0x0F6), (0x508, 0x508, 0x034), (0x540, 0x540, 0x0B0),
   (0x541, 0x541, 0x030), (0x542, 0x542, 0x0B0), (0x560, 0x563, 0x030), (0x580, 0x580, 0x134), (0x581, 0x581, 0x130),
   (0x582, 0x582, 0x134), (0x583, 0x583, 0x330), (0x5A0, 0x5A0, 0x0B0), (0x5A1, 0x5A1, 0x030), (0x5B0, 0x5B0, 0x076),
   (0x5B1, 0x5B1, 0x230), (0x5B2, 0x5B2, 0x030), (0x5C0, 0x5C0, 0x034), (0x7FF, 0x7FF, 0x03E)]

/-- The decode-table entry at a place of slot 0: bits [31:10] of its range and its own OPC; 0 (invalid) where unassigned. -/
def nativeEntry (place : Nat) : BitVec 32 :=
  match nativeRanges.find? fun r => r.1 ≤ place && place ≤ r.2.1 with
  | some r => BitVec.ofNat 32 (r.2.2 * 1024 + place % 1024)
  | none => 0#32

/-- The W1 ranges of R36: first W1 place, count, first native place. -/
def w1Ranges : List (Nat × Nat × Nat) :=
  [(0x000, 0x33, 0x000), (0x040, 0x20, 0x080), (0x060, 0x10, 0x0A3), (0x070, 0x0A, 0x100), (0x080, 0x0D, 0x140),
   (0x090, 0x1A, 0x180), (0x0C0, 0x28, 0x1C0), (0x100, 0x08, 0x200),
   (0x400, 0x28, 0x400), (0x440, 0x06, 0x480), (0x450, 0x0A, 0x4C0), (0x460, 0x09, 0x500), (0x470, 0x03, 0x540),
   (0x478, 0x04, 0x580), (0x47C, 0x02, 0x5A0)]

/-- The entry at a place of slot 1 (R36): the native entry of the mapped place. -/
def w1Entry (place : Nat) : BitVec 32 :=
  if place = 0x7FF then nativeEntry 0x7FF
  else match w1Ranges.find? fun r => r.1 ≤ place && place < r.1 + r.2.1 with
    | some r => nativeEntry (r.2.2 + (place - r.1))
    | none => 0#32

/-- The entry at a place of a loaded image (slots 2 and 3). -/
def imageEntry (img : TableImage) (place : Nat) : BitVec 32 :=
  match img.entries.find? fun e => e.1 = place with
  | some e => e.2
  | none => 0#32

/-- The checks of R34 on one entry of an image: reserved bits zero, format 15 only at the trailer's place, and a valid entry
carrying the format and flags of a valid native entry of the same half. -/
def entryAccepted (place : Nat) (e : BitVec 32) : Bool :=
  let fmt := (e.extractLsb' 11 4).toNat
  let op := (e.extractLsb' 0 10).toNat
  let native := nativeEntry (place / 1024 * 1024 + op)
  (e.extractLsb' 20 12 == 0#12) && (e.extractLsb' 10 1 == 0#1) &&
  (if place = 0x7FF then fmt == 15 && op == 0x3FF else fmt != 15) &&
  (!e.getLsbD 15 || (native.getLsbD 15 && native.extractLsb' 11 9 == e.extractLsb' 11 9))

/-- Whether firmware accepts an image (R34): its signature verifies, it holds 2,048 entries, the trailer's place is the
trailer, and every listed entry passes. -/
def imageAccepted (img : TableImage) : Bool :=
  img.signed && img.count == 2048 && entryAccepted 0x7FF (imageEntry img 0x7FF) &&
  img.entries.all fun e => decide (e.1 < 2048) && entryAccepted e.1 e.2

/-- Why a word is no instruction: its opcode has no valid entry (cause 0x001), or a must-be-zero bit is set (cause 0x002);
`priv` says whether the operation is supervisor-only (R40, order 2 before order 3). -/
inductive Reject where
  | unassigned
  | mustBeZero (priv : Bool)
  deriving DecidableEq, Repr

/-- The native word that a word stands for under a table entry (R33): the entry's operation in place of the OPC. -/
def nativeWord (e : BitVec 32) (w : BitVec 32) : BitVec 32 :=
  w.extractLsb' 31 1 ++ e.extractLsb' 0 10 ++ w.extractLsb' 0 21

/-- Whether a word is a trailer, wherever it stands (R22). -/
def isTrailer (w : BitVec 32) : Bool := opc11 w == 0x7FF#11

/-- Decode a word through the entry that its place holds (R22, R33). -/
noncomputable def decodeEntry (entry : Nat → BitVec 32) (w : BitVec 32) : Except Reject Instr :=
  let e := if isTrailer w then nativeEntry 0x7FF else entry (opc11 w).toNat
  if e.getLsbD 15 then
    match decode (nativeWord e w) with
    | some i => .ok i
    | none => .error (.mustBeZero (e.getLsbD 19))
  else .error .unassigned

/-- The entry of decode-table slot `slot` at a place (R32): 0 native, 1 W1, otherwise the loaded image. -/
def slotEntry (img : Option TableImage) (slot place : Nat) : BitVec 32 :=
  if slot = 0 then nativeEntry place
  else if slot = 1 then w1Entry place
  else match img with
    | some t => imageEntry t place
    | none => 0#32

/-- Decode the four bytes of a word as the device stores it, lowest address first (R1, R15). -/
noncomputable def decodeBytes : List (BitVec 8) → Option Instr
  | [b0, b1, b2, b3] => decode (b3 ++ b2 ++ b1 ++ b0)
  | _ => none

/-- The bytes of a word in memory order (R1). -/
def wordBytes (w : BitVec 32) : List (BitVec 8) :=
  [w.extractLsb' 0 8, w.extractLsb' 8 8, w.extractLsb' 16 8, w.extractLsb' 24 8]

/-- The word an instruction encodes to (R18, R19, R37, R38); `none` for an event, which has no word. -/
def encode : Instr → Option (BitVec 32)
  | .add d a b => some (0x0#11 ++ d ++ a ++ b)
  | .sub d a b => some (0x1#11 ++ d ++ a ++ b)
  | .addi d a i => some (0x2#11 ++ d ++ a ++ i)
  | .mul d a b => some (0x3#11 ++ d ++ a ++ b)
  | .mulhS d a b => some (0x4#11 ++ d ++ a ++ b)
  | .mulhZ d a b => some (0x5#11 ++ d ++ a ++ b)
  | .mad d a b => some (0x6#11 ++ d ++ a ++ b)
  | .minS d a b => some (0x7#11 ++ d ++ a ++ b)
  | .minZ d a b => some (0x8#11 ++ d ++ a ++ b)
  | .maxS d a b => some (0x9#11 ++ d ++ a ++ b)
  | .maxZ d a b => some (0xA#11 ++ d ++ a ++ b)
  | .abs d a => some (0xB#11 ++ d ++ a ++ 0x0#7)
  | .and d a b => some (0xC#11 ++ d ++ a ++ b)
  | .or d a b => some (0xD#11 ++ d ++ a ++ b)
  | .xor d a b => some (0xE#11 ++ d ++ a ++ b)
  | .andn d a b => some (0xF#11 ++ d ++ a ++ b)
  | .andi d a i => some (0x10#11 ++ d ++ a ++ i)
  | .ori d a i => some (0x11#11 ++ d ++ a ++ i)
  | .xori d a i => some (0x12#11 ++ d ++ a ++ i)
  | .shl d a b => some (0x13#11 ++ d ++ a ++ b)
  | .shr d a b => some (0x14#11 ++ d ++ a ++ b)
  | .sar d a b => some (0x15#11 ++ d ++ a ++ b)
  | .shli d a n => some (0x16#11 ++ d ++ a ++ 0x0#2 ++ n)
  | .shri d a n => some (0x17#11 ++ d ++ a ++ 0x0#2 ++ n)
  | .sari d a n => some (0x18#11 ++ d ++ a ++ 0x0#2 ++ n)
  | .rotl d a b => some (0x19#11 ++ d ++ a ++ b)
  | .popc d a => some (0x1A#11 ++ d ++ a ++ 0x0#7)
  | .clz d a => some (0x1B#11 ++ d ++ a ++ 0x0#7)
  | .brev d a => some (0x1C#11 ++ d ++ a ++ 0x0#7)
  | .bfxS d a b => some (0x1D#11 ++ d ++ a ++ b)
  | .bfxZ d a b => some (0x1E#11 ++ d ++ a ++ b)
  | .bfi d a b => some (0x1F#11 ++ d ++ a ++ b)
  | .addD d a b => some (0x20#11 ++ d ++ a ++ b)
  | .subD d a b => some (0x21#11 ++ d ++ a ++ b)
  | .mulD d a b => some (0x22#11 ++ d ++ a ++ b)
  | .shlD d a b => some (0x23#11 ++ d ++ a ++ b)
  | .shrD d a b => some (0x24#11 ++ d ++ a ++ b)
  | .sarD d a b => some (0x25#11 ++ d ++ a ++ b)
  | .cmpEq d a b => some (0x4C#12 ++ d ++ a ++ b)
  | .cmpNe d a b => some (0x4E#12 ++ d ++ a ++ b)
  | .cmpLtS d a b => some (0x50#12 ++ d ++ a ++ b)
  | .cmpLeS d a b => some (0x52#12 ++ d ++ a ++ b)
  | .cmpLtZ d a b => some (0x54#12 ++ d ++ a ++ b)
  | .cmpLeZ d a b => some (0x56#12 ++ d ++ a ++ b)
  | .cmpiEq d a i => some (0x58#12 ++ d ++ a ++ i)
  | .cmpiLtS d a i => some (0x5A#12 ++ d ++ a ++ i)
  | .sel d a b => some (0x2E#11 ++ d ++ a ++ 0x0#1 ++ b)
  | .divS d a b => some (0x2F#11 ++ d ++ a ++ b)
  | .divZ d a b => some (0x30#11 ++ d ++ a ++ b)
  | .remS d a b => some (0x31#11 ++ d ++ a ++ b)
  | .remZ d a b => some (0x32#11 ++ d ++ a ++ b)
  | .addB d a b => some (0x33#11 ++ d ++ a ++ 0x0#1 ++ b)
  | .subB d a b => some (0x34#11 ++ d ++ a ++ 0x0#1 ++ b)
  | .mulB d a b => some (0x35#11 ++ d ++ a ++ 0x0#1 ++ b)
  | .madB d a b => some (0x36#11 ++ d ++ a ++ 0x0#1 ++ b)
  | .andB d a b => some (0x37#11 ++ d ++ a ++ 0x0#1 ++ b)
  | .orB d a b => some (0x38#11 ++ d ++ a ++ 0x0#1 ++ b)
  | .xorB d a b => some (0x39#11 ++ d ++ a ++ 0x0#1 ++ b)
  | .shlB d a b => some (0x3A#11 ++ d ++ a ++ 0x0#1 ++ b)
  | .shrB d a b => some (0x3B#11 ++ d ++ a ++ 0x0#1 ++ b)
  | .cmpEqB d a b => some (0x78#12 ++ d ++ a ++ 0x0#1 ++ b)
  | .cmpLtSB d a b => some (0x7A#12 ++ d ++ a ++ 0x0#1 ++ b)
  | .fadd d a b => some (0x80#11 ++ d ++ a ++ b)
  | .fsub d a b => some (0x81#11 ++ d ++ a ++ b)
  | .fmul d a b => some (0x82#11 ++ d ++ a ++ b)
  | .ffma d a b => some (0x83#11 ++ d ++ a ++ b)
  | .fmin d a b => some (0x84#11 ++ d ++ a ++ b)
  | .fmax d a b => some (0x85#11 ++ d ++ a ++ b)
  | .fabs d a => some (0x86#11 ++ d ++ a ++ 0x0#7)
  | .fneg d a => some (0x87#11 ++ d ++ a ++ 0x0#7)
  | .fcmpEq d a b => some (0x110#12 ++ d ++ a ++ b)
  | .fcmpLt d a b => some (0x112#12 ++ d ++ a ++ b)
  | .fcmpLe d a b => some (0x114#12 ++ d ++ a ++ b)
  | .fcmpUn d a b => some (0x116#12 ++ d ++ a ++ b)
  | .frcp d a => some (0x8C#11 ++ d ++ a ++ 0x0#7)
  | .frsq d a => some (0x8D#11 ++ d ++ a ++ 0x0#7)
  | .fsqrt d a => some (0x8E#11 ++ d ++ a ++ 0x0#7)
  | .fdiv d a b => some (0x8F#11 ++ d ++ a ++ b)
  | .fex2 d a => some (0x90#11 ++ d ++ a ++ 0x0#7)
  | .flg2 d a => some (0x91#11 ++ d ++ a ++ 0x0#7)
  | .fsin d a => some (0x92#11 ++ d ++ a ++ 0x0#7)
  | .fcos d a => some (0x93#11 ++ d ++ a ++ 0x0#7)
  | .faddB d a b => some (0x94#11 ++ d ++ a ++ 0x0#1 ++ b)
  | .fmulB d a b => some (0x95#11 ++ d ++ a ++ 0x0#1 ++ b)
  | .ffmaB d a b => some (0x96#11 ++ d ++ a ++ 0x0#1 ++ b)
  | .dadd d a b => some (0x97#11 ++ d ++ a ++ b)
  | .dsub d a b => some (0x98#11 ++ d ++ a ++ b)
  | .dmul d a b => some (0x99#11 ++ d ++ a ++ b)
  | .dfma d a b => some (0x9A#11 ++ d ++ a ++ b)
  | .ddiv d a b => some (0x9B#11 ++ d ++ a ++ b)
  | .dsqrt d a => some (0x9C#11 ++ d ++ a ++ 0x0#7)
  | .dcmpEq d a b => some (0x13A#12 ++ d ++ a ++ b)
  | .dcmpLt d a b => some (0x13C#12 ++ d ++ a ++ b)
  | .dcmpLe d a b => some (0x13E#12 ++ d ++ a ++ b)
  | .faddF16x2 d a b => some (0xA0#11 ++ d ++ a ++ b)
  | .fmulF16x2 d a b => some (0xA1#11 ++ d ++ a ++ b)
  | .ffmaF16x2 d a b => some (0xA2#11 ++ d ++ a ++ b)
  | .cvtF32S32 d a => some (0xA3#11 ++ d ++ a ++ 0x0#7)
  | .cvtF32Z32 d a => some (0xA4#11 ++ d ++ a ++ 0x0#7)
  | .cvtS32F32 d a => some (0xA5#11 ++ d ++ a ++ 0x0#7)
  | .cvtZ32F32 d a => some (0xA6#11 ++ d ++ a ++ 0x0#7)
  | .cvtF64F32 d a => some (0xA7#11 ++ d ++ a ++ 0x0#7)
  | .cvtF32F64 d a => some (0xA8#11 ++ d ++ a ++ 0x0#7)
  | .cvtF64S32 d a => some (0xA9#11 ++ d ++ a ++ 0x0#7)
  | .cvtS32F64 d a => some (0xAA#11 ++ d ++ a ++ 0x0#7)
  | .cvtF16x2F32 d a b => some (0xAB#11 ++ d ++ a ++ b)
  | .cvtF32F16 d a h => some (0xAC#11 ++ d ++ a ++ 0x0#6 ++ h)
  | .cvtBf16x2F32 d a b => some (0xAD#11 ++ d ++ a ++ b)
  | .cvtF32Bf16 d a h => some (0xAE#11 ++ d ++ a ++ 0x0#6 ++ h)
  | .cvtE4x2F32 d a b => some (0xAF#11 ++ d ++ a ++ b)
  | .cvtE5x2F32 d a b => some (0xB0#11 ++ d ++ a ++ b)
  | .cvtF32E4 d a n => some (0xB1#11 ++ d ++ a ++ 0x0#5 ++ n)
  | .cvtF32E5 d a n => some (0xB2#11 ++ d ++ a ++ 0x0#5 ++ n)
  | .mov d a => some (0x100#11 ++ d ++ a ++ 0x0#7)
  | .movD d a => some (0x101#11 ++ d ++ a ++ 0x0#7)
  | .movi d i => some (0x102#11 ++ d ++ i)
  | .movh d i => some (0x103#11 ++ d ++ i)
  | .movB d a => some (0x104#11 ++ d ++ 0x0#1 ++ a ++ 0x0#7)
  | .setx a => some (0x8280#18 ++ a ++ 0x0#7)
  | .setxi i => some (0x20C000#24 ++ i)
  | .movxG d i => some (0x107#11 ++ d ++ 0x0#7 ++ i)
  | .movxP a i => some (0x8400#18 ++ a ++ i)
  | .rds d n => some (0x109#11 ++ d ++ n)
  | .brv m o => some (0x140#11 ++ m ++ o)
  | .brc m o => some (0x141#11 ++ m ++ o)
  | .jmpi a => some (0xA100#18 ++ a ++ 0x0#7)
  | .calli a => some (0xA180#18 ++ a ++ 0x0#7)
  | .ret => some (0x28800000#32)
  | .pickLane d a b => some (0x145#11 ++ d ++ a ++ b)
  | .pickFlip d a n => some (0x146#11 ++ d ++ a ++ 0x0#2 ++ n)
  | .pickLo d a n => some (0x147#11 ++ d ++ a ++ 0x0#2 ++ n)
  | .pickHi d a n => some (0x148#11 ++ d ++ a ++ 0x0#2 ++ n)
  | .pickSeat d a b => some (0x149#11 ++ d ++ a ++ b)
  | .voteAny d a => some (0x294#12 ++ d ++ a ++ 0x0#7)
  | .voteAll d a => some (0x296#12 ++ d ++ a ++ 0x0#7)
  | .voteBal d a => some (0x298#12 ++ d ++ a ++ 0x0#7)
  | .lds8 d a l k => some (0x180#11 ++ d ++ a ++ l ++ k)
  | .lds8s d a l k => some (0x181#11 ++ d ++ a ++ l ++ k)
  | .lds16 d a l k => some (0x182#11 ++ d ++ a ++ l ++ k)
  | .lds16s d a l k => some (0x183#11 ++ d ++ a ++ l ++ k)
  | .lds32 d a l k => some (0x184#11 ++ d ++ a ++ l ++ k)
  | .lds64 d a l k => some (0x185#11 ++ d ++ a ++ l ++ k)
  | .lds128 d a l k => some (0x186#11 ++ d ++ a ++ l ++ k)
  | .sts8 d a l k => some (0x187#11 ++ d ++ a ++ l ++ k)
  | .sts16 d a l k => some (0x188#11 ++ d ++ a ++ l ++ k)
  | .sts32 d a l k => some (0x189#11 ++ d ++ a ++ l ++ k)
  | .sts64 d a l k => some (0x18A#11 ++ d ++ a ++ l ++ k)
  | .sts128 d a l k => some (0x18B#11 ++ d ++ a ++ l ++ k)
  | .atsAdd d a l k => some (0x18C#11 ++ d ++ a ++ l ++ k)
  | .atsMinS d a l k => some (0x18D#11 ++ d ++ a ++ l ++ k)
  | .atsMaxS d a l k => some (0x18E#11 ++ d ++ a ++ l ++ k)
  | .atsMinZ d a l k => some (0x18F#11 ++ d ++ a ++ l ++ k)
  | .atsMaxZ d a l k => some (0x190#11 ++ d ++ a ++ l ++ k)
  | .atsAnd d a l k => some (0x191#11 ++ d ++ a ++ l ++ k)
  | .atsOr d a l k => some (0x192#11 ++ d ++ a ++ l ++ k)
  | .atsXor d a l k => some (0x193#11 ++ d ++ a ++ l ++ k)
  | .atsXchg d a l k => some (0x194#11 ++ d ++ a ++ l ++ k)
  | .atsCas d a l k => some (0x195#11 ++ d ++ a ++ l ++ k)
  | .arset d a l k => some (0x196#11 ++ d ++ a ++ l ++ k)
  | .aradd d a l k => some (0x197#11 ++ d ++ a ++ l ++ k)
  | .arwait d a l k => some (0x198#11 ++ d ++ a ++ l ++ k)
  | .arpoll d a l k => some (0x199#11 ++ d ++ a ++ l ++ k)
  | .ld8 d a l k => some (0x1C0#11 ++ d ++ a ++ l ++ k)
  | .ld8s d a l k => some (0x1C1#11 ++ d ++ a ++ l ++ k)
  | .ld16 d a l k => some (0x1C2#11 ++ d ++ a ++ l ++ k)
  | .ld16s d a l k => some (0x1C3#11 ++ d ++ a ++ l ++ k)
  | .ld32 d a l k => some (0x1C4#11 ++ d ++ a ++ l ++ k)
  | .ld64 d a l k => some (0x1C5#11 ++ d ++ a ++ l ++ k)
  | .ld128 d a l k => some (0x1C6#11 ++ d ++ a ++ l ++ k)
  | .st8 d a l k => some (0x1C7#11 ++ d ++ a ++ l ++ k)
  | .st16 d a l k => some (0x1C8#11 ++ d ++ a ++ l ++ k)
  | .st32 d a l k => some (0x1C9#11 ++ d ++ a ++ l ++ k)
  | .st64 d a l k => some (0x1CA#11 ++ d ++ a ++ l ++ k)
  | .st128 d a l k => some (0x1CB#11 ++ d ++ a ++ l ++ k)
  | .ld32V d a l k => some (0x1CC#11 ++ d ++ a ++ l ++ k)
  | .ld64V d a l k => some (0x1CD#11 ++ d ++ a ++ l ++ k)
  | .st32V d a l k => some (0x1CE#11 ++ d ++ a ++ l ++ k)
  | .st64V d a l k => some (0x1CF#11 ++ d ++ a ++ l ++ k)
  | .ld32Acq d a l k => some (0x1D0#11 ++ d ++ a ++ l ++ k)
  | .ld64Acq d a l k => some (0x1D1#11 ++ d ++ a ++ l ++ k)
  | .st32Rel d a l k => some (0x1D2#11 ++ d ++ a ++ l ++ k)
  | .st64Rel d a l k => some (0x1D3#11 ++ d ++ a ++ l ++ k)
  | .atAdd d a l k => some (0x1D4#11 ++ d ++ a ++ l ++ k)
  | .atMinS d a l k => some (0x1D5#11 ++ d ++ a ++ l ++ k)
  | .atMaxS d a l k => some (0x1D6#11 ++ d ++ a ++ l ++ k)
  | .atMinZ d a l k => some (0x1D7#11 ++ d ++ a ++ l ++ k)
  | .atMaxZ d a l k => some (0x1D8#11 ++ d ++ a ++ l ++ k)
  | .atAnd d a l k => some (0x1D9#11 ++ d ++ a ++ l ++ k)
  | .atOr d a l k => some (0x1DA#11 ++ d ++ a ++ l ++ k)
  | .atXor d a l k => some (0x1DB#11 ++ d ++ a ++ l ++ k)
  | .atXchg d a l k => some (0x1DC#11 ++ d ++ a ++ l ++ k)
  | .atCas d a l k => some (0x1DD#11 ++ d ++ a ++ l ++ k)
  | .atIncw d a l k => some (0x1DE#11 ++ d ++ a ++ l ++ k)
  | .atAddD d a l k => some (0x1DF#11 ++ d ++ a ++ l ++ k)
  | .atXchgD d a l k => some (0x1E0#11 ++ d ++ a ++ l ++ k)
  | .atCasD d a l k => some (0x1E1#11 ++ d ++ a ++ l ++ k)
  | .pref a l k => some (0xF100#18 ++ a ++ l ++ k)
  | .wbl a l k => some (0xF180#18 ++ a ++ l ++ k)
  | .disc a l k => some (0xF200#18 ++ a ++ l ++ k)
  | .fence n => some (0x7940000#29 ++ n)
  | .fenceAcq n => some (0x7980000#29 ++ n)
  | .fenceRel n => some (0x79C0000#29 ++ n)
  | .spawn d a p => some (0x200#11 ++ d ++ a ++ 0x0#3 ++ p)
  | .exit => some (0x40200000#32)
  | .join d a => some (0x202#11 ++ d ++ a ++ 0x0#7)
  | .leave => some (0x40600000#32)
  | .bar => some (0x40800000#32)
  | .bara d => some (0x205#11 ++ d ++ 0x0#14)
  | .barw a => some (0x10300#18 ++ a ++ 0x0#7)
  | .hamp d a p => some (0x207#11 ++ d ++ a ++ 0x0#3 ++ p)
  | .lres d a b => some (0x280#11 ++ d ++ a ++ b)
  | .lrel a => some (0x14080#18 ++ a ++ 0x0#7)
  | .lbind a b => some (0x14100#18 ++ a ++ b)
  | .prset n a => some (0x2830#15 ++ n ++ a ++ 0x0#7)
  | .prget d n => some (0x284#11 ++ d ++ 0x0#4 ++ n ++ 0x0#7)
  | .oprdy => some (0x50A00000#32)
  | .tzero n => some (0x2860#15 ++ n ++ 0x0#14)
  | .mma d t x y => some (0x287#11 ++ d ++ t ++ x ++ 0x0#3 ++ y)
  | .mmap d t x y => some (0x288#11 ++ d ++ t ++ x ++ 0x0#3 ++ y)
  | .mwait a => some (0x14480#18 ++ a ++ 0x0#7)
  | .tst d t f b => some (0x28A#11 ++ d ++ t ++ f ++ b)
  | .tld d t f b => some (0x28B#11 ++ d ++ t ++ f ++ b)
  | .tnorm n => some (0x28C0#15 ++ n ++ 0x0#14)
  | .texp d t => some (0x28D#11 ++ d ++ 0x0#4 ++ t ++ 0x0#7)
  | .tchk d t => some (0x28E#11 ++ d ++ 0x0#4 ++ t ++ 0x0#7)
  | .sadd d a b => some (0x400#11 ++ d ++ a ++ b ++ 0x0#3)
  | .ssub d a b => some (0x401#11 ++ d ++ a ++ b ++ 0x0#3)
  | .saddi d a i => some (0x402#11 ++ d ++ a ++ i)
  | .smul d a b => some (0x403#11 ++ d ++ a ++ b ++ 0x0#3)
  | .smulhS d a b => some (0x404#11 ++ d ++ a ++ b ++ 0x0#3)
  | .smulhZ d a b => some (0x405#11 ++ d ++ a ++ b ++ 0x0#3)
  | .sminS d a b => some (0x406#11 ++ d ++ a ++ b ++ 0x0#3)
  | .smaxS d a b => some (0x407#11 ++ d ++ a ++ b ++ 0x0#3)
  | .sminZ d a b => some (0x408#11 ++ d ++ a ++ b ++ 0x0#3)
  | .smaxZ d a b => some (0x409#11 ++ d ++ a ++ b ++ 0x0#3)
  | .sand d a b => some (0x40A#11 ++ d ++ a ++ b ++ 0x0#3)
  | .sor d a b => some (0x40B#11 ++ d ++ a ++ b ++ 0x0#3)
  | .sxor d a b => some (0x40C#11 ++ d ++ a ++ b ++ 0x0#3)
  | .sandn d a b => some (0x40D#11 ++ d ++ a ++ b ++ 0x0#3)
  | .sandi d a i => some (0x40E#11 ++ d ++ a ++ i)
  | .sori d a i => some (0x40F#11 ++ d ++ a ++ i)
  | .sxori d a i => some (0x410#11 ++ d ++ a ++ i)
  | .sshl d a b => some (0x411#11 ++ d ++ a ++ b ++ 0x0#3)
  | .sshr d a b => some (0x412#11 ++ d ++ a ++ b ++ 0x0#3)
  | .ssar d a b => some (0x413#11 ++ d ++ a ++ b ++ 0x0#3)
  | .sshli d a n => some (0x414#11 ++ d ++ a ++ 0x0#4 ++ n)
  | .sshri d a n => some (0x415#11 ++ d ++ a ++ 0x0#4 ++ n)
  | .ssari d a n => some (0x416#11 ++ d ++ a ++ 0x0#4 ++ n)
  | .spopc d a => some (0x417#11 ++ d ++ a ++ 0x0#9)
  | .sclz d a => some (0x418#11 ++ d ++ a ++ 0x0#9)
  | .sffs d a => some (0x419#11 ++ d ++ a ++ 0x0#9)
  | .sbrev d a => some (0x41A#11 ++ d ++ a ++ 0x0#9)
  | .sbfxZ d a b => some (0x41B#11 ++ d ++ a ++ b ++ 0x0#3)
  | .sbfi d a b => some (0x41C#11 ++ d ++ a ++ b ++ 0x0#3)
  | .saddD d a b => some (0x41D#11 ++ d ++ a ++ b ++ 0x0#3)
  | .ssubD d a b => some (0x41E#11 ++ d ++ a ++ b ++ 0x0#3)
  | .scmpEq d a b => some (0x41F#11 ++ d ++ a ++ b ++ 0x0#3)
  | .scmpNe d a b => some (0x420#11 ++ d ++ a ++ b ++ 0x0#3)
  | .scmpLtS d a b => some (0x421#11 ++ d ++ a ++ b ++ 0x0#3)
  | .scmpLeS d a b => some (0x422#11 ++ d ++ a ++ b ++ 0x0#3)
  | .scmpLtZ d a b => some (0x423#11 ++ d ++ a ++ b ++ 0x0#3)
  | .scmpLeZ d a b => some (0x424#11 ++ d ++ a ++ b ++ 0x0#3)
  | .ssel d a b f => some (0x425#11 ++ d ++ a ++ b ++ f)
  | .sdivZ d a b => some (0x426#11 ++ d ++ a ++ b ++ 0x0#3)
  | .sremZ d a b => some (0x427#11 ++ d ++ a ++ b ++ 0x0#3)
  | .smov d a => some (0x480#11 ++ d ++ a ++ 0x0#9)
  | .smovi d i => some (0x481#11 ++ d ++ i)
  | .smovh d i => some (0x482#11 ++ d ++ i)
  | .srds d n => some (0x483#11 ++ d ++ n)
  | .swrs d n => some (0x484#11 ++ d ++ n)
  | .sgetl d l k => some (0x485#11 ++ d ++ 0x0#3 ++ l ++ k)
  | .bra o => some (0x4C0#11 ++ o)
  | .bz a o => some (0x4C1#11 ++ a ++ o)
  | .bnz a o => some (0x4C2#11 ++ a ++ o)
  | .bneg a o => some (0x4C3#11 ++ a ++ o)
  | .call o => some (0x4C4#11 ++ o)
  | .calls a => some (0x13140#17 ++ a ++ 0x0#9)
  | .rets => some (0x98C00000#32)
  | .rcv => some (0x98E00000#32)
  | .land => some (0x99000000#32)
  | .nop => some (0x99200000#32)
  | .sld32 d a l i => some (0x500#11 ++ d ++ a ++ l ++ i)
  | .sld64 d a l i => some (0x501#11 ++ d ++ a ++ l ++ i)
  | .sst32 d a l i => some (0x502#11 ++ d ++ a ++ l ++ i)
  | .sst64 d a l i => some (0x503#11 ++ d ++ a ++ l ++ i)
  | .sld32V d a l i => some (0x504#11 ++ d ++ a ++ l ++ i)
  | .sst32V d a l i => some (0x505#11 ++ d ++ a ++ l ++ i)
  | .satAdd d a l i => some (0x506#11 ++ d ++ a ++ l ++ i)
  | .satCas d a l i => some (0x507#11 ++ d ++ a ++ l ++ i)
  | .sfence n => some (0x14200000#29 ++ n)
  | .cpk a b => some (0x15000#17 ++ a ++ b ++ 0x0#3)
  | .cpq d => some (0x541#11 ++ d ++ 0x0#15)
  | .pdrain => some (0xA8400000#32)
  | .yield => some (0xAC000000#32)
  | .donate a => some (0x15840#17 ++ a ++ 0x0#9)
  | .budget d => some (0x562#11 ++ d ++ 0x0#15)
  | .nap a => some (0x158C0#17 ++ a ++ 0x0#9)
  | .trap n => some (0x2C00000#26 ++ n)
  | .bkpt => some (0xB0200000#32)
  | .svc n => some (0x16080#17 ++ n)
  | .eret => some (0xB0600000#32)
  | .launch d a => some (0x5A0#11 ++ d ++ a ++ 0x0#9)
  | .lwait a => some (0x16840#17 ++ a ++ 0x0#9)
  | .probe d a l => some (0x5B0#11 ++ d ++ a ++ l ++ 0x0#5)
  | .pgtake d a => some (0x5B1#11 ++ d ++ a ++ 0x0#9)
  | .maprq d a b => some (0x5B2#11 ++ d ++ a ++ b ++ 0x0#3)
  | .trace d t => some (0x5C0#11 ++ d ++ t)
  | .trailer s f a b => some (0x7FF#11 ++ s ++ f ++ a ++ b ++ 0x0#5)
  | .warpSelect _ _ => none
  | .longLatencyComplete _ _ _ _ => none
  | .rotation _ _ _ => none
  | .rotationGiveUp _ _ _ => none
  | .joinProceed _ _ _ _ => none
  | .crewRelease _ _ => none
  | .binTimerExpiry _ _ => none
  | .binLaunch _ _ => none
  | .launchWarpCreate _ _ => none
  | .warpEnd _ _ _ => none
  | .scratchpadAccept _ => none
  | .windowAccess _ _ _ _ _ => none
  | .multicastDelivery _ => none
  | .storePerform _ _ _ _ => none
  | .dataArrival _ _ => none
  | .gets _ _ => none
  | .getm _ _ => none
  | .put _ _ => none
  | .clean _ _ => none
  | .discMessage _ _ => none
  | .hgets _ _ => none
  | .hgetm _ _ _ => none
  | .snpdata _ => none
  | .snpinv _ => none
  | .snpcur _ => none
  | .deferredFaultRaise _ _ _ => none
  | .watchpointReport _ _ _ => none
  | .trapResume _ _ _ => none
  | .launchEndForTrap _ => none
  | .pagePullComplete _ _ _ => none
  | .pagePullTimeout _ => none
  | .mapMemory _ _ => none
  | .unmap _ => none
  | .protect _ => none
  | .grantFirstTouch _ => none
  | .migrateIn _ => none
  | .mapCoreWindows _ => none
  | .mapBroadcastWindow _ => none
  | .ladleRequestStart _ => none
  | .ladleSegmentStart _ => none
  | .ladleSegmentLand _ _ => none
  | .peerAck _ => none
  | .peerAckTimeout _ => none
  | .peerSegmentReceive _ _ _ _ _ => none
  | .matrixRowLand _ _ _ => none
  | .matrixComputeStart _ => none
  | .matrixOpComplete _ => none
  | .lrelWaitEnd _ _ _ _ => none
  | .napEnd _ _ _ => none
  | .drainStart _ => none
  | .drainComplete _ => none
  | .sliceStart _ => none
  | .slotTableInstall _ => none
  | .tailReread _ _ => none
  | .queueQuantum _ => none
  | .launchStart _ _ => none
  | .launchComplete _ => none
  | .crewSwapOut _ _ _ => none
  | .crewResume _ _ => none
  | .samplerTick _ => none
  | .samplerEnable _ => none
  | .droppedCountClear _ => none
  | .registerWrite _ _ _ _ => none
  | .minVoltageRead _ => none
  | .restart _ => none
  | .registerQueue _ _ => none
  | .unregisterQueue _ _ => none
  | .openDebugSession _ => none
  | .closeDebugSession _ => none
  | .dump _ _ _ => none
  | .bindPeer _ _ _ => none
  | .unbindPeer _ _ => none
  | .installTenantKey _ _ => none
  | .getMeasurements _ _ => none
  | .decodeTableLoad _ _ => none
  | .deviceStart _ => none
  | .startTimeout => none
  | .faultEvent _ _ => none
  | .coreRetire _ => none
  | .groupSwitch _ => none
  | .scanTest _ _ => none
  | .stretchStart _ => none
  | .stretchEnd _ => none
  | .portDown _ => none
  | .portUp _ => none
  | .lostLinesAck _ => none
  | .hostResponse _ _ => none
  | .linkDropout _ => none
  | .openContext _ _ => none
  | .closeContext _ _ => none
  | .newLowestReading _ _ _ => none
  | .pageTakeComplete _ _ => none
  | .peerConnectionFailure _ _ => none
  | .peerPullRequest _ _ _ => none
  | .runFetchComplete _ _ _ => none
  | .securedSession _ => none

/-- The instruction the decoder reads from a table row's bits: `w` numbered as the table numbers a word's bits, laid out as the
device stores it. -/
noncomputable def decodeTableWord (nbits w : Nat) : Option Instr :=
  if nbits ≤ 32 then decodeBytes (wordBytes (BitVec.ofNat 32 w)) else none

end Sys2Proof
end

