-- ==== Sys2Proof/Config.lean ====
section
/-! DEFINITION. What an implementation of the W2 fixes and the manual leaves open: free values, each a constant without a body
(notes/assumptions/2.md, 3.md, 6.md, 7.md and 48.md say which rule leaves each one open). Nothing can be proved of them but that they are
values of their types. -/
namespace Sys2Proof.Config

/-- What a lane reads from an undefined lane register (R4, R25, R29): by draw, register and lane. -/
opaque freeLane : Nat → Nat → Nat → Word

/-- What an undefined uniform register reads (R4, R25, R29): by draw and register. -/
opaque freeUniform : Nat → Nat → Word

/-- An undefined byte (R4, R71, R160, R208): by draw and address. -/
opaque freeByte : Nat → Nat → Byte

/-- Nanoseconds that pass in a step (R410): by draw. -/
opaque freeNanos : Nat → Nat

/-- The unpublished results of FEX2, FLG2, FSIN and FCOS (R110): by operand and captured subnormal code. -/
opaque fex2 : Word → Bool → Word
opaque flg2 : Word → Bool → Word
opaque fsin : Word → Bool → Word
opaque fcos : Word → Bool → Word

/-- The release number of the firmware image (R342, service 1). -/
opaque firmwareRelease : Word

/-- The SHAKE256 measurement of a decode-table image and of a slot table (R386). -/
opaque measuredTable : TableImage → BitVec 512
opaque measuredSlots : SlotTable → BitVec 512

/-- The ML-DSA-65 signature of an evidence under the device's attestation key, and the certificate chain of that key (R386): by function, nonce,
measurements, device id and key flag. -/
opaque attest : Nat → Nat → List (Nat × Nat × BitVec 512) → Nat → Option Bool → List Byte
opaque attestChain : List Byte

/-- The mesh routes that change when a link drops out (R384): by link, source core and target core. -/
opaque reroutes : Nat → Nat → Nat → Bool

/-- The firmware's choices that no rule fixes: the physical page of a take or of a page-table node is an argument of the event;
the time of a scan test and the like are draws. -/
opaque freeNat : Nat → Nat → Nat

end Sys2Proof.Config
end

