-- ==== Sys2Proof/Machine/Numeric.lean ====
section
/-! DEFINITION. Floating-point formats and exact arithmetic (R53-R57, R105-R113): values are kept exact as (sign, magnitude,
power of two) and rounded once. -/
namespace Sys2Proof.Machine

/-- A floating format (R53): exponent and fraction widths; `e4m3` marks the format without infinities. -/
structure Fmt where
  ebits : Nat
  fbits : Nat
  e4m3 : Bool
  fp8 : Bool
  deriving DecidableEq, Repr

def Fmt.fp64 : Fmt := ⟨11, 52, false, false⟩
def Fmt.fp32 : Fmt := ⟨8, 23, false, false⟩
def Fmt.fp16 : Fmt := ⟨5, 10, false, false⟩
def Fmt.bf16 : Fmt := ⟨8, 7, false, false⟩
def Fmt.e4 : Fmt := ⟨4, 3, true, true⟩
def Fmt.e5 : Fmt := ⟨5, 2, false, true⟩

def Fmt.bias (F : Fmt) : Int := (2 ^ (F.ebits - 1) - 1 : Nat)

/-- The sign bit's place value. -/
def Fmt.signBit (F : Fmt) : Nat := 2 ^ (F.ebits + F.fbits)

/-- The all-ones exponent code. -/
def Fmt.emaxCode (F : Fmt) : Nat := 2 ^ F.ebits - 1

/-- The infinity code of a format that has one (R53). -/
def Fmt.inf (F : Fmt) : Nat := F.emaxCode * 2 ^ F.fbits

/-- The canonical NaN (R53, R54). -/
def Fmt.nan (F : Fmt) : Nat := if F.e4m3 then 0x7F else F.inf + 2 ^ (F.fbits - 1)

/-- The largest finite magnitude (R53). -/
def Fmt.largest (F : Fmt) : Nat := if F.e4m3 then 0x7E else F.inf - 1

/-- FMODE (R82, R55, R57). -/
structure FMode where
  rounding : Nat
  flush : Bool
  deriving DecidableEq, Repr

/-- The mode in the low three bits of FMODE. -/
def FMode.ofBits (b : BitVec 3) : FMode := ⟨(b.extractLsb' 0 2).toNat, b.getLsbD 2⟩

/-- Round to nearest even, subnormals kept: the matrix engine's mode (R55, R57). -/
def FMode.rne : FMode := ⟨0, false⟩

/-- A floating value: (-1)^neg * m * 2^e when finite. -/
inductive Fp where
  | nan
  | inf (neg : Bool)
  | fin (neg : Bool) (m : Nat) (e : Int)
  deriving DecidableEq, Repr

/-- Read a pattern (R53), a subnormal as a zero of its sign under the flush code (R105). -/
def Fp.read (F : Fmt) (flush : Bool) (bits : Nat) : Fp :=
  let neg := decide (bits / F.signBit % 2 = 1)
  let ex := bits / 2 ^ F.fbits % 2 ^ F.ebits
  let f := bits % 2 ^ F.fbits
  if F.e4m3 && ex == 15 && f == 7 then .nan
  else if !F.e4m3 && ex == F.emaxCode then (if f == 0 then .inf neg else .nan)
  else if ex == 0 then .fin neg (if flush then 0 else f) (1 - F.bias - F.fbits)
  else .fin neg (2 ^ F.fbits + f) (ex - F.bias - F.fbits)

/-- A magnitude over 2^sh, rounded to an integer under a rounding code (R55). -/
def shiftRound (mode : Nat) (neg : Bool) (m sh : Nat) : Nat :=
  let q := m / 2 ^ sh
  let r := m % 2 ^ sh
  let up :=
    if mode = 0 then decide (2 * r > 2 ^ sh) || (decide (2 * r = 2 ^ sh) && decide (q % 2 = 1))
    else if mode = 1 then false
    else if mode = 2 then !neg && decide (r ≠ 0)
    else neg && decide (r ≠ 0)
  if up then q + 1 else q

/-- The signed code of a magnitude code. -/
def Fmt.signed (F : Fmt) (neg : Bool) (c : Nat) : Nat := if neg then F.signBit + c else c

/-- A finite overflow (R55; R56 for FP8). -/
def Fmt.overflow (F : Fmt) (mode : Nat) (neg : Bool) : Nat :=
  if F.fp8 then F.signed neg F.largest
  else if mode = 0 then F.signed neg F.inf
  else if mode = 1 then F.signed neg F.largest
  else if mode = 2 then F.signed neg (if neg then F.largest else F.inf)
  else F.signed neg (if neg then F.inf else F.largest)

/-- An infinite result (R56: NaN in E4M3). -/
def Fmt.infinite (F : Fmt) (neg : Bool) : Nat := if F.e4m3 then 0x7F else F.signed neg F.inf

/-- rnd(x, F) of a finite x = (-1)^neg * m * 2^e (R55-R57): rounded with an unbounded exponent; tiny results flushed under the
flush code, else rounded onto the subnormal grid; overflow judged after rounding. -/
def Fmt.round (F : Fmt) (md : FMode) (neg : Bool) (m : Nat) (e : Int) : Nat :=
  if m = 0 then F.signed neg 0
  else
    let p := F.fbits + 1
    let sh := Nat.log2 m + 1 - p
    let m1 := shiftRound md.rounding neg m sh
    let k := (Nat.log2 m1 : Int) + e + sh
    let low := 1 - F.bias
    if k < low then
      if md.flush then F.signed neg 0
      else
        let q := low - F.fbits
        F.signed neg (if q ≤ e then m * 2 ^ (e - q).toNat else shiftRound md.rounding neg m (q - e).toNat)
    else
      let frac := m1 * 2 ^ p / 2 ^ (Nat.log2 m1 + 1) - 2 ^ F.fbits
      let code := (k + F.bias).toNat * 2 ^ F.fbits + frac
      if code > F.largest then F.overflow md.rounding neg else F.signed neg code

/-- Write a value in a format. -/
def Fp.write (F : Fmt) (md : FMode) : Fp → Nat
  | .nan => F.nan
  | .inf neg => F.infinite neg
  | .fin neg m e => F.round md neg m e

/-- The exact sum; an exact zero of operands of opposite sign is +0, -0 under RDN (R54). -/
def Fp.add (mode : Nat) : Fp → Fp → Fp
  | .nan, _ => .nan
  | _, .nan => .nan
  | .inf a, .inf b => if a = b then .inf a else .nan
  | .inf a, _ => .inf a
  | _, .inf b => .inf b
  | .fin na ma ea, .fin nb mb eb =>
    let e := min ea eb
    let a : Int := ma * 2 ^ (ea - e).toNat
    let b : Int := mb * 2 ^ (eb - e).toNat
    let s := (if na then -a else a) + (if nb then -b else b)
    if s = 0 then .fin (if na = nb then na else decide (mode = 3)) 0 e
    else .fin (decide (s < 0)) s.natAbs e

/-- The value with its sign changed. -/
def Fp.neg : Fp → Fp
  | .nan => .nan
  | .inf a => .inf !a
  | .fin n m e => .fin (!n) m e

/-- The exact product. -/
def Fp.mul : Fp → Fp → Fp
  | .nan, _ => .nan
  | _, .nan => .nan
  | .inf a, .inf b => .inf (a != b)
  | .inf a, .fin b m _ => if m = 0 then .nan else .inf (a != b)
  | .fin a m _, .inf b => if m = 0 then .nan else .inf (a != b)
  | .fin na ma ea, .fin nb mb eb => .fin (na != nb) (ma * mb) (ea + eb)

/-- The quotient, exact or with a lowest bit that stands for a remainder far below any format's precision. -/
def Fp.div : Fp → Fp → Fp
  | .nan, _ => .nan
  | _, .nan => .nan
  | .inf _, .inf _ => .nan
  | .inf a, .fin b _ _ => .inf (a != b)
  | .fin a _ _, .inf b => .fin (a != b) 0 0
  | .fin na ma ea, .fin nb mb eb =>
    if mb = 0 then (if ma = 0 then .nan else .inf (na != nb))
    else
      let n := ma * 2 ^ 128
      .fin (na != nb) (2 * (n / mb) + if n % mb = 0 then 0 else 1) (ea - eb - 129)

/-- The integer square root by bits, from bit `k - 1` down. -/
def isqrtFrom (n : Nat) : Nat → Nat → Nat
  | 0, r => r
  | k + 1, r =>
    let t := r + 2 ^ k
    isqrtFrom n k (if t * t ≤ n then t else r)

/-- floor(sqrt n). -/
def isqrt (n : Nat) : Nat := isqrtFrom n (Nat.log2 n / 2 + 1) 0

/-- The square root, with a lowest bit that stands for a remainder. -/
def Fp.sqrt : Fp → Fp
  | .nan => .nan
  | .inf neg => if neg then .nan else .inf false
  | .fin neg m e =>
    if m = 0 then .fin neg 0 0
    else if neg then .nan
    else
      let odd := e % 2 = 1
      let n := (if odd then 2 * m else m) * 2 ^ 256
      let h := (if odd then e - 1 else e) / 2
      let r := isqrt n
      .fin false (2 * r + if r * r = n then 0 else 1) (h - 129)

/-- 1 / x. -/
def Fp.recip (x : Fp) : Fp := Fp.div (.fin false 1 0) x

/-- 1 / sqrt x, with -0 giving -infinity (R109): sqrt keeps enough bits that the single rounding of the reciprocal is exact. -/
def Fp.rsqrt : Fp → Fp
  | .nan => .nan
  | .inf neg => if neg then .nan else .fin false 0 0
  | .fin neg m e =>
    if m = 0 then .inf neg
    else if neg then .nan
    else
      -- 1/sqrt(m 2^e) = sqrt(2^K / m) 2^(-(e + K)/2) with e + K even
      let K : Nat := if e % 2 = 0 then 400 else 401
      let r := isqrt (2 ^ K / m)
      .fin false (2 * r + if r * r * m = 2 ^ K then 0 else 1) (-((e + K) / 2) - 1)

/-- -1, 0 or 1 as x is below, equal to or above y; `none` when either is a NaN. -/
def Fp.compare : Fp → Fp → Option Int
  | .nan, _ => none
  | _, .nan => none
  | .inf a, .inf b => some (if a = b then 0 else if a then -1 else 1)
  | .inf a, .fin _ _ _ => some (if a then -1 else 1)
  | .fin _ _ _, .inf b => some (if b then 1 else -1)
  | .fin na ma ea, .fin nb mb eb =>
    let e := min ea eb
    let a : Int := (if na then -1 else 1) * (ma * 2 ^ (ea - e).toNat : Nat)
    let b : Int := (if nb then -1 else 1) * (mb * 2 ^ (eb - e).toNat : Nat)
    some (if a < b then -1 else if b < a then 1 else 0)

/-- Whether the value's sign is negative (a zero keeps its sign). -/
def Fp.isNeg : Fp → Bool
  | .nan => false
  | .inf n => n
  | .fin n _ _ => n

/-- Truncation towards zero to an integer, saturating at the bounds; 0 for a NaN (R113). -/
def Fp.toInt (lo hi : Int) : Fp → Int
  | .nan => 0
  | .inf n => if n then lo else hi
  | .fin n m e =>
    let t : Int := if 0 ≤ e then m * 2 ^ e.toNat else m / 2 ^ (-e).toNat
    let v := if n then -t else t
    if v < lo then lo else if hi < v then hi else v

/-- The value of an integer. -/
def Fp.ofInt (i : Int) : Fp := .fin (decide (i < 0)) i.natAbs 0

/-! ### Instructions on patterns -/

/-- A two-operand operation on patterns of one format under FMODE (R105). -/
def fpBin (F : Fmt) (md : FMode) (op : Fp → Fp → Fp) (a b : Nat) : Nat :=
  (op (Fp.read F md.flush a) (Fp.read F md.flush b)).write F md

def fpAdd (F : Fmt) (md : FMode) : Nat → Nat → Nat := fpBin F md (Fp.add md.rounding)
def fpSub (F : Fmt) (md : FMode) : Nat → Nat → Nat := fpBin F md fun x y => Fp.add md.rounding x y.neg
def fpMul (F : Fmt) (md : FMode) : Nat → Nat → Nat := fpBin F md Fp.mul
def fpDiv (F : Fmt) (md : FMode) : Nat → Nat → Nat := fpBin F md Fp.div

/-- rnd(a * b + d) with one rounding (R106). -/
def fpFma (F : Fmt) (md : FMode) (a b d : Nat) : Nat :=
  (Fp.add md.rounding ((Fp.read F md.flush a).mul (Fp.read F md.flush b)) (Fp.read F md.flush d)).write F md

/-- A one-operand operation on patterns. -/
def fpUn (F : Fmt) (md : FMode) (op : Fp → Fp) (a : Nat) : Nat := (op (Fp.read F md.flush a)).write F md

/-- A pattern after the operand flush of R105. -/
def fpFlushed (F : Fmt) (md : FMode) (a : Nat) : Nat :=
  if md.flush && a / 2 ^ F.fbits % 2 ^ F.ebits == 0 then a / F.signBit * F.signBit else a

/-- FMIN and FMAX (R106): a NaN yields to the other operand; -0 orders below +0; the chosen operand's bits. -/
def fpMinMax (F : Fmt) (md : FMode) (isMax : Bool) (a b : Nat) : Nat :=
  let x := Fp.read F md.flush a
  let y := Fp.read F md.flush b
  match x, y with
  | .nan, .nan => F.nan
  | .nan, _ => fpFlushed F md b
  | _, .nan => fpFlushed F md a
  | _, _ =>
    let aLess := match Fp.compare x y with
      | some c => decide (c < 0) || (decide (c = 0) && x.isNeg)
      | none => true
    if aLess != isMax then fpFlushed F md a else fpFlushed F md b

/-- A comparison of patterns (R108): false when either is a NaN. -/
def fpCmp (F : Fmt) (md : FMode) (rel : Int → Bool) (a b : Nat) : Bool :=
  match Fp.compare (Fp.read F md.flush a) (Fp.read F md.flush b) with
  | some c => rel c
  | none => false

/-- Unordered (R108). -/
def fpUnordered (F : Fmt) (md : FMode) (a b : Nat) : Bool :=
  (Fp.compare (Fp.read F md.flush a) (Fp.read F md.flush b)).isNone

/-- A conversion between formats (R113). -/
def fpConvert (F G : Fmt) (md : FMode) (a : Nat) : Nat := (Fp.read F md.flush a).write G md

/-! ### The special functions (R110)

Fixed-point numbers with 96 fractional bits carry true values to far below the stated bounds. The unpublished result is the
opaque constant of Config wherever that lies within the stated bound of the true value, and the rounded true value otherwise. -/

/-- One in fixed point. -/
def fxOne : Int := 2 ^ 96

/-- The product of two fixed-point numbers. -/
def fxMul (a b : Int) : Int := a * b / fxOne

/-- A power series x + ...: the term and the sum after `n` further terms, each the last times x / d(n). -/
def fxSeries (step : Int → Nat → Int) : Nat → Nat → Int → Int → Int
  | 0, _, _, s => s
  | n + 1, k, t, s =>
    let t' := step t k
    fxSeries step n (k + 1) t' (s + t')

/-- ln 2 in fixed point. -/
def fxLn2 : Int := 54916777467707473351141471128

/-- pi in fixed point. -/
def fxPi : Int := 248902613312231085230521944622

/-- e^x for 0 ≤ x < 1. -/
def fxExp (x : Int) : Int := fxSeries (fun t k => fxMul t x / (k + 1)) 30 0 fxOne fxOne

/-- The value of a finite operand in fixed point, rounded down. -/
def Fp.toFx : Fp → Int
  | .fin n m e =>
    let t : Int := if 0 ≤ e + 96 then m * 2 ^ (e + 96).toNat else m / 2 ^ (-(e + 96)).toNat
    if n then -t else t
  | _ => 0

/-- sin and cos of a fixed-point angle in [-pi, pi]. -/
def fxSin (x : Int) : Int :=
  let y := fxMul x x
  fxSeries (fun t k => -(fxMul t y) / ((2 * k + 2) * (2 * k + 3) : Nat)) 24 0 x x

def fxCos (x : Int) : Int :=
  let y := fxMul x x
  fxSeries (fun t k => -(fxMul t y) / ((2 * k + 1) * (2 * k + 2) : Nat)) 24 0 fxOne fxOne

/-- An angle reduced to [-pi, pi). The reduction loses at most 2^15 units of 2^-96. -/
def fxReduce (x : Int) : Int := (x + fxPi) % (2 * fxPi) - fxPi

/-- log2 of a mantissa in [1, 2), bit by bit: `n` further bits below place `p`. -/
def fxLog2From : Nat → Int → Int → Int → Int
  | 0, _, _, acc => acc
  | n + 1, x, place, acc =>
    let y := fxMul x x
    if y ≥ 2 * fxOne then fxLog2From n (y / 2) (place / 2) (acc + place)
    else fxLog2From n y (place / 2) acc

/-- log2 of m * 2^e, m > 0, in fixed point (to some 2^-60). -/
def fxLog2 (m : Nat) (e : Int) : Int :=
  let k := Nat.log2 m
  fxLog2From 64 ((m * 2 ^ 96 / 2 ^ k : Nat) : Int) (fxOne / 2) (((k : Int) + e) * fxOne)

/-- A fixed-point value scaled by 2^k, rounded to FP32. -/
def fxRound (flush : Bool) (x : Int) (k : Int) : Nat := Fmt.fp32.round ⟨0, flush⟩ (decide (x < 0)) x.natAbs (k - 96)

/-- One unit in the last place of FP32 around |x| * 2^k, as a multiple of 2^(k - 96); at least the subnormal spacing. -/
def fxUlp (x : Int) (k : Int) : Nat :=
  let top := (Nat.log2 x.natAbs : Int) + k - 96
  let u := max (top - 23) (-149)
  2 ^ (u - (k - 96)).toNat

/-- The candidate where its exact value lies within `bound` (in units of 2^(k - 96)) of x * 2^k, else the rounded x. -/
def withinBound (flush : Bool) (cand : Word) (x : Int) (k : Int) (bound : Nat) : Word :=
  match Fp.read Fmt.fp32 false cand.toNat with
  | .fin n m e =>
    -- candidate in units of 2^(k - 96 - 200), so that nothing is lost
    let c : Int := (m * 2 ^ (e - k + 296).toNat : Nat)
    let d := (if n then -c else c) - x * 2 ^ 200
    if 0 ≤ e - k + 296 ∧ d.natAbs ≤ (bound + 1) * 2 ^ 200 then cand else BitVec.ofNat 32 (fxRound flush x k)
  | _ => BitVec.ofNat 32 (fxRound flush x k)

/-- A tiny result of FLG2 under the flush code becomes a zero of its sign (R110). -/
def flushTiny (flush : Bool) (w : Word) : Word :=
  if flush && w.extractLsb' 23 8 == 0#8 then w &&& 0x80000000#32 else w

/-- FEX2 (R110). -/
def fex2 (flush : Bool) (a : Word) : Word :=
  match Fp.read Fmt.fp32 flush a.toNat with
  | .nan => 0x7FC00000#32
  | .inf neg => if neg then 0#32 else 0x7F800000#32
  | .fin neg m e =>
    let x := Fp.toFx (.fin neg m e)
    let tooBig := Fp.compare (.fin neg m e) (Fp.ofInt 128)
    let tooLow := Fp.compare (.fin neg m e) (Fp.ofInt (-150))
    if tooBig = some 0 ∨ tooBig = some 1 then 0x7F800000#32
    else if tooLow = some (-1) then 0#32
    else
      let n := x / fxOne
      let f := x % fxOne
      if f = 0 ∧ Fp.compare (.fin neg m e) (Fp.ofInt n) = some 0 ∧ (-149 ≤ n ∨ flush = true) then
        if flush && decide (n < -126) then 0#32 else BitVec.ofNat 32 (Fmt.fp32.round ⟨0, flush⟩ false 1 n)
      else
        let y := fxExp (fxMul f fxLn2)
        let r := withinBound flush (Config.fex2 a flush) y n (2 * fxUlp y n)
        -- a tiny 2^A has the sign +
        if flush && r.extractLsb' 23 8 == 0#8 then 0#32 else r

/-- FLG2 (R110). -/
def flg2 (flush : Bool) (a : Word) : Word :=
  match Fp.read Fmt.fp32 flush a.toNat with
  | .nan => 0x7FC00000#32
  | .inf neg => if neg then 0x7FC00000#32 else 0x7F800000#32
  | .fin neg m e =>
    if m = 0 then 0xFF800000#32
    else if neg then 0x7FC00000#32
    else if m = 2 ^ Nat.log2 m then
      BitVec.ofNat 32 ((Fp.ofInt ((Nat.log2 m : Int) + e)).write Fmt.fp32 ⟨0, flush⟩)
    else
      let y := fxLog2 m e
      let bound := if y.natAbs ≤ fxOne.natAbs then 2 ^ 74 else 2 * fxUlp y 0
      flushTiny flush (withinBound flush (Config.flg2 a flush) y 0 bound)

/-- A candidate brought into [-1, 1]. -/
def clampUnit (w : Word) : Word :=
  if w &&& 0x7FFFFFFF#32 ≤ 0x3F800000#32 then w else (w &&& 0x80000000#32) ||| 0x3F800000#32

/-- FSIN and FCOS (R110). -/
def fsin (flush : Bool) (a : Word) : Word :=
  match Fp.read Fmt.fp32 flush a.toNat with
  | .nan => 0x7FC00000#32
  | .inf _ => 0x7FC00000#32
  | .fin neg m e =>
    if m = 0 then (if neg then 0x80000000#32 else 0#32)
    else if Fp.compare (.fin false m e) (Fp.ofInt 32768) = some 1 then flushTiny flush (clampUnit (Config.fsin a flush))
    else flushTiny flush (withinBound flush (Config.fsin a flush) (fxSin (fxReduce (Fp.toFx (.fin neg m e)))) 0 (2 ^ 74))

def fcos (flush : Bool) (a : Word) : Word :=
  match Fp.read Fmt.fp32 flush a.toNat with
  | .nan => 0x7FC00000#32
  | .inf _ => 0x7FC00000#32
  | .fin neg m e =>
    if m = 0 then 0x3F800000#32
    else if Fp.compare (.fin false m e) (Fp.ofInt 32768) = some 1 then flushTiny flush (clampUnit (Config.fcos a flush))
    else flushTiny flush (withinBound flush (Config.fcos a flush) (fxCos (fxReduce (Fp.toFx (.fin neg m e)))) 0 (2 ^ 74))

end Sys2Proof.Machine
end

