-- ==== Sys2Proof/WellFormed.lean ====
section
/-! DEFINITION. Well-formed instructions: the operand values a word can hold and the manual's map does not allow (R20, R39, R87,
R140, R300). Each raises cause 0x002 at issue; must-be-zero bits and unassigned opcodes never become an instruction (Decode). -/
namespace Sys2Proof

/-- A scope field names a scope (R39). -/
def scopeOk (n : BitVec 3) : Bool := n.toNat < 6

/-- A number of R82 names a system register. -/
def sysregOk (n : Nat) : Bool := n < 0x12

/-- A per-lane system register (R82). -/
def sysregPerLane (n : Nat) : Bool := n == 0 || n == 1 || n == 3 || n == 4

/-- A system register that SWRS may write at some level (R82, R87). -/
def sysregWritable (n : Nat) : Bool := decide (7 ≤ n) && decide (n ≤ 0xC)

/-- A 64-bit system register, read into or written from an even pair (R82). -/
def sysreg64 (n : Nat) : Bool := n == 0xA || n == 0xB || n == 0xD || n == 0xE

/-- A payload operand (R136, R140): a count of at most 8, and d zero when the count is zero. -/
def payloadOk (d : BitVec 7) (p : BitVec 4) : Bool := decide (p.toNat ≤ 8) && (p != 0#4 || d == 0#7)

/-- A TST or TLD format code (R298, R300). -/
def tileFormatOk (f : BitVec 4) : Bool := decide (f.toNat ≤ 8)

/-- Whether every operand value is one the map allows; an instruction without a constrained operand is well formed. -/
def Instr.wf : Instr → Bool
  | .fence n => scopeOk n
  | .fenceAcq n => scopeOk n
  | .fenceRel n => scopeOk n
  | .sfence n => scopeOk n
  | .rds _ n => sysregOk n.toNat
  | .srds _ n => sysregOk n.toNat && !sysregPerLane n.toNat
  | .swrs _ n => sysregWritable n.toNat
  | .spawn d _ p => payloadOk d p
  | .hamp d _ p => payloadOk d p
  | .tst _ _ f _ => tileFormatOk f
  | .tld _ _ f _ => tileFormatOk f
  | _ => true

end Sys2Proof
end

