-- ==== Sys2Proof/Machine/Operands.lean ====
section
/-! DEFINITION. What the opcode map says of each instruction beside its effect (R35, R37, R38, R40, R92): its set, flags and pipe
cycles, and the registers it names, each with the count and the alignment that its operand kind gives it (R16, R17). -/
namespace Sys2Proof.Machine

/-- A register operand: the register named, how many consecutive registers it covers, and its alignment (R16). -/
structure RegUse where
  reg : Nat
  span : Nat
  align : Nat
  deriving DecidableEq, Repr

/-- A single register. -/
def one {n : Nat} (r : BitVec n) : RegUse := ⟨r.toNat, 1, 1⟩
/-- An aligned pair (R16). -/
def two {n : Nat} (r : BitVec n) : RegUse := ⟨r.toNat, 2, 2⟩
/-- An aligned quad (R16). -/
def four {n : Nat} (r : BitVec n) : RegUse := ⟨r.toNat, 4, 4⟩
/-- A run of payload registers (R136). -/
def payload (d : BitVec 7) (p : BitVec 4) : List RegUse := if p = 0#4 then [] else [⟨d.toNat, p.toNat, 1⟩]
/-- A system register's destination or source: a pair for a 64-bit register (R87). -/
def sysreg {n m : Nat} (d : BitVec n) (k : BitVec m) : RegUse := if sysreg64 k.toNat then two d else one d
/-- The k-selected uniform register of an LL word: none for k = 0, s1-s7 otherwise (R20). -/
def ksel (k : BitVec 3) : List RegUse := if k = 0#3 then [] else [⟨k.toNat, 1, 1⟩]

/-- What the map says of an instruction. `dest` is the d field of a long-latency word (R39): whether it is uniform, and its
number; `wlane` and `wuni` the registers that a word without the ll flag writes, the latter first in `uni`, and `reads` whether it reads
them as well (R80). -/
structure Info where
  lset : Bool
  ll : Bool
  rc : Bool
  xfer : Bool
  priv : Bool
  full : Bool
  cycles : Nat
  dest : Option (Bool × Nat)
  lane : List RegUse
  uni : List RegUse
  wlane : List RegUse := []
  wuni : List RegUse := []
  reads : Bool := false
  deriving DecidableEq, Repr

/-- The same word writing lane and uniform registers; and reading the uniform register that it writes. -/
def Info.writing (i : Info) (ls us : List RegUse) : Info := { i with wlane := ls, wuni := us }
def Info.alsoReads (i : Info) : Info := { i with reads := true }
/-- The uniform registers that a word reads. -/
def Info.uniReads (i : Info) : List RegUse := if i.reads then i.uni else i.uni.drop i.wuni.length

/-- An L-set word that occupies the lane pipe for one cycle. -/
def Info.l (lane uni : List RegUse) : Info :=
  { lset := true, ll := false, rc := false, xfer := false, priv := false, full := false, cycles := 1, dest := none,
    lane := lane, uni := uni }
/-- A U-set word that occupies the uniform pipe for one cycle. -/
def Info.u (lane uni : List RegUse) : Info := { Info.l lane uni with lset := false }
/-- An event: no word, no operand. -/
def Info.event : Info := { Info.l [] [] with lset := false, cycles := 0 }

/-! The operand shapes that the map's instructions share. -/

/-- Three single lane registers. -/
def Info.lane3 (d a b : BitVec 7) : Info := (Info.l [one d, one a, one b] []).writing [one d] []
def Info.lane2 (d a : BitVec 7) : Info := (Info.l [one d, one a] []).writing [one d] []
def Info.lane1 (d : BitVec 7) : Info := (Info.l [one d] []).writing [one d] []
/-- A single lane register that is read. -/
def Info.laneSrc (a : BitVec 7) : Info := Info.l [one a] []
/-- Three lane pairs. -/
def Info.pair3 (d a b : BitVec 7) : Info := (Info.l [two d, two a, two b] []).writing [two d] []
def Info.pair2 (d a : BitVec 7) : Info := (Info.l [two d, two a] []).writing [two d] []
/-- A pair shifted by a single register. -/
def Info.pairShift (d a b : BitVec 7) : Info := (Info.l [two d, two a, one b] []).writing [two d] []
/-- A lane mask in a uniform register, from two lane registers, from two pairs, or from one register. -/
def Info.mask2 (d : BitVec 6) (a b : BitVec 7) : Info := (Info.l [one a, one b] [one d]).writing [] [one d]
def Info.maskPair (d : BitVec 6) (a b : BitVec 7) : Info := (Info.l [two a, two b] [one d]).writing [] [one d]
def Info.mask1 (d : BitVec 6) (a : BitVec 7) : Info := (Info.l [one a] [one d]).writing [] [one d]
/-- Lane registers with one uniform operand. -/
def Info.laneB (d a : BitVec 7) (b : BitVec 6) : Info := (Info.l [one d, one a] [one b]).writing [one d] []
def Info.maskB (d : BitVec 6) (a : BitVec 7) (b : BitVec 6) : Info := (Info.l [one a] [one d, one b]).writing [] [one d]
/-- Uniform registers. -/
def Info.uni3 (d a b : BitVec 6) : Info := (Info.u [] [one d, one a, one b]).writing [] [one d]
def Info.uni2 (d a : BitVec 6) : Info := (Info.u [] [one d, one a]).writing [] [one d]
def Info.uni1 (d : BitVec 6) : Info := (Info.u [] [one d]).writing [] [one d]
/-- A single uniform register that is read. -/
def Info.uniSrc (a : BitVec 6) : Info := Info.u [] [one a]
def Info.uniPair3 (d a b : BitVec 6) : Info := (Info.u [] [two d, two a, two b]).writing [] [two d]
/-- A pair from a single register and the reverse (R111); a uniform operand copied to lanes (R84). -/
def Info.widen (d a : BitVec 7) : Info := (Info.l [two d, one a] []).writing [two d] []
def Info.narrow (d a : BitVec 7) : Info := (Info.l [one d, two a] []).writing [one d] []
def Info.uniToLane (d : BitVec 7) (a : BitVec 6) : Info := (Info.l [one d] [one a]).writing [one d] []
/-- A system register read into lanes or into a uniform register, and one written (R87). -/
def Info.sysToLane (d : BitVec 7) (n : BitVec 14) : Info := (Info.l [sysreg d n] []).writing [sysreg d n] []
def Info.sysToUni (d : BitVec 6) (n : BitVec 15) : Info := (Info.u [] [sysreg d n]).writing [] [sysreg d n]
def Info.sysFrom (d : BitVec 6) (n : BitVec 15) : Info := Info.u [] [sysreg d n]
/-- One lane of a lane register into a uniform register (R88); a uniform select (R103); a uniform register from a pair, and from a pair
and a count (R245, R246, R355). -/
def Info.getLane (d : BitVec 6) (k : BitVec 7) : Info := (Info.u [one k] [one d]).writing [] [one d]
def Info.uni4 (d a b : BitVec 6) (f : BitVec 3) : Info := (Info.u [] [one d, one a, one b, one f]).writing [] [one d]
def Info.uniOfPair (d a : BitVec 6) : Info := (Info.u [] [one d, two a]).writing [] [one d]
def Info.uniOfPair2 (d a b : BitVec 6) : Info := (Info.u [] [one d, two a, one b]).writing [] [one d]
/-- A scratchpad access, a memory access, an access of a line without a data operand, and a uniform memory access: each long
latency, its d field the destination (R39). -/
def Info.scr (d : RegUse) (a : BitVec 7) (k : BitVec 3) : Info :=
  { Info.l [d, one a] (ksel k) with ll := true, dest := some (false, d.reg) }
def Info.mem (d : RegUse) (a : BitVec 7) (k : BitVec 3) : Info :=
  { Info.l [d, two a] (ksel k) with ll := true, dest := some (false, d.reg) }
def Info.line (a : BitVec 7) (k : BitVec 3) : Info := { Info.l [two a] (ksel k) with ll := true }
def Info.umem (d : RegUse) (a : BitVec 6) : Info :=
  { Info.u [] [d, two a] with ll := true, dest := some (true, d.reg) }
/-- A firmware service, which reads s1-s7 and leaves its result in s0 (R342). -/
def Info.service : Info := (Info.u [] [⟨0, 1, 1⟩, ⟨1, 7, 1⟩]).writing [] [⟨0, 1, 1⟩]
/-- The flags of the map beside the shape: region-closing (R35), a transfer (R26), full mask (R40), privileged (R40), and the
cycles of the pipe (R92). -/
def Info.closing (i : Info) : Info := { i with rc := true }
def Info.transfer (i : Info) : Info := { i with xfer := true }
def Info.needsFull (i : Info) : Info := { i with full := true }
def Info.privileged (i : Info) (p : Bool) : Info := { i with priv := p }
def Info.taking (i : Info) (n : Nat) : Info := { i with cycles := n }
/-- A tile transfer's ticket and location (R298). -/
def Info.tileXfer (d b : BitVec 7) : Info := (((Info.l [one d, one b] []).writing [one d] []).needsFull).taking 2

/-- The map's entry of each instruction. -/
def infoOf : Instr → Info
  | .add d a b => Info.lane3 d a b
  | .sub d a b => Info.lane3 d a b
  | .addi d a _ => Info.lane2 d a
  | .mul d a b => Info.lane3 d a b
  | .mulhS d a b => Info.lane3 d a b
  | .mulhZ d a b => Info.lane3 d a b
  | .mad d a b => Info.lane3 d a b
  | .minS d a b => Info.lane3 d a b
  | .minZ d a b => Info.lane3 d a b
  | .maxS d a b => Info.lane3 d a b
  | .maxZ d a b => Info.lane3 d a b
  | .abs d a => Info.lane2 d a
  | .and d a b => Info.lane3 d a b
  | .or d a b => Info.lane3 d a b
  | .xor d a b => Info.lane3 d a b
  | .andn d a b => Info.lane3 d a b
  | .andi d a _ => Info.lane2 d a
  | .ori d a _ => Info.lane2 d a
  | .xori d a _ => Info.lane2 d a
  | .shl d a b => Info.lane3 d a b
  | .shr d a b => Info.lane3 d a b
  | .sar d a b => Info.lane3 d a b
  | .shli d a _ => Info.lane2 d a
  | .shri d a _ => Info.lane2 d a
  | .sari d a _ => Info.lane2 d a
  | .rotl d a b => Info.lane3 d a b
  | .popc d a => Info.lane2 d a
  | .clz d a => Info.lane2 d a
  | .brev d a => Info.lane2 d a
  | .bfxS d a b => Info.lane3 d a b
  | .bfxZ d a b => Info.lane3 d a b
  | .bfi d a b => Info.lane3 d a b
  | .addD d a b => Info.pair3 d a b
  | .subD d a b => Info.pair3 d a b
  | .mulD d a b => (Info.pair3 d a b).taking 2
  | .shlD d a b => Info.pairShift d a b
  | .shrD d a b => Info.pairShift d a b
  | .sarD d a b => Info.pairShift d a b
  | .cmpEq d a b => Info.mask2 d a b
  | .cmpNe d a b => Info.mask2 d a b
  | .cmpLtS d a b => Info.mask2 d a b
  | .cmpLeS d a b => Info.mask2 d a b
  | .cmpLtZ d a b => Info.mask2 d a b
  | .cmpLeZ d a b => Info.mask2 d a b
  | .cmpiEq d a _ => Info.mask1 d a
  | .cmpiLtS d a _ => Info.mask1 d a
  | .sel d a b => Info.laneB d a b
  | .divS d a b => (Info.lane3 d a b).taking 10
  | .divZ d a b => (Info.lane3 d a b).taking 10
  | .remS d a b => (Info.lane3 d a b).taking 10
  | .remZ d a b => (Info.lane3 d a b).taking 10
  | .addB d a b => Info.laneB d a b
  | .subB d a b => Info.laneB d a b
  | .mulB d a b => Info.laneB d a b
  | .madB d a b => Info.laneB d a b
  | .andB d a b => Info.laneB d a b
  | .orB d a b => Info.laneB d a b
  | .xorB d a b => Info.laneB d a b
  | .shlB d a b => Info.laneB d a b
  | .shrB d a b => Info.laneB d a b
  | .cmpEqB d a b => Info.maskB d a b
  | .cmpLtSB d a b => Info.maskB d a b
  | .fadd d a b => Info.lane3 d a b
  | .fsub d a b => Info.lane3 d a b
  | .fmul d a b => Info.lane3 d a b
  | .ffma d a b => Info.lane3 d a b
  | .fmin d a b => Info.lane3 d a b
  | .fmax d a b => Info.lane3 d a b
  | .fabs d a => Info.lane2 d a
  | .fneg d a => Info.lane2 d a
  | .fcmpEq d a b => Info.mask2 d a b
  | .fcmpLt d a b => Info.mask2 d a b
  | .fcmpLe d a b => Info.mask2 d a b
  | .fcmpUn d a b => Info.mask2 d a b
  | .frcp d a => (Info.lane2 d a).taking 4
  | .frsq d a => (Info.lane2 d a).taking 4
  | .fsqrt d a => (Info.lane2 d a).taking 4
  | .fdiv d a b => (Info.lane3 d a b).taking 8
  | .fex2 d a => (Info.lane2 d a).taking 4
  | .flg2 d a => (Info.lane2 d a).taking 4
  | .fsin d a => (Info.lane2 d a).taking 4
  | .fcos d a => (Info.lane2 d a).taking 4
  | .faddB d a b => Info.laneB d a b
  | .fmulB d a b => Info.laneB d a b
  | .ffmaB d a b => Info.laneB d a b
  | .dadd d a b => (Info.pair3 d a b).taking 2
  | .dsub d a b => (Info.pair3 d a b).taking 2
  | .dmul d a b => (Info.pair3 d a b).taking 2
  | .dfma d a b => (Info.pair3 d a b).taking 2
  | .ddiv d a b => (Info.pair3 d a b).taking 16
  | .dsqrt d a => (Info.pair2 d a).taking 16
  | .dcmpEq d a b => (Info.maskPair d a b).taking 2
  | .dcmpLt d a b => (Info.maskPair d a b).taking 2
  | .dcmpLe d a b => (Info.maskPair d a b).taking 2
  | .faddF16x2 d a b => Info.lane3 d a b
  | .fmulF16x2 d a b => Info.lane3 d a b
  | .ffmaF16x2 d a b => Info.lane3 d a b
  | .cvtF32S32 d a => Info.lane2 d a
  | .cvtF32Z32 d a => Info.lane2 d a
  | .cvtS32F32 d a => Info.lane2 d a
  | .cvtZ32F32 d a => Info.lane2 d a
  | .cvtF64F32 d a => Info.widen d a
  | .cvtF32F64 d a => Info.narrow d a
  | .cvtF64S32 d a => Info.widen d a
  | .cvtS32F64 d a => Info.narrow d a
  | .cvtF16x2F32 d a b => Info.lane3 d a b
  | .cvtF32F16 d a _ => Info.lane2 d a
  | .cvtBf16x2F32 d a b => Info.lane3 d a b
  | .cvtF32Bf16 d a _ => Info.lane2 d a
  | .cvtE4x2F32 d a b => Info.lane3 d a b
  | .cvtE5x2F32 d a b => Info.lane3 d a b
  | .cvtF32E4 d a _ => Info.lane2 d a
  | .cvtF32E5 d a _ => Info.lane2 d a
  | .mov d a => Info.lane2 d a
  | .movD d a => Info.pair2 d a
  | .movi d _ => Info.lane1 d
  | .movh d _ => Info.lane1 d
  | .movB d a => Info.uniToLane d a
  | .setx a => Info.laneSrc a
  | .setxi _ => Info.l [] []
  | .movxG d _ => Info.lane1 d
  | .movxP a _ => Info.laneSrc a
  | .rds d n => Info.sysToLane d n
  | .brv m _ => (Info.l [] [one m]).transfer
  | .brc m _ => (Info.l [] [one m]).transfer
  | .jmpi a => (Info.l [two a] []).transfer
  | .calli a => (Info.l [two a] []).transfer
  | .ret => (Info.l [] []).transfer
  | .pickLane d a b => Info.lane3 d a b
  | .pickFlip d a _ => Info.lane2 d a
  | .pickLo d a _ => Info.lane2 d a
  | .pickHi d a _ => Info.lane2 d a
  | .pickSeat d a b => Info.lane3 d a b
  | .voteAny d a => Info.mask1 d a
  | .voteAll d a => Info.mask1 d a
  | .voteBal d a => Info.mask1 d a
  | .lds8 d a _ k => Info.scr (one d) a k
  | .lds8s d a _ k => Info.scr (one d) a k
  | .lds16 d a _ k => Info.scr (one d) a k
  | .lds16s d a _ k => Info.scr (one d) a k
  | .lds32 d a _ k => Info.scr (one d) a k
  | .lds64 d a _ k => Info.scr (two d) a k
  | .lds128 d a _ k => Info.scr (four d) a k
  | .sts8 d a _ k => Info.scr (one d) a k
  | .sts16 d a _ k => Info.scr (one d) a k
  | .sts32 d a _ k => Info.scr (one d) a k
  | .sts64 d a _ k => Info.scr (two d) a k
  | .sts128 d a _ k => Info.scr (four d) a k
  | .atsAdd d a _ k => (Info.scr (one d) a k).closing
  | .atsMinS d a _ k => (Info.scr (one d) a k).closing
  | .atsMaxS d a _ k => (Info.scr (one d) a k).closing
  | .atsMinZ d a _ k => (Info.scr (one d) a k).closing
  | .atsMaxZ d a _ k => (Info.scr (one d) a k).closing
  | .atsAnd d a _ k => (Info.scr (one d) a k).closing
  | .atsOr d a _ k => (Info.scr (one d) a k).closing
  | .atsXor d a _ k => (Info.scr (one d) a k).closing
  | .atsXchg d a _ k => (Info.scr (one d) a k).closing
  | .atsCas d a _ k => (Info.scr (two d) a k).closing
  | .arset d a _ k => (Info.scr (one d) a k).closing
  | .aradd d a _ k => (Info.scr (one d) a k).closing
  | .arwait d a _ k => Info.scr (one d) a k
  | .arpoll d a _ k => Info.scr (one d) a k
  | .ld8 d a _ k => Info.mem (one d) a k
  | .ld8s d a _ k => Info.mem (one d) a k
  | .ld16 d a _ k => Info.mem (one d) a k
  | .ld16s d a _ k => Info.mem (one d) a k
  | .ld32 d a _ k => Info.mem (one d) a k
  | .ld64 d a _ k => Info.mem (two d) a k
  | .ld128 d a _ k => Info.mem (four d) a k
  | .st8 d a _ k => Info.mem (one d) a k
  | .st16 d a _ k => Info.mem (one d) a k
  | .st32 d a _ k => Info.mem (one d) a k
  | .st64 d a _ k => Info.mem (two d) a k
  | .st128 d a _ k => Info.mem (four d) a k
  | .ld32V d a _ k => (Info.mem (one d) a k).closing
  | .ld64V d a _ k => (Info.mem (two d) a k).closing
  | .st32V d a _ k => (Info.mem (one d) a k).closing
  | .st64V d a _ k => (Info.mem (two d) a k).closing
  | .ld32Acq d a _ k => Info.mem (one d) a k
  | .ld64Acq d a _ k => Info.mem (two d) a k
  | .st32Rel d a _ k => Info.mem (one d) a k
  | .st64Rel d a _ k => Info.mem (two d) a k
  | .atAdd d a _ k => (Info.mem (one d) a k).closing
  | .atMinS d a _ k => (Info.mem (one d) a k).closing
  | .atMaxS d a _ k => (Info.mem (one d) a k).closing
  | .atMinZ d a _ k => (Info.mem (one d) a k).closing
  | .atMaxZ d a _ k => (Info.mem (one d) a k).closing
  | .atAnd d a _ k => (Info.mem (one d) a k).closing
  | .atOr d a _ k => (Info.mem (one d) a k).closing
  | .atXor d a _ k => (Info.mem (one d) a k).closing
  | .atXchg d a _ k => (Info.mem (one d) a k).closing
  | .atCas d a _ k => (Info.mem (two d) a k).closing
  | .atIncw d a _ k => (Info.mem (one d) a k).closing
  | .atAddD d a _ k => (Info.mem (two d) a k).closing
  | .atXchgD d a _ k => (Info.mem (two d) a k).closing
  | .atCasD d a _ k => (Info.mem (four d) a k).closing
  | .pref a _ k => Info.line a k
  | .wbl a _ k => Info.line a k
  | .disc a _ k => Info.line a k
  | .fence _ => Info.l [] []
  | .fenceAcq _ => Info.l [] []
  | .fenceRel _ => Info.l [] []
  | .spawn d a p => (Info.l (payload d p ++ [two a]) []).closing
  | .exit => (Info.l [] []).transfer
  | .join d a => Info.lane2 d a
  | .leave => Info.l [] []
  | .bar => Info.l [] []
  | .bara d => Info.lane1 d
  | .barw a => Info.laneSrc a
  | .hamp d a p => (Info.l (payload d p ++ [one a]) []).closing.transfer
  | .lres d a b => (Info.lane3 d a b).taking 2
  | .lrel a => (Info.laneSrc a).taking 2
  | .lbind a b => (Info.l [one a, four b] []).taking 2
  | .prset _ a => (Info.laneSrc a).taking 2
  | .prget d _ => (Info.lane1 d).taking 2
  | .oprdy => (Info.l [] []).taking 2
  | .tzero _ => (Info.l [] []).needsFull.taking 2
  | .mma d _ _ _ => (Info.lane1 d).closing.needsFull.taking 2
  | .mmap d _ _ _ => (Info.lane1 d).closing.needsFull.taking 2
  | .mwait a => (Info.laneSrc a).taking 2
  | .tst d _ _ b => Info.tileXfer d b
  | .tld d _ _ b => Info.tileXfer d b
  | .tnorm _ => (Info.l [] []).needsFull.taking 2
  | .texp d _ => (Info.lane1 d).taking 2
  | .tchk d _ => (Info.lane1 d).needsFull.taking 2
  | .sadd d a b => Info.uni3 d a b
  | .ssub d a b => Info.uni3 d a b
  | .saddi d a _ => Info.uni2 d a
  | .smul d a b => Info.uni3 d a b
  | .smulhS d a b => Info.uni3 d a b
  | .smulhZ d a b => Info.uni3 d a b
  | .sminS d a b => Info.uni3 d a b
  | .smaxS d a b => Info.uni3 d a b
  | .sminZ d a b => Info.uni3 d a b
  | .smaxZ d a b => Info.uni3 d a b
  | .sand d a b => Info.uni3 d a b
  | .sor d a b => Info.uni3 d a b
  | .sxor d a b => Info.uni3 d a b
  | .sandn d a b => Info.uni3 d a b
  | .sandi d a _ => Info.uni2 d a
  | .sori d a _ => Info.uni2 d a
  | .sxori d a _ => Info.uni2 d a
  | .sshl d a b => Info.uni3 d a b
  | .sshr d a b => Info.uni3 d a b
  | .ssar d a b => Info.uni3 d a b
  | .sshli d a _ => Info.uni2 d a
  | .sshri d a _ => Info.uni2 d a
  | .ssari d a _ => Info.uni2 d a
  | .spopc d a => Info.uni2 d a
  | .sclz d a => Info.uni2 d a
  | .sffs d a => Info.uni2 d a
  | .sbrev d a => Info.uni2 d a
  | .sbfxZ d a b => Info.uni3 d a b
  | .sbfi d a b => (Info.uni3 d a b).alsoReads
  | .saddD d a b => Info.uniPair3 d a b
  | .ssubD d a b => Info.uniPair3 d a b
  | .scmpEq d a b => Info.uni3 d a b
  | .scmpNe d a b => Info.uni3 d a b
  | .scmpLtS d a b => Info.uni3 d a b
  | .scmpLeS d a b => Info.uni3 d a b
  | .scmpLtZ d a b => Info.uni3 d a b
  | .scmpLeZ d a b => Info.uni3 d a b
  | .ssel d a b f => Info.uni4 d a b f
  | .sdivZ d a b => (Info.uni3 d a b).taking 10
  | .sremZ d a b => (Info.uni3 d a b).taking 10
  | .smov d a => Info.uni2 d a
  | .smovi d _ => Info.uni1 d
  | .smovh d _ => (Info.uni1 d).alsoReads
  | .srds d n => Info.sysToUni d n
  | .swrs d n => (Info.sysFrom d n).privileged (n.toNat != 8 && sysregWritable n.toNat)
  | .sgetl d _ k => Info.getLane d k
  | .bra _ => (Info.u [] []).transfer
  | .bz a _ => (Info.uniSrc a).transfer
  | .bnz a _ => (Info.uniSrc a).transfer
  | .bneg a _ => (Info.uniSrc a).transfer
  | .call _ => (Info.u [] []).transfer
  | .calls a => (Info.u [] [two a]).transfer
  | .rets => (Info.u [] []).transfer
  | .rcv => (Info.u [] []).transfer
  | .land => Info.u [] []
  | .nop => Info.u [] []
  | .sld32 d a _ _ => Info.umem (one d) a
  | .sld64 d a _ _ => Info.umem (two d) a
  | .sst32 d a _ _ => Info.umem (one d) a
  | .sst64 d a _ _ => Info.umem (two d) a
  | .sld32V d a _ _ => (Info.umem (one d) a).closing
  | .sst32V d a _ _ => (Info.umem (one d) a).closing
  | .satAdd d a _ _ => (Info.umem (one d) a).closing
  | .satCas d a _ _ => (Info.umem (two d) a).closing
  | .sfence _ => Info.u [] []
  | .cpk a b => (Info.u [] [two a, one b]).closing.needsFull
  | .cpq d => Info.uni1 d
  | .pdrain => (Info.u [] []).closing
  | .yield => Info.u [] []
  | .donate a => Info.uniSrc a
  | .budget d => Info.uni1 d
  | .nap a => Info.uniSrc a
  | .trap _ => (Info.u [] []).transfer
  | .bkpt => (Info.u [] []).transfer
  | .svc _ => Info.service.transfer
  | .eret => (Info.u [] []).transfer.privileged true
  | .launch d a => (Info.uniOfPair d a).closing
  | .lwait a => Info.uniSrc a
  | .probe d a _ => Info.umem (one d) a
  | .pgtake d a => (Info.uniOfPair d a).privileged true
  | .maprq d a b => Info.uniOfPair2 d a b
  | .trace d _ => Info.uniSrc d
  | .trailer _ _ _ _ => (Info.u [] []).taking 0
  | .warpSelect _ _ => Info.event
  | .longLatencyComplete _ _ _ _ => Info.event
  | .rotation _ _ _ => Info.event
  | .rotationGiveUp _ _ _ => Info.event
  | .joinProceed _ _ _ _ => Info.event
  | .crewRelease _ _ => Info.event
  | .binTimerExpiry _ _ => Info.event
  | .binLaunch _ _ => Info.event
  | .launchWarpCreate _ _ => Info.event
  | .warpEnd _ _ _ => Info.event
  | .scratchpadAccept _ => Info.event
  | .windowAccess _ _ _ _ _ => Info.event
  | .multicastDelivery _ => Info.event
  | .storePerform _ _ _ _ => Info.event
  | .dataArrival _ _ => Info.event
  | .gets _ _ => Info.event
  | .getm _ _ => Info.event
  | .put _ _ => Info.event
  | .clean _ _ => Info.event
  | .discMessage _ _ => Info.event
  | .hgets _ _ => Info.event
  | .hgetm _ _ _ => Info.event
  | .snpdata _ => Info.event
  | .snpinv _ => Info.event
  | .snpcur _ => Info.event
  | .deferredFaultRaise _ _ _ => Info.event
  | .watchpointReport _ _ _ => Info.event
  | .trapResume _ _ _ => Info.event
  | .launchEndForTrap _ => Info.event
  | .pagePullComplete _ _ _ => Info.event
  | .pagePullTimeout _ => Info.event
  | .mapMemory _ _ => Info.event
  | .unmap _ => Info.event
  | .protect _ => Info.event
  | .grantFirstTouch _ => Info.event
  | .migrateIn _ => Info.event
  | .mapCoreWindows _ => Info.event
  | .mapBroadcastWindow _ => Info.event
  | .ladleRequestStart _ => Info.event
  | .ladleSegmentStart _ => Info.event
  | .ladleSegmentLand _ _ => Info.event
  | .peerAck _ => Info.event
  | .peerAckTimeout _ => Info.event
  | .peerSegmentReceive _ _ _ _ _ => Info.event
  | .matrixRowLand _ _ _ => Info.event
  | .matrixComputeStart _ => Info.event
  | .matrixOpComplete _ => Info.event
  | .lrelWaitEnd _ _ _ _ => Info.event
  | .napEnd _ _ _ => Info.event
  | .drainStart _ => Info.event
  | .drainComplete _ => Info.event
  | .sliceStart _ => Info.event
  | .slotTableInstall _ => Info.event
  | .tailReread _ _ => Info.event
  | .queueQuantum _ => Info.event
  | .launchStart _ _ => Info.event
  | .launchComplete _ => Info.event
  | .crewSwapOut _ _ _ => Info.event
  | .crewResume _ _ => Info.event
  | .samplerTick _ => Info.event
  | .samplerEnable _ => Info.event
  | .droppedCountClear _ => Info.event
  | .registerWrite _ _ _ _ => Info.event
  | .minVoltageRead _ => Info.event
  | .restart _ => Info.event
  | .registerQueue _ _ => Info.event
  | .unregisterQueue _ _ => Info.event
  | .openDebugSession _ => Info.event
  | .closeDebugSession _ => Info.event
  | .dump _ _ _ => Info.event
  | .bindPeer _ _ _ => Info.event
  | .unbindPeer _ _ => Info.event
  | .installTenantKey _ _ => Info.event
  | .getMeasurements _ _ => Info.event
  | .decodeTableLoad _ _ => Info.event
  | .deviceStart _ => Info.event
  | .startTimeout => Info.event
  | .faultEvent _ _ => Info.event
  | .coreRetire _ => Info.event
  | .groupSwitch _ => Info.event
  | .scanTest _ _ => Info.event
  | .stretchStart _ => Info.event
  | .stretchEnd _ => Info.event
  | .portDown _ => Info.event
  | .portUp _ => Info.event
  | .lostLinesAck _ => Info.event
  | .hostResponse _ _ => Info.event
  | .linkDropout _ => Info.event
  | .openContext _ _ => Info.event
  | .closeContext _ _ => Info.event
  | .newLowestReading _ _ _ => Info.event
  | .pageTakeComplete _ _ => Info.event
  | .peerConnectionFailure _ _ => Info.event
  | .peerPullRequest _ _ _ => Info.event
  | .runFetchComplete _ _ _ => Info.event
  | .securedSession _ => Info.event

/-- The lane registers an instruction names. -/
def laneRegs (i : Info) : List Nat := i.lane.flatMap fun u => (List.range u.span).map (u.reg + ·)
/-- The uniform registers an instruction names. -/
def uniRegs (i : Info) : List Nat := i.uni.flatMap fun u => (List.range u.span).map (u.reg + ·)

/-- An operand's registers exist for an allotment of n lane rows (R17): v-registers below n, or temporaries up to t7. -/
def RegUse.within (n : Nat) (u : RegUse) : Bool :=
  if u.reg < 120 then decide (u.reg + u.span ≤ n) else decide (u.reg + u.span ≤ 128)

/-- A pair or quad is aligned (R17). -/
def RegUse.aligned (u : RegUse) : Bool := u.reg % u.align == 0

/-- A d field names a temporary (R39). -/
def namesTemp : Option (Bool × Nat) → Bool
  | none => false
  | some (uniform, r) => if uniform then decide (56 ≤ r) else decide (120 ≤ r)

/-! ### Immediate forms (R20) -/

/-- sext(x, n) as a 32-bit value. -/
def simm {n : Nat} (x : BitVec n) : Word := x.signExtend 32
/-- zext(x, n) as a 32-bit value. -/
def zimm {n : Nat} (x : BitVec n) : Word := x.setWidth 32
/-- A signed word offset from the address of the transferring word. -/
def target {n : Nat} (pc : Pc) (off : BitVec n) : Pc := pc + 4#48 * off.signExtend 48

end Sys2Proof.Machine
end

