-- ==== Sys2Proof/Machine/Sparse.lean ====
section
/-! DEFINITION. Two plain containers: a canonical sparse map of data cells by address, and a table of records by number. -/
namespace Sys2Proof.Machine

/-- Cells by address; an address not listed holds the map's default. -/
abbrev Sparse (α : Type) := List (Nat × α)

/-- The cell at `k`, or the default `d`. -/
def Sparse.get {α : Type} (d : α) : Sparse α → Nat → α
  | [], _ => d
  | (k, v) :: m, a => if k = a then v else Sparse.get d m a

/-- Put a cell in its place by address. -/
def Sparse.insert {α : Type} : Sparse α → Nat → α → Sparse α
  | [], a, v => [(a, v)]
  | (k, x) :: m, a, v =>
    if a < k then (a, v) :: (k, x) :: m
    else if a = k then (a, v) :: m
    else (k, x) :: Sparse.insert m a v

/-- Write one cell, keeping addresses rising and no default listed: writing the default takes the cell off the list. -/
def Sparse.set {α : Type} [DecidableEq α] (d : α) (m : Sparse α) (a : Nat) (v : α) : Sparse α :=
  if v = d then m.filter fun c => c.1 ≠ a else Sparse.insert m a v

/-- The canonical form: addresses strictly rising, no cell equal to the default. -/
def Sparse.wf {α : Type} [DecidableEq α] (d : α) : Sparse α → Bool
  | [] => true
  | [(_, v)] => decide (v ≠ d)
  | (k, v) :: (k', v') :: m => decide (v ≠ d) && decide (k < k') && Sparse.wf d ((k', v') :: m)

/-- Write consecutive cells from `a` up. -/
def Sparse.setAll {α : Type} [DecidableEq α] (d : α) (m : Sparse α) (a : Nat) : List α → Sparse α
  | [] => m
  | v :: vs => Sparse.setAll d (Sparse.set d m a v) (a + 1) vs

/-- The cells `a` to `a + n - 1`. -/
def Sparse.getAll {α : Type} (d : α) (m : Sparse α) (a : Nat) : Nat → List α
  | 0 => []
  | n + 1 => Sparse.get d m a :: Sparse.getAll d m (a + 1) n

/-- Drop every cell whose address satisfies `p`; the dropped addresses then hold the default. -/
def Sparse.clear {α : Type} (p : Nat → Bool) (m : Sparse α) : Sparse α := m.filter fun c => !p c.1

/-- Records by number, in the order in which they were first written. -/
abbrev Table (α : Type) := List (Nat × α)

/-- The record numbered `k`, if there is one. -/
def Table.find {α : Type} : Table α → Nat → Option α
  | [], _ => none
  | (k, v) :: m, a => if k = a then some v else Table.find m a

/-- Write the record numbered `a`, in its place or at the end. -/
def Table.put {α : Type} : Table α → Nat → α → Table α
  | [], a, v => [(a, v)]
  | (k, x) :: m, a, v => if k = a then (a, v) :: m else (k, x) :: Table.put m a v

/-- Remove the record numbered `a`. -/
def Table.drop {α : Type} (m : Table α) (a : Nat) : Table α := m.filter fun c => c.1 ≠ a

end Sys2Proof.Machine
end

