-- ==== Sys2Proof/Machine/State.lean ====
section
/-! DEFINITION. The state of the W2 as plain data: every piece of state the spec names, by the agent that holds it.
INVENTORY.md lists each with its rule and its reset value. -/
namespace Sys2Proof.Machine

/-- Bytes of a memory, a scratchpad or a Larder by address. -/
abbrev Memory := Sparse Byte

/-- The canonical form of a memory: addresses strictly rising, and no byte equal to 0, what an unlisted address reads as. -/
def Memory.wf (m : Memory) : Bool := Sparse.wf 0#8 m

/-! ### Accesses in flight -/

/-- Where an access lands (R10-R12): cacheable memory by physical address, a window byte of a core, a broadcast window byte
of a group, or a refused place with its cause (R13, R235). -/
inductive Loc where
  | mem (pa : Nat)
  | window (core off : Nat)
  | bcast (group off : Nat)
  | scratch (core addr : Nat)
  deriving DecidableEq, Repr

/-- One lane's access (lane 32 stands for the uniform stream): address presented, place, width in bytes, and the operand
captured at issue (store data, or an atomic's operand, R29); for a broadcast, the cores whose windows it reaches (R256). -/
structure LaneAcc where
  lane : Nat
  va : Dword
  loc : Loc
  width : Nat
  data : BitVec 128
  reach : List Nat := []
  deriving DecidableEq, Repr

/-- The operations of the atomics (R183, R212). -/
inductive AtOp where
  | add | minS | maxS | minZ | maxZ | and | or | xor | xchg | cas | incw
  deriving DecidableEq, Repr

/-- The ordering of a load (R210, R211, R222). -/
inductive LdKind where
  | plain | acquire | volatile
  deriving DecidableEq, Repr

/-- The ordering of a store. -/
inductive StKind where
  | plain | release | volatile
  deriving DecidableEq, Repr

/-- What a pending long-latency producer does when it completes (R28, R210-R214, R182-R185, R244). -/
inductive LongKind where
  | load (signed : Bool) (kind : LdKind)
  | atomic (op : AtOp)
  | scratchLoad (signed : Bool)
  | scratchStore
  | scratchAtomic (op : AtOp)
  | arset | aradd | arwait | arpoll
  | probe
  | pref | wbl | disc
  deriving DecidableEq, Repr

/-- A pending long-latency producer of the scoreboard (R28-R31): access sequence number, its word's address, the PC slot that
issued it, words left in its window, whether its destination is uniform, destination registers from the named one up, the
lanes it serves, its lane accesses, values bound so far by lane, whether its bus messages are posted (R213), the CYCLE before
which it does not complete (R172), the lines whose data must still come before it completes (R201), and the lanes that have failed since and
wait to be issued again (R31, R376). -/
structure LongOp where
  seq : Nat
  pc : Pc
  slot : Nat
  window : Nat
  uniform : Bool
  dest : List Nat
  kind : LongKind
  lanes : Word
  accs : List LaneAcc
  vals : List (Nat × BitVec 128)
  posted : Bool
  at_ : Nat
  due : List Nat := []
  lost : List Nat := []
  deriving DecidableEq, Repr

/-- A store in a warp's store buffer (R192, R309), with its word's address and the lanes whose access it is (R216); the warp and lane
that issued it, which a move by the Mangle does not change; the warps and lanes that its thread has moved to since; and the draw at
which it left the buffer, where it has left and is not performed yet (R202, R256, R309); and whether it has failed since and waits to be issued
again (R31, R376). -/
structure BufStore where
  seq : Nat
  pc : Pc
  lanes : Word
  acc : LaneAcc
  kind : StKind
  held : Bool
  uid : Nat := 0
  orig : Nat := 0
  also : List (Nat × Nat) := []
  sent : Option Nat := none
  lost : Bool := false
  deriving DecidableEq, Repr

/-- A fence that later accesses of its lanes wait on (R230): accesses below `seq` of the kinds `reads` and `writes`; whether
later reads wait as well as later writes; scope. -/
structure FenceRec where
  seq : Nat
  lanes : Word
  uniform : Bool
  writes : Bool
  laterReads : Bool
  scope : Nat
  deriving DecidableEq, Repr

/-! ### Paths and warps -/

/-- The open run of a slot (R21, R24): the words not yet issued, the trailer last; the trailer's address; its temporary set
(R75), 8 while it holds none; which temporaries have been written in this run, per lane for t0-t7 and per register for w0-w7 (R25); and
how many words it had when it was opened, the trailer among them. -/
structure OpenRun where
  words : List Word
  trailerAt : Pc
  set : Nat
  tdef : Sparse Word
  wdef : BitVec 8
  total : Nat := 0
  deriving DecidableEq, Repr

/-- Why a slot's current word waits. `score`: the pending registers it awaits and the room it needs in the scoreboard (R30);
it has broken the run. `held`: stalled at issue with a reason of R368, keeping the quadrant, and tried again. `barrier`: a
BAR, BARA or BARW that waits for phases (crew, phase, R131, R139), with the phase in which each lane has arrived. `join`: a creating JOIN that waits (R129). `lrel`: an LREL that has taken effect on new use of its
handle (R269). `tchk`: a TEXP that waits for the operations before this number, or a TCHK queued as the operation of that number (R299);
`tchked`: that TCHK has run, with the EVA of a mismatch. `brc`: a BRC that has arrived, with its target and taken lanes
(R154). `pgtake`: a PGTAKE that waits for its take (R245). -/
inductive Wait where
  | none
  | score (lane uni : List Nat) (room : Nat)
  | held (reason : Nat)
  | barrier (marks phases : List (Nat × Word))
  | join
  | lrel (handle : Nat)
  | tchk (op : Nat)
  | tchked (bad : Option Nat)
  | brc (at_ target : Pc) (taken : Word)
  | pgtake (take : Nat)
  deriving DecidableEq, Repr

/-- What passing the trailer of the open run does to its path: it goes on past the trailer, or where a transfer has
moved it; waits for the crew of a BRC, with its address, target
and taken lanes (R154); or parks it at the point of an RCV (R149, R157). -/
inductive RunEnd where
  | plain
  | moved
  | brc (at_ target : Pc) (taken : Word)
  | park
  deriving DecidableEq, Repr

/-- A path in a PC slot (R141): the next word's address, lane mask, call depth, parked flag, lanes resting under R87 and
lanes a debugger rests (R365), its open run, its wait, the lanes a replay of the current word is confined to (R333; where it is set without an
open run, the path stands inside a run), the
words issued since the last reset of the progress counter (R150), what its trailer ends, and the STOP or FLASH trailer that it
passed last, with its STOP and FLASH bits, while it stands there (R49, R294, R407), whether the words of its next run have come (R119), and the CYCLE before which its next word
does not issue (R405). -/
structure Path where
  pc : Pc
  mask : Word
  depth : Nat
  parked : Bool
  rest : Word
  dbgRest : Word
  run : Option OpenRun
  wait : Wait
  replay : Option Word
  issued : Nat
  ends : RunEnd
  site : Option (Pc × Bool × Bool)
  fetched : Bool := false
  after : Nat := 0
  deriving DecidableEq, Repr

/-- A divergence stack entry (R148). -/
structure StackEntry where
  pc : Pc
  depth : Nat
  parked : Bool
  mask : Word
  deriving DecidableEq, Repr

/-- The divergence state of a warp (R141, R148, R150, R159). -/
structure Div where
  s0 : Option Path
  s1 : Option Path
  n : Nat
  b : Nat
  top : Option StackEntry
  progress : Nat
  giveUp : Option Nat
  deriving DecidableEq, Repr

/-- The snapshot of a flash point (R308) with the barrier arrivals of the warp that stood then, as crew and seat (R133), which kept
registers were undefined, and what its site says of recipe and tiles (R49, R311). -/
structure Snapshot where
  arrivals : List (Nat × Nat)
  pc : Pc
  mask : Word
  depth : Nat
  b : Nat
  progress : Nat
  fmode : BitVec 3
  vx : List Byte
  keepV : List (Nat × List Word)
  keepS : List (Nat × Word)
  undef : List (Nat × Word)
  recipe : Option Pc
  tiles : BitVec 8
  deriving DecidableEq, Repr

/-- The rewind point of a warp (R308). -/
inductive Rewind where
  | full
  | flash (snap : Snapshot)
  deriving DecidableEq, Repr

/-- The in-lane supervisor handler of a warp (R237): its slot, the saved s48-s55, the entry EPC, and whether the word there
is the last of its run. -/
structure Handler where
  slot : Nat
  saved : List Word
  entryEpc : Dword
  last : Bool
  deriving DecidableEq, Repr

/-- A deferred fault of a warp (R292), by the number of its operation, with its ticket and tile; `reissue` names the operation that R293
issues again; `late` is the access number of a word of which lanes have failed after its issue (R31); `plain` marks a cause that waits for the
warp's resume and is no deferred one (R331, R332). -/
structure Deferred where
  op : Nat
  cause : Nat
  epc : Dword
  eva : Dword
  fmask : Word
  reissue : Option Nat
  ticket : Option Word := none
  tile : Option Nat := none
  late : Option Nat := none
  plain : Bool := false
  deriving DecidableEq, Repr

/-- A gathered watchpoint match (R339): comparator, lane, address, instruction, the slot that issued it, and whether the run boundary has come at
which it is reported. -/
structure WatchHit where
  comparator : Nat
  lane : Nat
  va : Dword
  epc : Dword
  slot : Nat := 0
  due : Bool := false
  deriving DecidableEq, Repr

/-- A trailer that a breakpoint comparator matches, passed and not yet reported (R361): comparator, trailer, the slot and its EM. -/
structure TrailerHit where
  comparator : Nat
  at_ : Pc
  slot : Nat
  em : Word
  deriving DecidableEq, Repr

/-- The trap registers and the trap window of a warp (R82, R324, R335): the trapping slot, whether the warp is halted, the
number of an SVC that firmware serves (R342), whether a resume issues the trapping word again (R333), whether
that word is the last of its run, the operation that a resume re-issues (R293), the deferred faults
and watchpoint matches not yet reported, the divergence window as firmware has edited it (R159, R160), whether a resume waits for a
page of the ring (R408) or for a slice (R336), the access number of a word that a resume issues again alone (R31), and whether the trapping
word is the first of its run. -/
structure TrapRegs where
  cause : BitVec 9
  epc : Dword
  eva : Dword
  fmask : Word
  inHandler : Bool
  wasDeferred : Bool
  escalated : Bool
  replay : Word
  slot : Nat
  halted : Bool
  service : Option Nat
  again : Bool
  last : Bool
  reissue : Option Nat
  deferred : List Deferred
  watch : List WatchHit
  edit : Option Nat := none
  resuming : Bool := false
  late : Option Nat := none
  start : Bool := false
  deriving DecidableEq, Repr

/-- The lane registers that a TST writes, or that a TLD reads (`load`), before an MWAIT on its ticket (R288, R406); `touched` holds the lanes
of each that the warp has written since, `point` the rewind point under which the warp issued the word, if that is a flash point (R294), and
`old` the words that stood in the range when the TST wrote it, lane l of register k at 32 k + l (R14). -/
structure TstRange where
  ticket : Word
  first : Nat
  count : Nat
  load : Bool
  touched : Sparse Word
  point : Option Nat := none
  old : List (Nat × Word) := []
  deriving DecidableEq, Repr

/-- A resident warp (R72, R117, R118). `remap` holds the valid entries of the lane remap table as (virtual lane, crew, seat);
`undef` the register contents left undefined (R29), lane register k under k and uniform register k under 128 + k;
`tstRanges` the register ranges of TSTs and TLDs before their MWAIT (R288); `await` the producers that no further run starts before
(R23); `nap` the CYCLE a nap ends at and whether it is in force (R322); `yieldDue` a YIELD whose run has not ended, `yielded` the
ready warps that a yield waits for (R319); `shadow` the producers that have completed while their window is open (R29); `point` counts the rewind points that the warp has set (R268); `vis` the CYCLE from which
a uniform register may be read by the uniform pipe and by the lane pipe (R80); `passed` holds the breakpoint comparators that do not match the
word at an address again while the path of a lane issues it (R333); `hits` the trailer matches not yet reported (R361); `stackRest` the lanes of
stacked paths that a debugger rests (R365); `spent` marks a run boundary met with the issue budget exhausted (R303). -/
structure Warp where
  uid : Nat
  ctx : Nat
  launch : Nat
  mgmt : Bool
  allot : Nat
  base : Nat
  ubase : Nat
  tids : List (Nat × Word)
  remap : List (Nat × Nat × Nat)
  fmode : BitVec 3
  div : Div
  trap : TrapRegs
  handler : Option Handler
  pend : List LongOp
  undef : List (Nat × Word)
  tstRanges : List TstRange
  sb : List BufStore
  fences : List FenceRec
  rewind : Rewind
  point : Nat
  await : List Nat
  nap : Option (Nat × Bool)
  yieldDue : Bool
  yielded : Option (List Nat)
  stopped : Bool
  seq : Nat
  vis : Table (Nat × Nat) := []
  shadow : List LongOp := []
  passed : List (Nat × Pc × Nat) := []
  hits : List TrailerHit := []
  stackRest : Word := 0
  spent : Bool := false
  deriving DecidableEq, Repr

/-! ### The matrix array -/

/-- The operations of the matrix queue (R286, R295-R299). -/
inductive MatKind where
  | tzero | tnorm | mma | mmap | tst | tld | tchk
  deriving DecidableEq, Repr

/-- The captured binding of an operand (R267): handle, VA (zero = unbound), stride, rows landed, and which LBIND of the reservation made it. -/
structure Operand where
  handle : Nat
  va : Dword
  stride : Dword
  landed : Nat
  serial : Nat := 0
  deriving DecidableEq, Repr

/-- A matrix or tile operation with what it captured at issue (R267, R273, R285, R292, R296-R298): `id` orders issues, `crew` is the crew of a
kind-0 location (64 for none), `afterSeq` divides the warp's accesses that a step sees (R227), `blocked` a faulted operation that awaits
its re-issue (R293), `bad` a step in which the array has computed wrongly (R289),
`doneAt` the CYCLE at which its computation ends (R274). -/
structure MatOp where
  id : Nat
  kind : MatKind
  tile : Nat
  pr : Word
  opA : Operand
  opB : Operand
  opB2 : Operand
  fmt : Nat
  loc : Word
  ticket : Option Word
  ctx : Nat
  launch : Nat
  quad : Nat
  warp : Nat
  uid : Nat
  pc : Pc
  em : Word
  crew : Nat
  afterSeq : Nat
  blocked : Bool
  bad : Bool
  doneAt : Nat := 0
  deriving DecidableEq, Repr

/-- An accumulator tile (R66, R290): mantissas of element 64 i + c, marked elements, exponent, kept row and column sums; and the context whose
operation wrote it last, its owner (R370). -/
structure Tile where
  m : Sparse (BitVec 48)
  marks : List Nat
  te : Int
  rows : Sparse (BitVec 48)
  cols : Sparse (BitVec 48)
  owner : Option Nat := none
  deriving DecidableEq, Repr

/-- The stores of a core that a matrix operation may write. -/
inductive Shelf where
  | scratch | larder | tile
  deriving DecidableEq, Repr

/-- A location that an operation with a ticket writes, which no MWAIT on the ticket has covered: bytes of the scratchpad or the Larder, or a
tile, by its number (R227, R288). `owner` is the core that issued the operation, `op` its number, `point` the warp and the flash point
under which it was issued (R294); `old` the bytes that stood in the Larder before it wrote, and `was` the tile that stood (R14). -/
structure Haze where
  owner : Nat
  ctx : Nat
  ticket : Word
  shelf : Shelf
  first : Nat
  count : Nat
  old : List Byte := []
  op : Nat := 0
  point : Option (Nat × Nat) := none
  was : Option Tile := none
  deriving DecidableEq, Repr

/-- A release in progress (R268, R269): the warp and rewind point that it hangs on, when that is a flash point, and whether the LREL's wait
has ended. -/
structure Release where
  point : Option (Nat × Nat)
  waited : Bool
  deriving DecidableEq, Repr

/-- A Larder reservation (R265, R268); `provisional` names the warp and the flash point that it hangs on, `serial` counts the LBINDs that have
named it (R267). -/
structure Reservation where
  base : Nat
  count : Nat
  desc : Word
  ctx : Nat
  bound : Bool
  provisional : Option (Nat × Nat)
  releasing : Option Release
  va : Dword
  stride : Dword
  progress : Nat
  serial : Nat := 0
  deriving DecidableEq, Repr

/-! ### Threads, crews, bins -/

/-- A thread record (R122), with its deposit stamp (R121, R123), the launch it belongs to, the spill place it occupies, and
the accesses of the depositing warp that must be performed before it starts (R125). -/
structure ThreadRec where
  entry : Dword
  tid : Word
  key : Option (BitVec 16)
  payload : List Word
  launch : Nat
  stamp : Nat
  cycle : Nat
  afterUid : Nat
  afterLanes : Word
  afterSeq : Nat
  place : Option Nat
  deriving DecidableEq, Repr

/-- A held spawn bin (R120, R121, R123). -/
structure Bin where
  launch : Nat
  entry : Dword
  key : Option (BitVec 16)
  threads : List ThreadRec
  expired : Bool
  deriving DecidableEq, Repr

/-- A crew member (R130): seat and place. -/
structure Member where
  seat : Nat
  quad : Nat
  warp : Nat
  lane : Nat
  deriving DecidableEq, Repr

/-- A crew (R128-R131, R154, R249, R363): `arrived` holds the seats that have arrived in the current phase, `again` those whose
repeat arrival counts in the next (R131); `owed` the accesses, as warp, lanes and access number, that
the arrivals of this phase release, `due` those of completed phases (R132). -/
structure Crew where
  key : Word
  ctx : Nat
  launch : Nat
  base : Nat
  g : Nat
  limit : Nat
  members : List Member
  phase : Word
  arrived : List Nat
  again : List Nat
  owed : List (Nat × Word × Nat)
  due : List (Nat × Word × Nat)
  compacted : Bool
  swapped : Bool
  deriving DecidableEq, Repr

/-! ### The Ladle -/

/-- A segment in flight (R253): its offset in the request, the bytes read from its source, the places they go to with the bytes
each takes, whether they have landed, whether its broadcast is on its way (R256), and the draw at which it was sent (R384); it stands in its request
until it is counted. -/
structure Seg where
  off : Nat
  data : List Byte
  dsts : List (Loc × Nat)
  landed : Bool
  posted : Bool := false
  sent : Nat := 0
  deriving DecidableEq, Repr

/-- A running or suspended request (R250-R254), as its record was read: the record's number, its fields, bytes whose segments have
started and bytes counted, the status with which it fails once its segments have landed, and whether a peer has failed to
acknowledge a segment (R255). -/
structure Request where
  record : Nat
  src : Dword
  dst : Dword
  len : Nat
  arr : Nat
  ctl : Word
  startedBytes : Nat
  landedBytes : Nat
  segs : List Seg
  suspended : Bool
  failed : Option Nat
  lost : Bool
  deriving DecidableEq, Repr

/-- A kick (R247): its requests are taken in order from `next`; `runs` holds those that have started and are not final; `finals` the
final statuses so far (record, status, progress). -/
structure Kick where
  uid : Nat
  ctx : Nat
  crew : Nat
  list : Nat
  count : Nat
  completion : Option Nat
  warpUid : Nat
  launch : Nat
  lanes : Word
  afterSeq : Nat
  next : Nat
  finals : List (Nat × Nat × Nat)
  runs : List Request
  deriving DecidableEq, Repr

/-- A peer segment sent and neither acknowledged nor given up (R255): the peer, the kick and record it belongs to, with the crew whose
span holds the record and the scratchpad address of its status word, and whether its request has status 0x87 or has failed (R259); its number on
its connection, and its address in the peer context and its bytes, with which it is sent again (R381). -/
structure PeerSeg where
  device : Nat
  ctx : Nat
  launch : Nat
  warpUid : Nat
  core : Nat
  kick : Nat
  record : Nat
  crew : Nat
  key : Word
  place : Nat
  settled : Bool := false
  number : Nat := 0
  va : Dword := 0
  data : List Byte := []
  deriving DecidableEq, Repr

/-- Whose broadcast a delivery belongs to: a store of a warp by its number, access number and lane; a segment of a kick's request; or a
segment from a peer. -/
inductive Bcast where
  | store (uid seq lane : Nat)
  | seg (core kick record off : Nat)
  | peer (conn : PeerLink) (ctx number : Nat)
  deriving DecidableEq, Repr

/-- A multicast delivery on its way to one member (R256): whose it is, source, target core, window offset, bytes, arrival word offset. -/
structure Delivery where
  tag : Bcast
  source : Nat
  group : Nat
  target : Nat
  off : Nat
  data : List Byte
  arrival : Option (Nat × Nat)
  deriving DecidableEq, Repr

/-! ### Quadrants and cores -/

/-- A scratchpad access that a quadrant presents (R171): the warp and PC slots and the word's address, and whether it has been
accepted, with the CYCLE of that. -/
structure Presented where
  warp : Nat
  slot : Nat
  pc : Pc
  accepted : Bool
  at_ : Nat := 0
  deriving DecidableEq, Repr

/-- What a quadrant has done with its turn to issue in a CYCLE (R367): that CYCLE, the warp slot and PC slot that held it, the address of its word,
and the reason for which it stalled there (R368), or none where the word issued. -/
structure Turned where
  at_ : Nat
  warp : Nat
  slot : Nat
  pc : Pc
  reason : Option Nat
  deriving DecidableEq, Repr

/-- A quadrant (R70, R119, R275). Words of row r, lane l stand at 32 r + l of `rf`. `temps` lists the sets held, as
(set, warp slot, PC slot). `left` is what remains of the issue budget of each node (R303). `lanePipe` and `uniPipe` are the CYCLEs from
which the pipes take the next word (R92), `turn` its last turn. -/
structure Quadrant where
  rf : Sparse Word
  warps : Table Warp
  last : Nat
  sel : Option (Nat × Nat)
  temps : List (Nat × Nat × Nat)
  mq : List MatOp
  deficit : Nat
  presented : Option Presented
  left : Sparse Int
  sampled : Nat
  lanePipe : Nat := 0
  uniPipe : Nat := 0
  turn : Option Turned := none
  deriving DecidableEq, Repr

/-- A line of an L1 (R190): context and VA line number as the tag, physical line, sector valid bits, last use. -/
structure L1Line where
  ctx : Nat
  vline : Nat
  pline : Nat
  v0 : Bool
  v1 : Bool
  used : Nat
  deriving DecidableEq, Repr

/-- A comparator (R360). -/
structure Comparator where
  va : Dword
  len : Word
  ctl : Word
  deriving DecidableEq, Repr

/-- The sampler of a core (R366, R367); `origin` is the CYCLE at which sampling was enabled, `next` that of its next tick;
`queue` holds the records on their way to the buffer in the order of R369: the place in that order, the context and the bytes. -/
structure Sampler where
  ctl : Word
  period : Word
  sel : Word
  buf : Dword
  cap : Word
  wr : Word
  rd : Word
  dropped : Word
  origin : Nat
  next : Nat
  queue : List (Nat × Nat × List Byte) := []
  owed : Bool := false
  deriving DecidableEq, Repr

/-- The drain phase of a core (R307, R312). -/
inductive Phase where
  | idle
  | running
  | draining
  deriving DecidableEq, Repr

/-- What a swap-out saves of one warp (R363): its quadrant and slot and its rows, uniform rows included. -/
structure SavedWarp where
  quad : Nat
  slot : Nat
  warp : Warp
  rows : List (Nat × List Word)
  deriving DecidableEq, Repr

/-- The saved state of a drained tenant on a core (R312 step 3), or of a swapped-out crew (R363). -/
structure Saved where
  tenant : Nat
  warps : List SavedWarp
  crews : Table Crew
  scratch : Memory
  larder : Memory
  res : Table Reservation
  tiles : Table Tile
  ops : List MatOp
  kicks : List Kick
  spilled : List ThreadRec
  hazes : List Haze := []
  deriving DecidableEq, Repr

/-- A core by logical number (R8, R11). `scratchFree` is the CYCLE from which the scratchpad accepts the next access (R172). `debt` holds the ns by which a context's next slice starts late (R313), `late` the TIME
from which a context issues in this slice, `donated` the contexts that have given the rest of it away (R318), `hazes` what operations write and
no MWAIT has covered (R288). -/
structure Core where
  quads : Table Quadrant
  lastQuad : Nat
  cycle : Nat
  scratch : Memory
  scratchFree : Nat
  crews : Table Crew
  bins : Table Bin
  spilled : List ThreadRec
  spawned : Sparse Nat
  l1 : List L1Line
  kicks : List Kick
  larder : Memory
  res : Table Reservation
  prs : Sparse Word
  prHeld : List Nat
  tickets : Sparse (BitVec 16)
  tiles : Table Tile
  array : Option MatOp
  arrayTurn : Nat
  access : Sparse Dword
  bps : Table Comparator
  wps : Table Comparator
  sampler : Sampler
  tenant : Option Nat
  phase : Phase
  sliceEnd : Nat
  debt : List (Nat × Nat)
  late : List (Nat × Nat)
  donated : List Nat
  left : Sparse Int
  pool : Int × Int × Int
  saved : List Saved
  swapped : Table Saved
  suspect : Bool
  absent : Bool
  physical : Nat
  scanned : Nat
  hazes : List Haze := []
  deriving DecidableEq, Repr

/-! ### Caches, buses, directory -/

/-- Line states of an L2 (R195). -/
inductive LineState where
  | M | O | E | S | I
  deriving DecidableEq, Repr

/-- A line of an L2 (R187, R194, R195, R203): state, sector valid and dirty bits, cluster presence mask, requesting context, way (24
until it has one), last use, and the cluster whose core it was fetched for (R199). -/
structure L2Line where
  line : Nat
  st : LineState
  v0 : Bool
  v1 : Bool
  d0 : Bool
  d1 : Bool
  presence : BitVec 8
  ctx : Nat
  way : Nat
  used : Nat
  asked : Nat := 0
  deriving DecidableEq, Repr

/-- The kinds of message on an order bus (R197), those on behalf of the host with what they carry: the port of an access, and the bytes of
a write (R206, R207). -/
inductive MsgKind where
  | getS | getM | put | clean | disc
  | hGetS (port : Nat)
  | hGetM (port : Nat) (wdata : Option (List (Nat × Byte)))
  | snpData | snpInv | snpCur
  deriving DecidableEq, Repr

/-- A message in a cluster's bus queue (R199): kind, line, requesting context, and for a WBL or DISC the warp and access that wait
for it. -/
structure Msg where
  kind : MsgKind
  line : Nat
  ctx : Nat
  who : Option (Nat × Nat)
  deriving DecidableEq, Repr

/-- An outstanding line transaction of a field (R198): whether it asks for M, the context that asks, whether its message has been applied (the
data is on its way), whether it waits for the host, and the field that owned the line at its ordering point with its own data still to
come, from which its data comes (R201). -/
structure Txn where
  line : Nat
  wantsM : Bool
  ctx : Nat
  applied : Bool
  waitHost : Bool
  after : Option Nat := none
  deriving DecidableEq, Repr

/-- The global state of a directory entry (R196). -/
inductive DirState where
  | uncached
  | shared
  | owned (field : Nat)
  deriving DecidableEq, Repr

/-- What the host holds of an HBM line, or grants the device of a host-region line (R196). -/
inductive HostState where
  | none | S | EM
  deriving DecidableEq, Repr

/-- A directory entry (R196). -/
structure DirEntry where
  st : DirState
  host : HostState
  deriving DecidableEq, Repr

/-- A reverse-map entry (R193): physical line, name (context, VA line), presence mask, last use. -/
structure RevEntry where
  pline : Nat
  ctx : Nat
  vline : Nat
  mask : BitVec 8
  used : Nat
  deriving DecidableEq, Repr

/-- A cached leaf of a cluster TLB (R234): context, page VA and size, entry. -/
structure TlbEntry where
  ctx : Nat
  va : Nat
  size : Nat
  entry : Dword
  deriving DecidableEq, Repr

/-- A global cluster (R8, R193, R199, R382, R392). -/
structure Cluster where
  rev : List RevEntry
  tlb : List TlbEntry
  buses : Table (List Msg)
  group : Nat
  spareUsed : Bool
  deriving DecidableEq, Repr

/-- A minimum-voltage record (R396). -/
structure MinVolt where
  millivolts : Nat
  sensor : Nat
  empty : Bool
  stretched : Nat
  time : Nat
  deriving DecidableEq, Repr

/-- A field (R195, R196, R198, R203, R395, R396), with its target voltage in millivolts and its clock when stretching began. -/
structure Field where
  l2 : List L2Line
  txns : List Txn
  dir : Table DirEntry
  occupancy : Sparse Nat
  limits : Table Nat
  stretching : Bool
  minVolt : MinVolt
  target : Nat := 0
  stretchedAt : Nat := 0
  deriving DecidableEq, Repr

/-! ### Contexts, launches, queues, links -/

/-- A peer connection of a context (R382), with how many segments have been sent on it (R381). -/
structure Conn where
  device : Nat
  peerCtx : Nat
  failed : Bool
  closing : Bool
  sent : Nat := 0
  deriving DecidableEq, Repr

/-- The command mailbox of a virtual function (R379): the bytes of its 64-byte command area that are not 0, its status word, and the code of the
command that firmware has taken and not finished. -/
structure Mailbox where
  area : Memory := []
  status : Word := 0
  busy : Option Nat := none
  deriving DecidableEq, Repr

/-- A context (R301): page-table root, ports with an open virtual function (R377), debug session (R379), secured session,
connections, map requests queued as record addresses (R240), last accepted sequence number, supervisor entry (R337), child
launches counted (R355), migrating pages' sources (R243) as (page VA, peer device, permissions), the first map request of the queue as it was
read, once firmware has accepted it (R240, R241), the segments received from peers as (connection, number) (R381), the mailboxes of its functions by
port (R379), and the quantum of slot time that firmware has last served for it (R348). -/
structure Context where
  root : Option Nat
  ports : List Nat
  debug : Bool
  secured : Bool
  conns : List Conn
  mapq : List Dword
  lastSeq : Word
  entry : Pc
  children : Nat
  sources : List (Nat × Nat × Nat)
  accepted : Option (List Byte)
  seen : List (PeerLink × Nat)
  mail : Table Mailbox := []
  quantum : Nat := 0
  deriving DecidableEq, Repr

/-- A budget record (R302); 0xFFFF_FFFF is unlimited. -/
structure Budget where
  issue : Nat
  array : Nat
  ladle : Nat
  deriving DecidableEq, Repr

/-- A tenant (R238, R242, R371, R378, R387): the physical ranges of its memory grant (address and length), the grant left in 64 KiB pages, dump
key, dump number, and the access-table entries that firmware writes on each core that it receives. -/
structure Tenant where
  access : Table (Sparse Dword)
  ranges : List (Nat × Nat)
  grant : Nat
  key : Option (List Byte)
  dumps : Nat
  deriving DecidableEq, Repr

/-- A site of a kernel image (R49). -/
structure Site where
  trailer : Nat
  vmask : BitVec 128
  smask : BitVec 64
  tiles : BitVec 8
  flags : BitVec 8
  keep : List Nat
  recipe : Option Nat
  deriving DecidableEq, Repr

/-- The launch record's fields (R349) that a running launch uses. -/
structure LaunchRec where
  image : Dword
  id : Word
  threads : Nat
  c0 : Nat
  m : Nat
  table : Nat
  allot : Nat
  timer : Nat
  payload : List Word
  spillBase : Dword
  spillCount : Nat
  K : Nat
  divBase : Dword
  callBase : Dword
  D : Nat
  group : Option Nat
  pool : Nat
  dep : Option (Word × Nat)
  completion : Dword
  signal : Dword
  interrupt : Bool
  overlap : Bool
  reservedOk : Bool
  deriving DecidableEq, Repr

/-- A launch (R118, R351-R355): its record, what its image says (R48), and how it stands. `queue` is 0xFFFF for a child;
`created` lists the launch warps created so far; `ended` says firmware ended it for a trap (R336). -/
structure Launch where
  ctx : Nat
  queue : Nat
  index : Nat
  parent : Option Nat
  rcd : LaunchRec
  codeStart : Dword
  codeSize : Nat
  entryOff : Nat
  crewSize : Nat
  granules : Nat
  larderKib : Nat
  sites : List Site
  started : Bool
  status : Word
  faults : Nat
  firstEnd : Option (Nat × Dword × Dword)
  startTime : Nat
  endTime : Nat
  pool : Nat
  created : List Nat
  complete : Bool
  ended : Bool
  deriving DecidableEq, Repr

/-- A registered queue (R345-R348): descriptor, records read, tail as last read, stopped, mapped to a hardware queue slot,
whether its tail line must be read again, whether it stops after its current launch (R379), the port of the function that registered it, the
line of its tail word, which its slot keeps in S (R347), and what it has read of its next record (R346). -/
structure Queue where
  desc : QueueDesc
  head : Nat
  tail : Nat
  stopped : Bool
  mapped : Bool
  reread : Bool
  closing : Bool
  since : Nat
  port : Nat := 0
  tailLine : Option Nat := none
  part : List Byte := []
  deriving DecidableEq, Repr

/-- A host port (R374-R378): window base and size in GiB, first port and width of its group, up, waiting for the host's
acknowledgement, lost dirty lines, bound context, and its HDM decoders, at most 8, as host base, size and device base. -/
structure Port where
  base : Nat
  size : Nat
  first : Nat
  width : Nat
  up : Bool
  awaitAck : Bool
  lost : Nat
  ctx : Nat
  decoders : List (Nat × Nat × Nat) := []
  deriving DecidableEq, Repr

/-- A page pull in progress (R243). -/
structure Pull where
  ctx : Nat
  va : Nat
  size : Nat
  device : Nat
  perm : BitVec 3
  deriving DecidableEq, Repr

/-- A first-touch page take in progress (R238, R245): context, page VA, size code, launch whose pool serves it, and the
PGTAKE that waits (core, quadrant, warp, slot), if one does; `result` once firmware has finished it. -/
structure Take where
  ctx : Nat
  va : Nat
  size : Nat
  launch : Nat
  result : Option Word
  deriving DecidableEq, Repr

/-- A withheld or due item towards the host, in the order it arose (R316, R353): a completion record with its VA, a signal,
or an interrupt. -/
inductive Due where
  | record (ctx : Nat) (va : Dword) (data : List Byte)
  | signal (ctx : Nat) (va : Dword) (value : Dword)
  | interrupt (ctx vector : Nat)
  deriving DecidableEq, Repr

/-- What leaves the device towards a host, a management core or a peer. -/
inductive Out where
  | msix (ctx vector : Nat)
  | window (core off : Nat) (data : List Byte)
  | windowRefused (core off cause : Nat)
  | hostRead (line : Nat) (data : List Byte)
  | hostDone (line : Nat)
  | hostError (line : Nat)
  | snoopMiss (line : Nat)
  | hostFetch (line : Nat) (own : Bool)
  | backInvalidate (line : Nat)
  | pagePull (device peerCtx va : Nat)
  | pageData (device va : Nat) (data : List (Nat × Byte))
  | pageRefused (device va : Nat)
  | peerAck (conn : PeerLink) (seqNo : Nat)
  | peerSend (device peerCtx number : Nat) (va : Dword) (data : List Byte)
  | minVolt (field : Nat) (data : List Byte)
  | bar (function : Option (Nat × Nat)) (off : Nat) (data : List Byte)
  | mailbox (port ctx : Nat) (status : Word)
  | lostLines (port count : Nat)
  | evidence (function nonce : Nat) (slots : List (Nat × Nat × BitVec 512)) (deviceId : Nat) (keyInstalled : Option Bool) (signature chain : List Byte)
  | drainOverrun (ctx core ns : Nat)
  deriving DecidableEq, Repr

/-- The boot record (R394). -/
structure Boot where
  failed : Nat
  minimal : Bool
  reason : Nat
  field : Option Nat
  time : Nat
  starting : Bool
  deriving DecidableEq, Repr

/-- Health counting (R389-R393): the last two event cycles of a unit, newest first; the spare wavelength groups in use or dead; the
moves announced and not yet made, as group and spare; the self-test mode (R388); the mesh links that have dropped out, and the one around which
firmware is leading the traffic (R384). -/
structure Health where
  events : List (HealthUnit × List Nat)
  sparesUsed : List Nat
  switching : List (Nat × Nat)
  checksumMode : Bool
  linksOut : List Nat
  rerouting : Option Nat := none
  deriving DecidableEq, Repr

/-- The slot table (R304-R307): the table in force, the one that takes its place, and the TIME at which it does (R306). -/
structure Slots where
  table : Option SlotTable
  next : Option SlotTable
  switch : Nat
  deriving DecidableEq, Repr

/-- A turn of the agenda: the quadrant that issues next, or an event. -/
inductive Turn where
  | issue (core quad : Nat)
  | event (e : Instr)
  deriving DecidableEq, Repr

/-- The state of the machine. `mem` is what every coherent read finds, `behind` what home memory still holds of dirty sectors, `undefined`
the bytes that a DISC left undefined (R208), `unreadable` the lines of table nodes lost to an uncorrectable error (R233).
`budgets` holds the 16-byte budget record of each node (R302), `frames` the tenant, physical address and size of each page of device memory
that firmware has mapped (R238, R240, R243), `undrawn` the physical addresses of those that drew nothing on a grant, `imageArea` the image-load area of
minimal mode (R394). -/
structure State where
  agenda : List Turn
  focusCore : Nat
  focusQuad : Nat
  fresh : Nat
  nextUid : Nat
  mem : Memory
  behind : Memory
  undefined : List Nat
  unreadable : List Nat := []
  time : Nat
  cores : Table Core
  clusters : Table Cluster
  fields : Table Field
  contexts : Table Context
  tenants : Table Tenant
  budgets : Table (BitVec 128)
  launches : Table Launch
  queues : List Queue
  tables : Table TableImage
  slots : Slots
  groups : Table Nat
  deliveries : List Delivery
  peerSegs : List PeerSeg
  ports : Table Port
  deviceId : Nat
  pulls : Table Pull
  takes : Table Take
  due : List Due
  out : List Out
  health : Health
  boot : Boot
  measurements : List (Nat × Nat × BitVec 512)
  rollback : Nat
  nodeNext : Nat
  frames : List (Nat × Nat × Nat) := []
  undrawn : List Nat := []
  imageArea : Memory := []
  deriving DecidableEq, Repr

/-! ### Stops -/

/-- The reasons a step can stop with a fault. -/
inductive Fault where
  /-- Raised by a word's meaning when the focus names no live PC slot of a resident warp, so nothing can issue it (R21, R119).
  Safe: `step` gives a word to its meaning only from an open run, so no run of the machine meets it. -/
  | noIssuingSlot
  deriving DecidableEq, Repr

/-- The reasons a step can be refused. -/
inductive Refusal where
  /-- An arm of the dispatch whose meaning has not been written. Safe: nothing is claimed of it. -/
  | notModelled (mnemonic : String)
  deriving DecidableEq, Repr

/-! ### Values at reset -/

/-- A tile as after TZERO (R66, R295). -/
def Tile.zero : Tile := { m := [], marks := [], te := -2048, rows := [], cols := [] }

/-- A quadrant with nothing in it. -/
def Quadrant.blank : Quadrant :=
  { rf := [], warps := [], last := 15, sel := none, temps := [], mq := [], deficit := 0, presented := none, left := [],
    sampled := 15 }

/-- The sampler as at reset (disabled). -/
def Sampler.blank : Sampler :=
  { ctl := 0, period := 0, sel := 0, buf := 0, cap := 0, wr := 0, rd := 0, dropped := 0, origin := 0, next := 0 }

/-- Core `c` idle and empty. -/
def Core.blank (c : Nat) : Core :=
  { quads := [], lastQuad := 3, cycle := 0, scratch := [], scratchFree := 0, crews := [], bins := [], spilled := [], spawned := [], l1 := [],
    kicks := [], larder := [], res := [], prs := [], prHeld := [], tickets := [], tiles := [], array := none, arrayTurn := 0,
    access := [], bps := [], wps := [], sampler := Sampler.blank, tenant := none, phase := .idle, sliceEnd := 0, debt := [],
    late := [], donated := [], left := [], pool := (0, 0, 0), saved := [], swapped := [], suspect := false, absent := false, physical := c, scanned := 0 }

/-- Cluster `g` with empty structures; it owns wavelength group `g` (R8). -/
def Cluster.blank (g : Nat) : Cluster :=
  { rev := [], tlb := [], buses := [], group := g, spareUsed := false }

/-- The reset state of a minimum-voltage record (R396). -/
def MinVolt.reset : MinVolt := { millivolts := 0xFFFF, sensor := 0, empty := true, stretched := 0, time := 0 }

/-- A field with empty caches. -/
def Field.blank : Field :=
  { l2 := [], txns := [], dir := [], occupancy := [], limits := [], stretching := false, minVolt := MinVolt.reset }

/-- A context that firmware has just created (R240: the last sequence number is 0). -/
def Context.blank : Context :=
  { root := none, ports := [], debug := false, secured := false, conns := [], mapq := [], lastSeq := 0, entry := 0,
    children := 0, sources := [], accepted := none, seen := [] }

/-- A tenant with no grant, key or dump. -/
def Tenant.blank : Tenant := { ranges := [], grant := 0, key := none, dumps := 0, access := [] }

/-- A host port with no window, bound to context 0. -/
def Port.blank (p : Nat) : Port :=
  { base := 0, size := 0, first := p, width := 1, up := true, awaitAck := false, lost := 0, ctx := 0 }

/-- Trap registers of a warp that has taken no trap (R82). -/
def TrapRegs.zero : TrapRegs :=
  { cause := 0, epc := 0, eva := 0, fmask := 0, inHandler := false, wasDeferred := false, escalated := false, replay := 0,
    slot := 0, halted := false, service := none, again := false, last := false, reissue := none, deferred := [], watch := [] }

/-- The machine right after a successful device start (R394): decode slots 0 and 1 loaded (they are definitions), slots 2 and
3 empty (R32), no slot table (R304), no context, no launch, every core idle. -/
def State.reset : State :=
  { agenda := [], focusCore := 0, focusQuad := 0, fresh := 0, nextUid := 1, mem := [], behind := [], undefined := [],
    time := 0, cores := [], clusters := [], fields := [], contexts := [], tenants := [], budgets := [], launches := [],
    queues := [], tables := [], slots := { table := none, next := none, switch := 0 }, groups := [],
    deliveries := [], peerSegs := [], ports := [], deviceId := 0, pulls := [], takes := [], due := [], out := [],
    health := { events := [], sparesUsed := [], switching := [], checksumMode := false, linksOut := [] },
    boot := { failed := 0, minimal := false, reason := 0, field := none, time := 0, starting := false },
    measurements := [], rollback := 0, nodeNext := 0x03EF00000000 }

end Sys2Proof.Machine
end

