-- ==== Sys2Proof/Machine/View.lean ====
section
/-! DEFINITION. The issuing word's view of the machine, and the named reads and writes of registers (R70-R79). -/
namespace Sys2Proof.Machine

/-! ### Records by number -/

/-- The core numbered `n`; management core m is 2,688 + m. -/
def State.core (s : State) (n : Nat) : Core := (s.cores.find n).getD (Core.blank n)
def State.setCore (s : State) (n : Nat) (c : Core) : State := { s with cores := s.cores.put n c }
def State.cluster (s : State) (n : Nat) : Cluster := (s.clusters.find n).getD (Cluster.blank n)
def State.setCluster (s : State) (n : Nat) (c : Cluster) : State := { s with clusters := s.clusters.put n c }
def State.field (s : State) (n : Nat) : Field := (s.fields.find n).getD Field.blank
def State.setField (s : State) (n : Nat) (f : Field) : State := { s with fields := s.fields.put n f }
def State.ctx (s : State) (n : Nat) : Context := (s.contexts.find n).getD Context.blank
def State.setCtx (s : State) (n : Nat) (c : Context) : State := { s with contexts := s.contexts.put n c }
def Core.quad (c : Core) (n : Nat) : Quadrant := (c.quads.find n).getD Quadrant.blank
def Core.setQuad (c : Core) (n : Nat) (q : Quadrant) : Core := { c with quads := c.quads.put n q }
def Quadrant.setWarp (q : Quadrant) (n : Nat) (w : Warp) : Quadrant := { q with warps := q.warps.put n w }

/-- The warp in slot `wn` of quadrant `qn` of core `cn`. -/
def State.warp (s : State) (cn qn wn : Nat) : Option Warp := ((s.core cn).quad qn).warps.find wn
def State.setQuad (s : State) (cn qn : Nat) (q : Quadrant) : State := s.setCore cn ((s.core cn).setQuad qn q)
def State.setWarp (s : State) (cn qn wn : Nat) (w : Warp) : State :=
  s.setQuad cn qn (((s.core cn).quad qn).setWarp wn w)
/-- Change the warp in a slot, if there is one. -/
def State.onWarp (s : State) (cn qn wn : Nat) (f : Warp → Warp) : State :=
  match s.warp cn qn wn with
  | some w => s.setWarp cn qn wn (f w)
  | none => s

/-- PC slot k (R141). -/
def Div.slot (d : Div) (k : Nat) : Option Path := if k = 0 then d.s0 else d.s1
def Div.setSlot (d : Div) (k : Nat) (p : Option Path) : Div := if k = 0 then { d with s0 := p } else { d with s1 := p }
/-- The other slot of a warp. -/
def other (k : Nat) : Nat := if k = 0 then 1 else 0

/-- The execution mask of a path (R82, R141): its mask less the lanes that rest (R87, R365), and only the lanes of a replay
while one is pending (R333). -/
def Path.em (p : Path) : Word :=
  let m := p.mask &&& ~~~p.rest &&& ~~~p.dbgRest
  match p.replay with
  | some r => m &&& r
  | none => m

/-- The view of a word that issues: where it issues, and the records it issues from. `put` writes them back. -/
structure View where
  s : State
  cn : Nat
  qn : Nat
  wn : Nat
  kn : Nat
  c : Core
  q : Quadrant
  w : Warp
  p : Path
  r : OpenRun
  em : Word
  deriving DecidableEq, Repr

/-- The view from an open run, if that slot has one. -/
def State.viewAt (s : State) (cn qn wn kn : Nat) : Option View :=
  let c := s.core cn
  let q := c.quad qn
  match q.warps.find wn with
  | none => none
  | some w =>
    match w.div.slot kn with
    | none => none
    | some p =>
      match p.run with
      | none => none
      | some r => some { s := s, cn := cn, qn := qn, wn := wn, kn := kn, c := c, q := q, w := w, p := p, r := r, em := p.em }

/-- The view of the word that the focus quadrant's selected slot issues. -/
def State.view (s : State) : Option View :=
  match ((s.core s.focusCore).quad s.focusQuad).sel with
  | none => none
  | some (wn, kn) => s.viewAt s.focusCore s.focusQuad wn kn

/-- The warp record with the view's path and run in their slot. -/
def View.warp (V : View) : Warp := { V.w with div := V.w.div.setSlot V.kn (some { V.p with run := some V.r }) }
/-- The warp record with another path (or none) in the slot. -/
def View.warpWith (V : View) (p : Option Path) : Warp := { V.w with div := V.w.div.setSlot V.kn p }
/-- Write a warp record and the view's quadrant and core back. -/
def View.putWarp (V : View) (w : Warp) : State :=
  V.s.setCore V.cn (V.c.setQuad V.qn (V.q.setWarp V.wn w))
/-- Write the view back into the state. -/
def View.put (V : View) : State := V.putWarp V.warp

/-- The word runs at privilege supervisor: in-lane handler code (R237), or firmware on a management core. -/
def View.super (V : View) : Bool :=
  V.w.mgmt || (match V.w.handler with
    | some h => h.slot == V.kn
    | none => false)

/-- The rounding and subnormal mode captured at issue (R83). -/
def View.fm (V : View) : FMode := FMode.ofBits V.w.fmode

/-! ### Where registers stand in the register file (R70, R72, R73) -/

/-- The word of lane register k (v0-v119, then t0-t7) in lane l. -/
def View.lidx (V : View) (k l : Nat) : Nat :=
  if k < 120 then (V.w.base + k) * 32 + l else (952 + 8 * V.r.set + (k - 120)) * 32 + l
/-- The word of uniform register k (s0-s55, then w0-w7). -/
def View.uidx (V : View) (k : Nat) : Nat :=
  if k < 56 then V.w.ubase * 32 + k else 1016 * 32 + 8 * V.r.set + (k - 56)
/-- The word that holds vx of lanes 4 j to 4 j + 3. -/
def vxIdx (ubase j : Nat) : Nat := (ubase + 1) * 32 + 24 + j

/-! ### Undefined contents (R25, R29, R288) -/

/-- A register lies in an open lookahead window of the issuing slot (R28, R29), whether its producer has completed or not. A word that issues
again for lanes that have not completed stands in no window of its own. -/
def View.inWindow (V : View) (uniform : Bool) (k : Nat) : Bool :=
  (V.w.pend ++ V.w.shadow).any fun o => o.slot == V.kn && decide (0 < o.window) && o.pc != V.p.pc && o.uniform == uniform && o.dest.contains k
/-- The lanes that pending producers of a lane register serve. -/
def View.pendLanes (V : View) (k : Nat) : Word :=
  V.w.pend.foldl (fun m o => if !o.uniform && o.dest.contains k then m ||| o.lanes else m) 0#32
/-- A lane register lies in a range. -/
def TstRange.holds (t : TstRange) (k : Nat) : Bool := decide (t.first ≤ k) && decide (k < t.first + t.count)
/-- A lane register that a TST writes, before the MWAIT (R288, R406). -/
def Warp.tstWrites (w : Warp) (k : Nat) : Bool := w.tstRanges.any fun t => !t.load && t.holds k
/-- A lane of a register holds no defined value. -/
def View.laneOpen (V : View) (k l : Nat) : Bool :=
  if k < 120 then (Sparse.get 0#32 V.w.undef k).getLsbD l || V.inWindow false k || V.w.tstWrites k
  else !(Sparse.get 0#32 V.r.tdef (k - 120)).getLsbD l
/-- A uniform register holds no defined value. -/
def View.uniOpen (V : View) (k : Nat) : Bool :=
  if k < 56 then Sparse.get 0#32 V.w.undef (128 + k) != 0#32 || V.inWindow true k
  else !V.r.wdef.getLsbD (k - 56)

/-! ### Reads -/

/-- The value that lane l reads from lane register k; a free value where its contents are undefined. -/
def View.lane (V : View) (k l : Nat) : Word :=
  if V.laneOpen k l then Config.freeLane V.s.fresh k l else Sparse.get 0#32 V.q.rf (V.lidx k l)
/-- A 64-bit pair, low word in the named register (R16). -/
def View.lane64 (V : View) (k l : Nat) : Dword := V.lane (k + 1) l ++ V.lane k l
/-- `n` consecutive registers (1, 2 or 4) of a lane as one value, low word in the named register. -/
def View.laneN (V : View) (k n l : Nat) : BitVec 128 :=
  (List.range n).foldl (fun x j => x ||| ((V.lane (k + j) l).setWidth 128 <<< (32 * j))) 0#128
/-- The value of uniform register k. -/
def View.uni (V : View) (k : Nat) : Word :=
  if V.uniOpen k then Config.freeUniform V.s.fresh k else Sparse.get 0#32 V.q.rf (V.uidx k)
/-- An even uniform pair. -/
def View.uni64 (V : View) (k : Nat) : Dword := V.uni (k + 1) ++ V.uni k
/-- `n` consecutive uniform registers (1 or 2) as one value. -/
def View.uniN (V : View) (k n : Nat) : BitVec 128 :=
  (List.range n).foldl (fun x j => x ||| ((V.uni (k + j)).setWidth 128 <<< (32 * j))) 0#128
/-- vx of a lane (R79). -/
def View.vx (V : View) (l : Nat) : Byte :=
  (Sparse.get 0#32 V.q.rf (vxIdx V.w.ubase (l / 4))).extractLsb' (8 * (l % 4)) 8

/-! ### Writes -/

/-- A write by lanes of a register in a range is noted. -/
def TstRange.touch (t : TstRange) (k : Nat) (em : Word) : TstRange :=
  if t.holds k then { t with touched := Sparse.set 0#32 t.touched k (Sparse.get 0#32 t.touched k ||| em) } else t
/-- What a write of lane register k by the lanes of EM does to its undefined contents: a temporary becomes written in those
lanes (R25); a register in a window becomes undefined (R29), and so does one that a TST writes before its MWAIT (R288); any other becomes
defined. -/
def View.noteLane (V : View) (k : Nat) : View :=
  if k < 120 then
    let u := Sparse.get 0#32 V.w.undef k
    let u' := if V.inWindow false k then u ||| V.em ||| V.pendLanes k else if V.w.tstWrites k then u ||| V.em else u &&& ~~~V.em
    { V with w := { V.w with undef := Sparse.set 0#32 V.w.undef k u', tstRanges := V.w.tstRanges.map fun t => t.touch k V.em } }
  else
    { V with r := { V.r with tdef := Sparse.set 0#32 V.r.tdef (k - 120) (Sparse.get 0#32 V.r.tdef (k - 120) ||| V.em) } }
/-- Write the words of one register in the lanes of a mask. -/
def writeRow (rf : Sparse Word) (idx : Nat → Nat) (m : Word) (f : Nat → Word) : Sparse Word :=
  (lanesOf m).foldl (fun rf l => Sparse.set 0#32 rf (idx l) (f l)) rf
/-- Write lane register k in the lanes of EM (R77). -/
def View.writeLane (V : View) (k : Nat) (f : Nat → Word) : View :=
  let V' := V.noteLane k
  { V' with q := { V'.q with rf := writeRow V.q.rf (V.lidx k) V.em f } }
/-- Write a 64-bit pair in the lanes of EM. -/
def View.writeLane64 (V : View) (k : Nat) (f : Nat → Dword) : View :=
  (V.writeLane k fun l => (f l).extractLsb' 0 32).writeLane (k + 1) fun l => (f l).extractLsb' 32 32
/-- What a write of uniform register k does to its undefined contents. -/
def View.noteUni (V : View) (k : Nat) : View :=
  if k < 56 then
    { V with w := { V.w with undef := Sparse.set 0#32 V.w.undef (128 + k) (if V.inWindow true k then 1#32 else 0#32) } }
  else { V with r := { V.r with wdef := V.r.wdef ||| (1#8 <<< (k - 56)) } }
/-- Write uniform register k, whatever the mask (R77, R78). -/
def View.writeUni (V : View) (k : Nat) (x : Word) : View :=
  let V' := V.noteUni k
  { V' with q := { V'.q with rf := Sparse.set 0#32 V.q.rf (V.uidx k) x } }
/-- Write an even uniform pair. -/
def View.writeUni64 (V : View) (k : Nat) (x : Dword) : View :=
  (V.writeUni k (x.extractLsb' 0 32)).writeUni (k + 1) (x.extractLsb' 32 32)
/-- Replace byte `i` of a word. -/
def setByte (w : Word) (i : Nat) (b : Byte) : Word :=
  (w &&& ~~~(0xFF#32 <<< (8 * i))) ||| (b.setWidth 32 <<< (8 * i))
/-- Write vx in the lanes of EM (R79, R86). -/
def View.writeVx (V : View) (f : Nat → Byte) : View :=
  { V with q := { V.q with rf := (lanesOf V.em).foldl (fun rf l =>
      let j := vxIdx V.w.ubase (l / 4)
      Sparse.set 0#32 rf j (setByte (Sparse.get 0#32 rf j) (l % 4) (f l))) V.q.rf } }

end Sys2Proof.Machine
end

