-- ==== Sys2Proof/Machine/Flags.lean ====
section
/-! DEFINITION. The machine has no condition flags; its flag results are lane masks in uniform registers (R76, R99, R103, R108). -/
namespace Sys2Proof.Machine

/-- Write a mask: bit l is the result of lane l in the lanes of EM, and 0 elsewhere (R76). -/
def View.writeMask (V : View) (d : Nat) (g : Nat → Bool) : View :=
  V.writeUni d (maskOf fun l => V.em.getLsbD l && g l)

/-- A relation's result as a uniform value (R103). -/
def truth (b : Bool) : Word := if b then 1#32 else 0#32

/-- The relations of the compares (R99). -/
def ltS (a b : Word) : Bool := decide (a.toInt < b.toInt)
def leS (a b : Word) : Bool := decide (a.toInt ≤ b.toInt)
def ltZ (a b : Word) : Bool := decide (a.toNat < b.toNat)
def leZ (a b : Word) : Bool := decide (a.toNat ≤ b.toNat)

end Sys2Proof.Machine
end

