-- ==== Sys2Proof/Machine/Lines.lean ====
section
/-! DEFINITION. Lines, caches, the home directory and the order buses (R187-R208): the coherent bytes of memory, and the
states, masks and messages that the coherence rules move beside them. -/
namespace Sys2Proof.Machine

/-! ### Places (R10, R187, R188, R199) -/

/-- The line that holds a physical address. -/
def lineOf (pa : Nat) : Nat := pa / 256
/-- home(PA) (R188). -/
def homeOf (line : Nat) : Nat := (line % 2 ^ 24 + line / 2 ^ 24 % 1024) % 42
/-- The order bus of a line (R199). -/
def busOf (line : Nat) : Nat := (line % 8) ^^^ (line / 8 % 8) ^^^ (line / 64 % 8)
/-- HBM memory (R10). -/
def isHbm (pa : Nat) : Bool := decide (pa < 0x03F000000000)
/-- The host region (R10). -/
def isHost (pa : Nat) : Bool := decide (0xC00000000000 ≤ pa) && decide (pa < 0x1000000000000)
/-- The field of a core; management core m is 2,688 + m (R8, R9). -/
def fieldOf (cn : Nat) : Nat := if cn < 2688 then cn / 64 else (cn - 2688) / 2
/-- The global cluster whose wavelength group posts a core's messages (R199); a management core uses its field's cluster 0. -/
def clusterOf (cn : Nat) : Nat := if cn < 2688 then cn / 8 else 8 * fieldOf cn

/-- The port that carries a host-region address, if its window covers it and it is up (R375, R376). -/
def State.carrier (s : State) (pa : Nat) : Option Nat :=
  match s.ports.find? fun p => decide (p.2.base * 2 ^ 30 ≤ pa) && decide (pa < (p.2.base + p.2.size) * 2 ^ 30) with
  | none => none
  | some (_, p) =>
    let n := p.first + (pa / 256) % (max 1 p.width)
    match s.ports.find n with
    | some t => if t.up && !t.awaitAck then some n else none
    | none => none

/-! ### Bytes -/

/-- What a byte reads as: the coherence-latest write (R217, R218); a free value where a DISC left it undefined (R208). -/
def State.memByte (s : State) (pa : Nat) : Byte :=
  if s.undefined.contains pa then Config.freeByte s.fresh pa else Sparse.get 0#8 s.mem pa
/-- `n` bytes from an address up. -/
def State.memBytes (s : State) (pa n : Nat) : List Byte := (List.range n).map fun i => s.memByte (pa + i)
/-- Bytes as a little-endian number (R1). -/
def leNat : List Byte → Nat
  | [] => 0
  | b :: bs => b.toNat + 256 * leNat bs
/-- The low `n` bytes of a number, lowest first (R1). -/
def toLe (x : Nat) : Nat → List Byte
  | 0 => []
  | n + 1 => BitVec.ofNat 8 x :: toLe (x / 256) n
/-- A little-endian number in memory. -/
def State.memNat (s : State) (pa n : Nat) : Nat := leNat (s.memBytes pa n)
/-- Put bytes in memory: the coherent value alone. -/
def State.pokeMem (s : State) (pa : Nat) (bs : List Byte) : State :=
  { s with mem := Sparse.setAll 0#8 s.mem pa bs
           undefined := s.undefined.filter fun a => !(decide (pa ≤ a) && decide (a < pa + bs.length)) }

/-! ### L2 lines -/

/-- The L2 line of a field, if it holds one. -/
def Field.line (f : Field) (line : Nat) : Option L2Line := f.l2.find? fun x => x.line == line
/-- Put an L2 line in its place. -/
def Field.putLine (f : Field) (x : L2Line) : Field :=
  { f with l2 := if f.l2.any (fun y => y.line == x.line) then f.l2.map fun y => if y.line = x.line then x else y
                 else f.l2 ++ [x] }
/-- The line's data has not come yet: its sectors are not valid (R187, R201). -/
def L2Line.awaiting (x : L2Line) : Bool := !(x.v0 && x.v1)
/-- Remove an L2 line; the occupancy of the context whose fill it was falls (R203). -/
def Field.dropLine (f : Field) (line : Nat) : Field :=
  match f.line line with
  | none => f
  | some x => { f with l2 := f.l2.filter fun y => y.line ≠ line
                       occupancy := if x.way < 24 then Sparse.set 0 f.occupancy x.ctx (Sparse.get 0 f.occupancy x.ctx - 1)
                                    else f.occupancy }
/-- Give a line its way: it is a valid line of the L2 from now on, and counts for the context whose fill it is (R203). -/
def Field.fillLine (f : Field) (x : L2Line) (way : Nat) : Field :=
  { f.putLine { x with way := way } with
    occupancy := if x.way < 24 then f.occupancy else Sparse.set 0 f.occupancy x.ctx (Sparse.get 0 f.occupancy x.ctx + 1) }
/-- A line of the L2 has been read (R204). -/
def State.touchL2 (s : State) (f line : Nat) : State :=
  match (s.field f).line line with
  | some x => s.setField f ((s.field f).putLine { x with used := s.fresh })
  | none => s
/-- An owner state (R195). -/
def LineState.owner : LineState → Bool
  | .M => true
  | .E => true
  | .O => true
  | .S => false
  | .I => false

/-- The entry of a line at its home (R196). -/
def State.dirEntry (s : State) (line : Nat) : DirEntry :=
  ((s.field (homeOf line)).dir.find line).getD ⟨.uncached, .none⟩
/-- Write a line's directory entry. -/
def State.setDir (s : State) (line : Nat) (d : DirEntry) : State :=
  let h := homeOf line
  let f := s.field h
  s.setField h { f with dir := if d = ⟨.uncached, .none⟩ then f.dir.drop line else f.dir.put line d }

/-- Invalidate the L1 copies that a cluster's reverse map names for a line, and free the entry (R193, R194). -/
def State.freeRev (s : State) (g line : Nat) : State :=
  let cl := s.cluster g
  match cl.rev.find? fun e => e.pline == line with
  | none => s
  | some e =>
    let s := s.setCluster g { cl with rev := cl.rev.filter fun x => x.pline ≠ line }
    (List.range 8).foldl (fun s j =>
      if e.mask.getLsbD j then
        let n := 8 * g + j
        let c := s.core n
        s.setCore n { c with l1 := c.l1.filter fun x => !(x.pline == line) }
      else s) s
/-- Back-invalidate every L1 copy of a line in a field (R191, R194); `keep` names a core whose copy stays. -/
def State.backInvalidate (s : State) (f line : Nat) (keep : Option Nat) : State :=
  match (s.field f).line line with
  | none => s
  | some x =>
    (List.range 8).foldl (fun s k =>
      if x.presence.getLsbD k then
        let g := 8 * f + k
        match keep with
        | some cn =>
          if clusterOf cn = g ∧ ((s.core cn).l1.any fun y => y.pline == line) then
            -- the writer's own copy is updated; the others of its cluster go (R191)
            let cl := s.cluster g
            let j := cn % 8
            let s := s.setCluster g { cl with rev := cl.rev.map fun e =>
              if e.pline = line then { e with mask := (1#8 <<< j) } else e }
            (List.range 8).foldl (fun s i =>
              if i = j then s
              else
                let c := s.core (8 * g + i)
                s.setCore (8 * g + i) { c with l1 := c.l1.filter fun y => !(y.pline == line) }) s
          else
            let s := s.freeRev g line
            let fd := s.field f
            s.setField f (fd.putLine { x with presence := (((fd.line line).map (·.presence)).getD 0#8) &&& ~~~(1#8 <<< k) })
        | none =>
          let s := s.freeRev g line
          let fd := s.field f
          match fd.line line with
          | some y => s.setField f (fd.putLine { y with presence := y.presence &&& ~~~(1#8 <<< k) })
          | none => s
      else s) s
/-- A field's copy of a line becomes I, with every L1 copy under it (R194, R197). -/
def State.invalidate (s : State) (f line : Nat) : State :=
  let s := s.backInvalidate f line none
  s.setField f ((s.field f).dropLine line)
/-- The copies of a line that hardware queue slots keep are removed: those slots must read their tail words again (R347). -/
def State.loseTails (s : State) (line : Nat) : State :=
  if s.queues.any fun q => q.tailLine == some line then
    { s with queues := s.queues.map fun (q : Queue) => if q.tailLine = some line then { q with reread := true, tailLine := none } else q }
  else s
/-- Every other field's copy becomes I, and so do those of queue slots. -/
def State.invalidateOthers (s : State) (keep line : Nat) : State :=
  ((List.range 42).foldl (fun s f =>
    if f = keep then s else if ((s.field f).line line).isSome then s.invalidate f line else s) s).loseTails line
/-- The clusters of a field whose reverse map has an entry for a line (R194). -/
def State.presenceOf (s : State) (f line : Nat) : BitVec 8 :=
  (List.range 8).foldl (fun (m : BitVec 8) k =>
    if (s.cluster (8 * f + k)).rev.any fun e => e.pline == line then m ||| (1#8 <<< k) else m) 0#8
/-- Give a field's line a state; a line it does not hold enters without a way. With `await` its data is still to come (R197, R201). -/
def State.setLine (s : State) (f line : Nat) (st : LineState) (ctx : Nat) (d0 d1 await : Bool) : State :=
  let fd := s.field f
  match fd.line line with
  | some x => s.setField f (fd.putLine { x with
      st := st, v0 := x.v0 && !await, v1 := x.v1 && !await, d0 := x.d0 || d0, d1 := x.d1 || d1, used := s.fresh })
  | none =>
    s.setField f (fd.putLine { line := line, st := st, v0 := !await, v1 := !await, d0 := d0, d1 := d1, presence := s.presenceOf f line
                               ctx := ctx, way := 24, used := s.fresh })

/-- Home memory takes an owner's dirty sectors (R197): what it holds no longer lags. -/
def State.cleanLine (s : State) (f line : Nat) (st : LineState) : State :=
  let fd := s.field f
  match fd.line line with
  | none => s
  | some x =>
    { s.setField f (fd.putLine { x with st := st, d0 := false, d1 := false }) with
      behind := Sparse.clear (fun a => lineOf a == line) s.behind }

/-- The owner of a line, if a field owns it. -/
def State.ownerOf (s : State) (line : Nat) : Option Nat :=
  match (s.dirEntry line).st with
  | .owned f => some f
  | _ => none
/-- The state of a field's copy. -/
def State.lineState (s : State) (f line : Nat) : LineState :=
  match (s.field f).line line with
  | some x => x.st
  | none => .I

/-! ### Effects at ordering points (R197) -/

/-- GetS by field f. -/
def State.applyGetS (s : State) (f line ctx : Nat) : State :=
  let d := s.dirEntry line
  match d.st with
  | .uncached => (s.setLine f line .E ctx false false true).setDir line { d with st := .owned f }
  | .shared => s.setLine f line .S ctx false false true
  | .owned o =>
    if o = f then s
    else
      let s := match (s.field o).line line with
        | some x => s.setField o ((s.field o).putLine { x with st := .O })
        | none => s
      s.setLine f line .S ctx false false true
/-- GetM by field f: a dirty owner's data passes with its dirty bits, home memory still lagging. -/
def State.applyGetM (s : State) (f line ctx : Nat) : State :=
  let d := s.dirEntry line
  let (d0, d1) := match d.st with
    | .owned o => match (s.field o).line line with
      | some x => (x.d0, x.d1)
      | none => (false, false)
    | _ => (false, false)
  let s := s.invalidateOthers f line
  -- the data of a copy in S comes from home memory; an owner in O needs none
  let await := !(s.lineState f line).owner
  let s := s.setLine f line .M ctx d0 d1 await
  s.setDir line { d with st := .owned f }
/-- Put by field f; void when f does not own the line. -/
def State.applyPut (s : State) (f line : Nat) : State :=
  let d := s.dirEntry line
  if d.st = .owned f then
    let wasO := s.lineState f line = .O
    let s := s.cleanLine f line (s.lineState f line)
    (s.invalidate f line).setDir line { d with st := if wasO then .shared else .uncached }
  else s
/-- Clean: the owner's dirty sectors reach home memory. -/
def State.applyClean (s : State) (line : Nat) : State :=
  match s.ownerOf line with
  | some o => s.cleanLine o line (if s.lineState o line = .M then .E else s.lineState o line)
  | none => s
/-- Disc: every copy becomes I, dirty sectors are discarded, and every byte of the line is undefined (R208). -/
def State.applyDisc (s : State) (line : Nat) : State :=
  let s := s.invalidateOthers 42 line
  let s := { s with behind := Sparse.clear (fun a => lineOf a == line) s.behind
                    undefined := (s.undefined.filter fun a => !(lineOf a == line)) ++ (List.range 256).map (256 * line + ·) }
  s.setDir line ⟨.uncached, .none⟩

/-- A write by field f to a line that it holds in M or E (R195, R202): the coherent bytes change; a sector that becomes dirty
leaves its old bytes behind in home memory; L1 copies but the writer's go (R191). -/
def State.writeLine (s : State) (f : Nat) (writer : Option Nat) (pa : Nat) (bs : List Byte) : State :=
  let line := lineOf pa
  let s := (s.backInvalidate f line writer).loseTails line
  match (s.field f).line line with
  | none => s.pokeMem pa bs
  | some x =>
    let lo := pa % 256
    let t0 := decide (lo < 128) && !bs.isEmpty
    let t1 := decide (128 < lo + bs.length)
    let old (k : Nat) := Sparse.getAll 0#8 s.mem (256 * line + 128 * k) 128
    let b0 := if t0 && !x.d0 then Sparse.setAll 0#8 s.behind (256 * line) (old 0) else s.behind
    let b1 := if t1 && !x.d1 then Sparse.setAll 0#8 b0 (256 * line + 128) (old 1) else b0
    let s := s.setField f ((s.field f).putLine { x with st := .M, d0 := x.d0 || t0, d1 := x.d1 || t1, used := s.fresh })
    { s with behind := b1 }.pokeMem pa bs

/-- The length of an entry, and of a table's cycle, in ns (R304). -/
def slotNs (e : SlotEntry) : Nat := 10000 * e.duration
def slotCycle (t : SlotTable) : Nat := t.entries.foldl (fun n e => n + slotNs e) 0
/-- The entry that holds the point `r` of a cycle: its index, itself, and where it ends. -/
def entryFrom : Nat → Nat → List SlotEntry → Nat → Option (Nat × SlotEntry × Nat)
  | _, _, [], _ => none
  | i, n, e :: es, r => if r < n + slotNs e then some (i, e, n + slotNs e) else entryFrom (i + 1) (n + slotNs e) es r
/-- The entry of a table that governs at a TIME, with the TIME of its end; none before the epoch. -/
def slotAt (t : SlotTable) (time : Nat) : Option (Nat × SlotEntry × Nat) :=
  if time < t.epoch ∨ slotCycle t = 0 then none
  else
    let r := (time - t.epoch) % slotCycle t
    (entryFrom 0 0 t.entries r).map fun x => (x.1, x.2.1, time - r + x.2.2)
/-- The table in force at a TIME (R306). -/
def State.tableAt (s : State) (time : Nat) : Option SlotTable :=
  match s.slots.next with
  | some t => if s.slots.switch ≤ time then some t else s.slots.table
  | none => s.slots.table
/-- The entry that governs at a TIME. -/
def State.entryAt (s : State) (time : Nat) : Option (Nat × SlotEntry × Nat) := (s.tableAt time).bind fun t => slotAt t time
/-- The L2 ways that a tenant may fill in a field under the current slot entry (R203, R305): those of its partition's mask, and none
where it has no partition or no mask there. All when no entry governs (DESIGN CHOICE, notes/assumptions/45.md). -/
def State.waysOf (s : State) (f ctx : Nat) : BitVec 24 :=
    match s.entryAt s.time with
    | none => 0xFFFFFF#24
    | some (_, e, _) =>
      match e.partitions.find? fun p => p.tenant == ctx / 64 with
      | none => 0#24
      | some p => match p.ways.find? fun w => w.1 == f with
        | some w => w.2
        | none => 0#24

/-- Least recently used of some L2 lines. -/
def lru : List L2Line → Option L2Line
  | [] => none
  | x :: xs => match lru xs with
    | none => some x
    | some y => if x.used ≤ y.used then some x else some y
/-- A context is at or above its soft limit in a field (R203). -/
def Field.overLimit (f : Field) (ctx : Nat) : Bool :=
  match f.limits.find ctx with
  | some n => decide (n ≤ Sparse.get 0 f.occupancy ctx)
  | none => false
/-- The victim of a fill by a context into the line's set: a free way, or the line to evict (R204); before the other tests, a line of
another tenant in a way that has changed hands (R315). A context without a way there gets none (24). -/
def State.victim (s : State) (f line ctx : Nat) : Nat × Option L2Line :=
  let fd := s.field f
  let ways := s.waysOf f ctx
  let inSet := fd.l2.filter fun x => x.line % 32768 == line % 32768 && decide (x.way < 24) && ways.getLsbD x.way
  match (List.range 24).find? fun w => ways.getLsbD w && !inSet.any (fun x => x.way == w) with
  | some w => (w, none)
  | none =>
    let foreign := inSet.filter fun x => x.ctx / 64 != ctx / 64
    let mine := if fd.overLimit ctx then inSet.filter (fun x => x.ctx == ctx) else []
    let above := inSet.filter fun x => fd.overLimit x.ctx
    match [foreign, mine, above, inSet].findSome? lru with
    | some x => (x.way, some x)
    | none => (24, none)
/-- Zero `n` bytes of memory that no cache holds for any context (R238, R240). -/
def State.wipe (s : State) (pa n : Nat) : State :=
  let inside (a : Nat) := decide (pa ≤ a) && decide (a < pa + n)
  { s with mem := Sparse.clear inside s.mem, behind := Sparse.clear inside s.behind
           undefined := s.undefined.filter fun a => !inside a }

/-! ### L1 fills and the reverse map (R190-R194) -/

/-- A core's L1 line under a name, with the sector of an address valid. -/
def Core.l1Hit (c : Core) (ctx va : Nat) : Bool :=
  c.l1.any fun x => x.ctx == ctx && x.vline == va / 256 && (if va % 256 < 128 then x.v0 else x.v1)
/-- An L1 line under a name has been read (R190). -/
def State.touchL1 (s : State) (cn ctx va : Nat) : State :=
  let c := s.core cn
  s.setCore cn { c with l1 := c.l1.map fun x => if x.ctx = ctx ∧ x.vline = va / 256 then { x with used := s.fresh } else x }
/-- Clear one core's bit in a cluster's entry for a line; an empty entry is freed, and the L2's presence bit with it. -/
def State.dropRevBit (s : State) (cn line : Nat) : State :=
  let g := clusterOf cn
  let cl := s.cluster g
  let rev := (cl.rev.map fun e => if e.pline = line then { e with mask := e.mask &&& ~~~(1#8 <<< (cn % 8)) } else e)
  let gone := rev.any fun e => e.pline == line && e.mask == 0#8
  let s := s.setCluster g { cl with rev := rev.filter fun e => e.mask ≠ 0#8 }
  if gone then
    let f := fieldOf cn
    match (s.field f).line line with
    | some x => s.setField f ((s.field f).putLine { x with presence := x.presence &&& ~~~(1#8 <<< (g % 8)) })
    | none => s
  else s
/-- The least recently used reverse-map entry of some. -/
def lruRev : List RevEntry → Option RevEntry
  | [] => none
  | x :: xs => match lruRev xs with
    | none => some x
    | some y => if x.used ≤ y.used then some x else some y
/-- The reverse map's part of an L1 miss (R193). -/
def State.revMiss (s : State) (cn ctx va pa : Nat) : State :=
  let g := clusterOf cn
  let line := lineOf pa
  let bit : BitVec 8 := 1#8 <<< (cn % 8)
  match (s.cluster g).rev.find? fun e => e.pline == line with
  | some e =>
    if e.ctx = ctx ∧ e.vline = va / 256 then
      let cl := s.cluster g
      s.setCluster g { cl with rev := cl.rev.map fun x => if x.pline = line then { x with mask := x.mask ||| bit, used := s.fresh } else x }
    else
      let s := s.freeRev g line
      let cl := s.cluster g
      s.setCluster g { cl with rev := cl.rev ++ [⟨line, ctx, va / 256, bit, s.fresh⟩] }
  | none =>
    let inSet := (s.cluster g).rev.filter fun e => e.pline % 1024 == line % 1024
    let s := if inSet.length < 16 then s
      else match lruRev inSet with
        | some v =>
          let s := s.freeRev g v.pline
          let f := fieldOf cn
          match (s.field f).line v.pline with
          | some x => s.setField f ((s.field f).putLine { x with presence := x.presence &&& ~~~(1#8 <<< (g % 8)) })
          | none => s
        | none => s
    let cl := s.cluster g
    let s := s.setCluster g { cl with rev := cl.rev ++ [⟨line, ctx, va / 256, bit, s.fresh⟩] }
    let f := fieldOf cn
    match (s.field f).line line with
    | some x => s.setField f ((s.field f).putLine { x with presence := x.presence ||| (1#8 <<< (g % 8)) })
    | none => s
/-- A core's bit stands in its cluster's entry for a line under a name. -/
def State.named (s : State) (cn ctx va pa : Nat) : Bool :=
  (s.cluster (clusterOf cn)).rev.any fun e => e.pline == lineOf pa && e.ctx == ctx && e.vline == va / 256 && e.mask.getLsbD (cn % 8)
/-- A field has asked for a line, or could not ask for it now (R198): what misses on it has passed the reverse map. -/
def State.asking (s : State) (f line : Nat) : Bool :=
  (s.field f).txns.any (fun t => t.line == line) || decide (512 ≤ (s.field f).txns.length)
/-- An L1 miss passes the reverse map, once, before it goes to the L2 (R191, R193): an access that waits for the line that it has asked for has
passed it. -/
def State.passMap (s : State) (cn ctx va pa : Nat) : State :=
  if s.named cn ctx va pa && s.asking (fieldOf cn) (lineOf pa) then s else s.revMiss cn ctx va pa
/-- The least recently used L1 line of some. -/
def lruL1 : List L1Line → Option L1Line
  | [] => none
  | x :: xs => match lruL1 xs with
    | none => some x
    | some y => if x.used ≤ y.used then some x else some y
/-- Fill the sector of an address into a core's L1 in S, under the name that the reverse map has for it (R190, R191). -/
def State.l1Fill (s : State) (cn ctx va pa : Nat) : State :=
  if (s.core cn).l1Hit ctx va || !s.named cn ctx va pa then s
  else
    let c := s.core cn
    let v0 := decide (va % 256 < 128)
    if c.l1.any fun x => x.ctx == ctx && x.vline == va / 256 then
      s.setCore cn { c with l1 := c.l1.map fun x =>
        if x.ctx = ctx ∧ x.vline = va / 256 then { x with v0 := x.v0 || v0, v1 := x.v1 || !v0, used := s.fresh } else x }
    else
      let inSet := c.l1.filter fun x => x.vline % 256 == va / 256 % 256
      let s := if inSet.length < 10 then s
        else match lruL1 inSet with
          | some v => (s.setCore cn { c with l1 := c.l1.filter fun x => x ≠ v }).dropRevBit cn v.pline
          | none => s
      let c := s.core cn
      s.setCore cn { c with l1 := c.l1 ++ [⟨ctx, va / 256, lineOf pa, v0, !v0, s.fresh⟩] }
/-- Invalidate every L1 copy and name of a context in a cluster, as firmware does when it withdraws translations (R194, R241). -/
def State.dropNames (s : State) (g : Nat) (p : RevEntry → Bool) : State :=
  ((s.cluster g).rev.filter p).foldl (fun s e =>
    let s := s.freeRev g e.pline
    let f := g / 8
    match (s.field f).line e.pline with
    | some x => s.setField f ((s.field f).putLine { x with presence := x.presence &&& ~~~(1#8 <<< (g % 8)) })
    | none => s) s

/-! ### Messages and transactions (R198, R199) -/

/-- Post a message at the end of a cluster's queue for the line's bus. -/
def State.post (s : State) (g : Nat) (m : Msg) : State :=
  let cl := s.cluster g
  let b := busOf m.line
  s.setCluster g { cl with buses := cl.buses.put b ((cl.buses.find b).getD [] ++ [m]) }
/-- Ask for a line on behalf of a core: opens a transaction and posts GetS or GetM, unless one is open on the line or 512 are
outstanding (R198). -/
def State.request (s : State) (cn line ctx : Nat) (wantsM : Bool) : State :=
  let f := fieldOf cn
  let fd := s.field f
  if fd.txns.any (fun t => t.line == line) || decide (512 ≤ fd.txns.length) then s
  else
    let s := s.setField f { fd with txns := fd.txns ++ [{ line := line, wantsM := wantsM, ctx := ctx, applied := false, waitHost := false }] }
    s.post (clusterOf cn) ⟨if wantsM then .getM else .getS, line, ctx, none⟩
/-- A field can read a line now: it holds it with its data. -/
def State.readable (s : State) (f line : Nat) : Bool :=
  match (s.field f).line line with
  | some x => !x.awaiting && x.st != .I
  | none => false
/-- Some message on a line waits for the host's answer (R205, R207). -/
def State.hostWait (s : State) (line : Nat) : Bool := s.fields.any fun f => f.2.txns.any fun t => t.line == line && t.waitHost
/-- A field can write a line now (R202): it holds it in M or E, its data come or not, and the home does not wait for the host. -/
def State.writable (s : State) (f line : Nat) : Bool :=
  match (s.field f).line line with
  | some x => (x.st == .M || x.st == .E) && !s.hostWait line
  | none => false
/-- The message at the head of a cluster's queue for a bus, and the state with it taken. Its turn comes only once the home has the
host's answer for an earlier message on its line (R205, R207). -/
def State.takeMsg (s : State) (g bus : Nat) (k : MsgKind) : Option (Msg × State) :=
  let cl := s.cluster g
  match (cl.buses.find bus).getD [] with
  | [] => none
  | m :: ms => if m.kind = k ∧ s.hostWait m.line = false then some (m, s.setCluster g { cl with buses := cl.buses.put bus ms }) else none
/-! ### Accesses of engines, of the core itself and of firmware -/

/-- The lines that `n` bytes from an address lie in. -/
def linesFrom (pa n : Nat) : List Nat := if n = 0 then [] else (List.range ((pa % 256 + n - 1) / 256 + 1)).map (lineOf pa + ·)
/-- What lines need before the field of a core may write them: nothing (`none`), or the state in which it has asked for those that
it may not write yet (R197, R202). -/
def State.claim (s : State) (cn ctx : Nat) (ls : List Nat) : Option State :=
  match ls.filter fun l => !s.writable (fieldOf cn) l with
  | [] => none
  | xs => some (xs.foldl (fun s l => s.request cn l ctx true) s)
/-- What the host must do before a message's line can be answered: when the device lacks the permission on a host-region line, or when
the host holds an HBM line that must come back (R205, R207). -/
def State.hostNeeds (s : State) (line : Nat) (own : Bool) : Bool :=
  let d := s.dirEntry line
  if isHost (256 * line) then (if own then d.host != .EM else d.host == .none)
  else d.host == .EM || (own && d.host == .S)
/-- What lines need before they may be read: nothing where the coherent bytes stand in the device (`none`), or the state in which
the field of a core has asked for those that the host holds or has not given (R205, R207). -/
def State.claimRead (s : State) (cn ctx : Nat) (ls : List Nat) : Option State :=
  match ls.filter fun l => s.hostWait l || (s.hostNeeds l false && !s.readable (fieldOf cn) l) with
  | [] => none
  | xs => some (xs.foldl (fun s l => s.request cn l ctx false) s)
/-- Write bytes that may cross lines, from the field of a core that has claimed them. -/
def State.engineWriteFrom (s : State) (f : Nat) : Nat → Nat → List Byte → State
  | 0, _, _ => s
  | fuel + 1, pa, bs =>
    if bs.isEmpty then s
    else
      let n := 256 - pa % 256
      State.engineWriteFrom (s.writeLine f none pa (bs.take n)) f fuel (pa + n) (bs.drop n)
def State.engineWrite (s : State) (f pa : Nat) (bs : List Byte) : State := State.engineWriteFrom s f (bs.length / 256 + 2) pa bs

/-- Mark a field's transaction on a line. -/
def State.markTxn (s : State) (f line : Nat) (t : Txn → Txn) : State :=
  let fd := s.field f
  s.setField f { fd with txns := fd.txns.map fun x => if x.line = line then t x else x }
/-- Close a field's transaction on a line: data that was to come from that field's may come from now on (R201). -/
def State.endTxn (s : State) (f line : Nat) : State :=
  { s with fields := s.fields.map fun (x : Nat × Field) =>
      (x.1, { x.2 with txns := (if x.1 = f then x.2.txns.filter fun t => t.line ≠ line else x.2.txns).map fun t =>
        if t.line = line ∧ t.after = some f then { t with after := none } else t }) }
/-- The cluster whose core a line is fetched for, until the line has its way (R199). -/
def State.askedBy (s : State) (f line g : Nat) : State :=
  match (s.field f).line line with
  | some x => if x.way < 24 then s else s.setField f ((s.field f).putLine { x with asked := g })
  | none => s
/-- The field, other than the one that asks, that owns a line whose own data is still to come: data comes to others from there (R201). -/
def State.awaitedOwner (s : State) (f line : Nat) : Option Nat :=
  (s.ownerOf line).filter fun o => o != f && ((s.field o).line line).any L2Line.awaiting

end Sys2Proof.Machine
end

