-- ==== Sys2Proof/Machine/Pages.lean ====
section
/-! DEFINITION. Addresses and pages (R232-R235, R242): the radix walk, the cluster TLB, permissions, the access tables of core
windows, and the map changes that firmware makes (R238, R240). -/
namespace Sys2Proof.Machine

/-- Bits [63:48] equal bit 47 (R232). -/
def canonical (va : Dword) : Bool := va == (va.extractLsb' 0 48).signExtend 64

/-- Page sizes by code: 64 KiB, 2 MiB, 1 GiB (R239). -/
def pageSize (code : Nat) : Nat := if code = 0 then 0x10000 else if code = 1 then 0x200000 else 0x40000000

/-- What a walk finds (R233): a leaf with its size code and entry, or why there is none. -/
inductive Walk where
  | error
  | unmapped
  | leaf (size : Nat) (e : Dword)
  | firstTouch (size : Nat) (e : Dword)
  | poisoned (size : Nat) (e : Dword)
  | migrating (size : Nat) (e : Dword)
  deriving DecidableEq, Repr

/-- Where the entry of a level stands for an address (R233). -/
def nodeIndex (level va : Nat) : Nat :=
  if level = 3 then va / 2 ^ 39 % 512 else if level = 2 then va / 2 ^ 30 % 512
  else if level = 1 then va / 2 ^ 21 % 512 else va / 2 ^ 16 % 32
/-- The alignment of the node that a level's entry points to (R233). -/
def nodeAlign (level : Nat) : Nat := if level = 1 then 256 else 4096

/-- A leaf entry of a level, valid or not, keeps to the table of R233: its leaf bit is set, it is not at level 3, and its
physical address is aligned to its page. -/
def leafOk (level : Nat) (e : Dword) : Bool :=
  e.getLsbD 1 && decide (level < 3) && decide (e.toNat / 256 % 2 ^ 40 * 256 % pageSize level = 0)
/-- A non-leaf entry of a level keeps to the table of R233: no permission or page mark, and a node address that is aligned. -/
def nodeOk (level : Nat) (e : Dword) : Bool :=
  decide (0 < level) && e.extractLsb' 2 6 == 0#6 && decide (e.toNat / 256 % 2 ^ 40 * 256 % nodeAlign level = 0)

/-- One level of the walk: `level` counts down from 3; the size code of a leaf at level n is n. -/
def State.walkFrom (s : State) (va : Nat) : Nat → Nat → Walk
  | level, node =>
    let e : Dword := BitVec.ofNat 64 (s.memNat (node + 8 * nodeIndex level va) 8)
    if s.unreadable.contains (lineOf (node + 8 * nodeIndex level va)) ∨ e.extractLsb' 48 16 ≠ 0#16 then .error
    else if !e.getLsbD 0 then
      if e.extractLsb' 5 3 = 0#3 then .unmapped
      else if !leafOk level e then .error
      else if e.getLsbD 6 then .poisoned level e
      else if e.getLsbD 5 then .firstTouch level e
      else .migrating level e
    else if e.getLsbD 1 then
      if !leafOk level e || e.getLsbD 5 || e.getLsbD 7 then .error
      else if e.getLsbD 6 then .poisoned level e
      else .leaf level e
    else if !nodeOk level e then .error
    else
      match level with
      | 0 => .error
      | l + 1 => State.walkFrom s va l (e.toNat / 256 % 2 ^ 40 * 256)
  termination_by structural level => level

/-- The walk of a context's table from its root (R233). -/
def State.walk (s : State) (ctx va : Nat) : Walk :=
  match (s.ctx ctx).root with
  | none => .unmapped
  | some r => s.walkFrom va 3 r

/-- What an access needs of a page (R234). -/
inductive Need where
  | fetch | read | write | atomic | wbl | disc
  deriving DecidableEq, Repr

/-- The page's permission bits serve an access (R234). -/
def permits (e : Dword) : Need → Bool
  | .fetch => e.getLsbD 4
  | .read => e.getLsbD 2
  | .write => e.getLsbD 3
  | .atomic => e.getLsbD 2 && e.getLsbD 3
  | .wbl => e.getLsbD 2
  | .disc => e.getLsbD 2 && e.getLsbD 3

/-- The window structure of an offset (R11): 0 registers, 1 scratchpad, 2 Larder, 3 tiles, 4 core control. -/
def windowPart (off : Nat) : Option Nat :=
  if off < 0x80000 then some 0
  else if off < 0xCA000 then some 1
  else if off < 0x100000 then none
  else if off < 0x140000 then some 2
  else if off < 0x180000 then some 3
  else if off < 0x190000 then some 4
  else none

/-- A core's access table lets a context reach a structure (R242); `none` stands for a management core, which is not checked. -/
def State.accessOk (s : State) (cn : Nat) (master : Option Nat) (part : Nat) (write : Bool) : Bool :=
  match master with
  | none => true
  | some ctx =>
    let c := s.core cn
    c.tenant == some (ctx / 64) && (List.range 64).any fun i =>
      let e := Sparse.get 0#64 c.access i
      let m := e.extractLsb' 12 12
      e.getLsbD 24 && (BitVec.ofNat 12 ctx &&& m) == (e.extractLsb' 0 12 &&& m) &&
        e.getLsbD (25 + 2 * part + if write then 1 else 0)

/-- A core's access table names a context, whatever it grants (R242). -/
def State.accessNames (s : State) (cn : Nat) (master : Option Nat) : Bool :=
  match master with
  | none => true
  | some ctx =>
    let c := s.core cn
    c.tenant == some (ctx / 64) && (List.range 64).any fun i =>
      let e := Sparse.get 0#64 c.access i
      let m := e.extractLsb' 12 12
      e.getLsbD 24 && (BitVec.ofNat 12 ctx &&& m) == (e.extractLsb' 0 12 &&& m)

/-- The fate of one window offset for a master: the access table's refusal comes before a reserved offset's (R13, R235, R242); an
absent core refuses (R392). At a reserved offset, for which no entry has bits, the table refuses a context that it does not name
(DEDUCED, notes/assumptions/22.md). -/
def State.windowCheck (s : State) (cn off : Nat) (master : Option Nat) (write : Bool) : Option Nat :=
  if (s.core cn).absent then some 0x045
  else match windowPart off with
  | none => if s.accessNames cn master then some 0x045 else some 0x044
  | some part => if s.accessOk cn master part write then none else some 0x044

/-- What a translation answers for one lane. -/
inductive Xlate where
  | ok (loc : Loc)
  | fault (cause : Nat)
  | migrating
  deriving DecidableEq, Repr

/-- The place of a physical address for an access, or the refusal of R13, R189, R242 and R375. An atomic, WBL or DISC in a
window range raises 0x048 before the offset or the access table is looked at; the spec orders neither (DESIGN CHOICE,
notes/assumptions/22.md). An address of 2^48 or more, which only a management core can name, is refused as a reserved region (DESIGN CHOICE,
notes/assumptions/70.md). -/
def State.place (s : State) (master : Option Nat) (need : Need) (pa : Nat) : Xlate :=
  let writes := need = .write
  if isHbm pa then .ok (.mem pa)
  else if isHost pa then (if (s.carrier pa).isSome then .ok (.mem pa) else .fault 0x045)
  else if 0x800000000000 ≤ pa ∧ pa < 0x8002A0000000 then
    let c := (pa - 0x800000000000) / 0x400000
    let off := (pa - 0x800000000000) % 0x400000
    if need = .atomic ∨ need = .wbl ∨ need = .disc then .fault 0x048
    else match s.windowCheck c off master writes with
      | some cause => .fault cause
      | none => .ok (.window c off)
  else if 0xA00000000000 ≤ pa ∧ pa < 0xA01000000000 then
    let g := (pa - 0xA00000000000) / 0x1000000
    let off := (pa - 0xA00000000000) % 0x1000000
    if need = .atomic ∨ need = .wbl ∨ need = .disc then .fault 0x048
    else if !writes then .fault 0x045
    else if windowPart off = some 1 ∨ windowPart off = some 2 then .ok (.bcast g off)
    else .fault 0x045
  else .fault 0x045

/-- A cached leaf of the cluster TLB (R234). -/
def State.tlbLeaf (s : State) (g ctx va : Nat) : Option (Nat × Dword) :=
  ((s.cluster g).tlb.find? fun t => t.ctx == ctx && t.va == va / pageSize t.size * pageSize t.size).map fun t => (t.size, t.entry)
/-- A leaf's physical address for a VA. -/
def leafPa (size : Nat) (e : Dword) (va : Nat) : Nat :=
  e.toNat / 256 % 2 ^ 40 * 256 / pageSize size * pageSize size + va % pageSize size

/-- Translation and target checks of one address (R233-R235); a management core's addresses are physical (R242). -/
def State.translate (s : State) (cn : Nat) (mgmt : Bool) (ctx : Nat) (need : Need) (va : Nat) : Xlate :=
  if mgmt then s.place none need va
  else
    let found := match s.tlbLeaf (clusterOf cn) ctx va with
      | some (z, e) => Walk.leaf z e
      | none => s.walk ctx va
    match found with
    | .error => .fault 0x04B
    | .unmapped => .fault 0x042
    | .leaf z e => if permits e need then s.place (some ctx) need (leafPa z e va) else .fault 0x043
    | .poisoned _ e => if permits e need then .fault 0x04C else .fault 0x043
    | .firstTouch _ e => if permits e need then .fault 0x049 else .fault 0x043
    | .migrating _ e => if permits e need then .migrating else .fault 0x043

/-- Cache the leaf that an access used (R234). -/
def State.tlbFill (s : State) (cn ctx va : Nat) : State :=
  let g := clusterOf cn
  match s.tlbLeaf g ctx va with
  | some _ => s
  | none => match s.walk ctx va with
    | .leaf z e =>
      let cl := s.cluster g
      s.setCluster g { cl with tlb := cl.tlb ++ [⟨ctx, va / pageSize z * pageSize z, z, e⟩] }
    | _ => s

/-- The order of report among causes (R235). 0x048, which its table leaves out, ranks with 0x045 (DESIGN CHOICE,
notes/assumptions/22.md). -/
def causeRank (c : Nat) : Nat :=
  if c = 0x04B then 1 else if c = 0x042 then 2 else if c = 0x043 then 3 else if c = 0x04C then 4
  else if c = 0x044 then 5 else if c = 0x045 then 6 else if c = 0x048 then 6 else if c = 0x049 then 7 else 8
/-- The first cause in the order of report. -/
def firstCause : List Nat → Option Nat
  | [] => none
  | c :: cs => match firstCause cs with
    | none => some c
    | some d => if causeRank c ≤ causeRank d then some c else some d

/-! ### Reading and writing virtual memory by an engine -/

/-- How a write by an engine ends: written whole; lines that the field may not write yet, with the state in which it has asked for them
(R197, R202); or the cause that refuses it, nothing written. -/
inductive Wrote where
  | done (s : State)
  | waits (s : State)
  | fault (cause : Nat)
  deriving DecidableEq, Repr

/-- The addresses of a range are canonical, the first and the last (R232). -/
def canonicalRange (va n : Nat) : Bool := canonical (BitVec.ofNat 64 va) && canonical (BitVec.ofNat 64 (va + (n - 1)))
/-- The physical address of each byte of a virtual range of ordinary memory, or the first cause (R235); an address that is not canonical has no
page. -/
def State.placesVa (s : State) (cn : Nat) (mgmt : Bool) (ctx : Nat) (need : Need) (va n : Nat) : Except Nat (List Nat) :=
  if !mgmt && !canonicalRange va n then .error 0x042
  else
  let pas := (List.range n).map fun i => s.translate cn mgmt ctx need (va + i)
  match firstCause (pas.filterMap fun x => match x with
      | .fault c => some c
      | .migrating => some 0x049
      | .ok (.mem _) => none
      | .ok _ => some 0x045) with
  | some c => .error c
  | none => .ok (pas.filterMap fun x => match x with
      | .ok (.mem pa) => some pa
      | _ => none)

/-- Write bytes at a virtual range of ordinary memory from a core's field. -/
def State.writeVa (s : State) (cn : Nat) (mgmt : Bool) (ctx va : Nat) (bs : List Byte) : Wrote :=
  match s.placesVa cn mgmt ctx .write va bs.length with
  | .error c => .fault c
  | .ok pas =>
    match s.claim cn ctx (pas.map lineOf) with
    | some s => .waits s
    | none => .done ((pas.zip bs).foldl (fun s x => s.engineWrite (fieldOf cn) x.1 [x.2]) s)

/-! ### Changing a table: firmware's own writes (R233, R240) -/

/-- Write one table entry. -/
def State.putEntry (s : State) (pa : Nat) (e : Nat) : State := s.pokeMem pa (toLe e 8)
/-- Walk down to the node of a level, making zeroed nodes on the way from firmware's memory. -/
def State.nodeFor (s : State) (va stop : Nat) : Nat → Nat → State × Nat
  | 0, node => (s, node)
  | l + 1, node =>
    if l + 1 = stop then (s, node)
    else
      let at_ := node + 8 * nodeIndex (l + 1) va
      let bits := s.memNat at_ 8
      if bits % 4 = 1 then State.nodeFor s va stop l (bits / 256 % 2 ^ 40 * 256)
      else
        let n := s.nodeNext
        let s := { (s.wipe n 4096).putEntry at_ (n + 1) with nodeNext := n + 4096 }
        State.nodeFor s va stop l n
/-- Set a context's leaf entry for a page of size code z (a level). A context without a table gets a root. -/
def State.setLeaf (s : State) (ctx va z e : Nat) : State :=
  let (s, root) := match (s.ctx ctx).root with
    | some r => (s, r)
    | none =>
      let n := s.nodeNext
      let s := { s.wipe n 4096 with nodeNext := n + 4096 }
      (s.setCtx ctx { s.ctx ctx with root := some n }, n)
  let (s, node) := s.nodeFor va z 3 root
  s.putEntry (node + 8 * nodeIndex z va) e

/-- Drop every TLB entry and reverse-map name of a context's page, with the L1 copies named (R241). -/
def State.shootDown (s : State) (ctx va n : Nat) : State :=
  let inside (a : Nat) := decide (va ≤ a) && decide (a < va + n)
  let s := { s with clusters := List.map (fun x : Nat × Cluster =>
    (x.1, { x.2 with tlb := x.2.tlb.filter fun t => !(t.ctx == ctx && inside t.va) })) s.clusters }
  List.foldl (fun (s : State) (g : Nat × Cluster) => s.dropNames g.1 fun e => e.ctx == ctx && inside (256 * e.vline)) s s.clusters

/-- Pages of 64 KiB that a page of a size code counts for (R238). -/
def pageUnits (z : Nat) : Nat := pageSize z / 0x10000

/-- A physical address that firmware may choose for `n` bytes of fresh memory in pages of a size code: aligned device memory below its
own nodes, within the tenant's grant where the grant names ranges, and in no page that is mapped already (R10, R232, R233, R240). -/
def State.freshPlace (s : State) (tenant pa n z : Nat) : Bool :=
  let rs := ((s.tenants.find tenant).getD Tenant.blank).ranges
  decide (pa % pageSize z = 0) && decide (pa + n ≤ 0x03EF00000000) &&
    (rs.isEmpty || rs.any fun r => decide (r.1 ≤ pa) && decide (pa + n ≤ r.1 + r.2)) &&
    s.frames.all fun f => decide (pa + n ≤ f.2.1) || decide (f.2.1 + f.2.2 ≤ pa)
/-- Where firmware may put the next page: at the place given; else at the start of a range of the tenant's, or just behind a page that is mapped. -/
def State.placeFrom (s : State) (tenant pa z : Nat) : Option Nat :=
  let up (a : Nat) := (a + (pageSize z - 1)) / pageSize z * pageSize z
  let ranges := ((s.tenants.find tenant).getD Tenant.blank).ranges.map (·.1)
  (pa :: (ranges ++ s.frames.map fun f => f.2.1 + f.2.2).map up).find? fun a => s.freshPlace tenant a (pageSize z) z
/-- Map a page of fresh, zeroed device memory with given permissions [R, W, X] (R238, R240, R243). -/
def State.mapFrame (s : State) (ctx va z pa perm : Nat) : State :=
  let s := (s.wipe pa (pageSize z)).setLeaf ctx va z (pa + 3 + 4 * perm)
  { s with frames := s.frames ++ [(ctx / 64, pa, pageSize z)] }
/-- Map pages of fresh memory one by one, the first at a place given where that is free, each further one behind it where it can be (R240); `none`
where some page finds no place. -/
def State.mapFresh (s : State) (ctx z pa perm : Nat) : List Nat → Option State
  | [] => some s
  | va :: vas => match s.placeFrom (ctx / 64) pa z with
    | none => none
    | some a => State.mapFresh (s.mapFrame ctx va z a perm) ctx z (a + pageSize z) perm vas
/-- Map a first-touch page that has been taken (R238): zeroed, with its range's permissions, at physical address `pa`. -/
def State.takePage (s : State) (ctx va z : Nat) (e : Dword) (pa : Nat) : State :=
  s.mapFrame ctx (va / pageSize z * pageSize z) z pa (e.extractLsb' 2 3).toNat

end Sys2Proof.Machine
end

