-- ==== Sys2Proof/Machine/Ops.lean ====
section
/-! DEFINITION. Issue, retirement, and taking a trap and returning from one (R28-R31, R40, R92, R303, R308-R310, R324-R337). -/
namespace Sys2Proof.Machine

/-! ### Launch accounts (R336, R354) -/

/-- The fate of a cause when no debugger session holds the context is End (R326-R331). -/
def fateEnd (cause : Nat) : Bool :=
  !(cause == 0x00F || cause == 0x010 || cause == 0x0C0 || cause == 0x183 || (decide (0x100 ≤ cause) && decide (cause < 0x180)))

/-- Add one to a launch's fault count, saturating (R354). -/
def State.countFault (s : State) (launch : Nat) : State :=
  match s.launches.find launch with
  | some L => { s with launches := s.launches.put launch { L with faults := min 0xFFFFFFFF (L.faults + 1) } }
  | none => s

/-- The causes whose End is a debugger session's too, while one holds the context: the instruction faults and TRAP (R326, R330). -/
def fateShared (cause : Nat) : Bool := decide (cause < 0x040) || decide (0x1C0 ≤ cause)
/-- A comparator's hit (R330). -/
def isHit (cause : Nat) : Bool := decide (0x100 ≤ cause) && decide (cause < 0x180)
/-- A trap ends its launch, where a debugger session holds the context or not: by its cause (R326-R331), or because a word of the supervisor
handler has raised it (R337). -/
def trapEnds (cause : Nat) (inHandler debug : Bool) : Bool :=
  if inHandler && !isHit cause then true else fateEnd cause && !(fateShared cause && debug)
/-- Enter a management-path trap in its launch's account: the first End trap is recorded, every other counts one; SVC does not
count (R336, R337, R342, R354). -/
def State.accountTrap (s : State) (launch ctx cause : Nat) (inHandler : Bool) (epc eva : Dword) : State :=
  match s.launches.find launch with
  | none => s
  | some L =>
    if trapEnds cause inHandler (s.ctx ctx).debug ∧ L.firstEnd = none then
      { s with launches := s.launches.put launch { L with firstEnd := some (cause, epc, eva) } }
    else if cause = 0x010 then s else s.countFault launch

/-! ### Windows, rewind points, temporaries -/

/-- End every open lookahead window of a warp (R28, R324). -/
def Warp.endWindows (w : Warp) : Warp := { w with pend := w.pend.map fun o => { o with window := 0 }, shadow := [] }
/-- End the windows of one PC slot's producers (R28). -/
def Warp.endSlotWindows (w : Warp) (kn : Nat) : Warp :=
  { w with pend := w.pend.map fun o => if o.slot = kn then { o with window := 0 } else o
           shadow := w.shadow.filter fun o => o.slot ≠ kn }
/-- A completed producer leaves the scoreboard; its window stays open (R29, R30). -/
def Warp.dropOp (w : Warp) (o : LongOp) : Warp :=
  { w with pend := w.pend.filter fun x => x.seq ≠ o.seq
           shadow := w.shadow ++ ((w.pend.filter fun x => x.seq == o.seq && decide (0 < x.window)).map fun x => { x with accs := [], vals := [] }) }
/-- Set a full point, which ends any store hold (R308, R310). -/
def Warp.fullPoint (w : Warp) : Warp := { w with rewind := .full, point := w.point + 1, sb := w.sb.map fun b => { b with held := false } }
/-- Reset the progress counter; a give-up that has not taken place is cancelled (R150). -/
def Warp.resetProgress (w : Warp) : Warp :=
  let z (p : Option Path) := p.map fun p => { p with issued := 0 }
  { w with div := { w.div with progress := 0, giveUp := none, s0 := z w.div.s0, s1 := z w.div.s1 } }
/-- What a halt leaves of an open run: its temporaries are undefined when it goes on (R25). -/
def Path.blankTemps (p : Path) : Path := { p with run := p.run.map fun r => { r with tdef := [], wdef := 0 } }
/-- Release the temporary set that a slot holds (R75). -/
def Quadrant.freeTemps (q : Quadrant) (wn kn : Nat) : Quadrant :=
  { q with temps := q.temps.filter fun t => !(t.2.1 == wn && t.2.2 == kn) }
/-- The quadrant stops issuing from a slot and selects again (R119). -/
def Quadrant.deselect (q : Quadrant) (wn kn : Nat) : Quadrant :=
  if q.sel = some (wn, kn) then { q with sel := none } else q
/-- The quadrant stops issuing from a warp (R334). -/
def Quadrant.deselectWarp (q : Quadrant) (wn : Nat) : Quadrant :=
  match q.sel with
  | some (x, _) => if x = wn then { q with sel := none } else q
  | none => q

/-! ### Taking a trap (R324, R333-R337) -/

/-- A trap to be taken: cause, EPC, EVA, FMASK, the replay mask of R333 and whether a resume issues the word again, and the
window flags of R335; whether the word is the last of its run, or the first. -/
structure TrapReq where
  cause : Nat
  epc : Dword
  eva : Dword
  fmask : Word
  replay : Word
  again : Bool
  last : Bool := false
  isDeferred : Bool
  escalated : Bool
  service : Option Nat
  reissue : Option Nat := none
  late : Option Nat := none
  start : Bool := false
  inHandler : Bool := false
  deriving DecidableEq, Repr

/-- A 48-bit program counter as a 64-bit canonical address (R141, R232). -/
def pcVa (pc : Pc) : Dword := pc.signExtend 64

/-- The first word not yet issued after one that is not issued again, past the trailer where the word was the last of its run. -/
def pastWord (pc : Pc) (last : Bool) : Pc := if last then pc + 8 else pc + 4

/-- A path that has left its run goes on behind a word that is not issued again: at the run boundary, or inside the run, for all its lanes. -/
def Path.past (p : Path) (pc : Pc) (last : Bool) : Path := { p with pc := pastWord pc last, replay := if last then none else some 0xFFFFFFFF#32 }

/-- The trap registers and trap window of a warp that takes a trap (R324, R335). -/
def TrapRegs.take (t : TrapRegs) (r : TrapReq) (slot : Nat) (inHandler : Bool) : TrapRegs :=
  { t with cause := BitVec.ofNat 9 r.cause, epc := r.epc, eva := r.eva, fmask := r.fmask, replay := r.replay,
           inHandler := inHandler, wasDeferred := r.isDeferred, escalated := r.escalated, slot := slot, halted := true,
           service := r.service, again := r.again, last := r.last, reissue := r.reissue, late := r.late, start := r.start
           resuming := false }

/-- The management-core path (R334): the whole warp halts, its windows end, a full point is set, and its launch's account is
kept. A service that a word of the handler asks for is not given (R337). One operation for every trap that firmware receives. -/
def State.mgmtTrap (s : State) (cn qn wn kn : Nat) (r : TrapReq) : State :=
  match s.warp cn qn wn with
  | none => s
  | some w =>
    let inHandler := r.inHandler || match w.handler with
      | some h => h.slot == kn
      | none => false
    let r := if inHandler then { r with service := none } else r
    let w' := { w.endWindows.fullPoint with trap := w.trap.take r kn inHandler }
    let q := ((s.core cn).quad qn).setWarp wn w'
    (s.setQuad cn qn (q.deselectWarp wn)).accountTrap w.launch w.ctx r.cause inHandler r.epc r.eva

/-- The issuing path left by a trap: its run is dropped and its temporary set released; the PC stands at the word (R25, R75). -/
def View.leaveRun (V : View) (p : Path) : State :=
  let V' := { V with q := (V.q.freeTemps V.wn V.kn).deselect V.wn V.kn
                     s := { V.s with fresh := V.s.fresh + 1 } }
  V'.putWarp (V'.warpWith (some { p with run := none, wait := .none, ends := .plain, fetched := false }))

/-- Take a management-path trap at the issuing word (R324, R334). -/
def View.takeTrap (V : View) (r : TrapReq) : State :=
  (V.leaveRun { V.p with replay := none }).mgmtTrap V.cn V.qn V.wn V.kn r

/-- A request for the trap of the issuing word: EPC names it; the replay mask is as R333 gives for the kind. -/
def View.trapReq (V : View) (cause : Nat) (eva : Dword) (fmask replay : Word) : TrapReq :=
  { cause := cause, epc := pcVa V.p.pc, eva := eva, fmask := fmask, replay := replay, again := true
    last := decide (V.r.words.length ≤ 2), isDeferred := false, escalated := false, service := none
    start := decide (V.r.total ≤ V.r.words.length) }
/-- A fault that completes for no lane (R333): FMASK as stated, the word replayed for the slot's EM. -/
def View.fault (V : View) (cause : Nat) (eva : Dword) (fmask : Word) : State := V.takeTrap (V.trapReq cause eva fmask V.em)
/-- A run or issue check that fails names all lanes of EM (R40, R333). -/
def View.issueFault (V : View) (cause : Nat) : State := V.fault cause 0#64 V.em

/-- The in-lane path (R237): the slot enters the context's supervisor entry with EM = FMASK; s48-s55 and the entry EPC are
saved; the whole warp goes on, its other slot waiting until ERET. The trap counts (R336, R354). -/
def View.enterHandler (V : View) (r : TrapReq) : State :=
  let h : Handler := { slot := V.kn, saved := (List.range 8).map fun i => Sparse.get 0#32 V.q.rf (V.uidx (48 + i)),
                       entryEpc := r.epc, last := r.last }
  let w := V.w.endWindows
  let V' := { V with w := { w with handler := some h
                                   trap := { w.trap.take r V.kn false with halted := false } } }
  (V'.leaveRun { V.p with pc := (V.s.ctx V.w.ctx).entry, replay := none
                          rest := V.p.rest ||| (V.p.mask &&& ~~~r.fmask) }).countFault V.w.launch

/-- A translation or target fault of some lanes (R235, R333): in-lane when every failing lane raised 0x049 and some lane
failed, at user level; otherwise the management-core path. The replay mask is FMASK. -/
def View.laneFault (V : View) (cause : Nat) (eva : Dword) (fmask : Word) : State :=
  let r := V.trapReq cause eva fmask fmask
  if cause = 0x049 ∧ fmask ≠ 0#32 ∧ V.super = false then V.enterHandler r else V.takeTrap r

/-! ### Leaving the in-lane handler (R343) -/

/-- Write s48-s55 back (R237, R343). -/
def View.restoreSaved (V : View) (h : Handler) : View :=
  (List.range 8).foldl (fun V i => V.writeUni (48 + i) (h.saved.getD i 0#32)) V

/-- Return from the in-lane handler: restore s48-s55, the level and the resting lanes; then escalate, refuse, re-issue or
redirect as CAUSE, FMASK and EPC say. The path stands at the ERET. Its run is left, so the trailer of that run is not reached and what
it awaits or marks has no effect (DESIGN CHOICE, notes/assumptions/49.md). -/
def View.eret (V : View) : State :=
  match V.w.handler with
  | none => V.issueFault 0x00B
  | some h =>
    let V1 := V.restoreSaved h
    let t := V1.w.trap
    let pc : Pc := t.epc.extractLsb' 0 48
    let V2 := { V1 with w := { V1.w.endSlotWindows V.kn with handler := none } }
    let p := { V1.p with rest := 0#32, replay := none, after := V.c.cycle + 2 }
    let req (cause : Nat) (esc : Bool) : TrapReq :=
      { cause := cause, epc := t.epc, eva := t.eva, fmask := t.fmask, replay := t.fmask, again := true, last := h.last, isDeferred := false,
        escalated := esc, service := none }
    if t.cause ≠ 0#9 ∧ t.cause ≠ 0x049#9 then
      (V2.leaveRun { p with pc := h.entryEpc.extractLsb' 0 48 }).mgmtTrap V.cn V.qn V.wn V.kn (req t.cause.toNat true)
    else if t.fmask &&& ~~~V.p.mask ≠ 0#32 ∨ canonical t.epc = false ∨ t.epc.extractLsb' 0 2 ≠ 0#2 then
      (V2.leaveRun p).mgmtTrap V.cn V.qn V.wn V.kn { V.trapReq 0x00B 0#64 V.em V.em with inHandler := true }
    else if t.epc = h.entryEpc ∧ t.fmask = 0#32 then V2.leaveRun (p.past pc h.last)
    else if t.epc = h.entryEpc then V2.leaveRun { p with pc := pc, replay := some t.fmask }
    else V2.leaveRun { p with pc := pc }

/-! ### Issue (R30, R40, R119, R361) -/

/-- The lanes that a slot with a full execution mask holds are all the warp's threads (R40, check 7; matrix chapter). -/
def View.fullMask (V : View) : Bool :=
  (V.w.div.slot (other V.kn)).isNone && V.w.div.n == 0 && V.p.rest == 0#32 && V.p.dbgRest == 0#32

/-- The issue checks of R40 in their order: the first cause that applies. -/
def View.check (V : View) (i : Info) (wf : Bool) : Option Nat :=
  if i.lset && V.w.mgmt then some 0x001
  else if i.priv && !V.super then some 0x003
  else if !wf then some 0x002
  else if !(i.lane.all RegUse.aligned && i.uni.all RegUse.aligned) then some 0x005
  else if !i.lane.all (RegUse.within V.w.allot) then some 0x004
  else if i.ll && namesTemp i.dest then some 0x006
  else if i.full && !V.fullMask then some 0x011
  else none

/-- A register has a pending producer beyond its window (R28, R30, R81). -/
def View.pendingReg (V : View) (uniform : Bool) (k : Nat) : Bool :=
  V.w.pend.any fun o => o.uniform == uniform && o.dest.contains k && !(o.slot == V.kn && decide (0 < o.window))
/-- What the scoreboard makes a word wait for (R30). -/
def View.score (V : View) (i : Info) : Option Wait :=
  let ls := (laneRegs i).filter (V.pendingReg false)
  let us := (uniRegs i).filter (V.pendingReg true)
  if ls.isEmpty && us.isEmpty then none else some (.score ls us 0)

/-- A wait on the scoreboard (R30). -/
def Wait.isScore : Wait → Bool
  | .score _ _ _ => true
  | _ => false
/-- The stall reason of a wait, its lowest (R368). -/
def Wait.reason : Wait → Nat
  | .none => 0
  | .score _ _ _ => 1
  | .held r => r
  | .barrier _ _ => 7
  | .join => 6
  | .lrel _ => 9
  | .tchk _ => 10
  | .tchked _ => 10
  | .brc _ _ _ => 6
  | .pgtake _ => 11
/-- The breakpoint comparator that matches the word about to issue (R361): the lowest, and none that its path has halted for there (R333). -/
def View.breakHit (V : View) : Option Nat :=
  (List.range 64).find? fun i =>
    match V.c.bps.find i with
    | none => false
    | some b => b.ctl.getLsbD 12 && b.ctl.extractLsb' 0 12 == BitVec.ofNat 12 V.w.ctx &&
        (!b.ctl.getLsbD 20 || (b.ctl.extractLsb' 18 2 == BitVec.ofNat 2 V.qn && b.ctl.extractLsb' 14 4 == BitVec.ofNat 4 V.wn)) &&
        b.va == pcVa V.p.pc && !V.w.passed.any fun x => x.1 == i && x.2.1 == V.p.pc && V.p.mask.getLsbD x.2.2

/-- The run breaks: the word waits, the slot keeps its temporary set, and the quadrant selects again (R119). Where the run's first word stalls
on a dependence it has not issued, so the slot holds no set yet (R75). -/
def View.breakRun (V : View) (w : Wait) : State :=
  let none_ : Bool := w.isScore && decide (V.r.words.length = V.r.total)
  let q := if none_ then V.q.freeTemps V.wn V.kn else V.q
  { V with p := { V.p with wait := w }, r := if none_ then { V.r with set := 8 } else V.r, q := q.deselect V.wn V.kn }.put
/-- A word that waits on another agent or on an event outside the warp, at which a drain stops a warp (R312). -/
def Wait.outside : Wait → Bool
  | .held r => r == 8 || r == 9 || r == 10 || r == 12
  | .lrel _ => true
  | .tchk _ => true
  | .barrier _ _ => true
  | .join => true
  | .brc _ _ _ => true
  | _ => false
/-- The warp stops at a word that waits outside it: its core drains, or firmware or a debugger stops it (R312, R336, R363). -/
def View.stops (V : View) (w : Wait) : Bool := (V.w.stopped || V.c.phase == .draining) && w.outside
/-- The quadrant has had its turn in this CYCLE with this word: it has issued, or it stalls for a reason (R367). -/
def View.turned (V : View) (reason : Option Nat) : Quadrant := { V.q with turn := some ⟨V.c.cycle, V.wn, V.kn, V.p.pc, reason⟩ }
/-- The word keeps the quadrant with a wait, unless its warp stops there. -/
def View.stall (V : View) (w : Wait) : State :=
  if V.stops w then V.breakRun w else ({ V with p := { V.p with wait := w }, q := V.turned (some w.reason) } : View).put
/-- The word stalls at issue with a reason of R368 and is presented again. -/
def View.hold (V : View) (reason : Nat) : State := V.stall (.held reason)

/-! ### Pipes and forwarding (R80, R81, R92, R405) -/

/-- The number of a register among those whose results pass from pipe to pipe; the temporaries of the two slots differ. -/
def visKey (kn : Nat) (uniform : Bool) (k : Nat) : Nat :=
  (if uniform then 0 else 128) + k + (if k < (if uniform then 56 else 120) then 0 else 256 * (kn + 1))
/-- The CYCLE from which a register may be read by a word of a pipe. -/
def View.visible (V : View) (lset uniform : Bool) (k : Nat) : Nat :=
  match V.w.vis.find (visKey V.kn uniform k) with
  | some (u, l) => if lset then l else u
  | none => 0
/-- The CYCLE from which the pipe of a word takes it and the registers that it reads are visible (R80, R92). -/
def View.pipeFrom (V : View) (i : Info) : Nat :=
  let lanes := if i.lset then [] else (laneRegs i).map (V.visible false false)
  let unis := (i.uniReads.flatMap fun u => (List.range u.span).map (u.reg + ·)).map (V.visible i.lset true)
  (lanes ++ unis).foldl max (if i.lset then V.q.lanePipe else V.q.uniPipe)
/-- The CYCLE before which a word does not issue: its pipe, what it reads, and the bubble of a taken transfer (R405). -/
def View.readyAt (V : View) (i : Info) : Nat := max (V.pipeFrom i) V.p.after
/-- The word keeps the quadrant in this CYCLE without issuing; the stall has reason 3 (pipe), or 14 where it is the bubble alone (R368, R405). -/
def View.pipeWait (V : View) (i : Info) : State :=
  let reason := if V.pipeFrom i ≤ V.c.cycle then 14 else 3
  { V with p := { V.p with wait := .held reason }, q := V.turned (some reason) }.put
/-- What a word leaves visible to later words (R80). -/
def View.noteVis (V : View) (i : Info) : Table (Nat × Nat) :=
  let t := V.c.cycle + i.cycles
  let put (m : Table (Nat × Nat)) (uniform : Bool) (at_ : Nat × Nat) (u : RegUse) : Table (Nat × Nat) :=
    (List.range u.span).foldl (fun m j => m.put (visKey V.kn uniform (u.reg + j)) at_) m
  if i.ll then V.w.vis
  else i.wuni.foldl (fun m u => put m true (if i.lset then (t + 2, t + 2) else (t, t + 1)) u)
    (i.wlane.foldl (fun m u => put m false (t, t) u) V.w.vis)

/-- A word at issue: a breakpoint comparator, the issue checks, the scoreboard, the pipes; otherwise its effect. -/
def View.issueWord (V : View) (i : Info) (wf : Bool) (eff : View → State) : State :=
  match V.breakHit with
  | some b => V.fault (0x100 + b) 0#64 V.em
  | none =>
    match V.check i wf with
    | some c => V.issueFault c
    | none =>
      match V.score i with
      | some w => V.breakRun w
      | none => if V.c.cycle < V.readyAt i then V.pipeWait i else eff V

/-- The one form of every word's meaning: the map's entry of the word, whether its operand values are allowed, and `eff`, what
the word does when it executes. -/
def issue (i : Info) (wf : Bool) (s : State) (eff : View → State) : Host.Outcome State Fault Refusal :=
  match s.view with
  | none => .fault .noIssuingSlot
  | some V => .next (V.issueWord i wf eff)

/-! ### Budgets (R301-R303, R318) -/

/-- The budget nodes of a context: its own, its child's and its tenant's, by number (R301). -/
def budgetNodes (ctx : Nat) : List Nat := [ctx, 0x2000 + ctx / 8, 0x4000 + ctx / 64]
/-- A node and its ancestors. -/
def budgetPath (node : Nat) : List Nat :=
  if node < 0x2000 then budgetNodes node else if node < 0x4000 then [node, 0x4000 + (node - 0x2000) / 8] else [node]
/-- A tenant's nodes: its contexts', its children's and its own. -/
def nodesOf (tenant : Nat) : List Nat :=
  (List.range 64).map (64 * tenant + ·) ++ (List.range 8).map (0x2000 + 8 * tenant + ·) ++ [0x4000 + tenant]
/-- A budget record's values (R302). -/
def budgetOf (r : BitVec 128) : Budget := ⟨(r.extractLsb' 0 32).toNat, (r.extractLsb' 32 32).toNat, (r.extractLsb' 64 32).toNat⟩
/-- A node's grant: each value of its record, clamped to the same value of its ancestors; unlimited where firmware has written no
record (R302; DESIGN CHOICE, notes/assumptions/8.md). -/
def State.grant (s : State) (node : Nat) : Budget :=
  (budgetPath node).foldl (fun (b : Budget) n =>
    let x := budgetOf ((s.budgets.find n).getD (BitVec.allOnes 128))
    ⟨min b.issue x.issue, min b.array x.array, min b.ladle x.ladle⟩) ⟨0xFFFFFFFF, 0xFFFFFFFF, 0xFFFFFFFF⟩
/-- A limited value (R302). -/
def limited (g : Nat) : Bool := g != 0xFFFFFFFF
/-- Charge issue cycles on a quadrant to each limited node (R303). -/
def State.chargeIssue (s : State) (left : Sparse Int) (ctx cycles : Nat) : Sparse Int :=
  (budgetNodes ctx).foldl (fun m n =>
    if limited (s.grant n).issue then Sparse.set 0 m n (Sparse.get 0 m n - cycles) else m) left
/-- Some limited node of a context has no issue cycles left on a quadrant (R303). -/
def State.issueSpent (s : State) (left : Sparse Int) (ctx : Nat) : Bool :=
  (budgetNodes ctx).any fun n => limited (s.grant n).issue && decide (Sparse.get 0 left n ≤ 0)

/-! ### Retirement -/

/-- A producer's window counts one word that its slot issues (R28). -/
def LongOp.tick (kn : Nat) (o : LongOp) : LongOp := if o.slot = kn then { o with window := o.window - 1 } else o

/-- The word has issued: the slot's PC and run move past it; windows, the progress counter, the draw counter, TIME and
the issue budget advance; a region-closing word sets a full point; its pipe is taken, and the quadrant has had its turn in this CYCLE (R28, R35, R78,
R80, R82, R92, R150, R303). -/
def View.advance (V : View) (i : Info) : View :=
  let w := { V.w with pend := V.w.pend.map (LongOp.tick V.kn)
                      shadow := (V.w.shadow.map (LongOp.tick V.kn)).filter fun o => decide (0 < o.window)
                      div := { V.w.div with progress := min 65536 (V.w.div.progress + 1) }
                      vis := V.noteVis i
                      passed := V.w.passed.filter fun x => !(x.2.1 == V.p.pc && V.p.mask.getLsbD x.2.2) }
  let exhausted := V.s.issueSpent V.q.left V.w.ctx
  { V with
    p := { V.p with pc := V.p.pc + 4, wait := .none, replay := none, issued := V.p.issued + 1 }
    r := { V.r with words := V.r.words.tail }
    w := if i.rc then w.fullPoint else w
    q := { V.turned none with
                    left := if exhausted && decide (0 < V.c.pool.1) then V.q.left
                            else V.s.chargeIssue V.q.left V.w.ctx (min 1 i.cycles)
                    lanePipe := max V.q.lanePipe (V.c.cycle + if i.lset then i.cycles else min 1 i.cycles)
                    uniPipe := max V.q.uniPipe (V.c.cycle + if i.lset then min 1 i.cycles else i.cycles) }
    c := { V.c with
                    pool := if exhausted && decide (0 < V.c.pool.1) then (V.c.pool.1 - min 1 i.cycles, V.c.pool.2) else V.c.pool }
    s := { V.s with fresh := V.s.fresh + 1, time := V.s.time + Config.freeNanos V.s.fresh } }
/-- The state after a word that only writes registers. -/
def View.retire (V : View) (i : Info) : State := (V.advance i).put
/-- The meaning of a word that only writes registers. -/
def issueReg (i : Info) (s : State) (f : View → View) : Host.Outcome State Fault Refusal :=
  issue i true s fun V => (f V).retire i

/-! ### Accesses of a thread that are not yet bound or performed (R216, R217) -/

/-- A scratchpad byte by its window offset (R11): a thread's own scratchpad and its core's window name one location (R216). -/
def Loc.named : Loc → Loc
  | .scratch c x => .window c (0x80000 + x)
  | l => l
/-- Two accesses have a byte in common. A broadcast store meets an access to the window of a core that it reaches. -/
def LaneAcc.overlaps (a b : LaneAcc) : Bool :=
  let meet (x y : Nat) := decide (x < y + b.width) && decide (y < x + a.width)
  match a.loc.named, b.loc.named with
  | .mem x, .mem y => meet x y
  | .window c x, .window d y => c == d && meet x y
  | .bcast c x, .bcast d y => (c == d || a.reach.any b.reach.contains) && meet x y
  | .bcast _ x, .window d y => a.reach.contains d && meet x y
  | .window c x, .bcast _ y => b.reach.contains c && meet x y
  | _, _ => false
/-- An access by a lane, or by the uniform stream on behalf of lanes `by`, is one of some lanes, or of the uniform stream. -/
def LaneAcc.of (a : LaneAcc) (bys ls : Word) (uni : Bool) : Bool :=
  if a.lane = 32 then bys &&& ls != 0#32 || uni else ls.getLsbD a.lane
/-- A producer reads, writes, acquires (R181, R211, R220); PROBE, PREF and WBL are no accesses. -/
def LongKind.reads : LongKind → Bool
  | .load _ _ => true
  | .atomic _ => true
  | .arwait => true
  | _ => false
def LongKind.writes : LongKind → Bool
  | .atomic _ => true
  | .disc => true
  | _ => false
def LongKind.acquires : LongKind → Bool
  | .load _ .acquire => true
  | .arwait => true
  | _ => false
/-- A producer's accesses that have no value yet. -/
def LongOp.open_ (o : LongOp) : List LaneAcc := o.accs.filter fun a => !o.vals.any fun v => v.1 == a.lane
/-- Those of them that have not failed, and an access that could not be made any more: one that waits for an arrival, or of which every open
lane has failed (R31, R185, R376). -/
def LongOp.tries (o : LongOp) : List LaneAcc := o.open_.filter fun a => !o.lost.contains a.lane
def LongOp.rests (o : LongOp) : Bool := o.kind == .arwait || (!o.open_.isEmpty && o.tries.isEmpty && o.due.isEmpty)
/-- Some access of those lanes below a number is not yet bound or performed: writes alone, or reads too; `sees` says which
places count, for an access that only writes and for any other. An ARWAIT that waits for its generation is not counted. -/
def Warp.outstanding (w : Warp) (ls : Word) (uni : Bool) (seq : Nat) (reads writes : Bool) (sees : Bool → Loc → Bool) : Bool :=
  (w.pend.any fun o => decide (o.seq < seq) && o.kind != .arwait && ((reads && o.kind.reads) || (writes && o.kind.writes)) &&
    o.open_.any fun a => a.of o.lanes ls uni && sees (o.kind.writes && !o.kind.reads) a.loc) ||
  (writes && w.sb.any fun b => decide (b.seq < seq) && b.acc.of b.lanes ls uni && sees true b.acc.loc)
/-- Every place counts. -/
def everywhere (_ : Bool) (_ : Loc) : Bool := true
/-- A buffered store by the warp of a number, made by some lanes of it or on behalf of them, before an access number; a thread that the
Mangle has moved is known by every place that it has had since. -/
def BufStore.madeBy (b : BufStore) (uid : Nat) (ls : Word) (seq : Nat) : Bool :=
  decide (b.seq < seq) && if b.orig = 32 then b.uid == uid && b.lanes &&& ls != 0#32
    else ((b.uid, b.orig) :: b.also).any fun x => x.1 == uid && ls.getLsbD x.2
/-- Some warp of a core still owes accesses, given as warp, lanes and access number. -/
def Core.owes (c : Core) (x : Nat × Word × Nat) : Bool :=
  c.quads.any fun q => q.2.warps.any fun w =>
    (w.2.uid == x.1 && ({ w.2 with sb := [] } : Warp).outstanding x.2.1 false x.2.2 true true everywhere) ||
    w.2.sb.any fun b => b.madeBy x.1 x.2.1 x.2.2
/-- Some access that a warp made before an access number is not yet bound or performed, whichever of its threads or its uniform stream
made it, exited threads included (R227, R257). -/
def Core.owesAll (c : Core) (uid seq : Nat) : Bool :=
  c.quads.any fun q => q.2.warps.any fun w =>
    (w.2.uid == uid && w.2.pend.any fun o => decide (o.seq < seq) && o.kind != .arwait && (o.kind.reads || o.kind.writes) &&
      !o.open_.isEmpty) ||
    w.2.sb.any fun b => (b.uid == uid || b.also.any fun x => x.1 == uid) && decide (b.seq < seq)

/-! ### Warps of a launch, crews -/

/-- Every warp of a core with its quadrant and slot. -/
def Core.warps (c : Core) : List (Nat × Nat × Warp) := c.quads.flatMap fun q => q.2.warps.map fun w => (q.1, w.1, w.2)
/-- Every live warp with its place. -/
def State.allWarps (s : State) : List (Nat × Nat × Nat × Warp) :=
  s.cores.flatMap fun c => c.2.quads.flatMap fun q => q.2.warps.map fun w => (c.1, q.1, w.1, w.2)

/-- The crew and seat of a lane (R130). -/
def Warp.member (w : Warp) (l : Nat) : Option (Nat × Nat) :=
  match w.remap.find? fun e => e.1 == l with
  | some (_, c, seat) => some (c, seat)
  | none => none
/-- The crew of a lane, if it is a member of one. -/
def Warp.crewOf (w : Warp) (l : Nat) : Option Nat := (w.member l).map (·.1)

/-! ### Time that passes while nothing issues -/

/-- The sampler's settings are in range; otherwise neither samples nor TRACE records are written (R366, R373). -/
def Sampler.valid (x : Sampler) : Bool :=
  decide (16 ≤ x.period.toNat) && decide (x.period.toNat ≤ 16777215) && decide (1 ≤ x.cap.toNat) && decide (x.cap.toNat ≤ 2 ^ 24) &&
    x.buf.toNat % 256 == 0
/-- The address of the record that is written next (R366). -/
def Sampler.place (x : Sampler) : Nat := x.buf.toNat + 16 * (x.wr.toNat % x.cap.toNat)
/-- The sampler counts its ticks. -/
def Sampler.counts (x : Sampler) : Bool := x.ctl.getLsbD 0 && x.valid
/-- The first tick at or after a cycle (R367). -/
def Sampler.tickFrom (x : Sampler) (n : Nat) : Nat := x.origin + x.period.toNat * ((n - x.origin + x.period.toNat - 1) / x.period.toNat)
/-- New settings of a sampler: the next tick is the first that they give; one that is due under the old ones stays, also where they end sampling. -/
def Sampler.retimed (old new : Sampler) (cycle : Nat) : Sampler :=
  if !new.counts then { new with owed := old.owed || (old.counts && decide (old.next ≤ cycle)) }
  else if (old.counts && (new.period == old.period || decide (old.next ≤ cycle))) then new
  else { new with next := new.tickFrom (if old.counts then cycle + 1 else cycle) }
/-- Time passes with the cycles (R304): CYCLE reaches at least `n` on a core, and TIME goes on by a draw. -/
def State.passTo (s : State) (core n : Nat) : State :=
  let c := s.core core
  { s.setCore core { c with cycle := max c.cycle n } with time := s.time + Config.freeNanos s.fresh, fresh := s.fresh + 1 }
/-- The sampler's next tick is due by a cycle (R367). -/
def Core.tickBy (c : Core) (n : Nat) : Bool := (c.sampler.counts || c.sampler.owed) && decide (c.sampler.next ≤ n)

end Sys2Proof.Machine
end

