-- ==== Sys2Proof/Machine/Larder.lean ====
section
/-! DEFINITION. Larder descriptors, footprints and reservations (R261-R270), and the precision registers and tickets of a context
on a core (R272, R285). -/
namespace Sys2Proof.Machine

/-! ### Descriptors (R58, R263, R264) -/

/-- The format code of a descriptor. -/
def descFormat (d : Word) : Nat := (d.extractLsb' 0 4).toNat
/-- The block length of a descriptor. -/
def descBlock (d : Word) : Nat := 16 * 2 ^ (d.extractLsb' 4 2).toNat
/-- Side B. -/
def descSideB (d : Word) : Bool := d.getLsbD 6
/-- The sparsity code of a descriptor. -/
def descSparse (d : Word) : Nat := (d.extractLsb' 7 3).toNat
/-- N of a sparsity code (R272). -/
def keptOf (code : Nat) : Nat := 128 / 2 ^ code
/-- The element width of a format code (R58); 0 for the reserved codes. -/
def fmtWidth (f : Nat) : Nat := if f < 12 then 2 * 2 ^ (f % 4) else if f = 12 then 4 else if f = 13 then 8 else 0
/-- Bytes of a scale: 4 for a B format, 2 for a Q format, 0 for a plain one (R264). -/
def fmtScale (f : Nat) : Nat := if f < 8 then 0 else if f < 12 then 4 else 2
/-- A Q format (R58). -/
def fmtQ (f : Nat) : Bool := f == 12 || f == 13
/-- Format code 14 or 15, or a Q format at block 16 (R58). -/
def descBad (d : Word) : Bool := decide (14 ≤ descFormat d) || (fmtQ (descFormat d) && descBlock d == 16)
/-- Bytes of one row or column's elements, index words included (R59, R64, R264). -/
def descRow (d : Word) : Nat :=
  let n := fmtWidth (descFormat d)
  let N := keptOf (descSparse d)
  if descSideB d && N != 128 then 4 * ((N * n + 31) / 32) + 4 * ((7 * N + 31) / 32) else 16 * n
/-- Blocks of one row (128 / L). -/
def descBlocks (d : Word) : Nat := 128 / descBlock d
def descE (d : Word) : Nat := 64 * descRow d
def descS (d : Word) : Nat := 64 * descBlocks d * fmtScale (descFormat d)
def descZ (d : Word) : Nat := if fmtQ (descFormat d) then 64 * descBlocks d else 0
def align16 (n : Nat) : Nat := (n + 15) / 16 * 16
/-- The footprint T (R264). -/
def descT (d : Word) : Nat := if descBad d then 0 else align16 (descE d) + align16 (descS d) + align16 (descZ d)
/-- The scale offset, and the zero-point offset, in the span (R264). -/
def descScaleAt (d : Word) : Nat := align16 (descE d)
def descZeroAt (d : Word) : Nat := align16 (descE d) + align16 (descS d)

/-! ### Reservations -/

/-- The live reservation of a handle that a context may name (R261, R269). -/
def Core.handle (c : Core) (ctx h : Nat) : Option Reservation :=
  match c.res.find h with
  | some r => if r.ctx = ctx ∧ r.releasing = none then some r else none
  | none => none
/-- A Larder granule that a reservation holds. -/
def Core.larderHeld (c : Core) (g : Nat) : Bool :=
  c.res.any fun r => decide (r.2.base ≤ g) && decide (g < r.2.base + r.2.count)
/-- The lowest base where `n` of `total` places lie free together. -/
def firstFit (total n : Nat) (used : Nat → Bool) : Option Nat :=
  (List.range (total + 1 - n)).find? fun b => (List.range n).all fun i => !used (b + i)
/-- Zero a byte range of a memory. -/
def Memory.zero (m : Memory) (a n : Nat) : Memory := Sparse.clear (fun x => decide (a ≤ x) && decide (x < a + n)) m
/-- What operations have written to a range of a store is no longer awaited: the range is zeroed (R173, R261). -/
def unhazed (hs : List Haze) (b : Shelf) (first count : Nat) : List Haze :=
  hs.filter fun h => !(h.shelf == b && decide (h.first < first + count) && decide (first < h.first + h.count))
def Core.unhaze (c : Core) (b : Shelf) (first count : Nat) : Core := { c with hazes := unhazed c.hazes b first count }
/-- Give a reservation's granules back (R261, R268): the span is zeroed and the handle is free. -/
def Core.freeHandle (c : Core) (h : Nat) : Core :=
  match c.res.find h with
  | some r => { c.unhaze .larder (1024 * r.base) (1024 * r.count) with
      res := c.res.drop h, larder := Memory.zero c.larder (1024 * r.base) (1024 * r.count) }
  | none => c
/-- The flash point that a word of a warp hangs on, by the warp's number and its own (R268, R294). -/
def Warp.flashPoint (w : Warp) : Option (Nat × Nat) := if w.rewind = .full then none else some (w.uid, w.point)
/-- A warp's rewind point is still the flash point that a reservation or release hangs on (R268). -/
def Core.pointStands (c : Core) (x : Nat × Nat) : Bool :=
  c.quads.any fun q => q.2.warps.any fun w => w.2.uid == x.1 && w.2.point == x.2 && w.2.rewind != .full
/-- What the rewind points that have moved since make of the reservations (R268): provisional ones are final, and releases that hung on
them return their granules. -/
def Core.tidy (c : Core) : Core :=
  let moved (x : Option (Nat × Nat)) : Bool := match x with
    | some p => !c.pointStands p
    | none => false
  let gone := c.res.filterMap fun x => match x.2.releasing with
    | some r => if r.waited && moved r.point then some x.1 else none
    | none => none
  let c := gone.foldl Core.freeHandle c
  { c with res := c.res.map fun (x : Nat × Reservation) =>
      (x.1, { x.2 with provisional := if moved x.2.provisional then none else x.2.provisional }) }
/-- A reservation record (R265) as a 64-byte number; `streaming` says that a stream into it runs. -/
def resRecord (r : Reservation) (streaming : Bool) : Nat :=
  let off (n at_ : Nat) := if n = 0 then 0xFFFFFFFF else at_
  let flags := (if r.bound then 1 else 0) + (if r.provisional.isSome then 2 else 0) + (match r.releasing with
    | some x => if x.point.isSome then 4 else 0
    | none => 0)
  (r.base + r.count * 2 ^ 8 + 2 ^ 31) + r.desc.toNat * 2 ^ 32 +
    (off (descS r.desc) (descScaleAt r.desc)) * 2 ^ 64 + (off (descZ r.desc) (descZeroAt r.desc)) * 2 ^ 96 +
    descT r.desc * 2 ^ 128 + (r.ctx % 4096) * 2 ^ 160 + flags * 2 ^ 176 + r.va.toNat * 2 ^ 192 + r.stride.toNat * 2 ^ 256 +
    (r.progress + if streaming then 128 else 0) * 2 ^ 320

/-! ### Operations outstanding (R267, R286, R297, R299) -/

/-- The operations of a core that are not complete: queued, or on its array; a follower's array shows the leader's. -/
def Core.ops (c : Core) : List MatOp := (c.quads.flatMap fun q => q.2.mq) ++ c.array.toList
/-- The handle of a kind-1 location, or 16. -/
def MatOp.locHandle (o : MatOp) : Nat :=
  if (o.kind = .tst ∨ o.kind = .tld) ∧ o.loc.extractLsb' 30 2 = 1#2 then (o.loc.extractLsb' 14 4).toNat else 16
/-- An operation names a handle of the core that it was issued on (R269). -/
def MatOp.names (o : MatOp) (h : Nat) : Bool := o.opA.handle == h || o.opB.handle == h || o.locHandle == h
/-- An operand still has rows to stream. -/
def Operand.streams (x : Operand) : Bool := x.va != 0#64 && decide (x.landed < 64)

/-! ### What an operation writes before its MWAIT (R227, R288) -/

/-- A place of a store that an operation writes, with no MWAIT on its ticket yet: a read of it is undefined, but for a window's (R14). -/
def Core.hazy (c : Core) (b : Shelf) (x : Nat) : Bool :=
  c.hazes.any fun h => h.shelf == b && decide (h.first ≤ x) && decide (x < h.first + h.count)
/-- A byte of the scratchpad, and of the Larder, as a reader finds it. -/
def Core.scratchByte (c : Core) (fresh x : Nat) : Byte :=
  if c.hazy .scratch x then Config.freeByte fresh (2 ^ 60 + x) else Sparse.get 0#8 c.scratch x
def Core.larderByte (c : Core) (fresh x : Nat) : Byte :=
  if c.hazy .larder x then Config.freeByte fresh (2 ^ 61 + x) else Sparse.get 0#8 c.larder x
/-- One of the values that an 8-byte granule of a place may show: what stands there, or what stood before an operation wrote it (R14). -/
def shown {α : Type} (fresh granule : Nat) (now : α) (before : List α) : α :=
  (before ++ [now]).getD (Config.freeNat fresh granule % (before.length + 1)) now
/-- A byte of the Larder as a window shows it: each granule that a TST has written, with no MWAIT on its ticket yet, as it was or as it is (R14;
DEDUCED, notes/assumptions/66.md). -/
def Core.larderShown (c : Core) (fresh x : Nat) : Byte :=
  shown fresh (2 ^ 61 + x / 8) (Sparse.get 0#8 c.larder x) (c.hazes.filterMap fun h =>
    if h.shelf = .larder ∧ h.first ≤ x then h.old[x - h.first]? else none)
/-- The tiles that a window may show of a slot: the tile, and what it was before an operation on it whose ticket no MWAIT has covered (R14). -/
def Core.tilesBefore (c : Core) (n : Nat) : List Tile :=
  c.hazes.filterMap fun h => if h.shelf = .tile ∧ h.first = n then h.was else none

/-! ### Precision registers and tickets -/

/-- prn of a context on a core (R272). -/
def Core.pr (c : Core) (ctx n : Nat) : Word := Sparse.get 0x377#32 c.prs (8 * ctx + n)
def Core.setPr (c : Core) (ctx n : Nat) (x : Word) : Core := { c with prs := Sparse.set 0x377#32 c.prs (8 * ctx + n) x }
/-- A value that PRSET or a window write may store (R272, R280). -/
def prValid (x : Word) : Bool := decide (x.toNat < 2 ^ 15) && decide ((x.extractLsb' 10 3).toNat ≤ 4)
/-- The context whose registers a window access reaches (R272). -/
def Core.prMaster (c : Core) (master : Option Nat) : Option Nat :=
  match master with
  | some x => if c.prHeld.contains x then some x else none
  | none => (c.prHeld.filter fun x => c.tenant == some (x / 64)).foldl (fun m x => match m with
      | some y => some (min x y)
      | none => some x) none
/-- The next ticket of a context (R285). -/
def Core.nextTicket (c : Core) (ctx tile : Nat) (transfer : Bool) : Core × Word :=
  let seq := Sparse.get 0#16 c.tickets ctx
  ({ c with tickets := Sparse.set 0#16 c.tickets ctx (seq + 1) },
   BitVec.ofNat 32 (seq.toNat + tile * 2 ^ 16 + (if transfer then 2 ^ 19 else 0) + ctx * 2 ^ 20))

/-! ### Tiles (R66, R290, R291) -/

def Core.tile (c : Core) (n : Nat) : Tile := (c.tiles.find n).getD Tile.zero
/-- The mantissa of element 64 i + c. -/
def Tile.mant (t : Tile) (e : Nat) : Int := (Sparse.get 0#48 t.m e).toInt
def Tile.marked (t : Tile) (e : Nat) : Bool := t.marks.contains e
/-- Recompute the kept sums from the stored mantissas (R290). -/
def Tile.sumRow (t : Tile) (i : Nat) : BitVec 48 :=
  (List.range 64).foldl (fun a c => a + Sparse.get 0#48 t.m (64 * i + c)) 0#48
def Tile.sumCol (t : Tile) (c : Nat) : BitVec 48 :=
  (List.range 64).foldl (fun a i => a + Sparse.get 0#48 t.m (64 * i + c)) 0#48
def Tile.resum (t : Tile) : Tile :=
  { t with rows := (List.range 64).foldl (fun m i => Sparse.set 0#48 m i (t.sumRow i)) []
           cols := (List.range 64).foldl (fun m i => Sparse.set 0#48 m i (t.sumCol i)) [] }

end Sys2Proof.Machine
end

