-- ==== Sys2Proof/Machine/Windows.lean ====
section
/-! DEFINITION. Core windows (R11-R14, R71, R159, R160, R174, R242, R265, R272, R291, R335, R360, R366), the resume of a halted
warp (R333, R335), and broadcast deliveries (R256). -/
namespace Sys2Proof.Machine

/-! ### What a window shows -/

/-- A resident warp holds a register row (R71, R72). -/
def Quadrant.rowHeld (q : Quadrant) (row : Nat) : Bool :=
  q.warps.any fun w => (decide (w.2.base ≤ row) && decide (row < w.2.base + w.2.allot)) || w.2.ubase == row / 2 * 2
/-- The register that stands at a word of a held row, as `undef` numbers it, with its lane; none for vx (R72, R73). -/
def Warp.regAt (w : Warp) (row word : Nat) : Option (Nat × Nat) :=
  if w.base ≤ row ∧ row < w.base + w.allot then some (row - w.base, word)
  else if w.ubase = row then some (128 + word, 0)
  else if w.ubase + 1 = row ∧ word < 24 then some (160 + word, 0)
  else none
/-- The contents of a word of a held row are undefined (R29): the register, and its lane. -/
def Quadrant.undefAt (q : Quadrant) (i : Nat) : Option (Nat × Nat × Nat) :=
  q.warps.findSome? fun w => (w.2.regAt (i / 32) (i % 32)).bind fun x =>
    if (Sparse.get 0#32 w.2.undef x.1).getLsbD x.2 then some (w.1, x) else none
/-- What a word of a held row was before a TST wrote it whose ticket no MWAIT has covered (R14, R406). -/
def Quadrant.wordBefore (q : Quadrant) (i : Nat) : List Word :=
  q.warps.flatMap fun w => match w.2.regAt (i / 32) (i % 32) with
    | some (k, l) => w.2.tstRanges.filterMap fun t => (t.old.find? fun e => e.1 == 32 * k + l).map (·.2)
    | none => []
/-- The word at a place of the register file: a free value where its contents are undefined; each granule that a TST has written, before the
MWAIT, as it was or as it is (R14; DEDUCED, notes/assumptions/66.md). -/
def Quadrant.rowWord (q : Quadrant) (fresh i : Nat) : Word :=
  match q.undefAt i with
  | some (_, r, l) => if r < 128 then Config.freeLane fresh r l else Config.freeUniform fresh (r - 128)
  | none => shown fresh (2 ^ 60 + i / 2) (Sparse.get 0#32 q.rf i) (q.wordBefore i)
/-- What stood at a word of a held row before a TST wrote it is gone. -/
def Warp.forget (w : Warp) (row word : Nat) : Warp :=
  match w.regAt row word with
  | some (k, l) => { w with tstRanges := w.tstRanges.map fun t => { t with old := t.old.filter fun e => e.1 ≠ 32 * k + l } }
  | none => w
/-- Write a word of the register file from outside the warp: its contents are defined from then on (R158). -/
def Quadrant.putRow (q : Quadrant) (i : Nat) (x : Word) : Quadrant :=
  let q' := match q.undefAt i with
    | some (wn, r, l) => { q with warps := q.warps.map fun w : Nat × Warp => if w.1 = wn then
        (wn, { w.2 with undef := Sparse.set 0#32 w.2.undef r (Sparse.get 0#32 w.2.undef r &&& ~~~(1#32 <<< l)) }) else w }
    | none => q
  let q' := if (q.wordBefore i).isEmpty then q' else { q' with warps := q'.warps.map fun w : Nat × Warp => (w.1, w.2.forget (i / 32) (i % 32)) }
  { q' with rf := Sparse.set 0#32 q.rf i x }
/-- A live crew holds a scratchpad granule; a swapped-out crew holds none (R173, R176, R363). -/
def Core.granuleHeld (c : Core) (g : Nat) : Bool :=
  c.crews.any fun k => !k.2.swapped && decide (k.2.base ≤ g) && decide (g < k.2.base + k.2.g)
/-- An earlier operation still reads a handle of a core (R267). -/
def State.spanRead (s : State) (cn h before : Nat) : Bool :=
  ((s.core cn).ops.any fun o => decide (o.id < before) && o.names h && !(cn % 2 == 1 && o.kind == .mmap)) ||
    (decide (cn % 2 = 1) && (s.core (cn - 1)).ops.any fun o => o.kind == .mmap && o.opB2.handle == h && decide (o.id < before))
/-- A stream into a handle of a core runs (R265, R267): an operation at the head of its queue still has rows of it to land. -/
def State.streaming (s : State) (cn h : Nat) : Bool :=
  let runs (oc : Nat) (ask : MatOp → List Operand) : Bool := (s.core oc).phase == .running && (s.core oc).quads.any fun q => match q.2.mq with
    | o :: _ => !o.blocked && (ask o).any (fun x => x.handle == h && x.streams) && !s.spanRead cn h o.id
    | [] => false
  runs cn (fun o => [o.opA, o.opB]) || (decide (cn % 2 = 1) && runs (cn - 1) fun o => [o.opB2])
/-- Byte `i` of a number. -/
def byteAt (x i : Nat) : Byte := BitVec.ofNat 8 (x / 256 ^ i)
/-- Replace byte `i` of a number. -/
def putByte (x i : Nat) (b : Byte) : Nat := x - x / 256 ^ i % 256 * 256 ^ i + b.toNat * 256 ^ i

/-- The address of a warp's ring (R148). -/
def State.ringBase (s : State) (launch cn qn wn : Nat) : Nat :=
  match s.launches.find launch with
  | some L => L.rcd.divBase.toNat + (64 * cn + 16 * qn + wn) * 16 * L.rcd.K
  | none => 0
/-- K and D of a warp's launch (R148, R152); a management core's warp, which has none, takes 16 and 0 (DESIGN CHOICE, notes/assumptions/73.md). -/
def State.ringK (s : State) (launch : Nat) : Nat := match s.launches.find launch with
  | some L => L.rcd.K
  | none => 16
def State.callD (s : State) (launch : Nat) : Nat := match s.launches.find launch with
  | some L => L.rcd.D
  | none => 0

/-- A slot's words of the divergence window (R159). -/
def slotWords : Option Path → Nat
  | none => 0
  | some p => p.pc.toNat + p.depth * 2 ^ 48 + (if p.parked then 2 ^ 60 else 0) + 2 ^ 61 + p.mask.toNat * 2 ^ 64 +
      (p.rest ||| p.dbgRest).toNat * 2 ^ 96
/-- The slot of a broken run, if a run is broken (R159): slot 0 where both slots' runs are (DESIGN CHOICE, notes/assumptions/74.md). -/
def Div.broken (d : Div) : Option Nat :=
  match d.s0, d.s1 with
  | some p, q => if p.run.isSome then some 0 else match q with
    | some r => if r.run.isSome then some 1 else none
    | none => none
  | none, some r => if r.run.isSome then some 1 else none
  | none, none => none
/-- A path waits for a compaction (R154, R159). -/
def Path.atBrc (p : Path) : Bool := match p.wait with
  | .brc .. => true
  | _ => false
/-- The divergence window (R159) as a 64-byte number: as the core keeps it. -/
def State.divKept (s : State) (cn qn wn : Nat) (w : Warp) : Nat :=
  let flags := (match w.div.broken with
      | some k => 1 + 2 * k
      | none => 0) + (if w.trap.halted then 4 else 0) +
    (if w.div.s0.any Path.atBrc || w.div.s1.any Path.atBrc then 8 else 0)
  slotWords w.div.s0 + slotWords w.div.s1 * 2 ^ 128 + w.div.n * 2 ^ 256 + w.div.b * 2 ^ 288 +
    s.ringBase w.launch cn qn wn * 2 ^ 320 + s.ringK w.launch * 2 ^ 384 + w.div.progress * 2 ^ 416 + flags * 2 ^ 448
/-- The divergence window (R159) as firmware has edited it since the halt (R160). -/
def State.divWindow (s : State) (cn qn wn : Nat) (w : Warp) : Nat := w.trap.edit.getD (s.divKept cn qn wn w)
/-- The trap window (R335) as a 32-byte number. -/
def trapWindow (t : TrapRegs) : Nat :=
  t.cause.toNat + (if t.inHandler then 2 ^ 9 else 0) + (if t.wasDeferred then 2 ^ 10 else 0) +
    (if t.escalated then 2 ^ 11 else 0) + min 255 t.deferred.length * 2 ^ 32 + t.epc.toNat * 2 ^ 64 + t.eva.toNat * 2 ^ 128 +
    t.fmask.toNat * 2 ^ 192 + t.replay.toNat * 2 ^ 224
/-- A crew record (R174). -/
def crewRecord : Option Crew → Nat
  | none => 0
  | some k => k.base + k.g * 2 ^ 9 + 2 ^ 31 + k.key.toNat * 2 ^ 32
/-- A comparator (R360) as a 16-byte number. -/
def cmpRecord (t : Table Comparator) (i : Nat) : Nat :=
  match t.find i with
  | some x => x.va.toNat + x.len.toNat * 2 ^ 64 + x.ctl.toNat * 2 ^ 96
  | none => 0
/-- Sampler control (R366) as a 40-byte number. -/
def samplerRecord (x : Sampler) : Nat :=
  x.ctl.toNat + x.period.toNat * 2 ^ 32 + x.sel.toNat * 2 ^ 64 + x.buf.toNat * 2 ^ 128 + x.cap.toNat * 2 ^ 192 +
    x.wr.toNat * 2 ^ 224 + x.rd.toNat * 2 ^ 256 + x.dropped.toNat * 2 ^ 288

/-- A byte of the core control area (R11), `o` from its start. -/
def State.controlByte (s : State) (cn o : Nat) (master : Option Nat) : Byte :=
  let c := s.core cn
  if o < 4 then byteAt c.kicks.length o
  else if 0x100 ≤ o ∧ o < 0x120 then
    match c.prMaster master with
    | some x => byteAt (c.pr x ((o - 0x100) / 4)).toNat (o % 4)
    | none => 0#8
  else if 0x1000 ≤ o ∧ o < 0x1400 then
    match c.tidy.res.find ((o - 0x1000) / 64) with
    | some r => byteAt (resRecord r (s.streaming cn ((o - 0x1000) / 64))) (o % 64)
    | none => 0#8
  else if 0x8000 ≤ o ∧ o < 0x9000 then
    let i := (o - 0x8000) / 64
    match (c.quad (i / 16)).warps.find (i % 16) with
    | some w => if w.trap.halted then byteAt (s.divWindow cn (i / 16) (i % 16) w) (o % 64) else Config.freeByte s.fresh o
    | none => Config.freeByte s.fresh o
  else if 0x9000 ≤ o ∧ o < 0x9800 then
    let i := (o - 0x9000) / 32
    match (c.quad (i / 16)).warps.find (i % 16) with
    | some w => if w.trap.halted then byteAt (trapWindow w.trap) (o % 32) else Config.freeByte s.fresh o
    | none => Config.freeByte s.fresh o
  else if 0xC000 ≤ o ∧ o < 0xC200 then byteAt (crewRecord (c.crews.find ((o - 0xC000) / 8))) (o % 8)
  else if 0xD000 ≤ o ∧ o < 0xD200 then byteAt ((Sparse.get 0#64 c.access ((o - 0xD000) / 8)).toNat % 2 ^ 35) (o % 8)
  else if 0xE000 ≤ o ∧ o < 0xE028 then byteAt (samplerRecord c.sampler) (o - 0xE000)
  else if 0xF000 ≤ o ∧ o < 0xF400 then byteAt (cmpRecord c.bps ((o - 0xF000) / 16)) (o % 16)
  else if 0xF400 ≤ o ∧ o < 0xF800 then byteAt (cmpRecord c.wps ((o - 0xF400) / 16)) (o % 16)
  else 0#8

/-- A byte of a tile slot (R291). -/
def tileByte (t : Tile) (o : Nat) : Byte :=
  if o < 24576 then byteAt (Sparse.get 0#48 t.m (o / 6)).toNat (o % 6)
  else if o < 24578 then byteAt (BitVec.ofInt 16 t.te).toNat (o - 24576)
  else if 0x6010 ≤ o ∧ o < 0x6210 then
    BitVec.ofNat 8 ((List.range 8).foldl (fun a j => if t.marked (8 * (o - 0x6010) + j) then a + 2 ^ j else a) 0)
  else 0#8

/-- A byte read through a core's window (R11, R13, R71, R176, R262). -/
def State.windowByte (s : State) (cn off : Nat) (master : Option Nat) : Byte :=
  let c := (s.core cn).tidy
  if off < 0x80000 then
    let row := off % 0x20000 / 0x80
    let q := c.quad (off / 0x20000)
    if 952 ≤ row then Config.freeByte s.fresh off
    else if q.rowHeld row then byteAt (q.rowWord s.fresh (off % 0x20000 / 4)).toNat (off % 4)
    else 0#8
  else if off < 0xCA000 then
    let x := off - 0x80000
    if c.granuleHeld (x / 1024) then c.scratchByte s.fresh x else 0#8
  else if 0x100000 ≤ off ∧ off < 0x140000 then
    let x := off - 0x100000
    if c.larderHeld (x / 1024) then c.larderShown s.fresh x else 0#8
  else if 0x140000 ≤ off ∧ off < 0x180000 then
    let n := (off - 0x140000) / 0x8000
    tileByte (shown s.fresh (2 ^ 62 + off / 8) (c.tile n) (c.tilesBefore n)) (off % 0x8000)
  else if 0x180000 ≤ off ∧ off < 0x190000 then s.controlByte cn (off - 0x180000) master
  else 0#8
/-- Bytes of a window. -/
def State.windowBytes (s : State) (cn off n : Nat) (master : Option Nat) : List Byte :=
  (List.range n).map fun i => s.windowByte cn (off + i) master

/-! ### What a window write does -/

/-- A tile after a window write of one byte (R291). -/
def tileSetByte (t : Tile) (o : Nat) (b : Byte) : Tile :=
  if o < 24576 then
    { t with m := Sparse.set 0#48 t.m (o / 6) (BitVec.ofNat 48 (putByte (Sparse.get 0#48 t.m (o / 6)).toNat (o % 6) b)) }
  else if o < 24578 then
    { t with te := (BitVec.ofNat 12 (putByte (BitVec.ofInt 16 t.te).toNat (o - 24576) b)).toInt }
  else if 0x6010 ≤ o ∧ o < 0x6210 then
    let at_ := 8 * (o - 0x6010)
    { t with marks := t.marks.filter (fun e => decide (e < at_) || decide (at_ + 8 ≤ e)) ++
                      ((List.range 8).filter fun j => b.getLsbD j).map (at_ + ·) }
  else t
/-- A comparator after a write of one byte; reserved bits read zero (R3, R360). -/
def cmpSetByte (watch : Bool) (t : Table Comparator) (i o : Nat) (b : Byte) : Table Comparator :=
  let x := putByte (cmpRecord t i) o b
  let va := BitVec.ofNat 64 x
  t.put i { va := if watch then va else va &&& ~~~3#64
            len := if watch then BitVec.ofNat 32 (x / 2 ^ 64) else 0
            ctl := BitVec.ofNat 32 (x / 2 ^ 96) &&& if watch then 0x7FFF#32 else 0x1FFFFF#32 }
/-- The sampler after a write of one byte of a field that firmware or a master may write (R366). -/
def samplerSetByte (x : Sampler) (o : Nat) (b : Byte) (cycle : Nat) : Sampler :=
  let y := putByte (samplerRecord x) o b
  let ctl : Word := BitVec.ofNat 32 y &&& 3#32
  { ctl := ctl, period := BitVec.ofNat 32 (y / 2 ^ 32), sel := BitVec.ofNat 32 (y / 2 ^ 64) &&& 0xFFFFFF#32
    buf := BitVec.ofNat 64 (y / 2 ^ 128), cap := BitVec.ofNat 32 (y / 2 ^ 192), wr := x.wr
    rd := BitVec.ofNat 32 (y / 2 ^ 256), dropped := if 36 ≤ o then 0 else x.dropped
    origin := if ctl.getLsbD 0 && !x.ctl.getLsbD 0 then cycle else x.origin
    next := if ctl.getLsbD 0 && !x.ctl.getLsbD 0 then cycle else x.next, queue := x.queue, owed := x.owed }
/-- A context that a debugger session holds (R360). -/
def State.debugged (s : State) (ctl : Word) : Bool := (s.ctx (ctl.extractLsb' 0 12).toNat).debug
/-- The comparators of a core after a firmware write: a record is written only where the context that it then names is one that a session holds
(R360, R373). -/
def State.keepDebugged (s : State) (old new : Table Comparator) : Table Comparator :=
  new.filterMap fun x : Nat × Comparator => if s.debugged x.2.ctl then some x else (old.find x.1).map fun y => (x.1, y)

/-- Write one byte of the core control area. `fw` says that the master is a management core. An edit of the divergence window of a
halted warp stands as written until the resume checks it (R160); the resume bit asks for the resume (R335). -/
def State.setControlByte (s : State) (cn o : Nat) (b : Byte) (master : Option Nat) : State :=
  let c := s.core cn
  let fw := master.isNone
  if 0x100 ≤ o ∧ o < 0x120 then
    match c.prMaster master with
    | some x =>
      s.setCore cn (c.setPr x ((o - 0x100) / 4) (BitVec.ofNat 32 (putByte (c.pr x ((o - 0x100) / 4)).toNat (o % 4) b)))
    | none => s
  else if 0x8000 ≤ o ∧ o < 0x9000 ∧ fw then
    let i := (o - 0x8000) / 64
    match (c.quad (i / 16)).warps.find (i % 16) with
    | some w =>
      let f := o % 64
      if w.trap.halted ∧ (f < 40 ∨ (52 ≤ f ∧ f < 56) ∨ 60 ≤ f) then
        s.setWarp cn (i / 16) (i % 16)
          { w with trap := { w.trap with edit := some (putByte (s.divWindow cn (i / 16) (i % 16) w) f b) } }
      else s
    | none => s
  else if 0x9000 ≤ o ∧ o < 0x9800 ∧ fw then
    let i := (o - 0x9000) / 32
    match (c.quad (i / 16)).warps.find (i % 16) with
    | some w =>
      let f := o % 32
      if !w.trap.halted then s
      else if f = 7 then
        (if b.getLsbD 7 then s.setWarp cn (i / 16) (i % 16) { w with trap := { w.trap with resuming := true } } else s)
      else if 28 ≤ f then
        s.setWarp cn (i / 16) (i % 16)
          { w with trap := { w.trap with replay := w.trap.replay &&& BitVec.ofNat 32 (putByte w.trap.replay.toNat (f - 28) b) } }
      else if 8 ≤ f then
        let x := putByte (trapWindow w.trap) f b
        s.setWarp cn (i / 16) (i % 16)
          { w with trap := { w.trap with epc := BitVec.ofNat 64 (x / 2 ^ 64), eva := BitVec.ofNat 64 (x / 2 ^ 128)
                                         fmask := BitVec.ofNat 32 (x / 2 ^ 192) } }
      else s
    | none => s
  else if 0xE000 ≤ o ∧ o < 0xE028 then
    if fw ∨ (0xE020 ≤ o ∧ o < 0xE024) then s.setCore cn { c with sampler := samplerSetByte c.sampler (o - 0xE000) b c.cycle } else s
  else if 0xF000 ≤ o ∧ o < 0xF400 ∧ fw then
    let i := (o - 0xF000) / 16
    s.setCore cn { c with bps := cmpSetByte false c.bps i (o % 16) b }
  else if 0xF400 ≤ o ∧ o < 0xF800 ∧ fw then
    let i := (o - 0xF400) / 16
    s.setCore cn { c with wps := cmpSetByte true c.wps i (o % 16) b }
  else s

/-- Write one byte through a core's window; discarded where nothing holds the place (R13, R71, R174, R176, R262). -/
def State.setWindowByte (s : State) (cn off : Nat) (b : Byte) (master : Option Nat) : State :=
  let c := s.core cn
  if off < 0x80000 then
    let qn := off / 0x20000
    let q := c.quad qn
    if q.rowHeld (off % 0x20000 / 0x80) && decide (off % 0x20000 / 0x80 < 952) then
      let i := off % 0x20000 / 4
      s.setCore cn (c.setQuad qn (q.putRow i (setByte (q.rowWord s.fresh i) (off % 4) b)))
    else s
  else if off < 0xCA000 then
    let x := off - 0x80000
    if c.granuleHeld (x / 1024) then s.setCore cn { c with scratch := Sparse.set 0#8 c.scratch x b } else s
  else if 0x100000 ≤ off ∧ off < 0x140000 then
    let x := off - 0x100000
    if c.tidy.larderHeld (x / 1024) then
      s.setCore cn { c with larder := Sparse.set 0#8 c.larder x b
                            hazes := c.hazes.map fun h => if h.shelf = .larder ∧ h.first ≤ x then { h with old := h.old.set (x - h.first) b } else h }
    else s
  else if 0x140000 ≤ off ∧ off < 0x180000 then
    let n := (off - 0x140000) / 0x8000
    s.setCore cn { c with tiles := c.tiles.put n (tileSetByte (c.tile n) (off % 0x8000) b)
                          hazes := c.hazes.map fun h => if h.shelf = .tile ∧ h.first = n then
                            { h with was := h.was.map fun t => tileSetByte t (off % 0x8000) b } else h }
  else if 0x180000 ≤ off ∧ off < 0x190000 then s.setControlByte cn (off - 0x180000) b master
  else s
/-- Write bytes through a window, in ascending order (R14): a tile written gets its sums again (R290), a precision register
takes only a valid value (R272), and a comparator only an allowed one (R360). -/
def State.windowWrite (s : State) (cn off : Nat) (bs : List Byte) (master : Option Nat) : State :=
  let s' := (bs.foldl (fun (p : State × Nat) b => (p.1.setWindowByte cn p.2 b master, p.2 + 1)) (s, off)).1
  let c := s.core cn
  let c' := s'.core cn
  if 0x140000 ≤ off ∧ off < 0x180000 then
    let n := (off - 0x140000) / 0x8000
    s'.setCore cn { c' with tiles := c'.tiles.put n (c'.tile n).resum }
  else if 0x180100 ≤ off ∧ off < 0x180120 then
    match c.prMaster master with
    | some x => s'.setCore cn ((List.range 8).foldl (fun d n => if prValid (d.pr x n) then d else d.setPr x n (c.pr x n)) c')
    | none => s'
  else if 0x18E000 ≤ off ∧ off < 0x18E028 then s'.setCore cn { c' with sampler := c.sampler.retimed c'.sampler c.cycle }
  else if 0x18F000 ≤ off ∧ off < 0x18F800 then
    s'.setCore cn { c' with bps := s.keepDebugged c.bps c'.bps, wps := s.keepDebugged c.wps c'.wps }
  else s'
/-- The fate of a window range, granule by granule, the lowest failing granule first (R409). -/
def State.windowRangeCheck (s : State) (cn off len : Nat) (master : Option Nat) (write : Bool) : Option Nat :=
  ((List.range (off % 8 + len + 7)).filterMap fun i =>
    if i % 8 = 0 ∧ off / 8 * 8 + i < off + len then s.windowCheck cn (off / 8 * 8 + i) master write else none).head?

/-! ### Broadcast (R256) -/

/-- Some delivery of a broadcast has not landed yet. -/
def State.onItsWay (s : State) (tag : Bcast) : Bool := s.deliveries.any fun d => d.tag == tag

/-- The cores of a group: of every running launch that names it, with the owning tenant; an absent core receives nothing (R392). -/
def State.groupMembers (s : State) (g : Nat) : List Nat :=
  match s.groups.find g with
  | none => []
  | some tenant =>
    (List.range 2688).filter fun cn => !(s.core cn).absent && s.launches.any fun L =>
      L.2.rcd.group == some g && L.2.started && !L.2.complete && L.2.ctx / 64 == tenant &&
        decide (L.2.rcd.c0 ≤ cn) && decide (cn < L.2.rcd.c0 + L.2.rcd.m)
/-- Post one write of a source to every member that the tenant holds now; each lands by MULTICAST_DELIVERY. -/
def State.postBroadcast (s : State) (tag : Bcast) (source g off : Nat) (bs : List Byte) (arrival : Option (Nat × Nat)) : State :=
  let held := (s.groupMembers g).filter fun cn => (s.core cn).tenant == s.groups.find g
  { s with deliveries := s.deliveries ++ held.map fun cn => ⟨tag, source, g, cn, off, bs, arrival⟩ }

end Sys2Proof.Machine
end

