-- ==== Sys2Proof/Machine/Paths.lean ====
section
/-! DEFINITION. Paths (R141-R153, R408): region accesses of the call region and the divergence ring, merges and pops at run
boundaries, parked slots, rotation, transfers of a slot and of lane groups, and the passing of a trailer (R22, R23, R308). -/
namespace Sys2Proof.Machine

/-! ### Accesses to the call region and the divergence region (R408) -/

/-- What a region access meets: its place, a cause, or a page that is being served, with the state in which the service has
begun. -/
inductive Region where
  | ok (pa : Nat)
  | fault (cause : Nat)
  | wait (s : State)
  deriving DecidableEq, Repr

/-- Begin the take of a first-touch page from a launch's pool (R238), which gives its pages out at once; `none` when the pool holds too
few. -/
def State.startTake (s : State) (ctx launch va : Nat) : Option State :=
  match s.walk ctx va with
  | .firstTouch z _ =>
    let page := va / pageSize z * pageSize z
    match s.launches.find launch with
    | none => none
    | some L =>
      if s.takes.any fun t => t.2.ctx == ctx && t.2.va == page && t.2.result.isNone then some s
      else if L.pool < pageUnits z then none
      else some { s with takes := s.takes.put s.nextUid ⟨ctx, page, z, launch, none⟩, nextUid := s.nextUid + 1
                         launches := s.launches.put launch { L with pool := L.pool - pageUnits z } }
  | _ => some s

/-- Begin the pull of a migrating page from the peer that its map request named (R243). -/
def State.startPull (s : State) (ctx va : Nat) : State :=
  match s.walk ctx va with
  | .migrating z e =>
    let page := va / pageSize z * pageSize z
    let device := match (s.ctx ctx).sources.find? fun x => x.1 == page with
      | some x => x.2.1
      | none => 0
    if s.pulls.any fun p => p.2.ctx == ctx && p.2.va == page then s
    else
      { s with pulls := s.pulls.put s.nextUid ⟨ctx, page, z, device, e.extractLsb' 2 3⟩, nextUid := s.nextUid + 1
               out := s.out ++ (((s.ctx ctx).conns.filter fun c => c.device == device).map fun c => .pagePull device c.peerCtx page) }
  | _ => s

/-- The place of a region's bytes, with read and write permission (R408). -/
def State.region (s : State) (cn : Nat) (mgmt : Bool) (ctx launch : Nat) (va : Dword) : Region :=
  if !mgmt && !canonical va then .fault 0x042
  else
    let r := s.translate cn mgmt ctx .read va.toNat
    let w := s.translate cn mgmt ctx .write va.toNat
    let cause (x : Xlate) := match x with
      | .fault c => some c
      | .ok (.mem _) => none
      | .ok _ => some 0x045
      | .migrating => none
    match firstCause ([r, w].filterMap cause) with
    | some 0x049 => match s.startTake ctx launch va.toNat with
      | some s' => .wait s'
      | none => .fault 0x04A
    | some c => .fault c
    | none => match r with
      | .ok (.mem pa) => .ok pa
      | _ => .wait (s.startPull ctx va.toNat)

/-- The places of several region accesses, for reads or for writes: all of them, their lines ready for it; or the first cause in the
order of report with the failing addresses; or a page being served, or lines asked for. -/
inductive Regions where
  | ok (pas : List Nat)
  | fault (cause : Nat) (failing : List Dword)
  | wait (s : State)
  deriving DecidableEq, Repr
def State.regionAll (s : State) (cn : Nat) (mgmt : Bool) (ctx launch : Nat) (write : Bool) (vas : List Dword) : Regions :=
  let rs := vas.map fun va => (va, s.region cn mgmt ctx launch va)
  match firstCause (rs.filterMap fun x => match x.2 with
      | .fault c => some c
      | _ => none) with
  | some c => .fault c (rs.filterMap fun x => match x.2 with
      | .fault _ => some x.1
      | _ => none)
  | none =>
    match rs.findSome? fun x => match x.2 with
        | .wait s' => some s'
        | _ => none with
    | some s' => .wait s'
    | none =>
      let pas := rs.filterMap fun x => match x.2 with
        | .ok pa => some pa
        | _ => none
      match if write then s.claim cn ctx (pas.map lineOf) else s.claimRead cn ctx (pas.map lineOf) with
      | some s' => .wait s'
      | none => .ok pas
/-- The lowest of some addresses. -/
def lowestVa : List Dword → Dword
  | [] => 0#64
  | [x] => x
  | x :: xs => let y := lowestVa xs; if x.toNat ≤ y.toNat then x else y

/-! ### Ring entries (R148) -/

/-- A stack entry as its 16 bytes. -/
def StackEntry.bytes (e : StackEntry) : List Byte :=
  toLe (e.pc.toNat + e.depth * 2 ^ 48 + (if e.parked then 2 ^ 60 else 0) + 2 ^ 61) 8 ++ toLe e.mask.toNat 4 ++ toLe 0 4
/-- The stack entry that 16 bytes hold. -/
def stackEntry (x : Nat) : StackEntry :=
  { pc := BitVec.ofNat 48 x, depth := x / 2 ^ 48 % 4096, parked := decide (x / 2 ^ 60 % 2 = 1), mask := BitVec.ofNat 32 (x / 2 ^ 64) }
/-- The address of ring slot i of a warp. -/
def State.ringVa (s : State) (cn qn wn : Nat) (w : Warp) (i : Nat) : Dword :=
  BitVec.ofNat 64 (s.ringBase w.launch cn qn wn + 16 * (i % s.ringK w.launch))
/-- A path fresh at a run boundary. -/
def freshPath (pc : Pc) (mask : Word) (depth : Nat) (parked : Bool) : Path :=
  { pc := pc, mask := mask, depth := depth, parked := parked, rest := 0, dbgRest := 0, run := none, wait := .none, replay := none,
    issued := 0, ends := .plain, site := none, fetched := false, after := 0 }
def Path.entry (p : Path) : StackEntry := { pc := p.pc, depth := p.depth, parked := p.parked, mask := p.mask }
/-- The path of an entry that comes into a slot; `rest` holds the lanes that a debugger rests on the stack (R365). -/
def StackEntry.path (e : StackEntry) (rest : Word) : Path := { freshPath e.pc e.mask e.depth e.parked with dbgRest := rest &&& e.mask }
/-- What a warp knows of resting lanes on its stack when an entry comes off it, and when a path goes onto it. -/
def Warp.unstack (w : Warp) (e : StackEntry) : Warp := { w with stackRest := w.stackRest &&& ~~~e.mask }
def Warp.stack (w : Warp) (p : Path) : Warp := { w with stackRest := w.stackRest ||| p.dbgRest }

/-- The trap of a ring access that no instruction makes (R408). -/
def ringTrap (cause : Nat) (pc : Pc) (va : Dword) : TrapReq :=
  { cause := cause, epc := pcVa pc, eva := va, fmask := 0, replay := 0, again := false, isDeferred := false, escalated := false,
    service := none }

/-! ### Merges, pops and parked slots (R146, R147, R149) -/

/-- A path stands at a run boundary and nothing of it is in progress. -/
def Path.idle (p : Path) : Bool :=
  p.run.isNone && p.replay.isNone && p.wait == .none
/-- Two paths merge: equal PC and depth (R146). -/
def Path.meets (p q : Path) : Bool := p.idle && q.idle && p.pc == q.pc && p.depth == q.depth
/-- The trailer before a path's PC, where it is the STOP or FLASH trailer that the path has passed last (R49). -/
def Path.siteHere (p : Path) : Option (Pc × Bool × Bool) := p.site.filter fun x => x.1 + 4 == p.pc
/-- The merged path. The trailer that stands before its PC is passed by all of it. -/
def Path.join (p q : Path) : Path :=
  { p with mask := p.mask ||| q.mask, parked := p.parked || q.parked, rest := p.rest ||| q.rest, dbgRest := p.dbgRest ||| q.dbgRest
           after := max p.after q.after
           site := if p.site = q.site then p.site else p.siteHere.or q.siteHere }
/-- A path merges with a parked stack top. -/
def Path.meetsTop (p : Path) (e : StackEntry) : Bool := p.idle && e.parked && p.pc == e.pc && p.depth == e.depth

/-- One change that the divergence rules make at once, if any applies: a merge of the slots, a merge with the stack top, a pop
into an empty slot, in which no window of an earlier path is open (R28), the exchange or the release of a parked slot. The top entry is on chip. `compacted` holds the lanes whose
crew has a compaction in effect: their paths stay parked (R157). -/
def Warp.settleOnce (w : Warp) (compacted : Word) : Option Warp :=
  let d := w.div
  let drop1 (d : Div) : Div := { d with n := d.n - 1, top := none }
  let top := if d.n = 0 then none else d.top
  let parkedTop (k : Nat) : Option Warp :=
    match d.slot k, top with
    | some p, some e =>
      if p.meetsTop e then
        some (({ w with div := (drop1 d).setSlot k (some (p.join (e.path w.stackRest))) }).unstack e).resetProgress
      else none
    | _, _ => none
  let pop (k : Nat) : Option Warp :=
    match d.slot k, top with
    | none, some e => some (({ w with div := (drop1 d).setSlot k (some (e.path w.stackRest)) }.unstack e).endSlotWindows k)
    | _, _ => none
  let exchange (k : Nat) : Option Warp :=
    match d.slot k, top with
    | some p, some e =>
      if p.parked && p.idle && (p.mask &&& compacted) == 0#32 && !e.parked then
        some (({ w with div := ({ d with top := some p.entry } : Div).setSlot k (some { e.path w.stackRest with issued := p.issued }) }.unstack e).stack p)
      else none
    | _, _ => none
  let waits (p : Option Path) := match p with
    | some p => p.parked && p.idle && (p.mask &&& compacted) == 0#32
    | none => false
  let free (p : Option Path) := match p with
    | some p => !p.parked
    | none => false
  let unpark (k : Nat) : Option Warp := (d.slot k).map fun p => { w with div := d.setSlot k (some { p with parked := false }) }
  let release : Option Warp :=
    if free d.s0 || free d.s1 then none
    else match d.s0, d.s1 with
      | some p, some q =>
        if waits d.s0 && waits d.s1 then
          (if p.depth < q.depth ∨ (p.depth = q.depth ∧ q.pc.toNat < p.pc.toNat) then unpark 1 else unpark 0)
        else if waits d.s0 then unpark 0 else if waits d.s1 then unpark 1 else none
      | some _, none => if waits d.s0 then unpark 0 else none
      | none, some _ => if waits d.s1 then unpark 1 else none
      | none, none => none
  let merge : Option Warp :=
    match d.s0, d.s1 with
    | some p, some q => if p.meets q then some { w with div := { d with s0 := some (p.join q), s1 := none } }.resetProgress else none
    | _, _ => none
  if w.handler.isSome then none
  else [merge, parkedTop 0, parkedTop 1, pop 0, pop 1, exchange 0, exchange 1, release].findSome? id

/-- The lanes whose crew has a compaction in effect (R154). -/
def State.compactedLanes (s : State) (cn : Nat) (w : Warp) : Word :=
  maskOf fun l => match w.crewOf l with
    | some k => match (s.core cn).crews.find k with
      | some x => x.compacted
      | none => false
    | none => false
/-- Read a stack entry from a ring slot of a warp (R148, R408): the entry, or the state in which the read waits or has halted the
warp. `pc` is that of the path concerned. -/
def State.readRing (s : State) (cn qn wn : Nat) (w : Warp) (i : Nat) (pc : Pc) : StackEntry ⊕ State :=
  let va := s.ringVa cn qn wn w i
  match s.regionAll cn w.mgmt w.ctx w.launch false [va] with
  | .ok (pa :: _) => .inl (stackEntry (s.memNat pa 16))
  | .ok [] => .inr s
  | .wait s' => .inr s'
  | .fault c _ => .inr (s.mgmtTrap cn qn wn 0 (ringTrap c pc va))
/-- The PC of the path that enters a slot by a pop: the on-chip top's, else the lowest live slot's (DESIGN CHOICE,
notes/assumptions/50.md). -/
def Div.popPc (d : Div) : Pc :=
  match d.top, d.s0, d.s1 with
  | some e, _, _ => e.pc
  | none, some p, _ => p.pc
  | none, none, some p => p.pc
  | none, none, none => 0
/-- Bring the divergence state of a warp to rest at a run boundary: every change of `settleOnce`. A pop that leaves entries below
first reads the next top from the ring; a read that fails halts the warp and changes nothing else, and the pop is made again when the
warp resumes (R147, R408). -/
def State.settleFrom (s : State) (cn qn wn : Nat) : Nat → State
  | 0 => s
  | fuel + 1 =>
    match s.warp cn qn wn with
    | none => s
    | some w =>
      if w.trap.halted then s
      else if w.div.n ≠ 0 ∧ w.div.top = none then
        match s.readRing cn qn wn w (w.div.b + w.div.n - 1) w.div.popPc with
        | .inl e => State.settleFrom (s.setWarp cn qn wn { w with div := { w.div with top := some e } }) cn qn wn fuel
        | .inr s' => s'
      else match w.settleOnce (s.compactedLanes cn w) with
        | none => s
        | some w' =>
          if w'.div.n < w.div.n ∧ w'.div.n ≠ 0 then
            match s.readRing cn qn wn w (w.div.b + w'.div.n - 1) w.div.popPc with
            | .inl e => State.settleFrom (s.setWarp cn qn wn { w' with div := { w'.div with top := some e } }) cn qn wn fuel
            | .inr s' => s'
          else State.settleFrom (s.setWarp cn qn wn w') cn qn wn fuel
/-- Thirty-two lanes make at most thirty-two paths, so the fuel never runs out. -/
def State.settle (s : State) (cn qn wn : Nat) : State := s.settleFrom cn qn wn 200

/-! ### Rotation (R150) -/

/-- Step 1 of a rotation: every parked flag of slots and stack entries is cleared, and the slot that will give up its path is
chosen; with an empty stack the rotation is complete. Ring entries in memory are rewritten where their flag is set. Where the
writes fail, EPC holds slot 0's PC (DESIGN CHOICE, notes/assumptions/50.md). -/
def State.rotate (s : State) (cn qn wn : Nat) (w : Warp) : State :=
  let below := w.div.n - (if w.div.top.isSome then 1 else 0)
  let vas := (List.range below).map fun i => s.ringVa cn qn wn w (w.div.b + i)
  let pc := match w.div.s0 with
    | some p => p.pc
    | none => 0
  match s.regionAll cn w.mgmt w.ctx w.launch true vas with
  | .wait s' => s'
  | .fault c vs => s.mgmtTrap cn qn wn 0 (ringTrap c pc (lowestVa vs))
  | .ok pas =>
    let s := pas.foldl (fun (s : State) pa =>
      let e := stackEntry (s.memNat pa 16)
      if e.parked then s.engineWrite (fieldOf cn) pa { e with parked := false }.bytes else s) s
    let unpark (p : Option Path) : Option Path := p.map fun p => { p with parked := false }
    let words (p : Option Path) : Nat := match p with
      | some p => p.issued
      | none => 0
    let d : Div := { w.div with s0 := unpark w.div.s0, s1 := unpark w.div.s1, top := w.div.top.map fun (e : StackEntry) => { e with parked := false } }
    let w : Warp := { w with div := { d with giveUp := if words d.s1 < words d.s0 then some 0 else some 1 } }
    if d.n = 0 then (s.setWarp cn qn wn w.resetProgress).settle cn qn wn else s.setWarp cn qn wn w

/-- Steps 2 and 3: the chosen slot's path goes to the bottom of the ring and the top entry enters the slot. The next top is read, and
the place at the bottom translated, before anything changes (R408). -/
def State.giveUp (s : State) (cn qn wn : Nat) (w : Warp) (k : Nat) : State :=
  let K := s.ringK w.launch
  match w.div.slot k, w.div.top with
  | some p, some e =>
    let b := (w.div.b + K - 1) % K
    let va := s.ringVa cn qn wn w b
    match if w.div.n = 1 then .inl p.entry else s.readRing cn qn wn w (w.div.b + w.div.n - 2) p.pc with
    | .inr s' => s'
    | .inl next =>
      match s.regionAll cn w.mgmt w.ctx w.launch true [va] with
      | .wait s' => s'
      | .fault c _ => s.mgmtTrap cn qn wn k (ringTrap c p.pc va)
      | .ok pas =>
        let s := pas.foldl (fun (s : State) pa => s.engineWrite (fieldOf cn) pa p.entry.bytes) s
        let d := ({ w.div with b := b, top := some next } : Div).setSlot k (some (e.path w.stackRest))
        (s.setWarp cn qn wn ((({ w with div := d } : Warp).unstack e).stack p).resetProgress).settle cn qn wn
  | _, _ => s

/-! ### Readiness and choice (R119, R142, R143) -/

/-- A register has a pending producer that a slot waits for beyond its window (R30). -/
def Warp.pendingBeyond (w : Warp) (kn : Nat) (uniform : Bool) (k : Nat) : Bool :=
  w.pend.any fun o => o.uniform == uniform && o.dest.contains k && !(o.slot == kn && decide (0 < o.window))
/-- A register has a pending producer, in its window or beyond (R308). -/
def Warp.pendingAny (w : Warp) (uniform : Bool) (k : Nat) : Bool := w.pend.any fun o => o.uniform == uniform && o.dest.contains k
/-- Pending destination registers of a warp (R30). -/
def Warp.pendingCount (w : Warp) : Nat := (w.pend.map fun o => o.dest.length).sum
/-- A recorded barrier phase of a crew has completed (R131, R139), and what its arrivals release is performed (R132). -/
def Core.phaseDone (c : Core) (crew : Nat) (phase : Word) : Bool :=
  match c.crews.find crew with
  | some k => decide (1 ≤ (k.phase - phase).toNat) && decide ((k.phase - phase).toNat ≤ 2 ^ 31) && !k.due.any c.owes
  | none => true
/-- A temporary set that no slot of the quadrant holds (R75). -/
def Quadrant.freeSet (q : Quadrant) : Option Nat := (List.range 8).find? fun t => !q.temps.any fun x => x.1 == t
/-- A producer that the warp's trailers await is still pending (R23). -/
def Warp.awaiting (w : Warp) : Bool := w.await.any fun x => w.pend.any fun o => o.seq == x

/-- A wait at which a pending deferred fault is raised (R292): MWAIT, TEXP, TCHK, an LREL's wait, a full matrix queue. -/
def Wait.meetsDeferred : Wait → Bool
  | .held r => r == 10
  | .lrel _ => true
  | .tchk _ => true
  | _ => false
/-- The warp holds its quadrant: one of its slots issues. -/
def Quadrant.runs (q : Quadrant) (wn : Nat) : Bool := q.sel.any fun x => x.1 == wn
/-- A pending deferred fault may be raised (R292): the warp stands at a run boundary, or some slot of it waits where the rule says. A fault of
lanes after their word has issued may be wherever no word of the warp issues (R31). -/
def Quadrant.mayDefer (q : Quadrant) (wn : Nat) (w : Warp) : Bool :=
  let waits (p : Path) : Bool := p.wait.meetsDeferred
  let rests (p : Path) : Bool := p.run.isNone && p.replay.isNone
  let issues := match q.sel with
    | some (n, k) => n == wn && (w.div.slot k).any fun p => p.wait == .none
    | none => false
  w.handler.isNone && ((!issues && w.trap.deferred.any fun d => d.late.isSome || d.plain) || w.div.s0.any waits || w.div.s1.any waits || (!q.runs wn && (w.div.s0.any rests || w.div.s1.any rests)))
/-- Lanes of the instruction of a match are still to complete: the handler runs for some, or the slot issues it again for some (R339). -/
def Warp.hitOpen (w : Warp) (h : WatchHit) : Bool :=
  w.handler.any (fun x => x.slot == h.slot && x.entryEpc == h.epc) ||
    (w.div.slot h.slot).any fun p => p.replay.isSome && h.epc == p.pc.signExtend 64
/-- At a run boundary of the warp, the matches of instructions of which every lane has completed fall due (R339). -/
def Warp.watchDue (w : Warp) : Warp :=
  { w with trap := { w.trap with watch := w.trap.watch.map fun h => { h with due := h.due || !w.hitOpen h } } }
/-- The gathered matches of a watchpoint may be reported (R339): the boundary at which they are due has come. -/
def Quadrant.mayWatch (q : Quadrant) (wn : Nat) (w : Warp) : Bool :=
  w.trap.watch.any (·.due) && w.handler.isNone && !q.runs wn && (w.div.s0.isSome || w.div.s1.isSome)
/-- A warp whose issue budget is spent naps from its next run boundary until budget returns (R143, R303). -/
def State.outOfBudget (s : State) (c : Core) (q : Quadrant) (w : Warp) : Bool := !w.mgmt && s.issueSpent q.left w.ctx && decide (c.pool.1 ≤ 0)
/-- Slot k is ready (R119, R142, R143, R365). The members of a completed phase are ready from the next CYCLE (R405). -/
def State.slotReady (s : State) (c : Core) (q : Quadrant) (w : Warp) (k : Nat) : Bool :=
  match w.div.slot k with
  | none => false
  | some p =>
    let waitOver := match p.wait with
      | .none => true
      | .held _ => !((c.phase == .draining || w.stopped) && p.wait.outside)
      | .score ls us room =>
        -- a FLASH trailer waits for every producer of its keep-set, a word for those beyond their windows (R30, R308)
        let pending := if p.run.any fun r => decide (r.words.length ≤ 1) then w.pendingAny else w.pendingBeyond k
        ls.all (fun r => !pending false r) && us.all (fun r => !pending true r) && decide (w.pendingCount + room ≤ 32)
      | .barrier _ ph => (ph.all fun x => c.phaseDone x.1 x.2) && decide (p.after ≤ c.cycle)
      | .lrel _ => c.phase != .draining && !w.stopped
      | .tchk _ => c.phase != .draining && !w.stopped
      | .tchked _ => true
      | .pgtake _ => true
      | _ => false
    let mayOpen := p.fetched && !w.awaiting && c.phase != .draining && !w.stopped &&
      !(w.div.n != 0 && w.div.top.isNone) && !s.outOfBudget c q w
    let hasSet := p.run.any fun r => decide (r.set < 8)
    !p.parked && (p.mask &&& ~~~p.rest &&& ~~~p.dbgRest) != 0#32 && waitOver && (p.run.isSome || mayOpen) && (hasSet || q.freeSet.isSome) &&
      !(w.spent && s.outOfBudget c q w) && w.hits.isEmpty &&
      (match w.handler with
       | some h => h.slot == k
       | none => true)
/-- An ARWAIT that was abandoned, and waits to be issued again (R185). -/
def LongOp.again (o : LongOp) : Bool := o.kind == .arwait && o.posted
/-- The warp may act at all: not halted, napping or held by its core (R119, R303, R312, R318, R322). -/
def State.warpOn (s : State) (cn : Nat) (c : Core) (w : Warp) : Bool :=
  !w.trap.halted &&
    (match w.nap with
     | some (t, true) => decide (t ≤ c.cycle)
     | _ => true) &&
    (w.mgmt || (c.tenant == some (w.ctx / 64) && c.phase != .idle && !(c.phase == .draining && w.rewind != .full) &&
      !c.donated.contains w.ctx && !c.late.any fun x => x.1 == w.ctx && decide (s.time < x.2))) && decide (cn < 2772)
/-- The warp may issue a word: an ARWAIT that was abandoned is issued again before (R185). -/
def State.warpFree (s : State) (cn : Nat) (c : Core) (w : Warp) : Bool := s.warpOn cn c w && !w.pend.any LongOp.again
/-- The slot of a warp that issues (R142): a run broken on the scoreboard first; then, of the ready slots, the greater depth, the
lower PC, slot 0. -/
def State.chooseSlot (s : State) (c : Core) (q : Quadrant) (w : Warp) : Option Nat :=
  let broken (k : Nat) := match w.div.slot k with
    | some p => p.run.isSome && (match p.wait with
        | .score .. => true
        | _ => false)
    | none => false
  let r (k : Nat) := s.slotReady c q w k
  if broken 0 then (if r 0 then some 0 else none)
  else if broken 1 then (if r 1 then some 1 else none)
  else match r 0, r 1 with
    | false, false => none
    | true, false => some 0
    | false, true => some 1
    | true, true =>
      match w.div.s0, w.div.s1 with
      | some p, some q => if p.depth < q.depth ∨ (p.depth = q.depth ∧ q.pc.toNat < p.pc.toNat) then some 1 else some 0
      | _, _ => some 0
/-- Ready but for its yield mark: some slot of it can issue now. -/
def State.canIssue (s : State) (cn : Nat) (c : Core) (q : Quadrant) (w : Warp) : Bool :=
  s.warpFree cn c w && (s.chooseSlot c q w).isSome
/-- The other ready warps of a quadrant; one that has yielded is not ready (R319). -/
def State.othersReady (s : State) (cn : Nat) (c : Core) (q : Quadrant) (wn : Nat) : List Nat :=
  (q.warps.filter fun x => x.1 != wn && x.2.yielded.isNone && s.canIssue cn c q x.2).map (·.1)
/-- A deferred fault or a watchpoint report of the warp comes before its next word (R332). -/
def Warp.owesReport (w : Warp) (q : Quadrant) (wn : Nat) : Bool := (w.trap.deferred != [] && q.mayDefer wn w) || q.mayWatch wn w
/-- The warp in a slot of a quadrant is ready (R119, R319). -/
def State.ready (s : State) (cn : Nat) (c : Core) (q : Quadrant) (wn : Nat) (w : Warp) : Bool :=
  s.canIssue cn c q w && !w.owesReport q wn &&
    (match w.yielded with
     | none => true
     | some xs => xs.isEmpty || (s.othersReady cn c q wn).isEmpty)

/-! ### Passing a trailer (R22, R23, R28, R308, R319, R322, R361) -/

/-- The site of a trailer in the launch's image (R49). An entry describes a trailer only while the word there is one with the entry's
STOP and FLASH bits (R407; DEDUCED, notes/assumptions/62.md). -/
def State.siteAt (s : State) (launch : Nat) (at_ : Pc) (stop flash : Bool) : Option Site :=
  match s.launches.find launch with
  | some L => L.sites.find? fun x => (L.codeStart + BitVec.ofNat 64 x.trailer).extractLsb' 0 48 == at_ &&
      x.flags.getLsbD 0 == stop && x.flags.getLsbD 1 == flash
  | none => none
/-- The keep-set registers of a site that have a pending producer, lane and uniform (R308). -/
def Warp.keepPending (w : Warp) (x : Site) : List Nat × List Nat :=
  let pending (u : Bool) (r : Nat) := w.pend.any fun o => o.uniform == u && o.dest.contains r
  ((x.keep.filter fun b => decide (b < 128) && pending false b),
   (x.keep.filterMap fun b => if 128 ≤ b ∧ pending true (b - 128) then some (b - 128) else none))
/-- The snapshot of a flash point (R308). -/
def View.snapshot (V : View) (x : Site) : Snapshot :=
  let rf (i : Nat) := Sparse.get 0#32 V.q.rf i
  { arrivals := V.w.remap.flatMap fun e => match V.c.crews.find e.2.1 with
      | some k => ((k.arrived ++ k.again).filter (· == e.2.2)).map fun x => (e.2.1, x)
      | none => []
    undef := V.w.undef
    pc := V.r.trailerAt + 4, mask := V.p.mask, depth := V.p.depth, b := V.w.div.b, progress := V.w.div.progress
    fmode := V.w.fmode, vx := lanes.map V.vx
    keepV := (x.keep.filter fun b => decide (b < 120)).map fun b => (b, lanes.map fun l => rf ((V.w.base + b) * 32 + l))
    keepS := (x.keep.filter fun b => decide (128 ≤ b)).map fun b => (b - 128, rf (V.w.ubase * 32 + (b - 128)))
    recipe := x.recipe.bind fun r => (V.s.launches.find V.w.launch).map fun L => (L.codeStart + BitVec.ofNat 64 r).extractLsb' 0 48
    tiles := x.tiles }
/-- A breakpoint comparator that matches a trailer (R361). -/
def View.trailerHit (V : View) (stop : Bool) : Option Nat :=
  (List.range 64).find? fun i =>
    match V.c.bps.find i with
    | none => false
    | some b => b.ctl.getLsbD 12 && b.ctl.extractLsb' 0 12 == BitVec.ofNat 12 V.w.ctx &&
        (!b.ctl.getLsbD 20 || (b.ctl.extractLsb' 18 2 == BitVec.ofNat 2 V.qn && b.ctl.extractLsb' 14 4 == BitVec.ofNat 4 V.wn)) &&
        (b.va == pcVa V.r.trailerAt || (stop && b.ctl.getLsbD 13))

/-- The slot's path after its run: at the boundary, PC past the trailer unless a transfer has moved it; it waits at a BRC, or is
parked at the point of an RCV. -/
def View.pathClosed (V : View) (stop flash : Bool) : Path :=
  { V.p with site := if stop || flash then some (V.r.trailerAt, stop, flash) else none
             pc := if V.p.ends = .moved then V.p.pc else V.r.trailerAt + 4, run := none, ends := .plain, fetched := false
             parked := V.p.parked || V.p.ends == .park
             wait := match V.p.ends with
               | .brc a t m => .brc a t m
               | _ => .none }
/-- The warp's part of passing a trailer: awaited producers, windows that end, nap and yield coming into force, matches of comparators that fall
due. -/
def View.warpClosed (V : View) (stop flash : Bool) (a0 a1 : Nat) : Warp :=
  let named (o : LongOp) := !o.uniform && (o.dest.contains a0 || o.dest.contains a1)
  let w := V.w
  { w with
    await := (w.await.filter fun x => w.pend.any fun o => o.seq == x) ++ (w.pend.filter named).map (·.seq)
    pend := w.pend.map fun o => if named o ∨ (o.slot = V.kn ∧ (stop ∨ flash)) then { o with window := 0 } else o
    shadow := w.shadow.filter fun o => !(named o || (o.slot == V.kn && (stop || flash)))
    nap := w.nap.map fun x => (x.1, true)
    yieldDue := false
    yielded := if w.yieldDue then some (V.s.othersReady V.cn V.c V.q V.wn) else w.yielded
    spent := w.spent || V.s.outOfBudget V.c V.q w
    hits := match V.trailerHit stop with
      | some i => w.hits ++ [⟨i, V.r.trailerAt, V.kn, V.p.mask &&& ~~~V.p.rest &&& ~~~V.p.dbgRest⟩]
      | none => w.hits
    trap := w.watchDue.trap }
/-- The slot passes its trailer: a FLASH trailer first waits for its keep-set; it marks no point where its warp has been told to stop (R363).
The run is over, its temporaries are released, and the quadrant selects again. -/
def View.closeRun (V : View) (stop flash : Bool) (a0 a1 : Nat) : State :=
  let single := (V.w.div.slot (other V.kn)).isNone && V.w.div.n == 0
  let site := if flash && single && V.c.phase != .draining && !V.w.stopped then V.s.siteAt V.w.launch V.r.trailerAt stop flash else none
  let wait := match site with
    | some x => V.w.keepPending x
    | none => ([], [])
  if wait.1 ≠ [] ∨ wait.2 ≠ [] then V.breakRun (.score wait.1 wait.2 0)
  else
    let w := V.warpClosed stop flash a0 a1
    let w := match site with
      | some x => { w with rewind := .flash (V.snapshot x), point := w.point + 1, sb := w.sb.map fun b => { b with held := false } }
      | none => w
    let V' := { V with w := w, q := (V.q.freeTemps V.wn V.kn).deselect V.wn V.kn }
    V'.putWarp (V'.warpWith (some (V.pathClosed stop flash)))
/-- The slot passes its trailer, and the paths settle (R146). -/
def View.close (V : View) (stop flash : Bool) (a0 a1 : Nat) : State := (V.closeRun stop flash a0 a1).settle V.cn V.qn V.wn
/-- A run whose slot has lost its last lane ends without passing its trailer: what that trailer awaits or marks has no effect
(DESIGN CHOICE, notes/assumptions/49.md). -/
def View.vacate (V : View) : State :=
  let V' := { V with q := (V.q.freeTemps V.wn V.kn).deselect V.wn V.kn, w := V.w.watchDue }
  (V'.putWarp (V'.warpWith none)).settle V.cn V.qn V.wn

/-! ### Transfers (R144, R145, R161) -/

/-- The windows that a taken transfer ends: those of the issuing slot (R28). -/
def View.endWindows (V : View) : View := { V with w := V.w.endSlotWindows V.kn }
/-- The whole slot goes on at an address (R161); a taken transfer ends its windows and is followed by a bubble (R28, R405). -/
def View.goto (V : View) (i : Info) (pc : Pc) (taken : Bool) : View :=
  let W := V.advance i
  let W := if taken then W.endWindows else W
  { W with p := { W.p with pc := pc, ends := .moved, after := if taken then V.c.cycle + 2 else 0 } }

/-- The ring writes that pushes need, the first entry pushed first: the top on chip and every entry but the last go to memory
(R148). -/
def State.pushWrites (s : State) (cn qn wn : Nat) (w : Warp) (es : List StackEntry) : List (Dword × StackEntry) :=
  let first := w.div.b + w.div.n - (if w.div.n ≠ 0 ∧ w.div.top.isSome then 1 else 0)
  let onChip := if w.div.n = 0 then es else match w.div.top with
    | some e => e :: es
    | none => es
  (List.range (onChip.length - 1)).filterMap fun i => (onChip[i]?).map fun e => (s.ringVa cn qn wn w (first + i), e)
/-- Push entries, the first pushed first. -/
def Div.push (d : Div) (es : List StackEntry) : Div :=
  match es.getLast? with
  | none => d
  | some e => { d with n := d.n + es.length, top := some e }

/-- The groups of lanes that a transfer makes: mask and address. The first stays in the issuing slot X, with X's resting lanes; the
second takes the other slot if that is empty; the others are pushed, the last first. `frames` are the frame writes of a call, `taken`
says that the first group is transferred as well. A transfer that cannot push, or whose ring writes fail, completes for no lane. -/
def View.spread (V : View) (i : Info) (taken : Bool) (groups : List (Word × Pc)) (depth : Nat) (frames : List (Nat × List Byte)) : State :=
  match groups with
  | [] => (V.goto i (V.r.trailerAt + 4) false).put
  | (m0, t0) :: rest =>
    let yFree := (V.w.div.slot (other V.kn)).isNone
    let toY := if yFree then rest.take 1 else []
    let pushed := ((if yFree then rest.drop 1 else rest).reverse).map fun g => ({ pc := g.2, depth := depth, parked := false, mask := g.1 } : StackEntry)
    if V.s.ringK V.w.launch < V.w.div.n + pushed.length then V.fault 0x0C5 0#64 V.em
    else
      let ws := if pushed.isEmpty then [] else V.s.pushWrites V.cn V.qn V.wn V.w pushed
      match V.s.regionAll V.cn V.w.mgmt V.w.ctx V.w.launch true (ws.map (·.1)) with
      | .wait s' => { V with s := s' }.hold 11
      | .fault c vs => V.fault c (lowestVa vs) V.em
      | .ok pas =>
        let at_ := V.c.cycle + 2
        let V := (V.advance i).endWindows
        let V := if toY.isEmpty then V else { V with w := V.w.endSlotWindows (other V.kn) }
        let rested := V.p.mask &&& ~~~V.em
        let p := { V.p with pc := t0, mask := m0 ||| rested, depth := depth, ends := .moved, after := if taken then at_ else 0 }
        let d := V.w.div.push pushed
        let d := match toY with
          | g :: _ => d.setSlot (other V.kn) (some { freshPath g.2 g.1 depth false with after := at_ })
          | [] => d
        let s := { V with w := { V.w with div := d }, p := p }.put
        let write (s : State) (x : Nat × List Byte) := s.engineWrite (fieldOf V.cn) x.1 x.2
        ((pas.zip (ws.map fun x => x.2.bytes)) ++ frames).foldl write s

/-- The two sides of a lane branch (R144): the taken lanes and the rest; one path when either is empty or both go to one
address. -/
def View.branch (V : View) (i : Info) (taken : Word) (tgt : Pc) : State :=
  let fall := V.r.trailerAt + 4
  let t := V.em &&& taken
  let f := V.em &&& ~~~taken
  if t = 0#32 then (V.goto i fall false).put
  else if f = 0#32 ∨ tgt = fall then (V.goto i tgt true).put
  else V.spread i false [(f, fall), (t, tgt)] V.p.depth []

/-- Group lanes by address, ascending (R145). -/
def groupLanes (tgt : Nat → Pc) (m : Word) : List (Word × Pc) :=
  let insert (gs : List (Word × Pc)) (l : Nat) : List (Word × Pc) :=
    let b := BitVec.ofNat 32 (2 ^ l)
    if gs.any fun g => g.2 == tgt l then gs.map fun g => if g.2 = tgt l then (g.1 ||| b, g.2) else g
    else gs.takeWhile (fun g => decide (g.2.toNat < (tgt l).toNat)) ++ [(b, tgt l)] ++
      gs.dropWhile (fun g => decide (g.2.toNat < (tgt l).toNat))
  (lanesOf m).foldl insert []

/-! ### Calls and returns (R152) -/

/-- The address of frame d of virtual lane l. -/
def State.frameVa (s : State) (cn qn wn : Nat) (w : Warp) (d l : Nat) : Dword :=
  match s.launches.find w.launch with
  | some L => L.rcd.callBase + BitVec.ofNat 64 ((((64 * cn + 16 * qn + wn) * L.rcd.D + d - 1) * 32 + l) * 8)
  | none => 0#64
/-- The lanes of a mask whose frame address is among some. -/
def View.frameLanes (V : View) (d : Nat) (vs : List Dword) : Word :=
  maskOf fun l => V.em.getLsbD l && vs.contains (V.s.frameVa V.cn V.qn V.wn V.w d l)
/-- A call (R152): the return address goes into each lane's frame at the new depth, then the lanes transfer. With an empty EM a direct
CALL too falls through with the depth unchanged, as R145 has it for the indirect forms (DESIGN CHOICE, notes/assumptions/51.md). -/
def View.call (V : View) (i : Info) (tgt : Nat → Pc) : State :=
  if V.em = 0#32 then (V.goto i (V.r.trailerAt + 4) false).put
  else if V.s.callD V.w.launch ≤ V.p.depth then V.fault 0x0C6 0#64 V.em
  else
    let d := V.p.depth + 1
    match V.s.regionAll V.cn V.w.mgmt V.w.ctx V.w.launch true ((lanesOf V.em).map (V.s.frameVa V.cn V.qn V.wn V.w d)) with
    | .wait s' => { V with s := s' }.hold 11
    | .fault c vs => V.fault c (lowestVa vs) (V.frameLanes d vs)
    | .ok pas =>
      V.spread i true (groupLanes tgt V.em) d (pas.map fun pa => (pa, toLe (pcVa (V.r.trailerAt + 4)).toNat 8))
/-- A return (R152): each lane goes to the address in its frame, of which bits [47:2] count, since words are fetched from 4-byte aligned addresses
(R15; DESIGN CHOICE, notes/assumptions/52.md); a return below a flash point's depth sets a full point (R308). -/
def View.ret (V : View) (i : Info) : State :=
  if V.em = 0#32 then (V.goto i (V.r.trailerAt + 4) false).put
  else if V.p.depth = 0 then V.fault 0x00D 0#64 V.em
  else
    let d := V.p.depth
    let ls := lanesOf V.em
    match V.s.regionAll V.cn V.w.mgmt V.w.ctx V.w.launch false (ls.map (V.s.frameVa V.cn V.qn V.wn V.w d)) with
    | .wait s' => { V with s := s' }.hold 11
    | .fault c vs => V.fault c (lowestVa vs) (V.frameLanes d vs)
    | .ok pas =>
      let at_ (l : Nat) : Pc := match (ls.zip pas).find? fun x => x.1 == l with
        | some x => BitVec.ofNat 48 (V.s.memNat x.2 8) &&& ~~~3#48
        | none => 0
      let below := match V.w.rewind with
        | .flash x => decide (d - 1 < x.depth)
        | .full => false
      { V with w := if below then V.w.fullPoint else V.w }.spread i true (groupLanes at_ V.em) (d - 1) []

/-! ### Fetching a run (R24) -/

/-- The decode-table entry of a word in a context's slot (R33); a management core decodes through slot 0, U-set only. -/
def State.entryOf (s : State) (mgmt : Bool) (launch : Nat) (place : Nat) : BitVec 32 :=
  let slot := if mgmt then 0 else match s.launches.find launch with
    | some L => L.rcd.table
    | none => 0
  slotEntry (s.tables.find slot) slot place
/-- What a run check sees of a word: a valid entry's transfer flag, and whether it names LAND. A management core decodes no L-set word (R15). -/
def State.isTransfer (s : State) (mgmt : Bool) (launch : Nat) (w : Word) : Bool :=
  let e := s.entryOf mgmt launch (opc11 w).toNat
  (!mgmt || w.getLsbD 31) && e.getLsbD 15 && e.getLsbD 18
def State.isLand (s : State) (mgmt : Bool) (launch : Nat) (w : Word) : Bool :=
  let e := s.entryOf mgmt launch (opc11 w).toNat
  w.getLsbD 31 && e.getLsbD 15 && e.extractLsb' 0 10 == 0x0C8#10

/-- The checks on a trailer's fields (R23, R24). -/
def trailerCheck (t : Word) (allot : Nat) : Option Nat :=
  let a0 := (t.extractLsb' 12 7).toNat
  let a1 := (t.extractLsb' 5 7).toNat
  let bad (a : Nat) := decide (120 ≤ a) && decide (a ≤ 126)
  let out (a : Nat) := decide (allot ≤ a) && a != 127
  if t.extractLsb' 0 5 ≠ 0#5 then some 0x002
  else if bad a0 || bad a1 then some 0x006
  else if out a0 || out a1 then some 0x004
  else none

/-- What decoding a run gives. -/
inductive RunGot where
  | run (words : List Word)
  | fault (cause : Nat) (at_ : Pc)
  | wait (s : State)
  deriving DecidableEq, Repr

/-- Read the word at an address for fetch: what memory holds now. Of a word stored during the launch this is always the new one, where R27
allows the old (DESIGN CHOICE, notes/assumptions/53.md). -/
def State.fetchWord (s : State) (cn : Nat) (w : Warp) (pc : Pc) : Except (Option Nat) Word :=
  match s.translate cn w.mgmt w.ctx .fetch (pcVa pc).toNat with
  | .ok (.mem pa) => .ok (BitVec.ofNat 32 (s.memNat pa 4))
  | .ok _ => .error (some 0x045)
  | .fault c => .error (some c)
  | .migrating => .error none
/-- Decode a run word by word from its start (R24): `before` holds the words already read, oldest first. -/
def State.readRun (s : State) (cn : Nat) (w : Warp) : Nat → List Word → Bool → Pc → RunGot
  | 0, _, _, pc => .fault 0x007 pc
  | n + 1, before, afterX, pc =>
    match s.fetchWord cn w pc with
    | .error (some c) => .fault c pc
    | .error none => .wait (s.startPull w.ctx (pcVa pc).toNat)
    | .ok x =>
      if isTrailer x then
        if before.isEmpty then .fault 0x007 pc
        else match trailerCheck x w.allot with
          | some c => .fault c pc
          | none => .run (before ++ [x])
      else if n = 0 ∨ afterX then .fault 0x007 pc
      else if !before.isEmpty && s.isLand w.mgmt w.launch x then .fault 0x007 pc
      else State.readRun s cn w n (before ++ [x]) (s.isTransfer w.mgmt w.launch x) (pc + 4)

end Sys2Proof.Machine
end

