-- ==== Sys2Proof/Machine/Mangle.lean ====
section
/-! DEFINITION. The Mangle (R154-R157): compaction of a crew at a BRC, and the restoration of its canonical packing. -/
namespace Sys2Proof.Machine

/-- What a moved thread carries (R156): its seat, TID and vx, and lane registers with their contents and whether they are
undefined. -/
structure Carried where
  seat : Nat
  tid : Word
  vx : Byte
  regs : List (Nat × Word × Bool)
  deriving DecidableEq, Repr

/-- A crew's members in ascending seat order. -/
def Crew.bySeat (k : Crew) : List Member := (List.range 1024).filterMap fun x => k.members.find? fun m => m.seat == x
/-- A crew's warps in ascending (quadrant, warp slot) order. -/
def Crew.warps (k : Crew) : List (Nat × Nat) :=
  (List.range 64).filterMap fun i =>
    if k.members.any fun m => m.quad == i / 16 && m.warp == i % 16 then some (i / 16, i % 16) else none
/-- The path that a place of a core's lanes follows in a PC slot. -/
def Core.pathOf (c : Core) (qn wn l : Nat) : Option Path :=
  match (c.quad qn).warps.find wn with
  | none => none
  | some w => [w.div.s0, w.div.s1].findSome? fun p => p.bind fun p => if p.mask.getLsbD l then some p else none
/-- The lane registers that a move carries: the live v-mask of the site whose trailer closed the path's run, or the whole allotment
(R156, R407). -/
def State.movedRows (s : State) (w : Warp) (site : Option (Pc × Bool × Bool)) : List Nat :=
  match site.bind fun x => s.siteAt w.launch x.1 x.2.1 x.2.2 with
  | some x => (List.range w.allot).filter fun r => x.vmask.getLsbD r
  | none => List.range w.allot
/-- Lanes of one store that have bytes in common: the highest lane's value stands (R202). -/
def BufStore.shares (a b : BufStore) : Bool :=
  a.uid == b.uid && a.seq == b.seq && a.orig != b.orig && a.acc.overlaps b.acc
/-- The Mangle can move a warp's threads: no producer of the warp is pending, and what stays together is not parted: no uniform store of it is
buffered, which is an access of threads that may part (R30, R216), nor two lanes of one store with a byte in common that have not both left
(R202). DESIGN CHOICE, notes/assumptions/55.md. -/
def Warp.movable (w : Warp) : Bool :=
  w.pend.isEmpty && w.sb.all fun b => b.acc.lane != 32 && !(w.sb.any fun x => x.shares b && (x.sent.isNone || b.sent.isNone))

/-- A trailer as a site describes it, from the word that stands at its address (R49, R407). -/
def State.trailerAt (s : State) (cn : Nat) (w : Warp) (at_ : Pc) : Option (Pc × Bool × Bool) :=
  match s.fetchWord cn w at_ with
  | .ok x => if isTrailer x then some (at_, x.getLsbD 20, x.getLsbD 19) else none
  | .error _ => none
/-- What the thread of a member carries: the registers of the site of the trailer that its path has passed (R156), or, in a restoration at `at_`,
of the RCV's trailer before that address (R157). -/
def State.carry (s : State) (cn : Nat) (at_ : Option Pc) (m : Member) : Carried :=
  let q := (s.core cn).quad m.quad
  match q.warps.find m.warp with
  | none => { seat := m.seat, tid := 0, vx := 0, regs := [] }
  | some w =>
    { seat := m.seat
      tid := match w.tids.find? fun x => x.1 == m.lane with
        | some (_, t) => t
        | none => 0
      vx := (Sparse.get 0#32 q.rf (vxIdx w.ubase (m.lane / 4))).extractLsb' (8 * (m.lane % 4)) 8
      regs := (s.movedRows w (match at_ with
        | some pc => s.trailerAt cn w (pc - 4)
        | none => ((s.core cn).pathOf m.quad m.warp m.lane).bind (·.site))).map fun r =>
        (r, Sparse.get 0#32 q.rf ((w.base + r) * 32 + m.lane), (Sparse.get 0#32 w.undef r).getLsbD m.lane) }
/-- Where a thread goes: its member before the move, and its new quadrant, warp slot and lane. -/
abbrev Moves := List (Member × Nat × Nat × Nat)
def Moves.to (ms : Moves) (x : Nat × Nat) (l : Nat) : Option (Nat × Nat × Nat) :=
  (ms.find? fun m => m.1.quad == x.1 && m.1.warp == x.2 && m.1.lane == l).map (·.2)
/-- The buffered stores and the fences of a warp `y`, numbered `uid`, after a move, from those of a warp `x` before it (R192, R218, R230): a thread's follow it
to its new lane; those of an exited thread leave its lane (it stands at 64 + the lane from then on). -/
def Moves.stores (ms : Moves) (x y : Nat × Nat) (w : Warp) (uid : Nat) : List BufStore :=
  w.sb.filterMap fun b =>
    let stays (b : BufStore) : Option BufStore := if x = y then some b else none
    if 32 ≤ b.acc.lane then stays b
    else match ms.to x b.acc.lane with
      | some (qn, wn, l) => if (qn, wn) = y then some { b with acc := { b.acc with lane := l }, also := (uid, l) :: b.also } else none
      | none => stays (if w.tids.any fun t => t.1 == b.acc.lane then b else { b with acc := { b.acc with lane := 64 + b.acc.lane } })
def Moves.fences (ms : Moves) (x y : Nat × Nat) (w : Warp) : List FenceRec :=
  w.fences.filterMap fun f =>
    let moved := maskOf fun l => (lanesOf f.lanes).any fun o => ms.to x o == some (y.1, y.2, l)
    let kept := if x = y then maskOf fun l => f.lanes.getLsbD l && (ms.to x l).isNone && w.tids.any fun t => t.1 == l else 0#32
    let u := f.uniform && x == y
    if moved ||| kept = 0#32 ∧ u = false then none else some { f with lanes := moved ||| kept, uniform := u }
/-- Accesses of moved threads go with them. The access numbers of a crew's warps go on from the largest, so that a thread's later accesses
come after its earlier ones wherever it issues them. -/
def Core.moveAccesses (c : Core) (k : Crew) (ms : Moves) : Core :=
  let ws := k.warps.filterMap fun x => ((c.quad x.1).warps.find x.2).map fun w => (x, w)
  let seq := ws.foldl (fun n x => max n x.2.seq) 0
  ws.foldl (fun c y =>
    let w := { y.2 with seq := seq, sb := ws.flatMap fun x => ms.stores x.1 y.1 x.2 y.2.uid, fences := ws.flatMap fun x => ms.fences x.1 y.1 x.2 }
    c.setQuad y.1.1 ((c.quad y.1.1).setWarp y.1.2 w)) c
/-- Take a crew's threads out of a warp's lanes and paths. -/
def Warp.unseat (w : Warp) (crew : Nat) : Warp :=
  let mine := maskOf fun l => w.crewOf l == some crew
  let cut (p : Option Path) : Option Path := p.bind fun p =>
    if p.mask &&& ~~~mine = 0#32 then none else some { p with mask := p.mask &&& ~~~mine }
  { w with remap := w.remap.filter fun e => e.2.1 ≠ crew, tids := w.tids.filter fun t => !mine.getLsbD t.1
           div := { w.div with s0 := cut w.div.s0, s1 := cut w.div.s1 } }
/-- Put a carried thread into a lane of a warp. -/
def Core.seatThread (c : Core) (crew qn wn l : Nat) (x : Carried) : Core :=
  let q := c.quad qn
  match q.warps.find wn with
  | none => c
  | some w =>
    let b : Word := BitVec.ofNat 32 (2 ^ l)
    let rf := x.regs.foldl (fun rf r => Sparse.set 0#32 rf ((w.base + r.1) * 32 + l) r.2.1) q.rf
    let j := vxIdx w.ubase (l / 4)
    let rf := Sparse.set 0#32 rf j (setByte (Sparse.get 0#32 rf j) (l % 4) x.vx)
    let undef := x.regs.foldl (fun u r =>
      let m := Sparse.get 0#32 u r.1
      Sparse.set 0#32 u r.1 (if r.2.2 then m ||| b else m &&& ~~~b)) w.undef
    let w := { w with remap := w.remap ++ [(l, crew, x.seat)], tids := w.tids ++ [(l, x.tid)], undef := undef }
    let members (k : Crew) : Crew := { k with members := k.members.map fun m => if m.seat = x.seat then ⟨m.seat, qn, wn, l⟩ else m }
    { c.setQuad qn { q.setWarp wn w with rf := rf } with
      crews := match c.crews.find crew with
        | some k => c.crews.put crew (members k)
        | none => c.crews }

/-- Repack a crew: its threads, in the order given, go into the free lanes of its warps, 32 to a warp, with their accesses; each warp then
gets its paths, a full point and a progress counter of zero (R150, R155, R157, R308). `paths` says what a warp's slots become, given
the lanes that took threads of the first list and of the second; `at_` the point of a restoration. -/
def State.repack (s : State) (cn crew : Nat) (k : Crew) (at_ : Option Pc) (first second : List Member)
    (paths : Warp → Word → Word → Div) : State :=
  let compacted := at_.isNone
  let loads := (first ++ second).map (s.carry cn at_)
  let c := (k.warps).foldl (fun (c : Core) x =>
    match (c.quad x.1).warps.find x.2 with
    | some w => c.setQuad x.1 ((c.quad x.1).setWarp x.2 (w.unseat crew))
    | none => c) (s.core cn)
  let places := k.warps.flatMap fun x => match (c.quad x.1).warps.find x.2 with
    | some w => (lanes.filter fun l => !w.tids.any fun t => t.1 == l).map fun l => (x.1, x.2, l)
    | none => []
  let put := loads.zip places
  let c := c.moveAccesses k ((first ++ second).zip places)
  let c := put.foldl (fun c p => c.seatThread crew p.2.1 p.2.2.1 p.2.2.2 p.1) c
  let took (qn wn : Nat) (xs : List Member) : Word := maskOf fun l => put.any fun p =>
    p.2 == (qn, wn, l) && xs.any fun m => m.seat == p.1.seat
  let c := k.warps.foldl (fun (c : Core) x =>
    match (c.quad x.1).warps.find x.2 with
    | some w =>
      let w := { w with div := paths w (took x.1 x.2 first) (took x.1 x.2 second) }
      c.setQuad x.1 ((c.quad x.1).setWarp x.2 w.resetProgress.fullPoint)
    | none => c) c
  let c := match c.crews.find crew with
    | some k => { c with crews := c.crews.put crew { k with compacted := compacted } }
    | none => c
  k.warps.foldl (fun s x => s.settle cn x.1 x.2) (s.setCore cn c)

/-- The paths of a warp after a compaction (R155). -/
def compactPaths (target fall : Pc) (w : Warp) (t f : Word) : Div :=
  let p (pc : Pc) (m : Word) : Option Path := if m = 0#32 then none else some (freshPath pc m 0 false)
  if t = 0#32 then { w.div with s0 := p fall f, s1 := none } else { w.div with s0 := p target t, s1 := p fall f }
/-- The paths of a warp after a restoration (R157): slot 0 where no thread outside the crew holds it. -/
def restorePaths (pc : Pc) (depth : Nat) (w : Warp) (m : Word) : Div :=
  if m = 0#32 then w.div
  else w.div.setSlot (if w.div.s0.isNone then 0 else 1) (some (freshPath pc m depth false))

/-- The Mangle begins with a crew's warps: once they can be moved, `move`; before that, a full point on each, which lets the stores that
they hold be performed (R308, R309). -/
def State.whenMovable (s : State) (cn : Nat) (k : Crew) (move : State) : State :=
  if k.warps.all fun x => ((s.warp cn x.1 x.2).map Warp.movable).getD true then move
  else k.warps.foldl (fun s x => s.onWarp cn x.1 x.2 fun w => if w.rewind = .full then w else w.fullPoint) s
/-- The compaction of a crew, once every member waits at one BRC (R154, condition 5). -/
def State.compact (s : State) (cn crew : Nat) (k : Crew) : State :=
  let at_ (m : Member) : Option (Pc × Pc × Pc × Word) := ((s.core cn).pathOf m.quad m.warp m.lane).bind fun p => match p.wait with
    | .brc a t x => if p.em.getLsbD m.lane then some (a, t, p.pc, x) else none
    | _ => none
  match k.members.head?.bind at_ with
  | none => s
  | some (a, t, fall, _) =>
    if k.members.all fun m => match at_ m with
        | some (b, _) => b == a
        | none => false then
      let taken (m : Member) : Bool := match at_ m with
        | some (_, _, _, x) => x.getLsbD m.lane
        | none => false
      s.whenMovable cn k (s.repack cn crew k none (k.bySeat.filter taken) (k.bySeat.filter fun m => !taken m) (compactPaths t fall))
    else s
/-- The restoration of a crew's packing, once every member is parked at one point (R157). -/
def State.restoreCrew (s : State) (cn crew : Nat) (k : Crew) : State :=
  let at_ (m : Member) : Option Path := ((s.core cn).pathOf m.quad m.warp m.lane).bind fun p => if p.parked ∧ p.idle then some p else none
  match k.bySeat.head?.bind at_ with
  | none => if k.members.isEmpty then
      s.setCore cn { s.core cn with crews := (s.core cn).crews.put crew { k with compacted := false } } else s
  | some p =>
    if k.members.all fun m => match at_ m with
        | some q => q.pc == p.pc
        | none => false then
      s.whenMovable cn k (s.repack cn crew k (some p.pc) k.bySeat [] (fun w m _ => restorePaths p.pc p.depth w m))
    else s
/-- Whatever the Mangle can do for a crew now. -/
def State.mangle (s : State) (cn crew : Nat) : State :=
  match (s.core cn).crews.find crew with
  | none => s
  | some k => if k.compacted then s.restoreCrew cn crew k else s.compact cn crew k
/-- Whatever the Mangle can do for the crews of a warp now. -/
def State.mangleWarp (s : State) (cn qn wn : Nat) : State :=
  match s.warp cn qn wn with
  | none => s
  | some w => (w.remap.map (·.2.1)).eraseDups.foldl (fun s k => s.mangle cn k) s

/-- Another path of a crew on the core, one that holds a member of it, satisfies `p`. -/
def Core.crewPath (c : Core) (crew : Nat) (k : Crew) (qn wn kn : Nat) (p : Path → Bool) : Bool :=
  k.warps.any fun x => match (c.quad x.1).warps.find x.2 with
    | none => false
    | some w =>
      let of_ (n : Nat) (q : Path) : Bool := !(x == (qn, wn) && kn == n) && ((lanesOf q.mask).any fun l => w.crewOf l == some crew) && p q
      w.div.s0.any (of_ 0) || w.div.s1.any (of_ 1)
/-- The crew of every lane of EM, if they all have the same one. -/
def View.oneCrew (V : View) : Option (Nat × Crew) :=
  match (lowestLane V.em).bind V.w.crewOf with
  | none => none
  | some k => if (lanesOf V.em).all fun l => V.w.crewOf l == some k then (V.c.crews.find k).map fun x => (k, x) else none
/-- The conditions that a BRC checks when it arrives (R154, 1 to 4, and a member waiting at a BRC of another address). -/
def View.brcOk (V : View) : Bool :=
  V.p.depth == 0 && (V.w.div.slot (other V.kn)).isNone && V.w.div.n == 0 &&
    match V.oneCrew with
    | none => false
    | some (n, k) => !k.compacted && !V.c.crewPath n k V.qn V.wn V.kn fun q =>
      (match q.wait with
        | .brc a _ _ => a != V.p.pc
        | _ => false) ||
      (match q.ends with
        | .brc a _ _ => a != V.p.pc
        | _ => false)
/-- An RCV under a compaction of its crew, while a member is parked at another point, or has executed an RCV of another point (R157). -/
def View.rcvClash (V : View) : Bool :=
  (lanesOf V.em).any fun l => match V.w.crewOf l with
    | none => false
    | some k => match V.c.crews.find k with
      | none => false
      | some x => x.compacted && V.c.crewPath k x V.qn V.wn V.kn fun q =>
        (q.parked && q.run.isNone && q.pc != V.r.trailerAt + 4) ||
          (q.ends == .park && q.run.any fun r => r.trailerAt != V.r.trailerAt)

end Sys2Proof.Machine
end

