-- ==== Sys2Proof/Machine/Turns.lean ====
section
/-! DEFINITION. Turns and cycles: which quadrant of a core issues next in a CYCLE, when the CYCLE is over, and how far CYCLE may pass while nothing
can issue (R119, R121, R130, R171, R172, R270, R304, R367, R405). -/
namespace Sys2Proof.Machine

/-! ### What a quadrant can do in a CYCLE -/

/-- The ready warps of a quadrant in selection order (R119). -/
def State.candidates (s : State) (cn qn : Nat) (c : Core) : List (Nat × Warp) :=
  let q := c.quad qn
  ((List.range 16).map fun i => (q.last + 1 + i) % 16).filterMap fun n =>
    match q.warps.find n with
    | some w => if s.ready cn c q n w then some (n, w) else none
    | none => none
/-- A scratchpad producer whose value is visible from a CYCLE that has come (R172). -/
def Warp.shown (w : Warp) (cycle : Nat) : Option LongOp :=
  w.pend.find? fun o => o.at_ != 0 && decide (o.at_ ≤ cycle) && o.open_.isEmpty && o.due.isEmpty
/-- A quadrant has something to issue: a word that it holds, a ready warp, or a scratchpad value that becomes visible; `c` is its core, at the
CYCLE that is asked about. -/
def State.able (s : State) (cn qn : Nat) (c : Core) : Bool :=
  ((c.quad qn).sel.bind fun x => s.viewAt cn qn x.1 x.2).isSome || !(s.candidates cn qn c).isEmpty ||
    (c.quad qn).warps.any fun w => (w.2.shown c.cycle).isSome
/-- Some quadrant of a core has, now or in the next CYCLE. -/
def State.anyAble (s : State) (cn : Nat) (c : Core) : Bool := (List.range 4).any fun n => s.able cn n c
def Core.atNext (c : Core) : Core := { c with cycle := c.cycle + 1 }

/-! ### Presented scratchpad accesses (R171) -/

/-- A quadrant's presented access still stands. -/
def Quadrant.presents (q : Quadrant) (accepted : Bool) : Option Presented :=
  match q.presented with
  | none => none
  | some x =>
    if x.accepted == accepted && q.sel == some (x.warp, x.slot) && (match (q.warps.find x.warp).bind fun w => w.div.slot x.slot with
        | some p => p.pc == x.pc && p.run.isSome
        | none => false) then some x else none
/-- An access has been accepted and is not yet performed. -/
def Core.accepting (c : Core) : Bool := (List.range 4).any fun n => ((c.quad n).presents true).isSome
/-- The next CYCLE in which the scratchpad accepts an access, and the order of the quadrants then. -/
def Core.nextFree (c : Core) : Nat :=
  let t := max c.cycle c.scratchFree
  if t % 8 = 7 then t + 1 else t
def rotationAt (t : Nat) : List Nat := (List.range 4).map fun i => (t + i) % 4

/-! ### The turns of a CYCLE -/

/-- A quadrant has had its turn in this CYCLE; it has issued a word in it. -/
def Core.hadTurn (c : Core) (n : Nat) : Bool := (c.quad n).turn.any fun t => t.at_ == c.cycle
def Core.hasIssued (c : Core) (n : Nat) : Bool := (c.quad n).turn.any fun t => t.at_ == c.cycle && t.reason.isNone
/-- The quadrant that issues next in this CYCLE: one whose scratchpad access has been accepted; else the lowest that has something to issue, has
not had its turn, and above which none has issued, so that what they do takes effect in ascending order (R121, R130, R270). -/
def State.nextTurn (s : State) (cn : Nat) : Option Nat :=
  let c := s.core cn
  match (List.range 4).find? fun n => ((c.quad n).presents true).isSome with
  | some n => some n
  | none => (List.range 4).find? fun n => !c.hadTurn n && s.able cn n c && (List.range 4).all fun m => decide (m ≤ n) || !c.hasIssued m
/-- Every quadrant has had its turn, and the scratchpad accepts one of the accesses that they present in this CYCLE (R171). -/
def State.acceptDue (s : State) (cn : Nat) : Bool :=
  let c := s.core cn
  (s.nextTurn cn).isNone && !c.accepting && c.nextFree == c.cycle && (List.range 4).any fun n => ((c.quad n).presents false).isSome
/-- Nothing more can issue in this CYCLE. -/
def State.cycleOver (s : State) (cn : Nat) : Bool := (s.nextTurn cn).isNone && !s.acceptDue cn

/-! ### How far CYCLE may pass -/

/-- CYCLEs to come at which something is due on a core: a scratchpad value becomes visible, a nap ends, the matrix array ends a computation, the
sampler ticks. -/
def Core.scheduled (c : Core) : List Nat :=
  ((c.quads.flatMap fun q => q.2.warps.flatMap fun w =>
      ((w.2.pend.filter fun o => o.open_.isEmpty && o.due.isEmpty).map (·.at_)) ++ (match w.2.nap with
        | some (t, true) => if w.2.trap.halted then [] else [t]
        | _ => [])) ++
    (c.array.map (·.doneAt)).toList ++ if c.sampler.counts then [c.sampler.next] else []).filter fun t => decide (c.cycle < t)
/-- CYCLE may pass to `n` at once: no quadrant has anything to issue before, no tick of the sampler is due, nothing is due in between. -/
def State.mayPass (s : State) (cn n : Nat) : Bool :=
  let c := s.core cn
  !s.anyAble cn c && (decide (n ≤ c.cycle + 1) || !s.anyAble cn c.atNext) && !c.tickBy c.cycle && c.scheduled.all fun t => decide (n ≤ t)
/-- A CYCLE has come, or may pass. -/
def State.comes (s : State) (cn n : Nat) : Bool := decide (n ≤ (s.core cn).cycle) || s.mayPass cn n
/-- The turn of the focus core: the focus goes to the quadrant that issues next; where every quadrant has had its turn, and neither an acceptance
nor a tick of the sampler is due, CYCLE passes first. -/
def State.toTurn (s : State) : State :=
  let cn := s.focusCore
  match s.nextTurn cn with
  | some n => { s with focusQuad := n }
  | none =>
    if s.acceptDue cn || (s.core cn).tickBy (s.core cn).cycle || !(s.anyAble cn (s.core cn) || s.anyAble cn (s.core cn).atNext) then s
    else
      let s := s.passTo cn ((s.core cn).cycle + 1)
      match s.nextTurn cn with
      | some n => { s with focusQuad := n }
      | none => s
/-- A quadrant goes on by itself: it can issue in this CYCLE or the next, or waits for its pipe, a bubble or the scratchpad; not for an event. -/
def State.keen (s : State) (cn : Nat) (c : Core) (n : Nat) : Bool :=
  match (c.quad n).sel.bind fun x => s.viewAt cn n x.1 x.2 with
  | some V => (match V.p.wait with
      | .held r => r == 3 || r == 14 || ((c.quad n).presents false).isSome
      | .lrel _ => false
      | .tchk _ => false
      | .pgtake _ => false
      | _ => true)
  | none => s.able cn n c || s.able cn n c.atNext

end Sys2Proof.Machine
end

