-- ==== Sys2Proof/Machine/Access.lean ====
section
/-! DEFINITION. Memory accesses (R189-R192, R202, R209-R214, R220-R222, R230, R235, R309, R310, R339): issue, the order in which
the accesses of a thread are bound and performed, and the completion of a long-latency producer (R30). -/
namespace Sys2Proof.Machine

/-- What a memory word asks for: bytes per lane, page permission, the pending producer it becomes (none for a store), the
ordering of a store, destination registers, and data registers captured at issue. -/
structure MemForm where
  width : Nat
  need : Need
  op : Option LongKind
  store : StKind
  dest : Nat
  regs : Nat
  deriving DecidableEq, Repr
def MemForm.load (width dest : Nat) (signed : Bool) (k : LdKind) : MemForm :=
  { width := width, need := .read, op := some (.load signed k), store := .plain, dest := dest, regs := 0 }
def MemForm.ofStore (width regs : Nat) (k : StKind) : MemForm :=
  { width := width, need := .write, op := none, store := k, dest := 0, regs := regs }
def MemForm.atomic (width dest regs : Nat) (op : AtOp) : MemForm :=
  { width := width, need := .atomic, op := some (.atomic op), store := .plain, dest := dest, regs := regs }
def MemForm.line (need : Need) (k : LongKind) : MemForm :=
  { width := 1, need := need, op := some k, store := .plain, dest := 0, regs := 0 }
/-- The form reads, and writes, memory. -/
def MemForm.reads (f : MemForm) : Bool := match f.op with
  | some k => k.reads
  | none => false
def MemForm.writes (f : MemForm) : Bool := match f.op with
  | some k => k.writes
  | none => true

/-- The lane addresses of an LL word (R209), ascending by lane. -/
def View.laneVas (V : View) (a : BitVec 7) (k : BitVec 3) : List (Nat × Dword) :=
  let off : Dword := if k = 0#3 then 0#64 else (V.uni k.toNat).signExtend 64
  (lanesOf V.em).map fun l => (l, V.lane64 a.toNat l + off)
/-- The address of a UL word (R214): the even pair plus the scaled immediate; lane 32 stands for the uniform stream. -/
def View.uniVas (V : View) (a : BitVec 6) (i : BitVec 5) (width : Nat) : List (Nat × Dword) :=
  [(32, V.uni64 a.toNat + BitVec.ofNat 64 (i.toNat * width))]
/-- The lanes for which some of a word's addresses stand: EM for the uniform stream. -/
def View.who (V : View) (ls : List (Nat × Dword)) : Word :=
  maskOf fun l => ls.any fun x => x.1 == l || (x.1 == 32 && V.em.getLsbD l)

/-! ### Places -/

/-- The cores that an access to a place reaches as a broadcast (R256). -/
def State.reachOf (s : State) : Loc → List Nat
  | .bcast g _ => s.groupMembers g
  | _ => []
/-- An access touches a line of memory. -/
def LaneAcc.onLine (a : LaneAcc) (line : Nat) : Bool := match a.loc with
  | .mem pa => lineOf pa == line
  | _ => false
/-- Two accesses reach one target core's window (R189): each by itself, or as a broadcast. -/
def LaneAcc.sameTarget (a b : LaneAcc) : Bool :=
  match a.loc, b.loc with
  | .window c _, .window d _ => c == d
  | .bcast c _, .bcast d _ => c == d || a.reach.any b.reach.contains
  | .bcast _ _, .window d _ => a.reach.contains d
  | .window c _, .bcast _ _ => b.reach.contains c
  | _, _ => false
/-- The 128-byte sector of an access. -/
def LaneAcc.sector (a : LaneAcc) : Loc :=
  match a.loc with
  | .mem x => .mem (x / 128)
  | .window c x => .window c (x / 128)
  | .bcast g x => .bcast g (x / 128)
  | .scratch c x => .scratch c (x / 128)
/-- Two accesses belong to one thread (R216); `p` and `q` are the lanes that their uniform accesses stand for. -/
def LaneAcc.sameThread (a b : LaneAcc) (p q : Word) : Bool :=
  if a.lane = 32 then b.lane == 32 || p.getLsbD b.lane
  else if b.lane = 32 then q.getLsbD a.lane else a.lane == b.lane

/-! ### Fences (R230) -/

/-- A fence of a scope on core `cn` waits for an access to a place. -/
def fenceSees (cn scope : Nat) (write : Bool) : Loc → Bool
  | .mem pa => !(isHost pa && write && decide (scope < 5))
  | .window c _ => c == cn || decide (1 < scope)
  | .bcast _ _ => true
  | .scratch _ _ => true
/-- A store that a fence of a scope on core `cn` may wait for: at crew and core scope, of a broadcast, only its copy at that core (R230,
R256), until it has landed. -/
def State.nearStore (s : State) (cn scope : Nat) (b : BufStore) : Bool :=
  match b.acc.loc with
  | .bcast _ _ => decide (1 < scope) || (b.acc.reach.contains cn &&
      (b.sent.isNone || s.deliveries.any fun d => d.tag == .store b.uid b.seq b.orig && d.target == cn))
  | _ => true
/-- A warp with the buffered stores alone that a fence of a scope may wait for. -/
def View.nearWarp (V : View) (scope : Nat) : Warp := { V.w with sb := V.w.sb.filter (V.s.nearStore V.cn scope) }
/-- The fences of a warp that a later access of some lanes waits on. -/
def View.fencesOf (V : View) (ls : Word) (uni write : Bool) : List FenceRec :=
  V.w.fences.filter fun f => (write || f.laterReads) &&
    (V.nearWarp f.scope).outstanding (f.lanes &&& ls) (f.uniform && uni) f.seq true f.writes (fenceSees V.cn f.scope)
/-- Some of those waits need a held store (R310): one that the fence waits for. -/
def View.fenceHeld (V : View) (ls : Word) (uni : Bool) (fs : List FenceRec) : Bool :=
  fs.any fun f => f.writes && (V.nearWarp f.scope).sb.any fun b => b.held && decide (b.seq < f.seq) &&
    b.acc.of b.lanes (f.lanes &&& ls) (f.uniform && uni) && fenceSees V.cn f.scope true b.acc.loc
/-- An access that a fence orders waits at issue with reason 5; a wait for a held store ends the hold. -/
def View.fenced (V : View) (ls : Word) (uni write : Bool) (eff : View → State) : State :=
  match V.fencesOf ls uni write with
  | [] => eff V
  | fs => { V with w := if V.fenceHeld ls uni fs then V.w.fullPoint else V.w }.hold 5

/-! ### The order within a thread (R189, R192, R218, R220, R222) -/

/-- An access about to be bound or performed. -/
structure Ask where
  seq : Nat
  lanes : Word
  acc : LaneAcc
  writes : Bool
  acquires : Bool
  releases : Bool
  volatile : Bool
  forwards : Bool
  deriving DecidableEq, Repr
def LongKind.volatile : LongKind → Bool
  | .load _ .volatile => true
  | _ => false
/-- What a producer of a kind asks for one lane's access; a WBL or DISC acts on the whole line. -/
def LongKind.ask (k : LongKind) (seq : Nat) (ls : Word) (a : LaneAcc) : Ask :=
  let whole := match a.loc with
    | .mem pa => { a with loc := .mem (256 * lineOf pa), width := 256 }
    | _ => a
  { seq := seq, lanes := ls, writes := k.writes, acquires := k.acquires, releases := false, volatile := k.volatile
    acc := match k with
      | .wbl => whole
      | .disc => whole
      | _ => a
    forwards := match k with
      | .load _ .volatile => false
      | .load _ _ => true
      | _ => false }
/-- What a pending producer asks for one of its lanes. -/
def LongOp.ask (o : LongOp) (a : LaneAcc) : Ask := o.kind.ask o.seq o.lanes a
/-- What a buffered store asks. -/
def BufStore.ask (b : BufStore) : Ask :=
  { seq := b.seq, lanes := b.lanes, acc := b.acc, writes := true, acquires := false, releases := b.kind == .release
    volatile := b.kind == .volatile, forwards := false }
/-- A load may be forwarded a store's bytes: both are to memory, or both to windows, and the store is still in the buffer (R192). A volatile
store's bytes are forwarded to a plain load, a volatile load takes none (R192, R211; DESIGN CHOICE, notes/assumptions/76.md). -/
def Ask.forwardable (y : Ask) (b : BufStore) : Bool :=
  y.forwards && b.sent.isNone && b.acc.overlaps y.acc && match b.acc.loc, y.acc.loc with
    | .mem _, .mem _ => true
    | .window _ _, .window _ _ => true
    | _, _ => false
/-- An access waits for an earlier store of its thread to be performed. -/
def Ask.needs (y : Ask) (b : BufStore) : Bool :=
  b.acc.sameThread y.acc b.lanes y.lanes &&
    (y.releases || (b.kind == .release && y.acquires) || (b.kind == .volatile && y.volatile) ||
     ((b.acc.overlaps y.acc || b.acc.sameTarget y.acc) && !y.forwardable b))
/-- A pending producer orders a later access behind one of its own. An ARWAIT acquires only when it completes (R401): while it waits it orders
a release, and a write of its own bytes, alone. -/
def LongOp.orders (o : LongOp) (a : LaneAcc) (y : Ask) : Bool :=
  let meets := (o.ask a).acc.overlaps y.acc
  if o.kind = .arwait then y.releases || (y.writes && meets)
  else (o.kind.reads && y.writes) || o.kind.acquires || (o.kind.volatile && y.volatile) ||
    ((o.kind.reads || o.kind.writes) && (y.releases || meets || a.sameTarget y.acc))
/-- An earlier access of the same thread must be bound or performed first; one that has failed stands in no one's way (R31). -/
def Warp.blocked (w : Warp) (y : Ask) : Bool :=
  (w.pend.any fun o => decide (o.seq < y.seq) && o.tries.any fun a => a.sameThread y.acc o.lanes y.lanes && o.orders a y) ||
  w.sb.any fun b => decide (b.seq < y.seq) && !b.lost && y.needs b
/-- An earlier load that acquires is not bound yet: nothing later of its thread reads a cache or posts a message before it is (R404). -/
def Warp.awaitsAcquire (w : Warp) (y : Ask) : Bool :=
  w.pend.any fun o => decide (o.seq < y.seq) && o.kind != .arwait && o.kind.acquires &&
    o.tries.any fun a => a.sameThread y.acc o.lanes y.lanes

/-! ### Store buffer and forwarding (R192) -/

/-- The place of byte i of an access. -/
def LaneAcc.byte (a : LaneAcc) (i : Nat) : LaneAcc :=
  { a with width := 1, loc := match a.loc with
    | .mem x => .mem (x + i)
    | .window c x => .window c (x + i)
    | .bcast g x => .bcast g (x + i)
    | .scratch c x => .scratch c (x + i) }
/-- The buffered byte that a store holds for a one-byte access that it covers. -/
def BufStore.byteFor (b : BufStore) (a : LaneAcc) : Byte :=
  let off := match b.acc.loc, a.loc with
    | .mem x, .mem y => y - x
    | .window _ x, .window _ y => y - x
    | .bcast _ x, .bcast _ y => y - x
    | .scratch _ x, .scratch _ y => y - x
    | _, _ => 0
  BitVec.ofNat 8 (b.acc.data.toNat / 256 ^ off)
/-- The newest buffered store before an access that covers a byte, among those whose bytes it may be forwarded: a lane takes its
own stores and uniform stores that have not left the buffer; the uniform stream every store, to see which is newest. -/
def Warp.newest (w : Warp) (seq : Nat) (a : LaneAcc) : Option BufStore :=
  (w.sb.filter fun b => decide (b.seq < seq) && b.acc.overlaps a &&
    (a.lane == 32 || (b.sent.isNone && (b.acc.lane == a.lane || b.acc.lane == 32)))).getLast?
/-- A uniform load must wait for a lane store: a byte's newest buffered store is a lane's (R192). -/
def Warp.laneStoreNewer (w : Warp) (seq : Nat) (a : LaneAcc) : Bool :=
  a.lane == 32 && (List.range a.width).any fun i => match w.newest seq (a.byte i) with
    | some b => b.acc.lane != 32
    | none => false
/-- The value of a load: byte by byte from the newest buffered store that covers it, else from what memory gives. -/
def Warp.loaded (w : Warp) (seq : Nat) (a : LaneAcc) (mem : List Byte) : Nat :=
  leNat ((List.range a.width).map fun i => match w.newest seq (a.byte i) with
    | some b => b.byteFor (a.byte i)
    | none => mem.getD i 0#8)
/-- Every byte of a load is forwarded. -/
def Warp.allForwarded (w : Warp) (seq : Nat) (a : LaneAcc) : Bool :=
  (List.range a.width).all fun i => (w.newest seq (a.byte i)).isSome

/-- Add the stores of a word to the buffer: held while the rewind point is a flash point; a seventeenth sector, or a release that
waits for a held store, sets a full point (R309, R310). -/
def Warp.buffer (w : Warp) (pc : Pc) (ls : Word) (accs : List LaneAcc) (k : StKind) : Warp :=
  let held := w.rewind != .full
  let new := accs.map fun a =>
    ({ seq := w.seq, pc := pc, lanes := ls, acc := a, kind := k, held := held, uid := w.uid, orig := a.lane } : BufStore)
  let sectors := ((w.sb.filter (·.held) ++ new).map fun b => b.acc.sector).eraseDups
  let ends := (held && decide (16 < sectors.length)) ||
    (k == .release && w.sb.any fun b => b.held && accs.any fun a => b.acc.sameThread a b.lanes ls)
  let w := { w with sb := w.sb ++ new }
  if ends then w.fullPoint else w

/-! ### Watchpoints (R339, R362) -/

/-- The watchpoint comparators that a lane's access matches. -/
def View.watching (V : View) (va : Dword) (width : Nat) (reads writes : Bool) : List Nat :=
  (List.range 64).filter fun i => match V.c.wps.find i with
    | none => false
    | some x => x.ctl.getLsbD 12 && x.ctl.extractLsb' 0 12 == BitVec.ofNat 12 V.w.ctx && !V.w.mgmt &&
        ((reads && x.ctl.getLsbD 13) || (writes && x.ctl.getLsbD 14)) &&
        decide (va.toNat < x.va.toNat + x.len.toNat) && decide (x.va.toNat < va.toNat + width)
/-- Gather the matches of accesses that complete. -/
def View.watch (V : View) (f : MemForm) (accs : List LaneAcc) : View :=
  let hits := accs.flatMap fun a => (V.watching a.va f.width f.reads f.writes).flatMap fun i =>
    (if a.lane = 32 then (if V.em = 0#32 then [32] else lanesOf V.em) else [a.lane]).map fun l =>
      ({ comparator := i, lane := l, va := a.va, epc := pcVa V.p.pc, slot := V.kn } : WatchHit)
  { V with w := { V.w with trap := { V.w.trap with watch := V.w.trap.watch ++ hits } } }

/-! ### Issue -/

/-- The producer that a word becomes, its window one word longer until the word itself has issued (R28). -/
def View.producer (V : View) (k : LongKind) (ds : List Nat) (la : Nat) (uniform : Bool) (ls : Word) (accs : List LaneAcc) : LongOp :=
  { seq := V.w.seq, pc := V.p.pc, slot := V.kn, window := la + 1, uniform := uniform, dest := ds, kind := k, lanes := ls
    accs := accs, vals := [], posted := false, at_ := 0 }
/-- A producer without accesses opens its window alone (R28, R29). -/
def View.windowOnly (V : View) (k : LongKind) (ds : List Nat) (la : Nat) : View :=
  { V with w := { V.w with seq := V.w.seq + 1, shadow := V.w.shadow ++ [V.producer k ds la false 0#32 []] } }
/-- The lanes that pass complete (R235): the producer becomes pending, or the stores enter the buffer; the translations used are cached,
and watchpoint matches gathered. -/
def View.complete (V : View) (f : MemForm) (dest la : Nat) (uniform : Bool) (accs : List LaneAcc) : View :=
  if accs.isEmpty then V
  else
    let ls := if uniform then V.em else maskOf fun l => accs.any fun a => a.lane == l
    let ds := (List.range f.dest).map (dest + ·)
    let V := { V with s := if V.w.mgmt then V.s else accs.foldl (fun (s : State) (a : LaneAcc) => s.tlbFill V.cn V.w.ctx a.va.toNat) V.s }
    let V := V.watch f accs
    let V := if uniform then ds.foldl View.noteUni V
      else ({ ds.foldl View.noteLane ({ V with em := ls } : View) with em := V.em } : View)
    let w : Warp := match f.op with
      | some k => { V.w with pend := V.w.pend ++ [V.producer k ds la uniform ls accs] }
      | none => V.w.buffer V.p.pc ls accs f.store
    { V with w := { w with seq := V.w.seq + 1 } }

/-- A word that must wait for a held store to be performed ends the hold at itself (R189, R192, R310). -/
def View.endsHold (V : View) (f : MemForm) (ls : Word) (accs : List LaneAcc) : Bool :=
  match f.op with
  | none => false
  | some k => accs.any fun a =>
    (V.w.laneStoreNewer V.w.seq a && V.w.sb.any fun b => b.held && b.acc.lane != 32 && b.acc.overlaps a) ||
      V.w.sb.any fun b => b.held && (k.ask V.w.seq ls a).needs b

/-- A memory word (R209, R214, R230, R235, R243): room in the scoreboard; the address checks, which stop every lane; fences; then
each lane's translation. Lanes that pass complete; lanes that meet a migrating page wait while it is pulled; then failing lanes
trap. R31 lets a fault come after words of the window; here it comes at issue, before them (DESIGN CHOICE, notes/assumptions/56.md). -/
def View.memory (V : View) (i : Info) (f : MemForm) (dest la : Nat) (uniform : Bool) (vas : List (Nat × Dword)) : State :=
  let bent := vas.filter fun x => !V.w.mgmt && !canonical x.2
  let askew := vas.filter fun x => x.2.toNat % f.width != 0
  if 32 < V.w.pendingCount + f.dest then V.breakRun (.score [] [] f.dest)
  else match bent with
  | x :: _ => V.fault 0x040 x.2 (V.who bent)
  | [] => match askew with
  | x :: _ => V.fault 0x041 x.2 (V.who askew)
  | [] => V.fenced (V.who vas) uniform f.writes fun V =>
    let xs : List ((Nat × Dword) × Xlate) := vas.map fun x => (x, V.s.translate V.cn V.w.mgmt V.w.ctx f.need x.2.toNat)
    let accs := xs.filterMap fun x => match x.2 with
      | .ok loc => some { lane := x.1.1, va := x.1.2, loc := loc, width := f.width, reach := V.s.reachOf loc
                          data := if uniform then V.uniN dest f.regs else V.laneN dest f.regs x.1.1 }
      | _ => none
    let moving : List (Nat × Dword) := xs.filterMap fun x => if x.2 == .migrating then some x.1 else none
    let bad : List ((Nat × Dword) × Nat) := xs.filterMap fun x => match x.2 with
      | .fault c => some (x.1, c)
      | _ => none
    let W := V.complete f dest la uniform accs
    let W := if V.endsHold f (V.who vas) accs then { W with w := W.w.fullPoint } else W
    let W := match vas, f.op with
      | [], some k => W.windowOnly k ((List.range f.dest).map (dest + ·)) la
      | _, _ => W
    match moving, bad with
    | [], [] => W.retire i
    | _ :: _, _ =>
      let W := { W with s := moving.foldl (fun (s : State) (x : Nat × Dword) => s.startPull V.w.ctx x.2.toNat) W.s }
      if accs.isEmpty then W.hold 11
      else { W with p := { W.p with replay := some (V.who (moving ++ bad.map fun (y : (Nat × Dword) × Nat) => y.1)) }
                    w := if i.rc then W.w.fullPoint else W.w }.hold 11
    | [], x :: _ =>
      { W with w := if i.rc && !accs.isEmpty then W.w.fullPoint else W.w }.laneFault
        ((firstCause (bad.map fun (y : (Nat × Dword) × Nat) => y.2)).getD 0) x.1.2 (V.who (bad.map fun (y : (Nat × Dword) × Nat) => y.1))

/-- A lane word and a uniform word. -/
def View.laneMem (V : View) (i : Info) (f : MemForm) (d a : BitVec 7) (l : BitVec 4) (k : BitVec 3) : State :=
  V.memory i f d.toNat l.toNat false (V.laneVas a k)
def View.uniMem (V : View) (i : Info) (f : MemForm) (d a : BitVec 6) (l : BitVec 4) (n : BitVec 5) : State :=
  V.memory i f d.toNat l.toNat true (V.uniVas a n f.width)
/-- PREF (R213): a lane that fails any check is dropped. -/
def View.prefetch (V : View) (i : Info) (a : BitVec 7) (l : BitVec 4) (k : BitVec 3) : State :=
  let accs := (V.laneVas a k).filterMap fun x =>
    if canonical x.2 = false ∧ V.w.mgmt = false then none
    else match V.s.translate V.cn V.w.mgmt V.w.ctx .read x.2.toNat with
      | .ok (.mem pa) => some { lane := x.1, va := x.2, loc := .mem pa, width := 1, data := 0 }
      | _ => none
  (V.complete (MemForm.line .read .pref) 0 l.toNat false accs).retire i
/-- A fence (R230): an access number that divides earlier accesses from later ones. Fences that order nothing more are forgotten. -/
def View.fence (V : View) (writes laterReads uniform : Bool) (n : BitVec 3) : View :=
  let live := V.w.fences.filter fun f => V.w.outstanding f.lanes f.uniform f.seq true f.writes everywhere
  if V.em = 0#32 ∧ !uniform then V
  else { V with w := { V.w with fences := live ++ [⟨V.w.seq, V.em, uniform, writes, laterReads, n.toNat⟩] } }

/-! ### Binding and performing -/

/-- The new value of an atomic (R212): W the stored value, D and E the captured data. -/
def AtOp.apply (op : AtOp) (n W D E : Nat) : Nat :=
  let int (x : Nat) : Int := (BitVec.ofNat n x).toInt
  match op with
  | .add => (W + D) % 2 ^ n
  | .minS => if int W ≤ int D then W else D
  | .maxS => if int D ≤ int W then W else D
  | .minZ => min W D
  | .maxZ => max W D
  | .and => W &&& D
  | .or => W ||| D
  | .xor => W ^^^ D
  | .xchg => D
  | .cas => if W = D then E else W
  | .incw => if D ≤ W then 0 else W + 1
/-- A loaded value as the destination holds it (R210). -/
def extended (signed : Bool) (width x : Nat) : BitVec 128 :=
  if signed then ((BitVec.ofNat (8 * width) x).signExtend 32).setWidth 128 else BitVec.ofNat 128 x
/-- The master of a warp's window accesses (R242). -/
def Warp.master (w : Warp) : Option Nat := if w.mgmt then none else some w.ctx

/-- The value that a load takes, given the bytes that its place holds: forwarded byte by byte unless it is volatile (R192, R210). -/
def LongOp.loadValue (o : LongOp) (w : Warp) (a : LaneAcc) (bs : List Byte) : BitVec 128 :=
  let signed := match o.kind with
    | .load signed _ => signed
    | _ => false
  extended signed a.width (if o.kind.volatile then leNat bs else w.loaded o.seq a bs)
/-- A load may be bound now, as far as earlier accesses go (R192, R218, R220). -/
def Warp.mayLoad (w : Warp) (o : LongOp) (a : LaneAcc) : Bool := !w.blocked (o.ask a) && !w.laneStoreNewer o.seq a
/-- Bind a load of a producer to the value that a line holds now, its data still on the way. -/
def State.bindAwaited (s : State) (w : Warp) (o : LongOp) (line : Nat) : LongOp :=
  match o.kind with
  | .load _ _ => o.tries.foldl (fun o' a =>
      match a.loc with
      | .mem pa => if lineOf pa = line ∧ w.mayLoad o a then
          { o' with vals := o'.vals ++ [(a.lane, o.loadValue w a (s.memBytes pa a.width))], due := (o'.due ++ [line]).eraseDups } else o'
      | _ => o') o
  | _ => o
/-- A field is about to lose, to a message, or to write a line whose data has not come: the loads that wait for that data take the value that
the line has now, as at the ordering point of their GetS, which is what the data will bring (R200, R208, R404). -/
def State.bindLost (s : State) (f line : Nat) : State :=
  if ((s.field f).line line).any L2Line.awaiting then
    { s.allWarps.foldl (fun s x =>
        if fieldOf x.1 ≠ f then s
        else s.onWarp x.1 x.2.1 x.2.2.1 fun w => { w with pend := w.pend.map fun o => s.bindAwaited w o line }) s with fresh := s.fresh + 1 }
  else s
/-- A store or atomic of a core is performed at the L2 of its field (R202). -/
def State.performAt (s : State) (cn pa : Nat) (bs : List Byte) : State :=
  (s.bindLost (fieldOf cn) (lineOf pa)).writeLine (fieldOf cn) (some cn) pa bs
/-- A cacheable access by its kind goes past the L1: volatile loads do, and so does a management core, which has no L1 of a cluster. -/
def Warp.pastL1 (w : Warp) (k : LongKind) : Bool := w.mgmt || k.volatile
/-- A read of a line by a core: from its L1 where the sector is there; else past the reverse map to the L2, which gives it, filling the L1,
or asks for it (R190, R191, R193). -/
def State.readLine (s : State) (cn : Nat) (w : Warp) (k : LongKind) (a : LaneAcc) (pa : Nat) : State × Bool :=
  let f := fieldOf cn
  let va := a.va.toNat
  if !w.pastL1 k && (s.core cn).l1Hit w.ctx va then (s.touchL1 cn w.ctx va, true)
  else
    let s := if w.pastL1 k then s else s.passMap cn w.ctx va pa
    if s.readable f (lineOf pa) then
      let s := s.touchL2 f (lineOf pa)
      (if w.pastL1 k then s else s.l1Fill cn w.ctx va pa, true)
    else (s.request cn (lineOf pa) w.ctx false, false)
/-- The messages that a core has sent to another's window and that have not been performed there, by their draws: stores that have left, and
segments of the Ladle (R384). -/
def State.messagesTo (s : State) (cn c : Nat) : List Nat :=
  let c' := s.core cn
  (c'.warps.flatMap fun x => x.2.2.sb.filterMap fun b => match b.acc.loc with
    | .window t _ => if t = c ∧ b.lost = false then b.sent else none
    | _ => none) ++
  c'.kicks.flatMap fun k => k.runs.flatMap fun r => r.segs.filterMap fun g =>
    if !g.landed && g.dsts.any (fun x => match x.1 with
      | .window t _ => t == c
      | _ => false) then some g.sent else none
/-- A message from a core to another, sent at a draw, would be delivered before one sent earlier (R384). -/
def State.overtakes (s : State) (cn c draw : Nat) : Bool := cn != c && (s.messagesTo cn c).any fun d => decide (d < draw)
/-- A pair of cores is being drained, since its path changes: new messages are held at the source (R384). -/
def State.pairHeld (s : State) (cn c : Nat) : Bool := cn != c && s.health.rerouting.any fun link => Config.reroutes link cn c
/-- Try to bind or perform one lane of a pending producer: the value it gives, or nothing yet, with a request posted for a line that
is not there; and the line whose data it must wait for, though its value is fixed (R200, R202). -/
def State.bindLane (s : State) (cn : Nat) (w : Warp) (o : LongOp) (a : LaneAcc) : State × Option (BitVec 128 × List Nat) :=
  let f := fieldOf cn
  match o.kind with
  | .load _ _ =>
    if !w.mayLoad o a then (s, none)
    else
      match a.loc with
      | .mem pa =>
        if !o.kind.volatile && w.allForwarded o.seq a then (s, some (o.loadValue w a [], []))
        else match s.readLine cn w o.kind a pa with
          | (s, true) => (s, some (o.loadValue w a (s.memBytes pa a.width), []))
          | (s, false) => (s, none)
      | .window c off =>
        if s.overtakes cn c s.fresh || s.pairHeld cn c then (s, none) else (s, some (o.loadValue w a (s.windowBytes c off a.width w.master), []))
      | .bcast _ _ => (s, none)
      | .scratch _ _ => (s, none)
  | .atomic op =>
    let lower := o.tries.any fun b => decide (b.lane < a.lane) && b.overlaps a
    match a.loc with
    | .mem pa =>
      if w.blocked (o.ask a) || lower then (s, none)
      else if s.writable f (lineOf pa) then
        let x := s.memNat pa a.width
        let n := 8 * a.width
        let y := op.apply n x (a.data.toNat % 2 ^ n) (a.data.toNat / 2 ^ n % 2 ^ n)
        (s.performAt cn pa (toLe y a.width), some (BitVec.ofNat 128 x, if s.readable f (lineOf pa) then [] else [lineOf pa]))
      else (s.request cn (lineOf pa) w.ctx true, none)
    | _ => (s, none)
  | .arwait =>
    match a.loc with
    | .scratch c x =>
      let g : Word := BitVec.ofNat 32 (leNat ((List.range 4).map fun i => (s.core c).scratchByte s.fresh (x + 8 + i)))
      let d := (g - a.data.setWidth 32).toNat
      if 1 ≤ d ∧ d ≤ 2 ^ 31 then (s, some (g.setWidth 128, [])) else (s, none)
    | _ => (s, none)
  | .pref =>
    if w.awaitsAcquire (o.ask a) then (s, none)
    else match a.loc with
    | .mem pa => match s.readLine cn w o.kind a pa with
      | (s, true) => (s, some (0, []))
      | (s, false) => (s, none)
    | _ => (s, some (0, []))
  | _ => (s, none)

/-- The lines of a WBL or DISC. -/
def LongOp.linesOf (o : LongOp) : List Nat :=
  (o.accs.filterMap fun a => match a.loc with
    | .mem pa => some (lineOf pa)
    | _ => none).eraseDups
/-- A WBL or DISC posts its messages once the thread's own earlier accesses to the lines are done (R213, R218). -/
def State.postLines (s : State) (cn : Nat) (w : Warp) (o : LongOp) : State × LongOp :=
  let waits := o.accs.any fun a => match o.kind, a.loc with
    | .wbl, .mem _ => w.awaitsAcquire (o.ask a) || w.sb.any fun b => decide (b.seq < o.seq) && (o.ask a).needs b
    | _, _ => w.blocked (o.ask a)
  if o.posted || waits then (s, o)
  else
    (o.linesOf.foldl (fun s line =>
      s.post (clusterOf cn) ⟨if o.kind = .wbl then .clean else .disc, line, w.ctx, some (w.uid, o.seq)⟩) s, { o with posted := true })
/-- A message of a WBL or DISC still waits for its ordering point. -/
def State.stillPosted (s : State) (cn : Nat) (w : Warp) (o : LongOp) : Bool :=
  (s.cluster (clusterOf cn)).buses.any fun b => b.2.any fun m => m.who == some (w.uid, o.seq)

/-- Write a completed producer's values into its destination (R30). -/
def Quadrant.writeBack (q : Quadrant) (w : Warp) (o : LongOp) : Quadrant :=
  let word (x : BitVec 128) (j : Nat) : Word := x.extractLsb' (32 * j) 32
  let at_ (r lane : Nat) : Nat := if o.uniform then w.ubase * 32 + r else (w.base + r) * 32 + lane
  { q with rf := o.vals.foldl (fun rf v =>
      ((List.range o.dest.length).zip o.dest).foldl (fun rf d => Sparse.set 0#32 rf (at_ d.2 v.1) (word v.2 d.1)) rf) q.rf }
/-- Bind what can be bound of a producer. -/
def State.bindAll (s : State) (cn : Nat) (w : Warp) (o : LongOp) : State × LongOp :=
  o.tries.foldl (fun (p : State × LongOp) a =>
    let w := { w with pend := w.pend.map fun x => if x.seq = o.seq then p.2 else x }
    match p.1.bindLane cn w p.2 a with
    | (s, some v) => (s, { p.2 with vals := p.2.vals ++ [(a.lane, v.1)], due := (p.2.due ++ v.2).eraseDups })
    | (s, none) => (s, p.2)) (s, o)
/-- A producer advances as far as it can, and completes when every lane has its value and the data of every line has come: its entries
leave the scoreboard. Completion is never before its CYCLE, nor does CYCLE pass to it while a quadrant has something to issue. -/
def State.advanceOp (s : State) (cn qn wn : Nat) (o : LongOp) : State :=
  match s.warp cn qn wn with
  | none => s
  | some w =>
    let (s, o') := match o.kind with
      | .wbl => s.postLines cn w o
      | .disc => s.postLines cn w o
      | _ => s.bindAll cn w o
    let s := { s with fresh := s.fresh + 1 }
    let done := match o.kind with
      | .wbl => o'.posted && !s.stillPosted cn w o'
      | .disc => o'.posted && !s.stillPosted cn w o'
      | _ => o'.open_.isEmpty && o'.due.isEmpty
    match s.warp cn qn wn with
    | none => s
    | some w =>
      if done && s.comes cn o.at_ then
        let w' := w.dropOp o
        let s := if (s.core cn).cycle < o.at_ then s.passTo cn o.at_ else s
        let c := s.core cn
        (s.setCore cn (c.setQuad qn (((c.quad qn).writeBack w o').setWarp wn w'))).mangleWarp cn qn wn
      else s.setWarp cn qn wn { w with pend := w.pend.map fun x => if x.seq = o.seq then o' else x }

/-! ### Stores leave the buffer and are performed (R202, R309) -/

/-- Take a store that has been performed out of its warp; what the Mangle can do then, it does. -/
def State.dropStore (s : State) (cn qn wn : Nat) (b : BufStore) : State :=
  (s.onWarp cn qn wn fun w => { w with sb := w.sb.filter fun x => !(x.uid == b.uid && x.seq == b.seq && x.orig == b.orig) }).mangleWarp cn qn wn
/-- The stores of a field's cores to a line that have left their buffers, with the draw at which each left and its warp's place. -/
def State.sentTo (s : State) (f line : Nat) : List (Nat × (Nat × Nat × Nat) × BufStore) :=
  s.allWarps.flatMap fun x => if fieldOf x.1 ≠ f then [] else x.2.2.2.sb.filterMap fun b =>
    b.sent.bind fun d => if b.acc.onLine line && !b.lost then some (d, (x.1, x.2.1, x.2.2.1), b) else none
/-- The one of them that left first. -/
def firstSent : List (Nat × (Nat × Nat × Nat) × BufStore) → Option (Nat × (Nat × Nat × Nat) × BufStore)
  | [] => none
  | x :: xs => match firstSent xs with
    | none => some x
    | some y => if x.1 ≤ y.1 then some x else some y
/-- Perform the stores to a line that have left, in the order in which they left. -/
def State.performSent (s : State) (f line : Nat) : Nat → State
  | 0 => s
  | n + 1 =>
    match firstSent (s.sentTo f line) with
    | none => s
    | some (_, (cn, qn, wn), b) =>
      match b.acc.loc with
      | .mem pa => State.performSent ((s.performAt cn pa (toLe b.acc.data.toNat b.acc.width)).dropStore cn qn wn b) f line n
      | _ => s
/-- The stores of a field to a line are performed where it holds the line in M or E; else a GetM is posted for a core's store. -/
def State.performLine (s : State) (cn ctx line : Nat) : State :=
  if s.writable (fieldOf cn) line then s.performSent (fieldOf cn) line (s.sentTo (fieldOf cn) line).length
  else s.request cn line ctx true
/-- A store may leave the buffer: it is not held, every store before it has left, and no earlier access of its thread must come first. -/
def Warp.mayLeave (w : Warp) (k : Nat) (b : BufStore) : Bool :=
  !b.held && ((w.sb.take k).all fun x => x.sent.isSome) && !w.blocked b.ask
/-- A store leaves the buffer, in order (R309), and is performed: in cacheable memory at once where the field holds the line, else under
its GetM (R202); at a window's target when it arrives, in the thread's order and in that of its core's messages to the target (R189, R384); a broadcast once every member has it (R256). `none`
where nothing can happen yet. -/
def State.performStore (s : State) (cn qn wn : Nat) (k : Nat) : Option State :=
  match s.warp cn qn wn with
  | none => none
  | some w =>
    match w.sb[k]? with
    | none => none
    | some b =>
      if b.lost then none
      else match b.sent with
      | none =>
        if !w.mayLeave k b || (match b.acc.loc with
            | .window c _ => s.pairHeld cn c
            | _ => false) then none
        else
          let s1 := { s.setWarp cn qn wn { w with sb := w.sb.set k { b with sent := some s.fresh } } with fresh := s.fresh + 1 }
          match b.acc.loc with
          | .mem pa => some (s1.performLine cn w.ctx (lineOf pa))
          | .bcast g off => some (s1.postBroadcast (.store b.uid b.seq b.orig) cn g off (toLe b.acc.data.toNat b.acc.width) none)
          | _ => some s1
      | some d =>
        match b.acc.loc with
        | .mem pa => some (s.performLine cn w.ctx (lineOf pa))
        | .window c off =>
          if ((w.sb.take k).any fun x => x.acc.sameTarget b.acc) || s.overtakes cn c d then none
          else some ((s.windowWrite c off (toLe b.acc.data.toNat b.acc.width) w.master).dropStore cn qn wn b)
        | .bcast _ _ => if s.onItsWay (.store b.uid b.seq b.orig) then none else some (s.dropStore cn qn wn b)
        | .scratch _ _ => some (s.dropStore cn qn wn b)

end Sys2Proof.Machine
end

