-- ==== Sys2Proof/Machine/Coherence.lean ====
section
/-! DEFINITION. The messages of the order buses at their ordering points, the arrival of data, and the host's accesses and snoops
(R189, R194-R208). -/
namespace Sys2Proof.Machine

/-! ### Serving a line that has come (R201, R202) -/

/-- The producers of a field's cores that touch a line go on. -/
def State.serveOps (s : State) (f line : Nat) : State :=
  s.allWarps.foldl (fun s x =>
    let (cn, qn, wn, w) := x
    if fieldOf cn ≠ f then s
    else (w.pend.filter fun o => o.open_.any fun a => a.onLine line).foldl (fun s o => s.advanceOp cn qn wn o) s) s
/-- What waits for a line in a field: the stores that have left their buffers are performed, then producers go on (R202). -/
def State.serveLine (s : State) (f line : Nat) : State :=
  (if s.writable f line then s.performSent f line (s.sentTo f line).length else s).serveOps f line
/-- The data of a line has come to a field, or will not come: producers whose values are fixed wait for it no longer, and complete. -/
def State.dataCame (s : State) (f line : Nat) : State :=
  s.allWarps.foldl (fun s x =>
    let (cn, qn, wn, w) := x
    if fieldOf cn ≠ f then s
    else (w.pend.filter fun o => o.due.contains line).foldl (fun s o => s.advanceOp cn qn wn { o with due := o.due.filter (· ≠ line) }) s) s
/-- Every field but one is about to lose a line. -/
def State.losing (s : State) (keep line : Nat) : State :=
  (List.range 42).foldl (fun s f => if f = keep then s else s.bindLost f line) s

/-- Give lines that have come without a way theirs (R204): a free way, that of a victim in S, or the way of an owner once its Put is
applied, which the cluster posts whose core caused the fill (R199). -/
def State.giveWay (s : State) (f line : Nat) : State :=
  match (s.field f).line line with
  | none => s
  | some x =>
    if x.awaiting || decide (x.way < 24) then s
    else
      match s.victim f line x.ctx with
      | (w, none) => if w < 24 then s.setField f ((s.field f).fillLine x w) else s
      | (w, some v) =>
        if v.st.owner then
          let queued := (List.range 8).any fun g => ((s.cluster (8 * f + g)).buses).any fun b =>
            b.2.any fun m => m.kind == .put && m.line == v.line
          if queued then s else s.post x.asked ⟨.put, v.line, v.ctx, none⟩
        else
          let s := s.invalidate f v.line
          match (s.field f).line line with
          | some x => s.setField f ((s.field f).fillLine x w)
          | none => s

/-! ### The host's part (R205, R207) -/

/-- Ask the host, and make the transaction wait. -/
def State.askHost (s : State) (f line : Nat) (own : Bool) : State :=
  if s.hostNeeds line own then
    { s.markTxn f line fun t => { t with waitHost := true } with
      out := s.out ++ [if isHost (256 * line) then .hostFetch line own else .backInvalidate line] }
  else s
/-- A message's transaction at its ordering point: with its data on the way, or at an end where no data is needed; the stores that wait for
the line are performed (R202). -/
def State.ordered (s : State) (f line : Nat) : State :=
  let waits := (s.field f).txns.any fun t => t.line == line && t.waitHost
  let s := match (s.field f).line line with
    | some x => if x.awaiting || waits then s.markTxn f line fun t => { t with applied := true } else s.endTxn f line
    | none => s.endTxn f line
  s.serveLine f line
/-- GetS of a host-region line for which the device holds only a shared permission: a shared copy. -/
def State.applyHostGetS (s : State) (f line ctx : Nat) : State :=
  let d := s.dirEntry line
  if isHost (256 * line) ∧ d.st = .uncached ∧ d.host ≠ .EM then
    (s.setLine f line .S ctx false false true).setDir line { d with st := .shared }
  else s.applyGetS f line ctx

/-! ### Messages -/

/-- GETS (R197): a GetS message applied at its ordering point gives the requester a shared or exclusive copy. -/
def execGets (cluster bus : Nat) (s : State) : Host.Outcome State Fault Refusal :=
  match s.takeMsg cluster bus .getS with
  | none => .next s
  | some (m, s) =>
    let f := cluster / 8
    let t := (((s.askHost f m.line false).applyHostGetS f m.line m.ctx).askedBy f m.line cluster).ordered f m.line
    .next (t.markTxn f m.line fun x => { x with after := s.awaitedOwner f m.line })
/-- GETM (R197): a GetM message applied at its ordering point gives the requester M and invalidates others. -/
def execGetm (cluster bus : Nat) (s : State) : Host.Outcome State Fault Refusal :=
  match s.takeMsg cluster bus .getM with
  | none => .next s
  | some (m, s) =>
    let f := cluster / 8
    let t := ((((s.askHost f m.line true).losing f m.line).applyGetM f m.line m.ctx).askedBy f m.line cluster).ordered f m.line
    .next (t.markTxn f m.line fun x => { x with after := s.awaitedOwner f m.line })
/-- PUT (R197): a Put message writes back an owner's dirty sectors and drops the line; its way serves a line that waits for one. -/
def execPut (cluster bus : Nat) (s : State) : Host.Outcome State Fault Refusal :=
  match s.takeMsg cluster bus .put with
  | none => .next s
  | some (m, s) =>
    let f := cluster / 8
    let owned := (s.dirEntry m.line).st == .owned f
    let s := s.applyPut f m.line
    let s := if owned ∧ isHost (256 * m.line) ∧ (s.dirEntry m.line).st = .uncached then s.setDir m.line ⟨.uncached, .none⟩ else s
    .next (((s.field f).l2.filter fun x => x.way == 24 && !x.awaiting && x.line % 32768 == m.line % 32768).foldl
      (fun s x => s.giveWay f x.line) s)
/-- CLEAN (R197): a Clean message writes the owner's dirty sectors to home memory. -/
def execClean (cluster bus : Nat) (s : State) : Host.Outcome State Fault Refusal :=
  match s.takeMsg cluster bus .clean with
  | none => .next s
  | some (m, s) => .next (s.applyClean m.line)
/-- DISC_MESSAGE (R208): a Disc message invalidates every copy and leaves the line undefined; a host copy of an HBM line is
called back and its data discarded. -/
def execDiscMessage (cluster bus : Nat) (s : State) : Host.Outcome State Fault Refusal :=
  match s.takeMsg cluster bus .disc with
  | none => .next s
  | some (m, s) =>
    let held := !isHost (256 * m.line) && (s.dirEntry m.line).host != .none
    let s := ({ s with undefined := (s.undefined.filter fun a => !(lineOf a == m.line)) ++ (List.range 256).map (256 * m.line + ·) } : State)
    let s := (s.losing 42 m.line).applyDisc m.line
    .next (if held then { s with out := s.out ++ [.backInvalidate m.line] } else s)
/-- DATA_ARRIVAL (R201): line data arrives over the mesh and is merged, takes its way, and serves what waits for it; the data of a line that
the field has lost meanwhile completes what was bound to it. Data from an owner comes after the owner's own. -/
def execDataArrival (field line : Nat) (s : State) : Host.Outcome State Fault Refusal :=
  match (s.field field).txns.find? fun t => t.line == line with
  | none => .next s
  | some t =>
    if !t.applied || t.waitHost || t.after.isSome then .next s
    else
      let s := s.endTxn field line
      let s := match (s.field field).line line with
        | none => s
        | some x => ((s.setField field ((s.field field).putLine { x with v0 := true, v1 := true })).giveWay field line).serveLine field line
      .next (s.dataCame field line)

/-- HOST_RESPONSE (R205, R207): the host's answer for a line: its bytes are merged, the device has what it asked for, and the
transactions that wait for it go on. A byte that the answer does not list stays as it was, undefined where a DISC left it so (R208); an
answer that nothing waits for is discarded. -/
def execHostResponse (line : Nat) (data : List (Nat × BitVec 8)) (s : State) : Host.Outcome State Fault Refusal :=
  let waiting := s.fields.filterMap fun f => (f.2.txns.find? fun t => t.line == line && t.waitHost).map fun t => (f.1, t)
  match waiting with
  | [] => .next s
  | ws =>
    let s := data.foldl (fun s b =>
      if 256 ≤ b.1 then s else s.pokeMem (256 * line + b.1) [b.2]) s
    let s := s.setDir line { s.dirEntry line with
      host := if isHost (256 * line) then (if ws.any fun w => w.2.wantsM then .EM else if (s.dirEntry line).host = .EM then .EM else .S)
              else .none }
    .next (ws.foldl (fun s w => (s.markTxn w.1 line fun t => { t with waitHost := false }).ordered w.1 line) s)

/-! ### The host's accesses and snoops -/

/-- A decoder of a port maps a host range onto some device addresses (R374, R378). -/
def Port.decodes (p : Port) (pa n : Nat) : Bool := p.decoders.any fun d => decide (d.2.2 ≤ pa) && decide (pa + n ≤ d.2.2 + d.2.1)
/-- A port serves a host's access to an HBM line (R378, R394): it is up, the device has started, a decoder of the port maps the line, and the line
lies in the memory grant of the tenant of the port's context. -/
def State.portServes (s : State) (port line : Nat) : Bool :=
  let p := (s.ports.find port).getD (Port.blank port)
  decide (port < 8) && p.up && !s.boot.minimal && !s.boot.starting && isHbm (256 * line) && p.decodes (256 * line) 256 &&
    ((s.tenants.find (p.ctx / 64)).getD Tenant.blank).ranges.any fun r => decide (r.1 ≤ 256 * line) && decide (256 * line + 256 ≤ r.1 + r.2)
/-- A message on behalf of the host for a line stands in the queue that it goes through. -/
def State.hostQueued (s : State) (k : MsgKind) (line : Nat) : Bool :=
  (((s.cluster (8 * homeOf line)).buses.find (busOf line)).getD []).any fun m => m.kind == k && m.line == line
/-- A message on behalf of the host (R199, R206, R207): cluster 0 of the line's home field posts it behind what that cluster has queued for the
line's bus; at the head of that queue it has its effect. One that is queued already is not posted again. -/
def State.hostMessage (s : State) (k : MsgKind) (line : Nat) (eff : State → State) : State :=
  let g := 8 * homeOf line
  let queue := ((s.cluster g).buses.find (busOf line)).getD []
  if s.hostQueued k line then
    match queue with
    | m :: _ => if m.line = line then match s.takeMsg g (busOf line) k with
        | some (_, s) => eff s
        | none => s
      else s
    | [] => s
  else s.post g ⟨k, line, 0, none⟩
/-- The owner of a line writes its dirty sectors back and becomes `to` (R206, R207). -/
def State.ownerCleans (s : State) (line : Nat) (dsts : LineState → LineState) : State :=
  match s.ownerOf line with
  | some o => s.cleanLine o line (dsts (s.lineState o line))
  | none => s
/-- The device answers the host with a line's bytes. -/
def State.answerHost (s : State) (line : Nat) : State :=
  { s with out := s.out ++ [.hostRead line (s.memBytes (256 * line) 256)], fresh := s.fresh + 1 }
/-- HGETS (R207): a host shared read of an HBM line becomes a message, and at its ordering point it is answered from memory. -/
def execHgets (port line : Nat) (s : State) : Host.Outcome State Fault Refusal :=
  if !s.portServes port line && !s.hostQueued (.hGetS port) line then .next { s with out := s.out ++ [.hostError line] }
  else .next (s.hostMessage (.hGetS port) line fun s =>
    ((s.ownerCleans line fun _ => .S).setDir line ⟨.shared, .S⟩).answerHost line)
/-- HGETM (R207): a host exclusive read or write of an HBM line becomes a message, and at its ordering point every device copy is
invalidated; a write's bytes are then performed. -/
def execHgetm (port line : Nat) (wdata : Option (List (Nat × BitVec 8))) (s : State) : Host.Outcome State Fault Refusal :=
  if !s.portServes port line && !s.hostQueued (.hGetM port wdata) line then .next { s with out := s.out ++ [.hostError line] }
  else .next (s.hostMessage (.hGetM port wdata) line fun s =>
    let s := (((s.ownerCleans line id).losing 42 line).invalidateOthers 42 line).setDir line ⟨.uncached, .EM⟩
    match wdata with
    | some bs =>
      let s := bs.foldl (fun s b => if b.1 < 256 then s.pokeMem (256 * line + b.1) [b.2] else s) s
      { s with out := s.out ++ [.hostDone line] }
    | none => s.answerHost line)
/-- The device holds a host-region line. -/
def State.holdsLine (s : State) (line : Nat) : Bool := s.fields.any fun f => ((f.2.line line).map (·.st)).getD .I != .I
/-- A host snoop becomes a message; at its ordering point, a miss for a line the device does not hold; else its effect, and the line's
data. -/
def State.snooped (s : State) (k : MsgKind) (line : Nat) (eff : State → State) : State :=
  s.hostMessage k line fun s =>
    if s.holdsLine line = false ∨ isHost (256 * line) = false then { s with out := s.out ++ [.snoopMiss line] }
    else (eff s).answerHost line
/-- SNPDATA (R206): a host SnpData snoop writes back dirty data and leaves shared copies. -/
def execSnpdata (line : Nat) (s : State) : Host.Outcome State Fault Refusal :=
  .next (s.snooped .snpData line fun s => (s.ownerCleans line fun _ => .S).setDir line ⟨.shared, .S⟩)
/-- SNPINV (R206): a host SnpInv snoop writes back dirty data and invalidates every copy. -/
def execSnpinv (line : Nat) (s : State) : Host.Outcome State Fault Refusal :=
  .next (s.snooped .snpInv line fun s =>
    (((s.ownerCleans line id).losing 42 line).invalidateOthers 42 line).setDir line ⟨.uncached, .none⟩)
/-- SNPCUR (R206): a host SnpCur snoop writes back dirty data and leaves copies clean. -/
def execSnpcur (line : Nat) (s : State) : Host.Outcome State Fault Refusal :=
  .next (s.snooped .snpCur line fun s => s.ownerCleans line fun st => if st = .M then .E else st)

end Sys2Proof.Machine
end

