-- ==== Sys2Proof/Machine/Convert.lean ====
section
/-! DEFINITION. Conversions (R113, R114). -/
namespace Sys2Proof.Machine

/-- Element `i` of width `n` of a word. -/
def element (w : Word) (n i : Nat) : Nat := (w.extractLsb' (n * i) n).toNat
/-- Two conversions packed, the first in the low half of `n` bits (R113). -/
def packTwo (F : Fmt) (md : FMode) (n : Nat) (a b : Word) : Word :=
  BitVec.ofNat 32 (fpConvert Fmt.fp32 F md a.toNat + fpConvert Fmt.fp32 F md b.toNat * 2 ^ n)

/-- CVT_F32_S32 (R113): Converts a signed 32-bit integer to FP32 with rounding. -/
def execCvtF32S32 (d : BitVec 7) (a : BitVec 7) (s : State) : Host.Outcome State Fault Refusal :=
  issueReg (Info.lane2 d a) s fun V => V.writeLane d.toNat fun l => BitVec.ofNat 32 ((Fp.ofInt (V.lane a.toNat l).toInt).write Fmt.fp32 V.fm)
/-- CVT_F32_Z32 (R113): Converts an unsigned 32-bit integer to FP32 with rounding. -/
def execCvtF32Z32 (d : BitVec 7) (a : BitVec 7) (s : State) : Host.Outcome State Fault Refusal :=
  issueReg (Info.lane2 d a) s fun V => V.writeLane d.toNat fun l => BitVec.ofNat 32 ((Fp.ofInt (V.lane a.toNat l).toNat).write Fmt.fp32 V.fm)
/-- CVT_S32_F32 (R113): Converts FP32 to signed 32-bit, truncating and saturating. -/
def execCvtS32F32 (d : BitVec 7) (a : BitVec 7) (s : State) : Host.Outcome State Fault Refusal :=
  issueReg (Info.lane2 d a) s fun V => V.writeLane d.toNat fun l => BitVec.ofInt 32 ((Fp.read Fmt.fp32 V.fm.flush (V.lane a.toNat l).toNat).toInt (-2147483648) 2147483647)
/-- CVT_Z32_F32 (R113): Converts FP32 to unsigned 32-bit, truncating and saturating. -/
def execCvtZ32F32 (d : BitVec 7) (a : BitVec 7) (s : State) : Host.Outcome State Fault Refusal :=
  issueReg (Info.lane2 d a) s fun V => V.writeLane d.toNat fun l => BitVec.ofInt 32 ((Fp.read Fmt.fp32 V.fm.flush (V.lane a.toNat l).toNat).toInt 0 4294967295)
/-- CVT_F64_F32 (R113): Converts FP32 exactly to an FP64 pair. -/
def execCvtF64F32 (d : BitVec 7) (a : BitVec 7) (s : State) : Host.Outcome State Fault Refusal :=
  issueReg (Info.widen d a) s fun V => V.writeLane64 d.toNat fun l => BitVec.ofNat 64 (fpConvert Fmt.fp32 Fmt.fp64 V.fm (V.lane a.toNat l).toNat)
/-- CVT_F32_F64 (R113): Converts an FP64 pair to FP32 with rounding. -/
def execCvtF32F64 (d : BitVec 7) (a : BitVec 7) (s : State) : Host.Outcome State Fault Refusal :=
  issueReg (Info.narrow d a) s fun V => V.writeLane d.toNat fun l => BitVec.ofNat 32 (fpConvert Fmt.fp64 Fmt.fp32 V.fm (V.lane64 a.toNat l).toNat)
/-- CVT_F64_S32 (R113): Converts a signed 32-bit integer exactly to FP64. -/
def execCvtF64S32 (d : BitVec 7) (a : BitVec 7) (s : State) : Host.Outcome State Fault Refusal :=
  issueReg (Info.widen d a) s fun V => V.writeLane64 d.toNat fun l => BitVec.ofNat 64 ((Fp.ofInt (V.lane a.toNat l).toInt).write Fmt.fp64 V.fm)
/-- CVT_S32_F64 (R113): Converts an FP64 pair to signed 32-bit, truncating and saturating. -/
def execCvtS32F64 (d : BitVec 7) (a : BitVec 7) (s : State) : Host.Outcome State Fault Refusal :=
  issueReg (Info.narrow d a) s fun V => V.writeLane d.toNat fun l => BitVec.ofInt 32 ((Fp.read Fmt.fp64 V.fm.flush (V.lane64 a.toNat l).toNat).toInt (-2147483648) 2147483647)
/-- CVT_F16X2_F32 (R113): Packs two FP32 values rounded to FP16 into one register. -/
def execCvtF16x2F32 (d : BitVec 7) (a : BitVec 7) (b : BitVec 7) (s : State) : Host.Outcome State Fault Refusal :=
  issueReg (Info.lane3 d a b) s fun V => V.writeLane d.toNat fun l => packTwo Fmt.fp16 V.fm 16 (V.lane a.toNat l) (V.lane b.toNat l)
/-- CVT_F32_F16 (R113): Converts FP16 element h of a exactly to FP32. -/
def execCvtF32F16 (d : BitVec 7) (a : BitVec 7) (h : BitVec 1) (s : State) : Host.Outcome State Fault Refusal :=
  issueReg (Info.lane2 d a) s fun V => V.writeLane d.toNat fun l => BitVec.ofNat 32 (fpConvert Fmt.fp16 Fmt.fp32 V.fm (element (V.lane a.toNat l) 16 h.toNat))
/-- CVT_BF16X2_F32 (R113): Packs two FP32 values rounded to BF16 into one register. -/
def execCvtBf16x2F32 (d : BitVec 7) (a : BitVec 7) (b : BitVec 7) (s : State) : Host.Outcome State Fault Refusal :=
  issueReg (Info.lane3 d a b) s fun V => V.writeLane d.toNat fun l => packTwo Fmt.bf16 V.fm 16 (V.lane a.toNat l) (V.lane b.toNat l)
/-- CVT_F32_BF16 (R113): Converts BF16 element h of a exactly to FP32. -/
def execCvtF32Bf16 (d : BitVec 7) (a : BitVec 7) (h : BitVec 1) (s : State) : Host.Outcome State Fault Refusal :=
  issueReg (Info.lane2 d a) s fun V => V.writeLane d.toNat fun l => BitVec.ofNat 32 (fpConvert Fmt.bf16 Fmt.fp32 V.fm (element (V.lane a.toNat l) 16 h.toNat))
/-- CVT_E4X2_F32 (R113): Packs two FP32 values rounded to E4M3 into the low half. -/
def execCvtE4x2F32 (d : BitVec 7) (a : BitVec 7) (b : BitVec 7) (s : State) : Host.Outcome State Fault Refusal :=
  issueReg (Info.lane3 d a b) s fun V => V.writeLane d.toNat fun l => packTwo Fmt.e4 V.fm 8 (V.lane a.toNat l) (V.lane b.toNat l)
/-- CVT_E5X2_F32 (R113): Packs two FP32 values rounded to E5M2 into the low half. -/
def execCvtE5x2F32 (d : BitVec 7) (a : BitVec 7) (b : BitVec 7) (s : State) : Host.Outcome State Fault Refusal :=
  issueReg (Info.lane3 d a b) s fun V => V.writeLane d.toNat fun l => packTwo Fmt.e5 V.fm 8 (V.lane a.toNat l) (V.lane b.toNat l)
/-- CVT_F32_E4 (R113): Converts E4M3 byte n of a exactly to FP32. -/
def execCvtF32E4 (d : BitVec 7) (a : BitVec 7) (n : BitVec 2) (s : State) : Host.Outcome State Fault Refusal :=
  issueReg (Info.lane2 d a) s fun V => V.writeLane d.toNat fun l => BitVec.ofNat 32 (fpConvert Fmt.e4 Fmt.fp32 V.fm (element (V.lane a.toNat l) 8 n.toNat))
/-- CVT_F32_E5 (R113): Converts E5M2 byte n of a exactly to FP32. -/
def execCvtF32E5 (d : BitVec 7) (a : BitVec 7) (n : BitVec 2) (s : State) : Host.Outcome State Fault Refusal :=
  issueReg (Info.lane2 d a) s fun V => V.writeLane d.toNat fun l => BitVec.ofNat 32 (fpConvert Fmt.e5 Fmt.fp32 V.fm (element (V.lane a.toNat l) 8 n.toNat))

end Sys2Proof.Machine
end

