-- ==== Sys2Proof/Machine/Gcm.lean ====
section
/-! DEFINITION. AES-256-GCM, by which a dump is encrypted (R371). The spec names the cipher; what it computes is the published standard's
(PRESUMED, notes/assumptions/67.md). -/
namespace Sys2Proof.Machine

/-! ### The block cipher -/

/-- A byte times x in the field of the cipher. -/
def aesDouble (a : Byte) : Byte := if a.getLsbD 7 then (a <<< 1) ^^^ 0x1B#8 else a <<< 1
/-- The product of two bytes in that field, by the lowest `n` bits of the second. -/
def aesMul (a b : Byte) : Nat → Byte
  | 0 => 0#8
  | n + 1 => (if b.getLsbD 0 then a else 0#8) ^^^ aesMul (aesDouble a) (b >>> 1) n
def aesTimes (a b : Byte) : Byte := aesMul a b 8
/-- The inverse of a byte: its 254th power. -/
def aesInverse (a : Byte) : Byte :=
  let a2 := aesTimes a a
  let a4 := aesTimes a2 a2
  let a8 := aesTimes a4 a4
  let a16 := aesTimes a8 a8
  let a32 := aesTimes a16 a16
  let a64 := aesTimes a32 a32
  let a128 := aesTimes a64 a64
  [a2, a4, a8, a16, a32, a64].foldl aesTimes a128
/-- The substitution of a byte. -/
def aesSub (a : Byte) : Byte :=
  let i := aesInverse a
  [i.rotateLeft 1, i.rotateLeft 2, i.rotateLeft 3, i.rotateLeft 4, 0x63#8].foldl (· ^^^ ·) i
/-- The bytes of two blocks, one on the other. -/
def xorBytes (a b : List Byte) : List Byte := List.zipWith (· ^^^ ·) a b
/-- The round constant of the j-th use. -/
def aesRound : Nat → Byte
  | 0 => 0x8D#8
  | n + 1 => aesDouble (aesRound n)
/-- The next word of the key schedule, from the words that stand, the last first. -/
def aesNextWord (ws : List (List Byte)) : List Byte :=
  let i := ws.length
  let last := ws.getD 0 []
  let t := if i % 8 = 0 then xorBytes ((last.drop 1 ++ last.take 1).map aesSub) [aesRound (i / 8), 0#8, 0#8, 0#8]
           else if i % 8 = 4 then last.map aesSub else last
  xorBytes (ws.getD 7 []) t
def aesWords (ws : List (List Byte)) : Nat → List (List Byte)
  | 0 => ws
  | n + 1 => aesWords (aesNextWord ws :: ws) n
/-- The fifteen round keys of a key of 32 bytes. -/
def aesKeys (key : List Byte) : List (List Byte) :=
  let ws := (aesWords (((List.range 8).map fun i => (key.drop (4 * i)).take 4).reverse) 52).reverse
  (List.range 15).map fun r => ((ws.drop (4 * r)).take 4).flatMap id
/-- Rows of a block shift: row r by r columns. -/
def aesShift (b : List Byte) : List Byte := (List.range 16).map fun i => b.getD ((i + 4 * (i % 4)) % 16) 0#8
/-- Each column of a block mixes. -/
def aesMix (b : List Byte) : List Byte :=
  (List.range 16).map fun i =>
    let x (j : Nat) : Byte := b.getD (4 * (i / 4) + (i + j) % 4) 0#8
    aesDouble (x 0) ^^^ aesDouble (x 1) ^^^ x 1 ^^^ x 2 ^^^ x 3
/-- A block encrypted under round keys. -/
def aesBlock (keys : List (List Byte)) (b : List Byte) : List Byte :=
  let mid := ((List.range 13).map (· + 1)).foldl (fun b r => xorBytes (aesMix (aesShift (b.map aesSub))) (keys.getD r [])) (xorBytes b (keys.getD 0 []))
  xorBytes (aesShift (mid.map aesSub)) (keys.getD 14 [])

/-! ### The mode -/

/-- A block as a number, its first byte the highest. -/
def blockNum (b : List Byte) : BitVec 128 := b.foldl (fun x y => (x <<< 8) ||| y.setWidth 128) 0#128
def blockBytes (x : BitVec 128) : List Byte := (List.range 16).map fun i => x.extractLsb' (120 - 8 * i) 8
/-- The product in the field of the hash, by the highest `n` bits of the first factor. -/
def ghashMul (x y z : BitVec 128) : Nat → BitVec 128
  | 0 => z
  | n + 1 => ghashMul (x <<< 1) (if y.getLsbD 0 then (y >>> 1) ^^^ (0xE1#128 <<< 120) else y >>> 1) (if x.getLsbD 127 then z ^^^ y else z) n
/-- Whole blocks of a list of bytes, the last filled with zeros. -/
def blocksOf (b : List Byte) : List (List Byte) :=
  (List.range ((b.length + 15) / 16)).map fun i => (List.range 16).map fun j => b.getD (16 * i + j) 0#8
def ghash (h : BitVec 128) (bs : List (List Byte)) : BitVec 128 := bs.foldl (fun x b => ghashMul (x ^^^ blockNum b) h 0#128 128) 0#128
/-- A length in bits, in 8 bytes, the highest first. -/
def lengthBytes (b : List Byte) : List Byte := (List.range 8).map fun i => (BitVec.ofNat 64 (8 * b.length)).extractLsb' (56 - 8 * i) 8
/-- The ciphertext and the tag of a plaintext, under a key, a nonce of 12 bytes and additional authenticated data. -/
def gcmSeal (key nonce aad plain : List Byte) : List Byte :=
  let keys := aesKeys key
  let counter (n : Nat) : List Byte := aesBlock keys (nonce ++ (List.range 4).map fun i => (BitVec.ofNat 32 n).extractLsb' (24 - 8 * i) 8)
  let cipher := ((blocksOf plain).zipIdx.flatMap fun x => xorBytes x.1 (counter (x.2 + 2))).take plain.length
  let tag := ghash (blockNum (aesBlock keys (List.replicate 16 0#8))) (blocksOf aad ++ blocksOf cipher ++ [lengthBytes aad ++ lengthBytes cipher])
  cipher ++ xorBytes (blockBytes tag) (counter 1)

end Sys2Proof.Machine
end

