-- ==== Sys2Proof/Machine/Health.lean ====
section
/-! DEFINITION. Counting of health events (R389-R391, R393): which events last, and what a lasting fault takes out of service. -/
namespace Sys2Proof.Machine

/-- The clock of a field: that of the furthest of its cores. -/
def State.fieldClock (s : State) (f : Nat) : Nat := s.cores.foldl (fun n c => if fieldOf c.1 = f then max n c.2.cycle else n) 0
/-- The core clock that times the events of a structure (R390): its core's, or the furthest of its field's cores. -/
def State.unitCycle (s : State) (u : HealthUnit) : Nat :=
  match u with
  | .registerFile c _ => (s.core c).cycle
  | .coreStores c => (s.core c).cycle
  | .matrixArray c => (s.core c).cycle
  | .l1 c => (s.core c).cycle
  | .clusterTlb g => s.fieldClock (g / 8)
  | .l2Way f _ => s.fieldClock f
  | .group g => s.fieldClock (((s.clusters.find? fun c => c.2.group == g).map (·.1)).getD g / 8 % 42)
  | .hbm f _ _ => s.fieldClock f
/-- Make a core suspect (R391). -/
def State.suspect (s : State) (cn : Nat) : State :=
  if (s.core cn).absent then s else s.setCore cn { s.core cn with suspect := true }
/-- Every core of a cluster becomes suspect. -/
def State.suspectCluster (s : State) (g : Nat) : State := (List.range 8).foldl (fun s j => s.suspect (8 * g + j)) s
/-- The cluster whose traffic a wavelength group carries (R8, R393). -/
def State.groupOwner (s : State) (g : Nat) : Option Nat := (List.range 336).find? fun k => (s.cluster k).group == g
/-- A wavelength group is lost (R393): its traffic will move to the lowest free spare at an announced frame; with no spare free every core of
its cluster is to be retired, and its names become absent. -/
def State.loseGroup (s : State) (g : Nat) : State :=
  match s.groupOwner g with
  | none => { s with health := { s.health with sparesUsed := if s.health.sparesUsed.contains g then s.health.sparesUsed else s.health.sparesUsed ++ [g] } }
  | some k =>
    if s.health.switching.any fun x => x.1 == g then s
    else match (List.range 16).find? fun i => !s.health.sparesUsed.contains (336 + i) with
    | some i => { s with health := { s.health with sparesUsed := s.health.sparesUsed ++ [336 + i], switching := s.health.switching ++ [(g, 336 + i)] } }
    | none => (s.setCluster k { s.cluster k with spareUsed := true }).suspectCluster k
/-- A lasting fault of a structure. -/
def State.lasting (s : State) : HealthUnit → State
  | .registerFile c _ => s.suspect c
  | .coreStores c => s.suspect c
  | .matrixArray c => s.suspect c
  | .l1 c => s.suspect c
  | .clusterTlb g => s.suspectCluster g
  | .l2Way _ _ => s
  | .group g => s.loseGroup g
  | .hbm _ _ _ => s
/-- The structure exists. -/
def unitExists : HealthUnit → Bool
  | .registerFile c q => decide (c < 2688) && decide (q < 4)
  | .coreStores c => decide (c < 2688)
  | .matrixArray c => decide (c < 2688)
  | .l1 c => decide (c < 2688)
  | .clusterTlb g => decide (g < 336)
  | .l2Way f w => decide (f < 42) && decide (w < 24)
  | .group g => decide (g < 352)
  | .hbm f _ _ => decide (f < 42)
/-- Count an event: with the two before it at the same structure within 2^24 cycles it is lasting, else transient (R390). -/
def State.countEvent (s : State) (u : HealthUnit) : State :=
  let now := s.unitCycle u
  let old := ((s.health.events.find? fun x => x.1 == u).map (·.2)).getD []
  let s := { s with health := { s.health with events := s.health.events.filter (fun x => x.1 != u) ++ [(u, (now :: old).take 2)] } }
  match old with
  | [_, a] => if now - a ≤ 2 ^ 24 then s.lasting u else s
  | _ => s

end Sys2Proof.Machine
end

