-- ==== Sys2Proof/Machine/MatrixMath.lean ====
section
/-! DEFINITION. The arithmetic of the matrix array (R58-R68, R281, R282, R284, R295, R298): operands as the Larder holds them,
one step into a tile or a pair of tiles, renormalisation, and the conversions of TST and TLD. -/
namespace Sys2Proof.Machine

/-- rne(m * 2^e, 2^g) / 2^g. -/
def rneGrid (m e g : Int) : Int :=
  if g ≤ e then m * 2 ^ (e - g).toNat
  else
    let r : Int := shiftRound 0 false m.natAbs (g - e).toNat
    if m < 0 then -r else r

/-- A block scale: a NaN block, or m * 2^e with m = 0 for a zero block (R60). -/
inductive Scale where
  | nan
  | val (m e : Int)
  deriving DecidableEq, Repr

/-- A BS20 word (R59, R60). -/
def scaleBs20 (x : Nat) : Scale :=
  let e := x / 4096 % 256
  if e = 0 then .val 0 0 else if e = 255 then .nan else .val (4096 + x % 4096) (e - 139)
/-- An FP16 scale (R60). -/
def scaleFp16 (x : Nat) : Scale :=
  match Fp.read Fmt.fp16 false x with
  | .fin n m e => .val (if n then -m else m) e
  | _ => .nan

/-- One side of a step: the Larder bytes it reads, its descriptor, compute width, signed bit and zero-point correction. -/
structure Side where
  mem : Memory
  base : Nat
  desc : Word
  width : Nat
  signed : Bool
  zero : Bool
  deriving DecidableEq, Repr

/-- `n` bytes of a side at an offset of its span. -/
def Side.nat (s : Side) (off n : Nat) : Nat := leNat (Sparse.getAll 0#8 s.mem (s.base + off) n)
/-- The shift that brings s stored bits to w planes (R67). -/
def planeShift (stored w : Nat) : Nat := max stored w - w
/-- The integer that w planes of a stored element stand for (R67). -/
def narrow (stored w : Nat) (signed : Bool) (x : Nat) : Int :=
  let v : Int := if signed && decide (2 ^ (stored - 1) ≤ x) then (x : Int) - 2 ^ stored else x
  v / 2 ^ planeShift stored w
/-- The scale of row or column i, own block j (R59, R63). -/
def Side.scale (s : Side) (i j : Nat) : Scale :=
  let f := descFormat s.desc
  let n := fmtScale f
  if n = 0 then .val 1 0
  else
    let x := s.nat (descScaleAt s.desc + (i * descBlocks s.desc + j) * n) n
    if n = 4 then scaleBs20 (x % 2 ^ 20) else scaleFp16 x
/-- The zero point of row or column i, own block j, narrowed (R59, R62, R67); 0 without correction or for another format. -/
def Side.zeroPoint (s : Side) (i j : Nat) : Int :=
  let f := descFormat s.desc
  if s.zero && fmtQ f then
    let z := s.nat (descZeroAt s.desc + i * descBlocks s.desc + j) 1 % 2 ^ fmtWidth f
    (z / 2 ^ planeShift (fmtWidth f) s.width : Nat)
  else 0
/-- The original K positions of column c's kept elements (R64). -/
def Side.kept (s : Side) (c : Nat) : List Nat :=
  let N := keptOf (descSparse s.desc)
  if descSideB s.desc && N != 128 then
    let n := fmtWidth (descFormat s.desc)
    let words := 4 * ((N * n + 31) / 32)
    let idx := s.nat (c * descRow s.desc + words) (4 * ((7 * N + 31) / 32))
    (List.range N).map fun t => idx / 2 ^ (7 * t) % 128
  else List.range 128
/-- Strictly ascending (R64, R65). -/
def ascending : List Nat → Bool
  | [] => true
  | [_] => true
  | a :: b :: xs => decide (a < b) && ascending (b :: xs)
/-- The elements of row or column i: K position and narrowed, corrected value (R62, R67). -/
def Side.elems (s : Side) (i : Nat) : List (Nat × Int) :=
  let n := fmtWidth (descFormat s.desc)
  let row := s.nat (i * descRow s.desc) (descRow s.desc)
  let ks := s.kept i
  (List.range ks.length).map fun t =>
    let k := ks.getD t 0
    (k, narrow n s.width s.signed (row / 2 ^ (n * t) % 2 ^ n) - s.zeroPoint i (k / descBlock s.desc))

/-- The exact partial sum of block j of length L for a row of A and a column of B (R68, R281, R282). -/
def blockSum (L j : Nat) (a b : List (Nat × Int)) : Int :=
  b.foldl (fun p kb => if kb.1 / L = j then p + ((a.getD kb.1 (0, 0)).2) * kb.2 else p) 0

/-- What a block adds to an output element: a mark, or m * 2^e. A NaN block marks every element of its row or column, whatever a sparse column
keeps of it (R61; DESIGN CHOICE, notes/assumptions/71.md). -/
def blockAddend (L j : Nat) (A B : Side) (i c : Nat) (a b : List (Nat × Int)) : Option (Int × Int) :=
  let sh : Int := planeShift (fmtWidth (descFormat A.desc)) A.width + planeShift (fmtWidth (descFormat B.desc)) B.width
  match A.scale i (j * L / descBlock A.desc), B.scale c (j * L / descBlock B.desc) with
  | .val ma ea, .val mb eb => some (blockSum L j a b * ma * mb, sh + ea + eb)
  | _, _ => none

/-- The tiles of a step as one list of elements: (tile index, element, mantissa), unmarked only. -/
def unmarked (ts : List Tile) : List (Nat × Nat × Int) :=
  (List.range ts.length).flatMap fun t =>
    let T := ts.getD t Tile.zero
    (List.range 4096).filterMap fun e => if T.marked e then none else some (t, e, T.mant e)
/-- The smallest k that brings every sum below 2^46, by search with fuel; `none` when te + k would pass 2,047 (R68). -/
def renormK (te : Int) (xs : List (Int × Int × Int)) : Nat → Nat → Option Nat
  | 0, _ => none
  | fuel + 1, k =>
    if 2047 < te + k then none
    else if xs.all fun x => (rneGrid x.1 te (te + k) + rneGrid x.2.1 x.2.2 (te + k)).natAbs < 2 ^ 46 then some k
    else renormK te xs fuel (k + 1)
/-- Write a mantissa. -/
def Tile.setMant (t : Tile) (e : Nat) (m : Int) : Tile := { t with m := Sparse.set 0#48 t.m e (BitVec.ofInt 48 m) }

/-- Add block j into the tiles (R68): marks of NaN blocks, then the renormalisation and the sums; an error leaves nothing. -/
def addBlock (L j : Nat) (A : Side) (Bs : List Side) (rows : List (List (Nat × Int)))
    (cols : List (List (List (Nat × Int)))) (ts : List Tile) : Option (List Tile) :=
  let addend (t e : Nat) : Option (Int × Int) :=
    blockAddend L j A (Bs.getD t A) (e / 64) (e % 64) (rows.getD (e / 64) []) ((cols.getD t []).getD (e % 64) [])
  let ts := (List.range ts.length).map fun t =>
    let T := ts.getD t Tile.zero
    { T with marks := T.marks ++ (List.range 4096).filter fun e => (addend t e).isNone && !T.marked e }
  let te := (ts.getD 0 Tile.zero).te
  let xs := (unmarked ts).map fun (t, e, m) => (t, e, m, (addend t e).getD (0, 0))
  match renormK te (xs.map fun x => (x.2.2.1, x.2.2.2.1, x.2.2.2.2)) 4096 0 with
  | none => none
  | some k =>
    some ((List.range ts.length).map fun t =>
      let T := ts.getD t Tile.zero
      let T := xs.foldl (fun T x => if x.1 = t then
        T.setMant x.2.1 (rneGrid x.2.2.1 te (te + k) + rneGrid x.2.2.2.1 x.2.2.2.2 (te + k)) else T) T
      { T with te := te + k }.resum)

/-- Align the tiles of a pair to the higher exponent (R284). -/
def alignTiles (ts : List Tile) : List Tile :=
  let top := ts.foldl (fun m t => max m t.te) (-2048)
  ts.map fun T =>
    if T.te = top then T
    else ({ (List.range 4096).foldl (fun (S : Tile) e => if T.marked e then S else S.setMant e (rneGrid (T.mant e) T.te top)) T with
            te := top }).resum

/-- The blocks of a step from block j on: the tiles reached and the block that failed, if one did. -/
def runBlocks (L : Nat) (A : Side) (Bs : List Side) (rows : List (List (Nat × Int)))
    (cols : List (List (List (Nat × Int)))) : Nat → Nat → List Tile → List Tile × Option Nat
  | 0, _, ts => (ts, none)
  | n + 1, j, ts =>
    match addBlock L j A Bs rows cols ts with
    | none => (ts, some j)
    | some ts' => runBlocks L A Bs rows cols n (j + 1) ts'

/-- One step of MMA (one B and one tile) or MMAP (two): the tiles after it, and a deferred cause with its EVA (R65, R68,
R284, R292). `stop` is the block whose checksums disagree (R289), if one's do. -/
def matrixStep (A : Side) (Bs : List Side) (ts : List Tile) (stop : Option Nat) : List Tile × Option (Nat × Nat) :=
  if !(Bs.all fun B => (List.range 64).all fun c => ascending (B.kept c)) then (ts, some (0x081, 0))
  else
    let L := min (if fmtScale (descFormat A.desc) = 0 then 128 else descBlock A.desc)
      (Bs.foldl (fun m B => min m (if fmtScale (descFormat B.desc) = 0 then 128 else descBlock B.desc)) 128)
    let rows := (List.range 64).map A.elems
    let cols := Bs.map fun B => (List.range 64).map B.elems
    let n := match stop with
      | some j => min j (128 / L - 1)
      | none => 128 / L
    match runBlocks L A Bs rows cols n 0 (alignTiles ts) with
    | (ts', none) => (ts', if stop.isSome then some (0x088, n) else none)
    | (ts', some j) => (ts', some (0x080, j))

/-- TNORM's exponent (R295): the smallest te' from -2,048 up that leaves every unmarked mantissa below 2^45. -/
def normTe (te : Int) (ms : List Int) : Nat → Int → Int
  | 0, g => g
  | fuel + 1, g => if ms.all fun m => (rneGrid m te g).natAbs < 2 ^ 45 then g else normTe te ms fuel (g + 1)
/-- TNORM (R295): the tile after it, or the overflow of cause 0x080. -/
def Tile.norm (t : Tile) : Option Tile :=
  let es := (List.range 4096).filter fun e => !t.marked e
  let ms := es.map t.mant
  -- with a largest mantissa of b bits, te' is within one of te + b - 45; every lower grid fails
  let b := ms.foldl (fun x m => max x m.natAbs) 0
  let start := if b = 0 then -2048 else max (-2048) (t.te + Nat.log2 b + 1 - 46)
  let g := normTe t.te ms 4 start
  if 2047 < g then none
  else some ({ es.foldl (fun (s : Tile) e => s.setMant e (rneGrid (t.mant e) t.te g)) t with te := g }).resum

/-! ### TST and TLD (R298) -/

/-- Bytes of a transfer format. -/
def xferBytes (f : Nat) : Nat :=
  if f = 0 then 4 else if f = 1 ∨ f = 2 then 2 else if f = 3 ∨ f = 4 ∨ f = 5 then 1 else if f = 6 then 2 else if f = 7 then 4 else 8
/-- The floating format of a transfer format. -/
def xferFmt (f : Nat) : Fmt :=
  if f = 0 then Fmt.fp32 else if f = 1 then Fmt.bf16 else if f = 2 then Fmt.fp16 else if f = 3 then Fmt.e4 else Fmt.e5
/-- Saturate to a signed width. -/
def satS (n : Nat) (x : Int) : Int := max (-(2 ^ (n - 1) : Nat)) (min ((2 ^ (n - 1) : Nat) - 1) x)
/-- The pattern that TST writes for an element (R61, R298). -/
def tstValue (t : Tile) (f e : Nat) : Nat :=
  let m := t.mant e
  if f ≤ 4 then
    let F := xferFmt f
    if t.marked e then F.nan else F.round FMode.rne (decide (m < 0)) m.natAbs t.te
  else if f ≤ 7 then
    let n := 8 * xferBytes f
    if t.marked e then 2 ^ (n - 1) else (BitVec.ofInt n (satS n (rneGrid m t.te 0))).toNat
  else (Sparse.get 0#48 t.m e).toNat + (if t.marked e then 2 ^ 48 else 0) + (BitVec.ofInt 12 t.te).toNat * 2 ^ 49
/-- The bytes that TST writes for rows row0 to row0 + nr - 1. -/
def tstBytes (t : Tile) (f row0 nr : Nat) : List Byte :=
  (List.range (64 * nr)).flatMap fun i => toLe (tstValue t f (64 * row0 + i)) (xferBytes f)
/-- The value that TLD reads (R298): `none` for a NaN or an infinity. -/
def tldValue (f x : Nat) : Option (Int × Int) :=
  if f ≤ 4 then
    match Fp.read (xferFmt f) false x with
    | .fin n m e => some (if n then -m else m, e)
    | _ => none
  else some ((BitVec.ofNat (8 * xferBytes f) x).toInt, 0)
/-- TLD of rows from bytes (R298): the tile after it, or the overflow of cause 0x080. -/
def tldTile (t : Tile) (f row0 nr : Nat) (bs : List Byte) : Option Tile :=
  let n := xferBytes f
  let raw (i : Nat) := leNat ((bs.drop (n * i)).take n)
  let es := List.range (64 * nr)
  let first := 64 * row0
  let inRange (e : Nat) := decide (first ≤ e) && decide (e < first + 64 * nr)
  if f = 8 then
    let t1 := es.foldl (fun s i => s.setMant (first + i) ((BitVec.ofNat 48 (raw i)).toInt)) t
    some ({ t1 with marks := (t.marks.filter fun e => !inRange e) ++ (es.filter fun i => raw i / 2 ^ 48 % 2 = 1).map (first + ·)
                    te := (BitVec.ofNat 12 (raw 0 / 2 ^ 49)).toInt }).resum
  else
    let marks := (t.marks.filter fun e => !inRange e) ++ (es.filter fun i => (tldValue f (raw i)).isNone).map (first + ·)
    let others := (List.range 4096).filter fun e => !inRange e && !t.marked e
    let loaded := es.filterMap fun i => (tldValue f (raw i)).map fun v => (first + i, v)
    let xs := others.map (fun e => (t.mant e, (0 : Int), (0 : Int))) ++ loaded.map fun x => ((0 : Int), x.2.1, x.2.2)
    match renormK t.te xs 4096 0 with
    | none => none
    | some k =>
      let g := t.te + k
      let t1 := others.foldl (fun s e => s.setMant e (rneGrid (t.mant e) t.te g)) t
      let t2 := loaded.foldl (fun s x => s.setMant x.1 (rneGrid x.2.1 x.2.2 g)) t1
      let t3 := (es.filter fun i => (tldValue f (raw i)).isNone).foldl (fun s i => s.setMant (first + i) 0) t2
      some ({ t3 with marks := marks, te := g }).resum

/-- The lowest row and column whose kept sum differs from the stored mantissas' (R290, R299); 64 where all agree. -/
def Tile.badRow (t : Tile) : Nat := ((List.range 64).find? fun i => Sparse.get 0#48 t.rows i != t.sumRow i).getD 64
def Tile.badCol (t : Tile) : Nat := ((List.range 64).find? fun i => Sparse.get 0#48 t.cols i != t.sumCol i).getD 64

/-- The array-cycle cost of an operation (R274). -/
def matCost (k : MatKind) (pr : Word) : Nat :=
  match k with
  | .mma => mmaCost pr
  | .mmap => mmaCost pr
  | .tzero => 4
  | .tnorm => 8
  | .tchk => 16
  | .tst => 64
  | .tld => 64
where
  /-- ceil(wa * wb * N / 128) + 4. -/
  mmaCost (pr : Word) : Nat :=
    let wa := (pr.extractLsb' 0 4).toNat + 1
    let wb := (pr.extractLsb' 4 4).toNat + 1
    (wa * wb * keptOf (pr.extractLsb' 10 3).toNat + 127) / 128 + 4

end Sys2Proof.Machine
end

