-- ==== Sys2Proof/Machine/Crews.lean ====
section
/-! DEFINITION. Crews, barriers, bins and warps as the core keeps them (R116-R135, R173, R249): the shared operations under the
instructions and events of the threads chapter. -/
namespace Sys2Proof.Machine

/-! ### Crews (R128-R133, R249) -/

/-- A kick or a queued tile operation names a crew (R249, R406). -/
def Core.crewNamed (c : Core) (crew : Nat) : Bool :=
  (c.kicks.any fun k => k.crew == crew) || (c.quads.any fun q => q.2.mq.any fun o => o.crew == crew) || c.array.any fun o => o.crew == crew
/-- Release a crew that its last member has left: its number, barrier and span, which a crew that is swapped out no longer holds (R128, R173,
R363). -/
def Core.releaseCrew (c : Core) (crew : Nat) : Core :=
  match c.crews.find crew with
  | none => c
  | some k =>
    if k.swapped then
      { c with crews := c.crews.drop crew
               swapped := (c.swapped.map fun (x : Nat × Saved) =>
                 (x.1, { x.2 with crews := x.2.crews.filter fun y => y.1 != crew || y.2.key != k.key })).filter fun x =>
                   !x.2.warps.isEmpty || !x.2.crews.isEmpty }
    else { c.unhaze .scratch (1024 * k.base) (1024 * k.g) with
             crews := c.crews.drop crew, scratch := Memory.zero c.scratch (1024 * k.base) (1024 * k.g) }
/-- The live crew that a key names for a context (R128); a crew that its last member has left has ended. -/
def Core.crewOfKey (c : Core) (ctx : Nat) (key : Word) : Option (Nat × Crew) :=
  c.crews.find? fun k => k.2.ctx == ctx && k.2.key == key && !k.2.members.isEmpty
/-- Change every warp that holds one of some members. -/
def Core.onMembers (c : Core) (ms : List Member) (f : Warp → Warp) : Core :=
  ((ms.map fun m => (m.quad, m.warp)).eraseDups).foldl (fun (c : Core) x =>
    match (c.quad x.1).warps.find x.2 with
    | some w => c.setQuad x.1 ((c.quad x.1).setWarp x.2 (f w))
    | none => c) c
/-- The slots of a warp that wait at a barrier are not ready before a CYCLE (R405). -/
def Warp.releaseFrom (w : Warp) (n : Nat) : Warp :=
  let late (p : Option Path) : Option Path := p.map fun p => match p.wait with
    | .barrier _ _ => { p with after := max p.after n }
    | _ => p
  { w with div := { w.div with s0 := late w.div.s0, s1 := late w.div.s1 } }
/-- Complete the barrier phase of a crew while every member has arrived in it (R131-R133): the phase advances, each arrived warp
gets a full point after its arrival and a progress counter of zero, members that wait are ready in the next CYCLE (R405), and repeat arrivals
count in the next phase. -/
def Core.phaseFrom (c : Core) (crew : Nat) : Nat → Core
  | 0 => c
  | n + 1 =>
    match c.crews.find crew with
    | none => c
    | some k =>
      if k.members.isEmpty || k.arrived.length != k.members.length then c
      else
        let came := k.members.filter fun m => k.arrived.contains m.seat
        let c := c.onMembers came fun w => w.resetProgress.fullPoint
        let c := c.onMembers k.members fun w => w.releaseFrom (c.cycle + 1)
        let k := { k with phase := k.phase + 1, arrived := k.again, again := [], due := k.due.filter c.owes ++ k.owed, owed := [] }
        Core.phaseFrom { c with crews := c.crews.put crew k } crew n
def Core.phaseCheck (c : Core) (crew : Nat) : Core := c.phaseFrom crew 2
/-- A member arrives (R131): in the current phase, or, having arrived in it, in the next. The phase in which it counts. -/
def Core.arrive (c : Core) (crew seat : Nat) (owed : Nat × Word × Nat) : Core × Word :=
  match c.crews.find crew with
  | none => (c, 0)
  | some k =>
    let k' := { k with owed := k.owed ++ [owed] }
    if k.arrived.contains seat then ({ c with crews := c.crews.put crew { k' with again := k.again ++ [seat] } }, k.phase + 1)
    else ({ c with crews := c.crews.put crew { k' with arrived := k.arrived ++ [seat] } }, k.phase)
/-- A member leaves its crew (LEAVE; R131): its seat is free; a phase may complete; the last member ends the crew. -/
def Core.leaveSeat (c : Core) (crew seat : Nat) : Core :=
  match c.crews.find crew with
  | none => c
  | some k =>
    let k := { k with members := k.members.filter fun m => m.seat ≠ seat
                      arrived := k.arrived.filter (· ≠ seat), again := k.again.filter (· ≠ seat) }
    let c := { c with crews := c.crews.put crew k }
    if k.members.isEmpty then (if c.crewNamed crew then c else c.releaseCrew crew) else c.phaseCheck crew
/-- The lanes of a warp that are members leave their crews, then `after`; what the Mangle can do for those crews comes last. -/
def State.leaveThen (s : State) (cn qn wn : Nat) (m : Word) (after : State → State) : State :=
  match s.warp cn qn wn with
  | none => s
  | some w =>
    let gone := w.remap.filter fun e => m.getLsbD e.1
    let s := s.setWarp cn qn wn { w with remap := w.remap.filter fun e => !m.getLsbD e.1 }
    let s := after (gone.foldl (fun s e => s.setCore cn ((s.core cn).leaveSeat e.2.1 e.2.2)) s)
    (gone.map fun e => e.2.1).eraseDups.foldl (fun s k => s.mangle cn k) s
def State.leaveLanes (s : State) (cn qn wn : Nat) (m : Word) : State := s.leaveThen cn qn wn m id

/-! ### Threads end (R118, R137) -/

/-- The threads of some lanes of a slot end: they leave their crews and the slot's mask, and their lanes are free before the Mangle looks
for places (R157); an exit sets a full point and resets the progress counter (R150, R308). -/
def State.endLanes (s : State) (cn qn wn kn : Nat) (m : Word) : State :=
  if m = 0#32 then s
  else
    s.leaveThen cn qn wn m fun s => s.onWarp cn qn wn fun w =>
      let w := { w with tids := w.tids.filter fun t => !m.getLsbD t.1
                        div := w.div.setSlot kn ((w.div.slot kn).map fun (p : Path) => { p with mask := p.mask &&& ~~~m }) }
      w.resetProgress.fullPoint
/-- The run of a word that ended threads goes on to its trailer for the lanes that are left, or is over. -/
def State.afterExit (s : State) (cn qn wn kn : Nat) : State :=
  match s.viewAt cn qn wn kn with
  | none => s
  | some V => if V.p.mask = 0#32 then V.vacate else s

/-! ### JOIN (R128-R130, R138) -/

/-- The crew size of a launch's image, and its granule count (R48). -/
def State.crewShape (s : State) (launch : Nat) : Nat × Nat :=
  match s.launches.find launch with
  | some L => (min 1024 L.crewSize, L.granules)
  | none => (1024, 0)
/-- A new crew on a core: the lowest run of free granules (R173), its span zero, and a free number, of which the spec does not say which:
the lowest (DESIGN CHOICE, notes/assumptions/60.md). -/
def Core.newCrew (c : Core) (key : Word) (ctx launch g limit : Nat) : Option Core :=
  match (List.range 64).find? fun n => (c.crews.find n).isNone, firstFit 296 g fun x => c.crews.any fun k =>
      decide (k.2.base ≤ x) && decide (x < k.2.base + k.2.g) && !k.2.swapped with
  | some n, some b =>
    some { c with crews := c.crews ++ [(n, { key := key, ctx := ctx, launch := launch, base := b, g := g, limit := limit, members := []
                                             phase := 0, arrived := [], again := [], owed := [], due := [], compacted := false
                                             swapped := false })] }
  | _, _ => none
/-- The keys of a JOIN that name no live crew of the context. -/
def View.newKeys (V : View) (key : Nat → Word) : List Word :=
  ((lanesOf V.em).map key).eraseDups.filter fun x => (V.c.crewOfKey V.w.ctx x).isNone
/-- Create every crew that a JOIN would create, all or none (R129). A new crew has no member yet, so it is found by key alone. -/
def View.createCrews (V : View) (key : Nat → Word) : Option Core :=
  let (limit, g) := V.s.crewShape V.w.launch
  (V.newKeys key).foldl (fun (c : Option Core) x => c.bind fun c => c.newCrew x V.w.ctx V.w.launch g limit) (some V.c)
/-- The crew that a lane joins, once its crews exist: a live one, else the newest of its key. -/
def Core.joined (c : Core) (ctx : Nat) (key : Word) : Option (Nat × Crew) :=
  match c.crewOfKey ctx key with
  | some x => some x
  | none => (c.crews.filter fun k => k.2.ctx == ctx && k.2.key == key).getLast?
/-- A JOIN waits: a crew to create has no number or granules, or a crew to enter is compacted or swapped out (R129, R157). -/
def View.joinWaits (V : View) (key : Nat → Word) : Bool :=
  (V.createCrews key).isNone || (lanesOf V.em).any fun l => match V.c.crewOfKey V.w.ctx (key l) with
    | some k => k.2.compacted || k.2.swapped
    | none => false
/-- The lanes whose crew would pass its limit. -/
def View.joinOver (V : View) (c : Core) (key : Nat → Word) : Word :=
  maskOf fun l => V.em.getLsbD l && match c.joined V.w.ctx (key l) with
    | some k => decide (k.2.limit < k.2.members.length + (lanesOf V.em).countP fun j => key j == key l)
    | none => false
/-- The seats of a JOIN, lane by lane: the lowest free seat of each lane's crew. -/
def View.seats (V : View) (c : Core) (key : Nat → Word) : Core × List (Nat × Nat × Nat) :=
  (lanesOf V.em).foldl (fun (p : Core × List (Nat × Nat × Nat)) l =>
    match p.1.joined V.w.ctx (key l) with
    | none => p
    | some (n, k) =>
      let seat := ((List.range 1024).find? fun x => !k.members.any fun m => m.seat == x).getD 0
      ({ p.1 with crews := p.1.crews.put n { k with members := k.members ++ [⟨seat, V.qn, V.wn, l⟩] } }, p.2 ++ [(l, n, seat)])) (c, [])
/-- JOIN at issue or when it proceeds: `none` while it waits. JOIN sets a full point (R308). -/
def View.joinNow (V : View) (i : Info) (d : Nat) (key : Nat → Word) : Option State :=
  if V.joinWaits key then none
  else match V.createCrews key with
  | none => none
  | some c =>
    if V.joinOver c key ≠ 0#32 then some (V.fault 0x0C2 0#64 (V.joinOver c key))
    else
      let r := V.seats c key
      let V := { V with c := r.1, w := { V.w with remap := V.w.remap ++ r.2 } }
      let V := V.writeLane d fun l => match r.2.find? fun x => x.1 == l with
        | some x => BitVec.ofNat 32 x.2.2
        | none => 0
      some (({ V with w := V.w.fullPoint } : View).retire i)

/-! ### Placement (R74, R117) -/

/-- The rows that a quadrant's warps and pairs hold. -/
def Quadrant.rowTaken (q : Quadrant) (row : Nat) : Bool := q.rowHeld row
/-- Where a quadrant places a warp of n lane rows: warp slot, base row and uniform pair. -/
def Quadrant.placeFor (q : Quadrant) (n : Nat) : Option (Nat × Nat × Nat) :=
  match (List.range 16).find? fun x => (q.warps.find x).isNone,
      ((List.range 119).map (8 * ·)).find? fun b => decide (b + n ≤ 952) && (List.range n).all fun i => !q.rowTaken (b + i) with
  | some x, some b =>
    match ((List.range 476).map fun i => 950 - 2 * i).find? fun u =>
        !q.rowTaken u && !q.rowTaken (u + 1) && (decide (u + 2 ≤ b) || decide (b + n ≤ u)) with
    | some u => some (x, b, u)
    | none => none
  | _, _ => none
/-- The quadrant that takes a new warp (R117): the first with room, from the one after the last chosen. -/
def Core.placeFor (c : Core) (n : Nat) : Option (Nat × Nat × Nat × Nat) :=
  ((List.range 4).map fun i => (c.lastQuad + 1 + i) % 4).findSome? fun q => ((c.quad q).placeFor n).map fun x => (q, x)
/-- Zero the rows of a warp. -/
def Quadrant.zeroRows (q : Quadrant) (base n ubase : Nat) : Quadrant :=
  { q with rf := Sparse.clear (fun i => (decide (base * 32 ≤ i) && decide (i < (base + n) * 32)) ||
      (decide (ubase * 32 ≤ i) && decide (i < (ubase + 2) * 32))) q.rf }
/-- A fresh warp (R117): threads in lanes 0 up, their payloads in v0 up, every other row zero, FMODE 0. -/
def freshWarp (uid ctx launch allot base ubase : Nat) (tids : List Word) (entry : Pc) : Warp :=
  let n := tids.length
  { uid := uid, ctx := ctx, launch := launch, mgmt := false, allot := allot, base := base, ubase := ubase
    tids := (List.range n).zip tids, remap := [], fmode := 0
    div := { s0 := some (freshPath entry (maskOf fun l => decide (l < n)) 0 false), s1 := none, n := 0, b := 0, top := none, progress := 0
             giveUp := none }
    trap := TrapRegs.zero, handler := none, pend := [], undef := [], tstRanges := [], sb := [], fences := [], rewind := .full, point := 0
    await := [], nap := none, yieldDue := false, yielded := none, stopped := false, seq := 0 }
/-- Create a warp on a core for some threads (TID and payload) at an entry (R117); `none` where it cannot be placed. -/
def State.createWarp (s : State) (cn launch : Nat) (entry : Pc) (ts : List (Word × List Word)) : Option State :=
  match s.launches.find launch with
  | none => none
  | some L =>
    let c := s.core cn
    match c.placeFor L.rcd.allot with
    | none => none
    | some (qn, wn, base, ubase) =>
      let w := freshWarp s.nextUid L.ctx launch L.rcd.allot base ubase (ts.map (·.1)) entry
      let q := (c.quad qn).zeroRows base L.rcd.allot ubase
      let rf := ((List.range ts.length).zip ts).foldl (fun rf t =>
        ((List.range t.2.2.length).zip t.2.2).foldl (fun rf p => Sparse.set 0#32 rf ((base + p.1) * 32 + t.1) p.2) rf) q.rf
      some { s.setCore cn { c.setQuad qn { q.setWarp wn w with rf := rf } with lastQuad := qn } with nextUid := s.nextUid + 1 }
/-- A context issues on a core in the current slice: its tenant holds the core, which is not draining (R307, R312). -/
def State.holdsCore (s : State) (cn ctx : Nat) : Bool :=
  (s.core cn).tenant == some (ctx / 64) && (s.core cn).phase == .running

/-! ### Bins and the spill region (R120-R127) -/

/-- A thread record as its 48 bytes (R122). -/
def ThreadRec.bytes (t : ThreadRec) : List Byte :=
  toLe t.entry.toNat 8 ++ toLe t.tid.toNat 4 ++ toLe (t.key.getD 0).toNat 2 ++ toLe t.payload.length 1 ++
    toLe (if t.key.isSome then 1 else 0) 1 ++ (t.payload.flatMap fun w => toLe w.toNat 4) ++
    List.replicate (4 * (8 - t.payload.length)) 0#8
/-- The threads of a launch that hold records of its spill region, on every core, drained tenants' included. -/
def State.spilledOf (s : State) (launch : Nat) : List ThreadRec :=
  (s.cores.flatMap fun c => c.2.spilled ++ c.2.saved.flatMap fun x => x.spilled).filter fun t => t.launch == launch
/-- A free record of a launch's spill region. The spec does not say which one a thread takes: the lowest (DESIGN CHOICE,
notes/assumptions/61.md). -/
def State.spillPlace (s : State) (launch : Nat) : Option Nat :=
  match s.launches.find launch with
  | none => none
  | some L =>
    let held := (s.spilledOf launch).filterMap (·.place)
    (List.range L.rcd.spillCount).find? fun n => !held.contains n
/-- The address of a thread's record. -/
def State.recordVa (s : State) (t : ThreadRec) : Nat := match s.launches.find t.launch with
  | some L => L.rcd.spillBase.toNat + 48 * t.place.getD 0
  | none => 0
/-- Give a thread a record of its launch's spill region; `none` where the region is full. -/
def State.spill (s : State) (cn : Nat) (t : ThreadRec) : Option State :=
  match s.spillPlace t.launch with
  | some n =>
    let c := s.core cn
    some (s.setCore cn { c with spilled := c.spilled ++ [{ t with place := some n }] })
  | none => none
/-- The first cause among the addresses of some threads' records, with the lowest failing address (R235, R350). -/
def State.recordFault (s : State) (cn ctx : Nat) (need : Need) (ts : List ThreadRec) : Option (Nat × Dword) :=
  let bad := ts.flatMap fun t => (List.range 48).filterMap fun i =>
    if canonicalRange (s.recordVa t + i) 1 = false then some (0x042, BitVec.ofNat 64 (s.recordVa t + i))
    else match s.translate cn false ctx need (s.recordVa t + i) with
    | .fault c => some (c, BitVec.ofNat 64 (s.recordVa t + i))
    | .ok (.mem _) => none
    | .ok _ => some (0x045, BitVec.ofNat 64 (s.recordVa t + i))
    | .migrating => none
  (firstCause (bad.map (·.1))).map fun c => (c, lowestVa ((bad.filter fun x => x.1 == c).map (·.2)))
/-- The addresses of records that lie on a migrating page. -/
def State.recordsMoving (s : State) (cn ctx : Nat) (need : Need) (ts : List ThreadRec) : List Nat :=
  ts.flatMap fun t => ((List.range 48).map (s.recordVa t + ·)).filter fun va => s.translate cn false ctx need va == .migrating
/-- The lines of some threads' records. -/
def State.recordLines (s : State) (cn ctx : Nat) (ts : List ThreadRec) : List Nat :=
  (ts.flatMap fun t => match s.placesVa cn false ctx .write (s.recordVa t) 48 with
    | .ok pas => pas.map lineOf
    | .error _ => []).eraseDups
/-- A failed access to the spill region is a fault against the warp that has caused it (R350): it is raised as the warp goes on; where the warp has
ended, it counts against the launch. -/
def State.blame (s : State) (cn uid launch cause : Nat) (va : Dword) : State :=
  match (s.core cn).warps.find? fun x => x.2.2.uid == uid with
  | none => s.countFault launch
  | some (qn, wn, w) =>
    let p := w.div.s0.or w.div.s1
    s.setWarp cn qn wn { w with trap := { w.trap with deferred := w.trap.deferred ++
      [{ op := 0, cause := cause, epc := ((p.map (·.pc)).map pcVa).getD 0, eva := va, fmask := 0, reissue := none, plain := true }] } }
/-- Write the records of some threads; one that cannot be written is a fault against the warp that deposited it. -/
def State.writeRecords (s : State) (cn ctx : Nat) (ts : List ThreadRec) : State :=
  ts.foldl (fun s t => match s.writeVa cn false ctx (s.recordVa t) t.bytes with
    | .done s => s
    | .waits s => s
    | .fault _ => match s.recordFault cn ctx .write [t] with
      | some (c, va) => s.blame cn t.afterUid t.launch c va
      | none => s) s
/-- A thread belongs under a bin's key (R120). -/
def ThreadRec.under (t : ThreadRec) (b : Bin) : Bool := t.launch == b.launch && t.entry == b.entry && t.key == b.key
/-- Deposit a thread (R120, R121): its bin, unless that is full or older threads of it stand in the spill region; a free bin; or the spill region;
`none` where that is full. -/
def State.deposit (s : State) (cn : Nat) (t : ThreadRec) : Option State :=
  let c := s.core cn
  match c.bins.find? fun b => t.under b.2 with
  | some (n, b) =>
    if b.threads.length < 32 && !c.spilled.any (·.under b) then some (s.setCore cn { c with bins := c.bins.put n { b with threads := b.threads ++ [t] } })
    else s.spill cn t
  | none =>
    match (List.range 16).find? fun n => (c.bins.find n).isNone with
    | some n => some (s.setCore cn { c with bins := c.bins ++ [(n, { launch := t.launch, entry := t.entry, key := t.key, threads := [t]
                                                                     expired := false })] })
    | none => s.spill cn t
/-- Deposit threads in order; `none` if any finds no place. -/
def State.depositAll (s : State) (cn : Nat) : List ThreadRec → Option State
  | [] => some s
  | t :: ts => (s.deposit cn t).bind fun s => State.depositAll s cn ts
/-- The threads of one depositing word, ascending by lane, in its order on the core. -/
def View.records (V : View) (entry : Nat → Dword) (tid : Nat → Word) (key : Nat → Option (BitVec 16)) (d : BitVec 7) (p : BitVec 4) :
    List ThreadRec :=
  (lanesOf V.em).map fun l =>
    { entry := entry l, tid := tid l, key := key l, payload := (List.range p.toNat).map fun j => V.lane (d.toNat + j) l
      launch := V.w.launch, stamp := V.s.nextUid + l, cycle := V.c.cycle, afterUid := V.w.uid, afterLanes := BitVec.ofNat 32 (2 ^ l)
      afterSeq := V.w.seq, place := none }
/-- Oldest first: threads stand in deposit order, so the first of a key is its oldest. -/
def Core.oldestKey (c : Core) : Option ThreadRec :=
  (c.spilled.filter fun t => !c.bins.any fun b => t.under b.2).foldl (fun m t => match m with
    | some x => if t.stamp < x.stamp then some t else some x
    | none => some t) none
/-- The threads with which a bin refills from the spill region (R121), or the waiting key that takes its place. -/
def Core.refilling (c : Core) (b : Bin) : List ThreadRec :=
  match (c.spilled.filter fun t => t.under b).take (32 - b.threads.length) with
  | t :: ts => t :: ts
  | [] => if b.threads.isEmpty then match c.oldestKey with
      | some t => (c.spilled.filter fun x => x.launch == t.launch && x.entry == t.entry && x.key == t.key).take 32
      | none => [] else []
/-- Refill a bin from the spill region, oldest first, up to 32 (R121); an empty bin with nothing spilled under its key is freed, and
taken for the waiting key whose oldest thread is oldest (R120, R126). -/
def Core.refill (c : Core) (n : Nat) (b : Bin) : Core :=
  let mine := c.spilled.filter fun t => t.under b
  let take := mine.take (32 - b.threads.length)
  let left := c.spilled.filter fun t => !take.contains t
  let b := { b with threads := b.threads ++ take.map fun (t : ThreadRec) => { t with place := none } }
  let c := { c with spilled := left }
  if b.threads.isEmpty then
    let c := { c with bins := c.bins.drop n }
    match c.oldestKey with
    | none => c
    | some t =>
      let b : Bin := { launch := t.launch, entry := t.entry, key := t.key, threads := [], expired := false }
      let mine := (c.spilled.filter fun (t : ThreadRec) => t.under b).take 32
      { c with bins := c.bins ++ [(n, { b with threads := mine.map fun (t : ThreadRec) => { t with place := none } })]
               spilled := c.spilled.filter fun t => !mine.contains t }
  else { c with bins := c.bins.put n b }
/-- A bin is ready (R123). -/
def Bin.ready (b : Bin) : Bool := b.threads.length == 32 || (b.expired && !b.threads.isEmpty)
/-- The stamp of a bin's oldest thread. -/
def Bin.age (b : Bin) : Nat := match b.threads.head? with
  | some t => t.stamp
  | none => 0
/-- Every access that the depositing threads made before their deposits is bound or performed (R125). -/
def Core.released (c : Core) (ts : List ThreadRec) : Bool := ts.all fun t => !c.owes (t.afterUid, t.afterLanes, t.afterSeq)

end Sys2Proof.Machine
end

