-- ==== Sys2Proof/Machine/Scratch.lean ====
section
/-! DEFINITION. Scratchpad accesses and arrival words (R169-R186). -/
namespace Sys2Proof.Machine

/-! ### Addresses and checks (R170) -/

/-- A lane's scratchpad address: the crew's span, the offset presented, and the core address. -/
structure Spot where
  lane : Nat
  crew : Option Crew
  off : Nat
  deriving DecidableEq, Repr
def Spot.addr (x : Spot) : Nat := match x.crew with
  | some k => 1024 * k.base + x.off
  | none => x.off
/-- The addresses of a scratchpad word, ascending by lane. -/
def View.spots (V : View) (a : BitVec 7) (k : BitVec 3) : List Spot :=
  (lanesOf V.em).map fun l =>
    { lane := l, crew := (V.w.crewOf l).bind V.c.crews.find
      off := (V.lane a.toNat l + if k = 0#3 then 0#32 else V.uni k.toNat).toNat }
/-- The first check that some lane fails, with the lanes that fail it. -/
def spotFault (width align : Nat) (xs : List Spot) : Option (Nat × List Spot) :=
  let outside (x : Spot) : Bool := match x.crew with
    | some k => k.swapped || decide (1024 * k.g < x.off + width)
    | none => true
  match xs.filter fun x => x.crew.isNone with
  | y :: ys => some (0x00C, y :: ys)
  | [] => match xs.filter outside with
    | y :: ys => some (0x046, y :: ys)
    | [] => match xs.filter fun x => x.off % align != 0 with
      | y :: ys => some (0x047, y :: ys)
      | [] => none

/-! ### Banks and time (R171, R172) -/

/-- The n-th cycle from `t` that is not reserved. -/
def freeCycle : Nat → Nat → Nat
  | 0, t => t
  | n + 1, t => freeCycle n (if (t + 1) % 8 = 7 then t + 2 else t + 1)
/-- The cycles that an access occupies the banks: words by bank, distinct for loads and stores. -/
def bankCycles (distinct : Bool) (words : List Nat) : Nat :=
  let ws := if distinct then words.eraseDups else words
  max 1 ((List.range 37).foldl (fun m b => max m (ws.countP fun w => w % 37 == b)) 0)
/-- The 8-byte words that an access requests (R172): two of an arrival word, as of a 128-bit access (DESIGN CHOICE, notes/assumptions/75.md). -/
def spotWords (width : Nat) (xs : List Spot) : List Nat :=
  xs.flatMap fun x => if width = 16 then [x.addr / 8, x.addr / 8 + 1] else [x.addr / 8]

/-! ### Arrival words (R179, R180) -/

def Memory.word (m : Memory) (x : Nat) : Word := BitVec.ofNat 32 (leNat (Sparse.getAll 0#8 m x 4))
def Memory.putWord (m : Memory) (x : Nat) (v : Word) : Memory := Sparse.setAll 0#8 m x (toLe v.toNat 4)
/-- An arrival of u at the word at x: one indivisible action, with the generation step that it makes. -/
def Memory.arrive (m : Memory) (x : Nat) (u : Word) : Memory :=
  let sum := (m.word x).toNat + u.toNat
  let count := min sum 0xFFFFFFFF
  let flags := m.word (x + 12) ||| if 0xFFFFFFFF < sum then 1#32 else 0#32
  let target := (m.word (x + 4)).toNat
  if target ≠ 0 ∧ target ≤ count then
    (((m.putWord x (BitVec.ofNat 32 (count % target))).putWord (x + 8) (m.word (x + 8) + BitVec.ofNat 32 (count / target)))).putWord
      (x + 12) (flags ||| 2#32)
  else (m.putWord x (BitVec.ofNat 32 count)).putWord (x + 12) flags

/-! ### Performing an access (R177, R182-R185) -/

/-- The scratchpad with `n` bytes as a reader finds them: free values where a TST writes before its MWAIT (R288). -/
def Core.asRead (c : Core) (fresh : Nat) (m : Memory) (x n : Nat) : Memory :=
  (List.range n).foldl (fun m i => if c.hazy .scratch (x + i) then Sparse.set 0#8 m (x + i) (c.scratchByte fresh (x + i)) else m) m
/-- An arrival of u at the word at x from another agent. -/
def Core.arrived (c : Core) (fresh x : Nat) (u : Word) : Core := { c with scratch := (c.asRead fresh c.scratch x 16).arrive x u }
/-- What one lane does, in the scratchpad `m` of which it finds `r`: its value and the scratchpad after it. -/
def spotAct (k : LongKind) (width : Nat) (data : BitVec 128) (m r : Memory) (x : Nat) : Memory × Option (BitVec 128) :=
  match k with
  | .scratchLoad signed => (m, some (extended signed width (leNat (Sparse.getAll 0#8 r x width))))
  | .scratchStore => (Sparse.setAll 0#8 m x (toLe data.toNat width), none)
  | .scratchAtomic op =>
    let old := r.word x
    (r.putWord x (BitVec.ofNat 32 (op.apply 32 old.toNat (data.toNat % 2 ^ 32) (data.toNat / 2 ^ 32 % 2 ^ 32))), some (old.setWidth 128))
  | .arset => (((m.putWord x 0).putWord (x + 4) (data.setWidth 32)).putWord (x + 12) 0, none)
  | .aradd => (r.arrive x (data.setWidth 32), some ((r.word x).setWidth 128))
  | .arpoll => (m, some ((r.word (x + 8)).setWidth 128))
  | .arwait =>
    let d := (r.word (x + 8) - data.setWidth 32).toNat
    (m, if 1 ≤ d ∧ d ≤ 2 ^ 31 then some ((r.word (x + 8)).setWidth 128) else none)
  | _ => (m, none)
/-- A scratchpad word: width and alignment of its accesses, its kind, and its data and destination registers. -/
structure SpotForm where
  width : Nat
  align : Nat
  kind : LongKind
  dest : Nat
  regs : Nat
  deriving DecidableEq, Repr
/-- The cycle E of an access that was accepted at a CYCLE (R172). -/
def SpotForm.last (f : SpotForm) (xs : List Spot) (at_ : Nat) : Nat :=
  freeCycle (bankCycles (match f.kind with
    | .scratchLoad _ => true
    | .scratchStore => true
    | _ => false) (spotWords f.width xs) - 1) at_
/-- The banks are taken up to an access's cycle E, counted from its acceptance; it is presented no longer. -/
def View.occupy (V : View) (f : SpotForm) (xs : List Spot) (at_ : Nat) : View :=
  { V with c := { V.c with scratchFree := freeCycle 1 (f.last xs at_) }, q := { V.q with presented := none } }
/-- The access is performed, every lane in ascending order; its values become visible at E + 12. -/
def View.perform (V : View) (f : SpotForm) (d la : Nat) (xs : List Spot) (at_ : Nat) : View :=
  let data (l : Nat) : BitVec 128 := V.laneN d f.regs l
  let r := xs.foldl (fun (p : Memory × List (Nat × BitVec 128)) x =>
    let y := spotAct f.kind f.width (data x.lane) p.1 (V.c.asRead V.s.fresh p.1 x.addr f.align) x.addr
    (y.1, match y.2 with
      | some v => p.2 ++ [(x.lane, v)]
      | none => p.2)) (V.c.scratch, [])
  let ds := (List.range f.dest).map (d + ·)
  let V := { V.occupy f xs at_ with c := { (V.occupy f xs at_).c with scratch := r.1 } }
  if f.dest = 0 then V
  else
    let V := ds.foldl View.noteLane V
    let accs := if f.kind = .arwait then xs.map fun x =>
        ({ lane := x.lane, va := 0, loc := .scratch V.cn x.addr, width := 4, data := data x.lane } : LaneAcc) else []
    { V with w := { V.w with
        seq := V.w.seq + 1
        pend := V.w.pend ++ [{ V.producer f.kind ds la false V.em accs with vals := r.2, at_ := f.last xs at_ + 12 }] } }
/-- The lanes whose ARWAIT names a generation that has not come yet and never will (R186). -/
def View.waitBad (V : View) (f : SpotForm) (d : Nat) (xs : List Spot) : List Spot :=
  if f.kind = .arwait then
    xs.filter fun x => decide (2 ^ 31 < ((V.c.asRead V.s.fresh V.c.scratch x.addr 16).word (x.addr + 8) - (V.laneN d 1 x.lane).setWidth 32).toNat)
  else []
/-- A scratchpad word (R170, R171): the checks, for every lane before any acts; fences and the order within a thread, where a wait for a
held store ends the hold (R310); then it is presented, waits at issue until it is accepted, and is performed. With an empty EM it only
opens its window (R186). -/
def View.scratchpad (V : View) (i : Info) (f : SpotForm) (d a : BitVec 7) (l : BitVec 4) (k : BitVec 3) : State :=
  let xs := V.spots a k
  if 32 < V.w.pendingCount + f.dest then V.breakRun (.score [] [] f.dest)
  else match spotFault f.width f.align xs with
  | some (cause, bad) => V.fault cause (match bad.head? with
      | some x => BitVec.ofNat 64 x.addr
      | none => 0) (maskOf fun l => bad.any fun x => x.lane == l)
  | none =>
    let writes := match f.kind with
      | .scratchLoad _ => false
      | .arpoll => false
      | .arwait => false
      | _ => true
    V.fenced V.em false writes fun V =>
      let ask (x : Spot) : Ask :=
        { seq := V.w.seq, lanes := V.em, acc := { lane := x.lane, va := 0, loc := .scratch V.cn x.addr, width := f.width, data := 0 }
          writes := writes, acquires := f.kind == .arwait || f.kind == .arpoll, releases := false, volatile := false, forwards := false }
      let mine (x : Presented) : Bool := x.accepted && x.warp == V.wn && x.slot == V.kn && x.pc == V.p.pc
      if xs.isEmpty then
        (if f.dest = 0 then V else V.windowOnly f.kind ((List.range f.dest).map (d.toNat + ·)) l.toNat).retire i
      else if xs.any fun x => V.w.blocked (ask x) then
        (if xs.any fun x => V.w.sb.any fun b => b.held && (ask x).needs b then { V with w := V.w.fullPoint } else V).hold 4
      else match V.q.presented.filter mine with
        | some x =>
          match V.waitBad f d.toNat xs with
          | [] => (V.perform f d.toNat l.toNat xs x.at_).retire i
          | bad => (V.occupy f xs x.at_).fault 0x0C8 0#64 (maskOf fun l => bad.any fun x => x.lane == l)
        | none =>
          { V with q := { V.q with presented := some { warp := V.wn, slot := V.kn, pc := V.p.pc, accepted := false } } }.hold 4

/-- An abandoned ARWAIT is issued again alone, for the lanes of its first issue and with its destination pending: it is accepted in its
quadrant's turn, occupies the banks once, and reads the generation anew; a lane that fails the check of R186 traps (R185). -/
def State.arwaitAgain (s : State) (cn qn wn : Nat) (w : Warp) (o : LongOp) : State :=
  let c := s.core cn
  let t := c.nextFree
  let spots := o.accs.filterMap fun a => match a.loc with
    | .scratch _ x => some (a.lane, x, a.data.setWidth 32)
    | _ => none
  if !s.warpOn cn c w || c.accepting || !(s.comes cn t && (s.nextTurn cn).isNone) || (rotationAt t).find? (fun n => n == qn || ((c.quad n).presents false).isSome) ≠ some qn then s
  else
    let e := freeCycle (bankCycles false (spots.flatMap fun x => [x.2.1 / 8, x.2.1 / 8 + 1]) - 1) t
    let gen (x : Nat) : Word := (c.asRead s.fresh c.scratch x 16).word (x + 8)
    let s := s.setCore cn { c with cycle := t, scratchFree := freeCycle 1 e }
    match spots.filter fun x => decide (2 ^ 31 < (gen x.2.1 - x.2.2).toNat) with
    | [] =>
      let out := spots.filterMap fun x => if gen x.2.1 = x.2.2 then none else some (x.1, (gen x.2.1).setWidth 128)
      s.setWarp cn qn wn { w with pend := w.pend.map fun y => if y.seq = o.seq then { y with posted := false, vals := out, at_ := e + 12 } else y }
    | bad => s.mgmtTrap cn qn wn o.slot { cause := 0x0C8, epc := pcVa o.pc, eva := 0, fmask := maskOf fun l => bad.any fun x => x.1 == l
                                          replay := 0, again := false, last := false, isDeferred := false, escalated := false, service := none
                                          reissue := none }
/-- SCRATCHPAD_ACCEPT (R171): in a CYCLE that is neither reserved nor taken, once every quadrant has had its turn, the first quadrant of the
rotation that presents an access has it accepted; its word then issues. -/
def execScratchpadAccept (core : Nat) (s : State) : Host.Outcome State Fault Refusal :=
  let c := s.core core
  if s.acceptDue core = false then .next s
  else
    let t := c.cycle
    match (rotationAt t).findSome? fun n => ((c.quad n).presents false).map fun x => (n, x) with
    | none => .next s
    | some (n, x) =>
      let q := c.quad n
      let q := { q with presented := some { x with accepted := true, at_ := t } }
      let q := match q.warps.find x.warp with
        | some w => q.setWarp x.warp { w with div := w.div.setSlot x.slot ((w.div.slot x.slot).map fun p => { p with wait := .none }) }
        | none => q
      .next (s.setCore core (c.setQuad n q))

/-- LDS_8 (R182): Loads a zero-extended scratchpad byte per lane. -/
def execLds8 (d : BitVec 7) (a : BitVec 7) (l : BitVec 4) (k : BitVec 3) (s : State) : Host.Outcome State Fault Refusal :=
  issue (Info.scr (one d) a k) true s fun V => 
    V.scratchpad (Info.scr (one d) a k) ⟨1, 1, .scratchLoad false, 1, 0⟩ d a l k
/-- LDS_8S (R182): Loads a sign-extended scratchpad byte per lane. -/
def execLds8s (d : BitVec 7) (a : BitVec 7) (l : BitVec 4) (k : BitVec 3) (s : State) : Host.Outcome State Fault Refusal :=
  issue (Info.scr (one d) a k) true s fun V => 
    V.scratchpad (Info.scr (one d) a k) ⟨1, 1, .scratchLoad true, 1, 0⟩ d a l k
/-- LDS_16 (R182): Loads a zero-extended scratchpad halfword per lane. -/
def execLds16 (d : BitVec 7) (a : BitVec 7) (l : BitVec 4) (k : BitVec 3) (s : State) : Host.Outcome State Fault Refusal :=
  issue (Info.scr (one d) a k) true s fun V => 
    V.scratchpad (Info.scr (one d) a k) ⟨2, 2, .scratchLoad false, 1, 0⟩ d a l k
/-- LDS_16S (R182): Loads a sign-extended scratchpad halfword per lane. -/
def execLds16s (d : BitVec 7) (a : BitVec 7) (l : BitVec 4) (k : BitVec 3) (s : State) : Host.Outcome State Fault Refusal :=
  issue (Info.scr (one d) a k) true s fun V => 
    V.scratchpad (Info.scr (one d) a k) ⟨2, 2, .scratchLoad true, 1, 0⟩ d a l k
/-- LDS_32 (R182): Loads a scratchpad word per lane. -/
def execLds32 (d : BitVec 7) (a : BitVec 7) (l : BitVec 4) (k : BitVec 3) (s : State) : Host.Outcome State Fault Refusal :=
  issue (Info.scr (one d) a k) true s fun V => 
    V.scratchpad (Info.scr (one d) a k) ⟨4, 4, .scratchLoad false, 1, 0⟩ d a l k
/-- LDS_64 (R182): Loads a scratchpad doubleword into a pair per lane. -/
def execLds64 (d : BitVec 7) (a : BitVec 7) (l : BitVec 4) (k : BitVec 3) (s : State) : Host.Outcome State Fault Refusal :=
  issue (Info.scr (two d) a k) true s fun V => 
    V.scratchpad (Info.scr (two d) a k) ⟨8, 8, .scratchLoad false, 2, 0⟩ d a l k
/-- LDS_128 (R182): Loads 16 scratchpad bytes into a quad per lane. -/
def execLds128 (d : BitVec 7) (a : BitVec 7) (l : BitVec 4) (k : BitVec 3) (s : State) : Host.Outcome State Fault Refusal :=
  issue (Info.scr (four d) a k) true s fun V => 
    V.scratchpad (Info.scr (four d) a k) ⟨16, 16, .scratchLoad false, 4, 0⟩ d a l k
/-- STS_8 (R182): Stores the low byte of each lane to the scratchpad. -/
def execSts8 (d : BitVec 7) (a : BitVec 7) (l : BitVec 4) (k : BitVec 3) (s : State) : Host.Outcome State Fault Refusal :=
  issue (Info.scr (one d) a k) true s fun V => 
    V.scratchpad (Info.scr (one d) a k) ⟨1, 1, .scratchStore, 0, 1⟩ d a l k
/-- STS_16 (R182): Stores the low halfword of each lane to the scratchpad. -/
def execSts16 (d : BitVec 7) (a : BitVec 7) (l : BitVec 4) (k : BitVec 3) (s : State) : Host.Outcome State Fault Refusal :=
  issue (Info.scr (one d) a k) true s fun V => 
    V.scratchpad (Info.scr (one d) a k) ⟨2, 2, .scratchStore, 0, 1⟩ d a l k
/-- STS_32 (R182): Stores a word per lane to the scratchpad. -/
def execSts32 (d : BitVec 7) (a : BitVec 7) (l : BitVec 4) (k : BitVec 3) (s : State) : Host.Outcome State Fault Refusal :=
  issue (Info.scr (one d) a k) true s fun V => 
    V.scratchpad (Info.scr (one d) a k) ⟨4, 4, .scratchStore, 0, 1⟩ d a l k
/-- STS_64 (R182): Stores a pair per lane to the scratchpad. -/
def execSts64 (d : BitVec 7) (a : BitVec 7) (l : BitVec 4) (k : BitVec 3) (s : State) : Host.Outcome State Fault Refusal :=
  issue (Info.scr (two d) a k) true s fun V => 
    V.scratchpad (Info.scr (two d) a k) ⟨8, 8, .scratchStore, 0, 2⟩ d a l k
/-- STS_128 (R182): Stores a quad per lane to the scratchpad. -/
def execSts128 (d : BitVec 7) (a : BitVec 7) (l : BitVec 4) (k : BitVec 3) (s : State) : Host.Outcome State Fault Refusal :=
  issue (Info.scr (four d) a k) true s fun V => 
    V.scratchpad (Info.scr (four d) a k) ⟨16, 16, .scratchStore, 0, 4⟩ d a l k
/-- ATS_ADD (R183): Scratchpad atomic add returning the old word, lanes in ascending order. -/
def execAtsAdd (d : BitVec 7) (a : BitVec 7) (l : BitVec 4) (k : BitVec 3) (s : State) : Host.Outcome State Fault Refusal :=
  issue ((Info.scr (one d) a k).closing) true s fun V => 
    V.scratchpad ((Info.scr (one d) a k).closing) ⟨4, 4, .scratchAtomic .add, 1, 1⟩ d a l k
/-- ATS_MIN_S (R183): Scratchpad atomic signed minimum. -/
def execAtsMinS (d : BitVec 7) (a : BitVec 7) (l : BitVec 4) (k : BitVec 3) (s : State) : Host.Outcome State Fault Refusal :=
  issue ((Info.scr (one d) a k).closing) true s fun V => 
    V.scratchpad ((Info.scr (one d) a k).closing) ⟨4, 4, .scratchAtomic .minS, 1, 1⟩ d a l k
/-- ATS_MAX_S (R183): Scratchpad atomic signed maximum. -/
def execAtsMaxS (d : BitVec 7) (a : BitVec 7) (l : BitVec 4) (k : BitVec 3) (s : State) : Host.Outcome State Fault Refusal :=
  issue ((Info.scr (one d) a k).closing) true s fun V => 
    V.scratchpad ((Info.scr (one d) a k).closing) ⟨4, 4, .scratchAtomic .maxS, 1, 1⟩ d a l k
/-- ATS_MIN_Z (R183): Scratchpad atomic unsigned minimum. -/
def execAtsMinZ (d : BitVec 7) (a : BitVec 7) (l : BitVec 4) (k : BitVec 3) (s : State) : Host.Outcome State Fault Refusal :=
  issue ((Info.scr (one d) a k).closing) true s fun V => 
    V.scratchpad ((Info.scr (one d) a k).closing) ⟨4, 4, .scratchAtomic .minZ, 1, 1⟩ d a l k
/-- ATS_MAX_Z (R183): Scratchpad atomic unsigned maximum. -/
def execAtsMaxZ (d : BitVec 7) (a : BitVec 7) (l : BitVec 4) (k : BitVec 3) (s : State) : Host.Outcome State Fault Refusal :=
  issue ((Info.scr (one d) a k).closing) true s fun V => 
    V.scratchpad ((Info.scr (one d) a k).closing) ⟨4, 4, .scratchAtomic .maxZ, 1, 1⟩ d a l k
/-- ATS_AND (R183): Scratchpad atomic AND. -/
def execAtsAnd (d : BitVec 7) (a : BitVec 7) (l : BitVec 4) (k : BitVec 3) (s : State) : Host.Outcome State Fault Refusal :=
  issue ((Info.scr (one d) a k).closing) true s fun V => 
    V.scratchpad ((Info.scr (one d) a k).closing) ⟨4, 4, .scratchAtomic .and, 1, 1⟩ d a l k
/-- ATS_OR (R183): Scratchpad atomic OR. -/
def execAtsOr (d : BitVec 7) (a : BitVec 7) (l : BitVec 4) (k : BitVec 3) (s : State) : Host.Outcome State Fault Refusal :=
  issue ((Info.scr (one d) a k).closing) true s fun V => 
    V.scratchpad ((Info.scr (one d) a k).closing) ⟨4, 4, .scratchAtomic .or, 1, 1⟩ d a l k
/-- ATS_XOR (R183): Scratchpad atomic XOR. -/
def execAtsXor (d : BitVec 7) (a : BitVec 7) (l : BitVec 4) (k : BitVec 3) (s : State) : Host.Outcome State Fault Refusal :=
  issue ((Info.scr (one d) a k).closing) true s fun V => 
    V.scratchpad ((Info.scr (one d) a k).closing) ⟨4, 4, .scratchAtomic .xor, 1, 1⟩ d a l k
/-- ATS_XCHG (R183): Scratchpad atomic exchange. -/
def execAtsXchg (d : BitVec 7) (a : BitVec 7) (l : BitVec 4) (k : BitVec 3) (s : State) : Host.Outcome State Fault Refusal :=
  issue ((Info.scr (one d) a k).closing) true s fun V => 
    V.scratchpad ((Info.scr (one d) a k).closing) ⟨4, 4, .scratchAtomic .xchg, 1, 1⟩ d a l k
/-- ATS_CAS (R183): Scratchpad atomic compare-and-swap on a pair operand. -/
def execAtsCas (d : BitVec 7) (a : BitVec 7) (l : BitVec 4) (k : BitVec 3) (s : State) : Host.Outcome State Fault Refusal :=
  issue ((Info.scr (two d) a k).closing) true s fun V => 
    V.scratchpad ((Info.scr (two d) a k).closing) ⟨4, 4, .scratchAtomic .cas, 1, 2⟩ d a l k
/-- ARSET (R184): Arms an arrival word with a target, clearing count and flags. -/
def execArset (d : BitVec 7) (a : BitVec 7) (l : BitVec 4) (k : BitVec 3) (s : State) : Host.Outcome State Fault Refusal :=
  issue ((Info.scr (one d) a k).closing) true s fun V => 
    V.scratchpad ((Info.scr (one d) a k).closing) ⟨16, 16, .arset, 0, 1⟩ d a l k
/-- ARADD (R184): Makes an arrival of v[d] on an arrival word, returning the old count. -/
def execAradd (d : BitVec 7) (a : BitVec 7) (l : BitVec 4) (k : BitVec 3) (s : State) : Host.Outcome State Fault Refusal :=
  issue ((Info.scr (one d) a k).closing) true s fun V => 
    V.scratchpad ((Info.scr (one d) a k).closing) ⟨16, 16, .aradd, 1, 1⟩ d a l k
/-- ARWAIT (R185): Waits until an arrival word's generation passes each lane's value. -/
def execArwait (d : BitVec 7) (a : BitVec 7) (l : BitVec 4) (k : BitVec 3) (s : State) : Host.Outcome State Fault Refusal :=
  issue (Info.scr (one d) a k) true s fun V => 
    V.scratchpad (Info.scr (one d) a k) ⟨16, 16, .arwait, 1, 1⟩ d a l k
/-- ARPOLL (R185): Reads an arrival word's generation with acquire. -/
def execArpoll (d : BitVec 7) (a : BitVec 7) (l : BitVec 4) (k : BitVec 3) (s : State) : Host.Outcome State Fault Refusal :=
  issue (Info.scr (one d) a k) true s fun V => 
    V.scratchpad (Info.scr (one d) a k) ⟨16, 16, .arpoll, 1, 0⟩ d a l k

end Sys2Proof.Machine
end

