-- ==== Sys2Proof/Machine/Ladle.lean ====
section
/-! DEFINITION. The Ladle copy engine (R247-R260): kicks, request records, segments, peer segments and multicast deliveries. -/
namespace Sys2Proof.Machine

/-! ### Budgets of the array and the Ladle (R303, R318) -/

/-- What remains of a node's array-cycles stands under its number, of its Ladle units under this key. -/
def ladleKey (node : Nat) : Nat := 0x10000 + node
/-- Some limited node of a context has no Ladle units left on a core. -/
def State.ladleSpent (s : State) (c : Core) (ctx : Nat) : Bool :=
  (budgetNodes ctx).any fun n => limited (s.grant n).ladle && decide (Sparse.get 0 c.left (ladleKey n) ≤ 0)
/-- Charge Ladle units; an exhausted context draws on the tenant's pool. -/
def State.chargeLadle (s : State) (c : Core) (ctx units : Nat) : Core :=
  if s.ladleSpent c ctx && decide (0 < c.pool.2.2) then { c with pool := (c.pool.1, c.pool.2.1, c.pool.2.2 - units) }
  else { c with left := (budgetNodes ctx).foldl (fun m n =>
    if limited (s.grant n).ladle then Sparse.set 0 m (ladleKey n) (Sparse.get 0 m (ladleKey n) - units) else m) c.left }
/-- A context's work goes on on a core in this slice: its tenant holds the core, which does not drain, and it has neither donated the
slice nor starts it late (R303, R312, R313, R318). -/
def State.ctxRuns (s : State) (c : Core) (ctx : Nat) : Bool :=
  c.tenant == some (ctx / 64) && c.phase == .running && !c.donated.contains ctx && !c.late.any fun x => x.1 == ctx && decide (s.time < x.2)

/-! ### Records (R250-R252) -/

def Request.sk (r : Request) : Nat := (r.ctl.extractLsb' 0 2).toNat
def Request.dk (r : Request) : Nat := (r.ctl.extractLsb' 2 2).toNat
def Request.mode (r : Request) : Nat := (r.ctl.extractLsb' 4 2).toNat
def Request.ordered (r : Request) : Bool := r.ctl.getLsbD 6
def Request.peer (r : Request) : Bool := r.ctl.getLsbD 7
def Request.device (r : Request) : Nat := (r.ctl.extractLsb' 8 20).toNat
/-- The core or group that an address of kind 1 or 3 names. -/
def namedUnit (a : Dword) : Nat := (a.extractLsb' 32 12).toNat
/-- The reserved bits of an address of a kind are zero. -/
def addressOk (kind : Nat) (a : Dword) : Bool :=
  if kind = 1 then a.extractLsb' 22 10 == 0#10 && a.extractLsb' 44 20 == 0#20
  else if kind = 2 then a.extractLsb' 32 32 == 0#32
  else if kind = 3 then a.extractLsb' 24 8 == 0#8 && a.extractLsb' 44 20 == 0#20
  else true
/-- The record as it was read: `f` its first 28 bytes. -/
def requestOf (record : Nat) (f : List Byte) : Request :=
  { record := record, src := BitVec.ofNat 64 (leNat (f.take 8)), dst := BitVec.ofNat 64 (leNat ((f.drop 8).take 8))
    len := leNat ((f.drop 16).take 4), arr := leNat ((f.drop 20).take 4), ctl := BitVec.ofNat 32 (leNat ((f.drop 24).take 4))
    startedBytes := 0, landedBytes := 0, segs := [], suspended := false, failed := none, lost := false }
/-- A malformed record (R251, R252, status 0x81). -/
def Request.malformed (r : Request) : Bool :=
  r.len == 0 || decide (2 ^ 24 ≤ r.len) || decide (2 ^ 22 ≤ r.arr) || r.ctl.extractLsb' 28 4 != 0#4 ||
    !addressOk r.sk r.src || (!r.peer && !addressOk r.dk r.dst) || r.sk == 3 || r.mode == 3 ||
    (r.mode == 1 && (r.dk == 0 || r.dk == 2 || r.arr % 16 != 0 || decide (r.arr < 0x80000) || decide (0xC9FF0 < r.arr))) ||
    (r.mode == 2 && r.arr % 16 != 0) || (r.peer && (r.dk != 0 || r.mode == 1))
/-- A peer device that a context reaches: a device id in use, not the device's own, with a live connection (R380, R382). -/
def State.reaches (s : State) (ctx device : Nat) : Bool :=
  decide (device < 0xC0000) && device != s.deviceId &&
    (s.ctx ctx).conns.any fun x => x.device == device && !x.failed && !x.closing
/-- The status with which a request fails as it starts, if it does: malformed, out of the crew's span, unreachable. -/
def State.startStatus (s : State) (ctx g : Nat) (r : Request) : Option Nat :=
  let out (a : Dword) := decide (1024 * g < a.toNat + r.len)
  if r.malformed then some 0x81
  else if r.peer && !s.reaches ctx r.device then some 0x85
  else if (r.sk == 2 && out r.src) || (r.dk == 2 && out r.dst) || (r.mode == 2 && decide (1024 * g < r.arr + 16)) then some 0x86
  else none

/-! ### Kicks (R248, R249) -/

/-- The crew of a kick, whether its span is on the core or swapped out (R363). -/
def Core.kickCrew (c : Core) (k : Kick) : Option Crew := c.crews.find k.crew
/-- A crew is swapped out of its core. -/
def Core.isOut (c : Core) (crew : Nat) : Bool := (c.crews.find crew).any (·.swapped)
/-- A core as it would stand with the scratchpad that some saved state holds. -/
def Core.within (c : Core) (x : Saved) : Core := { c with scratch := x.scratch, hazes := x.hazes }
/-- The core with a crew's span in its scratchpad: as it stands, or, where the crew is swapped out, from the save region (R363). -/
def Core.spanCore (c : Core) (crew : Nat) : Core :=
  if c.isOut crew then match c.swapped.find? fun y => y.2.crews.any fun z => z.1 == crew with
    | some y => c.within y.2
    | none => c
  else c
/-- Bytes of a crew's span as the Ladle reads them, by their place in the scratchpad. -/
def Core.spanBytes (c : Core) (fresh crew x n : Nat) : List Byte := (List.range n).map fun i => (c.spanCore crew).scratchByte fresh (x + i)
/-- Change the span of a crew where it stands. -/
def Core.onSpan (c : Core) (crew : Nat) (f : Core → Core) : Core :=
  if c.isOut crew then
    { c with swapped := c.swapped.map fun (y : Nat × Saved) =>
        if y.2.crews.any (fun z => z.1 == crew) then (y.1, { y.2 with scratch := (f (c.within y.2)).scratch }) else y }
  else f c
/-- Write a record's status word. -/
def Core.putStatus (c : Core) (k : Kick) (record status progress : Nat) : Core :=
  match c.kickCrew k with
  | none => c
  | some x => c.onSpan k.crew fun c =>
    { c with scratch := c.scratch.putWord (1024 * x.base + k.list + 32 * record + 28) (BitVec.ofNat 32 (progress + status * 2 ^ 24)) }
/-- Replace a kick in the queue. -/
def Core.putKick (c : Core) (k : Kick) : Core := { c with kicks := c.kicks.map fun x => if x.uid = k.uid then k else x }
/-- A kick whose records are all final: its statuses are written, its completion word gets an arrival of 1, and it leaves the queue. -/
def Core.finishKick (c : Core) (fresh : Nat) (k : Kick) : Core :=
  if k.finals.length < k.count then c.putKick k
  else
    let c := k.finals.foldl (fun c f => c.putStatus k f.1 f.2.1 f.2.2) c
    let c := match c.kickCrew k, k.completion with
      | some x, some o => c.onSpan k.crew fun c => c.arrived fresh (1024 * x.base + o) 1
      | _, _ => c
    { c with kicks := c.kicks.filter fun x => x.uid ≠ k.uid }
/-- A request reaches its final status; after a failure every later request of the kick is skipped (R252): one that has ended takes status 0x88,
one at work starts no more and takes it once nothing of it is in flight, one that has not started takes it at once. -/
def Kick.final (k : Kick) (record status progress : Nat) : Kick :=
  let k := { k with runs := k.runs.filter (fun r => r.record ≠ record), finals := k.finals ++ [(record, status, progress)] }
  if status = 0x02 ∨ status = 0x87 then k
  else
    let ended (r : Request) : Bool := decide (record < r.record) && r.segs.isEmpty
    { k with
      runs := (k.runs.filter fun r => !ended r).map fun (r : Request) => if record < r.record then { r with failed := some 0x88, suspended := false } else r
      finals := (k.finals.map fun f => if record < f.1 then (f.1, 0x88, f.2.2) else f) ++ ((k.runs.filter ended).map fun r => (r.record, 0x88, r.landedBytes)) ++
        (List.range (k.count - k.next)).map fun i => (k.next + i, 0x88, 0)
      next := k.count }
/-- Some request of a kick is at work. -/
def Kick.active (k : Kick) : Bool := k.runs.any fun r => !r.suspended
/-- The Ladle may start work for a kick: its context has the slice and Ladle units. -/
def State.kickGoes (s : State) (c : Core) (k : Kick) : Bool :=
  s.ctxRuns c k.ctx && (!s.ladleSpent c k.ctx || decide (0 < c.pool.2.2)) && (c.kickCrew k).isSome
/-- The kick that the Ladle works on: one at work, else the first that it may start. -/
def State.currentKick (s : State) (c : Core) : Option Kick :=
  match c.kicks.find? Kick.active with
  | some k => some k
  | none => c.kicks.find? fun k => s.kickGoes c k && (k.runs.isEmpty || k.runs.any (·.suspended)) &&
      !c.kicks.any fun x => x.ctx == k.ctx && x.uid != k.uid && x.runs.any (·.suspended) && !k.runs.any (·.suspended)
/-- Start the next record of the current kick: none while an earlier access of the kicking warp is not bound or performed (R400), while
an earlier request still has segments to start, or, for an ordered request, while one is not final. -/
def State.startRequest (s : State) (cn : Nat) : Option State :=
  let c := s.core cn
  match s.currentKick c with
  | none => none
  | some k =>
    match c.kickCrew k with
    | none => none
    | some x =>
      if k.count ≤ k.next ∨ !s.kickGoes c k ∨ c.owesAll k.warpUid k.afterSeq then none
      else
        let r := requestOf k.next (c.spanBytes s.fresh k.crew (1024 * x.base + k.list + 32 * k.next) 28)
        if (k.runs.any fun q => q.suspended || q.failed.isSome || decide (q.startedBytes < q.len)) || (r.ordered && !k.runs.isEmpty) then none
        else
          let k' := { k with next := k.next + 1 }
          match s.startStatus k.ctx x.g r with
          | some st => some { s.setCore cn (c.finishKick s.fresh (k'.final k.next st 0)) with fresh := s.fresh + 1 }
          | none => some { s.setCore cn ((c.putKick { k' with runs := k'.runs ++ [r] }).putStatus k k.next 0x01 0) with fresh := s.fresh + 1 }

/-! ### Segments (R253-R255) -/

/-- The status of a cause (R252). -/
def causeStatus (cause : Nat) : Nat := if cause = 0x044 then 0x83 else if cause = 0x045 ∨ cause = 0x048 then 0x84 else 0x82
/-- What resolving a range gives: places with their lengths, a status, or a page being served. -/
inductive Span where
  | ok (dsts : List (Loc × Nat))
  | bad (status : Nat)
  | wait (s : State)
  deriving DecidableEq, Repr
/-- A range of virtual addresses, cut where a page may end. -/
def pieces (va n : Nat) : List (Nat × Nat) :=
  let m := 0x10000 - va % 0x10000
  if n ≤ m then [(va, n)] else [(va, m), (va + m, n - m)]
/-- A range of a window: every granule is checked (R409). -/
def State.windowSpan (s : State) (cn off n : Nat) (master : Option Nat) (write : Bool) : Span :=
  match s.windowRangeCheck cn off n master write with
  | some c => .bad (causeStatus c)
  | none => .ok [(.window cn off, n)]
/-- A range of a group's window: within the deliverable ranges (R12, R13). -/
def groupSpan (g off n : Nat) : Span :=
  let part := windowPart off
  if part ≠ windowPart (off + n - 1) ∨ (part ≠ some 1 ∧ part ≠ some 2) then .bad 0x84 else .ok [(.bcast g off, n)]
/-- One piece of a virtual range. -/
def State.pieceSpan (s : State) (cn ctx launch : Nat) (write : Bool) (p : Nat × Nat) : Span :=
  if canonical (BitVec.ofNat 64 p.1) = false then .bad 0x82
  else match s.translate cn false ctx (if write then .write else .read) p.1 with
  | .ok (.window c off) => s.windowSpan c off p.2 (some ctx) write
  | .ok (.bcast g off) => groupSpan g off p.2
  | .ok loc => .ok [(loc, p.2)]
  | .migrating => .wait (s.startPull ctx p.1)
  | .fault c =>
    if c = 0x049 then match s.startTake ctx launch p.1 with
      | some s' => .wait s'
      | none => .bad 0x82
    else .bad (causeStatus c)
/-- A virtual range. -/
def State.vaSpan (s : State) (cn ctx launch va n : Nat) (write : Bool) : Span :=
  (pieces va n).foldl (fun r p => match r with
    | .ok xs => match s.pieceSpan cn ctx launch write p with
      | .ok ys => .ok (xs ++ ys)
      | y => y
    | x => x) (.ok [])
/-- A range by kind (R251), `off` bytes into it. A crew that is swapped out holds no span: what reads it finds zeros, what is written there is
discarded (R176, R363). A range of kind 1 that names no logical core is refused as a region is (status 0x84; DESIGN CHOICE,
notes/assumptions/25.md). -/
def State.kindSpan (s : State) (cn : Nat) (k : Kick) (base kind : Nat) (a : Dword) (off n : Nat) (write : Bool) : Span :=
  if kind = 0 then s.vaSpan cn k.ctx k.launch ((a + BitVec.ofNat 64 off).toNat) n write
  else if kind = 1 then
    (if namedUnit a < 2688 then s.windowSpan (namedUnit a) (a.toNat % 2 ^ 22 + off) n (some k.ctx) write else .bad 0x84)
  else if kind = 2 then .ok (if (s.core cn).isOut k.crew then [] else [(.scratch cn (1024 * base + a.toNat + off), n)])
  else groupSpan (namedUnit a) (a.toNat % 2 ^ 24 + off) n
/-- Two places with their lengths have a byte in common; a broadcast meets every core's window at its offset (notes/assumptions/63.md). -/
def meets (a b : Loc × Nat) : Bool :=
  let hit (x y : Nat) := decide (x < y + b.2) && decide (y < x + a.2)
  match a.1.named, b.1.named with
  | .mem x, .mem y => hit x y
  | .window c x, .window d y => c == d && hit x y
  | .window _ x, .bcast _ y => hit x y
  | _, _ => false
/-- The bytes of places. -/
def State.grab (s : State) (ctx : Nat) (dsts : List (Loc × Nat)) : List Byte :=
  dsts.flatMap fun x => match x.1 with
    | .mem pa => s.memBytes pa x.2
    | .window c off => s.windowBytes c off x.2 (some ctx)
    | .scratch c a => s.windowBytes c (0x80000 + a) x.2 none
    | .bcast _ _ => List.replicate x.2 0#8
/-- The lines of memory among places. -/
def placeLines (xs : List (Loc × Nat)) : List Nat := (xs.flatMap fun x => match x.1 with
  | .mem pa => linesFrom pa x.2
  | _ => []).eraseDups
/-- The destination address from which segments are cut. -/
def Request.cut (r : Request) : Nat :=
  if r.dk = 1 then r.dst.toNat % 2 ^ 22 else if r.dk = 3 then r.dst.toNat % 2 ^ 24 else r.dst.toNat
/-- Segments that have not landed. -/
def Request.flying (r : Request) : List Seg := r.segs.filter fun x => !x.landed
/-- Suspend a request (R254): its progress, a whole number of segments, and status 0x03 are written. -/
def Core.suspend (c : Core) (k : Kick) (r : Request) : Core :=
  (c.putKick { k with runs := k.runs.map fun (x : Request) => if x.record = r.record then { x with suspended := true } else x }).putStatus
    k r.record 0x03 r.landedBytes
/-- A request whose segments have all landed ends if it has failed or moved every byte. -/
def Kick.settle (k : Kick) (r : Request) : Kick :=
  if r.segs.isEmpty then
    match r.failed with
    | some st => k.final r.record st r.landedBytes
    | none => if r.landedBytes = r.len then k.final r.record (if r.lost then 0x87 else 0x02) r.landedBytes else k
  else k
/-- Put a request back into its kick, and end what has ended; the peer segments of a request that has failed are not waited for (R259). -/
def State.putRun (s : State) (cn : Nat) (k : Kick) (r : Request) : State :=
  let k : Kick := Kick.settle { k with runs := k.runs.map fun (x : Request) => if x.record = r.record then r else x } r
  let failed (record : Nat) : Bool := k.finals.any fun f => f.1 == record && f.2.1 != 0x02
  { s.setCore cn ((s.core cn).finishKick s.fresh k) with
    fresh := s.fresh + 1
    peerSegs := s.peerSegs.map fun (p : PeerSeg) => if p.kick = k.uid ∧ p.core = cn ∧ failed p.record then { p with settled := true } else p }
/-- The cause with which the target of a segment's bytes or of its arrival refuses it now (R14, R176, R242). -/
def State.refuses (s : State) (ctx : Nat) (r : Request) (dsts : List (Loc × Nat)) : Option Nat :=
  match dsts.findSome? fun x => match x.1 with
      | .window c off => s.windowRangeCheck c off x.2 (some ctx) true
      | _ => none with
  | some c => some c
  | none => if r.mode = 1 ∧ r.dk = 1 then s.windowRangeCheck (namedUnit r.dst) r.arr 16 (some ctx) true else none
/-- A place lies in the host region, and no port carries it now (R375, R376). -/
def State.cutOff (s : State) (x : Loc × Nat) : Bool := match x.1 with
  | .mem pa => isHost pa && (s.carrier pa).isNone
  | _ => false
/-- The status with which a segment of a request fails now: its peer cannot be reached (R382), its target refuses it, its port is down (R376). -/
def State.segFails (s : State) (ctx : Nat) (r : Request) (dsts : List (Loc × Nat)) : Option Nat :=
  if r.peer && !s.reaches ctx r.device then some 0x85
  else if dsts.any s.cutOff then some 0x84
  else (s.refuses ctx r dsts).map causeStatus
/-- Start the next segment of the current kick's request that has bytes left: it is charged, its places are resolved and its source is
read; at most eight segments are in flight, and a source that meets bytes still to land, or lies on a line that the host holds, waits. A request whose context has lost its
budget or slot suspends once nothing of it is in flight. -/
def State.startSegment (s : State) (cn : Nat) : Option State :=
  let c := s.core cn
  match s.currentKick c with
  | none => none
  | some k =>
    match k.runs.find? (fun r => r.failed.isNone && decide (r.startedBytes < r.len)), c.kickCrew k with
    | some r, some x =>
      if !s.kickGoes c k then
        (if r.segs.isEmpty && !r.suspended then some (s.setCore cn (c.suspend k r)) else none)
      else if r.suspended then
        some (s.setCore cn ((c.putKick { k with runs := k.runs.map fun (y : Request) =>
          if y.record = r.record then { y with suspended := false } else y }).putStatus k r.record 0x01 r.landedBytes))
      else
        let flying := k.runs.flatMap Request.flying
        if 8 ≤ flying.length then none
        else
          let off := r.startedBytes
          let n := min (r.len - off) (256 - (r.cut + off) % 256)
          let fail (st : Nat) := some (s.putRun cn k { r with failed := some st })
          match s.kindSpan cn k x.base r.sk r.src off n false with
          | .bad st => fail st
          | .wait s' => if s' = s then none else some s'
          | .ok from_ =>
            match (if r.peer then .ok [] else s.kindSpan cn k x.base r.dk r.dst off n true : Span) with
            | .bad st => fail st
            | .wait s' => if s' = s then none else some s'
            | .ok dsts =>
              if (from_.any fun a => flying.any fun g => g.dsts.any (meets a)) || (dsts.any fun a => match a.1 with
                  | .window t _ => s.pairHeld cn t
                  | _ => false) then none
              else match s.segFails k.ctx r dsts, s.claimRead cn k.ctx (placeLines from_) with
              | some st, _ => fail st
              | none, some s' => if s' = s then none else some s'
              | none, none =>
                let g : Seg := { off := off, data := (s.grab k.ctx from_ ++ List.replicate n 0#8).take n, dsts := dsts, landed := false, sent := s.fresh }
                let s := from_.foldl (fun s a => match a.1 with
                  | .mem _ => if r.sk = 0 then s.tlbFill cn k.ctx (r.src.toNat + off) else s
                  | _ => s) s
                let c := s.chargeLadle (s.core cn) k.ctx ((n + 255) / 256)
                some { s.setCore cn (c.putKick { k with runs := k.runs.map fun (y : Request) =>
                    if y.record = r.record then { y with startedBytes := off + n, segs := y.segs ++ [g] } else y }) with
                  fresh := s.fresh + 1 }
    | _, _ => none
/-- Write a segment's bytes to its places; a broadcast is delivered on its own. -/
def State.landBytes (s : State) (cn ctx : Nat) (g : Seg) : State :=
  (g.dsts.foldl (fun (p : State × List Byte) x =>
    (match x.1 with
      | .mem pa => p.1.engineWrite (fieldOf cn) pa (p.2.take x.2)
      | .window c off => p.1.windowWrite c off (p.2.take x.2) (some ctx)
      | .scratch c a => p.1.windowWrite c (0x80000 + a) (p.2.take x.2) none
      | .bcast _ _ => p.1, p.2.drop x.2)) (s, g.data)).1
/-- The arrival that counts a segment (R251); those of a broadcast in mode 1 go with its deliveries (R256). -/
def State.countSegment (s : State) (cn : Nat) (k : Kick) (base : Nat) (r : Request) (g : Seg) : State :=
  let arriveAt (s : State) (c a : Nat) : State :=
    if (s.core c).granuleHeld (a / 1024) then s.setCore c ((s.core c).arrived s.fresh a (BitVec.ofNat 32 g.data.length)) else s
  let s := if r.peer then
      let conns := (s.ctx k.ctx).conns
      let conn := (conns.find? fun y => y.device == r.device).getD { device := r.device, peerCtx := k.ctx, failed := true, closing := false }
      let va := r.dst + BitVec.ofNat 64 g.off
      { s.setCtx k.ctx { s.ctx k.ctx with conns := conns.map fun (y : Conn) => if y.device = r.device then { y with sent := y.sent + 1 } else y } with
               peerSegs := s.peerSegs ++ [{ device := r.device, ctx := k.ctx, launch := k.launch, warpUid := k.warpUid, core := cn
                                            kick := k.uid, record := r.record, crew := k.crew
                                            key := (((s.core cn).crews.find k.crew).map (·.key)).getD 0
                                            place := 1024 * base + k.list + 32 * r.record + 28, settled := r.lost
                                            number := conn.sent, va := va, data := g.data }]
               out := s.out ++ [.peerSend r.device conn.peerCtx conn.sent va g.data] }
    else s
  if r.mode = 2 then (if (s.core cn).isOut k.crew then s else arriveAt s cn (1024 * base + r.arr))
  else if r.mode = 1 ∧ r.dk = 1 then arriveAt s (namedUnit r.dst) (r.arr - 0x80000)
  else s
/-- Count the landed segments at the head of a request, in order. -/
def State.countAll (s : State) (cn : Nat) (k : Kick) (base : Nat) (r : Request) : Nat → State × Request
  | 0 => (s, r)
  | n + 1 =>
    match r.segs with
    | g :: gs =>
      if g.landed then State.countAll (s.countSegment cn k base r g) cn k base { r with segs := gs, landedBytes := r.landedBytes + g.data.length } n
      else (s, r)
    | [] => (s, r)
/-- The segments in flight on a core, in the order of the queue: kick, record and offset. -/
def Core.flying (c : Core) : List (Kick × Request × Seg) :=
  c.kicks.flatMap fun k => k.runs.flatMap fun r => r.flying.map fun g => (k, r, g)
/-- The places of a segment that is a broadcast. -/
def Seg.group (g : Seg) : Option (Nat × Nat) := match g.dsts with
  | [(.bcast grp off, _)] => some (grp, off)
  | _ => none
/-- Change a segment of a request. -/
def Request.onSeg (r : Request) (g : Seg) : Request := { r with segs := r.segs.map fun (y : Seg) => if y.off = g.off then g else y }
/-- A landed segment is counted, and whatever can be counted after it; the request ends, or suspends, as it may (R252-R254). -/
def State.landed (s : State) (cn : Nat) (k : Kick) (base : Nat) (r : Request) : State :=
  let (s, r) := s.countAll cn k base r r.segs.length
  let s := s.putRun cn k r
  let c := s.core cn
  match c.kicks.find? fun y => y.uid == k.uid with
  | some k' => if r.segs.isEmpty && r.failed.isNone && decide (r.startedBytes < r.len) && !s.kickGoes c k' then s.setCore cn (c.suspend k' r) else s
  | none => s
/-- The n-th segment in flight lands: its bytes, then the arrivals of all that are now counted. A broadcast is posted in the order of its
request's segments, and has landed once every member has it (R253, R256); a segment for another core's window overtakes no earlier message to it
(R384). One that fails now fails the request there; the scratchpad of a crew that is swapped out takes nothing (R363).
`none` where nothing can happen yet. -/
def State.landSegment (s : State) (cn n : Nat) : Option State :=
  match (s.core cn).flying[n]? with
  | none => none
  | some (k, r, g) =>
    match (s.core cn).kickCrew k with
    | none => none
    | some x =>
      let tag : Bcast := .seg cn k.uid r.record g.off
      let held := if (s.core cn).isOut k.crew then { g with dsts := g.dsts.filter fun y => match y.1 with
          | .scratch _ _ => false
          | _ => true } else g
      match g.group, s.segFails k.ctx r g.dsts, s.claim cn k.ctx (placeLines g.dsts) with
      | some (grp, off), _, _ =>
        if !g.posted then
          if r.flying.any fun y => decide (y.off < g.off) && !y.posted && y.group.isSome then none
          else
            let s := s.postBroadcast tag cn grp off g.data (if r.mode = 1 then some (r.arr, g.data.length) else none)
            let c := s.core cn
            some (s.setCore cn (c.putKick { k with runs := k.runs.map fun (y : Request) => if y.record = r.record then r.onSeg { g with posted := true } else y }))
        else if s.onItsWay tag then none
        else some (s.landed cn k x.base (r.onSeg { g with landed := true }))
      | none, some st, _ => some (s.landed cn k x.base { r with failed := some st, segs := r.segs.filter fun y => decide (y.off < g.off) })
      | none, none, some s' => if s' = s then none else some s'
      | none, none, none =>
        if g.dsts.any fun y => match y.1 with
            | .window c _ => s.overtakes cn c g.sent
            | _ => false then none
        else some ((s.landBytes cn k.ctx held).landed cn k x.base (r.onSeg { g with landed := true }))
/-- Land what can land now of the segments in flight on a core (R312, step 2). -/
def State.landAll (s : State) (cn : Nat) : Nat → State
  | 0 => s
  | n + 1 => match (List.range (s.core cn).flying.length).findSome? (s.landSegment cn) with
    | some s' => State.landAll s' cn n
    | none => s

/-! ### The words (R257-R260) -/

/-- CPK's values that R40 checks with the word: the record count and the reserved bits of the completion description (R260). -/
def kickValues (cnt : Nat) (desc : Word) : Bool := decide (1 ≤ cnt) && decide (cnt ≤ 256) && desc.extractLsb' 22 9 == 0#9
/-- CPK's operands: list offset, count and completion description. -/
def View.kickFault (V : View) (first cnt : Nat) (desc : Word) : Option Nat :=
  let crew := match (lanesOf V.em).map V.w.crewOf with
    | some k :: ks => if ks.all (· == some k) then V.c.crews.find k else none
    | _ => none
  let comp := (desc.extractLsb' 0 22).toNat
  match crew with
  | none => some 0x00C
  | some x =>
    if first % 32 ≠ 0 ∨ (desc.getLsbD 31 ∧ comp % 16 ≠ 0) then some 0x047
    else if 1024 * x.g < first + 32 * cnt ∨ (desc.getLsbD 31 ∧ 1024 * x.g < comp + 16) then some 0x046
    else none
/-- A word whose operand values are checked at issue: while one of its registers is pending it only waits; then its checks are made in the
order of R40, values among them. -/
def issueChecked (i : Info) (ok : View → Bool) (s : State) (eff : View → State) : Host.Outcome State Fault Refusal :=
  let waits := s.view.any fun V => (V.score i).isSome
  let loose (u : RegUse) : RegUse := { u with align := 1 }
  issue (if waits then { i with lane := i.lane.map loose, uni := i.uni.map loose, full := false } else i)
    (waits || s.view.all ok) s eff
/-- CPK (R257): Queues a kick of Ladle requests. -/
def execCpk (a : BitVec 6) (b : BitVec 6) (s : State) : Host.Outcome State Fault Refusal :=
  issueChecked (Info.u [] [two a, one b]).closing.needsFull (fun V => kickValues (V.uni b.toNat).toNat (V.uni (a.toNat + 1))) s fun V =>
    let first := (V.uni a.toNat).toNat
    let desc := V.uni (a.toNat + 1)
    let cnt := (V.uni b.toNat).toNat
    match V.kickFault first cnt desc with
    | some c => V.fault c 0#64 V.em
    | none =>
      if 16 ≤ V.c.kicks.length then V.hold 8
      else
        let crew := (((lanesOf V.em).head?).bind V.w.crewOf).getD 0
        let k : Kick := { uid := V.s.nextUid, ctx := V.w.ctx, crew := crew, list := first, count := cnt
                          completion := if desc.getLsbD 31 then some (desc.extractLsb' 0 22).toNat else none
                          warpUid := V.w.uid, launch := V.w.launch, lanes := V.em, afterSeq := V.w.seq, next := 0, finals := [], runs := [] }
        ({ V with c := { V.c with kicks := V.c.kicks ++ [k] }, s := { V.s with nextUid := V.s.nextUid + 1 } } : View).retire
          ((Info.u [] [two a, one b]).closing.needsFull)
/-- CPQ (R258): Reads free kick queue entries and the warp's unfinished kicks. -/
def execCpq (d : BitVec 6) (s : State) : Host.Outcome State Fault Refusal :=
  issueReg (Info.uni1 d) s fun V =>
    V.writeUni d.toNat (BitVec.ofNat 32 ((16 - V.c.kicks.length) * 256 + V.c.kicks.countP fun k => k.warpUid == V.w.uid))
/-- A kick of a warp has a peer request that is neither final nor lost (R259): one at work, or one in a record not yet read. -/
def Core.peerWork (c : Core) (fresh uid : Nat) : Bool :=
  c.kicks.any fun k => k.warpUid == uid && ((k.runs.any fun r => r.peer && !r.lost) || match c.kickCrew k with
    | none => false
    | some x => (List.range (k.count - k.next)).any fun i =>
        ((c.spanBytes fresh k.crew (1024 * x.base + k.list + 32 * (k.next + i) + 24) 1).getD 0 0#8).getLsbD 7)
/-- PDRAIN (R259): Waits for the warp's peer stores. -/
def execPdrain (s : State) : Host.Outcome State Fault Refusal :=
  issue (Info.u [] []).closing true s fun V =>
    if V.c.peerWork V.s.fresh V.w.uid || V.s.peerSegs.any (fun p => p.warpUid == V.w.uid && !p.settled) then V.hold 8
    else V.retire (Info.u [] []).closing

/-! ### The events -/

/-- LADLE_REQUEST_START (R252): The Ladle reads a request record and starts it, or gives it a final status. -/
def execLadleRequestStart (core : Nat) (s : State) : Host.Outcome State Fault Refusal := .next ((s.startRequest core).getD s)
/-- LADLE_SEGMENT_START (R253): A segment starts, charging Ladle budget and reading its source. -/
def execLadleSegmentStart (core : Nat) (s : State) : Host.Outcome State Fault Refusal := .next ((s.startSegment core).getD s)
/-- LADLE_SEGMENT_LAND (R253): The seg-th segment in flight lands and arrivals are counted in order. -/
def execLadleSegmentLand (core seg : Nat) (s : State) : Host.Outcome State Fault Refusal := .next ((s.landSegment core seg).getD s)
/-- A peer segment that is not acknowledged is sent again (R381). -/
def State.resend (s : State) (p : PeerSeg) : List Out :=
  ((s.ctx p.ctx).conns.filter fun c => c.device == p.device && !c.failed).map fun c => .peerSend p.device c.peerCtx p.number p.va p.data
/-- PEER_ACK (R255): A peer acknowledges a performed segment. -/
def execPeerAck (k : Nat) (s : State) : Host.Outcome State Fault Refusal := .next { s with peerSegs := s.peerSegs.eraseIdx k }
/-- A crew of a core, or of its saved state, is the one whose span holds a peer segment's record. -/
def PeerSeg.holds (p : PeerSeg) (t : Table Crew) : Bool := match t.find p.crew with
  | some x => x.key == p.key && x.launch == p.launch && decide (1024 * x.base ≤ p.place) && decide (p.place < 1024 * (x.base + x.g))
  | none => false
/-- A record's status becomes 0x87 wherever it stands: at work, final, or written. -/
def PeerSeg.markKicks (p : PeerSeg) (ks : List Kick) : List Kick :=
  ks.map fun (k : Kick) => if k.uid = p.kick then
    { k with runs := k.runs.map fun (r : Request) => if r.record = p.record then { r with lost := true } else r
             finals := k.finals.map fun f => if f.1 = p.record ∧ f.2.1 = 0x02 then (f.1, 0x87, f.2.2) else f } else k
/-- The status byte of a record in a memory. -/
def PeerSeg.markSpan (p : PeerSeg) (m : Memory) : Memory :=
  if Sparse.get 0#8 m (p.place + 3) = 0x02#8 then Sparse.set 0#8 m (p.place + 3) 0x87#8 else m
/-- A running request's record shows that a peer has failed to acknowledge it. -/
def PeerSeg.markRunning (p : PeerSeg) (c : Core) : Core :=
  match c.kicks.find? fun k => k.uid == p.kick with
  | some k => match k.runs.find? fun r => r.record == p.record with
    | some r => c.putStatus k r.record 0x87 r.landedBytes
    | none => c
  | none => c
/-- PEER_ACK_TIMEOUT (R255): A peer segment unacknowledged after 2 ms sets status 0x87 and counts in its launch; the record may stand in the
state of a drained tenant (R316). -/
def execPeerAckTimeout (k : Nat) (s : State) : Host.Outcome State Fault Refusal :=
  match s.peerSegs[k]? with
  | none => .next s
  | some p =>
    let c := p.markRunning (s.core p.core)
    let c := { c with kicks := p.markKicks c.kicks, scratch := if p.holds c.crews then p.markSpan c.scratch else c.scratch
                      saved := c.saved.map fun (x : Saved) =>
                        { x with kicks := p.markKicks x.kicks, scratch := if p.holds x.crews then p.markSpan x.scratch else x.scratch }
                      swapped := c.swapped.map fun (y : Nat × Saved) =>
                        (y.1, { y.2 with kicks := p.markKicks y.2.kicks
                                         scratch := if p.holds y.2.crews then p.markSpan y.2.scratch else y.2.scratch }) }
    .next (({ s with peerSegs := (s.peerSegs.eraseIdx k).map fun (y : PeerSeg) =>
      if y.kick = p.kick ∧ y.core = p.core ∧ y.record = p.record then { y with settled := true } else y }.setCore p.core c).countFault p.launch)

/-- MULTICAST_DELIVERY (R256): the k-th delivery on its way lands at its member, unless an earlier one of the same source and group is on its
way to that member; a member that the tenant does not hold receives nothing. The arrival follows its bytes; a peer's segment is acknowledged once every member
has it (R381). -/
def execMulticastDelivery (k : Nat) (s : State) : Host.Outcome State Fault Refusal :=
  match s.deliveries[k]? with
  | none => .next s
  | some d =>
    if (s.deliveries.take k).any fun x => x.source == d.source && x.group == d.group && x.target == d.target then .next s
    else
      let s := { s with deliveries := s.deliveries.eraseIdx k }
      let s := match d.tag with
        | .peer conn _ n => if s.onItsWay d.tag then s else { s with out := s.out ++ [.peerAck conn n] }
        | _ => s
      if (s.core d.target).tenant.isNone || (s.core d.target).tenant != s.groups.find d.group then .next s
      else
        let s := s.windowWrite d.target d.off d.data none
        match d.arrival with
        | none => .next s
        | some (at_, u) =>
          let c := s.core d.target
          let a := at_ - 0x80000
          .next (if c.granuleHeld (a / 1024) then s.setCore d.target (c.arrived s.fresh a (BitVec.ofNat 32 u)) else s)

end Sys2Proof.Machine
end

