-- ==== Sys2Proof/Machine/PageWork.lean ====
section
/-! DEFINITION. Pages at work (R238-R246): PROBE, PGTAKE, MAPRQ and the map requests that firmware takes from it, first-touch takes, page
pulls from peers and for peers, and segments that peers send (R381, R382). -/
namespace Sys2Proof.Machine

/-! ### PROBE and PGTAKE -/

/-- The region code of a physical address (R244). -/
def regionCode (pa : Nat) : Nat :=
  if isHbm pa then 0 else if pa < 0x8002A0000000 then 1 else if pa < 0xC00000000000 then 2 else 3
/-- What PROBE reports of an address (R244). -/
def State.probed (s : State) (ctx : Nat) (va : Dword) : Word :=
  let perms (e : Dword) : Nat := 2 * (e.extractLsb' 2 3).toNat
  let mapped (z : Nat) (e : Dword) : Nat := 1 + perms e + 16 * z + 512 * regionCode (leafPa z e va.toNat)
  if canonical va = false then 0
  else BitVec.ofNat 32 (match s.walk ctx va.toNat with
    | .error => 0
    | .unmapped => 0
    | .leaf z e => mapped z e
    | .firstTouch _ e => perms e + 64
    | .poisoned z e => (if e.getLsbD 0 then mapped z e else perms e) + 128
    | .migrating _ e => perms e + 256)
/-- PROBE (R244): Reports the translation of an address without faulting. -/
def execProbe (d : BitVec 6) (a : BitVec 6) (l : BitVec 4) (s : State) : Host.Outcome State Fault Refusal :=
  issue (Info.umem (one d) a) true s fun V =>
    if 32 < V.w.pendingCount + 1 then V.breakRun (.score [] [] 1)
    else
      let x := V.s.probed V.w.ctx (V.uni64 a.toNat)
      let o : LongOp := { seq := V.w.seq, pc := V.p.pc, slot := V.kn, window := l.toNat + 1, uniform := true, dest := [d.toNat]
                          kind := .probe, lanes := V.em, accs := [], vals := [(32, x.setWidth 128)], posted := false, at_ := 0 }
      let V := V.noteUni d.toNat
      ({ V with w := { V.w with pend := V.w.pend ++ [o], seq := V.w.seq + 1 } } : View).retire (Info.umem (one d) a)

/-- PGTAKE ends with a result. -/
def View.pgtakeDone (V : View) (d a : BitVec 6) (x : Word) : State :=
  (V.writeUni d.toNat x).retire ((Info.uniOfPair d a).privileged true)
/-- PGTAKE (R245): Takes the first-touch page at an address, supervisor only. It waits for the page that it takes. -/
def execPgtake (d : BitVec 6) (a : BitVec 6) (s : State) : Host.Outcome State Fault Refusal :=
  issue ((Info.uniOfPair d a).privileged true) true s fun V =>
    let va := V.uni64 a.toNat
    match V.p.wait with
    | .pgtake k =>
      (match (V.s.takes.find k).bind (·.result) with
       | some x => View.pgtakeDone { V with s := { V.s with takes := V.s.takes.drop k } } d a x
       | none => V.put)
    | _ =>
      if canonical va = false then V.pgtakeDone d a 2
      else match V.s.walk V.w.ctx va.toNat with
      | .leaf _ _ => V.pgtakeDone d a 3
      | .firstTouch z _ =>
        if V.s.takes.any fun t => t.2.ctx == V.w.ctx && t.2.va == va.toNat / pageSize z * pageSize z && t.2.result.isNone then V.hold 11
        else (match V.s.startTake V.w.ctx V.w.launch va.toNat with
          | none => V.pgtakeDone d a 1
          | some s' => ({ V with s := s', p := { V.p with wait := .pgtake V.s.nextUid } } : View).put)
      | _ => V.pgtakeDone d a 2

/-- A PGTAKE waits for a take. -/
def State.takeAwaited (s : State) (k : Nat) : Bool :=
  let at_ (p : Option Path) := match p with
    | some p => p.wait == .pgtake k
    | none => false
  s.allWarps.any fun x => at_ x.2.2.2.div.s0 || at_ x.2.2.2.div.s1
/-- What a take drew goes back (R238): to its launch's pool, or to the grant once the launch has ended. -/
def State.refundTake (s : State) (t : Take) : State :=
  match s.launches.find t.launch with
  | some L =>
    if L.complete then
      let x := (s.tenants.find (t.ctx / 64)).getD Tenant.blank
      { s with tenants := s.tenants.put (t.ctx / 64) { x with grant := x.grant + pageUnits t.size } }
    else { s with launches := s.launches.put t.launch { L with pool := L.pool + pageUnits t.size } }
  | none => s
/-- PAGE_TAKE_COMPLETE (R245): Firmware completes a take: the page, at a physical address of its choice, is mapped. A page that is no longer
first-touch draws nothing. -/
def execPageTakeComplete (k pa : Nat) (s : State) : Host.Outcome State Fault Refusal :=
  match s.takes.find k with
  | none => .next s
  | some t =>
    if t.result.isSome then .next s
    else
      let ends (s : State) (x : Word) : State :=
        if s.takeAwaited k then { s with takes := s.takes.put k { t with result := some x } } else { s with takes := s.takes.drop k }
      .next (match s.walk t.ctx t.va with
        | .firstTouch z e =>
          if z ≠ t.size then ends (s.refundTake t) 2
          else if s.freshPlace (t.ctx / 64) pa (pageSize z) z then ends (s.takePage t.ctx t.va z e pa) 0
          else s
        | .leaf _ _ => ends (s.refundTake t) 3
        | _ => ends (s.refundTake t) 2)

/-! ### MAPRQ (R246) -/

/-- What a map request record's own address meets: read and write permission in device or host memory. -/
def View.recordPlace (V : View) (va : Dword) : Xlate :=
  let r := V.s.translate V.cn V.w.mgmt V.w.ctx .read va.toNat
  let w := V.s.translate V.cn V.w.mgmt V.w.ctx .write va.toNat
  let cause (x : Xlate) := match x with
    | .fault c => some c
    | .ok (.mem _) => none
    | .ok _ => some 0x045
    | .migrating => none
  match firstCause ([r, w].filterMap cause) with
  | some c => .fault c
  | none => r
/-- Earlier accesses of the lanes and of the uniform stream are bound and performed, or MAPRQ waits with reason 5, ending a hold that its
wait needs (R230, R310). -/
def View.released (V : View) (eff : View → State) : State :=
  if V.w.outstanding V.em true V.w.seq true true everywhere then
    { V with w := if V.w.sb.any (fun b => b.held && b.acc.of b.lanes V.em true) then V.w.fullPoint else V.w }.hold 5
  else eff V
/-- MAPRQ (R246): Posts map request records to firmware. -/
def execMaprq (d : BitVec 6) (a : BitVec 6) (b : BitVec 6) (s : State) : Host.Outcome State Fault Refusal :=
  let i := Info.uniOfPair2 d a b
  issueChecked i (fun V => decide (1 ≤ (V.uni b.toNat).toNat) && decide ((V.uni b.toNat).toNat ≤ 64)) s fun V =>
    let n := (V.uni b.toNat).toNat
    let va := V.uni64 a.toNat
    let at_ (j : Nat) : Dword := va + BitVec.ofNat 64 (32 * j)
    if !V.w.mgmt && !(canonical va && canonical (at_ (n - 1))) then V.fault 0x040 va V.em
    else if va.toNat % 32 ≠ 0 then V.fault 0x041 va V.em
    else V.released fun V =>
      if 256 ≤ (V.s.ctx V.w.ctx).mapq.length then (V.writeUni d.toNat 1).retire i
      else match V.recordPlace va, V.recordPlace (at_ (n - 1)) with
      | .fault c, .fault d => if causeRank c ≤ causeRank d then V.laneFault c va V.em else V.laneFault d (at_ (n - 1)) V.em
      | .fault c, _ => V.laneFault c va V.em
      | _, .fault c => V.laneFault c (at_ (n - 1)) V.em
      | .migrating, _ => ({ V with s := V.s.startPull V.w.ctx va.toNat } : View).hold 11
      | _, .migrating => ({ V with s := V.s.startPull V.w.ctx (at_ (n - 1)).toNat } : View).hold 11
      | _, _ =>
        let x := V.s.ctx V.w.ctx
        let V := { V with s := V.s.setCtx V.w.ctx { x with mapq := x.mapq ++ (List.range n).map at_ } }
        (V.writeUni d.toNat 0).retire i

/-! ### Map requests (R239-R241) -/

/-- A map request record's fields. -/
structure MapReq where
  va : Dword
  len : Nat
  op : Nat
  perm : Nat
  size : Nat
  reserved : Nat
  seqNo : Word
  arg : Nat
  deriving DecidableEq, Repr
def mapReqOf (f : List Byte) : MapReq :=
  let at_ (o n : Nat) := leNat ((f.drop o).take n)
  { va := BitVec.ofNat 64 (at_ 0 8), len := at_ 8 8, op := at_ 16 1, perm := at_ 17 1, size := at_ 18 1, reserved := at_ 19 1
    seqNo := BitVec.ofNat 32 (at_ 20 4), arg := at_ 24 4 }
/-- A record's number follows the last accepted (R240). -/
def follows (x last : Word) : Bool := decide (1 ≤ (x - last).toNat) && decide ((x - last).toNat ≤ 2 ^ 31)
/-- The pages of a request. -/
def MapReq.pages (r : MapReq) : List Nat := (List.range (r.len / pageSize r.size)).map fun i => r.va.toNat + i * pageSize r.size
/-- Non-zero reserved bits, or an unknown op. -/
def MapReq.malformed (r : MapReq) : Bool :=
  decide (6 < r.op) || decide (8 ≤ r.perm) || r.reserved != 0 ||
    (if r.op = 4 then decide (2 ^ 20 ≤ r.arg) else if r.op = 5 ∨ r.op = 6 then decide (2 ^ 12 ≤ r.arg) else r.arg != 0)
/-- Misaligned or empty ranges, sizes that the op does not allow; and permissions that it does not allow, which the spec gives no status of their
own (DESIGN CHOICE, notes/assumptions/27.md). -/
def MapReq.misfit (r : MapReq) : Bool :=
  let last := r.va + BitVec.ofNat 64 (r.len - 1)
  decide (2 < r.size) || r.len == 0 || r.va.toNat % pageSize r.size != 0 || r.len % pageSize r.size != 0 ||
    decide (2 ^ 47 < r.len) || !canonical r.va || !canonical last || r.va.getLsbD 47 != last.getLsbD 47 ||
    (if r.op = 3 then r.size == 2 || decide (4 ≤ r.perm) else if r.op = 4 then r.size == 2
     else if r.op = 5 then r.size != 1 || r.len % 0x400000 != 0
     else if r.op = 6 then r.size != 1 || r.len != 0x1000000 || r.perm % 2 == 1 else false)
/-- A range without any page. -/
def State.rangeFree (s : State) (ctx : Nat) (r : MapReq) : Bool :=
  (List.range (r.len / 0x10000)).all fun i => s.walk ctx (r.va.toNat + i * 0x10000) == .unmapped
/-- The level and entry of a page, mapped or promised. -/
def State.pageAt (s : State) (ctx va : Nat) : Option (Nat × Dword) :=
  match s.walk ctx va with
  | .leaf z e => some (z, e)
  | .firstTouch z e => some (z, e)
  | .poisoned z e => some (z, e)
  | .migrating z e => some (z, e)
  | _ => none
/-- Every page of a range exists. -/
def State.rangeMapped (s : State) (ctx : Nat) (r : MapReq) : Bool :=
  (List.range (r.len / 0x10000)).all fun i => (s.pageAt ctx (r.va.toNat + i * 0x10000)).isSome
/-- Every page that a range has is of the size given. -/
def State.rangeSized (s : State) (ctx : Nat) (r : MapReq) : Bool :=
  (List.range (r.len / 0x10000)).all fun i => (s.pageAt ctx (r.va.toNat + i * 0x10000)).all fun x => x.1 == r.size
/-- A core stands in a partition of a tenant in some slot entry. -/
def State.tenantCore (s : State) (tenant cn : Nat) : Bool :=
  match s.tableAt s.time with
  | none => false
  | some t => decide (cn < 2688) && t.entries.any fun e => e.partitions.any fun p => p.tenant == tenant && p.clusters.contains (cn / 8)
/-- A tenant's record. -/
def State.tenant (s : State) (t : Nat) : Tenant := (s.tenants.find t).getD Tenant.blank
def State.setTenant (s : State) (t : Nat) (x : Tenant) : State := { s with tenants := s.tenants.put t x }
/-- The pages that a request draws from the grant. -/
def MapReq.units (r : MapReq) : Nat := r.len / 0x10000
/-- The refusal of a request, if it is refused. Of several that apply it takes the first in the order 5, 2, 6, 1, 3, 4 (DESIGN CHOICE,
notes/assumptions/27.md). -/
def State.mapRefusal (s : State) (ctx : Nat) (r : MapReq) : Option Nat :=
  if r.malformed then some 5
  else if r.misfit then some 2
  else if r.op = 4 ∧ (0xC0000 ≤ r.arg ∨ r.arg = s.deviceId ∨ (s.ctx ctx).conns.any fun x => x.device == r.arg && x.failed) then some 6
  else if (r.op = 4 ∧ !(s.ctx ctx).conns.any fun x => x.device == r.arg && !x.closing) ∨
      (r.op = 5 ∧ !(List.range (r.len / 0x400000)).all fun i => s.tenantCore (ctx / 64) (r.arg + i)) ∨
      (r.op = 6 ∧ s.groups.find r.arg ≠ some (ctx / 64)) then some 1
  else if r.op = 1 ∨ r.op = 2 then (if !s.rangeSized ctx r then some 1 else if !s.rangeMapped ctx r then some 3 else none)
  else if !s.rangeFree ctx r then some 3
  else if r.op = 0 ∧ (s.tenant (ctx / 64)).grant < r.units then some 4
  else none
/-- Accesses of a context translated under a range are still on their way (R241). -/
def State.rangeBusy (s : State) (ctx : Nat) (r : MapReq) : Bool :=
  let inside (va : Dword) := decide (r.va.toNat ≤ va.toNat) && decide (va.toNat < r.va.toNat + r.len)
  (s.allWarps.any fun x => x.2.2.2.ctx == ctx && !x.2.2.2.mgmt &&
    ((x.2.2.2.pend.any fun o => o.open_.any fun a => inside a.va) || x.2.2.2.sb.any fun b => inside b.acc.va)) ||
  (s.cores.any fun c => c.2.kicks.any fun k => k.ctx == ctx && k.runs.any fun q => q.dk == 0 && !q.flying.isEmpty) ||
  s.deliveries.any fun d => match d.tag with
    | .peer _ c _ => c == ctx
    | _ => false
/-- Unmap one page: the entry is cleared, with its source and a pull of it; memory of the device is zeroed and returns to the grant. -/
def State.unmapPage (s : State) (ctx va z : Nat) : State :=
  let s := { s.setCtx ctx { s.ctx ctx with sources := (s.ctx ctx).sources.filter fun y => y.1 ≠ va } with
    pulls := s.pulls.filter fun p => !(p.2.ctx == ctx && p.2.va == va) }
  match s.walk ctx va with
  | .leaf _ e =>
    let pa := leafPa z e va
    let s := s.setLeaf ctx va z 0
    if isHbm pa then
      let t := s.tenant (ctx / 64)
      { (s.wipe pa (pageSize z)).setTenant (ctx / 64) { t with grant := if s.undrawn.contains pa then t.grant else t.grant + pageUnits z } with
        frames := s.frames.filter fun f => f.2.1 ≠ pa, undrawn := s.undrawn.filter (· ≠ pa) }
    else s
  | _ => s.setLeaf ctx va z 0
/-- The effect of an accepted request; `pa` is the physical base of fresh memory. -/
def State.mapApply (s : State) (ctx pa : Nat) (r : MapReq) : State :=
  let perms := 4 * (r.perm % 8)
  match r.op with
  | 0 =>
    let t := s.tenant (ctx / 64)
    let s := s.setTenant (ctx / 64) { t with grant := t.grant - r.units }
    (s.mapFresh ctx r.size pa (r.perm % 8) r.pages).getD s
  | 1 => (r.pages.foldl (fun s va => s.unmapPage ctx va r.size) s).shootDown ctx r.va.toNat r.len
  | 2 =>
    (r.pages.foldl (fun s va => match s.pageAt ctx va with
      | some (z, e) => s.setLeaf ctx va z ((e &&& ~~~0x1C#64).toNat + perms)
      | none => s) s).shootDown ctx r.va.toNat r.len
  | 3 => r.pages.foldl (fun s va => s.setLeaf ctx va r.size (0x22 + perms)) s
  | 4 =>
    let s := r.pages.foldl (fun s va => s.setLeaf ctx va r.size (0x82 + perms)) s
    let x := s.ctx ctx
    let s := s.setCtx ctx { x with sources := (x.sources.filter fun y => !r.pages.contains y.1) ++ r.pages.map fun va => (va, r.arg, r.perm) }
    -- firmware may pull a page before any access meets it (R243)
    r.pages.foldl (fun s va => if Config.freeNat s.fresh va % 2 = 1 then s.startPull ctx va else s) s
  | 5 => r.pages.foldl (fun s va => s.setLeaf ctx va 1 (0x800000000000 + 0x400000 * r.arg + (va - r.va.toNat) + 3 + perms)) s
  | _ => r.pages.foldl (fun s va => s.setLeaf ctx va 1 (0xA00000000000 + 0x1000000 * r.arg + (va - r.va.toNat) + 3 + perms)) s
/-- Write a record's status; firmware writes it through field 0. A record that can no longer be written keeps the status that it has. -/
def State.mapStatus (s : State) (ctx : Nat) (va : Dword) (x : Nat) (goes : State → State) : State :=
  match s.writeVa 0 false ctx (va.toNat + 28) (toLe x 4) with
  | .done s' => goes s'
  | .waits s' => s'
  | .fault _ => goes s
/-- The first request of a context is done with. -/
def State.mapPop (s : State) (ctx : Nat) : State :=
  let x := s.ctx ctx
  s.setCtx ctx { x with mapq := x.mapq.tail, accepted := none }
/-- What a range of a context's memory gives firmware: its bytes; a migrating page or a line that it waits for (R207, R243), with the state in
which it has asked; or a refusal. -/
inductive Got where
  | ok (bs : List Byte)
  | wait (s : State)
  | bad
  deriving DecidableEq, Repr
/-- Firmware reads through field 0. -/
def State.fetchVa (s : State) (ctx va n : Nat) : Got :=
  match (List.range n).find? fun i => canonicalRange va n && s.translate 0 false ctx .read (va + i) == .migrating with
  | some i => .wait (s.startPull ctx (va + i))
  | none => match s.placesVa 0 false ctx .read va n with
    | .error _ => .bad
    | .ok pas => match s.claimRead 0 ctx (pas.map lineOf).eraseDups with
      | some s' => .wait s'
      | none => .ok (pas.map s.memByte)
/-- A request is one that a step for requests of an op takes; a record with an unknown op is taken by whichever step comes. -/
def MapReq.takenBy (r : MapReq) (op : Nat) : Bool := r.op == op || decide (6 < r.op)
/-- Firmware reads the first record of a context's queue and accepts it, with status 1, or skips it. -/
def State.mapAccept (s : State) (ctx op : Nat) (va : Dword) : State :=
  match s.fetchVa ctx va.toNat 32 with
  | .bad => s.mapPop ctx
  | .wait s' => s'
  | .ok f =>
    let r := mapReqOf f
    if !follows r.seqNo (s.ctx ctx).lastSeq then s.mapPop ctx
    else if !r.takenBy op then s
    else s.mapStatus ctx va 1 fun s => { s.setCtx ctx { s.ctx ctx with lastSeq := r.seqNo, accepted := some f } with fresh := s.fresh + 1 }
/-- Firmware carries out a request that it has accepted: it refuses it, or makes the change whole; an unmap or a protect waits until the
accesses under it are done (R241), fresh memory until `pa` names some. The status is written with the change. -/
def State.mapFinish (s : State) (ctx op pa : Nat) (va : Dword) (r : MapReq) : State :=
  if !r.takenBy op then s
  else match s.mapRefusal ctx r with
  | some x => s.mapStatus ctx va (0x80000000 + x) fun s => s.mapPop ctx
  | none =>
    if (r.op = 0 ∧ s.mapFresh ctx r.size pa (r.perm % 8) r.pages = none) ∨ ((r.op = 1 ∨ r.op = 2) ∧ s.rangeBusy ctx r) then s
    else s.mapStatus ctx va 2 fun s => (s.mapApply ctx pa r).mapPop ctx
/-- Firmware's next step on the first request of a context's queue, if it is of the op given: it is skipped or accepted, and in a later step
refused or done. -/
def State.mapTake (s : State) (ctx op pa : Nat) : State :=
  match (s.ctx ctx).mapq with
  | [] => s
  | va :: _ => match (s.ctx ctx).accepted with
    | none => s.mapAccept ctx op va
    | some f => s.mapFinish ctx op pa va (mapReqOf f)

/-- MAP_MEMORY (R240): Map request op 0 maps fresh zeroed memory from the grant. -/
def execMapMemory (ctx pa : Nat) (s : State) : Host.Outcome State Fault Refusal := .next (s.mapTake ctx 0 pa)
/-- UNMAP (R240): Map request op 1 unmaps every page of the range. -/
def execUnmap (ctx : Nat) (s : State) : Host.Outcome State Fault Refusal := .next (s.mapTake ctx 1 0)
/-- PROTECT (R240): Map request op 2 sets R, W and X on every page of the range. -/
def execProtect (ctx : Nat) (s : State) : Host.Outcome State Fault Refusal := .next (s.mapTake ctx 2 0)
/-- GRANT_FIRST_TOUCH (R240): Map request op 3 marks a range first-touch. -/
def execGrantFirstTouch (ctx : Nat) (s : State) : Host.Outcome State Fault Refusal := .next (s.mapTake ctx 3 0)
/-- MIGRATE_IN (R240): Map request op 4 marks a range migrating from a bound peer. -/
def execMigrateIn (ctx : Nat) (s : State) : Host.Outcome State Fault Refusal := .next (s.mapTake ctx 4 0)
/-- MAP_CORE_WINDOWS (R240): Map request op 5 maps windows of consecutive logical cores. -/
def execMapCoreWindows (ctx : Nat) (s : State) : Host.Outcome State Fault Refusal := .next (s.mapTake ctx 5 0)
/-- MAP_BROADCAST_WINDOW (R240): Map request op 6 maps a multicast group's broadcast window. -/
def execMapBroadcastWindow (ctx : Nat) (s : State) : Host.Outcome State Fault Refusal := .next (s.mapTake ctx 6 0)

/-! ### Pulls and peers (R243, R381, R382) -/

/-- The pull's page is no longer awaited. -/
def State.endPull (s : State) (k : Nat) (p : Pull) : State :=
  let x := s.ctx p.ctx
  { s.setCtx p.ctx { x with sources := x.sources.filter fun y => y.1 ≠ p.va } with pulls := s.pulls.drop k }
/-- PAGE_PULL_COMPLETE (R243): A pull succeeds: the page is mapped with its record's permissions, at a physical address of firmware's choice,
with the bytes that came (others zero). Waiting lanes re-issue by themselves. No page comes over a connection that is closed or has failed
(R382). -/
def execPagePullComplete (k pa : Nat) (data : List (Nat × BitVec 8)) (s : State) : Host.Outcome State Fault Refusal :=
  match s.pulls.find k with
  | none => .next s
  | some p =>
    if !s.reaches p.ctx p.device || !s.freshPlace (p.ctx / 64) pa (pageSize p.size) p.size then .next s
    else
      let s := match s.walk p.ctx p.va with
        | .migrating z e =>
          let s := { s.mapFrame p.ctx p.va z pa (e.extractLsb' 2 3).toNat with undrawn := s.undrawn ++ [pa] }
          data.foldl (fun (s : State) (b : Nat × Byte) => if b.1 < pageSize z then s.pokeMem (pa + b.1) [b.2] else s) s
        | _ => s
      .next (s.endPull k p)
/-- PAGE_PULL_TIMEOUT (R243): A pull fails or exceeds 2 ms and the page is poisoned. -/
def execPagePullTimeout (k : Nat) (s : State) : Host.Outcome State Fault Refusal :=
  match s.pulls.find k with
  | none => .next s
  | some p =>
    let s := match s.walk p.ctx p.va with
      | .migrating z e => s.setLeaf p.ctx p.va z (0x42 + 4 * (e.extractLsb' 2 3).toNat)
      | _ => s
    .next (s.endPull k p)
/-- The bytes of a physical range that are not zero, by offset; a byte that a DISC left undefined is a free value. -/
def State.rangeBytes (s : State) (pa n : Nat) : List (Nat × Byte) :=
  let inside (a : Nat) := decide (pa ≤ a) && decide (a < pa + n)
  ((s.mem.filter fun c => inside c.1 && !s.undefined.contains c.1).map fun c => (c.1 - pa, c.2)) ++
    (s.undefined.filter inside).map fun a => (a - pa, s.memByte a)
/-- PEER_PULL_REQUEST (R243): A page pull from a peer arrives for the local context of its connection and is served from the VA's page. -/
def execPeerPullRequest (device peerCtx va : Nat) (s : State) : Host.Outcome State Fault Refusal :=
  let refuse : State := { s with out := s.out ++ [.pageRefused device va] }
  .next (if canonical (BitVec.ofNat 64 va) = false then refuse
    else match s.walk peerCtx va with
    | .leaf z e =>
      let pa := leafPa z e (va / pageSize z * pageSize z)
      if permits e .read && isHbm pa then
        match s.claimRead 0 peerCtx (linesFrom pa (pageSize z)) with
        | some s' => s'
        | none => { s with out := s.out ++ [.pageData device va (s.rangeBytes pa (pageSize z))], fresh := s.fresh + 1 }
      else refuse
    | _ => refuse)
/-- PEER_SEGMENT_RECEIVE (R381): A segment arriving from a peer is performed once, in the table of the connection's local context, and
acknowledged, a broadcast once every member has it; a duplicate is discarded, and a segment that does not translate is not
acknowledged. -/
def execPeerSegmentReceive (device : PeerLink) (ctx seqNo va : Nat) (data : List (BitVec 8)) (s : State) : Host.Outcome State Fault Refusal :=
  let x := s.ctx ctx
  if x.seen.contains (device, seqNo) then .next s
  else match s.vaSpan 0 ctx s.nextUid va data.length true with
  | .bad _ => .next s
  | .wait s' => .next s'
  | .ok dsts =>
    match s.claim 0 ctx (placeLines dsts) with
    | some s' => .next s'
    | none =>
      let tag : Bcast := .peer device ctx seqNo
      let s := s.landBytes 0 ctx { off := 0, data := data, dsts := dsts, landed := false }
      let s := (dsts.foldl (fun (p : State × List Byte) t => (match t.1 with
        | .bcast g off => p.1.postBroadcast tag (4096 + device.device) g off (p.2.take t.2) none
        | _ => p.1, p.2.drop t.2)) (s, data)).1
      let s := s.setCtx ctx { s.ctx ctx with seen := x.seen ++ [(device, seqNo)] }
      .next (if s.onItsWay tag then s else { s with out := s.out ++ [.peerAck device seqNo] })

end Sys2Proof.Machine
end

