-- ==== Sys2Proof/Machine/Matrix.lean ====
section
/-! DEFINITION. The Larder and the matrix array at work (R261-R300, R406): reservations, precision registers, operations and tickets,
streams, the array's arbitration, and faults found after issue. -/
namespace Sys2Proof.Machine

/-! ### Array budgets (R303) -/

def State.arraySpent (s : State) (c : Core) (ctx : Nat) : Bool :=
  (budgetNodes ctx).any fun n => limited (s.grant n).array && decide (Sparse.get 0 c.left n ≤ 0)
/-- Charge array-cycles; an exhausted context draws on the tenant's pool. -/
def State.chargeArray (s : State) (c : Core) (ctx cycles : Nat) : Core :=
  if s.arraySpent c ctx && decide (0 < c.pool.2.1) then { c with pool := (c.pool.1, c.pool.2.1 - cycles, c.pool.2.2) }
  else { c with left := (budgetNodes ctx).foldl (fun m n =>
    if limited (s.grant n).array then Sparse.set 0 m n (Sparse.get 0 m n - cycles) else m) c.left }

/-! ### Operations outstanding (R286, R297, R299) -/

/-- An earlier operation on a tile is not complete. -/
def Core.tileBusy (c : Core) (n before : Nat) : Bool := c.ops.any fun o => o.tile == n && decide (o.id < before)
/-- Some operation that is not complete names a handle of a core: its own, or an MMAP of its pair's leader. -/
def State.handleBusy (s : State) (cn h : Nat) : Bool :=
  ((s.core cn).ops.any fun o => o.names h && !(cn % 2 == 1 && o.kind == .mmap)) ||
    (decide (cn % 2 = 1) && ((s.core (cn - 1)).ops ++ ((s.core (cn - 1)).saved.filter fun x => some x.tenant == (s.core cn).tenant).flatMap (·.ops)).any
      fun o => o.kind == .mmap && o.opB2.handle == h)

/-! ### Larder words (R276-R279) -/

/-- The lowest lane of EM, whose value an operand register gives. -/
def View.l0 (V : View) : Nat := (lanesOf V.em).headD 0
/-- A lane register's value for a word that acts once. -/
def View.one (V : View) (k : Nat) : Word := V.lane k V.l0
/-- Words of these chapters have no effect with an empty EM. -/
def View.unlessEmpty (V : View) (i : Info) (eff : View → State) : State := if V.em = 0#32 then V.retire i else eff V
/-- An acquire of the executing lanes' threads is not bound yet, or a fence of theirs still waits for an access before it. -/
def View.owesAcquire (V : View) : Bool :=
  !(V.fencesOf V.em true true).isEmpty || V.w.pend.any fun o => o.kind != .arwait && o.kind.acquires && o.tries.any fun a => a.of o.lanes V.em true
/-- What a thread of a follower does to its core's records and tiles counts, towards an MMAP, as an access of the thread: it waits for what
R220 orders before it (R398). -/
def View.follows (V : View) (eff : View → State) : State := if V.cn % 2 == 1 && V.owesAcquire then V.hold 10 else eff V
/-- An MMAP waits at issue until its follower is back from an edge (R300, R305), and for what R220 orders before its look at the follower's
records (R398). -/
def View.pairWaits (V : View) : Bool := (V.s.core (V.cn + 1)).tenant != some (V.w.ctx / 64) || V.owesAcquire
/-- Reserved bits, sparsity codes and sides that a descriptor may not have (R263). -/
def descWrong (d : Word) : Bool :=
  d.extractLsb' 10 22 != 0#22 || decide (4 < descSparse d) || (!descSideB d && descSparse d != 0)
/-- LRES (R276): what it answers, and the core after it. -/
def View.reserve (V : View) (len : Nat) (desc : Word) : Word × Core :=
  let c := V.c.tidy
  let g := (len + 1023) / 1024
  let held := (c.res.filter fun r => r.2.ctx == V.w.ctx).foldl (fun n r => n + r.2.count) 0
  let limit := match V.s.launches.find V.w.launch with
    | some L => L.larderKib
    | none => 256
  if descWrong desc then (0xFFFFFFF4, c)
  else if len = 0 ∨ 262144 < len ∨ len < descT desc then (0xFFFFFFF5, c)
  else match (List.range 16).find? fun h => (c.res.find h).isNone with
  | none => (0xFFFFFFF1, c)
  | some h =>
    if limit < held + g then (0xFFFFFFF2, c)
    else match firstFit 256 g c.larderHeld with
    | none => (0xFFFFFFF3, c)
    | some b =>
      let r : Reservation := { base := b, count := g, desc := desc, ctx := V.w.ctx, bound := false
                               provisional := V.w.flashPoint
                               releasing := none, va := 0, stride := 0, progress := 0 }
      (BitVec.ofNat 32 h, { c with res := c.res ++ [(h, r)] })
/-- LRES (R276): Reserves a Larder range. -/
def execLres (d : BitVec 7) (a : BitVec 7) (b : BitVec 7) (s : State) : Host.Outcome State Fault Refusal :=
  let i := (Info.lane3 d a b).taking 2
  issue i true s fun V => V.unlessEmpty i fun V => V.follows fun V =>
    let r := V.reserve (V.one a.toNat).toNat (V.one b.toNat)
    (({ V with c := r.2 } : View).writeLane d.toNat fun _ => r.1).retire i
/-- The end of an LREL's wait (R268, R269): the granules leave the reservation, at once or when the rewind point moves. -/
def View.releaseEnd (V : View) (h : Nat) : State :=
  let c := match V.c.res.find h with
    | none => V.c
    | some r => match r.releasing with
      | some x => if x.point.isSome then { V.c with res := V.c.res.put h { r with releasing := some { x with waited := true } } } else V.c.freeHandle h
      | none => V.c
  ({ V with c := c } : View).retire ((Info.l [] []).taking 2)
/-- LREL (R277): Releases a reservation, waiting for operations that name it. -/
def execLrel (a : BitVec 7) (s : State) : Host.Outcome State Fault Refusal :=
  let i := (Info.laneSrc a).taking 2
  issue i true s fun V => V.unlessEmpty i fun V => V.follows fun V =>
    match V.p.wait with
    | .lrel h => if V.s.handleBusy V.cn h then V.stall (.lrel h) else V.releaseEnd h
    | _ =>
      let V := { V with c := V.c.tidy }
      let h := (V.one a.toNat).toNat
      match V.c.handle V.w.ctx h with
      | none => V.fault 0x083 0#64 V.em
      | some r =>
        let r := { r with releasing := some { point := V.w.flashPoint, waited := false } }
        let V := { V with c := { V.c with res := V.c.res.put h r } }
        if V.s.handleBusy V.cn h then V.stall (.lrel h) else V.releaseEnd h
/-- LREL_WAIT_END (R269): the operations issued before an LREL have completed and the granules leave the reservation. -/
def execLrelWaitEnd (core quad warp slot : Nat) (s : State) : Host.Outcome State Fault Refusal :=
  match s.viewAt core quad warp slot with
  | none => .next s
  | some V => match V.p.wait with
    | .lrel h => .next (if s.handleBusy core h || V.w.trap.halted then s else V.releaseEnd h)
    | _ => .next s
/-- An address and stride that LBIND may take for a descriptor (R266). -/
def bindOk (d : Word) (va stride : Dword) : Bool :=
  va == 0#64 || (canonical va && va.extractLsb' 0 4 == 0#4 && stride.extractLsb' 0 4 == 0#4 &&
    decide (descRow d + descBlocks d * fmtScale (descFormat d) + descZ d / 64 ≤ stride.toInt.natAbs))
/-- LBIND (R278): Binds or unbinds a reservation to a backing VA and stride. -/
def execLbind (a : BitVec 7) (b : BitVec 7) (s : State) : Host.Outcome State Fault Refusal :=
  let i := Info.taking (Info.l [one a, four b] []) 2
  issue i true s fun V => V.unlessEmpty i fun V => V.follows fun V =>
    let V := { V with c := V.c.tidy }
    let h := (V.one a.toNat).toNat
    let va : Dword := V.one (b.toNat + 1) ++ V.one b.toNat
    let stride : Dword := V.one (b.toNat + 3) ++ V.one (b.toNat + 2)
    match V.c.handle V.w.ctx h with
    | none => V.fault 0x083 0#64 V.em
    | some r =>
      if bindOk r.desc va stride then
        let r := { r with va := va, stride := if va = 0#64 then 0#64 else stride, bound := va != 0#64, progress := 0, serial := r.serial + 1 }
        ({ V with c := { V.c with res := V.c.res.put h r } } : View).retire i
      else V.fault 0x086 0#64 V.em
/-- PRSET (R279): Writes a precision register. -/
def execPrset (n : BitVec 3) (a : BitVec 7) (s : State) : Host.Outcome State Fault Refusal :=
  let i := (Info.laneSrc a).taking 2
  issue i true s fun V => V.unlessEmpty i fun V =>
    let x := V.one a.toNat
    if prValid x then ({ V with c := V.c.setPr V.w.ctx n.toNat x } : View).retire i else V.fault 0x085 0#64 V.em
/-- PRGET (R279): Reads a precision register. -/
def execPrget (d : BitVec 7) (n : BitVec 3) (s : State) : Host.Outcome State Fault Refusal :=
  let i := (Info.lane1 d).taking 2
  issue i true s fun V => (V.writeLane d.toNat fun _ => V.c.pr V.w.ctx n.toNat).retire i
/-- A buffered store goes to a core's Larder or scratchpad. -/
def BufStore.reaches (b : BufStore) (cn : Nat) : Bool :=
  match b.acc.loc with
  | .window c off => c == cn && (windowPart off == some 1 || windowPart off == some 2)
  | .bcast _ _ => true
  | _ => false
/-- A store buffered on a core was made by a thread that a warp holds now. -/
def BufStore.ownedBy (b : BufStore) (uid : Nat) : Bool := b.uid == uid || b.also.any fun x => x.1 == uid
/-- OPRDY (R279): Orders operand reads after writes the warp has observed (R271). Those of other threads have been performed where a release
or an arrival has ordered them before it; those of its own threads may still be on their way, and so may broadcasts to this core. -/
def execOprdy (s : State) : Host.Outcome State Fault Refusal :=
  let i := (Info.l [] []).taking 2
  issue i true s fun V => V.unlessEmpty i fun V =>
    if (V.c.setQuad V.qn V.q).quads.any fun q => q.2.warps.any fun w => w.2.sb.any fun b => b.ownedBy V.w.uid && b.reaches V.cn then
      ({ V with w := if V.w.sb.any (fun b => b.held && b.reaches V.cn) then V.w.fullPoint else V.w } : View).hold 9
    else if V.s.deliveries.any (fun d => d.target == V.cn) then V.hold 9
    else V.retire i

/-! ### Issue of operations (R275, R285, R296, R298, R300) -/

/-- An operand that an operation does not have. -/
def Operand.none : Operand := { handle := 16, va := 0, stride := 0, landed := 0 }
/-- The captured binding of a handle (R267). -/
def Core.capture (c : Core) (h : Nat) : Operand :=
  match c.res.find h with
  | some r => { handle := h, va := r.va, stride := r.stride, landed := 0, serial := r.serial }
  | none => Operand.none
/-- An operation as it is issued, with nothing but its tile. -/
def View.opOf (V : View) (k : MatKind) (n : Nat) : MatOp :=
  { id := V.s.nextUid, kind := k, tile := n, pr := V.c.pr V.w.ctx n, opA := Operand.none, opB := Operand.none, opB2 := Operand.none, fmt := 0
    loc := 0, ticket := none, ctx := V.w.ctx, launch := V.w.launch, quad := V.qn, warp := V.wn, uid := V.w.uid, pc := V.p.pc, em := V.em
    crew := 64, afterSeq := V.w.seq, blocked := false, bad := false }
/-- Queue an operation at the issuing quadrant, or wait where the queue is full (R275). -/
def View.enqueue (V : View) (o : MatOp) (eff : View → State) : State :=
  if 4 ≤ V.q.mq.length then V.hold 10
  else V.follows fun V => eff { V with q := { V.q with mq := V.q.mq ++ [o] }, s := { V.s with nextUid := V.s.nextUid + 1 } }
/-- An operation with a ticket leaves its tile to window reads as it was or as it is until an MWAIT on the ticket (R14, R288); a pair's, both
tiles. -/
def View.tileHaze (V : View) (o : MatOp) (t : Word) : Haze :=
  { owner := V.cn, ctx := o.ctx, ticket := t, shelf := .tile, first := o.tile, count := 1, op := o.id, point := V.w.flashPoint }
def View.hazeTile (V : View) (o : MatOp) (t : Word) : View :=
  let h := V.tileHaze o t
  let V := { V with c := { V.c with hazes := V.c.hazes ++ [h] } }
  if o.kind = .mmap then
    let f := V.s.core (V.cn + 1)
    { V with s := V.s.setCore (V.cn + 1) { f with hazes := f.hazes ++ [h] } }
  else V
/-- TZERO (R295): Clears an accumulator tile. -/
def execTzero (n : BitVec 3) (s : State) : Host.Outcome State Fault Refusal :=
  let i := (Info.l [] []).needsFull.taking 2
  issue i true s fun V => if V.em = 0#32 then V.issueFault 0x011 else V.enqueue (V.opOf .tzero n.toNat) fun V => V.retire i
/-- TNORM (R295): Renormalises a tile to the finest grid with headroom. -/
def execTnorm (n : BitVec 3) (s : State) : Host.Outcome State Fault Refusal :=
  let i := (Info.l [] []).needsFull.taking 2
  issue i true s fun V => if V.em = 0#32 then V.issueFault 0x011 else V.enqueue (V.opOf .tnorm n.toNat) fun V => V.retire i

/-- The checks of MMA and MMAP at issue (R300), in the order of the table. A cluster changes tenant as a whole, so that a follower which does not
serve the leader's tenant is one that has no logical name; the records of one that is between slices are looked at once it is back. -/
def View.stepFault (V : View) (pair : Bool) (n ha hb : Nat) : Option Nat :=
  match V.c.handle V.w.ctx ha, V.c.handle V.w.ctx hb with
  | some A, some B =>
    let f := (V.s.core (V.cn + 1)).tidy
    if descBad A.desc || descBad B.desc then some 0x082
    else if descSideB A.desc || !descSideB B.desc || descSparse B.desc != ((V.c.pr V.w.ctx n).extractLsb' 10 3).toNat then some 0x084
    else if pair && (V.cn % 2 == 1 || f.absent) then some 0x087
    else if pair && !V.pairWaits && !(match f.handle V.w.ctx hb with
      | some r => r.desc == B.desc
      | none => false) then some 0x083
    else none
  | _, _ => some 0x083
/-- MMA and MMAP (R296): the step is captured and queued, and its ticket written. -/
def View.step (V : View) (i : Info) (pair : Bool) (d : BitVec 7) (t : BitVec 3) (x y : BitVec 4) : State :=
  let V := { V with c := V.c.tidy }
  if V.em = 0#32 then V.issueFault 0x011
  else match V.stepFault pair t.toNat x.toNat y.toNat with
  | some c => V.fault c 0#64 V.em
  | none => if pair && V.pairWaits then V.hold 10 else
    let r := V.c.nextTicket V.w.ctx t.toNat false
    let o := { V.opOf (if pair then .mmap else .mma) t.toNat with
      opA := V.c.capture x.toNat, opB := V.c.capture y.toNat
      opB2 := if pair then (V.s.core (V.cn + 1)).capture y.toNat else Operand.none, ticket := some r.2 }
    V.enqueue o fun V => ((View.hazeTile { V with c := r.1 } o r.2).writeLane d.toNat fun _ => r.2).retire i
/-- MMA (R296): Adds one matrix step into a tile and returns a ticket. -/
def execMma (d : BitVec 7) (t : BitVec 3) (x : BitVec 4) (y : BitVec 4) (s : State) : Host.Outcome State Fault Refusal :=
  issue ((Info.lane1 d).closing.needsFull.taking 2) true s fun V => V.step ((Info.lane1 d).closing.needsFull.taking 2) false d t x y
/-- MMAP (R296): Adds one step across a core pair and returns a ticket. -/
def execMmap (d : BitVec 7) (t : BitVec 3) (x : BitVec 4) (y : BitVec 4) (s : State) : Host.Outcome State Fault Refusal :=
  issue ((Info.lane1 d).closing.needsFull.taking 2) true s fun V => V.step ((Info.lane1 d).closing.needsFull.taking 2) true d t x y

/-- A location word (R298). -/
def locKind (x : Word) : Nat := (x.extractLsb' 30 2).toNat
def locRow (x : Word) : Nat := (x.extractLsb' 24 6).toNat
def locRows (x : Word) : Nat := (x.extractLsb' 18 6).toNat + 1
/-- The bytes of a transfer. -/
def xferLen (f : Nat) (x : Word) : Nat := 64 * locRows x * xferBytes f
/-- The registers of a kind-2 range: first and count. -/
def locRegs (f : Nat) (x : Word) : Nat × Nat := ((x.extractLsb' 0 7).toNat, (xferLen f x + 127) / 128)
/-- Values that a location word may not have (R300, R40 check 3). -/
def locOk (x : Word) : Bool := locKind x != 3 && decide (locRow x + locRows x ≤ 64) && (locKind x != 2 || x.extractLsb' 7 11 == 0#11)
/-- The registers of a kind-2 range: past the allotment, then temporaries (R40 checks 5 and 6, R300). -/
def View.rangeFault (V : View) (f : Nat) (x : Word) : Option Nat :=
  let rs := (List.range (locRegs f x).2).map ((locRegs f x).1 + ·)
  if locKind x ≠ 2 then none
  else if rs.any fun k => decide (V.w.allot ≤ k) && !(decide (120 ≤ k) && decide (k < 128)) then some 0x004
  else if rs.any fun k => decide (120 ≤ k) then some 0x006
  else none
/-- Where a location of a scratchpad or Larder range begins in its store. -/
def View.locBase (V : View) (x : Word) : Nat :=
  if locKind x = 0 then 1024 * (((V.w.crewOf V.l0).bind V.c.crews.find).map (·.base)).getD 0 + 16 * (x.extractLsb' 0 18).toNat
  else 1024 * ((V.c.res.find (x.extractLsb' 14 4).toNat).map (·.base)).getD 0 + 16 * (x.extractLsb' 0 14).toNat
/-- The checks of TST and TLD at issue that follow those of R40, in the order of the table (R300). -/
def View.xferFault (V : View) (f : Nat) (x : Word) : Option Nat :=
  if V.em = 0#32 then some 0x011
  else if (V.rangeFault f x).isSome then V.rangeFault f x
  else if locKind x = 2 then none
  else if locKind x = 0 then
    (if (lanesOf V.em).any fun l => (V.w.crewOf l).isNone then some 0x00C
     else match (V.w.crewOf V.l0).bind V.c.crews.find with
      | none => some 0x00C
      | some k => if 1024 * k.g < 16 * (x.extractLsb' 0 18).toNat + xferLen f x then some 0x046 else none)
  else match V.c.handle V.w.ctx (x.extractLsb' 14 4).toNat with
  | none => some 0x083
  | some r => if 1024 * r.count < 16 * (x.extractLsb' 0 14).toNat + xferLen f x then some 0x089 else none
/-- The bytes of the scratchpad or the Larder that a TST writes, undefined until an MWAIT on its ticket (R227, R288). -/
def View.hazeRange (V : View) (o : MatOp) (t : Word) : View :=
  if o.kind = .tst ∧ locKind o.loc < 2 then
    { V with c := { V.c with hazes := V.c.hazes ++
        [{ owner := V.cn, ctx := o.ctx, ticket := t, shelf := if locKind o.loc = 0 then .scratch else .larder
           first := V.locBase o.loc, count := xferLen o.fmt o.loc, op := o.id, point := V.w.flashPoint }] } }
  else V
/-- The lane registers that a TST writes, or a TLD reads (R406). -/
def View.noteRange (V : View) (o : MatOp) (t : Word) : View :=
  if locKind o.loc = 2 then
    let rs := locRegs o.fmt o.loc
    { V with w := { V.w with tstRanges := V.w.tstRanges ++
        [{ ticket := t, first := rs.1, count := rs.2, load := o.kind == .tld, touched := [], point := V.w.flashPoint.map (·.2) }] } }
  else V
/-- TST and TLD (R298): the transfer is captured and queued, and its ticket written. -/
def View.xfer (V : View) (i : Info) (store : Bool) (d : BitVec 7) (t : BitVec 3) (f : BitVec 4) (b : BitVec 7) : State :=
  let V := { V with c := V.c.tidy }
  let x := V.one b.toNat
  match V.xferFault f.toNat x with
  | some c => V.issueFault c
  | none =>
    let r := V.c.nextTicket V.w.ctx t.toNat true
    let o := { V.opOf (if store then .tst else .tld) t.toNat with
      fmt := f.toNat, loc := x, ticket := some r.2, crew := if locKind x = 0 then (V.w.crewOf V.l0).getD 64 else 64 }
    V.enqueue o fun V =>
      ((((View.hazeTile { V with c := r.1 } o r.2).hazeRange o r.2).noteRange o r.2).writeLane d.toNat fun _ => r.2).retire i
/-- A word of a transfer at issue: a range of registers that fails a check of R40 comes before the check of a full mask. -/
def issueXfer (d : BitVec 7) (f : BitVec 4) (b : BitVec 7) (s : State) (eff : View → State) : Host.Outcome State Fault Refusal :=
  let early := s.view.any fun V => V.em != 0#32 && (V.rangeFault f.toNat (V.one b.toNat)).isSome
  issueChecked (if early then { Info.tileXfer d b with full := false } else Info.tileXfer d b)
    (fun V => tileFormatOk f && (V.em == 0#32 || locOk (V.one b.toNat))) s eff
/-- TST (R298): Writes tile rows out in a transfer format. -/
def execTst (d : BitVec 7) (t : BitVec 3) (f : BitVec 4) (b : BitVec 7) (s : State) : Host.Outcome State Fault Refusal :=
  issueXfer d f b s fun V => V.xfer (Info.tileXfer d b) true d t f b
/-- TLD (R298): Loads tile rows from a transfer format. -/
def execTld (d : BitVec 7) (t : BitVec 3) (f : BitVec 4) (b : BitVec 7) (s : State) : Host.Outcome State Fault Refusal :=
  issueXfer d f b s fun V => V.xfer (Info.tileXfer d b) false d t f b

/-! ### Faults found after issue (R292) -/

/-- Remove an operation from the queues of a core. -/
def Core.dropOp (c : Core) (id : Nat) : Core :=
  { c with quads := c.quads.map fun (q : Nat × Quadrant) => (q.1, { q.2 with mq := q.2.mq.filter fun o => o.id ≠ id }) }
/-- Change a queued operation. -/
def Core.onOp (c : Core) (id : Nat) (f : MatOp → MatOp) : Core :=
  { c with quads := c.quads.map fun (q : Nat × Quadrant) => (q.1, { q.2 with mq := q.2.mq.map fun o => if o.id = id then f o else o }) }
/-- A fault of an operation is deferred to its warp; one found after every thread of it has exited is counted. -/
def State.defer (s : State) (cn : Nat) (o : MatOp) (cause : Nat) (eva : Dword) (again : Bool) : State :=
  match s.warp cn o.quad o.warp with
  | some w =>
    if w.uid = o.uid ∧ w.tids ≠ [] then
      let d : Deferred := { op := o.id, cause := cause, epc := pcVa o.pc, eva := eva, fmask := o.em, reissue := if again then some o.id else none
                            ticket := o.ticket, tile := some o.tile }
      s.setWarp cn o.quad o.warp { w with trap := { w.trap with deferred := w.trap.deferred ++ [d] } }
    else s.countFault o.launch
  | none => s.countFault o.launch
/-- A deferred fault is raised before another: that of the operation issued first; late faults of words in the order of the words (R31, R292). -/
def Deferred.before (d e : Deferred) : Bool := decide (d.op < e.op) || (d.op == e.op && decide (d.late.getD 0 ≤ e.late.getD 0))
/-- The deferred fault that is raised first. -/
def firstDeferred : List Deferred → Option Deferred
  | [] => none
  | d :: ds => match firstDeferred ds with
    | none => some d
    | some e => if d.before e then some d else some e
/-- A path whose queued TCHK is withdrawn issues it again; a waiting TEXP keeps its number. -/
def Core.withdrawTchk (c : Core) (p : Option Path) : Core × Option Path :=
  match p with
  | some q => match q.wait with
    | .tchk id => if (c.quads.any fun x => x.2.mq.any fun o => o.id == id) then (c.dropOp id, some { q with wait := .none }) else (c, p)
    | _ => (c, p)
  | none => (c, none)
/-- The first deferred fault of a warp is raised; a resume issues its operation again where R293 says so. -/
def State.raiseDeferred (s : State) (cn qn wn : Nat) : State :=
  match s.warp cn qn wn with
  | none => s
  | some w =>
    match firstDeferred w.trap.deferred with
    | none => s
    | some d =>
      let (c, p0) := (s.core cn).withdrawTchk w.div.s0
      let (c, p1) := c.withdrawTchk w.div.s1
      let w := { w with div := { w.div with s0 := p0, s1 := p1 }, trap := { w.trap with deferred := w.trap.deferred.filter fun x => x ≠ d } }
      ((s.setCore cn c).setWarp cn qn wn w).mgmtTrap cn qn wn 0
        { cause := d.cause, epc := d.epc, eva := d.eva, fmask := d.fmask, replay := if d.late.isSome then d.fmask else 0, again := false
          isDeferred := d.late.isNone && !d.plain, escalated := false, service := none, reissue := d.reissue, late := d.late }
/-- DEFERRED_FAULT_RAISE (R292, R332): at a run boundary, or while a slot waits where R292 says, the first deferred fault is raised. -/
def execDeferredFaultRaise (core quad warp : Nat) (s : State) : Host.Outcome State Fault Refusal :=
  match s.warp core quad warp with
  | none => .next s
  | some w => .next (if w.trap.halted || !((s.core core).quad quad).mayDefer warp w then s else s.raiseDeferred core quad warp)
/-- A word that waits on operations has completed, and a deferred fault of one of them is raised (R292). -/
def View.retireWaited (V : View) (i : Info) (mine : Deferred → Bool) : State :=
  let s := V.retire i
  if V.w.handler.isNone && V.w.trap.deferred.any mine then s.raiseDeferred V.cn V.qn V.wn else s

/-! ### MWAIT, TEXP and TCHK -/

/-- An MWAIT on a ticket covers what its operation has written, and the tiles that operations before it on those tiles have (R227, R286). -/
def hazesWaited (hs : List Haze) (owner : Nat) (t : Word) : List Haze :=
  let mine (h : Haze) : Bool := h.owner == owner && h.ticket == t
  hs.filter fun h => !(mine h || (h.shelf == .tile && hs.any fun k => mine k && k.shelf == .tile && k.first == h.first && decide (h.op < k.op)))
/-- What an operation with a ticket has written is defined from an MWAIT on (R227, R288, R406): whichever warp of the core executes it
(DEDUCED, notes/assumptions/64.md). `owner` issued the operation. -/
def Core.mwaited (c : Core) (owner : Nat) (t : Word) : Core :=
  { c with hazes := hazesWaited c.hazes owner t
           quads := c.quads.map fun (q : Nat × Quadrant) => (q.1, { q.2 with warps := q.2.warps.map fun (w : Nat × Warp) =>
             (w.1, { w.2 with tstRanges := w.2.tstRanges.filter fun x => x.ticket ≠ t }) }) }
def State.mwaited (s : State) (cn : Nat) (t : Word) : State :=
  let s := s.setCore cn ((s.core cn).mwaited cn t)
  if cn % 2 = 0 ∧ ((s.core (cn + 1)).hazes.any fun h => h.owner == cn && h.ticket == t) then
    s.setCore (cn + 1) { s.core (cn + 1) with hazes := hazesWaited (s.core (cn + 1)).hazes cn t }
  else s
/-- MWAIT (R297): Waits until a ticket's operation completes, acquiring at core scope. -/
def execMwait (a : BitVec 7) (s : State) : Host.Outcome State Fault Refusal :=
  let i := (Info.laneSrc a).taking 2
  issue i true s fun V => V.unlessEmpty i fun V =>
    let t := V.one a.toNat
    if (t.extractLsb' 20 12).toNat ≠ V.w.ctx % 4096 then V.fault 0x08A 0#64 V.em
    else if (V.c.setQuad V.qn V.q).ops.any fun o => o.ticket == some t && !(V.cn % 2 == 1 && o.kind == .mmap) then V.hold 10
    else (V.retireWaited i fun d => d.ticket == some t).mwaited V.cn t
/-- TEXP (R299): Reads a tile's exponent after earlier operations. -/
def execTexp (d : BitVec 7) (t : BitVec 3) (s : State) : Host.Outcome State Fault Refusal :=
  let i := (Info.lane1 d).taking 2
  issue i true s fun V => V.unlessEmpty i fun V =>
    let before := match V.p.wait with
      | .tchk n => n
      | _ => V.s.nextUid
    if V.c.tileBusy t.toNat before then
      ({ V with s := if V.p.wait = .tchk before then V.s else { V.s with nextUid := V.s.nextUid + 1 } } : View).stall (.tchk before)
    else (V.writeLane d.toNat fun _ => BitVec.ofInt 32 (V.c.tile t.toNat).te).retireWaited i fun d => d.tile == some t.toNat
/-- TCHK (R299): Verifies a tile's sums, faulting at once on a mismatch. It is queued as an operation, and its slot waits for it. -/
def execTchk (d : BitVec 7) (t : BitVec 3) (s : State) : Host.Outcome State Fault Refusal :=
  let i := (Info.lane1 d).needsFull.taking 2
  issue i true s fun V =>
    match V.p.wait with
    | .tchk n => V.stall (.tchk n)
    | .tchked none => (V.writeLane d.toNat fun _ => 0).retireWaited i fun d => d.tile == some t.toNat
    | .tchked (some eva) => (V.fault 0x088 (BitVec.ofNat 64 eva) V.em).countEvent (.matrixArray V.cn)
    | _ =>
      if V.em = 0#32 then V.issueFault 0x011
      else
        let o := V.opOf .tchk t.toNat
        V.enqueue o fun V => V.stall (.tchk o.id)

/-! ### Streams (R266, R267) -/

/-- The parts of row or column i of a descriptor in memory, with their places in the span: element bytes, scales, zero points. -/
def rowParts (d : Word) (i : Nat) : List (Nat × Nat) :=
  let n := descBlocks d * fmtScale (descFormat d)
  let z := descZ d / 64
  [(i * descRow d, descRow d), (descScaleAt d + i * n, n), (descZeroAt d + i * z, z)]
/-- Bytes of row i in memory. -/
def rowLen (d : Word) : Nat := (rowParts d 0).foldl (fun n x => n + x.2) 0
/-- Put a row's bytes at their places in a span. -/
def putRow (m : Memory) (base : Nat) (d : Word) (i : Nat) (bs : List Byte) : Memory :=
  ((rowParts d i).foldl (fun (p : Memory × List Byte) x => (Sparse.setAll 0#8 p.1 (base + x.1) (p.2.take x.2), p.2.drop x.2)) (m, bs)).1
/-- What the next row of a stream meets: its bytes; a page being served; or the cause and address at which it fails. -/
inductive RowGot where
  | row (bs : List Byte)
  | wait (s : State)
  | fault (cause : Nat) (va : Dword)
  deriving DecidableEq, Repr
def State.readRow (s : State) (cn : Nat) (o : MatOp) (va : Dword) (n : Nat) : RowGot :=
  (pieces va.toNat n).foldl (fun g p => match g with
    | .row bs =>
      let at_ : Dword := BitVec.ofNat 64 p.1
      if canonical at_ = false then .fault 0x042 at_
      else match s.translate cn false o.ctx .read p.1 with
      | .ok (.mem pa) => (match s.claimRead cn o.ctx (linesFrom pa p.2) with
        | some s' => .wait s'
        | none => .row (bs ++ s.memBytes pa p.2))
      | .ok (.window c off) => (match s.windowRangeCheck c off p.2 (some o.ctx) false with
        | some cause => .fault cause at_
        | none => .row (bs ++ s.windowBytes c off p.2 (some o.ctx)))
      | .ok _ => .fault 0x045 at_
      | .migrating => .wait (s.startPull o.ctx p.1)
      | .fault c =>
        if c = 0x049 then (match s.startTake o.ctx o.launch p.1 with
          | some s' => .wait s'
          | none => .fault 0x04A at_)
        else .fault c at_
    | x => x) (.row [])
/-- The operation that stands at the head of a queue of the core on which it was issued, by number. -/
def State.headOp (s : State) (cn id : Nat) : Option MatOp :=
  (s.core cn).quads.findSome? fun q => match q.2.mq with
    | o :: _ => if o.id = id then some o else none
    | [] => none
/-- Write a stream's progress into its record, while the record still has the binding that the stream follows (R267). -/
def Core.noteProgress (c : Core) (x : Operand) (landed : Nat) : Core :=
  match c.res.find x.handle with
  | some r => if r.serial = x.serial then { c with res := c.res.put x.handle { r with progress := if landed = 64 then 0 else landed } } else c
  | none => c
/-- The tenant of an operation holds a core, which does not drain. -/
def Core.serves (c : Core) (ctx : Nat) : Bool := c.tenant == some (ctx / 64) && c.phase == .running
/-- The next row of a stream of operation `id`, issued on core `oc`, into the Larder of core `cn`; `which` picks the operand. The granules of a
row are bound at one step (R227; DESIGN CHOICE, notes/assumptions/77.md). -/
def State.streamRow (s : State) (oc cn id : Nat) (which : MatOp → Operand) (upd : MatOp → Operand → MatOp) : Option State :=
  match s.headOp oc id with
  | none => none
  | some o =>
    let x := which o
    let c := s.core oc
    if o.blocked || !x.streams || !c.serves o.ctx || !(s.core cn).serves o.ctx || s.spanRead cn x.handle o.id ||
        c.owesAll o.uid o.afterSeq then none
    else match (s.core cn).res.find x.handle with
    | none => none
    | some r =>
      let va := x.va + BitVec.ofInt 64 (x.landed * x.stride.toInt)
      match s.readRow oc o va (rowLen r.desc) with
      | .wait s' => if s' = s then none else some s'
      | .fault cause at_ =>
        let s := s.defer oc o cause at_ (cause != 0x04A)
        some (s.setCore oc (if cause = 0x04A then (s.core oc).dropOp id else (s.core oc).onOp id fun o => { o with blocked := true }))
      | .row bs =>
        let fc := s.core cn
        let fc := { fc with larder := putRow fc.larder (1024 * r.base) r.desc x.landed bs }
        let s := { (s.setCore cn (fc.noteProgress x (x.landed + 1))).tlbFill oc o.ctx va.toNat with fresh := s.fresh + 1 }
        some (s.setCore oc ((s.core oc).onOp id fun o => upd o { x with landed := x.landed + 1 }))
/-- MATRIX_ROW_LAND (R267): A streamed operand row lands in the span of a core and advances row progress. The second half of an MMAP's B lands
on the follower. -/
def execMatrixRowLand (core op : Nat) (sideB : Bool) (s : State) : Host.Outcome State Fault Refusal :=
  let own := if sideB then s.streamRow core core op MatOp.opB (fun o x => { o with opB := x })
    else s.streamRow core core op MatOp.opA (fun o x => { o with opA := x })
  .next ((match own with
    | some s' => some s'
    | none => if sideB && core % 2 == 1 then s.streamRow (core - 1) core op MatOp.opB2 (fun o x => { o with opB2 := x }) else none).getD s)

/-! ### Arbitration (R275, R283) -/

/-- A core's array may begin an operation of a context under its budget (R303). -/
def State.arrayAllows (s : State) (c : Core) (ctx : Nat) : Bool := !s.arraySpent c ctx || decide (0 < c.pool.2.1)
/-- The head of a queue can start. A pair needs the follower too: its tenant's, restored, with budget there and array and tile free. -/
def State.startable (s : State) (cn : Nat) (o : MatOp) : Bool :=
  let c := s.core cn
  let f := s.core (cn + 1)
  !o.blocked && s.ctxRuns c o.ctx && s.arrayAllows c o.ctx &&
    !o.opA.streams && !o.opB.streams && !o.opB2.streams && !c.tileBusy o.tile o.id &&
    !((o.kind == .mma || o.kind == .mmap) && c.owesAll o.uid o.afterSeq) &&
    (o.kind != .mmap || (f.serves o.ctx && s.arrayAllows f o.ctx && f.array.isNone && !(f.ops.any fun x => x.tile == o.tile)))
/-- Start an operation on the array, and on the follower's for an MMAP, charging its cost on each; its computation ends that many cycles
later (R274). A quadrant whose queue it empties loses its deficit (R275). -/
def State.startOp (s : State) (cn qn : Nat) (o : MatOp) (deficit : Nat) : State :=
  let c := s.core cn
  let q := c.quad qn
  let cost := matCost o.kind o.pr
  let d := if q.mq.tail.isEmpty then 0 else deficit
  let c := s.chargeArray (c.setQuad qn { q with mq := q.mq.tail, deficit := d }) o.ctx cost
  let s := s.setCore cn { c with array := some { o with doneAt := c.cycle + cost }, arrayTurn := 2 * qn + 1 }
  if o.kind = .mmap then
    let f := s.core (cn + 1)
    s.setCore (cn + 1) { s.chargeArray f o.ctx cost with array := some { o with doneAt := f.cycle + cost } }
  else s
/-- Visit quadrants from the one whose turn it is until one's head runs; `arrayTurn` is twice the quadrant, plus 1 once it has earned its 260 in
this visit. -/
def State.rotateArray (s : State) (cn : Nat) : Nat → State × Bool
  | 0 => (s, false)
  | fuel + 1 =>
    let c := s.core cn
    let qn := c.arrayTurn / 2 % 4
    let q := c.quad qn
    let next (c : Core) : Core := { c with arrayTurn := 2 * ((qn + 1) % 4) }
    match q.mq with
    | [] => State.rotateArray (s.setCore cn (next (c.setQuad qn { q with deficit := 0 }))) cn fuel
    | o :: _ =>
      if !s.startable cn o then State.rotateArray (s.setCore cn (next c)) cn fuel
      else
        let d := q.deficit + if c.arrayTurn % 2 = 0 then 260 else 0
        if matCost o.kind o.pr ≤ d then (s.startOp cn qn o (d - matCost o.kind o.pr), true)
        else State.rotateArray (s.setCore cn (next (c.setQuad qn { q with deficit := d }))) cn fuel
/-- Visits of quadrants with nothing queued reset their deficits (R275). -/
def Core.resetIdle (c : Core) : Core :=
  { c with quads := c.quads.map fun (q : Nat × Quadrant) => if q.2.mq.isEmpty then (q.1, { q.2 with deficit := 0 }) else q }
/-- The visit of a quadrant ends once the head of its queue cannot start: a later one earns its 260 anew (R275). -/
def State.endVisit (s : State) (cn : Nat) : State :=
  let c := s.core cn
  let qn := c.arrayTurn / 2 % 4
  let goes : Bool := match (c.quad qn).mq with
    | o :: _ => s.startable cn o
    | [] => false
  if c.arrayTurn % 2 = 1 ∧ goes = false then s.setCore cn { c with arrayTurn := 2 * ((qn + 1) % 4) } else s
/-- The array takes its next operation, if one can start; otherwise every queue that is empty loses its deficit, and no visit stays open. -/
def State.arrayStart (s : State) (cn : Nat) : Option State :=
  if (s.core cn).array.isSome then none
  else match s.rotateArray cn 10 with
  | (s', true) => some s'
  | (_, false) =>
    if (s.core cn).arrayTurn % 2 = 1 ∨ (s.core cn).quads.any (fun q => q.2.mq.isEmpty && q.2.deficit != 0) then
      let t := s.endVisit cn
      some (t.setCore cn (t.core cn).resetIdle)
    else none
/-- MATRIX_COMPUTE_START (R275): The array's deficit round robin starts a startable queued operation and charges its cost. -/
def execMatrixComputeStart (core : Nat) (s : State) : Host.Outcome State Fault Refusal := .next ((s.arrayStart core).getD s)

/-! ### Completion (R287, R289, R292) -/

/-- The Larder as a step reads it: each granule of a range that a TST has written with no MWAIT since reads as it was or as it is
(R288). -/
def Core.larderSeen (c : Core) (fresh : Nat) : Memory :=
  c.hazes.foldl (fun m h => if h.shelf = .larder then
    ((List.range h.old.length).zip h.old).foldl (fun m b =>
      if Config.freeNat fresh ((h.first + b.1) / 8) % 2 = 0 then Sparse.set 0#8 m (h.first + b.1) b.2 else m) m else m) c.larder
/-- A side of a step as it stands in a Larder. -/
def Core.side (c : Core) (fresh : Nat) (x : Operand) (pr : Word) (b : Bool) : Side :=
  let r := (c.res.find x.handle).getD { base := 0, count := 0, desc := 0, ctx := 0, bound := false, provisional := none, releasing := none
                                        va := 0, stride := 0, progress := 0 }
  { mem := c.larderSeen fresh, base := 1024 * r.base, desc := r.desc
    width := (if b then (pr.extractLsb' 4 4).toNat else (pr.extractLsb' 0 4).toNat) + 1
    signed := if b then pr.getLsbD 9 else pr.getLsbD 8, zero := pr.getLsbD 13 }
/-- The tile of an operation has changed: until an MWAIT on its ticket a window may show it as it was (R14). -/
def Core.keepTile (c : Core) (o : MatOp) (was : Tile) : Core :=
  { c with hazes := c.hazes.map fun h => if h.shelf = .tile ∧ h.op = o.id ∧ c.tile o.tile ≠ was then { h with was := some was } else h }
/-- A tile that an operation of a context has written (R370). -/
def Tile.ownedBy (t : Tile) (ctx : Nat) : Tile := { t with owner := some ctx }
/-- Compute a step: the leader's tile, the follower's for a pair, and a deferred fault. -/
def State.compute (s : State) (cn : Nat) (o : MatOp) : State :=
  let c := s.core cn
  let f := s.core (cn + 1)
  let A := c.side s.fresh o.opA o.pr false
  let Bs := c.side s.fresh o.opB o.pr true :: (if o.kind = .mmap then [f.side s.fresh o.opB2 o.pr true] else [])
  let ts := c.tile o.tile :: (if o.kind = .mmap then [f.tile o.tile] else [])
  let bad := o.bad || (o.kind == .mmap && f.array.any (·.bad))
  let r := matrixStep A Bs ts (if bad then some (Config.freeNat s.fresh o.id) else none)
  let s := s.setCore cn { c with tiles := c.tiles.put o.tile ((r.1.getD 0 Tile.zero).ownedBy o.ctx) }
  let s := if o.kind = .mmap then s.setCore (cn + 1) { f with tiles := f.tiles.put o.tile ((r.1.getD 1 Tile.zero).ownedBy o.ctx) } else s
  match r.2 with
  | some (cause, j) => s.defer cn o cause (BitVec.ofNat 64 j) false
  | none => s
/-- The word of the register file that holds byte x of a kind-2 range. -/
def regByte (w : Warp) (vq x : Nat) : Nat := (w.base + vq + x / 128) * 32 + x % 128 / 4
/-- A warp whose registers a TST has written: they are defined but for the lanes that the warp has written since it issued (R288). -/
def Warp.tstWritten (w : Warp) (o : MatOp) : Warp :=
  let n := xferLen o.fmt o.loc
  let rs := locRegs o.fmt o.loc
  let touched (k : Nat) : Word := w.tstRanges.foldl (fun m t => if o.ticket = some t.ticket then m ||| Sparse.get 0#32 t.touched k else m) 0#32
  let reached (k : Nat) : Word := maskOf fun l => decide (128 * (k - rs.1) + 4 * l < n)
  { w with undef := (List.range rs.2).foldl (fun u i =>
      let k := rs.1 + i
      Sparse.set 0#32 u k (Sparse.get 0#32 u k &&& (touched k ||| ~~~reached k))) w.undef }
/-- What stood in the registers of a TST's range is kept until an MWAIT on its ticket, for windows to show (R14). -/
def Warp.keepRange (w : Warp) (o : MatOp) (rf : Sparse Word) : Warp :=
  { w with tstRanges := w.tstRanges.map fun t => if o.ticket = some t.ticket then
      { t with old := (List.range t.count).flatMap fun i => (List.range 32).map fun l =>
          (32 * (t.first + i) + l, Sparse.get 0#32 rf ((w.base + t.first + i) * 32 + l)) } else t }
/-- Write a transfer's bytes at its location. -/
def State.xferOut (s : State) (cn : Nat) (o : MatOp) (bs : List Byte) : State :=
  let c := s.core cn
  if locKind o.loc = 0 then
    match c.crews.find o.crew with
    | some k => s.setCore cn { c with scratch := Sparse.setAll 0#8 c.scratch (1024 * k.base + 16 * (o.loc.extractLsb' 0 18).toNat) bs }
    | none => s
  else if locKind o.loc = 1 then
    match c.res.find o.locHandle with
    | some r =>
      let at_ := 1024 * r.base + 16 * (o.loc.extractLsb' 0 14).toNat
      let was := Sparse.getAll 0#8 c.larder at_ bs.length
      s.setCore cn { c with larder := Sparse.setAll 0#8 c.larder at_ bs
                            hazes := c.hazes.map fun h => if h.shelf = .larder ∧ h.op = o.id then { h with old := was } else h }
    | none => s
  else
    match (s.warp cn o.quad o.warp).filter fun w => w.uid == o.uid with
    | none => s
    | some w =>
      let q := c.quad o.quad
      let vq := (o.loc.extractLsb' 0 7).toNat
      let rf := ((List.range bs.length).zip bs).foldl (fun rf b =>
        let j := regByte w vq b.1
        Sparse.set 0#32 rf j (setByte (Sparse.get 0#32 rf j) (b.1 % 4) b.2)) q.rf
      s.setCore cn (c.setQuad o.quad { q.setWarp o.warp ((w.keepRange o q.rf).tstWritten o) with rf := rf })
/-- A lane register that a TLD reads holds no defined value for it: its contents are undefined, or the warp has written it since the TLD
issued (R29, R288, R406). -/
def Warp.tldOpen (w : Warp) (o : MatOp) (k l : Nat) : Bool :=
  (Sparse.get 0#32 w.undef k).getLsbD l || w.tstWrites k ||
    w.tstRanges.any fun t => t.load && o.ticket == some t.ticket && (Sparse.get 0#32 t.touched k).getLsbD l
/-- Read a transfer's bytes from its location. -/
def State.xferIn (s : State) (cn : Nat) (o : MatOp) : List Byte :=
  let c := s.core cn
  let n := xferLen o.fmt o.loc
  if locKind o.loc = 0 then
    match c.crews.find o.crew with
    | some k => (List.range n).map fun x => c.scratchByte s.fresh (1024 * k.base + 16 * (o.loc.extractLsb' 0 18).toNat + x)
    | none => []
  else if locKind o.loc = 1 then
    match c.res.find o.locHandle with
    | some r => (List.range n).map fun x => c.larderByte s.fresh (1024 * r.base + 16 * (o.loc.extractLsb' 0 14).toNat + x)
    | none => []
  else
    match (s.warp cn o.quad o.warp).filter fun w => w.uid == o.uid with
    | none => []
    | some w => (List.range n).map fun x =>
      let k := (o.loc.extractLsb' 0 7).toNat + x / 128
      let l := x % 128 / 4
      (if w.tldOpen o k l then Config.freeLane s.fresh k l
       else Sparse.get 0#32 (c.quad o.quad).rf (regByte w (o.loc.extractLsb' 0 7).toNat x)).extractLsb' (8 * (x % 4)) 8
/-- A tile that an operation leaves, or the deferred overflow of cause 0x080 with the tile unchanged. -/
def State.putTile (s : State) (cn : Nat) (o : MatOp) : Option Tile → State
  | some t => s.setCore cn { s.core cn with tiles := (s.core cn).tiles.put o.tile (t.ownedBy o.ctx) }
  | none => s.defer cn o 0x080 0#64 false
/-- TCHK has run: its slot learns the result. -/
def State.tchkDone (s : State) (cn : Nat) (o : MatOp) (t : Tile) : State :=
  let bad := if t.badRow = 64 ∧ t.badCol = 64 then none else some (128 * t.badRow + t.badCol)
  let at_ (p : Option Path) : Option Path := p.map fun p => if p.wait = .tchk o.id then { p with wait := .tchked bad } else p
  s.onWarp cn o.quad o.warp fun w =>
    if w.uid = o.uid then { w with div := { w.div with s0 := at_ w.div.s0, s1 := at_ w.div.s1 } } else w
/-- CYCLE stands at the end of the computation on a core's array, and on the follower's for a pair (R274). -/
def State.toDone (s : State) (cn : Nat) (o : MatOp) : State :=
  let s := s.passTo cn o.doneAt
  if o.kind = .mmap then s.passTo (cn + 1) (((s.core (cn + 1)).array.map (·.doneAt)).getD 0) else s
/-- The operation on a core's array finishes, or ends in a fault, and its ticket completes. -/
def State.arrayFinish (s : State) (cn : Nat) : Option State :=
  match (s.core cn).array with
  | none => none
  | some o =>
    if o.kind = .mmap ∧ cn % 2 = 1 then none
    else
      let s := s.toDone cn o
      let t := (s.core cn).tile o.tile
      let ft := (s.core (cn + 1)).tile o.tile
      let s := match o.kind with
        | .tzero => s.putTile cn o (some Tile.zero)
        | .tnorm => s.putTile cn o t.norm
        | .mma => s.compute cn o
        | .mmap => s.compute cn o
        | .tst => s.xferOut cn o (tstBytes t o.fmt (locRow o.loc) (locRows o.loc))
        | .tld => s.putTile cn o (tldTile t o.fmt (locRow o.loc) (locRows o.loc) (s.xferIn cn o))
        | .tchk => s.tchkDone cn o t
      let s := { s.setCore cn { (s.core cn).keepTile o t with array := none } with fresh := s.fresh + 1 }
      let s := if o.kind = .mmap then s.setCore (cn + 1) { (s.core (cn + 1)).keepTile o ft with array := none } else s
      some (s.endVisit cn)
/-- The CYCLE at which the operation on a core's array is done has come, or may pass; for a pair, on both cores. -/
def State.doneComes (s : State) (cn : Nat) : Bool :=
  (s.core cn).array.all fun o => s.comes cn o.doneAt && (o.kind != .mmap || (s.core (cn + 1)).array.all fun f => s.comes (cn + 1) f.doneAt)
/-- MATRIX_OP_COMPLETE (R287): A matrix or tile operation finishes or faults and completes its ticket, at the CYCLE at which it is done. -/
def execMatrixOpComplete (core : Nat) (s : State) : Host.Outcome State Fault Refusal :=
  .next (if s.doneComes core then (s.arrayFinish core).getD s else s)

end Sys2Proof.Machine
end

