-- ==== Sys2Proof/Machine/RunEvents.lean ====
section
/-! DEFINITION. Runs: selection, fetch and decode of a run (R24, R119, R142), rotation (R150), the trailer (R22), and words that are no
instruction (R40). -/
namespace Sys2Proof.Machine

/-- A word whose entry or must-be-zero bits make it no instruction (R40, orders 1 to 3). -/
def View.reject (V : View) (r : Reject) : State :=
  match V.breakHit with
  | some b => V.fault (0x100 + b) 0#64 V.em
  | none =>
    let lset := match V.r.words with
      | w :: _ => !w.getLsbD 31
      | [] => false
    V.issueFault (match r with
      | .unassigned => 0x001
      | .mustBeZero priv => if lset && V.w.mgmt then 0x001 else if priv && !V.super then 0x003 else 0x002)

/-- The trap of a run that fails a check (R24). -/
def runTrap (p : Path) (cause : Nat) (at_ : Pc) : TrapReq :=
  { cause := cause, epc := pcVa p.pc, eva := pcVa at_, fmask := p.mask, replay := p.em, again := true, isDeferred := false,
    escalated := false, service := none, start := true }
/-- Open a run in a slot: its words, its temporary set, its temporaries undefined (R25, R75). -/
def State.openRun (s : State) (cn qn wn k : Nat) (w : Warp) (p : Path) (ws : List Word) (set : Nat) : State :=
  let q := (s.core cn).quad qn
  let r : OpenRun := { words := ws, trailerAt := p.pc + 4#48 * BitVec.ofNat 48 (ws.length - 1), set := set
                       tdef := [], wdef := 0, total := ws.length }
  let w := { w with div := w.div.setSlot k (some { p with run := some r, site := none, fetched := false }) }
  s.setQuad cn qn { q.setWarp wn w with temps := q.temps ++ [(set, wn, k)], sel := some (wn, k), last := wn }
/-- The mark that a selection leaves: the selected warp's yield ends, and the others' lists lose it (R319); a nap for want of budget is over (R303). -/
def Quadrant.noteSelected (q : Quadrant) (wn : Nat) : Quadrant :=
  { q with warps := q.warps.map fun x : Nat × Warp =>
      if x.1 = wn then (x.1, { x.2 with yielded := none, spent := false }) else (x.1, { x.2 with yielded := x.2.yielded.map fun l => l.filter (· ≠ wn) }) }
/-- Select slot k of a ready warp: resume its broken run, or decode and open its next. -/
def State.selectSlot (s : State) (cn qn wn k : Nat) : State :=
  let q := ((s.core cn).quad qn).noteSelected wn
  let s := s.setQuad cn qn q
  match s.warp cn qn wn with
  | none => s
  | some w => match w.div.slot k with
    | none => s
    | some p =>
      match p.run with
      | some r =>
        -- a run of which no word has issued holds no set yet (R75)
        let set := if r.set < 8 then none else q.freeSet
        let r := match set with
          | some n => { r with set := n }
          | none => r
        s.setQuad cn qn { q.setWarp wn { w with div := w.div.setSlot k (some { p with run := some r }) } with
          temps := q.temps ++ (set.map fun n => (n, wn, k)).toList, sel := some (wn, k), last := wn }
      | none => match q.freeSet with
        | none => s
        | some set =>
          let s := if w.mgmt then s else s.tlbFill cn w.ctx (pcVa p.pc).toNat
          match s.readRun cn w 25 [] false p.pc with
          | .run ws => s.openRun cn qn wn k w p ws set
          | .fault c at_ => s.mgmtTrap cn qn wn k (runTrap p c at_)
          | .wait s' => s'.onWarp cn qn wn fun w => { w with div := w.div.setSlot k (some { p with fetched := false }) }
/-- Report the first trailer match of a warp that has none of its own reports to make first (R332, R361): the warp halts before its next run. -/
def State.reportTrailer (s : State) (cn qn wn : Nat) (w : Warp) (x : TrailerHit) (rest : List TrailerHit) : State :=
  (s.setWarp cn qn wn { w with hits := rest }).mgmtTrap cn qn wn x.slot
    { cause := 0x100 + x.comparator, epc := pcVa x.at_, eva := 0, fmask := x.em, replay := x.em, again := false, isDeferred := false,
      escalated := false, service := none }
/-- A trailer match that a warp reports now. -/
def Warp.hitNow (w : Warp) (q : Quadrant) (wn : Nat) : Option (TrailerHit × List TrailerHit) :=
  if w.trap.halted || w.owesReport q wn then none else match w.hits with
    | x :: xs => some (x, xs)
    | [] => none
/-- A warp with a change of its divergence state outstanding (R147): a stack top not read yet, or an empty slot that a pop fills. -/
def Warp.unsettled (w : Warp) : Bool := w.div.n != 0 && (w.div.top.isNone || w.div.s0.isNone || w.div.s1.isNone)
/-- WARP_SELECT (R119, R142): a quadrant that holds no warp takes the first ready one. A warp with a pop outstanding, or a trailer match
to report, does that first. -/
def execWarpSelect (core quad : Nat) (s : State) : Host.Outcome State Fault Refusal :=
  if (((s.core core).quad quad).sel.bind fun x => s.viewAt core quad x.1 x.2).isSome then .next s
  else
    let s := ((s.core core).quad quad).warps.foldl (fun s x =>
      if x.2.unsettled && !x.2.owesReport ((s.core core).quad quad) x.1 then s.settle core quad x.1 else s) s
    let q := (s.core core).quad quad
    match q.warps.findSome? fun x => (x.2.hitNow q x.1).map fun b => (x.1, x.2, b) with
    | some (wn, w, x, rest) => .next (s.reportTrailer core quad wn w x rest)
    | none =>
      match s.candidates core quad (s.core core) with
      | [] => .next s
      | (wn, w) :: _ =>
        match s.chooseSlot (s.core core) ((s.core core).quad quad) w with
        | some k => .next (s.selectSlot core quad wn k)
        | none => .next s

/-- The words of a slot's next run come, where it stands at a boundary; a page of them that migrates is pulled first (R119, R243). -/
def State.fetchRun (s : State) (cn qn wn k : Nat) : State :=
  match s.warp cn qn wn with
  | none => s
  | some w => match w.div.slot k with
    | none => s
    | some p =>
      if p.run.isSome || p.fetched then s
      else match s.readRun cn w 25 [] false p.pc with
        | .wait s' => s'
        | _ => s.setWarp cn qn wn { w with div := w.div.setSlot k (some { p with fetched := true }) }
/-- RUN_FETCH_COMPLETE (R119): the words of a warp's next runs have come. -/
def execRunFetchComplete (core quad warp : Nat) (s : State) : Host.Outcome State Fault Refusal :=
  .next ((s.fetchRun core quad warp 0).fetchRun core quad warp 1)

/-- ROTATION (R150, step 1): due when the progress counter stands at 65,536 and no slot has been chosen. -/
def execRotation (core quad warp : Nat) (s : State) : Host.Outcome State Fault Refusal :=
  match s.warp core quad warp with
  | none => .next s
  | some w => if w.div.progress = 65536 ∧ w.div.giveUp = none ∧ w.trap.halted = false then .next (s.rotate core quad warp w) else .next s
/-- ROTATION_GIVE_UP (R150, steps 2 and 3): due when the chosen slot is at a run boundary. -/
def execRotationGiveUp (core quad warp : Nat) (s : State) : Host.Outcome State Fault Refusal :=
  match s.warp core quad warp with
  | none => .next s
  | some w =>
    match w.div.giveUp with
    | none => .next s
    | some k =>
      match w.div.slot k with
      | none => .next s
      | some p => if p.idle = true ∧ w.trap.halted = false ∧ w.handler = none then .next (s.giveUp core quad warp w k) else .next s

/-- TRAILER (R22, R23): the slot passes the trailer that closes its run. -/
def execTrailer (stop flash : BitVec 1) (await0 await1 : BitVec 7) (s : State) : Host.Outcome State Fault Refusal :=
  match s.view with
  | none => .fault .noIssuingSlot
  | some V =>
    let s' := V.close (stop == 1#1) (flash == 1#1) await0.toNat await1.toNat
    .next (match V.p.ends with
      | .plain => s'
      | .moved => s'
      | _ => s'.mangleWarp V.cn V.qn V.wn)

/-- The tenant whose partition holds a core at a TIME (R305); an absent core serves nobody (R392). -/
def State.tenantAt (s : State) (cn time : Nat) : Option Nat :=
  if (s.core cn).absent then none
  else (s.entryAt time).bind fun x => (x.2.1.partitions.find? fun p => p.clusters.contains (cn / 8)).map (·.tenant)
/-- A running core passes its next edge to another tenant, or to none (R307). -/
def State.edgeDrains (s : State) (cn : Nat) (c : Core) : Bool := s.tenantAt cn c.sliceEnd != c.tenant
/-- What an edge makes a core do now: start its drain, or renew a slice that goes on. -/
def State.edgeEvent (s : State) (cn : Nat) : Option Instr :=
  if s.slots.table.isNone then none
  else
    let c := s.core cn
    match c.phase with
    | .idle => none
    | .draining => none
    | .running =>
      if s.edgeDrains cn c then (if c.sliceEnd ≤ s.time + 2000 then some (.drainStart cn) else none)
      else if c.sliceEnd ≤ s.time then some (.sliceStart cn) else none
/-- What the rules ask of one warp before its quadrant issues again (R150, R172, R292, R335, R339): a scratchpad value that becomes visible; the
resume of a halted warp that has been asked for; a rotation; a deferred fault; a watchpoint report. -/
def State.dueOf (s : State) (cn qn wn : Nat) (q : Quadrant) (w : Warp) : List Instr :=
  (match w.shown (s.core cn).cycle with
   | some o => [.longLatencyComplete cn qn wn o.seq]
   | none => []) ++
    if w.trap.halted then (if w.trap.resuming then [.trapResume cn qn wn] else [])
    else
      (if w.handler.isNone && w.div.giveUp.any fun k => (w.div.slot k).any fun p => p.idle then [.rotationGiveUp cn qn wn] else []) ++
        (if w.div.progress == 65536 && w.div.giveUp.isNone then [.rotation cn qn wn] else []) ++
        (if w.trap.deferred != [] && q.mayDefer wn w then [.deferredFaultRaise cn qn wn] else []) ++
        if q.mayWatch wn w then [.watchpointReport cn qn wn] else []
/-- What the rules ask of a core before a quadrant of it issues again, in order (R171, R307, R312, R367): what an edge makes it do; the acceptance of
an access that waits for it in this CYCLE; a tick of the sampler, once nothing more can issue in its CYCLE; what they ask of its warps. -/
def State.dueEvents (s : State) (cn : Nat) : List Instr :=
  (s.edgeEvent cn).toList ++ (if s.acceptDue cn then [.scratchpadAccept cn] else []) ++
    (if s.cycleOver cn && (s.core cn).tickBy (s.core cn).cycle then [.samplerTick cn] else []) ++
    (s.core cn).quads.flatMap fun y => y.2.warps.flatMap fun x => s.dueOf cn y.1 x.1 y.2 x.2

end Sys2Proof.Machine
end

