-- ==== Sys2Proof/Machine/Threads.lean ====
section
/-! DEFINITION. Threads, crews, barriers, bins and warps: the instructions and events of R116-R140, R249 and R351. -/
namespace Sys2Proof.Machine

/-! ### Barrier words (R131, R139, R140) -/

/-- The lanes of EM that are in no crew, and those that are in one. -/
def View.crewless (V : View) : Word := maskOf fun l => V.em.getLsbD l && (V.w.member l).isNone
def View.crewed (V : View) : Word := maskOf fun l => V.em.getLsbD l && (V.w.member l).isSome
/-- The arrivals of the lanes of EM, ascending: the core after them, and each lane's crew and the phase in which it counts. -/
def View.arrivals (V : View) (c : Core) : Core × List (Nat × Nat × Word) :=
  (lanesOf V.em).foldl (fun (p : Core × List (Nat × Nat × Word)) l =>
    match V.w.member l with
    | none => p
    | some (k, seat) =>
      let r := p.1.arrive k seat (V.w.uid, BitVec.ofNat 32 (2 ^ l), V.w.seq)
      (r.1, p.2 ++ [(l, k, r.2)])) (c, [])
/-- The state after the lanes of EM have arrived, phases completing as they may. -/
def View.arriveIn (V : View) (s : State) : State :=
  let r := V.arrivals (s.core V.cn)
  s.setCore V.cn ((r.2.map fun x => x.2.1).eraseDups.foldl Core.phaseCheck r.1)
/-- The phase in which each lane counts, and the phases of some arrivals. -/
def marksOf (xs : List (Nat × Nat × Word)) : List (Nat × Word) := xs.map fun x => (x.1, x.2.2)
def phasesOf (xs : List (Nat × Nat × Word)) : List (Nat × Word) := (xs.map fun x => x.2).eraseDups
/-- A lane has arrived in the current phase of its crew. -/
def View.hasArrived (V : View) (l : Nat) : Bool := match V.w.member l with
  | some (k, seat) => match V.c.crews.find k with
    | some x => x.arrived.contains seat
    | none => false
  | none => false
/-- The phase of a lane's crew. -/
def View.phaseOf (V : View) (l : Nat) : Word := match (V.w.crewOf l).bind V.c.crews.find with
  | some k => k.phase
  | none => 0
/-- BAR: the lanes arrive, and the slot waits until each lane's phase completes; then the word is done. -/
def View.bar (V : View) (i : Info) : State :=
  match V.p.wait with
  | .barrier _ _ => V.retire i
  | _ =>
    if V.em = 0#32 then V.retire i
    else
      let xs := (V.arrivals V.c).2
      V.arriveIn (V.breakRun (.barrier (marksOf xs) (phasesOf xs)))
/-- The phases that BARA leaves in its destination. -/
def View.markLanes (V : View) (d : Nat) (ms : List (Nat × Word)) : View :=
  V.writeLane d fun l => match ms.find? fun x => x.1 == l with
    | some x => x.2
    | none => 0
/-- BARA: the lanes arrive; only a repeat arrival first waits, for the phase in which its lane has arrived. R119 and R143 name BAR, BARW and
JOIN as the words that break their run; a waiting BARA breaks it too (DESIGN CHOICE, notes/assumptions/59.md). -/
def View.bara (V : View) (i : Info) (d : Nat) : State :=
  match V.p.wait with
  | .barrier ms _ => (V.markLanes d ms).retire i
  | _ =>
    let xs := (V.arrivals V.c).2
    match xs.filter fun x => V.hasArrived x.1 with
    | [] => V.arriveIn ((V.markLanes d (marksOf xs)).retire i)
    | again => V.arriveIn (V.breakRun (.barrier (marksOf xs) (phasesOf (again.map fun x => (x.1, x.2.1, x.2.2 - 1)))))
/-- The lanes whose BARW value is invalid (R140). -/
def View.barwBad (V : View) (v : Nat → Word) : Word :=
  maskOf fun l => V.em.getLsbD l &&
    (decide (2 ^ 31 < (V.phaseOf l - v l).toNat) || (V.phaseOf l == v l && !V.hasArrived l))
/-- BARW: each lane waits until its crew's phase has passed its value. -/
def View.barw (V : View) (i : Info) (v : Nat → Word) : State :=
  match V.p.wait with
  | .barrier _ _ => V.retire i
  | _ =>
    if V.barwBad v ≠ 0#32 then V.fault 0x0C3 0#64 (V.barwBad v)
    else
      let phases := ((lanesOf V.em).filterMap fun l => (V.w.crewOf l).map fun k => (k, v l)).eraseDups
      if phases.all fun x => V.c.phaseDone x.1 x.2 then V.retire i else V.breakRun (.barrier [] phases)
/-- A word that acts on the crew of every lane: a lane in no crew stops it (R140). -/
def View.inCrew (V : View) (eff : View → State) : State :=
  if V.crewless ≠ 0#32 then V.fault 0x00C 0#64 V.crewless else eff V

/-! ### Deposits (R116, R136, R140) -/

/-- Deposit records once the word has retired, with what the word does then. A full spill region completes it for no lane, and so does a
failed write of a record, with every lane in FMASK (R350; DESIGN CHOICE, notes/assumptions/61.md); a record on a migrating page, or on a line
that cannot be written yet, makes the word wait. -/
def View.depositing (V : View) (ts : List ThreadRec) (retired : State) (after : State → State) : State :=
  match ({ retired with nextUid := V.s.nextUid + 32 } : State).depositAll V.cn ts with
  | none => V.fault 0x0C1 0#64 V.em
  | some s =>
    let new := (s.core V.cn).spilled.filter fun t => decide (V.s.nextUid ≤ t.stamp)
    match V.s.recordFault V.cn V.w.ctx .write new, V.s.recordsMoving V.cn V.w.ctx .write new, V.s.claim V.cn V.w.ctx (V.s.recordLines V.cn V.w.ctx new) with
    | some (c, va), _, _ => V.laneFault c va V.em
    | none, va :: vas, _ => { V with s := (va :: vas).foldl (fun s x => s.startPull V.w.ctx x) V.s }.hold 11
    | none, [], some s' => { V with s := s' }.hold 11
    | none, [], none => after (s.writeRecords V.cn V.w.ctx new)
/-- The lanes of EM below a lane. -/
def View.rank (V : View) (l : Nat) : Nat := (lanesOf V.em).countP fun j => decide (j < l)
/-- The TID that SPAWN gives a lane: the core's count of the launch's spawned threads goes on lane by lane. -/
def View.spawnCount (V : View) (l : Nat) : Nat := Sparse.get 0 V.c.spawned V.w.launch + V.rank l
def View.spawnTid (V : View) (l : Nat) : Word := BitVec.ofNat 32 (2 ^ 31 + V.cn * 2 ^ 19 + V.spawnCount l)
/-- SPAWN: the checks in their order, then the deposits. -/
def View.spawn (V : View) (i : Info) (d a : BitVec 7) (p : BitVec 4) : State :=
  let entry (l : Nat) : Dword := V.lane64 a.toNat l
  let bad := maskOf fun l => V.em.getLsbD l && (!canonical (entry l) || (entry l).extractLsb' 0 2 != 0#2)
  let above := maskOf fun l => V.em.getLsbD l && decide (2 ^ 19 ≤ V.spawnCount l)
  if bad ≠ 0#32 then V.fault 0x009 0#64 bad
  else if above ≠ 0#32 then V.fault 0x0C4 0#64 above
  else
    let n := Sparse.get 0 V.c.spawned V.w.launch + (lanesOf V.em).length
    let W := { V with c := { V.c with spawned := Sparse.set 0 V.c.spawned V.w.launch n } }
    V.depositing (V.records entry V.spawnTid (fun _ => none) d p) (W.retire i) id
/-- A word that has ended its threads has transferred them: its slot's windows end (R26, R28). -/
def View.left (V : View) : View := if V.em = 0#32 then V else V.endWindows
/-- HAMP: the calling threads are deposited under their keys, and their present lives end. -/
def View.hamp (V : View) (i : Info) (d a : BitVec 7) (p : BitVec 4) : State :=
  let tid (l : Nat) : Word := match V.w.tids.find? fun t => t.1 == l with
    | some t => t.2
    | none => 0
  let ts := V.records (fun _ => pcVa (V.p.pc + 8)) tid (fun l => some ((V.lane a.toNat l).setWidth 16)) d p
  V.depositing ts (V.advance i).left.put fun s => (s.endLanes V.cn V.qn V.wn V.kn V.em).afterExit V.cn V.qn V.wn V.kn

/-- SPAWN (R136): Deposits a new thread per active lane into a spawn bin with payload. -/
def execSpawn (d : BitVec 7) (a : BitVec 7) (p : BitVec 4) (s : State) : Host.Outcome State Fault Refusal :=
  issue ((Info.l (payload d p ++ [two a]) []).closing) (payloadOk d p) s fun V => V.spawn ((Info.l (payload d p ++ [two a]) []).closing) d a p
/-- HAMP (R136): Deposits the calling threads under a sort key and ends their current life. -/
def execHamp (d : BitVec 7) (a : BitVec 7) (p : BitVec 4) (s : State) : Host.Outcome State Fault Refusal :=
  issue ((Info.l (payload d p ++ [one a]) []).closing.transfer) (payloadOk d p) s fun V => V.hamp ((Info.l (payload d p ++ [one a]) []).closing.transfer) d a p
/-- EXIT (R137): Ends the threads of EM, leaving their crews. -/
def execExit (s : State) : Host.Outcome State Fault Refusal :=
  issue ((Info.l [] []).transfer) true s fun V => 
    ((V.advance ((Info.l [] []).transfer)).left.put.endLanes V.cn V.qn V.wn V.kn V.em).afterExit V.cn V.qn V.wn V.kn
/-- JOIN (R138): Enters or creates the crew of a key, giving each lane the lowest free seat. -/
def execJoin (d : BitVec 7) (a : BitVec 7) (s : State) : Host.Outcome State Fault Refusal :=
  issue (Info.lane2 d a) true s fun V => 
    if V.crewed ≠ 0#32 then V.fault 0x00C 0#64 V.crewed
    else (V.joinNow (Info.lane2 d a) d.toNat (V.lane a.toNat)).getD (V.breakRun .join)
/-- LEAVE (R138): Frees each member lane's seat and invalidates its remap entry. -/
def execLeave (s : State) : Host.Outcome State Fault Refusal :=
  issue (Info.l [] []) true s fun V => 
    (({ V with w := V.w.fullPoint } : View).retire (Info.l [] [])).leaveLanes V.cn V.qn V.wn V.em
/-- BAR (R139): Arrives at the crew barrier and waits for the phase to complete. -/
def execBar (s : State) : Host.Outcome State Fault Refusal :=
  issue (Info.l [] []) true s fun V => V.inCrew fun V => V.bar (Info.l [] [])
/-- BARA (R139): Arrives at the crew barrier without waiting, returning the phase. -/
def execBara (d : BitVec 7) (s : State) : Host.Outcome State Fault Refusal :=
  issue (Info.lane1 d) true s fun V => V.inCrew fun V => V.bara (Info.lane1 d) d.toNat
/-- BARW (R139): Waits until the crew barrier phase passes each lane's value. -/
def execBarw (a : BitVec 7) (s : State) : Host.Outcome State Fault Refusal :=
  issue (Info.laneSrc a) true s fun V => V.inCrew fun V => V.barw (Info.laneSrc a) (V.lane a.toNat)
/-! ### Events -/

/-- JOIN_PROCEED (R129): a waiting creating JOIN proceeds once crew numbers and granules are free: its slot is ready, and the word issues when the
quadrant selects it (R119). The word is the slot's own. -/
def execJoinProceed (core quad warp slot : Nat) (s : State) : Host.Outcome State Fault Refusal :=
  match s.viewAt core quad warp slot with
  | none => .next s
  | some V =>
    match V.p.wait, V.r.words with
    | .join, x :: _ =>
      let a : BitVec 7 := x.extractLsb' 7 7
      if s.warpFree core V.c V.w = false || V.joinWaits (V.lane a.toNat) then .next s
      else .next { V with p := { V.p with wait := .none } }.put
    | _, _ => .next s
/-- CREW_RELEASE (R249): a crew left by its last member is released once no kick or TST/TLD names it. -/
def execCrewRelease (core crew : Nat) (s : State) : Host.Outcome State Fault Refusal :=
  let c := s.core core
  match c.crews.find crew with
  | none => .next s
  | some k => if k.members.isEmpty && !c.crewNamed crew then .next (s.setCore core (c.releaseCrew crew)) else .next s
/-- BIN_TIMER_EXPIRY (R127): a bin's timer expires and the bin becomes ready to launch whatever it holds; its core's CYCLE is then at
least the timer's end, and passes to it only while no quadrant has anything to issue. -/
def execBinTimerExpiry (core bin : Nat) (s : State) : Host.Outcome State Fault Refusal :=
  let c := s.core core
  match c.bins.find bin with
  | none => .next s
  | some b =>
    match b.threads.head?, s.launches.find b.launch with
    | some t, some L =>
      if !s.comes core (t.cycle + L.rcd.timer) then .next s
      else .next ((s.setCore core { c with bins := c.bins.put bin { b with expired := true } }).passTo core (t.cycle + L.rcd.timer))
    | _, _ => .next s
/-- A bin that has launched its threads refills from the spill region (R121): where the records can be read. Else it waits for their pages, or for
their lines; a failed read is a fault against the warp that has been launched, if it is that that refills the bin (R350). -/
def State.refillBin (s : State) (cn n : Nat) (b : Bin) (launched : Option Nat) : State :=
  let c := s.core cn
  let ts := c.refilling b
  let ctx := ((ts.head?.bind fun t => s.launches.find t.launch).map (·.ctx)).getD 0
  let later (s : State) : State := s.setCore cn { s.core cn with bins := (s.core cn).bins.put n b }
  match s.recordFault cn ctx .read ts, s.recordsMoving cn ctx .read ts with
  | some (cause, va), _ => match launched with
    | some uid => (later s).blame cn uid b.launch cause va
    | none => later s
  | none, va :: vas => later ((va :: vas).foldl (fun s x => s.startPull ctx x) s)
  | none, [] => match s.claimRead cn ctx (s.recordLines cn ctx ts) with
    | some s' => later s'
    | none => s.setCore cn (c.refill n b)
/-- BIN_LAUNCH (R123): a ready bin launches a warp of its threads once placement allows, the bin with the oldest thread first, and
refills from the spill region. A bin that has nothing to launch and whose refill is still to come refills. -/
def execBinLaunch (core bin : Nat) (s : State) : Host.Outcome State Fault Refusal :=
  let c := s.core core
  match c.bins.find bin with
  | none => .next s
  | some b =>
    if b.threads.isEmpty then .next (s.refillBin core bin b none)
    else
    let ctx := match s.launches.find b.launch with
      | some L => L.ctx
      | none => 0
    let older := c.bins.any fun x => x.1 != bin && x.2.ready && decide (x.2.age < b.age)
    if !b.ready || older || !c.released b.threads || !s.holdsCore core ctx then .next s
    else match s.createWarp core b.launch (b.entry.extractLsb' 0 48) (b.threads.map fun t => (t.tid, t.payload)) with
    | none => .next s
    | some t => .next (t.refillBin core bin { b with threads := [], expired := false } (some s.nextUid))
/-- The next warp that a launch creates on a core (R351). -/
def Launch.nextWarp (L : Launch) (core : Nat) : Option Nat :=
  (List.range ((L.rcd.threads + 31) / 32)).find? fun w =>
    L.rcd.c0 + w % max 1 L.rcd.m == core && !L.created.contains w
/-- LAUNCH_WARP_CREATE (R351): a launch warp is created on its core as placement allows; the first one's TIME is the start time-stamp (R353). -/
def execLaunchWarpCreate (launch core : Nat) (s : State) : Host.Outcome State Fault Refusal :=
  match s.launches.find launch with
  | none => .next s
  | some L =>
    match L.nextWarp core with
    | none => .next s
    | some w =>
      if !L.started || L.complete || L.ended || !s.holdsCore core L.ctx then .next s
      else
        let ts := (List.range (min 32 (L.rcd.threads - 32 * w))).map fun l => (BitVec.ofNat 32 (32 * w + l), L.rcd.payload)
        match s.createWarp core launch ((L.codeStart + BitVec.ofNat 64 L.entryOff).extractLsb' 0 48) ts with
        | none => .next s
        | some s => .next { s with launches := s.launches.put launch { L with created := L.created ++ [w], startTime := if L.created = [] then s.time else L.startTime } }
/-- A warp of a core can end (R118): it has no threads, its operations are complete and its stores performed. -/
def Warp.canEnd (w : Warp) (c : Core) : Bool :=
  let mine (o : MatOp) := o.uid == w.uid
  !(w.div.s0.isSome || w.div.s1.isSome || w.div.n != 0 || !w.pend.isEmpty || !w.sb.isEmpty || w.trap.halted || c.array.any mine ||
    c.quads.any (fun q => q.2.mq.any fun o => mine o && !o.blocked))
/-- WARP_END (R118): a warp with no threads ends once its operations complete and stores perform; its rows are zero for the next
warp. Deferred faults that find no thread count (R354), and an operation that only its warp could issue again is dropped. -/
def execWarpEnd (core quad warp : Nat) (s : State) : Host.Outcome State Fault Refusal :=
  match s.warp core quad warp with
  | none => .next s
  | some w =>
    let mine (o : MatOp) := o.uid == w.uid
    if w.canEnd (s.core core) = false then .next s
    else
      let s := w.trap.deferred.foldl (fun s _ => s.countFault w.launch) s
      let q := (s.core core).quad quad
      let q := { (q.zeroRows w.base w.allot w.ubase).deselectWarp warp with
        mq := q.mq.filter fun o => !mine o, warps := q.warps.drop warp, temps := q.temps.filter fun t => t.2.1 ≠ warp }
      .next (s.setQuad core quad q)


end Sys2Proof.Machine
end

