-- ==== Sys2Proof/Machine/Tenancy.lean ====
section
/-! DEFINITION. Time and tenancy (R301-R323): the slot table, slices and budgets, the slot-edge drain and the restore, and the words YIELD,
DONATE, BUDGET and NAP. -/
namespace Sys2Proof.Machine

/-! ### Withheld items (R316, R402) -/

/-- A context holds a slice: its tenant runs on some core (R402). -/
def State.holdsSlice (s : State) (ctx : Nat) : Bool := s.cores.any fun c => c.2.tenant == some (ctx / 64) && c.2.phase == .running
/-- The context of an item towards the host. -/
def Due.ctx : Due → Nat
  | .record c _ _ => c
  | .signal c _ _ => c
  | .interrupt c _ => c
/-- Firmware writes bytes of a context's memory through field 0; a migrating page there is waited for (R243). -/
def State.postVa (s : State) (ctx va : Nat) (bs : List Byte) : Wrote :=
  match (List.range bs.length).find? fun i => canonicalRange va bs.length && s.translate 0 false ctx .write (va + i) == .migrating with
  | some i => .waits (s.startPull ctx (va + i))
  | none => s.writeVa 0 false ctx va bs
/-- Release an item: a write, or an interrupt of the context's virtual function. -/
def State.release (s : State) : Due → Wrote
  | .record c va data => s.postVa c va.toNat data
  | .signal c va x => s.postVa c va.toNat (toLe x.toNat 8)
  | .interrupt c v => .done { s with out := s.out ++ [.msix c v] }
/-- Release the withheld items of the contexts that `which` names, in the order in which they arose; where one must wait for its lines, the
later ones of its context wait behind it. One whose place refuses the write is dropped (DESIGN CHOICE, notes/assumptions/33.md). -/
def State.flushDue (s : State) (which : Nat → Bool) : State :=
  let r := s.due.foldl (fun (p : State × List Due) d =>
    if !which d.ctx || p.2.any (fun x => x.ctx == d.ctx) then (p.1, p.2 ++ [d])
    else match p.1.release d with
      | .done s => (s, p.2)
      | .waits s => (s, p.2 ++ [d])
      | .fault _ => p) (s, [])
  { r.1 with due := r.2 }
/-- An item arises: it is released at once while its context holds a slice, else withheld. -/
def State.arise (s : State) (d : Due) : State :=
  let s := { s with due := s.due ++ [d] }
  if s.holdsSlice d.ctx then s.flushDue fun c => c == d.ctx else s
/-- The withheld items of a tenant's contexts are released. -/
def State.releaseDue (s : State) (tenant : Nat) : State := s.flushDue fun c => c / 64 == tenant

/-! ### The slot table (R304-R306, R388) -/

/-- A byte and a number of an image given by its bytes that are not zero; whether a part of it is zero. -/
def imageByte (image : List (Nat × Byte)) (o : Nat) : Byte := match image.find? fun x => x.1 == o with
  | some x => x.2
  | none => 0#8
def imageNat (image : List (Nat × Byte)) (o n : Nat) : Nat := leNat ((List.range n).map fun i => imageByte image (o + i))
def imageZero (image : List (Nat × Byte)) (o n : Nat) : Bool :=
  image.all fun x => decide (x.1 < o) || decide (o + n ≤ x.1) || x.2 == 0#8
/-- The partition record at an offset (R305). -/
def partitionOf (image : List (Nat × Byte)) (o : Nat) : Partition :=
  { tenant := imageNat image o 1 % 64
    clusters := (List.range 336).filter fun g => (imageByte image (o + 4 + g / 8)).getLsbD (g % 8)
    ways := (List.range 42).map fun f => (f, BitVec.ofNat 24 (imageNat image (o + 48 + 4 * f) 3))
    hbm := (List.range 42).map fun f => (f, imageNat image (o + 216 + f) 1)
    links := (List.range 71).map fun x => (x, imageNat image (o + 258 + x) 1) }
/-- The reserved fields of a partition record are zero. -/
def partitionClean (image : List (Nat × Byte)) (o : Nat) : Bool :=
  decide (imageNat image o 1 < 64) && imageZero image (o + 1) 3 && imageZero image (o + 46) 2 &&
    (List.range 42).all (fun f => imageByte image (o + 51 + 4 * f) == 0#8) && imageZero image (o + 329) 55
/-- Where the i-th entry stands, and its partition records (R304); a count beyond 16 is read as 17, which no table may have. -/
def entryPlace (i : Nat) : Nat := 64 + 8192 * i
def partitionPlaces (image : List (Nat × Byte)) (i : Nat) : List Nat :=
  (List.range (min 17 (imageNat image (entryPlace i + 4) 1))).map fun p => entryPlace i + 64 + 384 * p
/-- The slot table whose image firmware holds (R304). -/
def slotTableOf (image : List (Nat × Byte)) : SlotTable :=
  let places := List.range (min 65 (imageNat image 0 4))
  { epoch := imageNat image 8 8
    entries := places.map fun i => { duration := imageNat image (entryPlace i) 4, partitions := (partitionPlaces image i).map (partitionOf image) }
    reservedZero := imageZero image 4 4 && imageZero image 16 48 && places.all fun i =>
      imageZero image (entryPlace i + 5) 59 && (partitionPlaces image i).all (partitionClean image) }

def sumOf (xs : List (Nat × Nat)) (k : Nat) : Nat := ((xs.filter fun x => x.1 == k).map (·.2)).sum
/-- The checks of one entry (R304-R306). -/
def slotEntryOk (e : SlotEntry) : Bool :=
  let ps := e.partitions
  let clusters := ps.flatMap (·.clusters)
  let masks (f : Nat) := ps.map fun p => match p.ways.find? fun w => w.1 == f with
    | some w => w.2
    | none => 0#24
  decide (5 ≤ e.duration) && decide (e.duration ≤ 1000000) && decide (ps.length ≤ 16) &&
    ps.all (fun p => decide (p.tenant < 64)) && clusters.all (fun g => decide (g < 336)) && decide clusters.Nodup &&
    (List.range 42).all fun f =>
      (((masks f).foldl (fun (x : BitVec 24 × Bool) m => (x.1 ||| m, x.2 && (x.1 &&& m) == 0#24)) (0#24, true)).2) &&
      ps.all (fun p => !p.clusters.any (fun g => g / 8 == f) || (match p.ways.find? fun w => w.1 == f with
        | some w => w.2 != 0#24
        | none => false)) &&
      decide (sumOf (ps.flatMap (·.hbm)) f ≤ 64)
/-- The shares of each mesh link sum to at most 64 (R306). -/
def linksOk (e : SlotEntry) : Bool := (List.range 71).all fun x => decide (sumOf (e.partitions.flatMap (·.links)) x ≤ 64)
/-- Units of 10 us in which a cluster is idle in the first `x` of a table that repeats (R388). -/
def idleUpTo (t : SlotTable) (g x : Nat) : Nat :=
  let idle (e : SlotEntry) : Bool := !e.partitions.any fun p => p.clusters.contains g
  let whole := t.entries.foldl (fun n e => n + e.duration) 0
  let per := t.entries.foldl (fun n e => n + if idle e then e.duration else 0) 0
  let rest := t.entries.foldl (fun (p : Nat × Nat) e => (p.1 - e.duration, p.2 + if idle e then min p.1 e.duration else 0)) (x % max 1 whole, 0)
  x / max 1 whole * per + rest.2
/-- Every cluster is idle for at least 200 us in every 2 s of the repeating cycle (R388): it is enough to look at the intervals that begin or
end where an entry does. -/
def scanOk (t : SlotTable) : Bool :=
  let whole := t.entries.foldl (fun n e => n + e.duration) 0
  let ends := (t.entries.foldl (fun (p : List Nat × Nat) e => (p.1 ++ [p.2 + e.duration], p.2 + e.duration)) ([0], 0)).1
  let starts := ends ++ ends.map fun x => (x + whole * 200000 - 200000) % max 1 whole
  (List.range 336).all fun g => starts.all fun a => decide (20 ≤ idleUpTo t g (a + 200000) - idleUpTo t g a)
/-- Firmware's checks of a table, in the self-test mode that it chooses with it (R304, R306, R388). -/
def tableOk (checksum : Bool) (t : SlotTable) : Bool :=
  t.reservedZero && decide (1 ≤ t.entries.length) && decide (t.entries.length ≤ 64) && t.epoch % 10000 == 0 &&
    t.entries.all (fun e => slotEntryOk e && linksOk e) && (checksum || scanOk t)
/-- Where a table that has passed its checks takes effect: the first at its epoch; a later one, with its entry 0 beginning there, at the first
edge at which the old table's last entry ends. -/
def State.placeTable (s : State) (table : SlotTable) : Slots :=
  match s.tableAt s.time with
  | none => { table := some table, next := none, switch := 0 }
  | some old =>
    let n := if s.time < old.epoch then 1 else (s.time - old.epoch) / slotCycle old + 1
    let e := old.epoch + n * slotCycle old
    { table := some old, next := some { table with epoch := e }, switch := e }
/-- The multicast groups that firmware allots with a table, as group and tenant (R256). -/
def allotGroups (groups : List (Nat × Nat)) : Table Nat :=
  (groups.filter fun g => decide (g.1 < 4096) && decide (g.2 < 64)).foldl (fun (m : Table Nat) g => m.put g.1 g.2) []
/-- The device has started and runs its full path (R394). -/
def State.runs (s : State) : Bool := !s.boot.minimal && !s.boot.starting
/-- SLOT_TABLE_INSTALL (R306): a table that passes the checks takes its place, with the groups that firmware allots (R256) and the self-test
mode (R388); one that fails a check is not installed, nor is any in minimal mode (R394). -/
def execSlotTableInstall (table : TableInstall) (s : State) : Host.Outcome State Fault Refusal :=
  let x := slotTableOf table.image
  if !s.runs || !tableOk table.checksum x then .next s
  else .next { s with slots := s.placeTable x, groups := allotGroups table.groups, health := { s.health with checksumMode := table.checksum } }

/-! ### TIME and edges -/

/-- The TIME of the next thing that an edge asks of a running core. -/
def State.edgeTime (s : State) (cn : Nat) (c : Core) : Nat := if s.edgeDrains cn c then c.sliceEnd - 2000 else c.sliceEnd
/-- TIME comes to `t`, unless a core has something to do before. -/
def State.reach (s : State) (t : Nat) : Option State :=
  if t ≤ s.time then some s
  else if s.cores.any fun c => c.2.phase == .running && decide (s.edgeTime c.1 c.2 < t) then none
  else some { s with time := t }

/-! ### Budgets of a slice (R303, R318) -/

/-- The remaining amounts of a tenant's nodes are the grants, less debts. -/
def State.renew (s : State) (tenant : Nat) (m : Sparse Int) (key : Nat → Nat) (of : Budget → Nat) : Sparse Int :=
  (nodesOf tenant).foldl (fun m n =>
    let g := of (s.grant n)
    if limited g then Sparse.set 0 m (key n) ((g : Int) + min 0 (Sparse.get 0 m (key n))) else m) m
/-- The budgets of a core as a slice starts on it. -/
def State.renewCore (s : State) (tenant : Nat) (c : Core) : Core :=
  let c := (List.range 4).foldl (fun (c : Core) n =>
    c.setQuad n { c.quad n with left := s.renew tenant (c.quad n).left id Budget.issue }) c
  { c with left := s.renew tenant (s.renew tenant c.left id Budget.array) ladleKey Budget.ladle
           pool := (0, 0, 0), donated := [] }
/-- The contexts of a tenant that owe an overrun start late; what does not fit into the slice is left for the next (R313). -/
def Core.payDebts (c : Core) (tenant start stop : Nat) : Core :=
  let mine (d : Nat × Nat) : Bool := d.1 / 64 == tenant
  { c with late := (c.debt.filter mine).map fun d => (d.1, start + min d.2 (stop - start))
           debt := (c.debt.filter fun d => !mine d) ++
             (c.debt.filter fun d => mine d && decide (stop - start < d.2)).map fun d => (d.1, d.2 - (stop - start)) }

/-! ### Arrivals withdrawn (R133) -/

/-- Accesses owed by an arrival of a lane of a warp, all but the first `n`. -/
def unowe (owed : List (Nat × Word × Nat)) (uid l n : Nat) : List (Nat × Word × Nat) :=
  let mine (x : Nat × Word × Nat) : Bool := x.1 == uid && x.2.1 == BitVec.ofNat 32 (2 ^ l)
  owed.filter (fun x => !mine x) ++ (owed.filter mine).take n
/-- The arrivals that a warp has made since its flash point are withdrawn. -/
def Core.withdrawSince (c : Core) (w : Warp) (snap : Snapshot) : Core :=
  w.remap.foldl (fun (c : Core) e =>
    match c.crews.find e.2.1 with
    | none => c
    | some k =>
      let n := snap.arrivals.countP fun x => x == (e.2.1, e.2.2)
      let k := { k with arrived := if n = 0 then k.arrived.filter (· ≠ e.2.2) else k.arrived
                        again := if n < 2 then k.again.filter (· ≠ e.2.2) else k.again
                        owed := unowe k.owed w.uid e.1 n }
      { c with crews := c.crews.put e.2.1 k }) c
/-- The arrivals of a waiting barrier word whose phases have not completed are withdrawn: the core, and those lanes. -/
def Core.withdrawMarks (c : Core) (w : Warp) (marks : List (Nat × Word)) : Core × Word :=
  marks.foldl (fun (p : Core × Word) m =>
    match w.member m.1 with
    | none => p
    | some (n, seat) =>
      match p.1.crews.find n with
      | none => p
      | some k =>
        let now := k.phase == m.2
        if now || k.phase + 1 == m.2 then
          let k := { k with arrived := if now then k.arrived.filter (· ≠ seat) else k.arrived
                            again := if now then k.again else k.again.filter (· ≠ seat)
                            owed := unowe k.owed w.uid m.1 (if now then 0 else 1) }
          ({ p.1 with crews := p.1.crews.put n k }, p.2 ||| BitVec.ofNat 32 (2 ^ m.1))
        else p) (c, 0#32)

/-! ### Rewinding and stopping a warp (R311, R312, R337) -/

/-- A drain that finds the in-lane handler running abandons it: s48-s55 are restored and the FMASK lanes replay on resume. -/
def State.abandonHandler (s : State) (cn qn wn : Nat) : State :=
  match s.warp cn qn wn with
  | none => s
  | some w =>
    match w.handler with
    | none => s
    | some h =>
      let q := (s.core cn).quad qn
      let rf := (List.range 8).foldl (fun rf i => Sparse.set 0#32 rf (w.ubase * 32 + 48 + i) (h.saved.getD i 0#32)) q.rf
      let at_ (p : Path) : Path := { p with pc := h.entryEpc.extractLsb' 0 48, run := none, wait := .none, ends := .plain, rest := 0
                                            replay := some w.trap.replay, fetched := false, site := none }
      let w := { w with handler := none, div := w.div.setSlot h.slot ((w.div.slot h.slot).map at_) }
      s.setQuad cn qn { ((q.freeTemps wn h.slot).deselect wn h.slot).setWarp wn w with rf := rf }
/-- The rows of a warp rewound to a flash point: its keep-set and vx, everything else zero. -/
def Quadrant.rewindRows (q : Quadrant) (w : Warp) (x : Snapshot) : Quadrant :=
  let q := q.zeroRows w.base w.allot w.ubase
  let put (rf : Sparse Word) (i : Nat) (v : Word) := Sparse.set 0#32 rf i v
  let rf := x.keepV.foldl (fun rf r => ((List.range 32).zip r.2).foldl (fun rf p => put rf ((w.base + r.1) * 32 + p.1) p.2) rf) q.rf
  let rf := x.keepS.foldl (fun rf r => put rf (w.ubase * 32 + r.1) r.2) rf
  let rf := ((List.range 32).zip x.vx).foldl (fun rf p =>
    put rf (vxIdx w.ubase (p.1 / 4)) (setByte (Sparse.get 0#32 rf (vxIdx w.ubase (p.1 / 4))) (p.1 % 4) p.2)) rf
  { q with rf := rf }
/-- A warp rewound to its flash point (R311): slot 0 with the snapshot's mask, depth and b, at the recipe or after the trailer. Matches of
comparators since that point are those of words that execute anew. -/
def Warp.rewound (w : Warp) (x : Snapshot) : Warp :=
  let rested (p : Option Path) : Word := match p with
    | some p => p.dbgRest
    | none => 0
  let kept (i : Nat) : Bool := x.keepV.any (fun r => r.1 == i) || x.keepS.any fun r => 128 + r.1 == i
  let here (p : Option Path) : Bool := p.any fun p => p.idle && p.pc == x.pc
  let still : Bool := here w.div.s0 || here w.div.s1
  { w with fmode := x.fmode, pend := [], shadow := [], sb := w.sb.filter fun b => !b.held
           hits := if still then w.hits else [], stackRest := 0
           tstRanges := w.tstRanges.filter fun t => t.point ≠ some w.point
           trap := { w.trap with deferred := w.trap.deferred.filter fun d => d.late.all fun n => w.sb.any fun b => b.lost && b.seq == n
                                 watch := if still then w.trap.watch.filter (·.due) else [] }
           fences := [], await := [], undef := x.undef.filter fun u => kept u.1
           handler := none, nap := none, yieldDue := false, yielded := none
           div := { s0 := some { freshPath (x.recipe.getD x.pc) x.mask x.depth false with
                                   dbgRest := (rested w.div.s0 ||| rested w.div.s1 ||| w.stackRest) &&& x.mask }
                    s1 := none, n := 0, b := x.b, top := none, progress := x.progress, giveUp := none } }
/-- What a rewind undoes in the core: arrivals, provisional reservations and releases since the flash point (R133, R268), and what tickets that
are lost with it would have made defined: the words that gave them are issued anew, with new tickets (R294, R311). -/
def Core.undo (c : Core) (w : Warp) (x : Snapshot) : Core :=
  let c := (c.withdrawSince w x).tidy
  let here := some (w.uid, w.point)
  let c := (c.res.filterMap fun r => if r.2.provisional = here then some r.1 else none).foldl Core.freeHandle c
  { c with hazes := c.hazes.filter fun h => h.point ≠ here
           res := c.res.map fun (r : Nat × Reservation) => match r.2.releasing with
      | some y => if y.point = here then (r.1, { r.2 with releasing := none }) else r
      | none => r }
/-- A path that a drain has stopped: its run is given up, its word is issued again, and what it had begun is withdrawn. A LREL, TEXP or TCHK
keeps its wait; a BRC that waits is issued again. -/
def Core.stopPath (c : Core) (w : Warp) (p : Path) : Core × Path :=
  let q : Path := match p.run with
    | none => p
    | some r =>
      if r.words.length ≤ 1 then
        let site := match r.words with
          | x :: _ => if x.getLsbD 19 || x.getLsbD 20 then some (r.trailerAt, x.getLsbD 20, x.getLsbD 19) else none
          | [] => none
        { p with site := site
                 pc := if p.ends = .moved then p.pc else r.trailerAt + 4, run := none, ends := .plain, parked := p.parked || p.ends == .park
                 wait := match p.ends with
                   | .brc a t m => .brc a t m
                   | _ => .none }
      else { p with run := none, ends := .plain, site := none, replay := p.replay.or (if r.words.length < r.total then some 0xFFFFFFFF#32 else none) }
  let q := { q with fetched := false }
  match q.wait with
  | .barrier ms _ =>
    let r := c.withdrawMarks w ms
    if r.2 = 0#32 ∧ ms ≠ [] then (r.1, q)
    else (r.1, { q with wait := .none, replay := if ms = [] ∨ r.2 = q.em then q.replay else some r.2 })
  | .lrel h => (c, { q with wait := .lrel h })
  | .tchk n => (c, { q with wait := .tchk n })
  | .tchked b => (c, { q with wait := .tchked b })
  | .brc a _ _ => (c, { q with pc := a, wait := .none })
  | _ => (c, { q with wait := .none })
/-- An ARWAIT that a drain or a swap-out abandons: no lane keeps the value with which it was released, and it is issued again (R185). -/
def LongOp.abandon (o : LongOp) : LongOp := if o.kind = .arwait then { o with posted := true, vals := [], at_ := 0 } else o
/-- A full-point warp as it is saved: its paths stopped, its nap and marks dropped, its ARWAITs abandoned (R185, R312). -/
def Core.stopWarp (c : Core) (qn wn : Nat) (w : Warp) : Core :=
  let stop (c : Core) (p : Option Path) : Core × Option Path := match p with
    | some p => let r := c.stopPath w p
      (r.1, some r.2)
    | none => (c, none)
  let a := stop c w.div.s0
  let b := stop a.1 w.div.s1
  let w := { w with div := { w.div with s0 := a.2, s1 := b.2 }, pend := w.pend.map LongOp.abandon, nap := none, yieldDue := false, yielded := none }
  b.1.setQuad qn ((b.1.quad qn).setWarp wn w)
/-- The word is BARA in its context's decode slot (R33, R36). -/
def View.isBara (V : View) (x : Word) : Bool :=
  let e := V.s.entryOf V.w.mgmt V.w.launch (opc11 x).toNat
  !x.getLsbD 31 && e.getLsbD 15 && e.extractLsb' 0 10 == 0x205#10
/-- A BARA that waits has v[d] of the lanes whose phase has completed already; it is issued again for the others alone (R133, R139). -/
def View.baraDone (V : View) : View :=
  match V.p.wait, V.r.words with
  | .barrier ms _, x :: _ :: _ =>
    if V.isBara x then
      let left := (V.c.withdrawMarks V.w ms).2
      ({ V with em := maskOf fun l => ms.any (fun m => m.1 == l) && !left.getLsbD l } : View).markLanes (x.extractLsb' 14 7).toNat ms
    else V
  | _, _ => V
def State.barasDone (s : State) (cn qn wn : Nat) : State :=
  [0, 1].foldl (fun s kn => match s.viewAt cn qn wn kn with
    | some V => V.baraDone.put
    | none => s) s

/-! ### The drain (R312) -/

/-- A quadrant's selected slot must stop issuing at once (R312, step 1): its warp will be rewound, or waits at a listed word. -/
def Quadrant.stopsNow (q : Quadrant) (which : Warp → Bool) : Bool :=
  match q.sel with
  | none => false
  | some (wn, kn) => match q.warps.find wn with
    | none => true
    | some w => which w && (w.rewind != .full || match w.div.slot kn with
      | some p => p.wait.outside
      | none => true)
/-- Every quadrant whose selected slot must stop does. -/
def Core.stopSelected (c : Core) (which : Warp → Bool) : Core :=
  { c with quads := c.quads.map fun (q : Nat × Quadrant) => (q.1, if q.2.stopsNow which then { q.2 with sel := none } else q.2) }
/-- DRAIN_START (R312): at 2,000 ns before an edge that passes the core to another tenant, its drain begins: warps that stop at once leave the
quadrants, and an in-lane handler is abandoned. -/
def execDrainStart (core : Nat) (s : State) : Host.Outcome State Fault Refusal :=
  let c := s.core core
  if c.phase ≠ .running ∨ s.edgeDrains core c = false then .next s
  else match s.reach (c.sliceEnd - 2000) with
  | none => .next s
  | some s =>
    let s := s.setCore core { c with phase := .draining }
    let s := c.quads.foldl (fun s q => q.2.warps.foldl (fun s w => s.abandonHandler core q.1 w.1) s) s
    .next (s.setCore core ((s.core core).stopSelected fun _ => true))

/-- A producer that a drain may discard or abandon: it changes nothing outside its warp (R312, step 2). -/
def LongKind.harmless : LongKind → Bool
  | .load _ _ => true
  | .scratchLoad _ => true
  | .arwait => true
  | .arpoll => true
  | .probe => true
  | .pref => true
  | _ => false
/-- A warp of a draining core has come to its stop, and what it leaves in flight is done (R312, steps 1 and 2); one that can end ends first, so that
its launch completes where it was the last (R118, R402). -/
def State.warpDrained (s : State) (cn : Nat) (c : Core) (q : Quadrant) (w : Warp) : Bool :=
  let atStop (k : Nat) : Bool := match w.div.slot k with
    | some p => p.run.isNone || !(s.warpFree cn c w && s.slotReady c q w k)
    | none => true
  !w.canEnd c && match w.rewind with
  | .flash _ => w.pend.all (fun o => o.kind.harmless || o.rests) && w.sb.all fun b => b.held || b.lost
  | .full => (w.trap.halted || (atStop 0 && atStop 1)) && w.pend.all LongOp.rests && w.sb.all fun b => b.lost
/-- The tiles of a mask. -/
def tilesOf (m : Byte) : List Nat := (List.range 8).filter m.getLsbD
/-- The tiles that a warp's point makes live (R294, R407): those of its flash point's site; for a full-point warp those of the sites where its
paths stand, and every tile where a path stands elsewhere. -/
def State.liveTiles (s : State) (w : Warp) : List Nat :=
  match w.rewind with
  | .flash x => tilesOf x.tiles
  | .full =>
    ([w.div.s0, w.div.s1].filterMap id).flatMap fun p => match p.site.bind fun x => s.siteAt w.launch x.1 x.2.1 x.2.2 with
      | some x => tilesOf x.tiles
      | none => List.range 8
/-- The tiles that saved operations name: the core's own, and on a follower those of its leader's MMAPs, live or saved. -/
def State.namedTiles (s : State) (cn tenant : Nat) : List Nat :=
  let own := (s.core cn).ops.map (·.tile)
  if cn % 2 = 0 then own
  else
    let l := s.core (cn - 1)
    own ++ ((l.ops ++ (l.saved.filter fun x => x.tenant == tenant).flatMap (·.ops)).filter fun o => o.kind == .mmap).map (·.tile)
/-- The rows of a warp that are not zero. -/
def Quadrant.rowsOf (q : Quadrant) (w : Warp) : List (Nat × List Word) :=
  ((List.range w.allot).map (w.base + ·) ++ [w.ubase, w.ubase + 1]).filterMap fun r =>
    let x := Sparse.getAll 0#32 q.rf (32 * r) 32
    if x.all (· == 0#32) then none else some (r, x)
/-- The context of a launch. -/
def State.ctxOf (s : State) (launch : Nat) : Nat := match s.launches.find launch with
  | some L => L.ctx
  | none => 0
/-- The bins' threads go to the thread spill region, in the order of their deposits; one that finds no record there stays with the bookkeeping
alone. First their lines and pages must be there: `none` with what has been asked for. -/
def State.spillBins (s : State) (cn : Nat) : State × Bool :=
  let c := s.core cn
  let ts := (c.bins.flatMap fun b => b.2.threads).mergeSort fun a b => decide (a.stamp ≤ b.stamp)
  let t := ts.foldl (fun (s : State) x => (s.spill cn x).getD (s.setCore cn { s.core cn with spilled := (s.core cn).spilled ++ [x] }))
    (s.setCore cn { c with bins := [] })
  let placed := ((t.core cn).spilled.drop c.spilled.length).filter fun x => x.place.isSome
  let ctxs := (placed.map fun x => s.ctxOf x.launch).eraseDups
  let of (k : Nat) := placed.filter fun x => s.ctxOf x.launch == k
  match ctxs.flatMap fun k => (t.recordsMoving cn k .write (of k)).map fun va => (k, va) with
  | x :: xs => ((x :: xs).foldl (fun s y => s.startPull y.1 y.2) s, false)
  | [] => match ctxs.findSome? fun k => s.claim cn k (t.recordLines cn k (of k)) with
    | some s' => (s', false)
    | none =>
      let t := ctxs.foldl (fun t k => t.writeRecords cn k (of k)) t
      let d := t.core cn
      (t.setCore cn { d with spilled := d.spilled.mergeSort fun a b => decide (a.stamp ≤ b.stamp) }, true)
/-- Records of a sampler on their way are written, in order, as far as their lines allow, those of CYCLEs that are over; the write count follows
each (R369). -/
def State.flushFrom (s : State) (cn : Nat) : Nat → State
  | 0 => s
  | n + 1 =>
    let c := s.core cn
    match c.sampler.queue with
    | [] => s
    | (key, ctx, bs) :: rest =>
      let pa := c.sampler.place
      if c.cycle ≤ key / 8 then s else
      match s.claim cn ctx [lineOf pa] with
      | some s' => s'
      | none =>
        let s := s.engineWrite (fieldOf cn) pa bs
        let c := s.core cn
        State.flushFrom (s.setCore cn { c with sampler := { c.sampler with wr := c.sampler.wr + 1, queue := rest } }) cn n
/-- The records on their way are written once CYCLE has passed them, as it does where nothing can issue, so that none of their cycle is still to come. Settings out of range write none
(R373). -/
def State.flushRecords (s : State) (cn : Nat) : State :=
  let c := s.core cn
  if !c.sampler.valid then s.setCore cn { c with sampler := { c.sampler with queue := [] } }
  else
    let s := if c.sampler.queue.any (fun r => decide (c.cycle ≤ r.1 / 8)) && s.mayPass cn (c.cycle + 1) then s.passTo cn (c.cycle + 1) else s
    s.flushFrom cn c.sampler.queue.length
/-- Every request at work suspends with its progress and status 0x03 (R254). -/
def Core.suspendAll (c : Core) : Core :=
  c.kicks.foldl (fun c k => k.runs.foldl (fun c r =>
    if r.suspended then c
    else match c.kicks.find? fun x => x.uid == k.uid with
      | some k => c.suspend k r
      | none => c) c) c
/-- The compute that has begun on a core may end now, and no tick of its sampler is due before (R367, R369). -/
def State.workComes (s : State) (cn : Nat) : Bool :=
  !(s.core cn).tickBy (s.core cn).cycle && s.doneComes cn && (cn % 2 == 0 || !((s.core cn).array.any fun o => o.kind == .mmap) || s.doneComes (cn - 1))
/-- Step 2 for what is not a warp: segments land, compute that has begun completes. -/
def State.settleWork (s : State) (cn : Nat) : State :=
  let s := s.landAll cn 4096
  let s := (s.arrayFinish cn).getD s
  if cn % 2 = 1 ∧ ((s.core cn).array.any fun o => o.kind == .mmap) then (s.arrayFinish (cn - 1)).getD s else s
/-- Rewind or stop every warp. -/
def State.stopWarps (s : State) (cn : Nat) : State :=
  (s.core cn).warps.foldl (fun s x =>
    let s := (s.abandonHandler cn x.1 x.2.1).barasDone cn x.1 x.2.1
    match s.warp cn x.1 x.2.1 with
    | none => s
    | some w => match w.rewind with
      | .flash snap =>
        let c := (s.core cn).undo w snap
        s.setCore cn (c.setQuad x.1 (((c.quad x.1).rewindRows w snap).setWarp x.2.1 (w.rewound snap)))
      | .full => s.setCore cn ((s.core cn).stopWarp x.1 x.2.1 w)) s
/-- What is saved of a core for its outgoing tenant (R312, step 3). -/
def State.saveOf (s : State) (cn tenant : Nat) : Saved :=
  let c := (s.core cn).tidy
  let live := s.namedTiles cn tenant ++ c.warps.flatMap fun x => s.liveTiles x.2.2
  { tenant := tenant
    warps := c.warps.map fun x => { quad := x.1, slot := x.2.1, warp := x.2.2, rows := (c.quad x.1).rowsOf x.2.2 }
    crews := c.crews, scratch := c.scratch, larder := c.larder, res := c.res, tiles := c.tiles.filter fun t => live.contains t.1
    ops := c.quads.flatMap fun q => q.2.mq, kicks := c.kicks, spilled := c.spilled
    hazes := c.hazes.filter fun h => h.shelf != .tile || live.contains h.first }
/-- The core as an edge leaves it (R312, step 4; R315). -/
def Core.cleared (c : Core) : Core :=
  { c with quads := c.quads.map fun (q : Nat × Quadrant) =>
             (q.1, { q.2 with rf := [], warps := [], sel := none, temps := [], mq := [], deficit := 0, presented := none })
           scratch := [], crews := [], bins := [], spilled := [], l1 := [], kicks := [], larder := [], res := [], tiles := [], hazes := [], array := none
           access := [], tenant := none, phase := .idle, late := [], donated := [], pool := (0, 0, 0) }
/-- The names and translations of a tenant's contexts leave a cluster (R315). -/
def State.forgetTenant (s : State) (g tenant : Nat) : State :=
  let s := s.dropNames g fun e => e.ctx / 64 == tenant
  let cl := s.cluster g
  s.setCluster g { cl with tlb := cl.tlb.filter fun e => e.ctx / 64 != tenant }
/-- What a core holds of contexts and their launches: warps, kicks, operations, crews, threads in bins and spilled, reservations. -/
def Core.works (c : Core) : List (Nat × Option Nat) × List Nat :=
  (c.warps.map (fun y => (y.2.2.ctx, some y.2.2.launch)) ++ c.kicks.map (fun k => (k.ctx, some k.launch)) ++ c.ops.map (fun o => (o.ctx, some o.launch)) ++
    c.crews.map (fun k => (k.2.ctx, some k.2.launch)) ++ c.res.map fun r => (r.2.ctx, none),
   (c.bins.flatMap fun b => b.2.threads.map (·.launch)) ++ c.spilled.map (·.launch))
/-- An overrun of a drain is counted against each context that had drain work on the core: for the launches whose work it is, or, where only
reservations are left of the context, for its launches that run there. Its next slice there begins late (R313). -/
def State.chargeOverrun (s : State) (cn x : Nat) : State :=
  let c := s.core cn
  let all := c.works.1 ++ c.works.2.map fun u => (s.ctxOf u, some u)
  let ctxs := (all.map (·.1)).eraseDups
  let runs (k : Nat) : List Nat := (s.launches.filter fun L => L.2.ctx == k && L.2.started && !L.2.complete && decide (L.2.rcd.c0 ≤ cn) &&
    decide (cn < L.2.rcd.c0 + L.2.rcd.m)).map (·.1)
  let ls := ctxs.flatMap fun k => match ((all.filter fun y => y.1 == k).filterMap (·.2)).eraseDups with
    | [] => runs k
    | us => us
  let s := ls.foldl State.countFault s
  let owe (d : List (Nat × Nat)) (k : Nat) : List (Nat × Nat) :=
    let old := match d.find? fun y => y.1 == k with
      | some y => y.2
      | none => 0
    d.filter (fun y => y.1 ≠ k) ++ [(k, old + x)]
  { s.setCore cn { c with debt := ctxs.foldl owe c.debt } with out := s.out ++ ctxs.map fun k => .drainOverrun k cn x }
/-- The end of a drain: what is at work has ended, the bins' threads have gone to the spill region, and the core is saved and cleared. -/
def State.drained (s : State) (core tenant : Nat) : State :=
  let x := s.time - (s.core core).sliceEnd
  let s := if x = 0 then s else s.chargeOverrun core x
  match s.spillBins core with
  | (_, false) => s
  | (s, true) =>
    let s := s.stopWarps core
    let s := s.setCore core (s.core core).suspendAll
    let saved := s.saveOf core tenant
    let d := s.core core
    ({ s with fresh := s.fresh + 1 }.setCore core { d.cleared with saved := d.saved ++ [saved] }).forgetTenant (core / 8) tenant
/-- DRAIN_COMPLETE (R312): once every warp has come to its stop, its work in flight is done and its records are written (R369), the tenant's state on the core is saved and
the core cleared; a drain complete after the edge is an overrun. -/
def execDrainComplete (core : Nat) (s : State) : Host.Outcome State Fault Refusal :=
  let c := s.core core
  match c.phase, c.tenant with
  | .draining, some tenant =>
    if (!c.quads.all fun q => q.2.warps.all fun w => s.warpDrained core c q.2 w.2) || !s.workComes core then .next s
    else
      let s := s.settleWork core
      let s := s.flushRecords core
      if !(s.core core).flying.isEmpty || !(s.core core).sampler.queue.isEmpty then .next s
      else match s.spillBins core with
        | (t, false) => .next t
        | (_, true) => .next (s.drained core tenant)
  | .draining, none => .next (s.setCore core { c with phase := .idle })
  | _, _ => .next s

/-! ### The slice (R307, R314) -/

/-- A saved warp in its former place. -/
def Core.restoreWarp (c : Core) (w : SavedWarp) : Core :=
  let q := c.quad w.quad
  let rf := w.rows.foldl (fun rf r => ((List.range 32).zip r.2).foldl (fun rf p => Sparse.set 0#32 rf (32 * r.1 + p.1) p.2) rf) q.rf
  c.setQuad w.quad { q.setWarp w.slot w.warp with rf := rf }
/-- Bins for the waiting keys, oldest first (R120, R126). -/
def Core.refillBins (c : Core) : Core :=
  (List.range 16).foldl (fun (c : Core) n =>
    match c.bins.find n, c.oldestKey with
    | none, some t => c.refill n { launch := t.launch, entry := t.entry, key := t.key, threads := [], expired := false }
    | _, _ => c) c
/-- What a drain saved, put back on the core (R314). -/
def Core.restore (c : Core) (x : Saved) : Core :=
  let c := x.warps.foldl Core.restoreWarp
    { c with crews := x.crews, scratch := x.scratch, larder := x.larder, res := x.res, tiles := x.tiles, kicks := x.kicks, spilled := x.spilled, hazes := x.hazes }
  (x.ops.foldl (fun (c : Core) o => c.setQuad o.quad { c.quad o.quad with mq := (c.quad o.quad).mq ++ [o] }) c).refillBins
/-- SLICE_START (R314): at an edge a core begins its slice under the entry that governs then. A core whose tenant stays only has its budgets
anew; an idle core takes its tenant's access table and saved state, and withheld items of the tenant are released. -/
def execSliceStart (core : Nat) (s : State) : Host.Outcome State Fault Refusal :=
  let c := s.core core
  let epoch := match s.tableAt s.time with
    | some t => t.epoch
    | none => 0
  if s.slots.table.isNone ∨ c.phase = .draining ∨ 2688 ≤ core ∨ (c.phase = .running ∧ s.edgeDrains core c) then .next s
  else match s.reach (if c.sliceEnd = 0 then epoch else c.sliceEnd) with
  | none => .next s
  | some s =>
    match s.entryAt s.time with
    | none => .next s
    | some (_, _, stop) =>
      let c := { c with sliceEnd := stop }
      match s.tenantAt core s.time with
      | none => .next (s.setCore core { c with tenant := none, phase := .idle })
      | some t =>
        let c := ((s.renewCore t c).payDebts t s.time stop)
        let c := if c.phase = .running then c
          else
            let c := { c with tenant := some t, phase := .running, access := ((s.tenant t).access.find core).getD [] }
            match c.saved.find? fun x => x.tenant == t with
            | some x => { c with saved := c.saved.filter fun y => y.tenant != t }.restore x
            | none => c
        .next ((s.setCore core c).releaseDue t)
/-- NAP_END (R322): CYCLE reaches the nap's end and the warp becomes ready; CYCLE passes to it only while no quadrant has anything to issue. -/
def execNapEnd (core quad warp : Nat) (s : State) : Host.Outcome State Fault Refusal :=
  match s.warp core quad warp with
  | none => .next s
  | some w =>
    match w.nap with
    | some (t, true) => if !s.comes core t then .next s
      else .next ((s.setWarp core quad warp { w with nap := none }).passTo core t)
    | _ => .next s

/-! ### The words (R318-R323) -/

/-- YIELD (R319): Gives up the quadrant at the next run boundary. -/
def execYield (s : State) : Host.Outcome State Fault Refusal :=
  issueReg (Info.u [] []) s fun V => { V with w := { V.w with yieldDue := true } }
/-- NAP (R322): Suspends the warp for s[a] cycles from its next run boundary; of two naps that have not begun the later end governs, and one
in force has ended when the warp issues. -/
def View.nap (V : View) (n : Nat) : View :=
  let t := V.c.cycle + n
  { V with w := { V.w with nap := match V.w.nap with
      | some (x, false) => some (max x t, false)
      | _ => some (t, false) } }
def execNap (a : BitVec 6) (s : State) : Host.Outcome State Fault Refusal :=
  issue (Info.uniSrc a) true s fun V =>
    let n := (V.uni a.toNat).toNat
    if 16777216 < n then V.issueFault 0x002
    else if n = 0 then V.retire (Info.uniSrc a)
    else (V.nap n).retire (Info.uniSrc a)
/-- A node's fraction of a grant in `n`ths, at most `n - 1`; an unlimited one reads as the maximum. -/
def fraction (n grant : Nat) (left : Int) : Nat := if limited grant then (if grant = 0 then 0 else min (n - 1) (n * left.toNat / grant)) else n - 1
/-- What BUDGET reads. -/
def View.budget (V : View) : Word :=
  let least (n : Nat) (of : Budget → Nat) (left : Nat → Int) : Nat :=
    (budgetNodes V.w.ctx).foldl (fun m x => min m (fraction n (of (V.s.grant x)) (left x))) (n - 1)
  let us := min 65535 ((V.c.sliceEnd - V.s.time) / 1000)
  BitVec.ofNat 32 (us + least 64 Budget.issue (Sparse.get 0 V.q.left) * 2 ^ 16 + least 64 Budget.array (Sparse.get 0 V.c.left) * 2 ^ 22 +
    least 16 Budget.ladle (fun x => Sparse.get 0 V.c.left (ladleKey x)) * 2 ^ 28)
/-- BUDGET (R321): Reads what remains of the current slice. -/
def execBudget (d : BitVec 6) (s : State) : Host.Outcome State Fault Refusal :=
  issueReg (Info.uni1 d) s fun V => V.writeUni d.toNat V.budget
/-- Move what remains of a node to another node, or away when that is unlimited: `r` is what the donor's context node has left. -/
def moveLeft (s : State) (m : Sparse Int) (key : Nat → Nat) (of : Budget → Nat) (from_ dsts : List Nat) (r : Int) : Sparse Int :=
  let m := from_.foldl (fun m n => if limited (of (s.grant n)) then Sparse.set 0 m (key n) (Sparse.get 0 m (key n) - r) else m) m
  dsts.foldl (fun m n => if limited (of (s.grant n)) then Sparse.set 0 m (key n) (Sparse.get 0 m (key n) + r) else m) m
/-- What a context's own node has left of a limited budget, to give away. -/
def toGive (s : State) (m : Sparse Int) (key : Nat → Nat) (of : Budget → Nat) (ctx : Nat) : Int :=
  if limited (of (s.grant ctx)) then max 0 (Sparse.get 0 m (key ctx)) else 0
/-- Give the rest of a context's slice on a core away (R318): to a context, or to the tenant's pool. -/
def State.donate (s : State) (c : Core) (ctx : Nat) (dsts : Option Nat) : Core :=
  let mine := budgetNodes ctx
  let theirs := match dsts with
    | some x => budgetNodes x
    | none => [0x4000 + ctx / 64]
  let from_ := mine.filter fun n => !theirs.contains n
  let dest := if dsts.isSome then theirs.filter fun n => !mine.contains n else []
  let issues := (List.range 4).map fun n => toGive s (c.quad n).left id Budget.issue ctx
  let a := toGive s c.left id Budget.array ctx
  let l := toGive s c.left ladleKey Budget.ladle ctx
  let c := (List.range 4).foldl (fun (c : Core) n =>
    c.setQuad n { c.quad n with left := moveLeft s (c.quad n).left id Budget.issue from_ dest (issues.getD n 0) }) c
  let c := { c with left := moveLeft s (moveLeft s c.left id Budget.array from_ dest a) ladleKey Budget.ladle from_ dest l
                    donated := c.donated ++ [ctx] }
  if dsts.isSome then c else { c with pool := (c.pool.1 + issues.foldl (· + ·) 0, c.pool.2.1 + a, c.pool.2.2 + l) }
/-- A context has a launch in progress. -/
def State.liveCtx (s : State) (ctx : Nat) : Bool := s.launches.any fun L => L.2.ctx == ctx && L.2.started && !L.2.complete
/-- DONATE (R320): Gives the rest of the slice on this core to another context or the pool, and sets a full point. -/
def execDonate (a : BitVec 6) (s : State) : Host.Outcome State Fault Refusal :=
  issue (Info.uniSrc a) true s fun V =>
    let x := V.uni a.toNat
    let b := (x.extractLsb' 0 12).toNat
    let pool := x.getLsbD 31
    if x.extractLsb' 12 19 ≠ 0#19 ∨ (pool ∧ b ≠ 0) then V.issueFault 0x002
    else if !pool && (b / 64 != V.w.ctx / 64 || b == V.w.ctx || !V.s.liveCtx b) then V.fault 0x0C9 0#64 V.em
    else
      let V := V.advance (Info.uniSrc a)
      let V := { V with w := V.w.fullPoint, c := V.c.setQuad V.qn V.q }
      let c := V.s.donate V.c V.w.ctx (if pool then none else some b)
      ({ V with c := c, q := c.quad V.qn } : View).put

end Sys2Proof.Machine
end

