-- ==== Sys2Proof/Machine/Traps.lean ====
section
/-! DEFINITION. The trap words TRAP, BKPT, SVC and ERET (R340-R344), watchpoint reports (R339), and the end of a launch for a trap (R336). -/
namespace Sys2Proof.Machine

/-! ### The trap words -/

/-- A trap word has issued and its transfer is done: the slot stands at the run after the trailer, and the warp halts (R324, R333, R334); its
paths settle when it resumes (R332). -/
def View.trapWord (V : View) (i : Info) (cause : Nat) (eva : Dword) (service : Option Nat) : State :=
  let r : TrapReq := { cause := cause, epc := pcVa V.p.pc, eva := eva, fmask := V.em, replay := 0, again := false, isDeferred := false
                       escalated := false, service := service }
  let t := V.r.words.getD 1 0xFFE7FFE0#32
  ((V.advance i).closeRun (t.getLsbD 20) false (t.extractLsb' 12 7).toNat (t.extractLsb' 5 7).toNat).mgmtTrap
    V.cn V.qn V.wn V.kn r
/-- TRAP (R340): Takes a management-core trap with cause 0x1C0 + n. -/
def execTrap (n : BitVec 6) (s : State) : Host.Outcome State Fault Refusal :=
  issue ((Info.u [] []).transfer) true s fun V => V.trapWord ((Info.u [] []).transfer) (0x1C0 + n.toNat) 0 none
/-- BKPT (R341): Traps with cause 0x00F, for a debugger session or firmware. -/
def execBkpt (s : State) : Host.Outcome State Fault Refusal :=
  issue ((Info.u [] []).transfer) true s fun V => V.trapWord ((Info.u [] []).transfer) 0x00F 0 none
/-- An abort is the launch's End trap, unless it has one (R342, service 2). -/
def State.abort (s : State) (launch : Nat) (epc eva : Dword) : State :=
  match s.launches.find launch with
  | some L => if L.firstEnd = none then { s with launches := s.launches.put launch { L with firstEnd := some (0x010, epc, eva) } } else s
  | none => s
/-- SVC (R342): Requests firmware service n, which reads s1-s7; the result is in s0 when the slot resumes. An abort ends the launch, with EVA s1. -/
def execSvc (n : BitVec 15) (s : State) : Host.Outcome State Fault Refusal :=
  issue Info.service.transfer true s fun V =>
    let eva : Dword := if n.toNat = 2 then (V.uni 1).setWidth 64 else 0
    let s := V.trapWord Info.service.transfer 0x010 eva (some n.toNat)
    if n.toNat = 2 then s.abort V.w.launch (pcVa V.p.pc) eva else s
/-- ERET (R343): Leaves the in-lane handler, restoring state and re-issuing, escalating or redirecting; the path that it leads to a run boundary
may merge there (R146). -/
def execEret (s : State) : Host.Outcome State Fault Refusal :=
  issue ((Info.u [] []).transfer.privileged true) true s fun V =>
    ({ V.advance ((Info.u [] []).transfer.privileged true) with p := V.p, r := V.r } : View).eret.settle V.cn V.qn V.wn

/-! ### Watchpoint reports (R339) -/

/-- Two matches of one instruction, as one slot has executed it. -/
def WatchHit.same (x y : WatchHit) : Bool := x.epc == y.epc && x.slot == y.slot
/-- WATCHPOINT_REPORT (R339): at the run boundary after the last lane has completed, the matches of the first instruction that is due are reported
as one trap. -/
def execWatchpointReport (core quad warp : Nat) (s : State) : Host.Outcome State Fault Refusal :=
  match s.warp core quad warp with
  | none => .next s
  | some w =>
    match w.trap.watch.find? (·.due) with
    | none => .next s
    | some h =>
      if w.trap.halted || !((s.core core).quad quad).mayWatch warp w then .next s
      else
        let mine := w.trap.watch.filter h.same
        let i := mine.foldl (fun i x => min i x.comparator) h.comparator
        let m := maskOf fun l => mine.any fun x => x.lane == l
        let eva := match mine.find? fun x => mine.all fun y => decide (x.lane ≤ y.lane) with
          | some x => x.va
          | none => h.va
        let w := { w with trap := { w.trap with watch := w.trap.watch.filter fun x => !h.same x } }
        .next ((s.setWarp core quad warp w).mgmtTrap core quad warp h.slot
          { cause := 0x140 + i, epc := h.epc, eva := eva, fmask := m, replay := 0, again := false, isDeferred := false, escalated := false
            service := none })

/-! ### Ending a launch for a trap (R336) -/

/-- A warp that firmware stops: at its next run boundary, or at once where it naps, has yielded or waits; its held stores are released. -/
def Warp.stopFor (w : Warp) (launch : Nat) : Warp :=
  if w.launch = launch ∧ w.stopped = false then { w.fullPoint with stopped := true, nap := none, yieldDue := false, yielded := none } else w
/-- A kick of the launch keeps only the requests that have started; one with none leaves the queue. -/
def trimKicks (launch : Nat) (ks : List Kick) : List Kick :=
  (ks.filter fun k => k.launch != launch || !k.runs.isEmpty).map fun (k : Kick) =>
    if k.launch = launch then { k with count := k.finals.length + k.runs.length, next := k.finals.length + k.runs.length } else k
/-- A core with a launch's warps stopped, its waiting threads, its operations that have not begun compute and its requests that have not
started discarded; the bins that this frees go to the keys that wait (R126, R135). -/
def Core.stopLaunch (c : Core) (launch : Nat) : Core :=
  ({ c with quads := c.quads.map fun (q : Nat × Quadrant) =>
              (q.1, { q.2 with warps := q.2.warps.map fun (w : Nat × Warp) => (w.1, w.2.stopFor launch)
                               mq := q.2.mq.filter fun o => o.launch ≠ launch })
            bins := c.bins.filter fun b => b.2.launch ≠ launch, spilled := c.spilled.filter fun t => t.launch ≠ launch
            kicks := trimKicks launch c.kicks } : Core).refillBins.stopSelected fun w => w.launch == launch
/-- A saved crew whose members have changed completes its phase once every member has arrived in it (R131). -/
def Crew.completed (k : Crew) : Crew :=
  if k.members.isEmpty || k.arrived.length != k.members.length then k
  else { k with phase := k.phase + 1, arrived := k.again, again := [], due := k.due ++ k.owed, owed := [] }
/-- Saved state without a launch: its warps with their seats, operations, kicks and threads. A crew that has lost every member ends, and its
span is zeroed, unless a kick or an operation names it still (R128, R173, R249). -/
def Saved.without (x : Saved) (launch : Nat) (named : Nat → Bool) : Saved :=
  let gone (m : Member) : Bool := x.warps.any fun w => w.quad == m.quad && w.slot == m.warp && w.warp.launch == launch
  let leave (k : Crew) : Crew :=
    let left := k.members.filter fun m => !gone m
    ({ k with members := left, arrived := k.arrived.filter fun a => left.any fun m => m.seat == a
              again := k.again.filter fun a => left.any fun m => m.seat == a } : Crew).completed
  let crews : Table Crew := x.crews.map fun k => (k.1, leave k.2)
  let ends (k : Nat × Crew) : Bool := k.2.members.isEmpty && !named k.1
  { x with warps := x.warps.filter fun w => w.warp.launch ≠ launch, ops := x.ops.filter fun o => o.launch ≠ launch
           kicks := x.kicks.filter fun k => k.launch ≠ launch, spilled := x.spilled.filter fun t => t.launch ≠ launch
           crews := crews.filter fun k => !ends k
           scratch := (crews.filter ends).foldl (fun m k => Memory.zero m (1024 * k.2.base) (1024 * k.2.g)) x.scratch
           hazes := (crews.filter ends).foldl (fun hs k => unhazed hs .scratch (1024 * k.2.base) (1024 * k.2.g)) x.hazes }
/-- A crew that a saved kick or operation of another launch names. -/
def Saved.namesCrew (x : Saved) (launch crew : Nat) : Bool :=
  x.kicks.any (fun k => k.launch != launch && k.crew == crew) ||
    x.ops.any fun o => o.launch != launch && (o.kind == .tst || o.kind == .tld) && o.crew == crew
/-- A core without what it has saved of a launch; a swapped-out crew that has lost every member ends, or is left without members while a kick
names it (R249). -/
def Core.endSaved (c : Core) (launch : Nat) : Core :=
  let out := c.swapped.map fun (x : Nat × Saved) => (x.1, x.2.without launch c.crewNamed)
  { c with saved := c.saved.map fun (x : Saved) => x.without launch (x.namesCrew launch)
           swapped := out.filter fun x => !x.2.warps.isEmpty || !x.2.crews.isEmpty
           crews := c.crews.filterMap fun (k : Nat × Crew) => if !k.2.swapped then some k
             else (out.findSome? fun x => x.2.crews.find? fun y => y.1 == k.1 && y.2.key == k.2.key).map fun y =>
               (k.1, { k.2 with members := y.2.members, arrived := y.2.arrived, again := y.2.again }) }
/-- A warp leaves its core whole: its threads leave their crews and its places are free. -/
def State.removeWarp (s : State) (cn qn wn : Nat) (w : Warp) : State :=
  let s := s.leaveLanes cn qn wn 0xFFFFFFFF#32
  let q := (s.core cn).quad qn
  s.setQuad cn qn { (q.zeroRows w.base w.allot w.ubase).deselectWarp wn with
    warps := q.warps.drop wn, temps := q.temps.filter fun t => t.2.1 ≠ wn, mq := q.mq.filter fun o => o.uid ≠ w.uid }
/-- A stopped warp's stores are performed, and it has nothing else on its way. -/
def State.warpGone (s : State) (cn : Nat) (c : Core) (q : Quadrant) (w : Warp) : Bool :=
  let atStop (k : Nat) : Bool := match w.div.slot k with
    | some p => p.run.isNone || !(s.warpFree cn c w && s.slotReady c q w k)
    | none => true
  (w.trap.halted || (atStop 0 && atStop 1)) && w.sb.all (fun b => b.lost) && w.pend.all (fun o => o.kind.harmless || o.rests) && !c.array.any fun o => o.uid == w.uid
/-- The core as it stands in the slot table of warps: each of the launch's warps that is done leaves. -/
def State.reapLaunch (s : State) (cn launch : Nat) : State :=
  (s.core cn).warps.foldl (fun s x =>
    match s.warp cn x.1 x.2.1 with
    | none => s
    | some w => if w.launch = launch ∧ s.warpGone cn (s.core cn) ((s.core cn).quad x.1) w then s.removeWarp cn x.1 x.2.1 w else s) s
/-- LAUNCH_END_FOR_TRAP (R336): firmware ends a launch that has taken a trap with fate End: its warps stop, and leave once their stores are
performed; what it has waiting or saved is discarded. -/
def execLaunchEndForTrap (launch : Nat) (s : State) : Host.Outcome State Fault Refusal :=
  match s.launches.find launch with
  | none => .next s
  | some L =>
    if L.firstEnd.isNone || L.complete then .next s
    else
      let s := { s with
        launches := s.launches.put launch { L with ended := true }
        cores := s.cores.map fun (c : Nat × Core) =>
          (c.1, (c.2.stopLaunch launch).endSaved launch) }
      .next (s.cores.foldl (fun (s : State) (c : Nat × Core) => s.reapLaunch c.1 launch) s)

end Sys2Proof.Machine
end

