-- ==== Sys2Proof/Machine/Launches.lean ====
section
/-! DEFINITION. Queues, launches and completions (R345-R358), with the kernel image and its site table (R48, R49, R407). -/
namespace Sys2Proof.Machine

/-- The number in some bytes of a record. -/
def fieldAt (f : List Byte) (o n : Nat) : Nat := leNat ((f.drop o).take n)

/-! ### The kernel image (R48, R49, R407) -/

/-- The site that 48 bytes describe. -/
def siteOf (f : List Byte) : Site :=
  { trailer := fieldAt f 4 4, vmask := BitVec.ofNat 128 (fieldAt f 8 16), smask := BitVec.ofNat 64 (fieldAt f 24 8)
    tiles := BitVec.ofNat 8 (fieldAt f 32 1), flags := BitVec.ofNat 8 (fieldAt f 33 1)
    keep := ((f.drop 36).take (min 8 (fieldAt f 34 1))).map (·.toNat)
    recipe := if fieldAt f 44 4 = 0xFFFFFFFF then none else some (fieldAt f 44 4) }
/-- One entry of a site table, the i-th, against the code (R49, R407). The allotment that bounds a keep byte is the image header's (DESIGN
CHOICE, notes/assumptions/57.md). -/
def siteOk (f : List Byte) (i allot size : Nat) (code : Nat → Word) : Bool :=
  let x := siteOf f
  let n := fieldAt f 34 1
  let w := code (x.trailer / 4)
  fieldAt f 0 4 == i && x.trailer % 4 == 0 && decide (x.trailer < size) && isTrailer w && x.flags.toNat < 4 &&
    x.flags.getLsbD 0 == w.getLsbD 20 && x.flags.getLsbD 1 == w.getLsbD 19 && x.flags != 0#8 &&
    x.vmask.extractLsb' 120 8 == 0#8 && x.smask.extractLsb' 56 8 == 0#8 && decide (n ≤ 8) && fieldAt f 35 1 == 0 &&
    x.keep.all (fun b => if b < 128 then decide (b < allot) else decide (b < 128 + 56)) &&
    ((f.drop (36 + n)).take (8 - n)).all (· == 0xFF#8) &&
    (match x.recipe with
      | none => true
      | some r => x.flags.getLsbD 1 && r % 4 == 0 && decide (r < size))
/-- The image's header fields that a launch uses. -/
structure Image where
  slot : Nat
  allot : Nat
  crew : Nat
  granules : Nat
  larder : Nat
  entry : Nat
  size : Nat
  sites : List Site
  deriving DecidableEq, Repr
/-- The header's fields stand in R48's ranges; reserved bytes are not looked at (R3). The data section begins at the first multiple of some
2^n, n at least 6, at or after the end of the code. The entry offset must name a word of the code (DESIGN CHOICE,
notes/assumptions/58.md). -/
def headerOk (f : List Byte) : Bool :=
  let size := fieldAt f 20 4
  let up (x : Nat) := (x + 63) / 64 * 64
  let data := fieldAt f 32 4
  let len := fieldAt f 36 4
  fieldAt f 0 4 == 0x3257594B && fieldAt f 4 2 == 1 && decide (fieldAt f 6 1 < 4) &&
    decide (8 ≤ fieldAt f 8 1) && decide (fieldAt f 8 1 ≤ 120) && fieldAt f 8 1 % 8 == 0 &&
    decide (1 ≤ fieldAt f 10 2) && decide (fieldAt f 10 2 ≤ 1024) && decide (fieldAt f 12 2 ≤ 296) && decide (fieldAt f 14 2 ≤ 256) &&
    fieldAt f 16 4 % 4 == 0 && decide (fieldAt f 16 4 < size) && size % 4 == 0 &&
    (if len = 0 then data == up (64 + size) else (List.range 26).any fun n => data == (64 + size + 2 ^ (n + 6) - 1) / 2 ^ (n + 6) * 2 ^ (n + 6)) &&
    fieldAt f 28 4 == up (data + len)
/-- The image in some bytes, if its site table matches its code. -/
def imageOf (f : List Byte) : Option Image :=
  let size := fieldAt f 20 4
  let count := fieldAt f 24 4
  let allot := fieldAt f 8 1
  let code (i : Nat) : Word := BitVec.ofNat 32 (fieldAt f (64 + 4 * i) 4)
  let entry (i : Nat) : List Byte := (f.drop (fieldAt f 28 4 + 48 * i)).take 48
  let sites := (List.range count).map fun i => siteOf (entry i)
  let marked (w : Word) : Bool := isTrailer w && (w.getLsbD 19 || w.getLsbD 20)
  let trailers := (List.range (size / 4)).filter fun i => marked (code i)
  if (List.range count).all (fun i => siteOk (entry i) i allot size code) && sites.map (fun x => x.trailer / 4) == trailers then
    some { slot := fieldAt f 6 1, allot := allot, crew := fieldAt f 10 2, granules := fieldAt f 12 2, larder := fieldAt f 14 2
           entry := fieldAt f 16 4, size := size, sites := sites }
  else none
/-- What a launch finds at its image's address: an image, a page to wait for, or nothing that it can run. -/
inductive ImageGot where
  | ok (x : Image)
  | wait (s : State)
  | bad
  deriving DecidableEq, Repr
def State.readImage (s : State) (ctx va : Nat) : ImageGot :=
  match s.fetchVa ctx va 64 with
  | .wait s' => .wait s'
  | .bad => .bad
  | .ok h =>
    if headerOk h then
      match s.fetchVa ctx va (fieldAt h 28 4 + 48 * fieldAt h 24 4) with
      | .wait s' => .wait s'
      | .bad => .bad
      | .ok f => match imageOf f with
        | some x => .ok x
        | none => .bad
    else .bad

/-! ### The launch record (R349, R350) -/

/-- A launch record's 128 bytes; `reservedOk` says that its reserved bits are zero and its fields in their ranges (status 0x10). The
launch id of a child's record is ignored (R355). -/
def launchRecOf (f : List Byte) (child : Bool) : LaunchRec :=
  let n := fieldAt f
  let c0 := n 16 2
  let m := n 18 2
  let p := n 23 1
  let dep := n 96 8
  let ok := n 0 8 % 64 == 0 && (child || decide (n 8 4 < 2 ^ 31)) && decide (n 12 4 < 2 ^ 31) && decide (c0 < 4096) &&
    decide (1 ≤ m) && decide (m ≤ 2688) && decide (c0 + m ≤ 2688) && decide (n 20 1 < 4) &&
    (n 21 1 == 0 || (decide (8 ≤ n 21 1) && decide (n 21 1 ≤ 120) && n 21 1 % 8 == 0)) && decide (1 ≤ n 22 1) && decide (n 22 1 ≤ 64) &&
    decide (p ≤ 8) && n 24 8 % 64 == 0 && decide (1 ≤ n 32 4) && decide (n 32 4 ≤ 2 ^ 24) &&
    ((List.range 13).any fun i => n 36 4 == 2 ^ (i + 4)) && n 40 8 % 64 == 0 && n 48 8 % 64 == 0 && decide (1 ≤ n 56 2) &&
    decide (n 56 2 ≤ 4095) && n 58 2 / 4096 % 8 == 0 && ((List.range 8).all fun i => decide (i < p) || n (64 + 4 * i) 4 == 0) &&
    dep / 2 ^ 42 % 2 ^ 21 == 0 && n 104 8 % 64 == 0 && n 112 8 % 8 == 0 && decide (n 120 4 < 4) && n 124 4 == 0
  { image := BitVec.ofNat 64 (n 0 8), id := BitVec.ofNat 32 (n 8 4), threads := n 12 4, c0 := c0, m := m, table := n 20 1, allot := n 21 1
    timer := 64 * n 22 1, payload := (List.range p).map fun i => BitVec.ofNat 32 (n (64 + 4 * i) 4), spillBase := BitVec.ofNat 64 (n 24 8)
    spillCount := n 32 4, K := n 36 4, divBase := BitVec.ofNat 64 (n 40 8), callBase := BitVec.ofNat 64 (n 48 8), D := n 56 2
    group := if n 58 2 / 2 ^ 15 = 1 then some (n 58 2 % 4096) else none, pool := n 60 4
    dep := if dep / 2 ^ 63 = 1 then some (BitVec.ofNat 32 dep, dep / 2 ^ 32 % 1024) else none, completion := BitVec.ofNat 64 (n 104 8)
    signal := BitVec.ofNat 64 (n 112 8), interrupt := n 120 4 % 2 == 1, overlap := n 120 4 / 2 % 2 == 1, reservedOk := ok }
/-- A launch that the device has read and not yet started; `queue` is 0xFFFF for a child. -/
def Launch.read (ctx queue index : Nat) (parent : Option Nat) (r : LaunchRec) : Launch :=
  { ctx := ctx, queue := queue, index := index, parent := parent, rcd := r, codeStart := r.image + 64, codeSize := 0, entryOff := 0
    crewSize := 1, granules := 0, larderKib := 0, sites := [], started := false, status := 0, faults := 0, firstEnd := none, startTime := 0
    endTime := 0, pool := 0, created := [], complete := false, ended := false }
/-- Add a launch to the table. -/
def State.enlist (s : State) (L : Launch) : State × Nat :=
  ({ s with launches := s.launches.put s.nextUid L, nextUid := s.nextUid + 1 }, s.nextUid)
/-- The latest launch of a table that satisfies a condition. -/
def lastLaunch (t : Table Launch) (p : Launch → Bool) : Option (Nat × Launch) := (t.filter fun x => p x.2).getLast?
/-- A launch's predecessor in its queue lets it start (R352). -/
def State.predecessorOk (s : State) (uid : Nat) (L : Launch) : Bool :=
  L.queue == 0xFFFF || L.index == 0 ||
    match lastLaunch (s.launches.filter fun x => decide (x.1 < uid)) fun x => x.ctx == L.ctx && x.queue == L.queue && x.index + 1 == L.index with
    | some (_, p) => p.complete || (L.rcd.overlap && p.started)
    | none => true
/-- A launch's dependence (R352): the launch that it names, the latest read before it; complete or not. -/
inductive Dep where
  | none
  | waits
  | met (status : Word)
  deriving DecidableEq, Repr
def State.depOf (s : State) (uid : Nat) (L : Launch) : Dep :=
  match L.rcd.dep with
  | none => .none
  | some (id, q) =>
    let queue := if q = 0x3FF then 0xFFFF else q
    match lastLaunch (s.launches.filter fun x => decide (x.1 < uid)) fun x => x.ctx == L.ctx && x.queue == queue && x.rcd.id == id with
    | some (_, p) => if p.complete then .met p.status else .waits
    | none => .waits
/-- The cores of a launch. -/
def Launch.cores (L : Launch) : List Nat := (List.range L.rcd.m).map (L.rcd.c0 + ·)
/-- The decode-table slot holds a table (R32). -/
def State.slotLoaded (s : State) (n : Nat) : Bool := decide (n < 2) || (s.tables.find n).isSome
/-- The status with which a launch fails its checks, the lowest of those that apply (R350); `img` is its image, if it has a good one. -/
def State.launchFails (s : State) (uid : Nat) (L : Launch) (img : Option Image) : Option Nat :=
  let r := L.rcd
  let grant := (s.tenant (L.ctx / 64)).grant
  if !r.reservedOk then some 0x10
  else if !s.slotLoaded r.table || (match img with
      | some x => x.slot != r.table
      | none => false) then some 0x11
  else if (match img with
      | some x => r.allot != 0 && decide (r.allot < x.allot)
      | none => true) then some 0x12
  else if !L.cores.all fun c => s.tenantCore (L.ctx / 64) c && !(s.core c).absent then some 0x13
  else if (match s.depOf uid L with
      | .met x => decide (2 ≤ x.toNat)
      | _ => false) then some 0x14
  else if (match r.group with
      | some g => s.groups.find g != some (L.ctx / 64)
      | none => false) || decide (grant < r.pool) then some 0x15
  else none

/-! ### Completion (R353, R354) -/

/-- The completion record's 64 bytes. -/
def Launch.recordBytes (L : Launch) : List Byte :=
  let (cause, epc, eva) := L.firstEnd.getD (0, 0, 0)
  toLe L.status.toNat 4 ++ toLe L.faults 4 ++ toLe L.rcd.id.toNat 4 ++ toLe L.queue 2 ++ toLe cause 2 ++ toLe L.startTime 8 ++ toLe L.endTime 8 ++
    toLe epc.toNat 8 ++ toLe eva.toNat 8 ++ toLe L.ctx 4 ++ List.replicate 12 0#8
/-- A queue of a context by number. -/
def State.queue (s : State) (ctx n : Nat) : Option Queue := s.queues.find? fun q => q.desc.ctx == ctx && q.desc.number == n
def State.setQueue (s : State) (q : Queue) : State :=
  { s with queues := s.queues.map fun (x : Queue) => if x.desc.ctx = q.desc.ctx ∧ x.desc.number = q.desc.number then q else x }
/-- A queue that stops after its current launch, once that is complete (R379). -/
def State.dropClosing (s : State) (ctx n : Nat) : State :=
  if s.launches.any fun L => L.2.ctx == ctx && L.2.queue == n && !L.2.complete then s
  else { s with queues := s.queues.filter fun q => !(q.closing && q.desc.ctx == ctx && q.desc.number == n) }
/-- The completion items of a launch, in order: record, signal word, interrupt. -/
def State.announce (s : State) (L : Launch) : State :=
  let s := if L.rcd.completion = 0#64 then s else s.arise (.record L.ctx L.rcd.completion L.recordBytes)
  let value : Dword := if L.queue = 0xFFFF then L.rcd.id.setWidth 64 else BitVec.ofNat 64 (L.index + 1)
  let s := if L.rcd.signal = 0#64 then s else s.arise (.signal L.ctx L.rcd.signal value)
  match L.rcd.interrupt, s.queue L.ctx L.queue with
  | true, some q => s.arise (.interrupt L.ctx q.desc.vector)
  | _, _ => s
/-- A launch of a context runs on a core. -/
def State.runsOn (s : State) (ctx cn : Nat) : Bool :=
  s.launches.any fun L => L.2.ctx == ctx && L.2.started && !L.2.complete && decide (L.2.rcd.c0 ≤ cn) && decide (cn < L.2.rcd.c0 + L.2.rcd.m)
/-- State of a context saved on a core. -/
def Core.savedOf (c : Core) (ctx : Nat) : Bool :=
  c.saved.any fun x => x.warps.any (fun w => w.warp.ctx == ctx) || x.ops.any (fun o => o.ctx == ctx) || x.kicks.any fun k => k.ctx == ctx
/-- Saved state without a context's reservations, whose spans are zeroed (R261, R269). -/
def Saved.quit (x : Saved) (ctx : Nat) : Saved :=
  let mine := x.res.filter fun r => r.2.ctx == ctx
  { x with res := x.res.filter fun r => r.2.ctx ≠ ctx
           larder := mine.foldl (fun m r => Memory.zero m (1024 * r.2.base) (1024 * r.2.count)) x.larder
           hazes := x.hazes.filter fun h => h.ctx ≠ ctx }
/-- What ends on a core with the last launch of a context there: its reservations and its precision registers (R269, R272). -/
def State.quitCore (s : State) (ctx cn : Nat) : State :=
  if s.runsOn ctx cn then s
  else
    let c := s.core cn
    let c := (c.res.filterMap fun r => if r.2.ctx = ctx then some r.1 else none).foldl Core.freeHandle c
    s.setCore cn { c with prHeld := c.prHeld.filter (· ≠ ctx), saved := c.saved.map fun (x : Saved) => x.quit ctx }
/-- A launch is complete with a status: pages that its pool has not given out return to the grant (R238). -/
def State.endLaunch (s : State) (uid : Nat) (L : Launch) (status : Nat) : State :=
  let L := { L with status := BitVec.ofNat 32 status, complete := true, endTime := s.time }
  let t := s.tenant (L.ctx / 64)
  let s := { s with launches := s.launches.put uid { L with pool := 0 } }.setTenant (L.ctx / 64) { t with grant := t.grant + L.pool }
  let s := if L.started then L.cores.foldl (fun s c => s.quitCore L.ctx c) s else s
  (s.announce L).dropClosing L.ctx L.queue
/-- A peer request of a kick is not final (R353). -/
def kickPeers (scratch : Memory) (crews : Table Crew) (k : Kick) : Bool :=
  k.runs.any Request.peer || match crews.find k.crew with
    | none => false
    | some x => (List.range (k.count - k.next)).any fun i =>
        (Sparse.get 0#8 scratch (1024 * x.base + k.list + 32 * (k.next + i) + 24)).getLsbD 7
/-- Nothing of a launch is left on a core (R118, R353): no warp, no waiting thread, no peer request, running or saved. -/
def Core.clearOf (c : Core) (uid : Nat) : Bool :=
  let kept (x : Saved) : Bool := x.warps.all (fun w => w.warp.launch != uid) && x.spilled.all (fun t => t.launch != uid) &&
    x.kicks.all fun k => k.launch != uid || !kickPeers x.scratch x.crews k
  c.warps.all (fun w => w.2.2.launch != uid) && c.bins.all (fun b => b.2.launch != uid) && c.spilled.all (fun t => t.launch != uid) &&
    c.kicks.all (fun k => k.launch != uid || !kickPeers c.scratch c.crews k) && c.saved.all kept && c.swapped.all fun x => kept x.2
/-- LAUNCH_COMPLETE (R353): A complete launch writes its completion record, signal word and MSI-X; of one that is complete already, the items
that have waited for a line or a page are written. -/
def execLaunchComplete (launch : Nat) (s : State) : Host.Outcome State Fault Refusal :=
  match s.launches.find launch with
  | none => .next s
  | some L =>
    let made := L.ended || decide (L.created.length = (L.rcd.threads + 31) / 32)
    if L.complete then .next (if s.holdsSlice L.ctx then s.flushDue fun c => c == L.ctx else s)
    else if !L.started || !made || !s.cores.all (fun c => c.2.clearOf launch) || s.peerSegs.any (fun p => p.launch == launch) ||
        s.launches.any fun x => x.2.parent == some launch && !x.2.complete then .next s
    else .next (s.endLaunch launch L (if L.ended then 2 else if L.faults = 0 then 0 else 1))

/-! ### Starting (R350-R352) -/

/-- A launch's arrival on a core (R272, R285): precision registers and the ticket counter of a context that has nothing there start anew. -/
def State.joinCore (s : State) (ctx cn : Nat) : State :=
  let c := s.core cn
  let fresh := !s.runsOn ctx cn && !c.savedOf ctx
  let held := c.res.any (fun r => r.2.ctx == ctx) || c.saved.any fun x => x.res.any fun r => r.2.ctx == ctx
  let c := if fresh then { c with tickets := Sparse.set 0#16 c.tickets ctx 0 } else c
  let c := if fresh && !held then (List.range 8).foldl (fun (c : Core) n => c.setPr ctx n 0x377) c else c
  s.setCore cn { c with prHeld := if c.prHeld.contains ctx then c.prHeld else c.prHeld ++ [ctx] }
/-- Try to start a launch that has been read: nothing yet while its predecessor, its dependence, a page of its image or a suspect core makes it
wait; else it starts, or completes at once with the status of the check that it fails. -/
def State.startLaunch (s : State) (uid : Nat) : State :=
  match s.launches.find uid with
  | none => s
  | some L =>
    if L.started || L.complete || !s.predecessorOk uid L || s.depOf uid L == .waits then s
    else match (if L.rcd.reservedOk then s.readImage L.ctx L.rcd.image.toNat else .bad) with
    | .wait s' => s'
    | got =>
      let img := match got with
        | .ok x => some x
        | _ => none
      match s.launchFails uid L img, img with
      | some st, _ => s.endLaunch uid { L with startTime := s.time } st
      | none, none => s.endLaunch uid { L with startTime := s.time } 0x12
      | none, some x =>
        if L.cores.any fun c => (s.core c).suspect then s
        else
          let s := L.cores.foldl (fun s c => s.joinCore L.ctx c) s
          let t := s.tenant (L.ctx / 64)
          let L := { L with rcd := { L.rcd with allot := if L.rcd.allot = 0 then x.allot else L.rcd.allot }
                            codeSize := x.size, entryOff := x.entry, crewSize := x.crew, granules := x.granules, larderKib := x.larder
                            sites := x.sites, started := true, startTime := s.time, pool := L.rcd.pool }
          { s with launches := s.launches.put uid L }.setTenant (L.ctx / 64) { t with grant := t.grant - L.rcd.pool }

/-! ### Queues (R345-R348) -/

/-- Firmware writes a function's status word, and raises its vector 0 (R379). -/
def State.mailStatus (s : State) (port ctx : Nat) (status : Nat) (area : Memory → Memory) : State :=
  let x := s.ctx ctx
  let b := (x.mail.find port).getD {}
  { s.setCtx ctx { x with mail := x.mail.put port { area := area b.area, status := BitVec.ofNat 32 status, busy := none } } with
    out := s.out ++ [.mailbox port ctx (BitVec.ofNat 32 status), .msix ctx 0] }
/-- A queue stops, and the host is told with status 4, the queue's number at +4 of the command area (R346, R379). -/
def State.stopQueue (s : State) (q : Queue) : State :=
  (s.setQueue { q with stopped := true, mapped := false, part := [] }).mailStatus q.port q.desc.ctx 4 fun m => Sparse.setAll 0#8 m 4 (toLe q.desc.number 4)
/-- Read a queue's tail word; a tail that falls, runs too far ahead or cannot be read stops the queue. The slot keeps the line of the word in S
(R347); a queue that waits for a slot waits from when it has pending work (R348). -/
def State.readTail (s : State) (q : Queue) : State :=
  let va := q.desc.tailVa.toNat
  match s.fetchVa q.desc.ctx va 8 with
  | .wait s' => s'
  | .bad => s.stopQueue q
  | .ok bs =>
    let t := leNat bs
    let line := match s.translate 0 false q.desc.ctx .read va with
      | .ok (.mem pa) => some (lineOf pa)
      | _ => none
    if t < q.tail ∨ q.head + q.desc.capacity < t then s.stopQueue q
    else s.setQueue { q with tail := t, reread := false, tailLine := line, since := if !q.mapped && q.tail == q.head && t != q.head then s.time else q.since }
/-- TAIL_REREAD (R347): Loss of the tail line's copy makes the queue slot read the tail again. -/
def execTailReread (ctx queue : Nat) (s : State) : Host.Outcome State Fault Refusal :=
  match s.queue ctx queue with
  | some q => .next (if q.mapped && q.reread && !q.stopped && s.holdsSlice ctx then s.readTail q else s)
  | none => .next s
/-- Queues of a list by the TIME since which they have waited or held, earliest first. -/
def bySince (qs : List Queue) : List Queue := qs.mergeSort fun a b => decide (a.since ≤ b.since)
/-- The quantum of slot time that a TIME lies in, from 1 (R348). -/
def quantumAt (time : Nat) : Nat := time / 100000 + 1
/-- QUEUE_QUANTUM (R348): once in each 100 us quantum firmware polls tails and rotates hardware queue slots: empty queues of which no record is being
read give theirs up; if pending queues still wait, those that have held longest give way to those that have waited longest. A slot that is taken
reads its tail word. -/
def execQueueQuantum (ctx : Nat) (s : State) : Host.Outcome State Fault Refusal :=
  if !s.holdsSlice ctx || (s.ctx ctx).quantum == quantumAt s.time then .next s
  else
    let s := s.setCtx ctx { s.ctx ctx with quantum := quantumAt s.time }
    let mine (q : Queue) : Bool := q.desc.ctx == ctx && !q.stopped && !q.closing
    let s := (s.queues.filter fun q => mine q && !q.mapped).foldl State.readTail s
    let s := { s with queues := s.queues.map fun (q : Queue) => if mine q && q.mapped && q.tail == q.head && q.part.isEmpty then { q with mapped := false, since := s.time } else q }
    let waiting := bySince (s.queues.filter fun q => mine q && !q.mapped && q.tail != q.head)
    let held := bySince (s.queues.filter fun q => mine q && q.mapped)
    let free := 256 - held.length
    let out := held.take (min (waiting.length - free) held.length)
    let s := out.foldl (fun (s : State) (q : Queue) => s.setQueue { q with mapped := false, since := s.time }) s
    .next ((waiting.take (free + out.length)).foldl (fun (s : State) (q : Queue) => s.setQueue { q with mapped := true, reread := true, since := s.time }) s)
/-- How many bytes of a record are read at once: some whole granules of those that are left (R346). -/
def granules (fresh got : Nat) : Nat := 8 * (1 + Config.freeNat fresh 128 % (16 - got / 8))
/-- A queue as it stands now: a write may have lost its tail line's copy. -/
def State.nowQueue (s : State) (q : Queue) : Queue := (s.queue q.desc.ctx q.desc.number).getD q
/-- Read on in the next record of a queue; once the whole of it has been read, move the head on (R346): the new launch. -/
def State.readRecord (s : State) (q : Queue) : State × Option Nat :=
  let got := q.part.length
  let n := if 128 ≤ got then 0 else granules s.fresh got
  match s.fetchVa q.desc.ctx (q.desc.ring.toNat + 128 * (q.head % q.desc.capacity) + got) n with
  | .wait s' => (s', none)
  | .bad => (s.stopQueue q, none)
  | .ok f =>
    let q := { q with part := q.part ++ f }
    if q.part.length < 128 then ({ s.setQueue q with fresh := s.fresh + 1 }, none)
    else match s.postVa q.desc.ctx q.desc.headVa.toNat (toLe (q.head + 1) 8) with
    | .waits s' => (s'.setQueue { s'.nowQueue q with part := q.part }, none)
    | .fault _ => (s.stopQueue q, none)
    | .done s' =>
      let r := s'.enlist (Launch.read q.desc.ctx q.desc.number q.head none (launchRecOf q.part false))
      (r.1.setQueue { s'.nowQueue q with head := q.head + 1, part := [] }, some r.2)
/-- A queue has stopped: nothing further is launched from it, neither a record read already (R346). -/
def State.queueStopped (s : State) (ctx n : Nat) : Bool := match s.queue ctx n with
  | some q => q.stopped
  | none => false
/-- LAUNCH_START (R346, R352): a queued launch starts as its predecessor and dependence allow. A launch of the queue that has been read and waits
is tried first; else the slot reads the queue's next record, and none before it has read the tail again (R347). Queue 0x3FF stands for the context's child launches. -/
def execLaunchStart (ctx queue : Nat) (s : State) : Host.Outcome State Fault Refusal :=
  let n := if queue = 0x3FF then 0xFFFF else queue
  if !s.holdsSlice ctx || s.queueStopped ctx n then .next s
  else match (s.launches.filter fun L => L.2.ctx == ctx && L.2.queue == n && !L.2.started && !L.2.complete).map (·.1) with
  | u :: us => .next ((u :: us).foldl State.startLaunch s)
  | [] =>
    match s.queue ctx queue with
    | none => .next s
    | some q =>
      if q.stopped || q.closing || !q.mapped || q.reread || decide (q.tail ≤ q.head) then .next s
      else match s.readRecord q with
        | (t, some uid) => .next (if t.queueStopped ctx queue then t else t.startLaunch uid)
        | (t, none) => .next t

/-- Report a mailbox command's final status (R379). -/
def State.mailbox (s : State) (m : Mail) (status : Nat) : State := s.mailStatus m.port m.ctx status id
/-- A mailbox command that firmware has taken and cannot finish yet (R379). -/
def State.mailWaits (s : State) (m : Mail) : State :=
  let x := s.ctx m.ctx
  let b := (x.mail.find m.port).getD {}
  s.setCtx m.ctx { x with mail := x.mail.put m.port { b with status := 0xFFFFFFFF#32, busy := some m.code } }
/-- Firmware takes a command of a virtual function, if there is that function and it has finished the one before; `code` is the code of the command
whose effect is `go`. An unknown code, or reserved bytes that are not zero, change nothing (R379). The command stands in the command area. -/
def State.command (s : State) (m : Mail) (code : Nat) (go : State → State) : Host.Outcome State Fault Refusal :=
  let x := s.ctx m.ctx
  let b := (x.mail.find m.port).getD {}
  if (s.contexts.find m.ctx).isNone || !x.ports.contains m.port || b.busy.any (fun k => k != code) then .next s
  else
    let s' := s.setCtx m.ctx { x with mail := x.mail.put m.port { b with area := Sparse.setAll 0#8 b.area 0 (toLe m.code 4) } }
    if m.code = 0 ∨ 8 < m.code then .next (s'.mailbox m 1)
    else if m.code ≠ code then .next s
    else if m.reservedZero = false then .next (s'.mailbox m 1)
    else .next (go s')
/-- A descriptor's 64 bytes (R345). -/
def queueDescOf (x : BitVec 512) : QueueDesc :=
  { ring := x.extractLsb' 0 64, capacity := (x.extractLsb' 64 32).toNat, number := (x.extractLsb' 96 16).toNat
    vector := (x.extractLsb' 112 16).toNat, tailVa := x.extractLsb' 128 64, headVa := x.extractLsb' 192 64
    ctx := (x.extractLsb' 256 32).toNat, reservedZero := x.extractLsb' 288 224 == 0#224 }
/-- A descriptor's fields stand in their ranges (R345). -/
def queueOk (d : QueueDesc) (ctx : Nat) : Bool :=
  d.ring.toNat % 128 == 0 && ((List.range 16).any fun i => d.capacity == 2 ^ (i + 1)) && decide (d.number < 0x3FF) && decide (d.vector < 2 ^ 16) &&
    d.tailVa.toNat % 8 == 0 && d.headVa.toNat % 8 == 0 && d.ctx == ctx
/-- REGISTER_QUEUE (R379): Mailbox command 0x01 registers a queue, or one that has stopped again. -/
def execRegisterQueue (ctx : Mail) (desc : BitVec 512) (s : State) : Host.Outcome State Fault Refusal :=
  s.command ctx 1 fun s =>
    let d := queueDescOf desc
    if !d.reservedZero then s.mailbox ctx 1
    else if !queueOk d ctx.ctx || (match s.queue ctx.ctx d.number with
        | some q => !q.stopped
        | none => false) then s.mailbox ctx 2
    else
      let q : Queue := { desc := d, head := 0, tail := 0, stopped := false, mapped := false, reread := true, closing := false, since := s.time
                         port := ctx.port }
      { s with queues := (s.queues.filter fun (x : Queue) => !(x.desc.ctx == ctx.ctx && x.desc.number == d.number)) ++ [q] }.mailbox ctx 0
/-- UNREGISTER_QUEUE (R379): Mailbox command 0x02 stops a queue after its current launch. -/
def execUnregisterQueue (ctx : Mail) (queue : Nat) (s : State) : Host.Outcome State Fault Refusal :=
  s.command ctx 2 fun s => match s.queue ctx.ctx queue with
  | none => s.mailbox ctx 2
  | some q => ((s.setQueue { q with closing := true }).dropClosing ctx.ctx queue).mailbox ctx 0

/-! ### LAUNCH and LWAIT (R355-R358) -/

/-- A context's child launches that are outstanding. -/
def State.childrenOut (s : State) (ctx : Nat) : Nat := s.launches.countP fun L => L.2.ctx == ctx && L.2.parent.isSome && !L.2.complete
/-- The child that LAUNCH starts: its record is read, its id assigned, and it starts when it may. -/
def State.launchChild (s : State) (ctx parent : Nat) (id : Word) (f : List Byte) : State :=
  let x := s.ctx ctx
  let s := s.setCtx ctx { x with children := x.children + 1 }
  let r := launchRecOf f true
  let (s, uid) := s.enlist (Launch.read ctx 0xFFFF 0 (some parent) { r with id := id })
  s.startLaunch uid
/-- LAUNCH (R356): Starts a child launch from a record in memory and returns its id. -/
def execLaunch (d : BitVec 6) (a : BitVec 6) (s : State) : Host.Outcome State Fault Refusal :=
  let i := (Info.uniOfPair d a).closing
  issue i true s fun V =>
    let va := V.uni64 a.toNat
    if !V.w.mgmt && !canonical va then V.fault 0x040 va V.em
    else if va.toNat % 128 ≠ 0 then V.fault 0x041 va V.em
    else if 4096 ≤ V.s.childrenOut V.w.ctx then V.hold 12
    else V.released fun V =>
      let id : Word := 0x80000000#32 + BitVec.ofNat 32 ((V.s.ctx V.w.ctx).children % 2 ^ 31)
      let go (f : List Byte) : State := ((V.writeUni d.toNat id).retire i).launchChild V.w.ctx V.w.launch id f
      match V.s.translate V.cn V.w.mgmt V.w.ctx .read va.toNat with
      | .fault c => V.laneFault c va V.em
      | .migrating => ({ V with s := V.s.startPull V.w.ctx va.toNat } : View).hold 11
      | .ok (.mem pa) => match V.s.claimRead V.cn V.w.ctx [lineOf pa] with
        | some s' => ({ V with s := s' } : View).hold 12
        | none => go (V.s.memBytes pa 128)
      | .ok (.window c off) => go (V.s.windowBytes c off 128 (if V.w.mgmt then none else some V.w.ctx))
      | .ok _ => V.laneFault 0x045 va V.em
/-- A child launch's completion record is still to be written. -/
def State.recordDue (s : State) (ctx : Nat) (id : Word) : Bool := s.due.any fun d => match d with
  | .record c _ data => c == ctx && fieldAt data 8 4 == id.toNat && fieldAt data 12 2 == 0xFFFF
  | _ => false
/-- LWAIT (R357): Waits until a child launch has its completion record written, and acquires its accesses; it does not wait for the launch that
issues it (R358). -/
def execLwait (a : BitVec 6) (s : State) : Host.Outcome State Fault Refusal :=
  issue (Info.uniSrc a) true s fun V =>
    let id := V.uni a.toNat
    if V.s.launches.any fun L => L.1 != V.w.launch && L.2.ctx == V.w.ctx && L.2.parent.isSome && L.2.rcd.id == id && (!L.2.complete || V.s.recordDue V.w.ctx id) then V.hold 12
    else V.retire (Info.uniSrc a)

end Sys2Proof.Machine
end

