-- ==== Sys2Proof/Machine/Resume.lean ====
section
/-! DEFINITION. The resume of a halted warp (R160, R267, R293, R333, R335, R342, R365, R408). -/
namespace Sys2Proof.Machine

/-- What SVC n leaves in s0 (R342). -/
def serviceResult (n : Nat) : Word := if n = 0 then 0#32 else if n = 1 then Config.firmwareRelease else 0xFFFFFFFF#32

/-- The binding of an operand at a re-issue (R267, R293): as it was captured, with the rows that have landed; but where an LBIND has named the
reservation since and rows are still to come, row 0 of the binding that its record has now. -/
def Core.rebind (c : Core) (x : Operand) : Operand :=
  match c.res.find x.handle with
  | some r => if x.landed = 64 ∨ r.serial = x.serial then x else { x with va := r.va, stride := r.stride, landed := 0, serial := r.serial }
  | none => x
def State.reissued (s : State) (cn : Nat) (o : MatOp) : MatOp :=
  let c := s.core cn
  { o with blocked := false, opA := c.rebind o.opA, opB := c.rebind o.opB
           opB2 := if o.kind = .mmap then (s.core (cn + 1)).rebind o.opB2 else o.opB2 }

/-! ### Lanes that fail after their word has issued (R31, R376) -/

/-- A lane's access goes to a host port that carries nothing now (R375, R376). -/
def State.down (s : State) (a : LaneAcc) : Bool := match a.loc with
  | .mem pa => isHost pa && (s.carrier pa).isNone
  | _ => false
/-- The lanes of some accesses: their own, or those on whose behalf the uniform stream made them. -/
def lanesHit (bys : Word) (accs : List LaneAcc) : Word :=
  if accs.any fun a => a.lane == 32 then bys else maskOf fun l => accs.any fun a => a.lane == l
/-- The fault of some lanes whose accesses a port has failed. -/
def portFault (seq : Nat) (pc : Pc) (bys : Word) (accs : List LaneAcc) : Deferred :=
  { op := 0, cause := 0x045, epc := pcVa pc, eva := (accs.head?.map (·.va)).getD 0, fmask := lanesHit bys accs, reissue := none, late := some seq }
/-- A warp's outstanding accesses that are `bad` complete for no lane: each of their words has cause 0x045 to raise for those lanes, and its
destination stays pending. PREF and WBL raise nothing. -/
def Warp.failLate (w : Warp) (bad : LaneAcc → Bool) : Warp :=
  let traps (o : LongOp) : Bool := o.kind.reads || o.kind.writes
  let gone (o : LongOp) : List LaneAcc := o.tries.filter bad
  let loads := w.pend.filter fun o => traps o && !(gone o).isEmpty
  let stores := w.sb.filter fun b => !b.lost && bad b.acc
  let words := (stores.map fun b => (b.seq, b.pc, b.lanes)).eraseDups
  { w with
    pend := w.pend.map fun (o : LongOp) =>
      if traps o then { o with lost := o.lost ++ (gone o).map (·.lane) } else { o with accs := o.accs.filter fun a => !(gone o).contains a }
    sb := w.sb.map fun (b : BufStore) => if !b.lost && bad b.acc then { b with lost := true, sent := some 0 } else b
    trap := { w.trap with deferred := w.trap.deferred ++ (loads.map fun o => portFault o.seq o.pc o.lanes (gone o)) ++
      (words.map fun x => portFault x.1 x.2.1 x.2.2 ((stores.filter fun b => b.seq == x.1).map (·.acc))) } }
/-- A word of which lanes failed late is issued again alone, for the lanes of the replay mask; the others count as completed (R31, R333, R335).
Where the port still carries nothing, it fails again. -/
def State.againLate (s : State) (w : Warp) : Warp :=
  match w.trap.late with
  | none => w
  | some n =>
    let stays (a : LaneAcc) : Bool := if a.lane = 32 then w.trap.replay != 0#32 || w.trap.fmask == 0#32 else w.trap.replay.getLsbD a.lane
    let w := { w with
      pend := w.pend.map fun (o : LongOp) =>
        if o.seq = n then { o with accs := o.accs.filter fun a => !o.lost.contains a.lane || stays a, lost := [] } else o
      sb := (w.sb.filter fun (b : BufStore) => b.seq != n || !b.lost || stays b.acc).map fun (b : BufStore) => if b.seq = n ∧ b.lost then { b with lost := false, sent := none } else b
      trap := { w.trap with late := none } }
    w.failLate s.down

/-! ### The edited divergence window (R159, R160) -/

/-- A field of a record held as a number: `n` bits from bit `at_` up. -/
def bitsAt (x at_ n : Nat) : Nat := x / 2 ^ at_ % 2 ^ n
/-- A slot of the window, or a ring entry, keeps to R160: its reserved bits are zero, its PC is word-aligned, its depth is at most D.
`reserved` is the word beside the mask that must be zero in a ring entry. -/
def entryOk (D x : Nat) (reserved : Nat) : Bool :=
  bitsAt x 62 2 == 0 && bitsAt x 0 2 == 0 && decide (bitsAt x 48 12 ≤ D) && reserved == 0
/-- The lanes of a slot of the window, and those that rest. -/
def slotLanes (x : Nat) : Word := if bitsAt x 61 1 = 0 then 0#32 else BitVec.ofNat 32 (x / 2 ^ 64)
def slotRest (x : Nat) : Word := if bitsAt x 61 1 = 0 then 0#32 else BitVec.ofNat 32 (x / 2 ^ 96)
/-- A list of masks has no lane twice. -/
def apart : List Word → Bool
  | [] => true
  | m :: ms => ms.all (fun x => m &&& x == 0#32) && apart ms
/-- The checks of R160 on the window alone. The mask of a live slot is not zero; a resting mask lies in its own slot's mask (R141, R365). -/
def windowOk (D K x : Nat) : Bool :=
  let slot (y : Nat) := if bitsAt y 61 1 = 0 then bitsAt y 62 2 == 0 else entryOk D y 0 && bitsAt y 64 32 != 0 && slotRest y &&& ~~~slotLanes y == 0#32
  slot (x % 2 ^ 128) && slot (bitsAt x 128 128) && slotLanes (x % 2 ^ 128) &&& slotLanes (bitsAt x 128 128) == 0#32 &&
    decide (bitsAt x 256 32 ≤ K) && decide (bitsAt x 288 32 < K) && bitsAt x 433 15 == 0 && bitsAt x 480 32 == 0
/-- The checks of R160 on the stack, given its entries as 16-byte numbers. -/
def stackOk (D x : Nat) (es : List Nat) : Bool :=
  es.all (fun e => entryOk D e (bitsAt e 96 32)) &&
    apart (slotLanes (x % 2 ^ 128) :: slotLanes (bitsAt x 128 128) :: es.map fun e => BitVec.ofNat 32 (e / 2 ^ 64))

/-- A slot as the divergence window's words give it; the run stays where the PC stays (R160). Lanes that rest under R87 go on resting;
the others that are named rest for the debugger (R365). -/
def pathOfWords (old : Option Path) (x : Nat) : Option Path :=
  if bitsAt x 61 1 = 0 then none
  else
    let pc : Pc := BitVec.ofNat 48 x
    let base : Path := old.getD (freshPath pc 0 0 false)
    some { base with pc := pc, mask := slotLanes x, depth := bitsAt x 48 12, parked := bitsAt x 60 1 == 1
                     dbgRest := slotRest x &&& ~~~base.rest
                     run := if pc = base.pc then base.run else none, wait := if pc = base.pc then base.wait else .none }
/-- The top entry's ring place. -/
def topPlace (K n b : Nat) : Nat := (b + n + K - 1) % K
/-- The on-chip top stays the top under the window's count and bottom. An edit in memory of the place of an entry that stays on chip is not
seen (DESIGN CHOICE, notes/assumptions/54.md). -/
def Div.keepsTop (d : Div) (K x : Nat) : Bool :=
  d.top.isSome && d.n != 0 && bitsAt x 256 32 != 0 && topPlace K d.n d.b == topPlace K (bitsAt x 256 32) (bitsAt x 288 32)
/-- The divergence state after firmware's edit: the fields that are not read-only. -/
def Div.edited (d : Div) (K x : Nat) : Div :=
  { d with s0 := pathOfWords d.s0 (x % 2 ^ 128), s1 := pathOfWords d.s1 (bitsAt x 128 128), n := bitsAt x 256 32, b := bitsAt x 288 32
           progress := bitsAt x 416 17, top := if d.keepsTop K x then d.top else none }

/-! ### The resume -/

/-- The trapping slot's path as a resume continues it (R333): past the word, or issuing it again for the lanes of the replay mask. It stands at a
run boundary where the word is the first of its run and all its lanes issue it. -/
def TrapRegs.replayed (t : TrapRegs) (p : Path) : Path :=
  if !t.again then p
  else if t.replay = 0#32 then p.past p.pc t.last
  else { p with replay := if t.start && t.replay == p.em then none else some t.replay }
/-- The breakpoint comparator that does not match the trapping word again, with the word and a lane of its path (R333). -/
def TrapRegs.passes (t : TrapRegs) (p : Path) : List (Nat × Pc × Nat) :=
  if t.again && decide (0x100 ≤ t.cause.toNat) && decide (t.cause.toNat < 0x140) then (lowestLane p.mask).toList.map fun l => (t.cause.toNat - 0x100, p.pc, l)
  else []
/-- The quadrant of a warp that resumes: its divergence state as edited, the temporary sets of runs that the edit has dropped released, the
replay of R333, the service's result (R342), the operation that is issued again (R293); the temporaries of runs that go on are undefined (R25). -/
def State.resumed (s : State) (cn qn wn : Nat) (w : Warp) : Quadrant :=
  let q := (s.core cn).quad qn
  let w := s.againLate w
  let t := w.trap
  let d := match t.edit with
    | some x => w.div.edited (s.ringK w.launch) x
    | none => w.div
  let lost (k : Nat) : Bool := (w.div.slot k).any (fun p => p.run.isSome) && !(d.slot k).any fun p => p.run.isSome
  let passed := w.passed ++ ((d.slot t.slot).map t.passes).getD []
  let d := d.setSlot t.slot ((d.slot t.slot).map t.replayed)
  let d := { d with s0 := d.s0.map Path.blankTemps, s1 := d.s1.map Path.blankTemps }
  let q := if lost 0 then q.freeTemps wn 0 else q
  let q := if lost 1 then q.freeTemps wn 1 else q
  { q.setWarp wn { w with div := d, passed := passed, undef := if t.service.isSome then Sparse.set 0#32 w.undef 128 0 else w.undef, trap := { t with halted := false, service := none, edit := none, resuming := false } } with
    rf := match t.service with
      | some n => Sparse.set 0#32 q.rf (w.ubase * 32) (serviceResult n)
      | none => q.rf
    mq := q.mq.map fun o => if some o.id = t.reissue then s.reissued cn o else o }
/-- A failed check of R160: cause 0x00E, with slot 0's PC. What a later resume replays stays as it was. -/
def State.badEdit (s : State) (cn qn wn : Nat) (w : Warp) : State :=
  let pc : Pc := BitVec.ofNat 48 (s.divWindow cn qn wn w)
  s.mgmtTrap cn qn wn w.trap.slot
    { cause := 0x00E, epc := pcVa pc, eva := 0, fmask := 0, replay := w.trap.replay, again := w.trap.again, last := w.trap.last
      isDeferred := false, escalated := false, service := none, reissue := w.trap.reissue, late := w.trap.late }
/-- The resume waits for a page of the ring or for a line of it (R408), or for the next slice (R336). -/
def State.resumeLater (s : State) (cn qn wn : Nat) : State := s.onWarp cn qn wn fun w => { w with trap := { w.trap with resuming := true } }
/-- The top entry that leaves the chip because the count or the bottom has been edited goes to its ring place first (R148). -/
def State.topHome (s : State) (cn qn wn : Nat) (w : Warp) (x : Nat) : Regions :=
  match w.div.top with
  | some _ => if w.div.n = 0 ∨ w.div.keepsTop (s.ringK w.launch) x then .ok []
              else s.regionAll cn w.mgmt w.ctx w.launch true [s.ringVa cn qn wn w (topPlace (s.ringK w.launch) w.div.n w.div.b)]
  | none => .ok []
/-- Resume a halted warp (R335): the checks of R160, the replay of R333, the service's result and the re-issue of a blocked operation
(R293); then pops into slots that an edit has emptied (R147). While its core drains the resume waits for the next slice (R336). A ring access
that fails halts the resumed warp again (R408). -/
def State.resume (s : State) (cn qn wn : Nat) : State :=
  match s.warp cn qn wn with
  | none => s
  | some w =>
    if !w.trap.halted || w.trap.service == some 2 then s
    else if !w.mgmt && (s.core cn).phase != .running then s.resumeLater cn qn wn
    else
      let x := s.divWindow cn qn wn w
      let K := s.ringK w.launch
      let D := s.callD w.launch
      if windowOk D K x = false then s.badEdit cn qn wn w
      else
        let n := bitsAt x 256 32
        let b := bitsAt x 288 32
        let kept := w.div.keepsTop K x
        let again (c : Nat) (vs : List Dword) (s : State) : State :=
          (s.setQuad cn qn (s.resumed cn qn wn w)).mgmtTrap cn qn wn 0 (ringTrap c w.div.popPc (lowestVa vs))
        match s.topHome cn qn wn w x with
        | .wait s' => s'.resumeLater cn qn wn
        | .fault c vs => again c vs s
        | .ok pas =>
          let s := (pas.zip w.div.top.toList).foldl (fun (s : State) p => s.engineWrite (fieldOf cn) p.1 p.2.bytes) s
          let below := if kept then n - 1 else n
          match s.regionAll cn w.mgmt w.ctx w.launch false ((List.range below).map fun i => s.ringVa cn qn wn w (b + i)) with
          | .wait s' => s'.resumeLater cn qn wn
          | .fault c vs => again c vs s
          | .ok pas =>
            let onChip := if kept then w.div.top.toList.map fun e => leNat e.bytes else []
            if stackOk D x (pas.map (fun pa => s.memNat pa 16) ++ onChip) = false then s.badEdit cn qn wn w
            else (s.setQuad cn qn (s.resumed cn qn wn w)).settle cn qn wn

end Sys2Proof.Machine
end

