-- ==== Sys2Proof/Machine/Debug.lean ====
section
/-! DEFINITION. Debugger, sampler and dumps (R359-R373): instruction names, TRACE and sample records, swap-out and resume of crews, debug
sessions, and the dump engine with its keys (R387). -/
namespace Sys2Proof.Machine

/-! ### Names and records (R359, R366-R369) -/

/-- The name of the word at a PC of a launch (R359). -/
def State.nameOf (s : State) (launch : Nat) (pc : Pc) : Word :=
  match s.launches.find launch with
  | none => 0xFFFFFFFE
  | some L =>
    let start := L.codeStart.toNat % 2 ^ 48
    if pc.toNat < start ∨ start + L.codeSize ≤ pc.toNat then 0xFFFFFFFE
    else
      let x := pc.toNat - start
      let below := L.sites.countP fun y => decide (y.trailer < x)
      match L.sites[below - 1]? with
      | some y => if below = 0 then BitVec.ofNat 32 (0xFFFF0000 + min 0xFFFF (x / 4))
                  else BitVec.ofNat 32 (min 0xFFFE (below - 1) * 2 ^ 16 + (if 0xFFFE < (x - y.trailer - 4) / 4 then 0xFFFF else (x - y.trailer - 4) / 4))
      | none => BitVec.ofNat 32 (0xFFFF0000 + (if 0xFFFE < x / 4 then 0xFFFF else x / 4))
/-- The sampler's context field matches a context (R366). -/
def Sampler.matches_ (x : Sampler) (ctx : Nat) : Bool :=
  let m := x.sel.extractLsb' 12 12
  (BitVec.ofNat 12 ctx &&& m) == (x.sel.extractLsb' 0 12 &&& m)
/-- A sample or trace record (R368). -/
def sampleBytes (cycle qn wn cls reason ctx : Nat) (a b : Word) : List Byte :=
  toLe cycle 4 ++ toLe (qn + 4 * wn + 64 * cls + 256 * reason) 2 ++ toLe (ctx % 4096) 2 ++ toLe a.toNat 4 ++ toLe b.toNat 4
/-- The place of a record in the order of R369: by CYCLE; in one cycle samples before traces, each by quadrant. -/
def recordKey (cycle qn : Nat) (traced : Bool) : Nat := 8 * cycle + (if traced then 4 else 0) + qn % 4
/-- A record for the sampler's buffer takes its place among those on their way; the last of them is dropped and counted where the buffer is full
(R369). -/
def State.putRecord (s : State) (cn ctx key : Nat) (bs : List Byte) : State :=
  let c := s.core cn
  let x := c.sampler
  let queue := x.queue.takeWhile (fun r => decide (r.1 ≤ key)) ++ (key, ctx, bs) :: x.queue.dropWhile (fun r => decide (r.1 ≤ key))
  s.setCore cn { c with sampler :=
    if x.wr + BitVec.ofNat 32 x.queue.length - x.rd = x.cap then
      { x with queue := queue.dropLast, dropped := if x.dropped = 0xFFFFFFFF#32 then x.dropped else x.dropped + 1 }
    else { x with queue := queue } }
/-- TRACE (R372): Writes a trace record when tracing is enabled and the context matches. -/
def execTrace (d : BitVec 6) (t : BitVec 15) (s : State) : Host.Outcome State Fault Refusal :=
  issue (Info.uniSrc d) true s fun V =>
    let x := V.c.sampler
    let s := V.retire (Info.uniSrc d)
    if !V.w.mgmt && x.ctl.getLsbD 1 && x.valid && x.matches_ V.w.ctx then
      s.putRecord V.cn V.w.ctx (recordKey V.c.cycle V.qn true) (sampleBytes V.c.cycle V.qn V.wn 3 0 V.w.ctx (t.setWidth 32) (V.uni d.toNat))
    else s

/-! ### Samples (R367, R368) -/

/-- The slot whose next word a sample names: the one that issues, that of the handler while one runs (R237), or the one that R142 would
choose. -/
def State.sampleSlot (s : State) (c : Core) (q : Quadrant) (wn : Nat) (w : Warp) : Nat :=
  let open_ (k : Nat) : Bool := (w.div.slot k).any fun p => p.run.isSome
  let rest : Nat := match w.div.s0, w.div.s1 with
    | none, some _ => 1
    | some p, some r => if open_ 0 then 0 else if open_ 1 then 1 else if p.depth < r.depth ∨ (p.depth = r.depth ∧ r.pc.toNat < p.pc.toNat) then 1 else 0
    | _, _ => 0
  match q.sel.filter (fun x => x.1 == wn), w.handler with
  | some (_, k), _ => k
  | none, some h => h.slot
  | none, none => (s.chooseSlot c q w).getD rest
/-- The reason of a stalled slot, the lowest of its waits, and the producer blamed (R368). -/
def stallOf (s : State) (cn : Nat) (w : Warp) (k : Nat) : Nat × Option Pc :=
  let byDest (u : Bool) (rs : List Nat) : Option Pc := (w.pend.find? fun o => o.uniform == u && rs.any o.dest.contains).map (·.pc)
  match w.div.slot k with
  | none => (14, none)
  | some p =>
    match p.wait with
    | .score ls us _ => (if (p.run.map fun r => r.words.length) = some 1 then 2 else 1, (byDest false ls).or (byDest true us))
    | .held r => (r, none)
    | .join => (6, none)
    | .brc _ _ _ => (6, none)
    | .barrier _ _ => (7, none)
    | .lrel _ => (9, none)
    | .tchk _ => (10, none)
    | .tchked _ => (10, none)
    | .pgtake _ => (11, none)
    | .none =>
      if p.run.isNone ∧ w.awaiting then (2, (w.pend.find? fun o => w.await.contains o.seq).map (·.pc))
      else if p.parked then (7, none)
      else if s.translate cn w.mgmt w.ctx .fetch (pcVa p.pc).toNat == .migrating then (11, none)
      else (14, none)
/-- The word that a path would issue next: where only the trailer of its run is left, the first of the next run (R368). -/
def Path.nextWord (p : Path) : Pc :=
  match p.run with
  | some r => if r.words.length ≤ 1 ∧ p.ends = .plain then r.trailerAt + 4 else p.pc
  | none => p.pc
/-- The class, reason and blamed producer of a picked warp: what it has done with its quadrant's turn in this CYCLE (R367); where it has had none,
whether it is ready. -/
def State.classify (s : State) (cn : Nat) (c : Core) (q : Quadrant) (wn : Nat) (w : Warp) : Nat × Nat × Option Pc :=
  let k := s.sampleSlot c q wn w
  let idle : Bool := (match w.nap with
    | some (t, true) => decide (c.cycle < t)
    | _ => false) || c.donated.contains w.ctx || c.late.any (fun x => x.1 == w.ctx && decide (s.time < x.2)) || w.yielded.isSome ||
    (s.outOfBudget c q w && (w.spent || (w.div.slot k).any fun p => p.run.isNone))
  let turn := q.turn.filter fun t => t.at_ == c.cycle && t.warp == wn
  if turn.any (·.reason.isNone) then (0, 0, none)
  else if w.trap.halted || w.stopped || c.phase == .draining then (2, 15, none)
  else if idle then (2, 13, none)
  else match turn.bind (·.reason) with
    | some r => (2, r, none)
    | none =>
      if s.ready cn c q wn w && !q.runs wn then (1, 0, none)
      else
        let r := stallOf s cn w k
        (2, r.1, r.2)
/-- The word that a sample of a warp names: the one that it has issued in this CYCLE, or the one that waits. -/
def State.sampleWord (s : State) (c : Core) (q : Quadrant) (wn : Nat) (w : Warp) : Option Pc :=
  match q.turn.filter fun t => t.at_ == c.cycle && t.warp == wn && t.reason.isNone with
  | some t => some t.pc
  | none => (w.div.slot (s.sampleSlot c q wn w)).map Path.nextWord
/-- One quadrant's sample at a tick: the next candidate after the one picked last. -/
def State.sampleQuad (s : State) (cn qn cycle : Nat) : State :=
  let c := s.core cn
  let q := c.quad qn
  match ((List.range 16).map fun i => (q.sampled + 1 + i) % 16).findSome? fun n => (q.warps.find n).bind fun w =>
      if !w.mgmt && c.sampler.matches_ w.ctx then some (n, w) else none with
  | none => s
  | some (wn, w) =>
    let (cls, reason, blamed) := s.classify cn c q wn w
    let name := match s.sampleWord c q wn w with
      | some pc => s.nameOf w.launch pc
      | none => 0xFFFFFFFF
    let producer := match blamed with
      | some pc => s.nameOf w.launch pc
      | none => 0xFFFFFFFF
    (s.setQuad cn qn { q with sampled := wn }).putRecord cn w.ctx (recordKey cycle qn false) (sampleBytes cycle qn wn cls reason w.ctx name producer)
/-- SAMPLER_TICK (R367): At each sampler period each quadrant samples its next candidate warp, quadrants ascending, once nothing more can issue in
its CYCLE. Records that are on their way are written first, once no tick of their cycle is left. CYCLE passes to the next tick where nothing can
issue before. -/
def execSamplerTick (core : Nat) (s : State) : Host.Outcome State Fault Refusal :=
  let c := s.core core
  let x := c.sampler
  if !x.queue.isEmpty && !c.tickBy c.cycle then .next (s.flushRecords core)
  else if !x.counts && !x.owed then .next s
  else if c.cycle < x.next then .next (if s.mayPass core x.next then s.passTo core x.next else s)
  else if s.cycleOver core = false then .next s
  else
    let s := s.setCore core { c with sampler := { x with next := x.tickFrom (x.next + 1), owed := false } }
    .next ((List.range 4).foldl (fun s n => s.sampleQuad core n x.next) s)

/-! ### Swap-out and resume (R363, R364) -/

/-- A halt that a debugger session takes: a comparator hit or a BKPT. -/
def debuggerCause (cause : Nat) : Bool := cause == 0x00F || (decide (0x100 ≤ cause) && decide (cause < 0x180))
/-- The crews of a warp's lanes, and the warps that hold a member of one, the warp itself among them. -/
def Warp.crews (w : Warp) : List Nat := (w.remap.map (·.2.1)).eraseDups
def Core.crewWarps (c : Core) (qn wn : Nat) (ks : List Nat) : List (Nat × Nat) :=
  ((qn, wn) :: ks.flatMap fun k => match c.crews.find k with
    | some x => x.members.map fun m => (m.quad, m.warp)
    | none => []).eraseDups
/-- A warp has come to its stop with nothing of its own on the way. -/
def State.warpStill (s : State) (cn : Nat) (c : Core) (q : Quadrant) (w : Warp) : Bool :=
  let atStop (k : Nat) : Bool := match w.div.slot k with
    | some p => p.run.isNone || !(s.warpFree cn c w && s.slotReady c q w k)
    | none => true
  (w.trap.halted || (w.stopped && atStop 0 && atStop 1)) && w.sb.all (fun b => b.lost) && w.pend.all LongOp.rests &&
    (c.ops.all (fun o => o.uid != w.uid) || c.ops.any (·.blocked))
/-- Mark the warps of a swap-out: those not halted stop, each at a full point. -/
def Core.askStop (c : Core) (ws : List (Nat × Nat)) : Core :=
  (ws.foldl (fun (c : Core) x => match (c.quad x.1).warps.find x.2 with
    | some w => if w.trap.halted || w.stopped then c else c.setQuad x.1 ((c.quad x.1).setWarp x.2 { w.fullPoint with stopped := true })
    | none => c) c).stopSelected fun w => w.stopped
/-- The part of a scratchpad that some crews hold. -/
def spansOf (m : Memory) (ks : Table Crew) : Memory :=
  m.filter fun b => ks.any fun k => decide (1024 * k.2.base ≤ b.1) && decide (b.1 < 1024 * (k.2.base + k.2.g))
/-- A haze lies in the span of one of some crews. -/
def hazeIn (ks : Table Crew) (h : Haze) : Bool :=
  h.shelf == .scratch && ks.any fun k => decide (1024 * k.2.base ≤ h.first) && decide (h.first < 1024 * (k.2.base + k.2.g))
/-- Save some warps and crews of a core and release their places; the crews keep their numbers and records. Runs that are open are given up, so
that no temporary set is held (R25, R75). -/
def State.swapOut (s : State) (cn : Nat) (ws : List (Nat × Nat)) (ks : List Nat) : State :=
  let s := ws.foldl (fun s x => (s.abandonHandler cn x.1 x.2).barasDone cn x.1 x.2) s
  let c := ws.foldl (fun (c : Core) x => match (c.quad x.1).warps.find x.2 with
    | some w => c.stopWarp x.1 x.2 { w with stopped := false }
    | none => c) (s.core cn)
  let crews := c.crews.filter fun k => ks.contains k.1
  let saved : Saved :=
    { tenant := c.tenant.getD 64
      warps := ws.filterMap fun x => ((c.quad x.1).warps.find x.2).map fun w => { quad := x.1, slot := x.2, warp := w, rows := (c.quad x.1).rowsOf w }
      crews := crews, scratch := spansOf c.scratch crews, larder := [], res := [], tiles := [], ops := [], kicks := [], spilled := []
      hazes := c.hazes.filter (hazeIn crews) }
  let c := ws.foldl (fun (c : Core) x => match (c.quad x.1).warps.find x.2 with
    | some w =>
      let q := ((c.quad x.1).zeroRows w.base w.allot w.ubase).deselectWarp x.2
      c.setQuad x.1 { q with warps := q.warps.drop x.2, temps := q.temps.filter fun t => t.2.1 ≠ x.2 }
    | none => c) c
  let c := { c with scratch := crews.foldl (fun m k => Memory.zero m (1024 * k.2.base) (1024 * k.2.g)) c.scratch
                    crews := c.crews.map fun (k : Nat × Crew) => if ks.contains k.1 then (k.1, { k.2 with swapped := true }) else k
                    swapped := c.swapped.put s.nextUid saved, hazes := c.hazes.filter fun h => !hazeIn crews h }
  { s with nextUid := s.nextUid + 1 }.setCore cn c
/-- CREW_SWAP_OUT (R363): A debugger hit swaps out the halted warp's crew: its other warps are told to stop, and once all have come to their
stop their state and the crew's are saved. -/
def execCrewSwapOut (core quad warp : Nat) (s : State) : Host.Outcome State Fault Refusal :=
  match s.warp core quad warp with
  | none => .next s
  | some w =>
    if !w.trap.halted || !debuggerCause w.trap.cause.toNat || !(s.ctx w.ctx).debug then .next s
    else
      let c := s.core core
      let ws := c.crewWarps quad warp w.crews
      let s := s.setCore core (c.askStop ws)
      let c := s.core core
      .next (if ws.all fun x => (match (c.quad x.1).warps.find x.2 with
          | some w => s.warpStill core c (c.quad x.1) w
          | none => true) then s.swapOut core ws w.crews else s)
/-- The former places of a swapped-out crew are free. -/
def Core.placesFree (c : Core) (x : Saved) : Bool :=
  (x.warps.all fun w =>
    let q := c.quad w.quad
    (q.warps.find w.slot).isNone && (List.range w.warp.allot).all (fun i => !q.rowHeld (w.warp.base + i)) && !q.rowHeld w.warp.ubase &&
      !q.rowHeld (w.warp.ubase + 1)) &&
  x.crews.all fun k => (List.range k.2.g).all fun i => !c.granuleHeld (k.2.base + i)
/-- A swapped-out crew in its former places; halted warps resume (R335). Members that left or statuses that came while it was out stand in its
record on the core. -/
def State.crewBack (s : State) (cn k : Nat) : State :=
  let c := s.core cn
  match c.swapped.find k with
  | none => s
  | some x =>
    if c.tenant ≠ some x.tenant ∨ c.phase ≠ .running ∨ c.placesFree x = false then s
    else
      let c := x.warps.foldl Core.restoreWarp
        { c with swapped := c.swapped.drop k
                 scratch := x.scratch.foldl (fun m b => Sparse.set 0#8 m b.1 b.2) c.scratch, hazes := c.hazes ++ x.hazes
                 crews := c.crews.map fun (y : Nat × Crew) => if x.crews.any fun z => z.1 == y.1 && z.2.key == y.2.key then (y.1, { y.2 with swapped := false }) else y }
      x.warps.foldl (fun s w => s.resume cn w.quad w.slot) (s.setCore cn c)
/-- CREW_RESUME (R364): A swapped-out crew is restored once its former places are free. -/
def execCrewResume (core k : Nat) (s : State) : Host.Outcome State Fault Refusal := .next (s.crewBack core k)

/-! ### Debug sessions (R379) -/

/-- OPEN_DEBUG_SESSION (R379): Mailbox command 0x03 enables comparators and swap-out for the context. -/
def execOpenDebugSession (ctx : Mail) (s : State) : Host.Outcome State Fault Refusal :=
  s.command ctx 3 fun s => (s.setCtx ctx.ctx { s.ctx ctx.ctx with debug := true }).mailbox ctx 0
/-- The comparators of a context are cleared. -/
def clearFor (ctx : Nat) (t : Table Comparator) : Table Comparator := t.filter fun x => (x.2.ctl.extractLsb' 0 12).toNat ≠ ctx
/-- A debug session of a context ends: its comparators are cleared and its halted warps and crews resume. -/
def State.endSession (s : State) (ctx : Nat) : State :=
  let s := s.setCtx ctx { s.ctx ctx with debug := false }
  let s := { s with cores := s.cores.map fun (c : Nat × Core) => (c.1, { c.2 with bps := clearFor ctx c.2.bps, wps := clearFor ctx c.2.wps }) }
  let s := s.cores.foldl (fun s c => c.2.warps.foldl (fun (s : State) (w : Nat × Nat × Warp) =>
    if w.2.2.ctx = ctx ∧ w.2.2.mgmt = false then s.resume c.1 w.1 w.2.1 else s) s) s
  s.cores.foldl (fun s c => (c.2.swapped.filter fun x => x.2.warps.any fun w => w.warp.ctx == ctx).foldl
    (fun (s : State) (x : Nat × Saved) => s.crewBack c.1 x.1) s) s
/-- CLOSE_DEBUG_SESSION (R379): Mailbox command 0x04 clears comparators and resumes halted crews; one whose places are not free is resumed when
they are. -/
def execCloseDebugSession (ctx : Mail) (s : State) : Host.Outcome State Fault Refusal :=
  s.command ctx 4 fun s => (s.endSession ctx.ctx).mailbox ctx 0

/-! ### Dumps (R370, R371, R387) -/

/-- One chunk before encryption: structure, core, offset or warp, plaintext. -/
structure Chunk where
  kind : Nat
  core : Nat
  at_ : Nat
  data : List Byte
  deriving DecidableEq, Repr
/-- Chunks of at most 65,536 bytes of a range. -/
def chunks (kind core at_ : Nat) (data : List Byte) : List Chunk :=
  (List.range ((data.length + 65535) / 65536)).map fun i => ⟨kind, core, at_ + 65536 * i, (data.drop (65536 * i)).take 65536⟩
/-- The bytes of a register row that a list of rows gives. -/
def rowBytes (rows : List (Nat × List Word)) (r : Nat) : List Byte :=
  match rows.find? fun x => x.1 == r with
  | some x => x.2.flatMap fun w => toLe w.toNat 4
  | none => List.replicate 128 0#8
/-- The bytes of a store buffer's entries: of each the address of its word, its location's address, its width and its data (DESIGN CHOICE,
notes/assumptions/37.md). -/
def storeBytes (sb : List BufStore) : List Byte :=
  sb.flatMap fun b => toLe b.pc.toNat 8 ++ toLe b.acc.va.toNat 8 ++ toLe b.acc.width 16 ++ toLe b.acc.data.toNat 16
/-- The bytes of a flash shadow: the path, the place in the ring, FMODE, vx and the kept rows, in whole units of 16 (DESIGN CHOICE,
notes/assumptions/37.md). -/
def Snapshot.bytes (x : Snapshot) : List Byte :=
  toLe x.pc.toNat 8 ++ toLe x.mask.toNat 4 ++ toLe x.depth 4 ++ toLe x.b 4 ++ toLe x.progress 4 ++ toLe x.fmode.toNat 8 ++
    (List.range 32).map (fun i => x.vx.getD i 0#8) ++ (x.keepV.flatMap fun r => (List.range 32).flatMap fun l => toLe (r.2.getD l 0#32).toNat 4) ++
    x.keepS.flatMap fun r => toLe r.1 8 ++ toLe r.2.toNat 8
/-- The chunks of a warp's store buffer and flash shadow, where it holds any (R370). -/
def heldChunks (cn i : Nat) (w : Warp) : List Chunk :=
  chunks 7 cn 0 (storeBytes w.sb) ++ (match w.rewind with
    | .flash x => chunks 8 cn 0 x.bytes
    | .full => []) |>.map fun x => { x with at_ := i }
/-- The chunks of a warp: lane rows, uniform rows with vx, divergence window with the ring top, trap window. -/
def State.warpChunks (s : State) (cn qn wn : Nat) (w : Warp) (rows : List (Nat × List Word)) : List Chunk :=
  let i := 16 * qn + wn
  let top := match w.div.top with
    | some e => e.bytes
    | none => List.replicate 16 0#8
  [⟨0, cn, i, (List.range w.allot).flatMap fun r => rowBytes rows (w.base + r)⟩,
   ⟨1, cn, i, rowBytes rows w.ubase ++ rowBytes rows (w.ubase + 1)⟩,
   ⟨5, cn, i, toLe (s.divWindow cn qn wn w) 64 ++ top⟩, ⟨6, cn, i, toLe (trapWindow w.trap) 32⟩] ++ heldChunks cn i w
/-- The chunks of what a core holds, or has saved, of a context's spans, reservations and tiles. -/
def storeChunks (cn ctx : Nat) (crews : Table Crew) (scratch : Memory) (res : Table Reservation) (larder : Memory) (tiles : Table Tile) : List Chunk :=
  ((crews.filter fun k => k.2.ctx == ctx && !k.2.swapped).flatMap fun k => chunks 2 cn (1024 * k.2.base) (Sparse.getAll 0#8 scratch (1024 * k.2.base) (1024 * k.2.g))) ++
  ((res.filter fun r => r.2.ctx == ctx).flatMap fun r => chunks 3 cn (1024 * r.2.base) (Sparse.getAll 0#8 larder (1024 * r.2.base) (1024 * r.2.count))) ++
  (tiles.filter fun t => t.2.owner == some ctx).map fun t => ⟨4, cn, 0x8000 * t.1, (List.range 0x6210).map (tileByte t.2)⟩
/-- The chunks of a core for a context, live and saved. -/
def State.coreChunks (s : State) (cn ctx : Nat) : List Chunk :=
  let c := s.core cn
  let live := (c.warps.filter fun w => w.2.2.ctx == ctx && !w.2.2.mgmt).flatMap fun w => s.warpChunks cn w.1 w.2.1 w.2.2 ((c.quad w.1).rowsOf w.2.2)
  let kept (x : Saved) := ((x.warps.filter fun w => w.warp.ctx == ctx).flatMap fun w => s.warpChunks cn w.quad w.slot w.warp w.rows) ++
    storeChunks cn ctx x.crews x.scratch x.res x.larder x.tiles
  live ++ storeChunks cn ctx c.crews c.scratch c.res c.larder c.tiles ++ c.saved.flatMap kept ++ c.swapped.flatMap (fun x => kept x.2) ++
    (c.l1.filter fun l => l.ctx == ctx).map fun l => ⟨9, cn, Config.freeNat s.fresh l.vline, s.memBytes (256 * l.pline) 256⟩
/-- A chunk as it is written: header, ciphertext, tag. -/
def Chunk.bytes (x : Chunk) (ctx number index : Nat) (key : List Byte) : List Byte :=
  let header := toLe 0x504D5544 4 ++ toLe 1 2 ++ toLe x.kind 2 ++ toLe ctx 4 ++ toLe x.core 4 ++ toLe x.at_ 4 ++ toLe x.data.length 4 ++
    toLe number 4 ++ toLe index 4
  header ++ gcmSeal key (toLe number 4 ++ toLe index 4 ++ toLe 0 4) header x.data
/-- The chunks that fit into a length, in order. -/
def fitting (ctx number : Nat) (key : List Byte) : Nat → Nat → List Chunk → List Byte
  | _, _, [] => []
  | index, len, x :: xs =>
    let b := x.bytes ctx number index key
    if b.length ≤ len then b ++ fitting ctx number key (index + 1) (len - b.length) xs else []
/-- A context is halted: all its warps, saved ones included, are halted or stand stopped at their stop, by a debugger session or because firmware
ends a launch (R370). -/
def State.ctxHalted (s : State) (ctx : Nat) : Bool :=
  ((s.ctx ctx).debug || s.launches.any fun L => L.2.ctx == ctx && L.2.ended && !L.2.complete) &&
    (s.allWarps.all fun x => x.2.2.2.ctx != ctx || x.2.2.2.mgmt || x.2.2.2.trap.halted ||
      (x.2.2.2.stopped && s.warpStill x.1 (s.core x.1) ((s.core x.1).quad x.2.1) x.2.2.2)) &&
    s.cores.all fun c => c.2.saved.all fun x => x.warps.all fun w => w.warp.ctx != ctx || w.warp.trap.halted
/-- DUMP (R371): Mailbox command 0x05 writes an encrypted dump of a halted context. -/
def execDump (ctx : Mail) (va len : Nat) (s : State) : Host.Outcome State Fault Refusal :=
  s.command ctx 5 fun s =>
    let n := ctx.ctx
    let t := s.tenant (n / 64)
    match t.key with
    | none => s.mailbox ctx 3
    | some key =>
      if !s.ctxHalted n || decide (2 ^ 32 ≤ t.dumps + 1) then s.mailbox ctx 3
      else if canonical (BitVec.ofNat 64 va) = false then s.mailbox ctx 2
      else
        let bs := fitting n (t.dumps + 1) key 0 len (s.cores.flatMap fun c => s.coreChunks c.1 n)
        match s.postVa n va bs with
        | .fault _ => s.mailbox ctx 2
        | .waits s' => s'.mailWaits ctx
        | .done s' => { s'.setTenant (n / 64) { t with dumps := t.dumps + 1 } with fresh := s'.fresh + 1 }.mailbox ctx 0
/-- SECURED_SESSION (R379): An SPDM secured session is established with the device, within which a tenant key may be installed. -/
def execSecuredSession (ctx : Nat) (s : State) : Host.Outcome State Fault Refusal :=
  if (s.contexts.find ctx).isNone then .next s else .next (s.setCtx ctx { s.ctx ctx with secured := true })
/-- INSTALL_TENANT_KEY (R387): Mailbox command 0x08 installs the tenant's dump key inside a secured session. -/
def execInstallTenantKey (ctx : Mail) (key : List (BitVec 8)) (s : State) : Host.Outcome State Fault Refusal :=
  s.command ctx 8 fun s =>
    if (s.ctx ctx.ctx).secured = false then s.mailbox ctx 3
    else if key.length ≠ 32 then s.mailbox ctx 2
    else (s.setTenant (ctx.ctx / 64) { s.tenant (ctx.ctx / 64) with key := some key }).mailbox ctx 0

end Sys2Proof.Machine
end

