-- ==== Sys2Proof/Machine/Device.lean ====
section
/-! DEFINITION. Host ports, contexts and peers as the host and firmware set them up (R374-R384), measurements and decode tables (R34, R385,
R386), and field health, self-test, starts and voltage (R388-R396). -/
namespace Sys2Proof.Machine

/-! ### Host ports (R375, R376) -/

/-- A host port. -/
def State.port (s : State) (n : Nat) : Port := (s.ports.find n).getD (Port.blank n)
/-- The port whose window covers a host-region line, up or down (R375). -/
def State.portFor (s : State) (line : Nat) : Option Nat :=
  if isHost (256 * line) then
    (s.ports.find? fun p => decide (p.2.base * 2 ^ 30 ≤ 256 * line) && decide (256 * line < (p.2.base + p.2.size) * 2 ^ 30)).map fun p =>
      p.2.first + line % (max 1 p.2.width)
  else none
/-- The host-region lines that the device holds or asks for and a port carries. -/
def State.linesOn (s : State) (port : Nat) : List Nat :=
  ((s.fields.flatMap fun f => f.2.l2.map (·.line) ++ f.2.txns.map (·.line) ++ f.2.dir.map (·.1)).filter fun l => s.portFor l == some port).eraseDups
/-- Some copy of a line holds dirty bytes. -/
def State.dirty (s : State) (line : Nat) : Bool := s.fields.any fun f => match f.2.line line with
  | some x => x.d0 || x.d1
  | none => false
/-- Drop every device copy of a host line: its dirty bytes are lost, so that it reads as host memory holds it; what is on the way for it goes. -/
def State.dropHostLine (s : State) (line : Nat) : State :=
  let lost (k : Nat) : Bool := s.fields.any fun f => match f.2.line line with
    | some x => if k = 0 then x.d0 else x.d1
    | none => false
  let back (k : Nat) (m : Memory) : Memory :=
    if lost k then Sparse.setAll 0#8 m (256 * line + 128 * k) (Sparse.getAll 0#8 s.behind (256 * line + 128 * k) 128) else m
  let s := { s with mem := back 1 (back 0 s.mem), behind := Sparse.clear (fun a => lineOf a == line) s.behind }
  let s := (s.invalidateOthers 42 line).setDir line ⟨.uncached, .none⟩
  { s with fields := s.fields.map fun (f : Nat × Field) => (f.1, { f.2 with txns := f.2.txns.filter fun t => t.line ≠ line })
           clusters := s.clusters.map fun (g : Nat × Cluster) =>
             (g.1, { g.2 with buses := g.2.buses.map fun b => (b.1, b.2.filter fun m => m.line ≠ line) }) }
/-- An access goes to a port. -/
def State.onPort (s : State) (port : Nat) (a : LaneAcc) : Bool := match a.loc with
  | .mem pa => s.portFor (lineOf pa) == some port
  | _ => false
/-- A warp's outstanding accesses on a port that goes down fail, and data that was to come over it is waited for no longer (R376). -/
def State.failWarp (s : State) (port : Nat) (w : Warp) : Warp :=
  let w := w.failLate (s.onPort port)
  { w with pend := w.pend.map fun (o : LongOp) => { o with due := o.due.filter fun l => s.portFor l != some port } }
def State.failQuad (s : State) (port : Nat) (q : Quadrant) : Quadrant :=
  { q with warps := q.warps.map fun (w : Nat × Warp) => (w.1, s.failWarp port w.2) }
def State.failCore (s : State) (port : Nat) (c : Core) : Core :=
  { c with quads := c.quads.map fun (q : Nat × Quadrant) => (q.1, s.failQuad port q.2) }
/-- PORT_DOWN (R376): A host port going down drops its host lines and fails outstanding accesses. What no peer has acknowledged is sent again
(R381). -/
def execPortDown (port : Nat) (s : State) : Host.Outcome State Fault Refusal :=
  if 8 ≤ port ∨ (s.port port).up = false then .next s
  else
    let ls := s.linesOn port
    let p := s.port port
    let n := (ls.filter s.dirty).length
    let s := { s with cores := s.cores.map fun (c : Nat × Core) => (c.1, s.failCore port c.2) }
    let s := ls.foldl State.dropHostLine s
    .next { s with ports := s.ports.put port { p with up := false, awaitAck := false, lost := p.lost + n }
                   out := s.out ++ s.peerSegs.flatMap s.resend }
/-- PORT_UP (R376): A returning port reports lost dirty lines and waits for acknowledgement. -/
def execPortUp (port : Nat) (s : State) : Host.Outcome State Fault Refusal :=
  let p := s.port port
  if p.up then .next s
  else .next { s with ports := s.ports.put port { p with up := true, awaitAck := true }, out := s.out ++ [.lostLines port p.lost] }
/-- LOST_LINES_ACK (R376): The host's acknowledgement lets host-region accesses resume on the port. -/
def execLostLinesAck (port : Nat) (s : State) : Host.Outcome State Fault Refusal :=
  let p := s.port port
  if p.up && p.awaitAck then .next { s with ports := s.ports.put port { p with awaitAck := false, lost := 0 } } else .next s

/-! ### Contexts (R377) -/

/-- A tenant holds a partition in some entry of a slot table, the one in force or the one that follows it. -/
def State.hasSlots (s : State) (tenant : Nat) : Bool :=
  (s.slots.table.toList ++ s.slots.next.toList).any fun t => t.entries.any fun e => e.partitions.any fun p => p.tenant == tenant
/-- OPEN_CONTEXT (R377): The host opens a context through the physical function, creating its virtual function, as the tenant's slot entries
allow. -/
def execOpenContext (port ctx : Nat) (s : State) : Host.Outcome State Fault Refusal :=
  let x := s.ctx ctx
  if 8 ≤ port ∨ 4096 ≤ ctx ∨ s.runs = false ∨ s.hasSlots (ctx / 64) = false ∨ x.ports.contains port then .next s
  else .next (s.setCtx ctx { x with ports := x.ports ++ [port] })
/-- What the device holds of a context goes: its queues, its pulls and takes, its names and translations. -/
def State.forgetCtx (s : State) (ctx : Nat) : State :=
  let s := s.clusters.foldl (fun s g => s.dropNames g.1 fun e => e.ctx == ctx) s
  { s with clusters := s.clusters.map fun (g : Nat × Cluster) => (g.1, { g.2 with tlb := g.2.tlb.filter fun e => e.ctx ≠ ctx })
           queues := s.queues.filter fun q => q.desc.ctx ≠ ctx, pulls := s.pulls.filter fun p => p.2.ctx ≠ ctx
           takes := s.takes.filter fun t => t.2.ctx ≠ ctx, contexts := s.contexts.drop ctx }
/-- CLOSE_CONTEXT (R377, R387): The host closes a context through the physical function, removing its virtual function; a context whose last
virtual function goes is closed, and the tenant's key is erased with its last context. It waits for the context's launches. -/
def execCloseContext (port ctx : Nat) (s : State) : Host.Outcome State Fault Refusal :=
  let x := s.ctx ctx
  if x.ports.contains port = false then .next s
  else if x.ports ≠ [port] then .next (s.setCtx ctx { x with ports := x.ports.filter (· ≠ port) })
  else if s.launches.any fun L => L.2.ctx == ctx && !L.2.complete then .next s
  else
    let s := s.forgetCtx ctx
    .next (if s.contexts.any fun y => y.1 / 64 == ctx / 64 then s else s.setTenant (ctx / 64) { s.tenant (ctx / 64) with key := none })

/-! ### Peers (R379, R380, R382) -/

/-- BIND_PEER (R382): Mailbox command 0x06 makes a connection to a peer context. -/
def execBindPeer (ctx : Mail) (device peerCtx : Nat) (s : State) : Host.Outcome State Fault Refusal :=
  s.command ctx 6 fun s =>
    let x := s.ctx ctx.ctx
    let cs := x.conns.filter fun c => !(c.device == device && c.failed)
    if 0xC0000 ≤ device ∨ device = s.deviceId ∨ 4096 ≤ peerCtx ∨ 64 ≤ cs.length ∨ cs.any (fun c => c.device == device) then s.mailbox ctx 2
    else (s.setCtx ctx.ctx { x with conns := cs ++ [{ device := device, peerCtx := peerCtx, failed := false, closing := false }] }).mailbox ctx 0
/-- UNBIND_PEER (R379): Mailbox command 0x07 closes a peer connection after its stores drain. -/
def execUnbindPeer (ctx : Mail) (device : Nat) (s : State) : Host.Outcome State Fault Refusal :=
  s.command ctx 7 fun s =>
    let x := s.ctx ctx.ctx
    if !x.conns.any fun c => c.device == device then s.mailbox ctx 2
    else if s.peerSegs.any fun p => p.ctx == ctx.ctx && p.device == device then
      (s.setCtx ctx.ctx { x with conns := x.conns.map fun (c : Conn) => if c.device = device then { c with closing := true } else c }).mailWaits ctx
    else (s.setCtx ctx.ctx { x with conns := x.conns.filter fun c => c.device ≠ device }).mailbox ctx 0
/-- PEER_CONNECTION_FAILURE (R382): An Amdador connection to a peer fails, making later peer requests and page pulls unreachable. -/
def execPeerConnectionFailure (ctx device : Nat) (s : State) : Host.Outcome State Fault Refusal :=
  let x := s.ctx ctx
  if x.conns.any fun c => c.device == device then
    .next (s.setCtx ctx { x with conns := x.conns.map fun (c : Conn) => if c.device = device then { c with failed := true } else c })
  else .next s
/-- No message is on its way between two cores whose path changes (R384). -/
def State.pairsEmpty (s : State) (link : Nat) : Bool :=
  s.cores.all fun c => (List.range 2772).all fun t => t == c.1 || !Config.reroutes link c.1 t || (s.messagesTo c.1 t).isEmpty
/-- LINK_DROPOUT (R384): A mesh link drops out and firmware removes forbidden turns, drains changed pairs and adds new turns: while it drains, new
messages of a pair whose path changes are held at their source; once every such pair is empty, the new turns are there. Another link waits. -/
def execLinkDropout (link : Nat) (s : State) : Host.Outcome State Fault Refusal :=
  if s.health.linksOut.contains link then .next s
  else match s.health.rerouting with
  | none => .next { s with health := { s.health with rerouting := some link } }
  | some l => if l = link ∧ s.pairsEmpty link then
      .next { s with health := { s.health with rerouting := none, linksOut := s.health.linksOut ++ [link] } } else .next s

/-! ### Images and measurements (R34, R385, R386) -/

/-- The measurement slots of the decode tables and of the slot table. -/
def measureSlot (table : Nat) : Nat := 0x100 + table
def slotTableMeasure : Nat := 0x200
/-- Put a measurement in its slot. -/
def putMeasure (ms : List (Nat × Nat × BitVec 512)) (m : Nat × Nat × BitVec 512) : List (Nat × Nat × BitVec 512) := ms.filter (fun x => x.1 ≠ m.1) ++ [m]
/-- DECODE_TABLE_LOAD (R34): Firmware verifies and loads a decode-table image into a slot that no resident context has selected. -/
def execDecodeTableLoad (slot : Nat) (image : TableImage) (s : State) : Host.Outcome State Fault Refusal :=
  if (slot ≠ 2 ∧ slot ≠ 3) ∨ imageAccepted image = false ∨ image.version < s.rollback ∨
      (s.launches.any fun L => L.2.started && !L.2.complete && L.2.rcd.table == slot) then .next s
  else .next { s with tables := s.tables.put slot image
                      measurements := putMeasure s.measurements (measureSlot slot, image.version, Config.measuredTable image) }
/-- The decode-table slots that a context's resident launches select. -/
def State.tablesOf (s : State) (ctx : Nat) : List Nat :=
  ((s.launches.filter fun L => L.2.ctx == ctx && L.2.started && !L.2.complete).map fun L => L.2.rcd.table).eraseDups
/-- The device's evidence, signed (R386). -/
def State.evidence (s : State) (function nonce : Nat) (seen : List (Nat × Nat × BitVec 512)) (key : Option Bool) : Out :=
  .evidence function nonce seen s.deviceId key (Config.attest function nonce seen s.deviceId key) Config.attestChain
/-- GET_MEASUREMENTS (R386): An SPDM GET_MEASUREMENTS request returns signed measurement evidence: every measurement through a physical function
(4,096 and up); through a context's virtual function, those of the device and of the context's own decode-table slot, with its key flag. -/
def execGetMeasurements (function nonce : Nat) (s : State) : Host.Outcome State Fault Refusal :=
  let table := match s.slots.table with
    | some t => [(slotTableMeasure, 0, Config.measuredSlots t)]
    | none => []
  let all := s.measurements ++ table
  if 4096 ≤ function then .next { s with out := s.out ++ [s.evidence function nonce all none] }
  else if (s.contexts.find function).isNone then .next s
  else
    let mine := s.tablesOf function
    let seen := all.filter fun m => m.1 < 0x100 || slotTableMeasure ≤ m.1 || mine.any fun t => m.1 == measureSlot t
    .next { s with out := s.out ++ [s.evidence function nonce seen (some (s.tenant (function / 64)).key.isSome)] }

/-! ### Health (R388-R393) -/

/-- The lost data of a warp whose row, word, line or store entry is gone: the cause is raised against it (R331). -/
def State.loseWarp (s : State) (x : LostData) : State :=
  match s.warp x.core x.quad x.warp with
  | none => s
  | some w =>
    let k := match ((s.core x.core).quad x.quad).sel with
      | some (n, k) => if n = x.warp then k else if w.div.s0.isSome then 0 else 1
      | none => if w.div.s0.isSome then 0 else 1
    match w.div.slot k with
    | none => s
    | some p =>
      if w.trap.halted then
        -- it is raised once the warp goes on; only the Larder's loss is a deferred fault (R331, R332)
        s.setWarp x.core x.quad x.warp { w with trap := { w.trap with
          deferred := w.trap.deferred ++ [{ op := 0, cause := x.cause, epc := pcVa p.pc, eva := 0, fmask := p.em, reissue := none, plain := true }] } }
      else s.mgmtTrap x.core x.quad x.warp k
        { cause := x.cause, epc := pcVa p.pc, eva := 0, fmask := p.em, replay := p.em, again := false, isDeferred := false, escalated := false
          service := none }
/-- The first outstanding operation of a warp, on the array or queued. -/
def State.opOfWarp (s : State) (x : LostData) : Option MatOp :=
  let c := s.core x.core
  (c.array.toList ++ c.quads.flatMap fun q => q.2.mq).find? fun o => o.quad == x.quad && o.warp == x.warp
/-- What an event has lost (R290, R331): a cause against the warp; marks in a tile; for a checksum disagreement (0x088) a checked step that
has computed wrongly (R289); page-table nodes that a walk can read no more (R233). -/
def State.lose (s : State) (x : LostData) : State :=
  let c := s.core x.core
  if x.cause = 0x182 then match s.opOfWarp x with
    | some o => s.defer x.core o 0x182 0 false
    | none => s
  else if x.cause = 0x183 then
    let t := c.tile x.tile
    let new := (x.elements.filter fun e => decide (e < 4096) && !t.marks.contains e).eraseDups
    let s := s.setCore x.core { c with tiles := c.tiles.put x.tile { t with marks := t.marks ++ new } }
    match s.warp x.core x.quad x.warp with
    | some w => s.countFault w.launch
    | none => s
  else if x.cause = 0x088 then match c.array with
    | some o => if o.pr.getLsbD 14 || s.health.checksumMode then s.setCore x.core { c with array := some { o with bad := true } } else s
    | none => s
  else if x.cause = 0x04B then
    (if decide (0x03EF00000000 ≤ 256 * x.line) && decide (256 * x.line < s.nodeNext) && !s.unreadable.contains x.line then
      { s with unreadable := s.unreadable ++ [x.line] } else s)
  else if x.cause = 0x180 ∨ x.cause = 0x181 ∨ x.cause = 0x184 ∨ x.cause = 0x185 ∨ x.cause = 0x186 then s.loseWarp x
  else s
/-- FAULT_EVENT (R390): A detected soft error, checksum disagreement or ring check failure is counted as transient or lasting, and what it has
lost is reported. -/
def execFaultEvent (unit : HealthUnit) (lost : Option LostData) (s : State) : Host.Outcome State Fault Refusal :=
  if unitExists unit = false then .next s
  else
    let s := s.countEvent unit
    .next (match lost with
      | some x => s.lose x
      | none => s)
/-- A core holds a launch (R391): one that runs on it. State that a drain or a swap-out has saved names the logical core and is restored onto the
spare (R392); where there is none, a launch whose state is saved counts as held (DESIGN CHOICE, notes/assumptions/69.md). -/
def State.holdsLaunch (s : State) (cn : Nat) : Bool :=
  s.launches.any fun L => L.2.started && !L.2.complete && decide (L.2.rcd.c0 ≤ cn) && decide (cn < L.2.rcd.c0 + L.2.rcd.m) &&
    ((s.core cn).tenant == some (L.2.ctx / 64) || (s.cluster (clusterOf cn)).spareUsed)
/-- The events counted against a core's own structures. -/
def unitOfCore (cn : Nat) : HealthUnit → Bool
  | .registerFile c _ => c == cn
  | .coreStores c => c == cn
  | .matrixArray c => c == cn
  | .l1 c => c == cn
  | _ => false
/-- CORE_RETIRE (R392): A suspect core with no launch is retired and its name passes to its cluster's spare; without one the name is absent.
The saved state of the name stays with it; its L1 goes with the old holder (R383). -/
def execCoreRetire (core : Nat) (s : State) : Host.Outcome State Fault Refusal :=
  if (s.core core).suspect = false ∨ s.holdsLaunch core then .next s
  else
    let g := clusterOf core
    let s := (s.core core).l1.foldl (fun s x => s.dropRevBit core x.pline) s
    let s := { s with health := { s.health with events := s.health.events.filter fun x => !unitOfCore core x.1 } }
    let c := { s.core core with suspect := false, l1 := [], scratch := [], larder := [], tiles := [], hazes := [] }
    .next (if (s.cluster g).spareUsed then s.setCore core { c with absent := true, tenant := none, phase := .idle }
      else (s.setCore core { c with physical := 2688 + g }).setCluster g { s.cluster g with spareUsed := true })
/-- GROUP_SWITCH (R393): At the announced switch frame receivers read a spare wavelength group in place of the dead one; the messages that were
held go out on it in their order. -/
def execGroupSwitch (group : Nat) (s : State) : Host.Outcome State Fault Refusal :=
  match s.health.switching.find? fun x => x.1 == group, s.groupOwner group with
  | some x, some g =>
    .next { s.setCluster g { s.cluster g with group := x.2 } with
      health := { s.health with switching := s.health.switching.filter fun y => y.1 ≠ group } }
  | _, _ => .next s
/-- SCAN_TEST (R388): in scan mode, a core that is idle for the entry receives a self-test; one that fails is a lasting fault of it. -/
def execScanTest (core : Nat) (failed : Bool) (s : State) : Host.Outcome State Fault Refusal :=
  let c := s.core core
  if s.health.checksumMode || decide (2688 ≤ core) || c.absent || c.phase != .idle || (s.tenantAt core s.time).isSome then .next s
  else
    let s := s.setCore core { c with scanned := s.time }
    .next (if failed then s.suspect core else s)

/-! ### Starts (R394) -/

/-- A machine that has just started, with what outlives a start: TIME, the boot record, the fused counter, the tenants' dump numbers (R371),
the turns to come. -/
def State.restarted (s : State) (b : Boot) : State :=
  { State.reset with agenda := s.agenda, fresh := s.fresh, nextUid := s.nextUid, time := s.time, rollback := s.rollback, out := s.out, boot := b
                     tenants := s.tenants.map fun t => (t.1, { Tenant.blank with dumps := t.2.dumps }) }
/-- A start fails: the count grows, and the third failure in a row leads to the minimal mode. The images that the device had stay (R385). -/
def State.startFails (s : State) (reason : Nat) (field : Option Nat) : State :=
  let n := min 3 (s.boot.failed + 1)
  { s.restarted { failed := n, minimal := n == 3, reason := reason, field := field, time := s.time, starting := n != 3 } with
    tables := s.tables, measurements := s.measurements }
/-- Two host windows have no address in common (R375). -/
def windowsApart (a b : PortSetup) : Bool := decide (a.base + a.size ≤ b.base) || decide (b.base + b.size ≤ a.base)
/-- A decoder maps HBM or core windows, and no broadcast window (R378). -/
def decoderOk (d : Nat × Nat × Nat) : Bool :=
  decide (d.2.2 + d.2.1 ≤ 0x03F000000000) || (decide (0x800000000000 ≤ d.2.2) && decide (d.2.2 + d.2.1 ≤ 0x800000000000 + 0x400000 * 2772))
/-- What firmware sets for one port among the others stands by R374, R375 and R378. -/
def setupOk (all : List (Nat × PortSetup)) (x : Nat × PortSetup) : Bool :=
  let p := x.2
  decide (x.1 < 8) && [1, 2, 4, 8].contains p.width && p.first % p.width == 0 && decide (p.first ≤ x.1) && decide (x.1 < p.first + p.width) &&
    decide (0x30000 ≤ p.base) && decide (p.base + p.size ≤ 0x40000) && decide (p.ctx < 4096) && decide (p.decoders.length ≤ 8) &&
    p.decoders.all decoderOk && all.all fun y =>
      if y.1 = x.1 then y.2 == p
      else if y.2.first = p.first ∧ y.2.width = p.width then y.2.base == p.base && y.2.size == p.size
      else (decide (y.2.first + y.2.width ≤ p.first) || decide (p.first + p.width ≤ y.2.first)) && windowsApart y.2 p
/-- The ports as firmware sets them; settings that break the rules are not made. -/
def portsOf (ps : List (Nat × PortSetup)) : Table Port :=
  if ps.all (setupOk ps) then
    ps.foldl (fun (m : Table Port) x =>
      m.put x.1
        { Port.blank x.1 with
          base := x.2.base, size := x.2.size, first := x.2.first, width := x.2.width, ctx := x.2.ctx, decoders := x.2.decoders }) []
  else []
/-- DEVICE_START (R394): The device starts, loads signed images and counts failed starts toward minimal mode. An image whose signature does not
verify, or that is below the anti-rollback counter, is rejected (R385). A device id that names no device is none that the fabric manager gives
(R380). -/
def execDeviceStart (report : StartReport) (s : State) : Host.Outcome State Fault Refusal :=
  let bad := report.images.any fun m => !m.signed || decide (m.version < s.rollback)
  if report.reason ≠ 0 then .next (s.startFails report.reason (if report.field < 42 then some report.field else none))
  else if bad then .next (s.startFails 1 none)
  else if 0xC0000 ≤ report.deviceId then .next s
  else
    let t := s.restarted { failed := 0, minimal := false, reason := 0, field := none, time := s.time, starting := false }
    let t := report.targets.foldl (fun (t : State) x => if x.1 < 42 then t.setField x.1 { t.field x.1 with target := x.2 } else t) t
    .next { t with deviceId := report.deviceId, measurements := report.images.map fun m => (m.slot, m.version, m.hash), ports := portsOf report.ports
                   health := { t.health with checksumMode := report.checksumMode } }
/-- START_TIMEOUT (R394): A start not finished within 60 s fails. -/
def execStartTimeout (s : State) : Host.Outcome State Fault Refusal :=
  if s.boot.starting then .next (s.startFails 5 none) else .next s
/-- RESTART (R394): A write of 1 to the restart word in minimal mode starts the device again. -/
def execRestart (value : BitVec 32) (s : State) : Host.Outcome State Fault Refusal :=
  if s.boot.minimal && value == 1#32 then .next { s with boot := { s.boot with starting := true } } else .next s

/-! ### Voltage (R395, R396) -/

/-- The record's 16 bytes (R396). -/
def MinVolt.bytes (m : MinVolt) : List Byte :=
  toLe m.millivolts 2 ++ toLe (if m.empty then 0x8000 else m.sensor) 2 ++ toLe m.stretched 4 ++ toLe m.time 8
/-- Stretched cycles are counted, saturating (R396). -/
def MinVolt.count (m : MinVolt) (n : Nat) : MinVolt := { m with stretched := min 0xFFFFFFFF (m.stretched + n) }
/-- A field's record with the cycles that its clock has made since stretching began, or since they were last counted (R82, R395). -/
def State.stretched (s : State) (f : Nat) : MinVolt :=
  let x := s.field f
  if x.stretching then x.minVolt.count (s.fieldClock f - x.stretchedAt) else x.minVolt
/-- STRETCH_START (R395): A sensor more than 40 mV below target stretches every core clock edge of the field. -/
def execStretchStart (field : Sensors) (s : State) : Host.Outcome State Fault Refusal :=
  let f := s.field field.field
  if 42 ≤ field.field ∨ f.stretching ∨ !field.readings.any fun r => decide (r.1 < 256) && decide (r.2 + 40 < f.target) then .next s
  else .next (s.setField field.field { f with stretching := true, stretchedAt := s.fieldClock field.field })
/-- STRETCH_END (R395): Every sensor within 30 mV of target ends clock stretching. -/
def execStretchEnd (field : Sensors) (s : State) : Host.Outcome State Fault Refusal :=
  let f := s.field field.field
  if 42 ≤ field.field ∨ f.stretching = false ∨
      !(List.range 256).all fun i => field.readings.any fun r => r.1 == i && decide (f.target ≤ r.2 + 30) then .next s
  else .next (s.setField field.field { f with stretching := false, minVolt := s.stretched field.field })
/-- NEW_LOWEST_READING (R396): A sensor reading below the field's recorded minimum updates the minimum-voltage record. -/
def execNewLowestReading (field millivolts sensor : Nat) (s : State) : Host.Outcome State Fault Refusal :=
  let f := s.field field
  if 42 ≤ field ∨ 256 ≤ sensor ∨ 65536 ≤ millivolts ∨ (f.minVolt.empty = false ∧ f.minVolt.millivolts ≤ millivolts) then .next s
  else .next (s.setField field { f with minVolt :=
    { f.minVolt with millivolts := millivolts, sensor := sensor, empty := false, time := s.time } })
/-- A minimum-voltage record is read: it is as in the reset state after. -/
def State.readVolt (s : State) (f : Nat) : State :=
  s.setField f { s.field f with minVolt := MinVolt.reset, stretchedAt := s.fieldClock f }
/-- MIN_VOLTAGE_READ (R396): A read of a minimum-voltage record returns it and resets it. -/
def execMinVoltageRead (field : Nat) (s : State) : Host.Outcome State Fault Refusal :=
  if 42 ≤ field then .next s
  else .next { s.readVolt field with out := s.out ++ [.minVolt field (s.stretched field).bytes] }

/-! ### BAR 0 of the functions (R379, R394, R396) -/

/-- The boot record's 64 bytes (R394). -/
def Boot.bytes (b : Boot) : List Byte :=
  toLe b.failed 4 ++ toLe (if b.minimal then 1 else 0) 4 ++ toLe b.reason 4 ++ toLe (b.field.getD 0xFFFFFFFF) 4 ++ toLe b.time 8 ++ List.replicate 40 0#8
/-- A byte of BAR 0 of the physical function: the boot record, the minimum-voltage records, and, in minimal mode, the image-load area. -/
def State.physicalByte (s : State) (off : Nat) : Byte :=
  if 0x800 ≤ off ∧ off < 0x840 then s.boot.bytes.getD (off - 0x800) 0#8
  else if 0x900 ≤ off ∧ off < 0x900 + 16 * 42 then (s.stretched ((off - 0x900) / 16)).bytes.getD (off % 16) 0#8
  else if s.boot.minimal ∧ 0x100000 ≤ off ∧ off < 0x100000 + 2 ^ 26 then Sparse.get 0#8 s.imageArea (off - 0x100000)
  else 0#8
/-- A byte of BAR 0 of a virtual function: its command area and status word. -/
def State.virtualByte (s : State) (port ctx off : Nat) : Byte :=
  let b := ((s.ctx ctx).mail.find port).getD {}
  if 0x1000 ≤ off ∧ off < 0x1040 then Sparse.get 0#8 b.area (off - 0x1000)
  else if 0x1040 ≤ off ∧ off < 0x1044 then b.status.extractLsb' (8 * (off - 0x1040)) 8
  else 0#8
/-- A write to BAR 0: in minimal mode the image-load area takes it, and a 1 in the restart word starts the device again; of a virtual function the
command area and the status word take it; nothing else does. -/
def State.barWrite (s : State) (function : Option (Nat × Nat)) (off : Nat) (bs : List Byte) : State :=
  let within (lo n : Nat) : List (Nat × Byte) := (bs.zipIdx.filterMap fun x => if lo ≤ off + x.2 ∧ off + x.2 < lo + n then some (off + x.2 - lo, x.1) else none)
  match function with
  | none =>
    if s.boot.minimal = false then s
    else
      let s := { s with imageArea := (within 0x100000 (2 ^ 26)).foldl (fun m x => Sparse.set 0#8 m x.1 x.2) s.imageArea }
      if leNat ((within 0x840 4).map (·.2)) = 1 ∧ off = 0x840 then { s with boot := { s.boot with starting := true } } else s
  | some (p, ctx) =>
    let x := s.ctx ctx
    let b := (x.mail.find p).getD {}
    let area := (within 0x1000 64).foldl (fun m y => Sparse.set 0#8 m y.1 y.2) b.area
    let status := BitVec.ofNat 32 ((within 0x1040 4).foldl (fun n y => putByte n y.1 y.2) b.status.toNat)
    s.setCtx ctx { x with mail := x.mail.put p { b with area := area, status := status } }
/-- The host reads or writes BAR 0 of the physical function, or of a virtual function that it has opened; a read of a minimum-voltage record resets
it (R396). -/
def State.barAccess (s : State) (function : Option (Nat × Nat)) (off len : Nat) (wdata : Option (List Byte)) : State :=
  let there := match function with
    | none => true
    | some (p, ctx) => (s.contexts.find ctx).isSome && (s.ctx ctx).ports.contains p
  if there = false then s
  else match wdata with
  | some bs => s.barWrite function off bs
  | none =>
    let data := (List.range len).map fun i => match function with
      | none => s.physicalByte (off + i)
      | some (p, ctx) => s.virtualByte p ctx (off + i)
    let read := if function.isNone then (List.range 42).filter fun f => decide (off < 0x900 + 16 * f + 16) && decide (0x900 + 16 * f < off + len) else []
    { read.foldl State.readVolt s with out := s.out ++ [.bar function off data] }

end Sys2Proof.Machine
end

