-- ==== Sys2Proof/Machine/Divergence.lean ====
section
/-! DEFINITION. Branches, calls, returns and reconvergence (R144, R145, R149, R152-R157, R161-R165, R168). -/
namespace Sys2Proof.Machine

/-- A transfer of the whole slot, taken or not (R161). -/
def View.uniformBranch (V : View) (i : Info) (taken : Bool) (tgt : Pc) : State :=
  if taken then (V.goto i tgt true).put else (V.goto i (V.r.trailerAt + 4) false).put

/-! ### Indirect targets (R26, R163) -/

/-- What an indirect target meets: nothing, a cause, or a page that is being pulled. -/
inductive Landing where
  | ok
  | fault (cause : Nat)
  | wait
  deriving DecidableEq, Repr
def View.landing (V : View) (t : Dword) : Landing :=
  if canonical t = false then .fault 0x009
  else if t.extractLsb' 0 2 ≠ 0#2 then .fault 0x008
  else match V.s.fetchWord V.cn V.w (t.extractLsb' 0 48) with
    | .error none => .wait
    | .error (some c) => .fault c
    | .ok x => if isTrailer x || !V.s.isLand V.w.mgmt V.w.launch x then .fault 0x008 else .ok
/-- The cause reported where lanes fail differently: 0x009, then 0x008, then the fetch causes in their order. -/
def landingCause (cs : List Nat) : Nat :=
  if cs.contains 0x009 then 0x009 else if cs.contains 0x008 then 0x008 else (firstCause cs).getD 0
/-- An indirect transfer: every lane of EM is checked first; a bad target completes for no lane. -/
def View.indirect (V : View) (tgt : Nat → Dword) (eff : (Nat → Pc) → State) : State :=
  let got := (lanesOf V.em).map fun l => (l, V.landing (tgt l))
  let bad := got.filterMap fun x => match x.2 with
    | .fault c => some (x.1, c)
    | _ => none
  match bad with
  | (l, _) :: _ => V.fault (landingCause (bad.map (·.2))) (tgt l) (maskOf fun l => bad.any fun x => x.1 == l)
  | [] =>
    match got.find? fun x => x.2 == .wait with
    | some (l, _) => { V with s := V.s.startPull V.w.ctx (tgt l).toNat }.hold 11
    | none => eff fun l => (tgt l).extractLsb' 0 48

/-- BRV (R162): Lane branch on a mask that splits the path under R144. -/
def execBrv (m : BitVec 6) (o : BitVec 15) (s : State) : Host.Outcome State Fault Refusal :=
  issue ((Info.l [] [one m]).transfer) true s fun V => V.branch ((Info.l [] [one m]).transfer) (V.uni m.toNat) (target V.p.pc o)
/-- BRC (R162): Compacting lane branch that waits for the crew and runs the Mangle. -/
def execBrc (m : BitVec 6) (o : BitVec 15) (s : State) : Host.Outcome State Fault Refusal :=
  issue ((Info.l [] [one m]).transfer) true s fun V => 
    if V.brcOk = false then V.fault 0x0C7 0#64 V.em
    else
      let taken := V.em &&& V.uni m.toNat
      let W := V.advance ((Info.l [] [one m]).transfer)
      let W := if taken = 0#32 then W else W.endWindows
      { W with p := { W.p with ends := .brc V.p.pc (target V.p.pc o) taken } }.put
/-- JMPI (R163): Transfers each lane to its own LAND-headed target from a lane pair. -/
def execJmpi (a : BitVec 7) (s : State) : Host.Outcome State Fault Refusal :=
  issue ((Info.l [two a] []).transfer) true s fun V => V.indirect (V.lane64 a.toNat) fun t => V.spread ((Info.l [two a] []).transfer) true (groupLanes t V.em) V.p.depth []
/-- CALLI (R163): Calls a per-lane LAND-headed target, writing return frames. -/
def execCalli (a : BitVec 7) (s : State) : Host.Outcome State Fault Refusal :=
  issue ((Info.l [two a] []).transfer) true s fun V => V.indirect (V.lane64 a.toNat) fun t => V.call ((Info.l [two a] []).transfer) t
/-- RET (R164): Returns each lane through its frame at the current depth. -/
def execRet (s : State) : Host.Outcome State Fault Refusal :=
  issue ((Info.l [] []).transfer) true s fun V => V.ret ((Info.l [] []).transfer)
/-- BRA (R161): Unconditional direct branch of the whole slot. -/
def execBra (o : BitVec 21) (s : State) : Host.Outcome State Fault Refusal :=
  issue ((Info.u [] []).transfer) true s fun V => V.uniformBranch ((Info.u [] []).transfer) true (target V.p.pc o)
/-- BZ (R161): Branches the whole slot if a uniform register is zero. -/
def execBz (a : BitVec 6) (o : BitVec 15) (s : State) : Host.Outcome State Fault Refusal :=
  issue ((Info.uniSrc a).transfer) true s fun V => V.uniformBranch ((Info.uniSrc a).transfer) (V.uni a.toNat == 0#32) (target V.p.pc o)
/-- BNZ (R161): Branches the whole slot if a uniform register is non-zero. -/
def execBnz (a : BitVec 6) (o : BitVec 15) (s : State) : Host.Outcome State Fault Refusal :=
  issue ((Info.uniSrc a).transfer) true s fun V => V.uniformBranch ((Info.uniSrc a).transfer) (V.uni a.toNat != 0#32) (target V.p.pc o)
/-- BNEG (R161): Branches the whole slot if bit 31 of a uniform register is set. -/
def execBneg (a : BitVec 6) (o : BitVec 15) (s : State) : Host.Outcome State Fault Refusal :=
  issue ((Info.uniSrc a).transfer) true s fun V => V.uniformBranch ((Info.uniSrc a).transfer) ((V.uni a.toNat).getLsbD 31) (target V.p.pc o)
/-- CALL (R163): Direct call that increments depth and writes return frames. -/
def execCall (o : BitVec 21) (s : State) : Host.Outcome State Fault Refusal :=
  issue ((Info.u [] []).transfer) true s fun V => V.call ((Info.u [] []).transfer) fun _ => target V.p.pc o
/-- CALLS (R163): Calls one LAND-headed target taken from a uniform pair. -/
def execCalls (a : BitVec 6) (s : State) : Host.Outcome State Fault Refusal :=
  issue ((Info.u [] [two a]).transfer) true s fun V => V.indirect (fun _ => V.uni64 a.toNat) fun t => V.call ((Info.u [] [two a]).transfer) t
/-- RETS (R164): U-set return through the lanes' frames. -/
def execRets (s : State) : Host.Outcome State Fault Refusal :=
  issue ((Info.u [] []).transfer) true s fun V => V.ret ((Info.u [] []).transfer)
/-- RCV (R149): Parks the slot at the reconvergence point and tries merges. -/
def execRcv (s : State) : Host.Outcome State Fault Refusal :=
  issue ((Info.u [] []).transfer) true s fun V => 
    if V.rcvClash then V.fault 0x0C7 0#64 V.em
    else
      let W := (V.advance ((Info.u [] []).transfer)).endWindows
      { W with p := { W.p with ends := .park, after := V.c.cycle + 2 } }.put
/-- LAND (R165): Marks an indirect target; otherwise acts as NOP. -/
def execLand (s : State) : Host.Outcome State Fault Refusal :=
  issueReg (Info.u [] []) s fun V => V
/-- NOP (R165): Does nothing. -/
def execNop (s : State) : Host.Outcome State Fault Refusal :=
  issueReg (Info.u [] []) s fun V => V

end Sys2Proof.Machine
end

