-- ==== Sys2Proof/Machine/LaneFloat.lean ====
section
/-! DEFINITION. Floating-point lane operations (R105-R112). -/
namespace Sys2Proof.Machine

/-- An FP32 operation on lane patterns (R106). -/
def fp32 (md : FMode) (op : Fmt → FMode → Nat → Nat → Nat) (a b : Word) : Word :=
  BitVec.ofNat 32 (op Fmt.fp32 md a.toNat b.toNat)
/-- An FP64 operation (R111). -/
def fp64 (md : FMode) (op : Fmt → FMode → Nat → Nat → Nat) (a b : Dword) : Dword :=
  BitVec.ofNat 64 (op Fmt.fp64 md a.toNat b.toNat)
def fma32 (md : FMode) (a b d : Word) : Word := BitVec.ofNat 32 (fpFma Fmt.fp32 md a.toNat b.toNat d.toNat)
def fma64 (md : FMode) (a b d : Dword) : Dword := BitVec.ofNat 64 (fpFma Fmt.fp64 md a.toNat b.toNat d.toNat)
def un32 (md : FMode) (op : Fp → Fp) (a : Word) : Word := BitVec.ofNat 32 (fpUn Fmt.fp32 md op a.toNat)
def un64 (md : FMode) (op : Fp → Fp) (a : Dword) : Dword := BitVec.ofNat 64 (fpUn Fmt.fp64 md op a.toNat)
/-- A result made of two FP16 elements (R112). -/
def pack16 (lo hi : Nat) : Word := BitVec.ofNat 32 (lo + hi * 2 ^ 16)
def f16x2 (md : FMode) (op : Fmt → FMode → Nat → Nat → Nat) (a b : Word) : Word :=
  pack16 (op Fmt.fp16 md (a.extractLsb' 0 16).toNat (b.extractLsb' 0 16).toNat)
    (op Fmt.fp16 md (a.extractLsb' 16 16).toNat (b.extractLsb' 16 16).toNat)
def fma16x2 (md : FMode) (a b d : Word) : Word :=
  pack16 (fpFma Fmt.fp16 md (a.extractLsb' 0 16).toNat (b.extractLsb' 0 16).toNat (d.extractLsb' 0 16).toNat)
    (fpFma Fmt.fp16 md (a.extractLsb' 16 16).toNat (b.extractLsb' 16 16).toNat (d.extractLsb' 16 16).toNat)
/-- The relations of FCMP and DCMP on the sign of a comparison (R108). -/
def isEq (c : Int) : Bool := c == 0
def isLt (c : Int) : Bool := decide (c < 0)
def isLe (c : Int) : Bool := decide (c ≤ 0)

/-- FADD (R106): Adds FP32 operands with one rounding under the captured mode. -/
def execFadd (d : BitVec 7) (a : BitVec 7) (b : BitVec 7) (s : State) : Host.Outcome State Fault Refusal :=
  issueReg (Info.lane3 d a b) s fun V => V.writeLane d.toNat fun l => fp32 V.fm fpAdd (V.lane a.toNat l) (V.lane b.toNat l)
/-- FSUB (R106): Subtracts FP32 operands with one rounding. -/
def execFsub (d : BitVec 7) (a : BitVec 7) (b : BitVec 7) (s : State) : Host.Outcome State Fault Refusal :=
  issueReg (Info.lane3 d a b) s fun V => V.writeLane d.toNat fun l => fp32 V.fm fpSub (V.lane a.toNat l) (V.lane b.toNat l)
/-- FMUL (R106): Multiplies FP32 operands with one rounding. -/
def execFmul (d : BitVec 7) (a : BitVec 7) (b : BitVec 7) (s : State) : Host.Outcome State Fault Refusal :=
  issueReg (Info.lane3 d a b) s fun V => V.writeLane d.toNat fun l => fp32 V.fm fpMul (V.lane a.toNat l) (V.lane b.toNat l)
/-- FFMA (R106): Computes a times b plus the destination with a single FP32 rounding. -/
def execFfma (d : BitVec 7) (a : BitVec 7) (b : BitVec 7) (s : State) : Host.Outcome State Fault Refusal :=
  issueReg (Info.lane3 d a b) s fun V => V.writeLane d.toNat fun l => fma32 V.fm (V.lane a.toNat l) (V.lane b.toNat l) (V.lane d.toNat l)
/-- FMIN (R106): Writes the smaller FP32 operand, NaN-avoiding, with −0 below +0. -/
def execFmin (d : BitVec 7) (a : BitVec 7) (b : BitVec 7) (s : State) : Host.Outcome State Fault Refusal :=
  issueReg (Info.lane3 d a b) s fun V => V.writeLane d.toNat fun l => fp32 V.fm (fun F md => fpMinMax F md false) (V.lane a.toNat l) (V.lane b.toNat l)
/-- FMAX (R106): Writes the larger FP32 operand, NaN-avoiding. -/
def execFmax (d : BitVec 7) (a : BitVec 7) (b : BitVec 7) (s : State) : Host.Outcome State Fault Refusal :=
  issueReg (Info.lane3 d a b) s fun V => V.writeLane d.toNat fun l => fp32 V.fm (fun F md => fpMinMax F md true) (V.lane a.toNat l) (V.lane b.toNat l)
/-- FABS (R107): Clears the sign bit of the operand. -/
def execFabs (d : BitVec 7) (a : BitVec 7) (s : State) : Host.Outcome State Fault Refusal :=
  issueReg (Info.lane2 d a) s fun V => V.writeLane d.toNat fun l => V.lane a.toNat l &&& 0x7FFFFFFF#32
/-- FNEG (R107): Inverts the sign bit of the operand. -/
def execFneg (d : BitVec 7) (a : BitVec 7) (s : State) : Host.Outcome State Fault Refusal :=
  issueReg (Info.lane2 d a) s fun V => V.writeLane d.toNat fun l => V.lane a.toNat l ^^^ 0x80000000#32
/-- FCMP_EQ (R108): Writes a mask of lanes where the FP32 operands are equal. -/
def execFcmpEq (d : BitVec 6) (a : BitVec 7) (b : BitVec 7) (s : State) : Host.Outcome State Fault Refusal :=
  issueReg (Info.mask2 d a b) s fun V => V.writeMask d.toNat fun l => fpCmp Fmt.fp32 V.fm isEq (V.lane a.toNat l).toNat (V.lane b.toNat l).toNat
/-- FCMP_LT (R108): Writes a mask of lanes where FP32 a is less than b. -/
def execFcmpLt (d : BitVec 6) (a : BitVec 7) (b : BitVec 7) (s : State) : Host.Outcome State Fault Refusal :=
  issueReg (Info.mask2 d a b) s fun V => V.writeMask d.toNat fun l => fpCmp Fmt.fp32 V.fm isLt (V.lane a.toNat l).toNat (V.lane b.toNat l).toNat
/-- FCMP_LE (R108): Writes a mask of lanes where FP32 a is less than or equal to b. -/
def execFcmpLe (d : BitVec 6) (a : BitVec 7) (b : BitVec 7) (s : State) : Host.Outcome State Fault Refusal :=
  issueReg (Info.mask2 d a b) s fun V => V.writeMask d.toNat fun l => fpCmp Fmt.fp32 V.fm isLe (V.lane a.toNat l).toNat (V.lane b.toNat l).toNat
/-- FCMP_UN (R108): Writes a mask of lanes where either FP32 operand is a NaN. -/
def execFcmpUn (d : BitVec 6) (a : BitVec 7) (b : BitVec 7) (s : State) : Host.Outcome State Fault Refusal :=
  issueReg (Info.mask2 d a b) s fun V => V.writeMask d.toNat fun l => fpUnordered Fmt.fp32 V.fm (V.lane a.toNat l).toNat (V.lane b.toNat l).toNat
/-- FRCP (R109): Writes the correctly rounded FP32 reciprocal. -/
def execFrcp (d : BitVec 7) (a : BitVec 7) (s : State) : Host.Outcome State Fault Refusal :=
  issueReg ((Info.lane2 d a).taking 4) s fun V => V.writeLane d.toNat fun l => un32 V.fm Fp.recip (V.lane a.toNat l)
/-- FRSQ (R109): Writes the correctly rounded FP32 reciprocal square root. -/
def execFrsq (d : BitVec 7) (a : BitVec 7) (s : State) : Host.Outcome State Fault Refusal :=
  issueReg ((Info.lane2 d a).taking 4) s fun V => V.writeLane d.toNat fun l => un32 V.fm Fp.rsqrt (V.lane a.toNat l)
/-- FSQRT (R109): Writes the correctly rounded FP32 square root. -/
def execFsqrt (d : BitVec 7) (a : BitVec 7) (s : State) : Host.Outcome State Fault Refusal :=
  issueReg ((Info.lane2 d a).taking 4) s fun V => V.writeLane d.toNat fun l => un32 V.fm Fp.sqrt (V.lane a.toNat l)
/-- FDIV (R106): Divides FP32 operands with one rounding. -/
def execFdiv (d : BitVec 7) (a : BitVec 7) (b : BitVec 7) (s : State) : Host.Outcome State Fault Refusal :=
  issueReg ((Info.lane3 d a b).taking 8) s fun V => V.writeLane d.toNat fun l => fp32 V.fm fpDiv (V.lane a.toNat l) (V.lane b.toNat l)
/-- FEX2 (R110): Writes an approximation of 2^a. -/
def execFex2 (d : BitVec 7) (a : BitVec 7) (s : State) : Host.Outcome State Fault Refusal :=
  issueReg ((Info.lane2 d a).taking 4) s fun V => V.writeLane d.toNat fun l => Machine.fex2 V.fm.flush (V.lane a.toNat l)
/-- FLG2 (R110): Writes an approximation of log2 a. -/
def execFlg2 (d : BitVec 7) (a : BitVec 7) (s : State) : Host.Outcome State Fault Refusal :=
  issueReg ((Info.lane2 d a).taking 4) s fun V => V.writeLane d.toNat fun l => Machine.flg2 V.fm.flush (V.lane a.toNat l)
/-- FSIN (R110): Writes an approximation of sin a. -/
def execFsin (d : BitVec 7) (a : BitVec 7) (s : State) : Host.Outcome State Fault Refusal :=
  issueReg ((Info.lane2 d a).taking 4) s fun V => V.writeLane d.toNat fun l => Machine.fsin V.fm.flush (V.lane a.toNat l)
/-- FCOS (R110): Writes an approximation of cos a. -/
def execFcos (d : BitVec 7) (a : BitVec 7) (s : State) : Host.Outcome State Fault Refusal :=
  issueReg ((Info.lane2 d a).taking 4) s fun V => V.writeLane d.toNat fun l => Machine.fcos V.fm.flush (V.lane a.toNat l)
/-- FADD_B (R106): Adds a uniform FP32 operand to each active lane's a. -/
def execFaddB (d : BitVec 7) (a : BitVec 7) (b : BitVec 6) (s : State) : Host.Outcome State Fault Refusal :=
  issueReg (Info.laneB d a b) s fun V => V.writeLane d.toNat fun l => fp32 V.fm fpAdd (V.lane a.toNat l) (V.uni b.toNat)
/-- FMUL_B (R106): Multiplies each active lane's a by a uniform FP32 operand. -/
def execFmulB (d : BitVec 7) (a : BitVec 7) (b : BitVec 6) (s : State) : Host.Outcome State Fault Refusal :=
  issueReg (Info.laneB d a b) s fun V => V.writeLane d.toNat fun l => fp32 V.fm fpMul (V.lane a.toNat l) (V.uni b.toNat)
/-- FFMA_B (R106): Fused multiply-add with a uniform b operand. -/
def execFfmaB (d : BitVec 7) (a : BitVec 7) (b : BitVec 6) (s : State) : Host.Outcome State Fault Refusal :=
  issueReg (Info.laneB d a b) s fun V => V.writeLane d.toNat fun l => fma32 V.fm (V.lane a.toNat l) (V.uni b.toNat) (V.lane d.toNat l)
/-- DADD (R111): Adds FP64 pairs with one rounding. -/
def execDadd (d : BitVec 7) (a : BitVec 7) (b : BitVec 7) (s : State) : Host.Outcome State Fault Refusal :=
  issueReg ((Info.pair3 d a b).taking 2) s fun V => V.writeLane64 d.toNat fun l => fp64 V.fm fpAdd (V.lane64 a.toNat l) (V.lane64 b.toNat l)
/-- DSUB (R111): Subtracts FP64 pairs with one rounding. -/
def execDsub (d : BitVec 7) (a : BitVec 7) (b : BitVec 7) (s : State) : Host.Outcome State Fault Refusal :=
  issueReg ((Info.pair3 d a b).taking 2) s fun V => V.writeLane64 d.toNat fun l => fp64 V.fm fpSub (V.lane64 a.toNat l) (V.lane64 b.toNat l)
/-- DMUL (R111): Multiplies FP64 pairs with one rounding. -/
def execDmul (d : BitVec 7) (a : BitVec 7) (b : BitVec 7) (s : State) : Host.Outcome State Fault Refusal :=
  issueReg ((Info.pair3 d a b).taking 2) s fun V => V.writeLane64 d.toNat fun l => fp64 V.fm fpMul (V.lane64 a.toNat l) (V.lane64 b.toNat l)
/-- DFMA (R111): Fused FP64 multiply-add into the destination pair. -/
def execDfma (d : BitVec 7) (a : BitVec 7) (b : BitVec 7) (s : State) : Host.Outcome State Fault Refusal :=
  issueReg ((Info.pair3 d a b).taking 2) s fun V => V.writeLane64 d.toNat fun l => fma64 V.fm (V.lane64 a.toNat l) (V.lane64 b.toNat l) (V.lane64 d.toNat l)
/-- DDIV (R111): Divides FP64 pairs with one rounding. -/
def execDdiv (d : BitVec 7) (a : BitVec 7) (b : BitVec 7) (s : State) : Host.Outcome State Fault Refusal :=
  issueReg ((Info.pair3 d a b).taking 16) s fun V => V.writeLane64 d.toNat fun l => fp64 V.fm fpDiv (V.lane64 a.toNat l) (V.lane64 b.toNat l)
/-- DSQRT (R111): Writes the FP64 square root. -/
def execDsqrt (d : BitVec 7) (a : BitVec 7) (s : State) : Host.Outcome State Fault Refusal :=
  issueReg ((Info.pair2 d a).taking 16) s fun V => V.writeLane64 d.toNat fun l => un64 V.fm Fp.sqrt (V.lane64 a.toNat l)
/-- DCMP_EQ (R111): Writes a mask of lanes where the FP64 pairs are equal. -/
def execDcmpEq (d : BitVec 6) (a : BitVec 7) (b : BitVec 7) (s : State) : Host.Outcome State Fault Refusal :=
  issueReg ((Info.maskPair d a b).taking 2) s fun V => V.writeMask d.toNat fun l => fpCmp Fmt.fp64 V.fm isEq (V.lane64 a.toNat l).toNat (V.lane64 b.toNat l).toNat
/-- DCMP_LT (R111): Writes a mask of lanes where FP64 a is less than b. -/
def execDcmpLt (d : BitVec 6) (a : BitVec 7) (b : BitVec 7) (s : State) : Host.Outcome State Fault Refusal :=
  issueReg ((Info.maskPair d a b).taking 2) s fun V => V.writeMask d.toNat fun l => fpCmp Fmt.fp64 V.fm isLt (V.lane64 a.toNat l).toNat (V.lane64 b.toNat l).toNat
/-- DCMP_LE (R111): Writes a mask of lanes where FP64 a is less than or equal to b. -/
def execDcmpLe (d : BitVec 6) (a : BitVec 7) (b : BitVec 7) (s : State) : Host.Outcome State Fault Refusal :=
  issueReg ((Info.maskPair d a b).taking 2) s fun V => V.writeMask d.toNat fun l => fpCmp Fmt.fp64 V.fm isLe (V.lane64 a.toNat l).toNat (V.lane64 b.toNat l).toNat
/-- FADD_F16X2 (R112): Adds two FP16 element pairs independently. -/
def execFaddF16x2 (d : BitVec 7) (a : BitVec 7) (b : BitVec 7) (s : State) : Host.Outcome State Fault Refusal :=
  issueReg (Info.lane3 d a b) s fun V => V.writeLane d.toNat fun l => f16x2 V.fm fpAdd (V.lane a.toNat l) (V.lane b.toNat l)
/-- FMUL_F16X2 (R112): Multiplies two FP16 element pairs independently. -/
def execFmulF16x2 (d : BitVec 7) (a : BitVec 7) (b : BitVec 7) (s : State) : Host.Outcome State Fault Refusal :=
  issueReg (Info.lane3 d a b) s fun V => V.writeLane d.toNat fun l => f16x2 V.fm fpMul (V.lane a.toNat l) (V.lane b.toNat l)
/-- FFMA_F16X2 (R112): Fused multiply-adds two FP16 element pairs independently. -/
def execFfmaF16x2 (d : BitVec 7) (a : BitVec 7) (b : BitVec 7) (s : State) : Host.Outcome State Fault Refusal :=
  issueReg (Info.lane3 d a b) s fun V => V.writeLane d.toNat fun l => fma16x2 V.fm (V.lane a.toNat l) (V.lane b.toNat l) (V.lane d.toNat l)

end Sys2Proof.Machine
end

