-- ==== Sys2Proof/Machine/Alu.lean ====
section
/-! DEFINITION. Integer operations on one 32-bit or 64-bit pattern (R51, R93-R98, R101, R102), shared by the lane and the uniform
forms. -/
namespace Sys2Proof.Machine

/-- Bits [63:32] of the signed product. -/
def mulHiS (a b : Word) : Word := BitVec.ofInt 32 (a.toInt * b.toInt / 2 ^ 32)
/-- Bits [63:32] of the unsigned product. -/
def mulHiZ (a b : Word) : Word := BitVec.ofNat 32 (a.toNat * b.toNat / 2 ^ 32)
def minSigned (a b : Word) : Word := if a.toInt ≤ b.toInt then a else b
def maxSigned (a b : Word) : Word := if a.toInt ≤ b.toInt then b else a
def minUnsigned (a b : Word) : Word := if a.toNat ≤ b.toNat then a else b
def maxUnsigned (a b : Word) : Word := if a.toNat ≤ b.toNat then b else a
/-- |sA|; 0x8000_0000 gives itself. -/
def absWord (a : Word) : Word := if a.getLsbD 31 then -a else a
/-- A AND NOT B. -/
def andNot (a b : Word) : Word := a &&& ~~~b

/-- The shift count of a register operand (R95): B mod 256. -/
def shiftCount (b : Word) : Nat := b.toNat % 256
/-- Shifts by a count (R95, R98): zeros, or copies of the sign, beyond the width. -/
def shiftLeft {w : Nat} (a : BitVec w) (n : Nat) : BitVec w := a <<< n
def shiftRight {w : Nat} (a : BitVec w) (n : Nat) : BitVec w := a >>> n
def shiftArith {w : Nat} (a : BitVec w) (n : Nat) : BitVec w := a.sshiftRight n
/-- Rotate left by B mod 32. -/
def rotateLeft (a b : Word) : Word := a.rotateLeft (b.toNat % 32)

/-- The bits of a word that hold 1, lowest first. -/
def onesOf (a : Word) : List Nat := lanesOf a
/-- The number of 1 bits. -/
def popCount (a : Word) : Word := BitVec.ofNat 32 (onesOf a).length
/-- The number of 0 bits above the highest 1 bit; 32 for zero. -/
def leadingZeros (a : Word) : Word :=
  match (onesOf a).getLast? with
  | some i => BitVec.ofNat 32 (31 - i)
  | none => 32#32
/-- The index of the lowest 1 bit; 32 for zero (SFFS). -/
def firstSet (a : Word) : Word :=
  match lowestLane a with
  | some i => BitVec.ofNat 32 i
  | none => 32#32
/-- Bit i moved to bit 31 - i. -/
def reverseBits (a : Word) : Word := maskOf fun i => a.getLsbD (31 - i)

/-- The position and width that a bit-field operand holds (R97). -/
def fieldPos (b : Word) : Nat := (b.extractLsb' 0 5).toNat
def fieldWidth (b : Word) : Nat := (b.extractLsb' 8 5).toNat + 1
/-- The field F of R97. -/
def fieldOfWord (a b : Word) : Nat := a.toNat / 2 ^ fieldPos b % 2 ^ fieldWidth b
def extractZ (a b : Word) : Word := BitVec.ofNat 32 (fieldOfWord a b)
def extractS (a b : Word) : Word :=
  let f := fieldOfWord a b
  let w := fieldWidth b
  BitVec.ofInt 32 (if 2 ^ (w - 1) ≤ f then (f : Int) - 2 ^ w else f)
/-- BFI: the low bits of A put into D. -/
def insertField (a b d : Word) : Word :=
  let m : Word := BitVec.ofNat 32 ((2 ^ fieldWidth b - 1) * 2 ^ fieldPos b)
  (d &&& ~~~m) ||| ((a <<< fieldPos b) &&& m)

/-- Division (R101): the fixed results for zero; truncation towards zero. -/
def divSigned (a b : Word) : Word :=
  if b = 0#32 then 0xFFFFFFFF#32 else BitVec.ofInt 32 (a.toInt.tdiv b.toInt)
def remSigned (a b : Word) : Word :=
  if b = 0#32 then a else BitVec.ofInt 32 (a.toInt.tmod b.toInt)
def divUnsigned (a b : Word) : Word := if b = 0#32 then 0xFFFFFFFF#32 else BitVec.ofNat 32 (a.toNat / b.toNat)
def remUnsigned (a b : Word) : Word := if b = 0#32 then a else BitVec.ofNat 32 (a.toNat % b.toNat)

end Sys2Proof.Machine
end

