-- ==== Sys2Proof/Machine/LaneInt.lean ====
section
/-! DEFINITION. Lane integer operations, compares, select and division (R93-R101). -/
namespace Sys2Proof.Machine

/-- ADD (R93): Adds the two lane operands modulo 2^32 in each active lane. -/
def execAdd (d : BitVec 7) (a : BitVec 7) (b : BitVec 7) (s : State) : Host.Outcome State Fault Refusal :=
  issueReg (Info.lane3 d a b) s fun V => V.writeLane d.toNat fun l => V.lane a.toNat l + V.lane b.toNat l
/-- SUB (R93): Subtracts operand b from operand a modulo 2^32 in each active lane. -/
def execSub (d : BitVec 7) (a : BitVec 7) (b : BitVec 7) (s : State) : Host.Outcome State Fault Refusal :=
  issueReg (Info.lane3 d a b) s fun V => V.writeLane d.toNat fun l => V.lane a.toNat l - V.lane b.toNat l
/-- ADDI (R94): Adds the sign-extended 7-bit immediate to operand a in each active lane. -/
def execAddi (d : BitVec 7) (a : BitVec 7) (i : BitVec 7) (s : State) : Host.Outcome State Fault Refusal :=
  issueReg (Info.lane2 d a) s fun V => V.writeLane d.toNat fun l => V.lane a.toNat l + simm i
/-- MUL (R93): Writes the low 32 bits of the product of the lane operands. -/
def execMul (d : BitVec 7) (a : BitVec 7) (b : BitVec 7) (s : State) : Host.Outcome State Fault Refusal :=
  issueReg (Info.lane3 d a b) s fun V => V.writeLane d.toNat fun l => V.lane a.toNat l * V.lane b.toNat l
/-- MULH_S (R93): Writes bits [63:32] of the signed product. -/
def execMulhS (d : BitVec 7) (a : BitVec 7) (b : BitVec 7) (s : State) : Host.Outcome State Fault Refusal :=
  issueReg (Info.lane3 d a b) s fun V => V.writeLane d.toNat fun l => mulHiS (V.lane a.toNat l) (V.lane b.toNat l)
/-- MULH_Z (R93): Writes bits [63:32] of the unsigned product. -/
def execMulhZ (d : BitVec 7) (a : BitVec 7) (b : BitVec 7) (s : State) : Host.Outcome State Fault Refusal :=
  issueReg (Info.lane3 d a b) s fun V => V.writeLane d.toNat fun l => mulHiZ (V.lane a.toNat l) (V.lane b.toNat l)
/-- MAD (R93): Writes the low 32 bits of a times b plus the old destination. -/
def execMad (d : BitVec 7) (a : BitVec 7) (b : BitVec 7) (s : State) : Host.Outcome State Fault Refusal :=
  issueReg (Info.lane3 d a b) s fun V => V.writeLane d.toNat fun l => V.lane a.toNat l * V.lane b.toNat l + V.lane d.toNat l
/-- MIN_S (R93): Writes the signed minimum of the lane operands. -/
def execMinS (d : BitVec 7) (a : BitVec 7) (b : BitVec 7) (s : State) : Host.Outcome State Fault Refusal :=
  issueReg (Info.lane3 d a b) s fun V => V.writeLane d.toNat fun l => minSigned (V.lane a.toNat l) (V.lane b.toNat l)
/-- MIN_Z (R93): Writes the unsigned minimum of the lane operands. -/
def execMinZ (d : BitVec 7) (a : BitVec 7) (b : BitVec 7) (s : State) : Host.Outcome State Fault Refusal :=
  issueReg (Info.lane3 d a b) s fun V => V.writeLane d.toNat fun l => minUnsigned (V.lane a.toNat l) (V.lane b.toNat l)
/-- MAX_S (R93): Writes the signed maximum of the lane operands. -/
def execMaxS (d : BitVec 7) (a : BitVec 7) (b : BitVec 7) (s : State) : Host.Outcome State Fault Refusal :=
  issueReg (Info.lane3 d a b) s fun V => V.writeLane d.toNat fun l => maxSigned (V.lane a.toNat l) (V.lane b.toNat l)
/-- MAX_Z (R93): Writes the unsigned maximum of the lane operands. -/
def execMaxZ (d : BitVec 7) (a : BitVec 7) (b : BitVec 7) (s : State) : Host.Outcome State Fault Refusal :=
  issueReg (Info.lane3 d a b) s fun V => V.writeLane d.toNat fun l => maxUnsigned (V.lane a.toNat l) (V.lane b.toNat l)
/-- ABS (R93): Writes the absolute value of the signed operand, 0x8000_0000 giving itself. -/
def execAbs (d : BitVec 7) (a : BitVec 7) (s : State) : Host.Outcome State Fault Refusal :=
  issueReg (Info.lane2 d a) s fun V => V.writeLane d.toNat fun l => absWord (V.lane a.toNat l)
/-- AND (R93): Writes the bitwise AND of the lane operands. -/
def execAnd (d : BitVec 7) (a : BitVec 7) (b : BitVec 7) (s : State) : Host.Outcome State Fault Refusal :=
  issueReg (Info.lane3 d a b) s fun V => V.writeLane d.toNat fun l => V.lane a.toNat l &&& V.lane b.toNat l
/-- OR (R93): Writes the bitwise OR of the lane operands. -/
def execOr (d : BitVec 7) (a : BitVec 7) (b : BitVec 7) (s : State) : Host.Outcome State Fault Refusal :=
  issueReg (Info.lane3 d a b) s fun V => V.writeLane d.toNat fun l => V.lane a.toNat l ||| V.lane b.toNat l
/-- XOR (R93): Writes the bitwise XOR of the lane operands. -/
def execXor (d : BitVec 7) (a : BitVec 7) (b : BitVec 7) (s : State) : Host.Outcome State Fault Refusal :=
  issueReg (Info.lane3 d a b) s fun V => V.writeLane d.toNat fun l => V.lane a.toNat l ^^^ V.lane b.toNat l
/-- ANDN (R93): Writes a AND NOT b in each active lane. -/
def execAndn (d : BitVec 7) (a : BitVec 7) (b : BitVec 7) (s : State) : Host.Outcome State Fault Refusal :=
  issueReg (Info.lane3 d a b) s fun V => V.writeLane d.toNat fun l => andNot (V.lane a.toNat l) (V.lane b.toNat l)
/-- ANDI (R94): ANDs operand a with the sign-extended immediate. -/
def execAndi (d : BitVec 7) (a : BitVec 7) (i : BitVec 7) (s : State) : Host.Outcome State Fault Refusal :=
  issueReg (Info.lane2 d a) s fun V => V.writeLane d.toNat fun l => V.lane a.toNat l &&& simm i
/-- ORI (R94): ORs operand a with the sign-extended immediate. -/
def execOri (d : BitVec 7) (a : BitVec 7) (i : BitVec 7) (s : State) : Host.Outcome State Fault Refusal :=
  issueReg (Info.lane2 d a) s fun V => V.writeLane d.toNat fun l => V.lane a.toNat l ||| simm i
/-- XORI (R94): XORs operand a with the sign-extended immediate. -/
def execXori (d : BitVec 7) (a : BitVec 7) (i : BitVec 7) (s : State) : Host.Outcome State Fault Refusal :=
  issueReg (Info.lane2 d a) s fun V => V.writeLane d.toNat fun l => V.lane a.toNat l ^^^ simm i
/-- SHL (R95): Shifts a left by b mod 256, giving 0 for counts of 32 or more. -/
def execShl (d : BitVec 7) (a : BitVec 7) (b : BitVec 7) (s : State) : Host.Outcome State Fault Refusal :=
  issueReg (Info.lane3 d a b) s fun V => V.writeLane d.toNat fun l => shiftLeft (V.lane a.toNat l) (shiftCount (V.lane b.toNat l))
/-- SHR (R95): Shifts a right logically by b mod 256. -/
def execShr (d : BitVec 7) (a : BitVec 7) (b : BitVec 7) (s : State) : Host.Outcome State Fault Refusal :=
  issueReg (Info.lane3 d a b) s fun V => V.writeLane d.toNat fun l => shiftRight (V.lane a.toNat l) (shiftCount (V.lane b.toNat l))
/-- SAR (R95): Shifts a right arithmetically by b mod 256. -/
def execSar (d : BitVec 7) (a : BitVec 7) (b : BitVec 7) (s : State) : Host.Outcome State Fault Refusal :=
  issueReg (Info.lane3 d a b) s fun V => V.writeLane d.toNat fun l => shiftArith (V.lane a.toNat l) (shiftCount (V.lane b.toNat l))
/-- SHLI (R95): Shifts a left by an immediate count 0 to 31. -/
def execShli (d : BitVec 7) (a : BitVec 7) (n : BitVec 5) (s : State) : Host.Outcome State Fault Refusal :=
  issueReg (Info.lane2 d a) s fun V => V.writeLane d.toNat fun l => shiftLeft (V.lane a.toNat l) n.toNat
/-- SHRI (R95): Shifts a right logically by an immediate count 0 to 31. -/
def execShri (d : BitVec 7) (a : BitVec 7) (n : BitVec 5) (s : State) : Host.Outcome State Fault Refusal :=
  issueReg (Info.lane2 d a) s fun V => V.writeLane d.toNat fun l => shiftRight (V.lane a.toNat l) n.toNat
/-- SARI (R95): Shifts a right arithmetically by an immediate count 0 to 31. -/
def execSari (d : BitVec 7) (a : BitVec 7) (n : BitVec 5) (s : State) : Host.Outcome State Fault Refusal :=
  issueReg (Info.lane2 d a) s fun V => V.writeLane d.toNat fun l => shiftArith (V.lane a.toNat l) n.toNat
/-- ROTL (R95): Rotates a left by b mod 32. -/
def execRotl (d : BitVec 7) (a : BitVec 7) (b : BitVec 7) (s : State) : Host.Outcome State Fault Refusal :=
  issueReg (Info.lane3 d a b) s fun V => V.writeLane d.toNat fun l => rotateLeft (V.lane a.toNat l) (V.lane b.toNat l)
/-- POPC (R96): Writes the number of 1 bits of a. -/
def execPopc (d : BitVec 7) (a : BitVec 7) (s : State) : Host.Outcome State Fault Refusal :=
  issueReg (Info.lane2 d a) s fun V => V.writeLane d.toNat fun l => popCount (V.lane a.toNat l)
/-- CLZ (R96): Writes the count of leading zero bits of a, 32 for zero. -/
def execClz (d : BitVec 7) (a : BitVec 7) (s : State) : Host.Outcome State Fault Refusal :=
  issueReg (Info.lane2 d a) s fun V => V.writeLane d.toNat fun l => leadingZeros (V.lane a.toNat l)
/-- BREV (R96): Writes a with its bit order reversed. -/
def execBrev (d : BitVec 7) (a : BitVec 7) (s : State) : Host.Outcome State Fault Refusal :=
  issueReg (Info.lane2 d a) s fun V => V.writeLane d.toNat fun l => reverseBits (V.lane a.toNat l)
/-- BFX_S (R97): Extracts a sign-extended bit field of a at the position and width held in b. -/
def execBfxS (d : BitVec 7) (a : BitVec 7) (b : BitVec 7) (s : State) : Host.Outcome State Fault Refusal :=
  issueReg (Info.lane3 d a b) s fun V => V.writeLane d.toNat fun l => extractS (V.lane a.toNat l) (V.lane b.toNat l)
/-- BFX_Z (R97): Extracts a zero-extended bit field of a at the position and width held in b. -/
def execBfxZ (d : BitVec 7) (a : BitVec 7) (b : BitVec 7) (s : State) : Host.Outcome State Fault Refusal :=
  issueReg (Info.lane3 d a b) s fun V => V.writeLane d.toNat fun l => extractZ (V.lane a.toNat l) (V.lane b.toNat l)
/-- BFI (R97): Inserts the low bits of a into the destination at the field held in b. -/
def execBfi (d : BitVec 7) (a : BitVec 7) (b : BitVec 7) (s : State) : Host.Outcome State Fault Refusal :=
  issueReg (Info.lane3 d a b) s fun V => V.writeLane d.toNat fun l => insertField (V.lane a.toNat l) (V.lane b.toNat l) (V.lane d.toNat l)
/-- ADD_D (R98): Adds two 64-bit even pairs modulo 2^64. -/
def execAddD (d : BitVec 7) (a : BitVec 7) (b : BitVec 7) (s : State) : Host.Outcome State Fault Refusal :=
  issueReg (Info.pair3 d a b) s fun V => V.writeLane64 d.toNat fun l => V.lane64 a.toNat l + V.lane64 b.toNat l
/-- SUB_D (R98): Subtracts two 64-bit even pairs modulo 2^64. -/
def execSubD (d : BitVec 7) (a : BitVec 7) (b : BitVec 7) (s : State) : Host.Outcome State Fault Refusal :=
  issueReg (Info.pair3 d a b) s fun V => V.writeLane64 d.toNat fun l => V.lane64 a.toNat l - V.lane64 b.toNat l
/-- MUL_D (R98): Multiplies two 64-bit even pairs modulo 2^64. -/
def execMulD (d : BitVec 7) (a : BitVec 7) (b : BitVec 7) (s : State) : Host.Outcome State Fault Refusal :=
  issueReg ((Info.pair3 d a b).taking 2) s fun V => V.writeLane64 d.toNat fun l => V.lane64 a.toNat l * V.lane64 b.toNat l
/-- SHL_D (R98): Shifts a 64-bit pair left by a single-register count. -/
def execShlD (d : BitVec 7) (a : BitVec 7) (b : BitVec 7) (s : State) : Host.Outcome State Fault Refusal :=
  issueReg (Info.pairShift d a b) s fun V => V.writeLane64 d.toNat fun l => shiftLeft (V.lane64 a.toNat l) (shiftCount (V.lane b.toNat l))
/-- SHR_D (R98): Shifts a 64-bit pair right logically by a single-register count. -/
def execShrD (d : BitVec 7) (a : BitVec 7) (b : BitVec 7) (s : State) : Host.Outcome State Fault Refusal :=
  issueReg (Info.pairShift d a b) s fun V => V.writeLane64 d.toNat fun l => shiftRight (V.lane64 a.toNat l) (shiftCount (V.lane b.toNat l))
/-- SAR_D (R98): Shifts a 64-bit pair right arithmetically by a single-register count. -/
def execSarD (d : BitVec 7) (a : BitVec 7) (b : BitVec 7) (s : State) : Host.Outcome State Fault Refusal :=
  issueReg (Info.pairShift d a b) s fun V => V.writeLane64 d.toNat fun l => shiftArith (V.lane64 a.toNat l) (shiftCount (V.lane b.toNat l))
/-- CMP_EQ (R99): Writes a lane mask of lanes where a equals b. -/
def execCmpEq (d : BitVec 6) (a : BitVec 7) (b : BitVec 7) (s : State) : Host.Outcome State Fault Refusal :=
  issueReg (Info.mask2 d a b) s fun V => V.writeMask d.toNat fun l => V.lane a.toNat l == V.lane b.toNat l
/-- CMP_NE (R99): Writes a lane mask of lanes where a differs from b. -/
def execCmpNe (d : BitVec 6) (a : BitVec 7) (b : BitVec 7) (s : State) : Host.Outcome State Fault Refusal :=
  issueReg (Info.mask2 d a b) s fun V => V.writeMask d.toNat fun l => V.lane a.toNat l != V.lane b.toNat l
/-- CMP_LT_S (R99): Writes a lane mask of lanes where a is signed-less than b. -/
def execCmpLtS (d : BitVec 6) (a : BitVec 7) (b : BitVec 7) (s : State) : Host.Outcome State Fault Refusal :=
  issueReg (Info.mask2 d a b) s fun V => V.writeMask d.toNat fun l => ltS (V.lane a.toNat l) (V.lane b.toNat l)
/-- CMP_LE_S (R99): Writes a lane mask of lanes where a is signed-less than or equal to b. -/
def execCmpLeS (d : BitVec 6) (a : BitVec 7) (b : BitVec 7) (s : State) : Host.Outcome State Fault Refusal :=
  issueReg (Info.mask2 d a b) s fun V => V.writeMask d.toNat fun l => leS (V.lane a.toNat l) (V.lane b.toNat l)
/-- CMP_LT_Z (R99): Writes a lane mask of lanes where a is unsigned-less than b. -/
def execCmpLtZ (d : BitVec 6) (a : BitVec 7) (b : BitVec 7) (s : State) : Host.Outcome State Fault Refusal :=
  issueReg (Info.mask2 d a b) s fun V => V.writeMask d.toNat fun l => ltZ (V.lane a.toNat l) (V.lane b.toNat l)
/-- CMP_LE_Z (R99): Writes a lane mask of lanes where a is unsigned-less than or equal to b. -/
def execCmpLeZ (d : BitVec 6) (a : BitVec 7) (b : BitVec 7) (s : State) : Host.Outcome State Fault Refusal :=
  issueReg (Info.mask2 d a b) s fun V => V.writeMask d.toNat fun l => leZ (V.lane a.toNat l) (V.lane b.toNat l)
/-- CMPI_EQ (R99): Writes a lane mask of lanes where a equals the sign-extended immediate. -/
def execCmpiEq (d : BitVec 6) (a : BitVec 7) (i : BitVec 7) (s : State) : Host.Outcome State Fault Refusal :=
  issueReg (Info.mask1 d a) s fun V => V.writeMask d.toNat fun l => V.lane a.toNat l == simm i
/-- CMPI_LT_S (R99): Writes a lane mask of lanes where a is signed-less than the immediate. -/
def execCmpiLtS (d : BitVec 6) (a : BitVec 7) (i : BitVec 7) (s : State) : Host.Outcome State Fault Refusal :=
  issueReg (Info.mask1 d a) s fun V => V.writeMask d.toNat fun l => ltS (V.lane a.toNat l) (simm i)
/-- SEL (R100): Copies a into the destination in active lanes whose mask bit is set. -/
def execSel (d : BitVec 7) (a : BitVec 7) (b : BitVec 6) (s : State) : Host.Outcome State Fault Refusal :=
  issueReg (Info.laneB d a b) s fun V => V.writeLane d.toNat fun l => if (V.uni b.toNat).getLsbD l then V.lane a.toNat l else V.lane d.toNat l
/-- DIV_S (R101): Divides signed 32-bit operands, truncating, with fixed results for zero divisors. -/
def execDivS (d : BitVec 7) (a : BitVec 7) (b : BitVec 7) (s : State) : Host.Outcome State Fault Refusal :=
  issueReg ((Info.lane3 d a b).taking 10) s fun V => V.writeLane d.toNat fun l => divSigned (V.lane a.toNat l) (V.lane b.toNat l)
/-- DIV_Z (R101): Divides unsigned 32-bit operands with fixed results for zero divisors. -/
def execDivZ (d : BitVec 7) (a : BitVec 7) (b : BitVec 7) (s : State) : Host.Outcome State Fault Refusal :=
  issueReg ((Info.lane3 d a b).taking 10) s fun V => V.writeLane d.toNat fun l => divUnsigned (V.lane a.toNat l) (V.lane b.toNat l)
/-- REM_S (R101): Writes the signed remainder taking the sign of the dividend. -/
def execRemS (d : BitVec 7) (a : BitVec 7) (b : BitVec 7) (s : State) : Host.Outcome State Fault Refusal :=
  issueReg ((Info.lane3 d a b).taking 10) s fun V => V.writeLane d.toNat fun l => remSigned (V.lane a.toNat l) (V.lane b.toNat l)
/-- REM_Z (R101): Writes the unsigned remainder. -/
def execRemZ (d : BitVec 7) (a : BitVec 7) (b : BitVec 7) (s : State) : Host.Outcome State Fault Refusal :=
  issueReg ((Info.lane3 d a b).taking 10) s fun V => V.writeLane d.toNat fun l => remUnsigned (V.lane a.toNat l) (V.lane b.toNat l)
/-- ADD_B (R93): Adds a uniform operand to each active lane's a. -/
def execAddB (d : BitVec 7) (a : BitVec 7) (b : BitVec 6) (s : State) : Host.Outcome State Fault Refusal :=
  issueReg (Info.laneB d a b) s fun V => V.writeLane d.toNat fun l => V.lane a.toNat l + V.uni b.toNat
/-- SUB_B (R93): Subtracts a uniform operand from each active lane's a. -/
def execSubB (d : BitVec 7) (a : BitVec 7) (b : BitVec 6) (s : State) : Host.Outcome State Fault Refusal :=
  issueReg (Info.laneB d a b) s fun V => V.writeLane d.toNat fun l => V.lane a.toNat l - V.uni b.toNat
/-- MUL_B (R93): Multiplies each active lane's a by a uniform operand. -/
def execMulB (d : BitVec 7) (a : BitVec 7) (b : BitVec 6) (s : State) : Host.Outcome State Fault Refusal :=
  issueReg (Info.laneB d a b) s fun V => V.writeLane d.toNat fun l => V.lane a.toNat l * V.uni b.toNat
/-- MAD_B (R93): Multiply-adds with a uniform b operand into the destination. -/
def execMadB (d : BitVec 7) (a : BitVec 7) (b : BitVec 6) (s : State) : Host.Outcome State Fault Refusal :=
  issueReg (Info.laneB d a b) s fun V => V.writeLane d.toNat fun l => V.lane a.toNat l * V.uni b.toNat + V.lane d.toNat l
/-- AND_B (R93): ANDs each active lane's a with a uniform operand. -/
def execAndB (d : BitVec 7) (a : BitVec 7) (b : BitVec 6) (s : State) : Host.Outcome State Fault Refusal :=
  issueReg (Info.laneB d a b) s fun V => V.writeLane d.toNat fun l => V.lane a.toNat l &&& V.uni b.toNat
/-- OR_B (R93): ORs each active lane's a with a uniform operand. -/
def execOrB (d : BitVec 7) (a : BitVec 7) (b : BitVec 6) (s : State) : Host.Outcome State Fault Refusal :=
  issueReg (Info.laneB d a b) s fun V => V.writeLane d.toNat fun l => V.lane a.toNat l ||| V.uni b.toNat
/-- XOR_B (R93): XORs each active lane's a with a uniform operand. -/
def execXorB (d : BitVec 7) (a : BitVec 7) (b : BitVec 6) (s : State) : Host.Outcome State Fault Refusal :=
  issueReg (Info.laneB d a b) s fun V => V.writeLane d.toNat fun l => V.lane a.toNat l ^^^ V.uni b.toNat
/-- SHL_B (R95): Shifts each active lane's a left by a uniform count. -/
def execShlB (d : BitVec 7) (a : BitVec 7) (b : BitVec 6) (s : State) : Host.Outcome State Fault Refusal :=
  issueReg (Info.laneB d a b) s fun V => V.writeLane d.toNat fun l => shiftLeft (V.lane a.toNat l) (shiftCount (V.uni b.toNat))
/-- SHR_B (R95): Shifts each active lane's a right logically by a uniform count. -/
def execShrB (d : BitVec 7) (a : BitVec 7) (b : BitVec 6) (s : State) : Host.Outcome State Fault Refusal :=
  issueReg (Info.laneB d a b) s fun V => V.writeLane d.toNat fun l => shiftRight (V.lane a.toNat l) (shiftCount (V.uni b.toNat))
/-- CMP_EQ_B (R99): Writes a lane mask of lanes whose a equals a uniform operand. -/
def execCmpEqB (d : BitVec 6) (a : BitVec 7) (b : BitVec 6) (s : State) : Host.Outcome State Fault Refusal :=
  issueReg (Info.maskB d a b) s fun V => V.writeMask d.toNat fun l => V.lane a.toNat l == V.uni b.toNat
/-- CMP_LT_S_B (R99): Writes a lane mask of lanes whose a is signed-less than a uniform operand. -/
def execCmpLtSB (d : BitVec 6) (a : BitVec 7) (b : BitVec 6) (s : State) : Host.Outcome State Fault Refusal :=
  issueReg (Info.maskB d a b) s fun V => V.writeMask d.toNat fun l => ltS (V.lane a.toNat l) (V.uni b.toNat)

end Sys2Proof.Machine
end

