-- ==== Sys2Proof/Machine/Memory.lean ====
section
/-! DEFINITION. Memory instructions and fences (R209-R215, R230, R231), and the completion of loads and stores. -/
namespace Sys2Proof.Machine

/-- LD_8 (R210): Plain load of a zero-extended byte per lane. -/
def execLd8 (d : BitVec 7) (a : BitVec 7) (l : BitVec 4) (k : BitVec 3) (s : State) : Host.Outcome State Fault Refusal :=
  issue (Info.mem (one d) a k) true s fun V => 
    V.laneMem (Info.mem (one d) a k) (.load 1 1 false .plain) d a l k
/-- LD_8S (R210): Plain load of a sign-extended byte per lane. -/
def execLd8s (d : BitVec 7) (a : BitVec 7) (l : BitVec 4) (k : BitVec 3) (s : State) : Host.Outcome State Fault Refusal :=
  issue (Info.mem (one d) a k) true s fun V => 
    V.laneMem (Info.mem (one d) a k) (.load 1 1 true .plain) d a l k
/-- LD_16 (R210): Plain load of a zero-extended halfword per lane. -/
def execLd16 (d : BitVec 7) (a : BitVec 7) (l : BitVec 4) (k : BitVec 3) (s : State) : Host.Outcome State Fault Refusal :=
  issue (Info.mem (one d) a k) true s fun V => 
    V.laneMem (Info.mem (one d) a k) (.load 2 1 false .plain) d a l k
/-- LD_16S (R210): Plain load of a sign-extended halfword per lane. -/
def execLd16s (d : BitVec 7) (a : BitVec 7) (l : BitVec 4) (k : BitVec 3) (s : State) : Host.Outcome State Fault Refusal :=
  issue (Info.mem (one d) a k) true s fun V => 
    V.laneMem (Info.mem (one d) a k) (.load 2 1 true .plain) d a l k
/-- LD_32 (R210): Plain load of a word per lane. -/
def execLd32 (d : BitVec 7) (a : BitVec 7) (l : BitVec 4) (k : BitVec 3) (s : State) : Host.Outcome State Fault Refusal :=
  issue (Info.mem (one d) a k) true s fun V => 
    V.laneMem (Info.mem (one d) a k) (.load 4 1 false .plain) d a l k
/-- LD_64 (R210): Plain load of a doubleword into a pair per lane. -/
def execLd64 (d : BitVec 7) (a : BitVec 7) (l : BitVec 4) (k : BitVec 3) (s : State) : Host.Outcome State Fault Refusal :=
  issue (Info.mem (two d) a k) true s fun V => 
    V.laneMem (Info.mem (two d) a k) (.load 8 2 false .plain) d a l k
/-- LD_128 (R210): Plain load of 16 bytes into a quad per lane. -/
def execLd128 (d : BitVec 7) (a : BitVec 7) (l : BitVec 4) (k : BitVec 3) (s : State) : Host.Outcome State Fault Refusal :=
  issue (Info.mem (four d) a k) true s fun V => 
    V.laneMem (Info.mem (four d) a k) (.load 16 4 false .plain) d a l k
/-- ST_8 (R210): Plain store of a byte per lane into the store buffer. -/
def execSt8 (d : BitVec 7) (a : BitVec 7) (l : BitVec 4) (k : BitVec 3) (s : State) : Host.Outcome State Fault Refusal :=
  issue (Info.mem (one d) a k) true s fun V => 
    V.laneMem (Info.mem (one d) a k) (.ofStore 1 1 .plain) d a l k
/-- ST_16 (R210): Plain store of a halfword per lane. -/
def execSt16 (d : BitVec 7) (a : BitVec 7) (l : BitVec 4) (k : BitVec 3) (s : State) : Host.Outcome State Fault Refusal :=
  issue (Info.mem (one d) a k) true s fun V => 
    V.laneMem (Info.mem (one d) a k) (.ofStore 2 1 .plain) d a l k
/-- ST_32 (R210): Plain store of a word per lane. -/
def execSt32 (d : BitVec 7) (a : BitVec 7) (l : BitVec 4) (k : BitVec 3) (s : State) : Host.Outcome State Fault Refusal :=
  issue (Info.mem (one d) a k) true s fun V => 
    V.laneMem (Info.mem (one d) a k) (.ofStore 4 1 .plain) d a l k
/-- ST_64 (R210): Plain store of a pair per lane. -/
def execSt64 (d : BitVec 7) (a : BitVec 7) (l : BitVec 4) (k : BitVec 3) (s : State) : Host.Outcome State Fault Refusal :=
  issue (Info.mem (two d) a k) true s fun V => 
    V.laneMem (Info.mem (two d) a k) (.ofStore 8 2 .plain) d a l k
/-- ST_128 (R210): Plain store of a quad per lane. -/
def execSt128 (d : BitVec 7) (a : BitVec 7) (l : BitVec 4) (k : BitVec 3) (s : State) : Host.Outcome State Fault Refusal :=
  issue (Info.mem (four d) a k) true s fun V => 
    V.laneMem (Info.mem (four d) a k) (.ofStore 16 4 .plain) d a l k
/-- LD_32_V (R211): Volatile word load read once at the L2, never forwarded. -/
def execLd32V (d : BitVec 7) (a : BitVec 7) (l : BitVec 4) (k : BitVec 3) (s : State) : Host.Outcome State Fault Refusal :=
  issue ((Info.mem (one d) a k).closing) true s fun V => 
    V.laneMem ((Info.mem (one d) a k).closing) (.load 4 1 false .volatile) d a l k
/-- LD_64_V (R211): Volatile doubleword load. -/
def execLd64V (d : BitVec 7) (a : BitVec 7) (l : BitVec 4) (k : BitVec 3) (s : State) : Host.Outcome State Fault Refusal :=
  issue ((Info.mem (two d) a k).closing) true s fun V => 
    V.laneMem ((Info.mem (two d) a k).closing) (.load 8 2 false .volatile) d a l k
/-- LD_32_ACQ (R210): Word load with acquire ordering. -/
def execLd32Acq (d : BitVec 7) (a : BitVec 7) (l : BitVec 4) (k : BitVec 3) (s : State) : Host.Outcome State Fault Refusal :=
  issue (Info.mem (one d) a k) true s fun V => 
    V.laneMem (Info.mem (one d) a k) (.load 4 1 false .acquire) d a l k
/-- LD_64_ACQ (R210): Doubleword load with acquire ordering. -/
def execLd64Acq (d : BitVec 7) (a : BitVec 7) (l : BitVec 4) (k : BitVec 3) (s : State) : Host.Outcome State Fault Refusal :=
  issue (Info.mem (two d) a k) true s fun V => 
    V.laneMem (Info.mem (two d) a k) (.load 8 2 false .acquire) d a l k
/-- ST_32_V (R211): Volatile word store performed exactly once. -/
def execSt32V (d : BitVec 7) (a : BitVec 7) (l : BitVec 4) (k : BitVec 3) (s : State) : Host.Outcome State Fault Refusal :=
  issue ((Info.mem (one d) a k).closing) true s fun V => 
    V.laneMem ((Info.mem (one d) a k).closing) (.ofStore 4 1 .volatile) d a l k
/-- ST_64_V (R211): Volatile doubleword store. -/
def execSt64V (d : BitVec 7) (a : BitVec 7) (l : BitVec 4) (k : BitVec 3) (s : State) : Host.Outcome State Fault Refusal :=
  issue ((Info.mem (two d) a k).closing) true s fun V => 
    V.laneMem ((Info.mem (two d) a k).closing) (.ofStore 8 2 .volatile) d a l k
/-- ST_32_REL (R210): Word store with release ordering. -/
def execSt32Rel (d : BitVec 7) (a : BitVec 7) (l : BitVec 4) (k : BitVec 3) (s : State) : Host.Outcome State Fault Refusal :=
  issue (Info.mem (one d) a k) true s fun V => 
    V.laneMem (Info.mem (one d) a k) (.ofStore 4 1 .release) d a l k
/-- ST_64_REL (R210): Doubleword store with release ordering. -/
def execSt64Rel (d : BitVec 7) (a : BitVec 7) (l : BitVec 4) (k : BitVec 3) (s : State) : Host.Outcome State Fault Refusal :=
  issue (Info.mem (two d) a k) true s fun V => 
    V.laneMem (Info.mem (two d) a k) (.ofStore 8 2 .release) d a l k
/-- AT_ADD (R212): Memory atomic add at the L2 in M, returning the old value. -/
def execAtAdd (d : BitVec 7) (a : BitVec 7) (l : BitVec 4) (k : BitVec 3) (s : State) : Host.Outcome State Fault Refusal :=
  issue ((Info.mem (one d) a k).closing) true s fun V => 
    V.laneMem ((Info.mem (one d) a k).closing) (.atomic 4 1 1 .add) d a l k
/-- AT_MIN_S (R212): Memory atomic signed minimum. -/
def execAtMinS (d : BitVec 7) (a : BitVec 7) (l : BitVec 4) (k : BitVec 3) (s : State) : Host.Outcome State Fault Refusal :=
  issue ((Info.mem (one d) a k).closing) true s fun V => 
    V.laneMem ((Info.mem (one d) a k).closing) (.atomic 4 1 1 .minS) d a l k
/-- AT_MAX_S (R212): Memory atomic signed maximum. -/
def execAtMaxS (d : BitVec 7) (a : BitVec 7) (l : BitVec 4) (k : BitVec 3) (s : State) : Host.Outcome State Fault Refusal :=
  issue ((Info.mem (one d) a k).closing) true s fun V => 
    V.laneMem ((Info.mem (one d) a k).closing) (.atomic 4 1 1 .maxS) d a l k
/-- AT_MIN_Z (R212): Memory atomic unsigned minimum. -/
def execAtMinZ (d : BitVec 7) (a : BitVec 7) (l : BitVec 4) (k : BitVec 3) (s : State) : Host.Outcome State Fault Refusal :=
  issue ((Info.mem (one d) a k).closing) true s fun V => 
    V.laneMem ((Info.mem (one d) a k).closing) (.atomic 4 1 1 .minZ) d a l k
/-- AT_MAX_Z (R212): Memory atomic unsigned maximum. -/
def execAtMaxZ (d : BitVec 7) (a : BitVec 7) (l : BitVec 4) (k : BitVec 3) (s : State) : Host.Outcome State Fault Refusal :=
  issue ((Info.mem (one d) a k).closing) true s fun V => 
    V.laneMem ((Info.mem (one d) a k).closing) (.atomic 4 1 1 .maxZ) d a l k
/-- AT_AND (R212): Memory atomic AND. -/
def execAtAnd (d : BitVec 7) (a : BitVec 7) (l : BitVec 4) (k : BitVec 3) (s : State) : Host.Outcome State Fault Refusal :=
  issue ((Info.mem (one d) a k).closing) true s fun V => 
    V.laneMem ((Info.mem (one d) a k).closing) (.atomic 4 1 1 .and) d a l k
/-- AT_OR (R212): Memory atomic OR. -/
def execAtOr (d : BitVec 7) (a : BitVec 7) (l : BitVec 4) (k : BitVec 3) (s : State) : Host.Outcome State Fault Refusal :=
  issue ((Info.mem (one d) a k).closing) true s fun V => 
    V.laneMem ((Info.mem (one d) a k).closing) (.atomic 4 1 1 .or) d a l k
/-- AT_XOR (R212): Memory atomic XOR. -/
def execAtXor (d : BitVec 7) (a : BitVec 7) (l : BitVec 4) (k : BitVec 3) (s : State) : Host.Outcome State Fault Refusal :=
  issue ((Info.mem (one d) a k).closing) true s fun V => 
    V.laneMem ((Info.mem (one d) a k).closing) (.atomic 4 1 1 .xor) d a l k
/-- AT_XCHG (R212): Memory atomic exchange. -/
def execAtXchg (d : BitVec 7) (a : BitVec 7) (l : BitVec 4) (k : BitVec 3) (s : State) : Host.Outcome State Fault Refusal :=
  issue ((Info.mem (one d) a k).closing) true s fun V => 
    V.laneMem ((Info.mem (one d) a k).closing) (.atomic 4 1 1 .xchg) d a l k
/-- AT_CAS (R212): Memory atomic 32-bit compare-and-swap on a pair operand. -/
def execAtCas (d : BitVec 7) (a : BitVec 7) (l : BitVec 4) (k : BitVec 3) (s : State) : Host.Outcome State Fault Refusal :=
  issue ((Info.mem (two d) a k).closing) true s fun V => 
    V.laneMem ((Info.mem (two d) a k).closing) (.atomic 4 1 2 .cas) d a l k
/-- AT_INCW (R212): Memory atomic wrapping increment bounded by D. -/
def execAtIncw (d : BitVec 7) (a : BitVec 7) (l : BitVec 4) (k : BitVec 3) (s : State) : Host.Outcome State Fault Refusal :=
  issue ((Info.mem (one d) a k).closing) true s fun V => 
    V.laneMem ((Info.mem (one d) a k).closing) (.atomic 4 1 1 .incw) d a l k
/-- AT_ADD_D (R212): Memory atomic 64-bit add. -/
def execAtAddD (d : BitVec 7) (a : BitVec 7) (l : BitVec 4) (k : BitVec 3) (s : State) : Host.Outcome State Fault Refusal :=
  issue ((Info.mem (two d) a k).closing) true s fun V => 
    V.laneMem ((Info.mem (two d) a k).closing) (.atomic 8 2 2 .add) d a l k
/-- AT_XCHG_D (R212): Memory atomic 64-bit exchange. -/
def execAtXchgD (d : BitVec 7) (a : BitVec 7) (l : BitVec 4) (k : BitVec 3) (s : State) : Host.Outcome State Fault Refusal :=
  issue ((Info.mem (two d) a k).closing) true s fun V => 
    V.laneMem ((Info.mem (two d) a k).closing) (.atomic 8 2 2 .xchg) d a l k
/-- AT_CAS_D (R212): Memory atomic 64-bit compare-and-swap on a quad operand. -/
def execAtCasD (d : BitVec 7) (a : BitVec 7) (l : BitVec 4) (k : BitVec 3) (s : State) : Host.Outcome State Fault Refusal :=
  issue ((Info.mem (four d) a k).closing) true s fun V => 
    V.laneMem ((Info.mem (four d) a k).closing) (.atomic 8 2 4 .cas) d a l k
/-- PREF (R213): Prefetches the line's sector into the L1, dropping failing lanes. -/
def execPref (a : BitVec 7) (l : BitVec 4) (k : BitVec 3) (s : State) : Host.Outcome State Fault Refusal :=
  issue (Info.line a k) true s fun V => V.prefetch (Info.line a k) a l k
/-- WBL (R213): Posts Clean and completes when home memory holds every earlier dirty sector. -/
def execWbl (a : BitVec 7) (l : BitVec 4) (k : BitVec 3) (s : State) : Host.Outcome State Fault Refusal :=
  issue (Info.line a k) true s fun V => 
    V.memory (Info.line a k) (.line .wbl .wbl) 0 l.toNat false (V.laneVas a k)
/-- DISC (R213): Posts Disc, declaring the line dead, and completes at its ordering point. -/
def execDisc (a : BitVec 7) (l : BitVec 4) (k : BitVec 3) (s : State) : Host.Outcome State Fault Refusal :=
  issue (Info.line a k) true s fun V => 
    V.memory (Info.line a k) (.line .disc .disc) 0 l.toNat false (V.laneVas a k)
/-- SLD_32 (R214): Uniform word load. -/
def execSld32 (d : BitVec 6) (a : BitVec 6) (l : BitVec 4) (i : BitVec 5) (s : State) : Host.Outcome State Fault Refusal :=
  issue (Info.umem (one d) a) true s fun V => 
    V.uniMem (Info.umem (one d) a) (.load 4 1 false .plain) d a l i
/-- SLD_64 (R214): Uniform doubleword load into a pair. -/
def execSld64 (d : BitVec 6) (a : BitVec 6) (l : BitVec 4) (i : BitVec 5) (s : State) : Host.Outcome State Fault Refusal :=
  issue (Info.umem (two d) a) true s fun V => 
    V.uniMem (Info.umem (two d) a) (.load 8 2 false .plain) d a l i
/-- SST_32 (R214): Uniform word store. -/
def execSst32 (d : BitVec 6) (a : BitVec 6) (l : BitVec 4) (i : BitVec 5) (s : State) : Host.Outcome State Fault Refusal :=
  issue (Info.umem (one d) a) true s fun V => 
    V.uniMem (Info.umem (one d) a) (.ofStore 4 1 .plain) d a l i
/-- SST_64 (R214): Uniform doubleword store. -/
def execSst64 (d : BitVec 6) (a : BitVec 6) (l : BitVec 4) (i : BitVec 5) (s : State) : Host.Outcome State Fault Refusal :=
  issue (Info.umem (two d) a) true s fun V => 
    V.uniMem (Info.umem (two d) a) (.ofStore 8 2 .plain) d a l i
/-- SLD_32_V (R214): Uniform volatile word load. -/
def execSld32V (d : BitVec 6) (a : BitVec 6) (l : BitVec 4) (i : BitVec 5) (s : State) : Host.Outcome State Fault Refusal :=
  issue ((Info.umem (one d) a).closing) true s fun V => 
    V.uniMem ((Info.umem (one d) a).closing) (.load 4 1 false .volatile) d a l i
/-- SST_32_V (R214): Uniform volatile word store. -/
def execSst32V (d : BitVec 6) (a : BitVec 6) (l : BitVec 4) (i : BitVec 5) (s : State) : Host.Outcome State Fault Refusal :=
  issue ((Info.umem (one d) a).closing) true s fun V => 
    V.uniMem ((Info.umem (one d) a).closing) (.ofStore 4 1 .volatile) d a l i
/-- SAT_ADD (R214): Uniform atomic add returning the old value. -/
def execSatAdd (d : BitVec 6) (a : BitVec 6) (l : BitVec 4) (i : BitVec 5) (s : State) : Host.Outcome State Fault Refusal :=
  issue ((Info.umem (one d) a).closing) true s fun V => 
    V.uniMem ((Info.umem (one d) a).closing) (.atomic 4 1 1 .add) d a l i
/-- SAT_CAS (R214): Uniform atomic compare-and-swap on a pair. -/
def execSatCas (d : BitVec 6) (a : BitVec 6) (l : BitVec 4) (i : BitVec 5) (s : State) : Host.Outcome State Fault Refusal :=
  issue ((Info.umem (two d) a).closing) true s fun V => 
    V.uniMem ((Info.umem (two d) a).closing) (.atomic 4 1 2 .cas) d a l i
/-- FENCE (R230): Orders earlier reads and writes before later ones within a scope. -/
def execFence (n : BitVec 3) (s : State) : Host.Outcome State Fault Refusal :=
  issue (Info.l [] []) (scopeOk n) s fun V => (V.fence true true false n).retire (Info.l [] [])
/-- FENCE_ACQ (R230): Orders earlier reads before later accesses within a scope. -/
def execFenceAcq (n : BitVec 3) (s : State) : Host.Outcome State Fault Refusal :=
  issue (Info.l [] []) (scopeOk n) s fun V => (V.fence false true false n).retire (Info.l [] [])
/-- FENCE_REL (R230): Orders earlier accesses before later writes within a scope. -/
def execFenceRel (n : BitVec 3) (s : State) : Host.Outcome State Fault Refusal :=
  issue (Info.l [] []) (scopeOk n) s fun V => (V.fence true false false n).retire (Info.l [] [])
/-- SFENCE (R230): Fence for the threads of EM and the warp's uniform stream. -/
def execSfence (n : BitVec 3) (s : State) : Host.Outcome State Fault Refusal :=
  issue (Info.u [] []) (scopeOk n) s fun V => (V.fence true true true n).retire (Info.u [] [])
/-- LONG_LATENCY_COMPLETE (R30): a pending producer binds or performs what it can, and completes when every lane has its value; an
ARWAIT that was abandoned is issued again first. -/
def execLongLatencyComplete (core quad warp seq : Nat) (s : State) : Host.Outcome State Fault Refusal :=
  match s.warp core quad warp with
  | none => .next s
  | some w => match w.pend.find? fun o => o.seq == seq with
    | some o => .next (if o.again then s.arwaitAgain core quad warp w o else s.advanceOp core quad warp o)
    | none => .next s

/-- STORE_PERFORM (R202): the store at place k leaves the store buffer and is performed, or its GetM is posted. -/
def execStorePerform (core quad warp k : Nat) (s : State) : Host.Outcome State Fault Refusal :=
  .next ((s.performStore core quad warp k).getD s)


end Sys2Proof.Machine
end

