-- ==== Sys2Proof/Machine/Moves.lean ====
section
/-! DEFINITION. Moves, the index register, system registers, picks and votes (R79, R82-R88, R158, R166, R167). -/
namespace Sys2Proof.Machine

/-! ### System registers (R82) -/

/-- The member count of a crew on the core; 0 where there is none. -/
def Core.crewSize (c : Core) (n : Nat) : Nat := match c.crews.find n with
  | some k => k.members.length
  | none => 0
/-- A per-lane or uniform system register as one lane reads it, in 64 bits; a management core has no logical core number (R9). -/
def View.sysValue (V : View) (n l : Nat) : Dword :=
  let w (x : Nat) : Dword := BitVec.ofNat 64 x
  match n with
  | 0 => match V.w.member l with
    | some (_, seat) => w seat
    | none => w 0xFFFFFFFF
  | 1 => match V.w.tids.find? fun x => x.1 == l with
    | some (_, t) => t.setWidth 64
    | none => 0
  | 2 => w (16 * V.qn + V.wn)
  | 3 => match V.w.crewOf l with
    | some k => w k
    | none => w 0xFFFFFFFF
  | 4 => match V.w.crewOf l with
    | some k => w (V.c.crewSize k)
    | none => 0
  | 5 => if V.w.mgmt then (Config.freeUniform V.s.fresh 5).setWidth 64 else w V.cn
  | 6 => w (fieldOf V.cn)
  | 7 => V.em.setWidth 64
  | 8 => V.w.fmode.setWidth 64
  | 9 => V.w.trap.cause.setWidth 64
  | 10 => V.w.trap.epc
  | 11 => V.w.trap.eva
  | 12 => V.w.trap.fmask.setWidth 64
  | 13 => w V.c.cycle
  | 14 => w V.s.time
  | 15 => match V.s.entryAt V.s.time with
    | some (n, _, _) => w n
    | none => w ((Config.freeUniform V.s.fresh 15).toNat % 64)
  | 16 => w (V.w.ctx % 4096)
  | 17 => w (V.w.allot + V.w.base * 2 ^ 7 + V.w.ubase * 2 ^ 17 + V.qn * 2 ^ 27)
  | _ => 0

/-- What SWRS does to the trap registers (R82, R87); the reserved bits of CAUSE are ignored, since no rule gives them a fate (R3). -/
def TrapRegs.write (t : TrapRegs) (n : Nat) (x : Dword) : Option TrapRegs :=
  match n with
  | 9 => some { t with cause := x.setWidth 9 }
  | 10 => some { t with epc := x }
  | 11 => some { t with eva := x }
  | 12 => some { t with fmask := x.setWidth 32 }
  | _ => none
/-- A write of a system register: `none` where the value raises cause 0x002 (R87). -/
def View.writeSys (V : View) (n : Nat) (x : Dword) : Option View :=
  if n = 8 then (if x.toNat < 8 then some { V with w := { V.w with fmode := x.setWidth 3 } } else none)
  else if n = 7 then
    let m : Word := x.setWidth 32
    if m = 0#32 ∨ m &&& ~~~V.em ≠ 0#32 then none
    else some { V with p := { V.p with rest := V.p.rest ||| (V.em &&& ~~~m) } }
  else (V.w.trap.write n x).map fun t => { V with w := { V.w with trap := t } }

/-! ### The index register (R79, R86) -/

/-- vx + sext(i7) of a lane, exactly. -/
def View.index (V : View) (i : BitVec 7) (l : Nat) : Int := ((V.vx l).toNat : Int) + i.toInt
/-- The lanes of EM whose index lies outside the allotment. -/
def View.indexBad (V : View) (i : BitVec 7) : Word :=
  maskOf fun l => V.em.getLsbD l && (decide (V.index i l < 0) || decide ((V.w.allot : Int) ≤ V.index i l))
/-- Pending producers of the registers that the lanes of EM index (R30, R86). -/
def View.indexWait (V : View) (i : BitVec 7) : List Nat :=
  ((lanesOf V.em).map fun l => (V.index i l).toNat).eraseDups.filter (V.pendingReg false)
/-- The common part of MOVX.G and MOVX.P: the check of R79, then the scoreboard, then the move. -/
def View.indexed (V : View) (i : BitVec 7) (eff : View → State) : State :=
  if V.indexBad i ≠ 0#32 then V.fault 0x00A 0#64 (V.indexBad i)
  else if V.indexWait i ≠ [] then V.breakRun (.score (V.indexWait i) [] 0)
  else eff V
/-- Write one lane of a register. -/
def View.writeOne (V : View) (k l : Nat) (x : Word) : View :=
  { ({ V with em := BitVec.ofNat 32 (2 ^ l) } : View).writeLane k (fun _ => x) with em := V.em }

/-- MOV (R84): Copies a lane register in each active lane. -/
def execMov (d : BitVec 7) (a : BitVec 7) (s : State) : Host.Outcome State Fault Refusal :=
  issueReg (Info.lane2 d a) s fun V => V.writeLane d.toNat (V.lane a.toNat)
/-- MOV_D (R84): Copies a lane register pair in each active lane. -/
def execMovD (d : BitVec 7) (a : BitVec 7) (s : State) : Host.Outcome State Fault Refusal :=
  issueReg (Info.pair2 d a) s fun V => V.writeLane64 d.toNat (V.lane64 a.toNat)
/-- MOVI (R85): Writes a sign-extended 14-bit constant to each active lane. -/
def execMovi (d : BitVec 7) (i : BitVec 14) (s : State) : Host.Outcome State Fault Refusal :=
  issueReg (Info.lane1 d) s fun V => V.writeLane d.toNat fun _ => simm i
/-- MOVH (R85): Shifts the destination left 14 bits and inserts a 14-bit constant. -/
def execMovh (d : BitVec 7) (i : BitVec 14) (s : State) : Host.Outcome State Fault Refusal :=
  issueReg (Info.lane1 d) s fun V => V.writeLane d.toNat fun l => (V.lane d.toNat l <<< 14) ||| zimm i
/-- MOV_B (R84): Copies a uniform register into each active lane. -/
def execMovB (d : BitVec 7) (a : BitVec 6) (s : State) : Host.Outcome State Fault Refusal :=
  issueReg (Info.uniToLane d a) s fun V => V.writeLane d.toNat fun _ => V.uni a.toNat
/-- SETX (R86): Writes each active lane's index register from a mod 256. -/
def execSetx (a : BitVec 7) (s : State) : Host.Outcome State Fault Refusal :=
  issueReg (Info.laneSrc a) s fun V => V.writeVx fun l => (V.lane a.toNat l).setWidth 8
/-- SETXI (R86): Writes each active lane's index register from an immediate 0 to 255. -/
def execSetxi (i : BitVec 8) (s : State) : Host.Outcome State Fault Refusal :=
  issueReg (Info.l [] []) s fun V => V.writeVx fun _ => i
/-- MOVX_G (R86): Reads the lane register indexed by vx plus an offset into d. -/
def execMovxG (d : BitVec 7) (i : BitVec 7) (s : State) : Host.Outcome State Fault Refusal :=
  issue (Info.lane1 d) true s fun V => V.indexed i fun V =>
    (V.writeLane d.toNat fun l => V.lane (V.index i l).toNat l).retire (Info.lane1 d)
/-- MOVX_P (R86): Writes a into the lane register indexed by vx plus an offset. -/
def execMovxP (a : BitVec 7) (i : BitVec 7) (s : State) : Host.Outcome State Fault Refusal :=
  issue (Info.laneSrc a) true s fun V => V.indexed i fun V =>
    ((lanesOf V.em).foldl (fun W l => W.writeOne (V.index i l).toNat l (V.lane a.toNat l)) V).retire (Info.laneSrc a)
/-- RDS (R87): Reads a system register into each active lane. -/
def execRds (d : BitVec 7) (n : BitVec 14) (s : State) : Host.Outcome State Fault Refusal :=
  issue (Info.sysToLane d n) (sysregOk n.toNat) s fun V => 
    (if sysreg64 n.toNat then V.writeLane64 d.toNat (V.sysValue n.toNat)
     else V.writeLane d.toNat fun l => (V.sysValue n.toNat l).setWidth 32).retire (Info.sysToLane d n)
/-- SMOV (R88): Copies a uniform register. -/
def execSmov (d : BitVec 6) (a : BitVec 6) (s : State) : Host.Outcome State Fault Refusal :=
  issueReg (Info.uni2 d a) s fun V => V.writeUni d.toNat (V.uni a.toNat)
/-- SMOVI (R85): Writes a sign-extended 15-bit constant to a uniform register. -/
def execSmovi (d : BitVec 6) (i : BitVec 15) (s : State) : Host.Outcome State Fault Refusal :=
  issueReg (Info.uni1 d) s fun V => V.writeUni d.toNat (simm i)
/-- SMOVH (R85): Shifts a uniform register left 15 bits and inserts a constant. -/
def execSmovh (d : BitVec 6) (i : BitVec 15) (s : State) : Host.Outcome State Fault Refusal :=
  issueReg (Info.uni1 d).alsoReads s fun V => V.writeUni d.toNat ((V.uni d.toNat <<< 15) ||| zimm i)
/-- SRDS (R87): Reads a uniform system register into a uniform register. -/
def execSrds (d : BitVec 6) (n : BitVec 15) (s : State) : Host.Outcome State Fault Refusal :=
  issue (Info.sysToUni d n) (sysregOk n.toNat && !sysregPerLane n.toNat) s fun V => 
    (if sysreg64 n.toNat then V.writeUni64 d.toNat (V.sysValue n.toNat 0)
     else V.writeUni d.toNat ((V.sysValue n.toNat 0).setWidth 32)).retire (Info.sysToUni d n)
/-- SWRS (R87): Writes a system register such as FMODE, EM, CAUSE, EPC, EVA or FMASK. -/
def execSwrs (d : BitVec 6) (n : BitVec 15) (s : State) : Host.Outcome State Fault Refusal :=
  issue ((Info.sysFrom d n).privileged (n.toNat != 8 && sysregWritable n.toNat)) (sysregWritable n.toNat) s fun V => 
    match V.writeSys n.toNat (if sysreg64 n.toNat then V.uni64 d.toNat else (V.uni d.toNat).setWidth 64) with
    | some W => W.retire ((Info.sysFrom d n).privileged (n.toNat != 8 && sysregWritable n.toNat))
    | none => V.issueFault 0x002
/-- SGETL (R88): Reads one virtual lane of a lane register into a uniform register. -/
def execSgetl (d : BitVec 6) (l : BitVec 5) (k : BitVec 7) (s : State) : Host.Outcome State Fault Refusal :=
  issueReg (Info.getLane d k) s fun V => V.writeUni d.toNat (V.lane k.toNat l.toNat)
/-! ### Cross-lane access (R158, R166, R167) -/

/-- The lane below or above by n, or the lane itself. -/
def laneBelow (l n : Nat) : Nat := if n ≤ l then l - n else l
def laneAbove (l n : Nat) : Nat := if l + n < 32 then l + n else l
/-- The lane whose valid remap entry holds a seat, or the lane itself; of members of different crews in one seat, the first entry (R166; DESIGN
CHOICE, notes/assumptions/72.md). -/
def Warp.seatLane (w : Warp) (seat l : Nat) : Nat :=
  match w.remap.find? fun e => e.2.2 == seat with
  | some e => e.1
  | none => l
/-- Copy each active lane's value from a source lane. -/
def View.pick (V : View) (d a : BitVec 7) (j : Nat → Nat) : View := V.writeLane d.toNat fun l => V.lane a.toNat (j l)
/-- The lanes of EM that hold a non-zero value. -/
def View.ballot (V : View) (a : BitVec 7) : Word := maskOf fun l => V.em.getLsbD l && V.lane a.toNat l != 0#32

/-- PICK_LANE (R166): Copies v[a] from the virtual lane selected per lane by v[b]. -/
def execPickLane (d : BitVec 7) (a : BitVec 7) (b : BitVec 7) (s : State) : Host.Outcome State Fault Refusal :=
  issueReg (Info.lane3 d a b) s fun V => V.pick d a fun l => (V.lane b.toNat l).toNat % 32
/-- PICK_FLIP (R166): Copies v[a] from lane l XOR n. -/
def execPickFlip (d : BitVec 7) (a : BitVec 7) (n : BitVec 5) (s : State) : Host.Outcome State Fault Refusal :=
  issueReg (Info.lane2 d a) s fun V => V.pick d a fun l => l ^^^ n.toNat
/-- PICK_LO (R166): Copies v[a] from lane l minus n. -/
def execPickLo (d : BitVec 7) (a : BitVec 7) (n : BitVec 5) (s : State) : Host.Outcome State Fault Refusal :=
  issueReg (Info.lane2 d a) s fun V => V.pick d a fun l => laneBelow l n.toNat
/-- PICK_HI (R166): Copies v[a] from lane l plus n. -/
def execPickHi (d : BitVec 7) (a : BitVec 7) (n : BitVec 5) (s : State) : Host.Outcome State Fault Refusal :=
  issueReg (Info.lane2 d a) s fun V => V.pick d a fun l => laneAbove l n.toNat
/-- PICK_SEAT (R166): Copies v[a] from the lane holding the seat selected by v[b]. -/
def execPickSeat (d : BitVec 7) (a : BitVec 7) (b : BitVec 7) (s : State) : Host.Outcome State Fault Refusal :=
  issueReg (Info.lane3 d a b) s fun V => V.pick d a fun l => V.w.seatLane ((V.lane b.toNat l).toNat % 1024) l
/-- VOTE_ANY (R167): Writes 1 if some active lane has a non-zero v[a]. -/
def execVoteAny (d : BitVec 6) (a : BitVec 7) (s : State) : Host.Outcome State Fault Refusal :=
  issueReg (Info.mask1 d a) s fun V => V.writeUni d.toNat (truth (V.ballot a != 0#32))
/-- VOTE_ALL (R167): Writes 1 if every active lane has a non-zero v[a]. -/
def execVoteAll (d : BitVec 6) (a : BitVec 7) (s : State) : Host.Outcome State Fault Refusal :=
  issueReg (Info.mask1 d a) s fun V => V.writeUni d.toNat (truth (V.ballot a == V.em))
/-- VOTE_BAL (R167): Writes the ballot mask of active lanes with non-zero v[a]. -/
def execVoteBal (d : BitVec 6) (a : BitVec 7) (s : State) : Host.Outcome State Fault Refusal :=
  issueReg (Info.mask1 d a) s fun V => V.writeUni d.toNat (V.ballot a)

end Sys2Proof.Machine
end

