-- ==== Sys2Proof/Machine/UniformInt.lean ====
section
/-! DEFINITION. Uniform integer operations (R102-R104). -/
namespace Sys2Proof.Machine

/-- SADD (R102): Adds two uniform registers. -/
def execSadd (d : BitVec 6) (a : BitVec 6) (b : BitVec 6) (s : State) : Host.Outcome State Fault Refusal :=
  issueReg (Info.uni3 d a b) s fun V => V.writeUni d.toNat (V.uni a.toNat + V.uni b.toNat)
/-- SSUB (R102): Subtracts two uniform registers. -/
def execSsub (d : BitVec 6) (a : BitVec 6) (b : BitVec 6) (s : State) : Host.Outcome State Fault Refusal :=
  issueReg (Info.uni3 d a b) s fun V => V.writeUni d.toNat (V.uni a.toNat - V.uni b.toNat)
/-- SADDI (R102): Adds a sign-extended 9-bit immediate to a uniform register. -/
def execSaddi (d : BitVec 6) (a : BitVec 6) (i : BitVec 9) (s : State) : Host.Outcome State Fault Refusal :=
  issueReg (Info.uni2 d a) s fun V => V.writeUni d.toNat (V.uni a.toNat + simm i)
/-- SMUL (R102): Uniform low 32-bit product. -/
def execSmul (d : BitVec 6) (a : BitVec 6) (b : BitVec 6) (s : State) : Host.Outcome State Fault Refusal :=
  issueReg (Info.uni3 d a b) s fun V => V.writeUni d.toNat (V.uni a.toNat * V.uni b.toNat)
/-- SMULH_S (R102): Uniform signed high product. -/
def execSmulhS (d : BitVec 6) (a : BitVec 6) (b : BitVec 6) (s : State) : Host.Outcome State Fault Refusal :=
  issueReg (Info.uni3 d a b) s fun V => V.writeUni d.toNat (mulHiS (V.uni a.toNat) (V.uni b.toNat))
/-- SMULH_Z (R102): Uniform unsigned high product. -/
def execSmulhZ (d : BitVec 6) (a : BitVec 6) (b : BitVec 6) (s : State) : Host.Outcome State Fault Refusal :=
  issueReg (Info.uni3 d a b) s fun V => V.writeUni d.toNat (mulHiZ (V.uni a.toNat) (V.uni b.toNat))
/-- SMIN_S (R102): Uniform signed minimum. -/
def execSminS (d : BitVec 6) (a : BitVec 6) (b : BitVec 6) (s : State) : Host.Outcome State Fault Refusal :=
  issueReg (Info.uni3 d a b) s fun V => V.writeUni d.toNat (minSigned (V.uni a.toNat) (V.uni b.toNat))
/-- SMAX_S (R102): Uniform signed maximum. -/
def execSmaxS (d : BitVec 6) (a : BitVec 6) (b : BitVec 6) (s : State) : Host.Outcome State Fault Refusal :=
  issueReg (Info.uni3 d a b) s fun V => V.writeUni d.toNat (maxSigned (V.uni a.toNat) (V.uni b.toNat))
/-- SMIN_Z (R102): Uniform unsigned minimum. -/
def execSminZ (d : BitVec 6) (a : BitVec 6) (b : BitVec 6) (s : State) : Host.Outcome State Fault Refusal :=
  issueReg (Info.uni3 d a b) s fun V => V.writeUni d.toNat (minUnsigned (V.uni a.toNat) (V.uni b.toNat))
/-- SMAX_Z (R102): Uniform unsigned maximum. -/
def execSmaxZ (d : BitVec 6) (a : BitVec 6) (b : BitVec 6) (s : State) : Host.Outcome State Fault Refusal :=
  issueReg (Info.uni3 d a b) s fun V => V.writeUni d.toNat (maxUnsigned (V.uni a.toNat) (V.uni b.toNat))
/-- SAND (R102): Uniform bitwise AND. -/
def execSand (d : BitVec 6) (a : BitVec 6) (b : BitVec 6) (s : State) : Host.Outcome State Fault Refusal :=
  issueReg (Info.uni3 d a b) s fun V => V.writeUni d.toNat (V.uni a.toNat &&& V.uni b.toNat)
/-- SOR (R102): Uniform bitwise OR. -/
def execSor (d : BitVec 6) (a : BitVec 6) (b : BitVec 6) (s : State) : Host.Outcome State Fault Refusal :=
  issueReg (Info.uni3 d a b) s fun V => V.writeUni d.toNat (V.uni a.toNat ||| V.uni b.toNat)
/-- SXOR (R102): Uniform bitwise XOR. -/
def execSxor (d : BitVec 6) (a : BitVec 6) (b : BitVec 6) (s : State) : Host.Outcome State Fault Refusal :=
  issueReg (Info.uni3 d a b) s fun V => V.writeUni d.toNat (V.uni a.toNat ^^^ V.uni b.toNat)
/-- SANDN (R102): Uniform a AND NOT b. -/
def execSandn (d : BitVec 6) (a : BitVec 6) (b : BitVec 6) (s : State) : Host.Outcome State Fault Refusal :=
  issueReg (Info.uni3 d a b) s fun V => V.writeUni d.toNat (andNot (V.uni a.toNat) (V.uni b.toNat))
/-- SANDI (R102): Uniform AND with a sign-extended 9-bit immediate. -/
def execSandi (d : BitVec 6) (a : BitVec 6) (i : BitVec 9) (s : State) : Host.Outcome State Fault Refusal :=
  issueReg (Info.uni2 d a) s fun V => V.writeUni d.toNat (V.uni a.toNat &&& simm i)
/-- SORI (R102): Uniform OR with a sign-extended 9-bit immediate. -/
def execSori (d : BitVec 6) (a : BitVec 6) (i : BitVec 9) (s : State) : Host.Outcome State Fault Refusal :=
  issueReg (Info.uni2 d a) s fun V => V.writeUni d.toNat (V.uni a.toNat ||| simm i)
/-- SXORI (R102): Uniform XOR with a sign-extended 9-bit immediate. -/
def execSxori (d : BitVec 6) (a : BitVec 6) (i : BitVec 9) (s : State) : Host.Outcome State Fault Refusal :=
  issueReg (Info.uni2 d a) s fun V => V.writeUni d.toNat (V.uni a.toNat ^^^ simm i)
/-- SSHL (R102): Uniform left shift by a register count. -/
def execSshl (d : BitVec 6) (a : BitVec 6) (b : BitVec 6) (s : State) : Host.Outcome State Fault Refusal :=
  issueReg (Info.uni3 d a b) s fun V => V.writeUni d.toNat (shiftLeft (V.uni a.toNat) (shiftCount (V.uni b.toNat)))
/-- SSHR (R102): Uniform logical right shift by a register count. -/
def execSshr (d : BitVec 6) (a : BitVec 6) (b : BitVec 6) (s : State) : Host.Outcome State Fault Refusal :=
  issueReg (Info.uni3 d a b) s fun V => V.writeUni d.toNat (shiftRight (V.uni a.toNat) (shiftCount (V.uni b.toNat)))
/-- SSAR (R102): Uniform arithmetic right shift by a register count. -/
def execSsar (d : BitVec 6) (a : BitVec 6) (b : BitVec 6) (s : State) : Host.Outcome State Fault Refusal :=
  issueReg (Info.uni3 d a b) s fun V => V.writeUni d.toNat (shiftArith (V.uni a.toNat) (shiftCount (V.uni b.toNat)))
/-- SSHLI (R102): Uniform left shift by an immediate count. -/
def execSshli (d : BitVec 6) (a : BitVec 6) (n : BitVec 5) (s : State) : Host.Outcome State Fault Refusal :=
  issueReg (Info.uni2 d a) s fun V => V.writeUni d.toNat (shiftLeft (V.uni a.toNat) n.toNat)
/-- SSHRI (R102): Uniform logical right shift by an immediate count. -/
def execSshri (d : BitVec 6) (a : BitVec 6) (n : BitVec 5) (s : State) : Host.Outcome State Fault Refusal :=
  issueReg (Info.uni2 d a) s fun V => V.writeUni d.toNat (shiftRight (V.uni a.toNat) n.toNat)
/-- SSARI (R102): Uniform arithmetic right shift by an immediate count. -/
def execSsari (d : BitVec 6) (a : BitVec 6) (n : BitVec 5) (s : State) : Host.Outcome State Fault Refusal :=
  issueReg (Info.uni2 d a) s fun V => V.writeUni d.toNat (shiftArith (V.uni a.toNat) n.toNat)
/-- SPOPC (R102): Uniform population count. -/
def execSpopc (d : BitVec 6) (a : BitVec 6) (s : State) : Host.Outcome State Fault Refusal :=
  issueReg (Info.uni2 d a) s fun V => V.writeUni d.toNat (popCount (V.uni a.toNat))
/-- SCLZ (R102): Uniform count of leading zeros. -/
def execSclz (d : BitVec 6) (a : BitVec 6) (s : State) : Host.Outcome State Fault Refusal :=
  issueReg (Info.uni2 d a) s fun V => V.writeUni d.toNat (leadingZeros (V.uni a.toNat))
/-- SFFS (R102): Writes the index of the lowest 1 bit, 32 for zero. -/
def execSffs (d : BitVec 6) (a : BitVec 6) (s : State) : Host.Outcome State Fault Refusal :=
  issueReg (Info.uni2 d a) s fun V => V.writeUni d.toNat (firstSet (V.uni a.toNat))
/-- SBREV (R102): Uniform bit reversal. -/
def execSbrev (d : BitVec 6) (a : BitVec 6) (s : State) : Host.Outcome State Fault Refusal :=
  issueReg (Info.uni2 d a) s fun V => V.writeUni d.toNat (reverseBits (V.uni a.toNat))
/-- SBFX_Z (R102): Uniform zero-extended bit-field extract. -/
def execSbfxZ (d : BitVec 6) (a : BitVec 6) (b : BitVec 6) (s : State) : Host.Outcome State Fault Refusal :=
  issueReg (Info.uni3 d a b) s fun V => V.writeUni d.toNat (extractZ (V.uni a.toNat) (V.uni b.toNat))
/-- SBFI (R102): Uniform bit-field insert into the destination. -/
def execSbfi (d : BitVec 6) (a : BitVec 6) (b : BitVec 6) (s : State) : Host.Outcome State Fault Refusal :=
  issueReg (Info.uni3 d a b).alsoReads s fun V => V.writeUni d.toNat (insertField (V.uni a.toNat) (V.uni b.toNat) (V.uni d.toNat))
/-- SADD_D (R102): Uniform 64-bit pair add. -/
def execSaddD (d : BitVec 6) (a : BitVec 6) (b : BitVec 6) (s : State) : Host.Outcome State Fault Refusal :=
  issueReg (Info.uniPair3 d a b) s fun V => V.writeUni64 d.toNat (V.uni64 a.toNat + V.uni64 b.toNat)
/-- SSUB_D (R102): Uniform 64-bit pair subtract. -/
def execSsubD (d : BitVec 6) (a : BitVec 6) (b : BitVec 6) (s : State) : Host.Outcome State Fault Refusal :=
  issueReg (Info.uniPair3 d a b) s fun V => V.writeUni64 d.toNat (V.uni64 a.toNat - V.uni64 b.toNat)
/-- SCMP_EQ (R103): Writes 1 if two uniform registers are equal, else 0. -/
def execScmpEq (d : BitVec 6) (a : BitVec 6) (b : BitVec 6) (s : State) : Host.Outcome State Fault Refusal :=
  issueReg (Info.uni3 d a b) s fun V => V.writeUni d.toNat (truth (V.uni a.toNat == V.uni b.toNat))
/-- SCMP_NE (R103): Writes 1 if two uniform registers differ. -/
def execScmpNe (d : BitVec 6) (a : BitVec 6) (b : BitVec 6) (s : State) : Host.Outcome State Fault Refusal :=
  issueReg (Info.uni3 d a b) s fun V => V.writeUni d.toNat (truth (V.uni a.toNat != V.uni b.toNat))
/-- SCMP_LT_S (R103): Writes 1 if a is signed-less than b. -/
def execScmpLtS (d : BitVec 6) (a : BitVec 6) (b : BitVec 6) (s : State) : Host.Outcome State Fault Refusal :=
  issueReg (Info.uni3 d a b) s fun V => V.writeUni d.toNat (truth (ltS (V.uni a.toNat) (V.uni b.toNat)))
/-- SCMP_LE_S (R103): Writes 1 if a is signed-less than or equal to b. -/
def execScmpLeS (d : BitVec 6) (a : BitVec 6) (b : BitVec 6) (s : State) : Host.Outcome State Fault Refusal :=
  issueReg (Info.uni3 d a b) s fun V => V.writeUni d.toNat (truth (leS (V.uni a.toNat) (V.uni b.toNat)))
/-- SCMP_LT_Z (R103): Writes 1 if a is unsigned-less than b. -/
def execScmpLtZ (d : BitVec 6) (a : BitVec 6) (b : BitVec 6) (s : State) : Host.Outcome State Fault Refusal :=
  issueReg (Info.uni3 d a b) s fun V => V.writeUni d.toNat (truth (ltZ (V.uni a.toNat) (V.uni b.toNat)))
/-- SCMP_LE_Z (R103): Writes 1 if a is unsigned-less than or equal to b. -/
def execScmpLeZ (d : BitVec 6) (a : BitVec 6) (b : BitVec 6) (s : State) : Host.Outcome State Fault Refusal :=
  issueReg (Info.uni3 d a b) s fun V => V.writeUni d.toNat (truth (leZ (V.uni a.toNat) (V.uni b.toNat)))
/-- SSEL (R104): Selects a or b by a condition register s0–s7. -/
def execSsel (d : BitVec 6) (a : BitVec 6) (b : BitVec 6) (f : BitVec 3) (s : State) : Host.Outcome State Fault Refusal :=
  issueReg (Info.uni4 d a b f) s fun V => V.writeUni d.toNat (if V.uni f.toNat ≠ 0#32 then V.uni a.toNat else V.uni b.toNat)
/-- SDIV_Z (R102): Uniform unsigned division. -/
def execSdivZ (d : BitVec 6) (a : BitVec 6) (b : BitVec 6) (s : State) : Host.Outcome State Fault Refusal :=
  issueReg ((Info.uni3 d a b).taking 10) s fun V => V.writeUni d.toNat (divUnsigned (V.uni a.toNat) (V.uni b.toNat))
/-- SREM_Z (R102): Uniform unsigned remainder. -/
def execSremZ (d : BitVec 6) (a : BitVec 6) (b : BitVec 6) (s : State) : Host.Outcome State Fault Refusal :=
  issueReg ((Info.uni3 d a b).taking 10) s fun V => V.writeUni d.toNat (remUnsigned (V.uni a.toNat) (V.uni b.toNat))

end Sys2Proof.Machine
end

