-- ==== Sys2Proof/Machine/WindowEvents.lean ====
section
/-! DEFINITION. Window accesses that arrive at a core from another master, and writes to the core's control records (R13, R14, R335, R366), and the host's accesses to BAR 0 of its functions (R379, R394, R396). -/
namespace Sys2Proof.Machine

/-- A window access of a master (R13, R14, R242): refused whole by its lowest failing granule, else performed; a read's bytes leave
through `out`. -/
def State.windowAccess (s : State) (master : Option Nat) (cn off len : Nat) (wdata : Option (List Byte)) : State :=
  let n := match wdata with
    | some bs => bs.length
    | none => len
  match s.windowRangeCheck cn off n master wdata.isSome with
  | some cause => { s with out := s.out ++ [.windowRefused cn off cause] }
  | none =>
    match wdata with
    | some bs => s.windowWrite cn off bs master
    | none => { s with out := s.out ++ [.window cn off (s.windowBytes cn off n master)], fresh := s.fresh + 1 }

/-- Whom the access tables see behind a master (R242): the context that its port is bound to, that of its connection, or none. -/
def State.carries (s : State) : Master → Option Nat
  | .management => none
  | .port p => some ((s.ports.find p).getD (Port.blank p)).ctx
  | .peer ctx => some ctx
  | .physical => none
  | .virtual _ ctx => some ctx
/-- The host's access to a core's window over a port (R378): a decoder of the port maps the range. -/
def State.portWindow (s : State) (p cn off n : Nat) : Bool := ((s.ports.find p).getD (Port.blank p)).decodes (0x800000000000 + 0x400000 * cn + off) n
/-- An access to a window, or to BAR 0 of a function, by its master. -/
def State.masterAccess (s : State) (master : Master) (cn off len : Nat) (wdata : Option (List Byte)) : State :=
  let n := match wdata with
    | some bs => bs.length
    | none => len
  match master with
  | .physical => s.barAccess none off len wdata
  | .virtual p ctx => s.barAccess (some (p, ctx)) off len wdata
  | .port p => if s.portWindow p cn off n then s.windowAccess (s.carries master) cn off len wdata
      else { s with out := s.out ++ [.windowRefused cn off 0x045] }
  | _ => s.windowAccess (s.carries master) cn off len wdata
/-- WINDOW_ACCESS (R14): A window access arrives at its target core and is checked and performed per granule. -/
def execWindowAccess (master : Master) (core off len : Nat) (wdata : Option (List (BitVec 8))) (s : State) : Host.Outcome State Fault Refusal :=
  .next (s.masterAccess master core off len wdata)
/-- REGISTER_WRITE (R13): A write to a register or record with no behaviour of its own stores or discards the value. -/
def execRegisterWrite (master : Master) (core off : Nat) (value : BitVec 64) (s : State) : Host.Outcome State Fault Refusal :=
  .next (s.masterAccess master core off 8 (some (toLe value.toNat 8)))
/-- TRAP_RESUME (R335): A write of 1 to the trap window's resume bit checks, replays and resumes a halted warp. -/
def execTrapResume (core quad warp : Nat) (s : State) : Host.Outcome State Fault Refusal := .next (s.resume core quad warp)
/-- SAMPLER_ENABLE (R367): Setting sampler control bit [0] enables sampling and fixes the tick origin. -/
def execSamplerEnable (core : Nat) (s : State) : Host.Outcome State Fault Refusal :=
  let b : Byte := (s.core core).sampler.ctl.extractLsb' 0 8 ||| 1#8
  .next (s.windowWrite core 0x18E000 [b] none)
/-- DROPPED_COUNT_CLEAR (R366): A firmware write to the dropped count sets it to 0. -/
def execDroppedCountClear (core : Nat) (s : State) : Host.Outcome State Fault Refusal :=
  .next (s.windowWrite core 0x18E024 [0#8, 0#8, 0#8, 0#8] none)

end Sys2Proof.Machine
end

