-- ==== Sys2Proof/Machine/Dispatch.lean ====
section
/-! DEFINITION. The dispatch: one arm per constructor of `Instr`, each a direct call of its meaning. -/
namespace Sys2Proof.Machine

def exec (i : Instr) (s : State) : Host.Outcome State Fault Refusal :=
  match i with
  | .warpSelect core quad => Sys2Proof.Machine.execWarpSelect core quad s
  | .longLatencyComplete core quad warp seq => Sys2Proof.Machine.execLongLatencyComplete core quad warp seq s
  | .rotation core quad warp => Sys2Proof.Machine.execRotation core quad warp s
  | .rotationGiveUp core quad warp => Sys2Proof.Machine.execRotationGiveUp core quad warp s
  | .joinProceed core quad warp slot => Sys2Proof.Machine.execJoinProceed core quad warp slot s
  | .crewRelease core crew => Sys2Proof.Machine.execCrewRelease core crew s
  | .binTimerExpiry core bin => Sys2Proof.Machine.execBinTimerExpiry core bin s
  | .binLaunch core bin => Sys2Proof.Machine.execBinLaunch core bin s
  | .launchWarpCreate launch core => Sys2Proof.Machine.execLaunchWarpCreate launch core s
  | .warpEnd core quad warp => Sys2Proof.Machine.execWarpEnd core quad warp s
  | .scratchpadAccept core => Sys2Proof.Machine.execScratchpadAccept core s
  | .windowAccess master core off len wdata => Sys2Proof.Machine.execWindowAccess master core off len wdata s
  | .multicastDelivery k => Sys2Proof.Machine.execMulticastDelivery k s
  | .storePerform core quad warp k => Sys2Proof.Machine.execStorePerform core quad warp k s
  | .dataArrival field line => Sys2Proof.Machine.execDataArrival field line s
  | .gets cluster bus => Sys2Proof.Machine.execGets cluster bus s
  | .getm cluster bus => Sys2Proof.Machine.execGetm cluster bus s
  | .put cluster bus => Sys2Proof.Machine.execPut cluster bus s
  | .clean cluster bus => Sys2Proof.Machine.execClean cluster bus s
  | .discMessage cluster bus => Sys2Proof.Machine.execDiscMessage cluster bus s
  | .hgets port line => Sys2Proof.Machine.execHgets port line s
  | .hgetm port line wdata => Sys2Proof.Machine.execHgetm port line wdata s
  | .snpdata line => Sys2Proof.Machine.execSnpdata line s
  | .snpinv line => Sys2Proof.Machine.execSnpinv line s
  | .snpcur line => Sys2Proof.Machine.execSnpcur line s
  | .deferredFaultRaise core quad warp => Sys2Proof.Machine.execDeferredFaultRaise core quad warp s
  | .watchpointReport core quad warp => Sys2Proof.Machine.execWatchpointReport core quad warp s
  | .trapResume core quad warp => Sys2Proof.Machine.execTrapResume core quad warp s
  | .launchEndForTrap launch => Sys2Proof.Machine.execLaunchEndForTrap launch s
  | .pagePullComplete k pa data => Sys2Proof.Machine.execPagePullComplete k pa data s
  | .pagePullTimeout k => Sys2Proof.Machine.execPagePullTimeout k s
  | .mapMemory ctx pa => Sys2Proof.Machine.execMapMemory ctx pa s
  | .unmap ctx => Sys2Proof.Machine.execUnmap ctx s
  | .protect ctx => Sys2Proof.Machine.execProtect ctx s
  | .grantFirstTouch ctx => Sys2Proof.Machine.execGrantFirstTouch ctx s
  | .migrateIn ctx => Sys2Proof.Machine.execMigrateIn ctx s
  | .mapCoreWindows ctx => Sys2Proof.Machine.execMapCoreWindows ctx s
  | .mapBroadcastWindow ctx => Sys2Proof.Machine.execMapBroadcastWindow ctx s
  | .ladleRequestStart core => Sys2Proof.Machine.execLadleRequestStart core s
  | .ladleSegmentStart core => Sys2Proof.Machine.execLadleSegmentStart core s
  | .ladleSegmentLand core seg => Sys2Proof.Machine.execLadleSegmentLand core seg s
  | .peerAck k => Sys2Proof.Machine.execPeerAck k s
  | .peerAckTimeout k => Sys2Proof.Machine.execPeerAckTimeout k s
  | .peerSegmentReceive device ctx seqNo va data => Sys2Proof.Machine.execPeerSegmentReceive device ctx seqNo va data s
  | .matrixRowLand core op sideB => Sys2Proof.Machine.execMatrixRowLand core op sideB s
  | .matrixComputeStart core => Sys2Proof.Machine.execMatrixComputeStart core s
  | .matrixOpComplete core => Sys2Proof.Machine.execMatrixOpComplete core s
  | .lrelWaitEnd core quad warp slot => Sys2Proof.Machine.execLrelWaitEnd core quad warp slot s
  | .napEnd core quad warp => Sys2Proof.Machine.execNapEnd core quad warp s
  | .drainStart core => Sys2Proof.Machine.execDrainStart core s
  | .drainComplete core => Sys2Proof.Machine.execDrainComplete core s
  | .sliceStart core => Sys2Proof.Machine.execSliceStart core s
  | .slotTableInstall table => Sys2Proof.Machine.execSlotTableInstall table s
  | .tailReread ctx queue => Sys2Proof.Machine.execTailReread ctx queue s
  | .queueQuantum ctx => Sys2Proof.Machine.execQueueQuantum ctx s
  | .launchStart ctx queue => Sys2Proof.Machine.execLaunchStart ctx queue s
  | .launchComplete launch => Sys2Proof.Machine.execLaunchComplete launch s
  | .crewSwapOut core quad warp => Sys2Proof.Machine.execCrewSwapOut core quad warp s
  | .crewResume core k => Sys2Proof.Machine.execCrewResume core k s
  | .samplerTick core => Sys2Proof.Machine.execSamplerTick core s
  | .samplerEnable core => Sys2Proof.Machine.execSamplerEnable core s
  | .droppedCountClear core => Sys2Proof.Machine.execDroppedCountClear core s
  | .registerWrite master core off value => Sys2Proof.Machine.execRegisterWrite master core off value s
  | .minVoltageRead field => Sys2Proof.Machine.execMinVoltageRead field s
  | .restart value => Sys2Proof.Machine.execRestart value s
  | .registerQueue ctx desc => Sys2Proof.Machine.execRegisterQueue ctx desc s
  | .unregisterQueue ctx queue => Sys2Proof.Machine.execUnregisterQueue ctx queue s
  | .openDebugSession ctx => Sys2Proof.Machine.execOpenDebugSession ctx s
  | .closeDebugSession ctx => Sys2Proof.Machine.execCloseDebugSession ctx s
  | .dump ctx va len => Sys2Proof.Machine.execDump ctx va len s
  | .bindPeer ctx device peerCtx => Sys2Proof.Machine.execBindPeer ctx device peerCtx s
  | .unbindPeer ctx device => Sys2Proof.Machine.execUnbindPeer ctx device s
  | .installTenantKey ctx key => Sys2Proof.Machine.execInstallTenantKey ctx key s
  | .getMeasurements function nonce => Sys2Proof.Machine.execGetMeasurements function nonce s
  | .decodeTableLoad slot image => Sys2Proof.Machine.execDecodeTableLoad slot image s
  | .deviceStart report => Sys2Proof.Machine.execDeviceStart report s
  | .startTimeout => Sys2Proof.Machine.execStartTimeout s
  | .faultEvent unit lost => Sys2Proof.Machine.execFaultEvent unit lost s
  | .coreRetire core => Sys2Proof.Machine.execCoreRetire core s
  | .groupSwitch group => Sys2Proof.Machine.execGroupSwitch group s
  | .scanTest core failed => Sys2Proof.Machine.execScanTest core failed s
  | .stretchStart field => Sys2Proof.Machine.execStretchStart field s
  | .stretchEnd field => Sys2Proof.Machine.execStretchEnd field s
  | .portDown port => Sys2Proof.Machine.execPortDown port s
  | .portUp port => Sys2Proof.Machine.execPortUp port s
  | .lostLinesAck port => Sys2Proof.Machine.execLostLinesAck port s
  | .hostResponse line data => Sys2Proof.Machine.execHostResponse line data s
  | .linkDropout link => Sys2Proof.Machine.execLinkDropout link s
  | .openContext port ctx => Sys2Proof.Machine.execOpenContext port ctx s
  | .closeContext port ctx => Sys2Proof.Machine.execCloseContext port ctx s
  | .newLowestReading field millivolts sensor => Sys2Proof.Machine.execNewLowestReading field millivolts sensor s
  | .pageTakeComplete k pa => Sys2Proof.Machine.execPageTakeComplete k pa s
  | .peerConnectionFailure ctx device => Sys2Proof.Machine.execPeerConnectionFailure ctx device s
  | .peerPullRequest device peerCtx va => Sys2Proof.Machine.execPeerPullRequest device peerCtx va s
  | .runFetchComplete core quad warp => Sys2Proof.Machine.execRunFetchComplete core quad warp s
  | .securedSession ctx => Sys2Proof.Machine.execSecuredSession ctx s
  | .add d a b => Sys2Proof.Machine.execAdd d a b s
  | .sub d a b => Sys2Proof.Machine.execSub d a b s
  | .addi d a i0 => Sys2Proof.Machine.execAddi d a i0 s
  | .mul d a b => Sys2Proof.Machine.execMul d a b s
  | .mulhS d a b => Sys2Proof.Machine.execMulhS d a b s
  | .mulhZ d a b => Sys2Proof.Machine.execMulhZ d a b s
  | .mad d a b => Sys2Proof.Machine.execMad d a b s
  | .minS d a b => Sys2Proof.Machine.execMinS d a b s
  | .minZ d a b => Sys2Proof.Machine.execMinZ d a b s
  | .maxS d a b => Sys2Proof.Machine.execMaxS d a b s
  | .maxZ d a b => Sys2Proof.Machine.execMaxZ d a b s
  | .abs d a => Sys2Proof.Machine.execAbs d a s
  | .and d a b => Sys2Proof.Machine.execAnd d a b s
  | .or d a b => Sys2Proof.Machine.execOr d a b s
  | .xor d a b => Sys2Proof.Machine.execXor d a b s
  | .andn d a b => Sys2Proof.Machine.execAndn d a b s
  | .andi d a i0 => Sys2Proof.Machine.execAndi d a i0 s
  | .ori d a i0 => Sys2Proof.Machine.execOri d a i0 s
  | .xori d a i0 => Sys2Proof.Machine.execXori d a i0 s
  | .shl d a b => Sys2Proof.Machine.execShl d a b s
  | .shr d a b => Sys2Proof.Machine.execShr d a b s
  | .sar d a b => Sys2Proof.Machine.execSar d a b s
  | .shli d a n => Sys2Proof.Machine.execShli d a n s
  | .shri d a n => Sys2Proof.Machine.execShri d a n s
  | .sari d a n => Sys2Proof.Machine.execSari d a n s
  | .rotl d a b => Sys2Proof.Machine.execRotl d a b s
  | .popc d a => Sys2Proof.Machine.execPopc d a s
  | .clz d a => Sys2Proof.Machine.execClz d a s
  | .brev d a => Sys2Proof.Machine.execBrev d a s
  | .bfxS d a b => Sys2Proof.Machine.execBfxS d a b s
  | .bfxZ d a b => Sys2Proof.Machine.execBfxZ d a b s
  | .bfi d a b => Sys2Proof.Machine.execBfi d a b s
  | .addD d a b => Sys2Proof.Machine.execAddD d a b s
  | .subD d a b => Sys2Proof.Machine.execSubD d a b s
  | .mulD d a b => Sys2Proof.Machine.execMulD d a b s
  | .shlD d a b => Sys2Proof.Machine.execShlD d a b s
  | .shrD d a b => Sys2Proof.Machine.execShrD d a b s
  | .sarD d a b => Sys2Proof.Machine.execSarD d a b s
  | .cmpEq d a b => Sys2Proof.Machine.execCmpEq d a b s
  | .cmpNe d a b => Sys2Proof.Machine.execCmpNe d a b s
  | .cmpLtS d a b => Sys2Proof.Machine.execCmpLtS d a b s
  | .cmpLeS d a b => Sys2Proof.Machine.execCmpLeS d a b s
  | .cmpLtZ d a b => Sys2Proof.Machine.execCmpLtZ d a b s
  | .cmpLeZ d a b => Sys2Proof.Machine.execCmpLeZ d a b s
  | .cmpiEq d a i0 => Sys2Proof.Machine.execCmpiEq d a i0 s
  | .cmpiLtS d a i0 => Sys2Proof.Machine.execCmpiLtS d a i0 s
  | .sel d a b => Sys2Proof.Machine.execSel d a b s
  | .divS d a b => Sys2Proof.Machine.execDivS d a b s
  | .divZ d a b => Sys2Proof.Machine.execDivZ d a b s
  | .remS d a b => Sys2Proof.Machine.execRemS d a b s
  | .remZ d a b => Sys2Proof.Machine.execRemZ d a b s
  | .addB d a b => Sys2Proof.Machine.execAddB d a b s
  | .subB d a b => Sys2Proof.Machine.execSubB d a b s
  | .mulB d a b => Sys2Proof.Machine.execMulB d a b s
  | .madB d a b => Sys2Proof.Machine.execMadB d a b s
  | .andB d a b => Sys2Proof.Machine.execAndB d a b s
  | .orB d a b => Sys2Proof.Machine.execOrB d a b s
  | .xorB d a b => Sys2Proof.Machine.execXorB d a b s
  | .shlB d a b => Sys2Proof.Machine.execShlB d a b s
  | .shrB d a b => Sys2Proof.Machine.execShrB d a b s
  | .cmpEqB d a b => Sys2Proof.Machine.execCmpEqB d a b s
  | .cmpLtSB d a b => Sys2Proof.Machine.execCmpLtSB d a b s
  | .fadd d a b => Sys2Proof.Machine.execFadd d a b s
  | .fsub d a b => Sys2Proof.Machine.execFsub d a b s
  | .fmul d a b => Sys2Proof.Machine.execFmul d a b s
  | .ffma d a b => Sys2Proof.Machine.execFfma d a b s
  | .fmin d a b => Sys2Proof.Machine.execFmin d a b s
  | .fmax d a b => Sys2Proof.Machine.execFmax d a b s
  | .fabs d a => Sys2Proof.Machine.execFabs d a s
  | .fneg d a => Sys2Proof.Machine.execFneg d a s
  | .fcmpEq d a b => Sys2Proof.Machine.execFcmpEq d a b s
  | .fcmpLt d a b => Sys2Proof.Machine.execFcmpLt d a b s
  | .fcmpLe d a b => Sys2Proof.Machine.execFcmpLe d a b s
  | .fcmpUn d a b => Sys2Proof.Machine.execFcmpUn d a b s
  | .frcp d a => Sys2Proof.Machine.execFrcp d a s
  | .frsq d a => Sys2Proof.Machine.execFrsq d a s
  | .fsqrt d a => Sys2Proof.Machine.execFsqrt d a s
  | .fdiv d a b => Sys2Proof.Machine.execFdiv d a b s
  | .fex2 d a => Sys2Proof.Machine.execFex2 d a s
  | .flg2 d a => Sys2Proof.Machine.execFlg2 d a s
  | .fsin d a => Sys2Proof.Machine.execFsin d a s
  | .fcos d a => Sys2Proof.Machine.execFcos d a s
  | .faddB d a b => Sys2Proof.Machine.execFaddB d a b s
  | .fmulB d a b => Sys2Proof.Machine.execFmulB d a b s
  | .ffmaB d a b => Sys2Proof.Machine.execFfmaB d a b s
  | .dadd d a b => Sys2Proof.Machine.execDadd d a b s
  | .dsub d a b => Sys2Proof.Machine.execDsub d a b s
  | .dmul d a b => Sys2Proof.Machine.execDmul d a b s
  | .dfma d a b => Sys2Proof.Machine.execDfma d a b s
  | .ddiv d a b => Sys2Proof.Machine.execDdiv d a b s
  | .dsqrt d a => Sys2Proof.Machine.execDsqrt d a s
  | .dcmpEq d a b => Sys2Proof.Machine.execDcmpEq d a b s
  | .dcmpLt d a b => Sys2Proof.Machine.execDcmpLt d a b s
  | .dcmpLe d a b => Sys2Proof.Machine.execDcmpLe d a b s
  | .faddF16x2 d a b => Sys2Proof.Machine.execFaddF16x2 d a b s
  | .fmulF16x2 d a b => Sys2Proof.Machine.execFmulF16x2 d a b s
  | .ffmaF16x2 d a b => Sys2Proof.Machine.execFfmaF16x2 d a b s
  | .cvtF32S32 d a => Sys2Proof.Machine.execCvtF32S32 d a s
  | .cvtF32Z32 d a => Sys2Proof.Machine.execCvtF32Z32 d a s
  | .cvtS32F32 d a => Sys2Proof.Machine.execCvtS32F32 d a s
  | .cvtZ32F32 d a => Sys2Proof.Machine.execCvtZ32F32 d a s
  | .cvtF64F32 d a => Sys2Proof.Machine.execCvtF64F32 d a s
  | .cvtF32F64 d a => Sys2Proof.Machine.execCvtF32F64 d a s
  | .cvtF64S32 d a => Sys2Proof.Machine.execCvtF64S32 d a s
  | .cvtS32F64 d a => Sys2Proof.Machine.execCvtS32F64 d a s
  | .cvtF16x2F32 d a b => Sys2Proof.Machine.execCvtF16x2F32 d a b s
  | .cvtF32F16 d a h => Sys2Proof.Machine.execCvtF32F16 d a h s
  | .cvtBf16x2F32 d a b => Sys2Proof.Machine.execCvtBf16x2F32 d a b s
  | .cvtF32Bf16 d a h => Sys2Proof.Machine.execCvtF32Bf16 d a h s
  | .cvtE4x2F32 d a b => Sys2Proof.Machine.execCvtE4x2F32 d a b s
  | .cvtE5x2F32 d a b => Sys2Proof.Machine.execCvtE5x2F32 d a b s
  | .cvtF32E4 d a n => Sys2Proof.Machine.execCvtF32E4 d a n s
  | .cvtF32E5 d a n => Sys2Proof.Machine.execCvtF32E5 d a n s
  | .mov d a => Sys2Proof.Machine.execMov d a s
  | .movD d a => Sys2Proof.Machine.execMovD d a s
  | .movi d i0 => Sys2Proof.Machine.execMovi d i0 s
  | .movh d i0 => Sys2Proof.Machine.execMovh d i0 s
  | .movB d a => Sys2Proof.Machine.execMovB d a s
  | .setx a => Sys2Proof.Machine.execSetx a s
  | .setxi i0 => Sys2Proof.Machine.execSetxi i0 s
  | .movxG d i0 => Sys2Proof.Machine.execMovxG d i0 s
  | .movxP a i0 => Sys2Proof.Machine.execMovxP a i0 s
  | .rds d n => Sys2Proof.Machine.execRds d n s
  | .brv m o => Sys2Proof.Machine.execBrv m o s
  | .brc m o => Sys2Proof.Machine.execBrc m o s
  | .jmpi a => Sys2Proof.Machine.execJmpi a s
  | .calli a => Sys2Proof.Machine.execCalli a s
  | .ret => Sys2Proof.Machine.execRet s
  | .pickLane d a b => Sys2Proof.Machine.execPickLane d a b s
  | .pickFlip d a n => Sys2Proof.Machine.execPickFlip d a n s
  | .pickLo d a n => Sys2Proof.Machine.execPickLo d a n s
  | .pickHi d a n => Sys2Proof.Machine.execPickHi d a n s
  | .pickSeat d a b => Sys2Proof.Machine.execPickSeat d a b s
  | .voteAny d a => Sys2Proof.Machine.execVoteAny d a s
  | .voteAll d a => Sys2Proof.Machine.execVoteAll d a s
  | .voteBal d a => Sys2Proof.Machine.execVoteBal d a s
  | .lds8 d a l k => Sys2Proof.Machine.execLds8 d a l k s
  | .lds8s d a l k => Sys2Proof.Machine.execLds8s d a l k s
  | .lds16 d a l k => Sys2Proof.Machine.execLds16 d a l k s
  | .lds16s d a l k => Sys2Proof.Machine.execLds16s d a l k s
  | .lds32 d a l k => Sys2Proof.Machine.execLds32 d a l k s
  | .lds64 d a l k => Sys2Proof.Machine.execLds64 d a l k s
  | .lds128 d a l k => Sys2Proof.Machine.execLds128 d a l k s
  | .sts8 d a l k => Sys2Proof.Machine.execSts8 d a l k s
  | .sts16 d a l k => Sys2Proof.Machine.execSts16 d a l k s
  | .sts32 d a l k => Sys2Proof.Machine.execSts32 d a l k s
  | .sts64 d a l k => Sys2Proof.Machine.execSts64 d a l k s
  | .sts128 d a l k => Sys2Proof.Machine.execSts128 d a l k s
  | .atsAdd d a l k => Sys2Proof.Machine.execAtsAdd d a l k s
  | .atsMinS d a l k => Sys2Proof.Machine.execAtsMinS d a l k s
  | .atsMaxS d a l k => Sys2Proof.Machine.execAtsMaxS d a l k s
  | .atsMinZ d a l k => Sys2Proof.Machine.execAtsMinZ d a l k s
  | .atsMaxZ d a l k => Sys2Proof.Machine.execAtsMaxZ d a l k s
  | .atsAnd d a l k => Sys2Proof.Machine.execAtsAnd d a l k s
  | .atsOr d a l k => Sys2Proof.Machine.execAtsOr d a l k s
  | .atsXor d a l k => Sys2Proof.Machine.execAtsXor d a l k s
  | .atsXchg d a l k => Sys2Proof.Machine.execAtsXchg d a l k s
  | .atsCas d a l k => Sys2Proof.Machine.execAtsCas d a l k s
  | .arset d a l k => Sys2Proof.Machine.execArset d a l k s
  | .aradd d a l k => Sys2Proof.Machine.execAradd d a l k s
  | .arwait d a l k => Sys2Proof.Machine.execArwait d a l k s
  | .arpoll d a l k => Sys2Proof.Machine.execArpoll d a l k s
  | .ld8 d a l k => Sys2Proof.Machine.execLd8 d a l k s
  | .ld8s d a l k => Sys2Proof.Machine.execLd8s d a l k s
  | .ld16 d a l k => Sys2Proof.Machine.execLd16 d a l k s
  | .ld16s d a l k => Sys2Proof.Machine.execLd16s d a l k s
  | .ld32 d a l k => Sys2Proof.Machine.execLd32 d a l k s
  | .ld64 d a l k => Sys2Proof.Machine.execLd64 d a l k s
  | .ld128 d a l k => Sys2Proof.Machine.execLd128 d a l k s
  | .st8 d a l k => Sys2Proof.Machine.execSt8 d a l k s
  | .st16 d a l k => Sys2Proof.Machine.execSt16 d a l k s
  | .st32 d a l k => Sys2Proof.Machine.execSt32 d a l k s
  | .st64 d a l k => Sys2Proof.Machine.execSt64 d a l k s
  | .st128 d a l k => Sys2Proof.Machine.execSt128 d a l k s
  | .ld32V d a l k => Sys2Proof.Machine.execLd32V d a l k s
  | .ld64V d a l k => Sys2Proof.Machine.execLd64V d a l k s
  | .st32V d a l k => Sys2Proof.Machine.execSt32V d a l k s
  | .st64V d a l k => Sys2Proof.Machine.execSt64V d a l k s
  | .ld32Acq d a l k => Sys2Proof.Machine.execLd32Acq d a l k s
  | .ld64Acq d a l k => Sys2Proof.Machine.execLd64Acq d a l k s
  | .st32Rel d a l k => Sys2Proof.Machine.execSt32Rel d a l k s
  | .st64Rel d a l k => Sys2Proof.Machine.execSt64Rel d a l k s
  | .atAdd d a l k => Sys2Proof.Machine.execAtAdd d a l k s
  | .atMinS d a l k => Sys2Proof.Machine.execAtMinS d a l k s
  | .atMaxS d a l k => Sys2Proof.Machine.execAtMaxS d a l k s
  | .atMinZ d a l k => Sys2Proof.Machine.execAtMinZ d a l k s
  | .atMaxZ d a l k => Sys2Proof.Machine.execAtMaxZ d a l k s
  | .atAnd d a l k => Sys2Proof.Machine.execAtAnd d a l k s
  | .atOr d a l k => Sys2Proof.Machine.execAtOr d a l k s
  | .atXor d a l k => Sys2Proof.Machine.execAtXor d a l k s
  | .atXchg d a l k => Sys2Proof.Machine.execAtXchg d a l k s
  | .atCas d a l k => Sys2Proof.Machine.execAtCas d a l k s
  | .atIncw d a l k => Sys2Proof.Machine.execAtIncw d a l k s
  | .atAddD d a l k => Sys2Proof.Machine.execAtAddD d a l k s
  | .atXchgD d a l k => Sys2Proof.Machine.execAtXchgD d a l k s
  | .atCasD d a l k => Sys2Proof.Machine.execAtCasD d a l k s
  | .pref a l k => Sys2Proof.Machine.execPref a l k s
  | .wbl a l k => Sys2Proof.Machine.execWbl a l k s
  | .disc a l k => Sys2Proof.Machine.execDisc a l k s
  | .fence n => Sys2Proof.Machine.execFence n s
  | .fenceAcq n => Sys2Proof.Machine.execFenceAcq n s
  | .fenceRel n => Sys2Proof.Machine.execFenceRel n s
  | .spawn d a p => Sys2Proof.Machine.execSpawn d a p s
  | .exit => Sys2Proof.Machine.execExit s
  | .join d a => Sys2Proof.Machine.execJoin d a s
  | .leave => Sys2Proof.Machine.execLeave s
  | .bar => Sys2Proof.Machine.execBar s
  | .bara d => Sys2Proof.Machine.execBara d s
  | .barw a => Sys2Proof.Machine.execBarw a s
  | .hamp d a p => Sys2Proof.Machine.execHamp d a p s
  | .lres d a b => Sys2Proof.Machine.execLres d a b s
  | .lrel a => Sys2Proof.Machine.execLrel a s
  | .lbind a b => Sys2Proof.Machine.execLbind a b s
  | .prset n a => Sys2Proof.Machine.execPrset n a s
  | .prget d n => Sys2Proof.Machine.execPrget d n s
  | .oprdy => Sys2Proof.Machine.execOprdy s
  | .tzero n => Sys2Proof.Machine.execTzero n s
  | .mma d t x y => Sys2Proof.Machine.execMma d t x y s
  | .mmap d t x y => Sys2Proof.Machine.execMmap d t x y s
  | .mwait a => Sys2Proof.Machine.execMwait a s
  | .tst d t f b => Sys2Proof.Machine.execTst d t f b s
  | .tld d t f b => Sys2Proof.Machine.execTld d t f b s
  | .tnorm n => Sys2Proof.Machine.execTnorm n s
  | .texp d t => Sys2Proof.Machine.execTexp d t s
  | .tchk d t => Sys2Proof.Machine.execTchk d t s
  | .sadd d a b => Sys2Proof.Machine.execSadd d a b s
  | .ssub d a b => Sys2Proof.Machine.execSsub d a b s
  | .saddi d a i0 => Sys2Proof.Machine.execSaddi d a i0 s
  | .smul d a b => Sys2Proof.Machine.execSmul d a b s
  | .smulhS d a b => Sys2Proof.Machine.execSmulhS d a b s
  | .smulhZ d a b => Sys2Proof.Machine.execSmulhZ d a b s
  | .sminS d a b => Sys2Proof.Machine.execSminS d a b s
  | .smaxS d a b => Sys2Proof.Machine.execSmaxS d a b s
  | .sminZ d a b => Sys2Proof.Machine.execSminZ d a b s
  | .smaxZ d a b => Sys2Proof.Machine.execSmaxZ d a b s
  | .sand d a b => Sys2Proof.Machine.execSand d a b s
  | .sor d a b => Sys2Proof.Machine.execSor d a b s
  | .sxor d a b => Sys2Proof.Machine.execSxor d a b s
  | .sandn d a b => Sys2Proof.Machine.execSandn d a b s
  | .sandi d a i0 => Sys2Proof.Machine.execSandi d a i0 s
  | .sori d a i0 => Sys2Proof.Machine.execSori d a i0 s
  | .sxori d a i0 => Sys2Proof.Machine.execSxori d a i0 s
  | .sshl d a b => Sys2Proof.Machine.execSshl d a b s
  | .sshr d a b => Sys2Proof.Machine.execSshr d a b s
  | .ssar d a b => Sys2Proof.Machine.execSsar d a b s
  | .sshli d a n => Sys2Proof.Machine.execSshli d a n s
  | .sshri d a n => Sys2Proof.Machine.execSshri d a n s
  | .ssari d a n => Sys2Proof.Machine.execSsari d a n s
  | .spopc d a => Sys2Proof.Machine.execSpopc d a s
  | .sclz d a => Sys2Proof.Machine.execSclz d a s
  | .sffs d a => Sys2Proof.Machine.execSffs d a s
  | .sbrev d a => Sys2Proof.Machine.execSbrev d a s
  | .sbfxZ d a b => Sys2Proof.Machine.execSbfxZ d a b s
  | .sbfi d a b => Sys2Proof.Machine.execSbfi d a b s
  | .saddD d a b => Sys2Proof.Machine.execSaddD d a b s
  | .ssubD d a b => Sys2Proof.Machine.execSsubD d a b s
  | .scmpEq d a b => Sys2Proof.Machine.execScmpEq d a b s
  | .scmpNe d a b => Sys2Proof.Machine.execScmpNe d a b s
  | .scmpLtS d a b => Sys2Proof.Machine.execScmpLtS d a b s
  | .scmpLeS d a b => Sys2Proof.Machine.execScmpLeS d a b s
  | .scmpLtZ d a b => Sys2Proof.Machine.execScmpLtZ d a b s
  | .scmpLeZ d a b => Sys2Proof.Machine.execScmpLeZ d a b s
  | .ssel d a b f => Sys2Proof.Machine.execSsel d a b f s
  | .sdivZ d a b => Sys2Proof.Machine.execSdivZ d a b s
  | .sremZ d a b => Sys2Proof.Machine.execSremZ d a b s
  | .smov d a => Sys2Proof.Machine.execSmov d a s
  | .smovi d i0 => Sys2Proof.Machine.execSmovi d i0 s
  | .smovh d i0 => Sys2Proof.Machine.execSmovh d i0 s
  | .srds d n => Sys2Proof.Machine.execSrds d n s
  | .swrs d n => Sys2Proof.Machine.execSwrs d n s
  | .sgetl d l k => Sys2Proof.Machine.execSgetl d l k s
  | .bra o => Sys2Proof.Machine.execBra o s
  | .bz a o => Sys2Proof.Machine.execBz a o s
  | .bnz a o => Sys2Proof.Machine.execBnz a o s
  | .bneg a o => Sys2Proof.Machine.execBneg a o s
  | .call o => Sys2Proof.Machine.execCall o s
  | .calls a => Sys2Proof.Machine.execCalls a s
  | .rets => Sys2Proof.Machine.execRets s
  | .rcv => Sys2Proof.Machine.execRcv s
  | .land => Sys2Proof.Machine.execLand s
  | .nop => Sys2Proof.Machine.execNop s
  | .sld32 d a l i0 => Sys2Proof.Machine.execSld32 d a l i0 s
  | .sld64 d a l i0 => Sys2Proof.Machine.execSld64 d a l i0 s
  | .sst32 d a l i0 => Sys2Proof.Machine.execSst32 d a l i0 s
  | .sst64 d a l i0 => Sys2Proof.Machine.execSst64 d a l i0 s
  | .sld32V d a l i0 => Sys2Proof.Machine.execSld32V d a l i0 s
  | .sst32V d a l i0 => Sys2Proof.Machine.execSst32V d a l i0 s
  | .satAdd d a l i0 => Sys2Proof.Machine.execSatAdd d a l i0 s
  | .satCas d a l i0 => Sys2Proof.Machine.execSatCas d a l i0 s
  | .sfence n => Sys2Proof.Machine.execSfence n s
  | .cpk a b => Sys2Proof.Machine.execCpk a b s
  | .cpq d => Sys2Proof.Machine.execCpq d s
  | .pdrain => Sys2Proof.Machine.execPdrain s
  | .yield => Sys2Proof.Machine.execYield s
  | .donate a => Sys2Proof.Machine.execDonate a s
  | .budget d => Sys2Proof.Machine.execBudget d s
  | .nap a => Sys2Proof.Machine.execNap a s
  | .trap n => Sys2Proof.Machine.execTrap n s
  | .bkpt => Sys2Proof.Machine.execBkpt s
  | .svc n => Sys2Proof.Machine.execSvc n s
  | .eret => Sys2Proof.Machine.execEret s
  | .launch d a => Sys2Proof.Machine.execLaunch d a s
  | .lwait a => Sys2Proof.Machine.execLwait a s
  | .probe d a l => Sys2Proof.Machine.execProbe d a l s
  | .pgtake d a => Sys2Proof.Machine.execPgtake d a s
  | .maprq d a b => Sys2Proof.Machine.execMaprq d a b s
  | .trace d t => Sys2Proof.Machine.execTrace d t s
  | .trailer s0 f a b => Sys2Proof.Machine.execTrailer s0 f a b s

end Sys2Proof.Machine
end

