-- ==== Sys2Proof/Machine/Auto.lean ====
section
/-! DEFINITION. The events that the machine makes by itself when nothing issues and no agenda says otherwise: of those that internal agents
may make, the first, in one fixed order, that changes the state (notes/assumptions/1.md). The agenda gives every other order. -/
namespace Sys2Proof.Machine

/-- An event that changes more than the counter of draws. -/
def State.effective (s : State) (e : Instr) : Bool :=
  match exec e s with
  | .next t => { t with fresh := s.fresh } != s
  | _ => false

/-- What a warp's own agents do: fetch, bind and perform its accesses, end its waits and its naps, end it; and what firmware does for it. -/
def warpEvents (c q n : Nat) (w : Warp) : List Instr :=
  (if (List.range 2).any fun k => (w.div.slot k).any fun p => p.run.isNone && !p.fetched then [.runFetchComplete c q n] else []) ++ (w.pend.map fun o => .longLatencyComplete c q n o.seq) ++
    ((List.range w.sb.length).map fun k => .storePerform c q n k) ++
    [.lrelWaitEnd c q n 0, .lrelWaitEnd c q n 1, .joinProceed c q n 0, .joinProceed c q n 1, .deferredFaultRaise c q n, .watchpointReport c q n,
     .warpEnd c q n, .crewSwapOut c q n] ++ if w.nap.isSome then [.napEnd c q n] else []
/-- What a core's agents do. -/
def coreEvents (n : Nat) (c : Core) : List Instr :=
  [.scratchpadAccept n, .matrixOpComplete n] ++ (c.ops.flatMap fun o => [.matrixRowLand n o.id false, .matrixRowLand n o.id true]) ++
    [.matrixComputeStart n] ++
    (c.kicks.flatMap fun k => (List.range (k.runs.foldl (fun n r => n + r.segs.length) 0)).map fun i => .ladleSegmentLand n i) ++
    [.ladleSegmentStart n, .ladleRequestStart n] ++ (c.crews.map fun k => .crewRelease n k.1) ++ (c.bins.map fun b => .binLaunch n b.1) ++
    (c.swapped.map fun x => .crewResume n x.1)
/-- What the caches and the buses do. -/
def State.lineEvents (s : State) : List Instr :=
  (s.fields.flatMap fun f => f.2.txns.map fun t => .dataArrival f.1 t.line) ++
    s.clusters.flatMap fun g => g.2.buses.filterMap fun b => b.2.head?.map fun m => match m.kind with
      | .getS => .gets g.1 b.1
      | .getM => .getm g.1 b.1
      | .put => .put g.1 b.1
      | .clean => .clean g.1 b.1
      | .disc => .discMessage g.1 b.1
      | .hGetS p => .hgets p m.line
      | .hGetM p d => .hgetm p m.line d
      | .snpData => .snpdata m.line
      | .snpInv => .snpinv m.line
      | .snpCur => .snpcur m.line
/-- What firmware does for launches, queues, map requests and pulls, of its own accord; where fresh memory is to be mapped, at a place that it
draws (notes/assumptions/35.md). -/
def State.firmwareEvents (s : State) : List Instr :=
  (s.launches.flatMap fun L =>
      if L.2.complete then (if s.due.any fun d => d.ctx == L.2.ctx then [.launchComplete L.1] else [])
      else (if L.2.firstEnd.isSome && !(s.ctx L.2.ctx).debug then [.launchEndForTrap L.1] else []) ++
        (L.2.cores.map fun c => .launchWarpCreate L.1 c) ++ [.launchComplete L.1]) ++
    (s.queues.flatMap fun q => (if q.mapped then [.tailReread q.desc.ctx q.desc.number] else []) ++ [.launchStart q.desc.ctx q.desc.number]) ++
    (s.contexts.flatMap fun x => .queueQuantum x.1 :: .launchStart x.1 0x3FF ::
      (if x.2.mapq.isEmpty then [] else [.mapMemory x.1 (Config.freeNat s.fresh x.1), .unmap x.1, .protect x.1, .grantFirstTouch x.1, .migrateIn x.1,
        .mapCoreWindows x.1, .mapBroadcastWindow x.1]) ++
        (x.2.conns.filter fun c => c.closing && !s.peerSegs.any fun p => p.ctx == x.1 && p.device == c.device).flatMap fun c =>
          (x.2.mail.filter fun m => m.2.busy == some 7).map fun m => .unbindPeer ⟨m.1, x.1, 7, true⟩ c.device) ++
    (s.pulls.filter fun p => !s.reaches p.2.ctx p.2.device).map fun p => .pagePullTimeout p.1
/-- The edges of the slot table, and health. -/
def State.edgeEvents (s : State) : List Instr :=
  (s.cores.flatMap fun c => (match c.2.phase with
      | .idle => if s.slots.table.isSome then [.sliceStart c.1] else []
      | .draining => [.drainComplete c.1]
      | .running => (s.edgeEvent c.1).toList) ++ if c.2.suspect then [.coreRetire c.1] else []) ++
    (s.health.switching.map fun x => .groupSwitch x.1) ++ (s.health.rerouting.map fun l => .linkDropout l).toList
/-- Firmware resumes a warp whose resume has been asked for, and one that has halted for a cause that ends nothing, when no debug session holds its
context (R334, R335, R342). -/
def State.resumeEvents (s : State) : List Instr :=
  s.allWarps.filterMap fun x => let w := x.2.2.2
    if w.trap.halted && !w.trap.inHandler && (w.trap.resuming || (!fateEnd w.trap.cause.toNat && !(s.ctx w.ctx).debug)) then some (.trapResume x.1 x.2.1 x.2.2.1) else none
/-- The ticks of samplers on cores where a nap, a bin's timer, a scratchpad value or an operation on the matrix array waits for CYCLE to pass, where a
tick is due already, or where records of the sampler are on their way. -/
def State.tickEvents (s : State) : List Instr :=
  (s.cores.filter fun c => !c.2.bins.isEmpty || !c.2.sampler.queue.isEmpty || c.2.tickBy c.2.cycle || c.2.scheduled.any fun t => t != c.2.sampler.next).map
    fun c => .samplerTick c.1
/-- Everything that internal agents may do now, in order; the timers of bins and the ticks of samplers come last, since they let cycles pass. -/
def State.candidateEvents (s : State) : List Instr :=
  (s.allWarps.flatMap fun x => warpEvents x.1 x.2.1 x.2.2.1 x.2.2.2) ++ (s.cores.flatMap fun c => coreEvents c.1 c.2) ++ s.resumeEvents ++ s.lineEvents ++
    ((List.range s.deliveries.length).map fun k => .multicastDelivery k) ++ s.firmwareEvents ++ s.edgeEvents ++
    (s.cores.flatMap fun c => c.2.bins.map fun b => .binTimerExpiry c.1 b.1) ++ s.tickEvents
/-- The first thing that the rules ask of a core before it issues again, of those that can take place now. -/
def State.dueEvent (s : State) (cn : Nat) : Option Instr := (s.dueEvents cn).find? s.effective
/-- The first internal event that is due. -/
def State.autoEvent (s : State) : Option Instr := s.candidateEvents.find? s.effective

end Sys2Proof.Machine
end

