-- ==== Sys2Proof/Machine/Step.lean ====
section
/-! DEFINITION. One step of the machine: the turn at the head of the agenda, or, with an empty agenda, the focus core's next
word, or the first internal event that is due. -/
namespace Sys2Proof.Machine

/-- An instruction that no word encodes is an event. -/
def isEvent (i : Instr) : Bool := (encode i).isNone

/-- A turn of the focus core: what the rules make it do first; else the quadrant whose turn it is issues the next word of its run, or selects. -/
noncomputable def State.issueTurn (s0 : State) : Host.Outcome State Fault Refusal :=
  let s := s0.toTurn
  match s.dueEvent s.focusCore with
  | some e => exec e s
  | none =>
    match s.view with
    | none => exec (.warpSelect s.focusCore s.focusQuad) s
    | some V =>
      match V.r.words with
      | [] => .next V.vacate
      | w :: _ =>
        match decodeEntry (s.entryOf V.w.mgmt V.w.launch) w with
        | .ok i => exec i s
        | .error r => .next (V.reject r)

/-- The focus core has something to do first, or a quadrant that goes on by itself. -/
def State.busy (s : State) : Bool :=
  (s.dueEvent s.focusCore).isSome || (List.range 4).any fun n => s.keen s.focusCore (s.core s.focusCore) n

/-- One step. -/
noncomputable def step (s : State) : Host.Outcome State Fault Refusal :=
  match s.agenda with
  | .event e :: rest => if isEvent e then exec e { s with agenda := rest } else .next { s with agenda := rest }
  | .issue c q :: rest => State.issueTurn { s with agenda := rest, focusCore := c, focusQuad := q }
  | [] =>
    if s.busy then s.issueTurn
    else match s.autoEvent with
      | some e => exec e s
      | none => s.issueTurn

/-- A launch record with nothing asked for (R349): the smallest ring, one call level. -/
def LaunchRec.blank : LaunchRec :=
  { image := 0, id := 0, threads := 32, c0 := 0, m := 1, table := 0, allot := 120, timer := 64, payload := [], spillBase := 0,
    spillCount := 1, K := 16, divBase := 0, callBase := 0, D := 1, group := none, pool := 0, dep := none, completion := 0,
    signal := 0, interrupt := false, overlap := false, reservedOk := true }
/-- A running launch of context 0 with that record. -/
def Launch.blank : Launch :=
  { ctx := 0, queue := 0, index := 0, parent := none, rcd := LaunchRec.blank, codeStart := 0, codeSize := 0, entryOff := 0,
    crewSize := 32, granules := 0, larderKib := 0, sites := [], started := true, status := 0, faults := 0, firstEnd := none,
    startTime := 0, endTime := 0, pool := 0, created := [0], complete := false, ended := false }
/-- The run of one word at address 0, closed by a plain trailer (R22); a trailer closes itself. -/
def loadedRun (w : Word) : OpenRun :=
  let ws := if isTrailer w then [w] else [w, 0xFFE7FFE0#32]
  { words := ws, trailerAt := BitVec.ofNat 48 (4 * (ws.length - 1)), set := 0, tdef := [], wdef := 0, total := ws.length }
/-- A warp of 32 threads about to issue that run. -/
def loadedWarp (w : Word) : Warp :=
  { uid := 0, ctx := 0, launch := 0, mgmt := false, allot := 120, base := 0, ubase := 950,
    tids := lanes.map fun l => (l, BitVec.ofNat 32 l), remap := [], fmode := 0
    div := { s0 := some { freshPath 0 0xFFFFFFFF#32 0 false with run := some (loadedRun w) }, s1 := none, n := 0, b := 0,
             top := none, progress := 0, giveUp := none }
    trap := TrapRegs.zero, handler := none, pend := [], undef := [], tstRanges := [], sb := [], fences := [], rewind := .full, point := 0,
    await := [], nap := none, yieldDue := false, yielded := none, stopped := false, seq := 0 }

/-- The core with a quadrant whose turn to issue is next: the others have had theirs in this CYCLE and present nothing. -/
def Core.giveTurn (c : Core) (n : Nat) : Core :=
  { c with quads := c.quads.map fun x : Nat × Quadrant =>
      if x.1 = n then (x.1, { x.2 with turn := none, presented := none })
      else (x.1, { x.2 with turn := some ⟨c.cycle, 0, 0, 0, some 13⟩, presented := none }) }
/-- The state with one instruction where the next step takes it from (R21, R24): the head of the run that the focus quadrant
issues. Where nothing is selected, a launch of context 0, and a warp of it with that run, stand for the load of a program from
outside the machine (notes/assumptions/10.md). -/
def State.withFetchWord (s : State) (nbits w : Nat) : State :=
  let x : Word := BitVec.ofNat 32 (w % 2 ^ nbits)
  match s.view with
  | some V =>
    let s := { V with
      p := { V.p with wait := .none, replay := none, after := 0 }
      w := { V.w with passed := [] }
      r := { V.r with words := (loadedRun x).words, total := (loadedRun x).total
                      trailerAt := V.p.pc + BitVec.ofNat 48 (4 * ((loadedRun x).words.length - 1)) } }.put
    { s.setCore V.cn ((s.core V.cn).giveTurn V.qn) with agenda := [] }
  | none =>
    let c := s.core s.focusCore
    let q := { (c.quad s.focusQuad).setWarp 0 (loadedWarp x) with temps := [(0, 0, 0)], sel := some (0, 0), last := 0 }
    { s.setCore s.focusCore { (c.setQuad s.focusQuad q).giveTurn s.focusQuad with tenant := some 0, phase := .running } with
      agenda := [], launches := s.launches.put 0 Launch.blank }

end Sys2Proof.Machine
end

