-- ==== Sys2Proof/Safety.lean ====
section
/-! DEFINITION. What counts as a safe run; when a word is free to execute; and what a word that has executed leaves behind it: the terms
in which the statements are made. -/
namespace Sys2Proof.Machine

/-- `n` steps meet neither a fault nor a refusal. -/
def SafeRun : Nat → State → Prop
  | 0, _ => True
  | n + 1, s => ∃ t, step s = .next t ∧ SafeRun n t

/-- The focus quadrant's next word is free to execute: no breakpoint comparator matches it, it passes the issue checks of R40, no register it
names waits for a producer (R30), and its pipe takes it and what it reads is visible (R80, R92, R405). -/
def Ready (s : State) (i : Info) (wf : Bool) (V : View) : Prop :=
  s.view = some V ∧ V.breakHit = none ∧ V.check i wf = none ∧ V.score i = none ∧ V.readyAt i ≤ V.c.cycle

/-! ### What every word that issues does and leaves alone -/

/-- The quadrant and the warp that a view issues from, in another state. -/
def View.quadIn (V : View) (t : State) : Quadrant := (t.core V.cn).quad V.qn
def View.warpIn (V : View) (t : State) : Option Warp := t.warp V.cn V.qn V.wn
/-- A word of the issuing quadrant's register file, by its place (R70, R72). -/
def View.rfIn (V : View) (t : State) (j : Nat) : Word := Sparse.get 0#32 (V.quadIn t).rf j

/-- From `s0` (the state before, but for what the word says it changes there), nothing outside the issuing core changes but the draw counter
and TIME, which does not fall; no byte of memory changes. -/
structure CoreOnly (V : View) (s0 t : State) : Prop where
  rest : t = { s0 with cores := t.cores, fresh := t.fresh, time := t.time }
  bytes : ∀ a, a ∉ s0.undefined → t.memByte a = s0.memByte a
  time : s0.time ≤ t.time
  others : ∀ n, n ≠ V.cn → t.core n = s0.core n

/-- Of the issuing core only the shared pool of issue cycles and the issuing quadrant change: its CYCLE, scratchpad, Larder, tiles, crews and
bins stay. Of the quadrant only the register file, the warp, the budget, the times from which its two pipes are free and its turn change: the
pipe of the word is busy for its issue cycles, neither takes a word in the same cycle (R92), and the quadrant has had its turn in this CYCLE
with this word (R119). -/
structure WarpOnly (V : View) (s0 : State) (i : Info) (t : State) : Prop extends CoreOnly V s0 t where
  core : t.core V.cn = { V.c with quads := (t.core V.cn).quads, pool := (t.core V.cn).pool }
  quads : ∀ k, k ≠ V.qn → (t.core V.cn).quad k = V.c.quad k
  quad : V.quadIn t = { V.q with rf := (V.quadIn t).rf, warps := (V.quadIn t).warps, left := (V.quadIn t).left
                                 lanePipe := max V.q.lanePipe (V.c.cycle + if i.lset then i.cycles else min 1 i.cycles)
                                 uniPipe := max V.q.uniPipe (V.c.cycle + if i.lset then min 1 i.cycles else i.cycles)
                                 turn := some ⟨V.c.cycle, V.wn, V.kn, V.p.pc, none⟩ }
  warps : ∀ k, k ≠ V.wn → t.warp V.cn V.qn k = V.q.warps.find k

/-- The word has passed: the path is `p0`, with the rest of its run to issue; its temporary set is as it was. -/
def Stepped (V : View) (p0 p : Path) : Prop :=
  ∃ r, p = { p0 with wait := .none, replay := none, issued := V.p.issued + 1, run := some r } ∧
    r = { V.r with words := V.r.words.tail, tdef := r.tdef, wdef := r.wdef }

/-- The issuing warp after a word: it is `b`, with its other path, its divergence stack, its trap registers, its FMODE, its accesses and
everything else as `b` has them; windows count the word, what the word leaves visible is noted, a comparator that a lane has passed here counts
again for it, and the progress counter steps (R28, R80, R150, R333). -/
structure SameWarp (V : View) (i : Info) (b : Warp) (p0 : Path) (t : State) (w : Warp) : Prop where
  here : V.warpIn t = some w
  rest : w = { b with div := w.div, pend := b.pend.map (LongOp.tick V.kn)
                      shadow := (b.shadow.map (LongOp.tick V.kn)).filter fun o => decide (0 < o.window)
                      vis := ({ V with w := b } : View).noteVis i
                      passed := b.passed.filter fun x => !(x.2.1 == V.p.pc && V.p.mask.getLsbD x.2.2), undef := w.undef, tstRanges := w.tstRanges }
  div : w.div = { b.div with progress := min 65536 (b.div.progress + 1), s0 := w.div.s0, s1 := w.div.s1 }
  other : w.div.slot (other V.kn) = b.div.slot (other V.kn)
  path : ∃ p, w.div.slot V.kn = some p ∧ Stepped V p0 p

/-! ### Registers written -/

/-- A write of some lane registers in the lanes of EM, and of some uniform registers. -/
structure Writes where
  rows : List (Nat × (Nat → Word))
  unis : List (Nat × Word)

/-- The writes of a lane pair, low word in the even register (R16). -/
def pairRows (k : Nat) (f : Nat → Dword) : Writes := ⟨[(k, fun l => (f l).extractLsb' 0 32), (k + 1, fun l => (f l).extractLsb' 32 32)], []⟩
/-- The writes of a uniform pair. -/
def pairUnis (k : Nat) (x : Dword) : Writes := ⟨[], [(k, x.extractLsb' 0 32), (k + 1, x.extractLsb' 32 32)]⟩

/-- The words of the register file that a write sets, in order, with their values (R70, R72, R77). -/
def View.cells (V : View) (x : Writes) : List (Nat × Word) :=
  (x.rows.flatMap fun r => (lanesOf V.em).map fun l => (V.lidx r.1 l, r.2 l)) ++ x.unis.map fun u => (V.uidx u.1, u.2)

/-- What a lane register's undefined lanes become when it is written: the lanes of EM are defined, but in an open lookahead window of
the register they are not, and neither are the lanes that its producers serve (R25, R29); nor are they where a TST writes the register before its
MWAIT (R288). -/
def View.undefAfter (V : View) (k : Nat) : Word :=
  let u := Sparse.get 0#32 V.w.undef k
  if V.inWindow false k then u ||| V.em ||| V.pendLanes k else if V.w.tstWrites k then u ||| V.em else u &&& ~~~V.em
/-- The register ranges of TST and TLD operations after a write of some lane registers: the lanes written are noted (R288, R406). -/
def View.touched (V : View) (x : Writes) : List TstRange :=
  x.rows.foldl (fun ts e => if e.1 < 120 then ts.map fun t => t.touch e.1 V.em else ts) V.w.tstRanges

/-- The registers hold the values written, and every other word of the register file is as before; so is what is defined. -/
structure Holds (V : View) (x : Writes) (t : State) (w : Warp) (r : OpenRun) : Prop where
  values : ∀ c ∈ V.cells x, V.rfIn t c.1 = c.2
  others : ∀ j, (∀ c ∈ V.cells x, c.1 ≠ j) → V.rfIn t j = Sparse.get 0#32 V.q.rf j
  rows : ∀ e ∈ x.rows, e.1 < 120 → Sparse.get 0#32 w.undef e.1 = V.undefAfter e.1
  temps : ∀ e ∈ x.rows, 120 ≤ e.1 → e.1 < 128 → Sparse.get 0#32 r.tdef (e.1 - 120) = Sparse.get 0#32 V.r.tdef (e.1 - 120) ||| V.em
  unis : ∀ e ∈ x.unis, e.1 < 56 → Sparse.get 0#32 w.undef (128 + e.1) = if V.inWindow true e.1 then 1#32 else 0#32
  utemps : ∀ e ∈ x.unis, 56 ≤ e.1 → e.1 < 64 → r.wdef.getLsbD (e.1 - 56) = true
  sameRows : ∀ k, k < 120 → (∀ e ∈ x.rows, e.1 ≠ k) → Sparse.get 0#32 w.undef k = Sparse.get 0#32 V.w.undef k
  sameTemps : ∀ k, 120 ≤ k → k < 128 → (∀ e ∈ x.rows, e.1 ≠ k) → Sparse.get 0#32 r.tdef (k - 120) = Sparse.get 0#32 V.r.tdef (k - 120)
  sameUnis : ∀ k, k < 56 → (∀ e ∈ x.unis, e.1 ≠ k) → Sparse.get 0#32 w.undef (128 + k) = Sparse.get 0#32 V.w.undef (128 + k)
  sameUtemps : ∀ k, 56 ≤ k → k < 64 → (∀ e ∈ x.unis, e.1 ≠ k) → r.wdef.getLsbD (k - 56) = V.r.wdef.getLsbD (k - 56)
  ranges : w.tstRanges = V.touched x

/-- The issuing path at the next word. -/
def View.onward (V : View) : Path := { V.p with pc := V.p.pc + 4 }

/-- An instruction executes: it answers a next state, in which the registers of `x` hold its results, its warp is `b` and its path `p0`, and
nothing else has changed from `s0` but what every word moves on (TIME, the turn, the pipes, the issue budget, windows and counters). -/
def DoesFrom (i : Instr) (s s0 : State) (V : View) (b : Warp) (p0 : Path) (x : Writes) : Prop :=
  ∃ t w p r, exec i s = .next t ∧ WarpOnly V s0 (infoOf i) t ∧ SameWarp V (infoOf i) b p0 t w ∧ w.div.slot V.kn = some p ∧ p.run = some r ∧
    Holds V x t w r
def Does (i : Instr) (s : State) (V : View) (b : Warp) (p0 : Path) (x : Writes) : Prop := DoesFrom i s s V b p0 x

/-- An instruction that only computes on registers: the warp and the path are otherwise as they were. -/
def Computes (i : Instr) (s : State) (V : View) (x : Writes) : Prop := Does i s V V.w V.onward x

end Sys2Proof.Machine
end

