-- ==== Sys2Proof/Certificates/Slice0/Obligations.lean ====
section
/-! DEFINITION. The statements for the provers, from the rules of the manual that each names. -/
namespace Sys2Proof.Machine

/-! ### Terms of the statements -/

/-- A word that writes one lane register in the lanes of EM: its encoding, and its execution. -/
def RowWord (s : State) (V : View) (i : Instr) (w : Word) (d : BitVec 7) (f : Nat → Word) : Prop :=
  encode i = some w ∧ (Ready s (infoOf i) true V → Computes i s V ⟨[(d.toNat, f)], []⟩)

/-- A word that writes a lane pair. -/
def PairWord (s : State) (V : View) (i : Instr) (w : Word) (d : BitVec 7) (f : Nat → Dword) : Prop :=
  encode i = some w ∧ (Ready s (infoOf i) true V → Computes i s V (pairRows d.toNat f))

/-- A word that writes one uniform register. -/
def UniWord (s : State) (V : View) (i : Instr) (w : Word) (d : BitVec 6) (x : Word) : Prop :=
  encode i = some w ∧ (Ready s (infoOf i) true V → Computes i s V ⟨[], [(d.toNat, x)]⟩)

/-- A word that writes a uniform pair. -/
def UniPairWord (s : State) (V : View) (i : Instr) (w : Word) (d : BitVec 6) (x : Dword) : Prop :=
  encode i = some w ∧ (Ready s (infoOf i) true V → Computes i s V (pairUnis d.toNat x))

/-- A word that writes a mask (R76): bit l is the result of lane l in the lanes of EM, and 0 elsewhere. -/
def MaskWord (s : State) (V : View) (i : Instr) (w : Word) (d : BitVec 6) (p : Nat → Prop) : Prop :=
  encode i = some w ∧ (Ready s (infoOf i) true V →
    ∃ x : Word, (∀ l, l < 32 → (x.getLsbD l = true ↔ V.em.getLsbD l = true ∧ p l)) ∧ Computes i s V ⟨[], [(d.toNat, x)]⟩)

/-- The number of 1 bits (R96). -/
def onesCount (x : Word) : Nat := (List.range 32).countP fun i => x.getLsbD i

/-- The number of 0 bits above the highest 1 bit, 32 for zero (R96). -/
def zerosAbove (x : Word) : Nat := ((List.range 32).find? fun k => x.getLsbD (31 - k)).getD 32

/-- The bit field of R97 at the position and width that `b` holds. -/
def bitField (a b : Word) : Nat := a.toNat / 2 ^ (b.toNat % 32) % 2 ^ (b.toNat / 256 % 32 + 1)

/-- The mask M of R97. -/
def fieldMask (b : Word) : Word := BitVec.ofNat 32 ((2 ^ (b.toNat / 256 % 32 + 1) - 1) * 2 ^ (b.toNat % 32))

/-- A signed quotient and remainder of R101: truncated towards zero, the remainder with the sign of the dividend. -/
def quotS (a b : Word) : Word := if b = 0 then 0xFFFFFFFF#32 else BitVec.ofInt 32 (Int.tdiv a.toInt b.toInt)
def restS (a b : Word) : Word := if b = 0 then a else BitVec.ofInt 32 (a.toInt - b.toInt * Int.tdiv a.toInt b.toInt)
def quotZ (a b : Word) : Word := if b = 0 then 0xFFFFFFFF#32 else BitVec.ofNat 32 (a.toNat / b.toNat)
def restZ (a b : Word) : Word := if b = 0 then a else BitVec.ofNat 32 (a.toNat % b.toNat)

/-- A relation's result as a uniform value (R103). -/
def oneIf (p : Prop) [Decidable p] : Word := if p then 1#32 else 0#32

/-- The FP32 encoding of 2^n, from -149, where subnormals begin, to 127. -/
def pow32 (n : Int) : Word := if -126 ≤ n then BitVec.ofNat 32 ((127 + n).toNat * 2 ^ 23) else BitVec.ofNat 32 (2 ^ (n + 149).toNat)

/-- The FP32 encoding of an integer of small magnitude. -/
def int32 (n : Int) : Word := BitVec.ofNat 32 ((Fp.ofInt n).write Fmt.fp32 ⟨0, false⟩)

/-- The index register of a lane in another state (R73, R79). -/
def View.vxIn (V : View) (t : State) (l : Nat) : Byte := (V.rfIn t (vxIdx V.w.ubase (l / 4))).extractLsb' (8 * (l % 4)) 8

/-- An instruction executes and leaves every register but vx as it was; vx holds the given values in the lanes of EM, and is as it was in the
others. -/
def SetsIndex (i : Instr) (s : State) (V : View) (f : Nat → Byte) : Prop :=
  ∃ t w p r, exec i s = .next t ∧ WarpOnly V s (infoOf i) t ∧ SameWarp V (infoOf i) V.w V.onward t w ∧ w.div.slot V.kn = some p ∧ p.run = some r ∧
    w.undef = V.w.undef ∧ w.tstRanges = V.w.tstRanges ∧ r.tdef = V.r.tdef ∧ r.wdef = V.r.wdef ∧
    (∀ l, l < 32 → V.vxIn t l = if V.em.getLsbD l then f l else V.vx l) ∧
    ∀ j, (∀ k, k < 8 → vxIdx V.w.ubase k ≠ j) → V.rfIn t j = Sparse.get 0#32 V.q.rf j

/-- The words of a move through the index register: register vx + sext(i7) of each lane of EM. -/
def View.indexed_ (V : View) (i : BitVec 7) (l : Nat) : Nat := (((V.vx l).toNat : Int) + i.toInt).toNat

/-- Every lane of EM indexes a register of the allotment (R79), and none of them waits for a producer (R30). -/
def IndexFree (V : View) (i : BitVec 7) : Prop :=
  (∀ l, l < 32 → V.em.getLsbD l = true → 0 ≤ ((V.vx l).toNat : Int) + i.toInt ∧ ((V.vx l).toNat : Int) + i.toInt < V.w.allot) ∧
  ∀ l, l < 32 → V.em.getLsbD l = true → V.pendingReg false (V.indexed_ i l) = false

/-- The value of each system register, by number, as a lane of the issuing warp reads it (R82). -/
def systemRegisters (V : View) (l : Nat) : List (Nat × Dword) :=
  [ (0x000, match V.w.member l with
      | some (_, seat) => BitVec.ofNat 64 seat
      | none => 0xFFFFFFFF#64),
    (0x001, match V.w.tids.find? fun x => x.1 == l with
      | some (_, t) => t.setWidth 64
      | none => 0#64),
    (0x002, BitVec.ofNat 64 (16 * V.qn + V.wn)),
    (0x003, match V.w.member l with
      | some (crew, _) => BitVec.ofNat 64 crew
      | none => 0xFFFFFFFF#64),
    (0x004, match V.w.member l with
      | some (crew, _) => BitVec.ofNat 64 (match V.c.crews.find crew with
          | some k => k.members.length
          | none => 0)
      | none => 0#64),
    (0x006, BitVec.ofNat 64 (fieldOf V.cn)),
    (0x007, V.em.setWidth 64),
    (0x008, V.w.fmode.setWidth 64),
    (0x009, V.w.trap.cause.setWidth 64),
    (0x00A, V.w.trap.epc),
    (0x00B, V.w.trap.eva),
    (0x00C, V.w.trap.fmask.setWidth 64),
    (0x00D, BitVec.ofNat 64 V.c.cycle),
    (0x00E, BitVec.ofNat 64 V.s.time),
    (0x010, BitVec.ofNat 64 (V.w.ctx % 4096)),
    (0x011, BitVec.ofNat 64 (V.w.allot + V.w.base * 2 ^ 7 + V.w.ubase * 2 ^ 17 + V.qn * 2 ^ 27)) ]

/-- A 64-bit system register (R82). -/
def wideSystemRegister (n : Nat) : Prop := n = 0x00A ∨ n = 0x00B ∨ n = 0x00D ∨ n = 0x00E

/-- A per-lane system register (R82). -/
def laneSystemRegister (n : Nat) : Prop := n = 0x000 ∨ n = 0x001 ∨ n = 0x003 ∨ n = 0x004

/-- A transfer executes, and the bytes it writes to memory are written after it, in order: a return frame, or a ring entry. -/
def Transfers (i : Instr) (s : State) (V : View) (b : Warp) (p0 : Path) (writes : List (Nat × List Byte)) : Prop :=
  ∃ s1 w p r, WarpOnly V s (infoOf i) s1 ∧ SameWarp V (infoOf i) b p0 s1 w ∧ w.div.slot V.kn = some p ∧ p.run = some r ∧ Holds V ⟨[], []⟩ s1 w r ∧
    exec i s = .next (writes.foldl (fun t x => t.engineWrite (fieldOf V.cn) x.1 x.2) s1)

/-- The CYCLE from which a path issues after a transfer: one that was taken is followed by a bubble (R405). -/
def View.afterMove (V : View) (taken : Bool) : Nat := if taken then V.c.cycle + 2 else 0

/-- The path at an address, moved there by a transfer. -/
def View.movedTo (V : View) (pc : Pc) (taken : Bool) : Path := { V.p with pc := pc, ends := .moved, after := V.afterMove taken }

/-- The path of a transfer's group of lanes, which takes the lanes that rest with it. -/
def View.movedGroup (V : View) (m : Word) (pc : Pc) (depth : Nat) (taken : Bool) : Path :=
  { V.p with pc := pc, mask := m ||| (V.p.mask &&& ~~~V.em), depth := depth, ends := .moved, after := V.afterMove taken }

/-- The word after the run: where a transfer that is not taken goes (R26, R161). -/
def View.fallThrough (V : View) : Pc := V.r.trailerAt + 4

/-- The warp with the issuing slot's lookahead windows ended, as a taken transfer ends them (R28); and with those of both slots ended, where
lanes move to the other slot. -/
def View.windowsEnded (V : View) : Warp := V.w.endSlotWindows V.kn
def View.bothEnded (V : View) : Warp := V.windowsEnded.endSlotWindows (other V.kn)

/-- Some other path of a crew's warps holds a lane of the crew, and `p` holds of it. -/
def OtherPath (V : View) (n : Nat) (k : Crew) (p : Path → Prop) : Prop :=
  ∃ x ∈ k.warps, ∃ w m q, (V.c.quad x.1).warps.find x.2 = some w ∧ m ≤ 1 ∧ w.div.slot m = some q ∧ ¬ (x = (V.qn, V.wn) ∧ m = V.kn) ∧
    (∃ l, l < 32 ∧ q.mask.getLsbD l = true ∧ w.crewOf l = some n) ∧ p q

/-- A path that waits at a BRC of another address than the issuing word's, or has executed one in its run (R154). -/
def View.otherBrc (V : View) (q : Path) : Prop := ∃ at_ tgt taken, at_ ≠ V.p.pc ∧ (q.wait = .brc at_ tgt taken ∨ q.ends = .brc at_ tgt taken)

/-- A path parked at another point than that of the issuing RCV, or that has executed an RCV of another point in its run (R157). -/
def View.otherPark (V : View) (q : Path) : Prop :=
  (q.parked = true ∧ q.run = none ∧ q.pc ≠ V.fallThrough) ∨ (q.ends = .park ∧ ∃ r, q.run = some r ∧ r.trailerAt ≠ V.r.trailerAt)

/-- The divergence state after a transfer of one group of lanes to the other slot, or of none (R145). -/
def Div.given (d : Div) (k : Nat) (depth after : Nat) : List (Word × Pc) → Div
  | [] => d
  | g :: _ => d.setSlot k (some { freshPath g.2 g.1 depth false with after := after })

/-- Of the groups after the first, the one that takes the other slot, where that is empty; and the entries that the others push, the lowest
address last (R145). -/
def View.toOther (V : View) (rest : List (Word × Pc)) : List (Word × Pc) := if V.w.div.slot (other V.kn) = none then rest.take 1 else []
def View.pushed (V : View) (depth : Nat) (rest : List (Word × Pc)) : List StackEntry :=
  ((if V.w.div.slot (other V.kn) = none then rest.drop 1 else rest).reverse).map fun g => { pc := g.2, depth := depth, parked := false, mask := g.1 }

/-- The entries that a push moves from the chip to the ring, with their addresses (R148). -/
def View.ringWrites (V : View) (es : List StackEntry) : List (Dword × StackEntry) :=
  if es.isEmpty then [] else V.s.pushWrites V.cn V.qn V.wn V.w es

/-- R145: the groups of an indirect transfer go to their places, with call depth `depth`, the warp otherwise being `b`, and the bytes of `frames`
are written; more pushes than the stack has room for raise 0x0C5 for every lane. -/
def GroupsGo (i : Instr) (s : State) (V : View) (b : Warp) (depth : Nat) (groups : List (Word × Pc)) (frames : List (Nat × List Byte)) : Prop :=
  ∀ m0 t0 rest, groups = (m0, t0) :: rest →
    let es := V.pushed depth rest
    let ended := if V.toOther rest = [] then b.endSlotWindows V.kn else (b.endSlotWindows V.kn).endSlotWindows (other V.kn)
    (s.ringK V.w.launch < V.w.div.n + es.length → exec i s = .next (View.fault { V with w := b } 0x0C5 0#64 V.em)) ∧
    (∀ pas, V.w.div.n + es.length ≤ s.ringK V.w.launch →
      s.regionAll V.cn V.w.mgmt V.w.ctx V.w.launch true ((V.ringWrites es).map (·.1)) = .ok pas →
      Transfers i s V { ended with div := (V.w.div.push es).given (other V.kn) depth (V.afterMove true) (V.toOther rest) }
        (V.movedGroup m0 t0 depth true) (pas.zip ((V.ringWrites es).map fun x => x.2.bytes) ++ frames))

/-- A target to which an indirect transfer may go: canonical, word-aligned and headed by LAND (R163). -/
def View.lands (V : View) (t : Dword) : Prop :=
  canonical t = true ∧ t.extractLsb' 0 2 = 0#2 ∧
    ∃ x, V.s.fetchWord V.cn V.w (t.extractLsb' 0 48) = .ok x ∧ isTrailer x = false ∧ V.s.isLand V.w.mgmt V.w.launch x = true

/-- A target that fails, with its cause: not canonical, not word-aligned, a fetch that fails, not headed by LAND (R163). -/
def View.landsNot (V : View) (t : Dword) (c : Nat) : Prop :=
  (canonical t = false ∧ c = 0x009) ∨ (canonical t = true ∧ t.extractLsb' 0 2 ≠ 0#2 ∧ c = 0x008) ∨
    (canonical t = true ∧ t.extractLsb' 0 2 = 0#2 ∧
      (V.s.fetchWord V.cn V.w (t.extractLsb' 0 48) = .error (some c) ∨
        (c = 0x008 ∧ ∃ x, V.s.fetchWord V.cn V.w (t.extractLsb' 0 48) = .ok x ∧ (isTrailer x = true ∨ V.s.isLand V.w.mgmt V.w.launch x = false))))

/-- The order in which R163 reports causes: 0x009, 0x008, then those of a fetch in the order of R235. -/
def landRank (c : Nat) : Nat := if c = 0x009 then 0 else if c = 0x008 then 1 else 2 + causeRank c

/-- The warp of a return that goes on at a depth: below its flash point's depth it has a full point (R308). -/
def View.returned (V : View) : Warp := match V.w.rewind with
  | .flash x => if V.p.depth - 1 < x.depth then V.w.fullPoint else V.w
  | .full => V.w

/-- The threads that SPAWN deposits (R116, R136): a lane's entry is its pair, its payload the lane registers from d up, and its TID names the
core and the core's count of the launch's spawned threads. -/
def spawned (V : View) (d a : BitVec 7) (p : BitVec 4) : List ThreadRec :=
  V.records (fun l => V.lane64 a.toNat l)
    (fun l => BitVec.ofNat 32 (2 ^ 31 + V.cn * 2 ^ 19 + (Sparse.get 0 V.c.spawned V.w.launch + (lanesOf V.em).countP fun j => decide (j < l))))
    (fun _ => none) d p

/-- The threads among those a core has spilled that a word has deposited: their stamps are new. -/
def View.spilledNow (V : View) (t : State) : List ThreadRec := (t.core V.cn).spilled.filter fun x => decide (V.s.nextUid ≤ x.stamp)

/-- The state in which SPAWN has passed: the launch's count on the core has gone on by one for each lane, and 32 stamps are taken. -/
def View.spawnRetired (V : View) (i : Instr) (n : Nat) : State :=
  { (View.retire { V with c := { V.c with spawned := Sparse.set 0 V.c.spawned V.w.launch (n + (lanesOf V.em).length) } } (infoOf i)) with
    nextUid := V.s.nextUid + 32 }

/-- The state in which HAMP has passed: its slot's windows are over unless it ends no thread (R26, R28), and 32 stamps are taken. -/
def View.hampRetired (V : View) (i : Instr) : State := { (V.advance (infoOf i)).left.put with nextUid := V.s.nextUid + 32 }

/-- An instruction executes, as `DoesFrom` says, and the state then goes on through `f`. -/
def DoesThen (i : Instr) (s s0 : State) (V : View) (b : Warp) (p0 : Path) (x : Writes) (f : State → State) : Prop :=
  ∃ t w p r, exec i s = .next (f t) ∧ WarpOnly V s0 (infoOf i) t ∧ SameWarp V (infoOf i) b p0 t w ∧ w.div.slot V.kn = some p ∧ p.run = some r ∧
    Holds V x t w r

/-- A long-latency word executes: it answers a next state in which no register has changed, its destinations `ds` alone may have become
undefined, its warp is `b` and its path has gone on, and nothing else has changed from `s0` but what every word moves on. -/
def Posts (i : Instr) (s s0 : State) (V : View) (b : Warp) (uniform : Bool) (ds : List Nat) : Prop :=
  ∃ t w, exec i s = .next t ∧ WarpOnly V s0 (infoOf i) t ∧ SameWarp V (infoOf i) b V.onward t w ∧ (V.quadIn t).rf = V.q.rf ∧
    (∀ k, k < 120 → uniform = true ∨ k ∉ ds → Sparse.get 0#32 w.undef k = Sparse.get 0#32 V.w.undef k) ∧
    (∀ k, k < 56 → uniform = false ∨ k ∉ ds → Sparse.get 0#32 w.undef (128 + k) = Sparse.get 0#32 V.w.undef (128 + k))

/-- The accesses of a memory word, at the places that its addresses translate to (R209, R214), with the data captured at issue (R29). -/
def View.accesses (V : View) (f : MemForm) (d : Nat) (uniform : Bool) (vas : List (Nat × Dword)) (at_ : Nat → Loc) : List LaneAcc :=
  vas.map fun x => { lane := x.1, va := x.2, loc := at_ x.1, width := f.width, reach := V.s.reachOf (at_ x.1)
                     data := if uniform then V.uniN d f.regs else V.laneN d f.regs x.1 }

/-- The producer that a load or an atomic becomes (R28): pending, its window the operand la, its addresses and data captured. -/
def View.pending (V : View) (k : LongKind) (n d la : Nat) (uniform : Bool) (ls : Word) (accs : List LaneAcc) : LongOp :=
  { seq := V.w.seq, pc := V.p.pc, slot := V.kn, window := la + 1, uniform := uniform, dest := (List.range n).map (d + ·), kind := k
    lanes := ls, accs := accs, vals := [], posted := false, at_ := 0, due := [], lost := [] }

/-- The warp after a producer that serves no lane: its window alone opens (R28, R29). -/
def View.opened (V : View) (k : LongKind) (n d la : Nat) : Warp :=
  { V.w with seq := V.w.seq + 1, shadow := V.w.shadow ++ [V.pending k n d la false 0#32 []] }

/-- A state that differs only in what the cluster of the issuing core has cached of translations. -/
def View.TlbOnly (V : View) (s s0 : State) : Prop :=
  s0 = { s with clusters := s0.clusters } ∧ (∀ g, g ≠ clusterOf V.cn → s0.cluster g = s.cluster g) ∧
    s0.cluster (clusterOf V.cn) = { s.cluster (clusterOf V.cn) with tlb := (s0.cluster (clusterOf V.cn)).tlb }

/-- A view that has noted which destinations are written: of its registers, these alone may have become undefined. -/
def Noted (V W : View) (uniform : Bool) (ds : List Nat) : Prop :=
  W = { V with w := { V.w with undef := W.w.undef, tstRanges := W.w.tstRanges }, r := { V.r with tdef := W.r.tdef, wdef := W.r.wdef } } ∧
    (∀ k, k < 120 → uniform = true ∨ k ∉ ds → Sparse.get 0#32 W.w.undef k = Sparse.get 0#32 V.w.undef k) ∧
    (∀ k, k < 56 → uniform = false ∨ k ∉ ds → Sparse.get 0#32 W.w.undef (128 + k) = Sparse.get 0#32 V.w.undef (128 + k))

/-- A mask names the lanes whose addresses, among some, satisfy a condition; an address of the uniform stream stands for every lane of EM. -/
def View.Names (V : View) (vas : List (Nat × Dword)) (p : Nat × Dword → Prop) (m : Word) : Prop :=
  ∀ l, l < 32 → (m.getLsbD l = true ↔ ∃ x ∈ vas, p x ∧ (x.1 = l ∨ (x.1 = 32 ∧ V.em.getLsbD l = true)))

/-- A memory word of a form, with its addresses, one for each lane of EM or one for the uniform stream (R189, R209, R214, R230, R235, R243, R339).
Where the scoreboard has no room it waits. A lane whose address is not canonical, or else not aligned, stops every lane: FMASK names those that
fail, EVA is the lowest one's. A fence that covers it makes it wait. Then the lanes that translate complete, their loads and atomics pending,
their stores buffered, what watchpoints match of them gathered; those on a migrating page wait; and where no lane waits, those that fail stop
with the first of their causes. With no address, an EM without lanes, the word opens its window alone. -/
def MemoryWord (s : State) (V : View) (i : Instr) (f : MemForm) (closing : Bool) (d la : Nat) (uniform : Bool) (vas : List (Nat × Dword)) : Prop :=
  let bent (x : Nat × Dword) : Bool := !V.w.mgmt && !canonical x.2
  let askew (x : Nat × Dword) : Bool := x.2.toNat % f.width != 0
  let goes (x : Nat × Dword) : Xlate := s.translate V.cn V.w.mgmt V.w.ctx f.need x.2.toNat
  let good := vas.filter fun x => match goes x with
    | .ok _ => true
    | _ => false
  let bad := vas.filter fun x => match goes x with
    | .fault _ => true
    | _ => false
  let moving := vas.filter fun x => goes x == .migrating
  let pulled (s : State) : State := moving.foldl (fun s x => s.startPull V.w.ctx x.2.toNat) s
  let close (w : Warp) : Warp := if closing then w.fullPoint else w
  let ds := (List.range f.dest).map (d + ·)
  let fences := V.fencesOf (V.who vas) uniform f.writes
  Ready s (infoOf i) true V →
    (32 < V.w.pendingCount + f.dest → exec i s = .next (V.breakRun (.score [] [] f.dest))) ∧
    (V.w.pendingCount + f.dest ≤ 32 →
      (∀ x, vas.find? bent = some x → ∃ m, V.Names vas (fun y => bent y = true) m ∧ exec i s = .next (V.fault 0x040 x.2 m)) ∧
      (vas.find? bent = none → ∀ x, vas.find? askew = some x →
        ∃ m, V.Names vas (fun y => askew y = true) m ∧ exec i s = .next (V.fault 0x041 x.2 m)) ∧
      (vas.find? bent = none → vas.find? askew = none → fences ≠ [] →
        exec i s = .next (View.hold { V with w := if V.fenceHeld (V.who vas) uniform fences then V.w.fullPoint else V.w } 5)) ∧
      (vas.find? bent = none → vas.find? askew = none → fences = [] →
        (vas = [] → Does i s V (close (match f.op with
          | some k => V.opened k f.dest d la
          | none => V.w)) V.onward ⟨[], []⟩) ∧
        (moving ≠ [] → good = [] → exec i s = .next (View.hold { V with s := pulled s } 11)) ∧
        (∀ at_ : Nat → Loc, vas ≠ [] → (∀ x ∈ good, goes x = .ok (at_ x.1)) →
          let accs := V.accesses f d uniform good at_
          let w := (V.watch f accs).w
          let b0 : Warp := if good = [] then V.w else match f.op with
            | some k => { w with pend := w.pend ++ [V.pending k f.dest d la uniform (if uniform then V.em else V.who good) accs], seq := w.seq + 1 }
            | none => { w.buffer V.p.pc (if uniform then V.em else V.who good) accs f.store with seq := w.seq + 1 }
          let b1 := if V.endsHold f (V.who vas) accs then b0.fullPoint else b0
          ∃ s0, V.TlbOnly s s0 ∧
            (moving = [] → bad = [] → Posts i s s0 V (close b1) uniform ds) ∧
            (moving = [] → ∀ x, bad.head? = some x → ∃ W c m, Noted V W uniform ds ∧ V.Names bad (fun _ => True) m ∧
              (∃ y ∈ bad, goes y = .fault c) ∧ (∀ y ∈ bad, ∀ e, goes y = .fault e → causeRank c ≤ causeRank e) ∧
              exec i s = .next (View.laneFault { W with s := s0
                                                        w := { (if good = [] then b1 else close b1) with undef := W.w.undef
                                                                                                         tstRanges := W.w.tstRanges } } c x.2 m)) ∧
            (moving ≠ [] → good ≠ [] → ∃ W m, Noted V W uniform ds ∧ V.Names (moving ++ bad) (fun _ => True) m ∧
              exec i s = .next (View.hold { W with s := pulled s0, p := { V.p with replay := some m }
                                                   w := { close b1 with undef := W.w.undef, tstRanges := W.w.tstRanges } } 11)))))

/-- The addresses of a lane memory word: each lane's pair, and the sign-extended offset that k names, if it names one (R209). -/
def View.laneAddresses (V : View) (a : BitVec 7) (k : BitVec 3) : List (Nat × Dword) :=
  (lanesOf V.em).map fun l => (l, V.lane64 a.toNat l + if k = 0#3 then 0#64 else (V.uni k.toNat).signExtend 64)

/-- What a scratchpad word asks for one of its lanes (R177, R218). -/
def View.spotAsk (V : View) (f : SpotForm) (writes : Bool) (x : Spot) : Ask :=
  { seq := V.w.seq, lanes := V.em, acc := { lane := x.lane, va := 0, loc := .scratch V.cn x.addr, width := f.width, data := 0 }
    writes := writes, acquires := f.kind == .arwait || f.kind == .arpoll, releases := false, volatile := false, forwards := false }

/-- A scratchpad word (R170, R171, R177, R185, R186). A lane that fails a check stops every lane. The word waits for what fences and the order within its
thread put before it, then at issue until its quadrant's access has been accepted, and is then performed: the scratchpad holds what its lanes
leave, in ascending order, and its values, if it has any, are pending until twelve cycles after the last cycle of its access, which is counted
from its acceptance; an ARWAIT whose generation cannot come stops those lanes instead. A byte that a TST writes before its MWAIT is read as
`Core.asRead` says. With an empty EM the word only opens its window. -/
def ScratchWord (s : State) (V : View) (i : Instr) (f : SpotForm) (closing : Bool) (d la : Nat) (a : BitVec 7) (k : BitVec 3) : Prop :=
  let xs := V.spots a k
  let writes : Bool := !(f.kind == .scratchLoad true || f.kind == .scratchLoad false || f.kind == .arpoll || f.kind == .arwait)
  let mine (t : Nat) : Presented := { warp := V.wn, slot := V.kn, pc := V.p.pc, accepted := true, at_ := t }
  let fences := V.fencesOf V.em false writes
  let waits (x : Spot) : Bool := V.w.blocked (V.spotAsk f writes x)
  let lost (x : Spot) : Prop := f.kind = .arwait ∧ 2 ^ 31 < ((V.c.asRead s.fresh V.c.scratch x.addr 16).word (x.addr + 8) - V.lane d x.lane).toNat
  Ready s (infoOf i) true V →
    (32 < V.w.pendingCount + f.dest → exec i s = .next (V.breakRun (.score [] [] f.dest))) ∧
    (V.w.pendingCount + f.dest ≤ 32 →
      (∀ c y ys, spotFault f.width f.align xs = some (c, y :: ys) → ∃ m : Word, (∀ l, l < 32 → (m.getLsbD l = true ↔ ∃ x ∈ y :: ys, x.lane = l)) ∧
        exec i s = .next (V.fault c (BitVec.ofNat 64 y.addr) m)) ∧
      (spotFault f.width f.align xs = none → fences ≠ [] →
        exec i s = .next (View.hold { V with w := if V.fenceHeld V.em false fences then V.w.fullPoint else V.w } 5)) ∧
      (spotFault f.width f.align xs = none → fences = [] →
        (V.em = 0#32 →
          let b : Warp := if f.dest = 0 then V.w else V.opened f.kind f.dest d la
          Does i s V (if closing then b.fullPoint else b) V.onward ⟨[], []⟩) ∧
        ((∃ x ∈ xs, waits x = true) →
          exec i s = .next (View.hold { V with w := if xs.any fun x => V.w.sb.any fun b => b.held && (V.spotAsk f writes x).needs b
                                                    then V.w.fullPoint else V.w } 4)) ∧
        (V.em ≠ 0#32 → (∀ x ∈ xs, waits x = false) → (∀ at_, V.q.presented ≠ some (mine at_)) →
          ∃ t, exec i s = .next t ∧ t = { s with cores := t.cores } ∧ (t.core V.cn).scratch = V.c.scratch ∧ (V.quadIn t).presented = some { mine 0 with accepted := false } ∧
            (V.quadIn t).rf = V.q.rf ∧ t.viewAt V.cn V.qn V.wn V.kn =
              some { V with s := t, c := t.core V.cn, q := V.quadIn t, w := { V.w with div := V.w.div.setSlot V.kn (some { V.p with wait := .held 4 }) }
                            p := { V.p with wait := .held 4 } }) ∧
        (V.em ≠ 0#32 → (∀ x ∈ xs, waits x = false) → ∀ at_, V.q.presented = some (mine at_) →
          let e := f.last xs at_
          let q : Quadrant := { V.q with presented := none }
          ((∀ x ∈ xs, ¬ lost x) →
            let acts := xs.foldl (fun (p : Memory × List (Nat × BitVec 128)) x =>
              let y := spotAct f.kind f.width (V.laneN d f.regs x.lane) p.1 (V.c.asRead s.fresh p.1 x.addr f.align) x.addr
              (y.1, p.2 ++ (y.2.map fun v => (x.lane, v)).toList)) (V.c.scratch, [])
            let V' : View := { V with c := { V.c with scratch := acts.1, scratchFree := freeCycle 1 e }, q := q }
            let accs : List LaneAcc := if f.kind = .arwait then xs.map fun x =>
              { lane := x.lane, va := 0, loc := .scratch V.cn x.addr, width := 4, data := V.laneN d f.regs x.lane } else []
            let op : LongOp := { V.pending f.kind f.dest d la false V.em accs with vals := acts.2, at_ := e + 12 }
            let b : Warp := if f.dest = 0 then V.w else { V.w with pend := V.w.pend ++ [op], seq := V.w.seq + 1 }
            Posts i s s V' (if closing then b.fullPoint else b) false ((List.range f.dest).map (d + ·))) ∧
          ((∃ x ∈ xs, lost x) → ∃ m : Word, (∀ l, l < 32 → (m.getLsbD l = true ↔ ∃ x ∈ xs, x.lane = l ∧ lost x)) ∧
            exec i s = .next (View.fault { V with c := { V.c with scratchFree := freeCycle 1 e }, q := q } 0x0C8 0#64 m)))))

/-- No byte of memory has another value, and none has become defined or undefined. -/
def SameBytes (s t : State) : Prop := t.mem = s.mem ∧ t.undefined = s.undefined

/-- The line of memory is what home memory holds: no owner's dirty sector is ahead of it. -/
def State.homeCurrent (s : State) (line : Nat) : Prop := ∀ a, lineOf a = line → Sparse.get 0#8 s.behind a = 0#8

/-- No field holds a copy of a line. -/
def State.copyless (s : State) (line : Nat) : Prop := ∀ f, f < 42 → (s.field f).line line = none

/-- A message stands at the head of a cluster's queue for a bus, and its turn has come: no earlier message on its line waits for the host. -/
def State.turn (s : State) (g bus : Nat) (m : Msg) (ms : List Msg) : Prop := (s.cluster g).buses.find bus = some (m :: ms) ∧ s.hostWait m.line = false

/-- A message on behalf of the host stands at the head of the queue of cluster 0 of its line's home field, and its turn has come. -/
def State.hostTurn (s : State) (k : MsgKind) (line : Nat) (ms : List Msg) : Prop := s.turn (8 * homeOf line) (busOf line) ⟨k, line, 0, none⟩ ms

/-- Everything but some of the cores is as before. -/
def CoresOnly (s t : State) : Prop := t = { s with cores := t.cores }

/-- The cells of a table that a walk to an address passes, from the root down, each with its level (R233). -/
def State.cellsFrom (s : State) (va : Nat) : Nat → Nat → List (Nat × Nat)
  | level, node =>
    let a := node + 8 * nodeIndex level va
    (level, a) :: (if s.memNat a 8 % 4 = 1 then (match level with
      | 0 => []
      | l + 1 => State.cellsFrom s va l (s.memNat a 8 / 256 % 2 ^ 40 * 256)) else [])
  termination_by structural level => level
def State.cells (s : State) (ctx va : Nat) : List (Nat × Nat) := match (s.ctx ctx).root with
  | none => []
  | some r => s.cellsFrom va 3 r

/-- The addresses that one cell of a level stands for: their number is 2 to this power. -/
def spanBits (level : Nat) : Nat := if level = 3 then 39 else if level = 2 then 30 else if level = 1 then 21 else 16

/-- A context's tables stand in firmware's own memory, where every line can be read and `n` further nodes have room, and two cells meet only where they
are one, of addresses that share it. -/
def State.tablesSound (s : State) (ctx n : Nat) : Prop :=
  0x03EF00000000 ≤ s.nodeNext ∧ s.nodeNext % 4096 = 0 ∧ s.nodeNext + 4096 * n ≤ 2 ^ 48 ∧ (∀ l ∈ s.unreadable, 256 * l < 0x03EF00000000) ∧
  (∀ v, ∀ c ∈ s.cells ctx v, 0x03EF00000000 ≤ c.2 ∧ c.2 + 8 ≤ s.nodeNext) ∧
  ∀ v w, ∀ c ∈ s.cells ctx v, ∀ d ∈ s.cells ctx w, c.2 < d.2 + 8 → d.2 < c.2 + 8 →
    c = d ∧ v % 2 ^ 48 / 2 ^ spanBits c.1 = w % 2 ^ 48 / 2 ^ spanBits c.1

/-- The mailbox command that an event is, with the code of its effect (R379). -/
def mailOf : Instr → Option (Mail × Nat)
  | .registerQueue m _ => some (m, 1)
  | .unregisterQueue m _ => some (m, 2)
  | .openDebugSession m => some (m, 3)
  | .closeDebugSession m => some (m, 4)
  | .dump m _ _ => some (m, 5)
  | .bindPeer m _ _ => some (m, 6)
  | .unbindPeer m _ => some (m, 7)
  | .installTenantKey m _ => some (m, 8)
  | _ => none

/-- The mailbox of a function as it stands. -/
def State.boxOf (s : State) (m : Mail) : Mailbox := ((s.ctx m.ctx).mail.find m.port).getD {}

/-- Firmware takes a command of a function that is there and whose last command, unless this is that one, it has finished (R379). -/
def State.accepts (s : State) (m : Mail) (code : Nat) : Prop :=
  (s.contexts.find m.ctx).isSome = true ∧ m.port ∈ (s.ctx m.ctx).ports ∧ ∀ k, (s.boxOf m).busy = some k → k = code

/-- The command stands in its function's command area. -/
def State.taken (s : State) (m : Mail) : State :=
  s.setCtx m.ctx { s.ctx m.ctx with mail := (s.ctx m.ctx).mail.put m.port { s.boxOf m with area := Sparse.setAll 0#8 (s.boxOf m).area 0 (toLe m.code 4) } }

/-- A command with its own code and its reserved bytes zero is taken. -/
def State.obeys (s : State) (m : Mail) (code : Nat) : Prop := s.accepts m code ∧ m.code = code ∧ m.reservedZero = true

/-- The operand values that the checks of R40 look at (R246, R260, R300), for the words that have any. -/
def valuesOk (V : View) : Instr → Bool
  | .cpk a b => kickValues (V.uni b.toNat).toNat (V.uni (a.toNat + 1))
  | .maprq _ _ b => decide (1 ≤ (V.uni b.toNat).toNat) && decide ((V.uni b.toNat).toNat ≤ 64)
  | .tst _ _ f b => tileFormatOk f && (V.em == 0#32 || locOk (V.one b.toNat))
  | .tld _ _ f b => tileFormatOk f && (V.em == 0#32 || locOk (V.one b.toNat))
  | _ => true

/-- The words whose checks look at operand values, and so wait for them. -/
def checksValues : Instr → Bool
  | .cpk .. => true
  | .maprq .. => true
  | .tst .. => true
  | .tld .. => true
  | _ => false

/-- A transfer whose range of registers fails a check of R40, which comes before the check of a full mask. -/
def rangeBad (V : View) : Instr → Bool
  | .tst _ _ f b => V.em != 0#32 && (V.rangeFault f.toNat (V.one b.toNat)).isSome
  | .tld _ _ f b => V.em != 0#32 && (V.rangeFault f.toNat (V.one b.toNat)).isSome
  | _ => false

end Sys2Proof.Machine
open Sys2Proof Sys2Proof.Machine

/-! ### Register operations (R89-R114) -/

/-- R93: the lane arithmetic and logic words and their .B forms.

R94: the immediate forms, with the immediate sign-extended. -/
def Obligations.LaneArithmeticAndLogic : Prop :=
  (∀ (s : State) (V : View) (d a b : BitVec 7) (u : BitVec 6),
    let A := V.lane a.toNat
    let B := V.lane b.toNat
    let D := V.lane d.toNat
    let U := V.uni u.toNat
    let zero7 := 0#7
    RowWord s V (.add d a b) (0x000#11 ++ d ++ a ++ b) d (fun l => A l + B l) ∧
    RowWord s V (.addB d a u) (0x033#11 ++ d ++ a ++ 0#1 ++ u) d (fun l => A l + U) ∧
    RowWord s V (.sub d a b) (0x001#11 ++ d ++ a ++ b) d (fun l => A l - B l) ∧
    RowWord s V (.subB d a u) (0x034#11 ++ d ++ a ++ 0#1 ++ u) d (fun l => A l - U) ∧
    RowWord s V (.mul d a b) (0x003#11 ++ d ++ a ++ b) d (fun l => BitVec.ofNat 32 ((A l).toNat * (B l).toNat)) ∧
    RowWord s V (.mulB d a u) (0x035#11 ++ d ++ a ++ 0#1 ++ u) d (fun l => BitVec.ofNat 32 ((A l).toNat * U.toNat)) ∧
    RowWord s V (.mulhS d a b) (0x004#11 ++ d ++ a ++ b) d
      (fun l => (BitVec.ofInt 64 ((A l).toInt * (B l).toInt)).extractLsb' 32 32) ∧
    RowWord s V (.mulhZ d a b) (0x005#11 ++ d ++ a ++ b) d
      (fun l => (BitVec.ofNat 64 ((A l).toNat * (B l).toNat)).extractLsb' 32 32) ∧
    RowWord s V (.mad d a b) (0x006#11 ++ d ++ a ++ b) d (fun l => BitVec.ofNat 32 ((A l).toNat * (B l).toNat + (D l).toNat)) ∧
    RowWord s V (.madB d a u) (0x036#11 ++ d ++ a ++ 0#1 ++ u) d (fun l => BitVec.ofNat 32 ((A l).toNat * U.toNat + (D l).toNat)) ∧
    RowWord s V (.minS d a b) (0x007#11 ++ d ++ a ++ b) d (fun l => BitVec.ofInt 32 (min (A l).toInt (B l).toInt)) ∧
    RowWord s V (.maxS d a b) (0x009#11 ++ d ++ a ++ b) d (fun l => BitVec.ofInt 32 (max (A l).toInt (B l).toInt)) ∧
    RowWord s V (.minZ d a b) (0x008#11 ++ d ++ a ++ b) d (fun l => BitVec.ofNat 32 (min (A l).toNat (B l).toNat)) ∧
    RowWord s V (.maxZ d a b) (0x00A#11 ++ d ++ a ++ b) d (fun l => BitVec.ofNat 32 (max (A l).toNat (B l).toNat)) ∧
    RowWord s V (.abs d a) (0x00B#11 ++ d ++ a ++ zero7) d (fun l => BitVec.ofNat 32 (A l).toInt.natAbs) ∧
    RowWord s V (.and d a b) (0x00C#11 ++ d ++ a ++ b) d (fun l => A l &&& B l) ∧
    RowWord s V (.andB d a u) (0x037#11 ++ d ++ a ++ 0#1 ++ u) d (fun l => A l &&& U) ∧
    RowWord s V (.or d a b) (0x00D#11 ++ d ++ a ++ b) d (fun l => A l ||| B l) ∧
    RowWord s V (.orB d a u) (0x038#11 ++ d ++ a ++ 0#1 ++ u) d (fun l => A l ||| U) ∧
    RowWord s V (.xor d a b) (0x00E#11 ++ d ++ a ++ b) d (fun l => A l ^^^ B l) ∧
    RowWord s V (.xorB d a u) (0x039#11 ++ d ++ a ++ 0#1 ++ u) d (fun l => A l ^^^ U) ∧
    RowWord s V (.andn d a b) (0x00F#11 ++ d ++ a ++ b) d (fun l => A l &&& ~~~B l)) ∧
  (∀ (s : State) (V : View) (d a i : BitVec 7),
    let A := V.lane a.toNat
    let B := i.signExtend 32
    RowWord s V (.addi d a i) (0x002#11 ++ d ++ a ++ i) d (fun l => A l + B) ∧
    RowWord s V (.andi d a i) (0x010#11 ++ d ++ a ++ i) d (fun l => A l &&& B) ∧
    RowWord s V (.ori d a i) (0x011#11 ++ d ++ a ++ i) d (fun l => A l ||| B) ∧
    RowWord s V (.xori d a i) (0x012#11 ++ d ++ a ++ i) d (fun l => A l ^^^ B))

/-- R95: the lane shifts; a count of the width or more gives zeros, or copies of the sign.

R96, R97: counts, bit order and bit fields. -/
def Obligations.LaneShiftsAndBits : Prop :=
  (∀ (s : State) (V : View) (d a b : BitVec 7) (u : BitVec 6) (k : BitVec 5),
    let A := V.lane a.toNat
    let n (l : Nat) := (V.lane b.toNat l).toNat % 256
    let m := (V.uni u.toNat).toNat % 256
    let r (l : Nat) := (V.lane b.toNat l).toNat % 32
    let left (x : Word) (n : Nat) : Word := BitVec.ofNat 32 (x.toNat * 2 ^ n)
    let right (x : Word) (n : Nat) : Word := BitVec.ofNat 32 (x.toNat / 2 ^ n)
    let arith (x : Word) (n : Nat) : Word := BitVec.ofInt 32 (x.toInt / 2 ^ n)
    RowWord s V (.shl d a b) (0x013#11 ++ d ++ a ++ b) d (fun l => left (A l) (n l)) ∧
    RowWord s V (.shlB d a u) (0x03A#11 ++ d ++ a ++ 0#1 ++ u) d (fun l => left (A l) m) ∧
    RowWord s V (.shr d a b) (0x014#11 ++ d ++ a ++ b) d (fun l => right (A l) (n l)) ∧
    RowWord s V (.shrB d a u) (0x03B#11 ++ d ++ a ++ 0#1 ++ u) d (fun l => right (A l) m) ∧
    RowWord s V (.sar d a b) (0x015#11 ++ d ++ a ++ b) d (fun l => arith (A l) (n l)) ∧
    RowWord s V (.rotl d a b) (0x019#11 ++ d ++ a ++ b) d
      (fun l => BitVec.ofNat 32 ((A l).toNat * 2 ^ r l + (A l).toNat / 2 ^ (32 - r l))) ∧
    RowWord s V (.shli d a k) (0x016#11 ++ d ++ a ++ 0#2 ++ k) d (fun l => left (A l) k.toNat) ∧
    RowWord s V (.shri d a k) (0x017#11 ++ d ++ a ++ 0#2 ++ k) d (fun l => right (A l) k.toNat) ∧
    RowWord s V (.sari d a k) (0x018#11 ++ d ++ a ++ 0#2 ++ k) d (fun l => arith (A l) k.toNat)) ∧
  (∀ (s : State) (V : View) (d a b : BitVec 7),
    let A := V.lane a.toNat
    let B := V.lane b.toNat
    let D := V.lane d.toNat
    let zero7 := 0#7
    let w (l : Nat) := (B l).toNat / 256 % 32 + 1
    RowWord s V (.popc d a) (0x01A#11 ++ d ++ a ++ zero7) d (fun l => BitVec.ofNat 32 (onesCount (A l))) ∧
    RowWord s V (.clz d a) (0x01B#11 ++ d ++ a ++ zero7) d (fun l => BitVec.ofNat 32 (zerosAbove (A l))) ∧
    RowWord s V (.brev d a) (0x01C#11 ++ d ++ a ++ zero7) d (fun l => (A l).reverse) ∧
    RowWord s V (.bfxZ d a b) (0x01E#11 ++ d ++ a ++ b) d (fun l => BitVec.ofNat 32 (bitField (A l) (B l))) ∧
    RowWord s V (.bfxS d a b) (0x01D#11 ++ d ++ a ++ b) d (fun l => (BitVec.ofNat (w l) (bitField (A l) (B l))).signExtend 32) ∧
    RowWord s V (.bfi d a b) (0x01F#11 ++ d ++ a ++ b) d
      (fun l => (D l &&& ~~~fieldMask (B l)) ||| (A l <<< ((B l).toNat % 32) &&& fieldMask (B l))))

/-- R98: the 64-bit forms on even pairs. -/
def Obligations.LanePairs : Prop :=
  ∀ (s : State) (V : View) (d a b : BitVec 7),
    let A := V.lane64 a.toNat
    let B := V.lane64 b.toNat
    let n (l : Nat) := (V.lane b.toNat l).toNat % 256
    PairWord s V (.addD d a b) (0x020#11 ++ d ++ a ++ b) d (fun l => A l + B l) ∧
    PairWord s V (.subD d a b) (0x021#11 ++ d ++ a ++ b) d (fun l => A l - B l) ∧
    PairWord s V (.mulD d a b) (0x022#11 ++ d ++ a ++ b) d (fun l => BitVec.ofNat 64 ((A l).toNat * (B l).toNat)) ∧
    PairWord s V (.shlD d a b) (0x023#11 ++ d ++ a ++ b) d (fun l => BitVec.ofNat 64 ((A l).toNat * 2 ^ n l)) ∧
    PairWord s V (.shrD d a b) (0x024#11 ++ d ++ a ++ b) d (fun l => BitVec.ofNat 64 ((A l).toNat / 2 ^ n l)) ∧
    PairWord s V (.sarD d a b) (0x025#11 ++ d ++ a ++ b) d (fun l => BitVec.ofInt 64 ((A l).toInt / 2 ^ n l))

/-- R99, R100: lane compares write a mask; SEL moves the lanes whose bit is set. -/
def Obligations.LaneCompares : Prop :=
  ∀ (s : State) (V : View) (m u : BitVec 6) (d a b i : BitVec 7),
    let A := V.lane a.toNat
    let B := V.lane b.toNat
    let U := V.uni u.toNat
    let I := i.signExtend 32
    MaskWord s V (.cmpEq m a b) (0x026#11 ++ 0#1 ++ m ++ a ++ b) m (fun l => A l = B l) ∧
    MaskWord s V (.cmpEqB m a u) (0x03C#11 ++ 0#1 ++ m ++ a ++ 0#1 ++ u) m (fun l => A l = U) ∧
    MaskWord s V (.cmpNe m a b) (0x027#11 ++ 0#1 ++ m ++ a ++ b) m (fun l => A l ≠ B l) ∧
    MaskWord s V (.cmpLtS m a b) (0x028#11 ++ 0#1 ++ m ++ a ++ b) m (fun l => (A l).toInt < (B l).toInt) ∧
    MaskWord s V (.cmpLtSB m a u) (0x03D#11 ++ 0#1 ++ m ++ a ++ 0#1 ++ u) m (fun l => (A l).toInt < U.toInt) ∧
    MaskWord s V (.cmpLeS m a b) (0x029#11 ++ 0#1 ++ m ++ a ++ b) m (fun l => (A l).toInt ≤ (B l).toInt) ∧
    MaskWord s V (.cmpLtZ m a b) (0x02A#11 ++ 0#1 ++ m ++ a ++ b) m (fun l => (A l).toNat < (B l).toNat) ∧
    MaskWord s V (.cmpLeZ m a b) (0x02B#11 ++ 0#1 ++ m ++ a ++ b) m (fun l => (A l).toNat ≤ (B l).toNat) ∧
    MaskWord s V (.cmpiEq m a i) (0x02C#11 ++ 0#1 ++ m ++ a ++ i) m (fun l => A l = I) ∧
    MaskWord s V (.cmpiLtS m a i) (0x02D#11 ++ 0#1 ++ m ++ a ++ i) m (fun l => (A l).toInt < i.toInt) ∧
    RowWord s V (.sel d a u) (0x02E#11 ++ d ++ a ++ 0#1 ++ u) d (fun l => if U.getLsbD l then A l else V.lane d.toNat l)

/-- R101: division, with the fixed results of its corners. -/
def Obligations.LaneDivision : Prop :=
  (∀ (s : State) (V : View) (d a b : BitVec 7),
    let A := V.lane a.toNat
    let B := V.lane b.toNat
    RowWord s V (.divS d a b) (0x02F#11 ++ d ++ a ++ b) d (fun l => quotS (A l) (B l)) ∧
    RowWord s V (.remS d a b) (0x031#11 ++ d ++ a ++ b) d (fun l => restS (A l) (B l)) ∧
    RowWord s V (.divZ d a b) (0x030#11 ++ d ++ a ++ b) d (fun l => quotZ (A l) (B l)) ∧
    RowWord s V (.remZ d a b) (0x032#11 ++ d ++ a ++ b) d (fun l => restZ (A l) (B l))) ∧
  quotS 0x80000000#32 0xFFFFFFFF#32 = 0x80000000#32 ∧ restS 0x80000000#32 0xFFFFFFFF#32 = 0#32 ∧
  quotZ 0x80000000#32 0xFFFFFFFF#32 = 0#32 ∧ restZ 0x80000000#32 0xFFFFFFFF#32 = 0x80000000#32

/-- R102: the uniform integer words, once for the warp whatever the mask.

R103, R104: uniform compares and the uniform select. -/
def Obligations.UniformIntegerWords : Prop :=
  (∀ (s : State) (V : View) (d a b : BitVec 6) (i : BitVec 9) (k : BitVec 5),
    let A := V.uni a.toNat
    let B := V.uni b.toNat
    let D := V.uni d.toNat
    let I := i.signExtend 32
    let n := B.toNat % 256
    let f := 0#3
    let none6 := 0#6
    UniWord s V (.sadd d a b) (0x400#11 ++ d ++ a ++ b ++ f) d (A + B) ∧
    UniWord s V (.ssub d a b) (0x401#11 ++ d ++ a ++ b ++ f) d (A - B) ∧
    UniWord s V (.saddi d a i) (0x402#11 ++ d ++ a ++ i) d (A + I) ∧
    UniWord s V (.smul d a b) (0x403#11 ++ d ++ a ++ b ++ f) d (BitVec.ofNat 32 (A.toNat * B.toNat)) ∧
    UniWord s V (.smulhS d a b) (0x404#11 ++ d ++ a ++ b ++ f) d ((BitVec.ofInt 64 (A.toInt * B.toInt)).extractLsb' 32 32) ∧
    UniWord s V (.smulhZ d a b) (0x405#11 ++ d ++ a ++ b ++ f) d ((BitVec.ofNat 64 (A.toNat * B.toNat)).extractLsb' 32 32) ∧
    UniWord s V (.sminS d a b) (0x406#11 ++ d ++ a ++ b ++ f) d (BitVec.ofInt 32 (min A.toInt B.toInt)) ∧
    UniWord s V (.smaxS d a b) (0x407#11 ++ d ++ a ++ b ++ f) d (BitVec.ofInt 32 (max A.toInt B.toInt)) ∧
    UniWord s V (.sminZ d a b) (0x408#11 ++ d ++ a ++ b ++ f) d (BitVec.ofNat 32 (min A.toNat B.toNat)) ∧
    UniWord s V (.smaxZ d a b) (0x409#11 ++ d ++ a ++ b ++ f) d (BitVec.ofNat 32 (max A.toNat B.toNat)) ∧
    UniWord s V (.sand d a b) (0x40A#11 ++ d ++ a ++ b ++ f) d (A &&& B) ∧
    UniWord s V (.sor d a b) (0x40B#11 ++ d ++ a ++ b ++ f) d (A ||| B) ∧
    UniWord s V (.sxor d a b) (0x40C#11 ++ d ++ a ++ b ++ f) d (A ^^^ B) ∧
    UniWord s V (.sandn d a b) (0x40D#11 ++ d ++ a ++ b ++ f) d (A &&& ~~~B) ∧
    UniWord s V (.sandi d a i) (0x40E#11 ++ d ++ a ++ i) d (A &&& I) ∧
    UniWord s V (.sori d a i) (0x40F#11 ++ d ++ a ++ i) d (A ||| I) ∧
    UniWord s V (.sxori d a i) (0x410#11 ++ d ++ a ++ i) d (A ^^^ I) ∧
    UniWord s V (.sshl d a b) (0x411#11 ++ d ++ a ++ b ++ f) d (BitVec.ofNat 32 (A.toNat * 2 ^ n)) ∧
    UniWord s V (.sshr d a b) (0x412#11 ++ d ++ a ++ b ++ f) d (BitVec.ofNat 32 (A.toNat / 2 ^ n)) ∧
    UniWord s V (.ssar d a b) (0x413#11 ++ d ++ a ++ b ++ f) d (BitVec.ofInt 32 (A.toInt / 2 ^ n)) ∧
    UniWord s V (.sshli d a k) (0x414#11 ++ d ++ a ++ 0#4 ++ k) d (BitVec.ofNat 32 (A.toNat * 2 ^ k.toNat)) ∧
    UniWord s V (.sshri d a k) (0x415#11 ++ d ++ a ++ 0#4 ++ k) d (BitVec.ofNat 32 (A.toNat / 2 ^ k.toNat)) ∧
    UniWord s V (.ssari d a k) (0x416#11 ++ d ++ a ++ 0#4 ++ k) d (BitVec.ofInt 32 (A.toInt / 2 ^ k.toNat)) ∧
    UniWord s V (.spopc d a) (0x417#11 ++ d ++ a ++ none6 ++ f) d (BitVec.ofNat 32 (onesCount A)) ∧
    UniWord s V (.sclz d a) (0x418#11 ++ d ++ a ++ none6 ++ f) d (BitVec.ofNat 32 (zerosAbove A)) ∧
    UniWord s V (.sffs d a) (0x419#11 ++ d ++ a ++ none6 ++ f) d (BitVec.ofNat 32 (((List.range 32).find? fun j => A.getLsbD j).getD 32)) ∧
    UniWord s V (.sbrev d a) (0x41A#11 ++ d ++ a ++ none6 ++ f) d A.reverse ∧
    UniWord s V (.sbfxZ d a b) (0x41B#11 ++ d ++ a ++ b ++ f) d (BitVec.ofNat 32 (bitField A B)) ∧
    UniWord s V (.sbfi d a b) (0x41C#11 ++ d ++ a ++ b ++ f) d ((D &&& ~~~fieldMask B) ||| (A <<< (B.toNat % 32) &&& fieldMask B)) ∧
    UniPairWord s V (.saddD d a b) (0x41D#11 ++ d ++ a ++ b ++ f) d (V.uni64 a.toNat + V.uni64 b.toNat) ∧
    UniPairWord s V (.ssubD d a b) (0x41E#11 ++ d ++ a ++ b ++ f) d (V.uni64 a.toNat - V.uni64 b.toNat) ∧
    UniWord s V (.sdivZ d a b) (0x426#11 ++ d ++ a ++ b ++ f) d (quotZ A B) ∧
    UniWord s V (.sremZ d a b) (0x427#11 ++ d ++ a ++ b ++ f) d (restZ A B)) ∧
  (∀ (s : State) (V : View) (d a b : BitVec 6) (c : BitVec 3),
    let A := V.uni a.toNat
    let B := V.uni b.toNat
    let f := 0#3
    UniWord s V (.scmpEq d a b) (0x41F#11 ++ d ++ a ++ b ++ f) d (oneIf (A = B)) ∧
    UniWord s V (.scmpNe d a b) (0x420#11 ++ d ++ a ++ b ++ f) d (oneIf (A ≠ B)) ∧
    UniWord s V (.scmpLtS d a b) (0x421#11 ++ d ++ a ++ b ++ f) d (oneIf (A.toInt < B.toInt)) ∧
    UniWord s V (.scmpLeS d a b) (0x422#11 ++ d ++ a ++ b ++ f) d (oneIf (A.toInt ≤ B.toInt)) ∧
    UniWord s V (.scmpLtZ d a b) (0x423#11 ++ d ++ a ++ b ++ f) d (oneIf (A.toNat < B.toNat)) ∧
    UniWord s V (.scmpLeZ d a b) (0x424#11 ++ d ++ a ++ b ++ f) d (oneIf (A.toNat ≤ B.toNat)) ∧
    UniWord s V (.ssel d a b c) (0x425#11 ++ d ++ a ++ b ++ c) d (if V.uni c.toNat ≠ 0#32 then A else B))

/-- R55: a magnitude m over 2^sh is rounded to the nearest integer with ties to even, towards zero, towards +infinity or towards -infinity, by
the code of the mode; `neg` is the sign of the result.

The worked examples of R57, R106, R109, R113 and R114, each word for word. -/
def Obligations.RoundingOfNumbers : Prop :=
  (∀ (neg : Bool) (m sh : Nat),
    let q := m / 2 ^ sh
    (∃ n, shiftRound 0 neg m sh = n ∧ (n = q ∨ n = q + 1) ∧ 2 * (n * 2 ^ sh) ≤ 2 * m + 2 ^ sh ∧ 2 * m ≤ 2 * (n * 2 ^ sh) + 2 ^ sh ∧
      ((2 * (n * 2 ^ sh) = 2 * m + 2 ^ sh ∨ 2 * m = 2 * (n * 2 ^ sh) + 2 ^ sh) → n % 2 = 0)) ∧
    shiftRound 1 neg m sh = q ∧
    (∀ mode, (mode = 2 ∧ neg = true) ∨ (mode = 3 ∧ neg = false) → shiftRound mode neg m sh = q) ∧
    (∀ mode, (mode = 2 ∧ neg = false) ∨ (mode = 3 ∧ neg = true) →
      m ≤ shiftRound mode neg m sh * 2 ^ sh ∧ ∀ k, m ≤ k * 2 ^ sh → shiftRound mode neg m sh ≤ k)) ∧
  (fma32 ⟨0, false⟩ 0x3F800800#32 0x3F800800#32 0xBF800000#32 = 0x3A000400#32 ∧
  fp32 ⟨0, false⟩ fpAdd (fp32 ⟨0, false⟩ fpMul 0x3F800800#32 0x3F800800#32) 0xBF800000#32 = 0x3A000000#32 ∧
  (∀ m < 4, un32 ⟨m, false⟩ Fp.rsqrt 0x40800000#32 = 0x3F000000#32) ∧
  un32 ⟨0, false⟩ Fp.rsqrt 0x40000000#32 = 0x3F3504F3#32 ∧ un32 ⟨1, false⟩ Fp.rsqrt 0x40000000#32 = 0x3F3504F3#32 ∧
  un32 ⟨2, false⟩ Fp.rsqrt 0x40000000#32 = 0x3F3504F4#32 ∧
  Fmt.fp32.round ⟨0, true⟩ false (2 ^ 25 - 1) (-151) = 0x00800000 ∧ Fmt.fp32.round ⟨1, true⟩ false (2 ^ 25 - 1) (-151) = 0 ∧
  Fmt.fp32.round ⟨0, true⟩ false (2 ^ 24 - 1) (-150) = 0 ∧
  packTwo Fmt.e4 ⟨0, false⟩ 8 0x43960000#32 0x43FA0000#32 = 0x00007E79#32 ∧
  packTwo Fmt.e5 ⟨0, false⟩ 8 0x43960000#32 0x43FA0000#32 = 0x0000605D#32 ∧
  fpConvert Fmt.fp16 Fmt.fp32 ⟨0, false⟩ 1 = 0x33800000 ∧ fpConvert Fmt.fp16 Fmt.fp32 ⟨0, true⟩ 1 = 0 ∧
  (Fp.read Fmt.fp32 false 0xBF400000).toInt 0 4294967295 = 0)

/-- R105, R110: FEX2, FLG2, FSIN and FCOS have their exact and special cases whatever the unpublished function is; a NaN gives the canonical
NaN; and under the flush code none has a subnormal result. -/
def Obligations.SpecialFunctionCases : Prop :=
  (int32 1 = 0x3F800000#32 ∧ int32 (-3) = 0xC0400000#32 ∧ int32 127 = 0x42FE0000#32 ∧ int32 (-149) = 0xC3150000#32) ∧
  (∀ n : Int, -149 ≤ n → n ≤ 127 → fex2 false (int32 n) = pow32 n ∧ (-126 ≤ n → fex2 true (int32 n) = pow32 n) ∧
    (n < -126 → fex2 true (int32 n) = 0#32)) ∧
  (∀ n : Int, -149 ≤ n → n ≤ 127 → flg2 false (pow32 n) = int32 n ∧ (-126 ≤ n → flg2 true (pow32 n) = int32 n)) ∧
  (∀ (f : Bool) (a : Word),
    (0x43000000#32 ≤ a → a ≤ 0x7F800000#32 → fex2 f a = 0x7F800000#32) ∧ (0xC3160000#32 < a → a ≤ 0xFF800000#32 → fex2 f a = 0#32) ∧
    (0x80800000#32 ≤ a → a ≤ 0xFF800000#32 → flg2 f a = 0x7FC00000#32) ∧
    (0x80000000#32 < a → a < 0x80800000#32 → flg2 f a = if f then 0xFF800000#32 else 0x7FC00000#32) ∧
    (0x47000000#32 < a &&& 0x7FFFFFFF#32 → a &&& 0x7FFFFFFF#32 < 0x7F800000#32 →
      fsin f a &&& 0x7FFFFFFF#32 ≤ 0x3F800000#32 ∧ fcos f a &&& 0x7FFFFFFF#32 ≤ 0x3F800000#32) ∧
    (0x7F800000#32 < a &&& 0x7FFFFFFF#32 →
      fex2 f a = 0x7FC00000#32 ∧ flg2 f a = 0x7FC00000#32 ∧ fsin f a = 0x7FC00000#32 ∧ fcos f a = 0x7FC00000#32) ∧
    (∀ g, g ∈ [fex2 true, flg2 true, fsin true, fcos true] → (g a).extractLsb' 23 8 = 0#8 → (g a).extractLsb' 0 23 = 0#23)) ∧
  (∀ f, flg2 f 0x7F800000#32 = 0x7F800000#32 ∧ flg2 f 0#32 = 0xFF800000#32 ∧ flg2 f 0x80000000#32 = 0xFF800000#32 ∧
    fsin f 0#32 = 0#32 ∧ fsin f 0x80000000#32 = 0x80000000#32 ∧ fsin f 0x7F800000#32 = 0x7FC00000#32 ∧ fsin f 0xFF800000#32 = 0x7FC00000#32 ∧
    fcos f 0#32 = 0x3F800000#32 ∧ fcos f 0x80000000#32 = 0x3F800000#32 ∧ fcos f 0x7F800000#32 = 0x7FC00000#32 ∧
    fcos f 0xFF800000#32 = 0x7FC00000#32)

/-- R105-R110: the FP32 words. Each computes its exact result and rounds once under the FMODE captured at issue (R83); FABS and FNEG act on the
sign bit alone.

R111, R112: the FP64 words on even pairs, and the FP16-pair words, whose elements are computed independently. -/
def Obligations.FloatWords : Prop :=
  (∀ (s : State) (V : View) (d a b : BitVec 7) (u m : BitVec 6),
    let A := V.lane a.toNat
    let B := V.lane b.toNat
    let D := V.lane d.toNat
    let U := V.uni u.toNat
    let M := V.fm
    let z := 0#7
    RowWord s V (.fadd d a b) (0x080#11 ++ d ++ a ++ b) d (fun l => fp32 M fpAdd (A l) (B l)) ∧
    RowWord s V (.faddB d a u) (0x094#11 ++ d ++ a ++ 0#1 ++ u) d (fun l => fp32 M fpAdd (A l) U) ∧
    RowWord s V (.fsub d a b) (0x081#11 ++ d ++ a ++ b) d (fun l => fp32 M fpSub (A l) (B l)) ∧
    RowWord s V (.fmul d a b) (0x082#11 ++ d ++ a ++ b) d (fun l => fp32 M fpMul (A l) (B l)) ∧
    RowWord s V (.fmulB d a u) (0x095#11 ++ d ++ a ++ 0#1 ++ u) d (fun l => fp32 M fpMul (A l) U) ∧
    RowWord s V (.ffma d a b) (0x083#11 ++ d ++ a ++ b) d (fun l => fma32 M (A l) (B l) (D l)) ∧
    RowWord s V (.ffmaB d a u) (0x096#11 ++ d ++ a ++ 0#1 ++ u) d (fun l => fma32 M (A l) U (D l)) ∧
    RowWord s V (.fmin d a b) (0x084#11 ++ d ++ a ++ b) d (fun l => fp32 M (fun F md => fpMinMax F md false) (A l) (B l)) ∧
    RowWord s V (.fmax d a b) (0x085#11 ++ d ++ a ++ b) d (fun l => fp32 M (fun F md => fpMinMax F md true) (A l) (B l)) ∧
    RowWord s V (.fdiv d a b) (0x08F#11 ++ d ++ a ++ b) d (fun l => fp32 M fpDiv (A l) (B l)) ∧
    RowWord s V (.fabs d a) (0x086#11 ++ d ++ a ++ z) d (fun l => (0#1 ++ (A l).extractLsb' 0 31 : BitVec 32)) ∧
    RowWord s V (.fneg d a) (0x087#11 ++ d ++ a ++ z) d (fun l => (~~~(A l).extractLsb' 31 1 ++ (A l).extractLsb' 0 31 : BitVec 32)) ∧
    MaskWord s V (.fcmpEq m a b) (0x088#11 ++ 0#1 ++ m ++ a ++ b) m
      (fun l => (Fp.read Fmt.fp32 M.flush (A l).toNat).compare (Fp.read Fmt.fp32 M.flush (B l).toNat) = some 0) ∧
    MaskWord s V (.fcmpLt m a b) (0x089#11 ++ 0#1 ++ m ++ a ++ b) m
      (fun l => ∃ c, (Fp.read Fmt.fp32 M.flush (A l).toNat).compare (Fp.read Fmt.fp32 M.flush (B l).toNat) = some c ∧ c < 0) ∧
    MaskWord s V (.fcmpLe m a b) (0x08A#11 ++ 0#1 ++ m ++ a ++ b) m
      (fun l => ∃ c, (Fp.read Fmt.fp32 M.flush (A l).toNat).compare (Fp.read Fmt.fp32 M.flush (B l).toNat) = some c ∧ c ≤ 0) ∧
    MaskWord s V (.fcmpUn m a b) (0x08B#11 ++ 0#1 ++ m ++ a ++ b) m
      (fun l => (Fp.read Fmt.fp32 M.flush (A l).toNat).compare (Fp.read Fmt.fp32 M.flush (B l).toNat) = none) ∧
    RowWord s V (.frcp d a) (0x08C#11 ++ d ++ a ++ z) d (fun l => un32 M Fp.recip (A l)) ∧
    RowWord s V (.frsq d a) (0x08D#11 ++ d ++ a ++ z) d (fun l => un32 M Fp.rsqrt (A l)) ∧
    RowWord s V (.fsqrt d a) (0x08E#11 ++ d ++ a ++ z) d (fun l => un32 M Fp.sqrt (A l)) ∧
    RowWord s V (.fex2 d a) (0x090#11 ++ d ++ a ++ z) d (fun l => fex2 M.flush (A l)) ∧
    RowWord s V (.flg2 d a) (0x091#11 ++ d ++ a ++ z) d (fun l => flg2 M.flush (A l)) ∧
    RowWord s V (.fsin d a) (0x092#11 ++ d ++ a ++ z) d (fun l => fsin M.flush (A l)) ∧
    RowWord s V (.fcos d a) (0x093#11 ++ d ++ a ++ z) d (fun l => fcos M.flush (A l))) ∧
  (∀ (s : State) (V : View) (d a b : BitVec 7) (m : BitVec 6),
    let A := V.lane64 a.toNat
    let B := V.lane64 b.toNat
    let D := V.lane64 d.toNat
    let lo (k : BitVec 7) (l : Nat) : Nat := (V.lane k.toNat l).toNat % 2 ^ 16
    let hi (k : BitVec 7) (l : Nat) : Nat := (V.lane k.toNat l).toNat / 2 ^ 16
    let M := V.fm
    let z := 0#7
    let cmp (l : Nat) := (Fp.read Fmt.fp64 M.flush (A l).toNat).compare (Fp.read Fmt.fp64 M.flush (B l).toNat)
    PairWord s V (.dadd d a b) (0x097#11 ++ d ++ a ++ b) d (fun l => fp64 M fpAdd (A l) (B l)) ∧
    PairWord s V (.dsub d a b) (0x098#11 ++ d ++ a ++ b) d (fun l => fp64 M fpSub (A l) (B l)) ∧
    PairWord s V (.dmul d a b) (0x099#11 ++ d ++ a ++ b) d (fun l => fp64 M fpMul (A l) (B l)) ∧
    PairWord s V (.dfma d a b) (0x09A#11 ++ d ++ a ++ b) d (fun l => fma64 M (A l) (B l) (D l)) ∧
    PairWord s V (.ddiv d a b) (0x09B#11 ++ d ++ a ++ b) d (fun l => fp64 M fpDiv (A l) (B l)) ∧
    PairWord s V (.dsqrt d a) (0x09C#11 ++ d ++ a ++ z) d (fun l => un64 M Fp.sqrt (A l)) ∧
    MaskWord s V (.dcmpEq m a b) (0x09D#11 ++ 0#1 ++ m ++ a ++ b) m (fun l => cmp l = some 0) ∧
    MaskWord s V (.dcmpLt m a b) (0x09E#11 ++ 0#1 ++ m ++ a ++ b) m (fun l => ∃ c, cmp l = some c ∧ c < 0) ∧
    MaskWord s V (.dcmpLe m a b) (0x09F#11 ++ 0#1 ++ m ++ a ++ b) m (fun l => ∃ c, cmp l = some c ∧ c ≤ 0) ∧
    RowWord s V (.faddF16x2 d a b) (0x0A0#11 ++ d ++ a ++ b) d
      (fun l => BitVec.ofNat 32 (fpAdd Fmt.fp16 M (lo a l) (lo b l) + 2 ^ 16 * fpAdd Fmt.fp16 M (hi a l) (hi b l))) ∧
    RowWord s V (.fmulF16x2 d a b) (0x0A1#11 ++ d ++ a ++ b) d
      (fun l => BitVec.ofNat 32 (fpMul Fmt.fp16 M (lo a l) (lo b l) + 2 ^ 16 * fpMul Fmt.fp16 M (hi a l) (hi b l))) ∧
    RowWord s V (.ffmaF16x2 d a b) (0x0A2#11 ++ d ++ a ++ b) d
      (fun l => BitVec.ofNat 32 (fpFma Fmt.fp16 M (lo a l) (lo b l) (lo d l) + 2 ^ 16 * fpFma Fmt.fp16 M (hi a l) (hi b l) (hi d l))))

/-- R113: the conversions. -/
def Obligations.Conversions : Prop :=
  ∀ (s : State) (V : View) (d a b : BitVec 7) (h : BitVec 1) (n : BitVec 2),
    let A := V.lane a.toNat
    let B := V.lane b.toNat
    let P := V.lane64 a.toNat
    let M := V.fm
    let z := 0#7
    let rnd (F G : Fmt) (x : Nat) : Nat := (Fp.read F M.flush x).write G M
    RowWord s V (.cvtF32S32 d a) (0x0A3#11 ++ d ++ a ++ z) d (fun l => BitVec.ofNat 32 ((Fp.ofInt (A l).toInt).write Fmt.fp32 M)) ∧
    RowWord s V (.cvtF32Z32 d a) (0x0A4#11 ++ d ++ a ++ z) d (fun l => BitVec.ofNat 32 ((Fp.ofInt (A l).toNat).write Fmt.fp32 M)) ∧
    RowWord s V (.cvtS32F32 d a) (0x0A5#11 ++ d ++ a ++ z) d
      (fun l => BitVec.ofInt 32 ((Fp.read Fmt.fp32 M.flush (A l).toNat).toInt (-2 ^ 31) (2 ^ 31 - 1))) ∧
    RowWord s V (.cvtZ32F32 d a) (0x0A6#11 ++ d ++ a ++ z) d
      (fun l => BitVec.ofInt 32 ((Fp.read Fmt.fp32 M.flush (A l).toNat).toInt 0 (2 ^ 32 - 1))) ∧
    PairWord s V (.cvtF64F32 d a) (0x0A7#11 ++ d ++ a ++ z) d (fun l => BitVec.ofNat 64 (rnd Fmt.fp32 Fmt.fp64 (A l).toNat)) ∧
    RowWord s V (.cvtF32F64 d a) (0x0A8#11 ++ d ++ a ++ z) d (fun l => BitVec.ofNat 32 (rnd Fmt.fp64 Fmt.fp32 (P l).toNat)) ∧
    PairWord s V (.cvtF64S32 d a) (0x0A9#11 ++ d ++ a ++ z) d (fun l => BitVec.ofNat 64 ((Fp.ofInt (A l).toInt).write Fmt.fp64 M)) ∧
    RowWord s V (.cvtS32F64 d a) (0x0AA#11 ++ d ++ a ++ z) d
      (fun l => BitVec.ofInt 32 ((Fp.read Fmt.fp64 M.flush (P l).toNat).toInt (-2 ^ 31) (2 ^ 31 - 1))) ∧
    RowWord s V (.cvtF16x2F32 d a b) (0x0AB#11 ++ d ++ a ++ b) d
      (fun l => BitVec.ofNat 32 (rnd Fmt.fp32 Fmt.fp16 (A l).toNat + 2 ^ 16 * rnd Fmt.fp32 Fmt.fp16 (B l).toNat)) ∧
    RowWord s V (.cvtF32F16 d a h) (0x0AC#11 ++ d ++ a ++ 0#6 ++ h) d
      (fun l => BitVec.ofNat 32 (rnd Fmt.fp16 Fmt.fp32 ((A l).toNat / 2 ^ (16 * h.toNat) % 2 ^ 16))) ∧
    RowWord s V (.cvtBf16x2F32 d a b) (0x0AD#11 ++ d ++ a ++ b) d
      (fun l => BitVec.ofNat 32 (rnd Fmt.fp32 Fmt.bf16 (A l).toNat + 2 ^ 16 * rnd Fmt.fp32 Fmt.bf16 (B l).toNat)) ∧
    RowWord s V (.cvtF32Bf16 d a h) (0x0AE#11 ++ d ++ a ++ 0#6 ++ h) d
      (fun l => BitVec.ofNat 32 (rnd Fmt.bf16 Fmt.fp32 ((A l).toNat / 2 ^ (16 * h.toNat) % 2 ^ 16))) ∧
    RowWord s V (.cvtE4x2F32 d a b) (0x0AF#11 ++ d ++ a ++ b) d
      (fun l => BitVec.ofNat 32 (rnd Fmt.fp32 Fmt.e4 (A l).toNat + 2 ^ 8 * rnd Fmt.fp32 Fmt.e4 (B l).toNat)) ∧
    RowWord s V (.cvtE5x2F32 d a b) (0x0B0#11 ++ d ++ a ++ b) d
      (fun l => BitVec.ofNat 32 (rnd Fmt.fp32 Fmt.e5 (A l).toNat + 2 ^ 8 * rnd Fmt.fp32 Fmt.e5 (B l).toNat)) ∧
    RowWord s V (.cvtF32E4 d a n) (0x0B1#11 ++ d ++ a ++ 0#5 ++ n) d
      (fun l => BitVec.ofNat 32 (rnd Fmt.e4 Fmt.fp32 ((A l).toNat / 2 ^ (8 * n.toNat) % 2 ^ 8))) ∧
    RowWord s V (.cvtF32E5 d a n) (0x0B2#11 ++ d ++ a ++ 0#5 ++ n) d
      (fun l => BitVec.ofNat 32 (rnd Fmt.e5 Fmt.fp32 ((A l).toNat / 2 ^ (8 * n.toNat) % 2 ^ 8)))

/-! ### Registers (R79-R88) -/

/-- R84, R85, R88: the moves and the constants.

R79, R86: the words of the index register. -/
def Obligations.MovesAndIndexRegister : Prop :=
  (∀ (s : State) (V : View) (d a : BitVec 7) (e u : BitVec 6) (i : BitVec 14) (j : BitVec 15) (n : BitVec 5),
    let z7 := 0#7
    let z9 := 0#9
    RowWord s V (.mov d a) (0x100#11 ++ d ++ a ++ z7) d (V.lane a.toNat) ∧
    PairWord s V (.movD d a) (0x101#11 ++ d ++ a ++ z7) d (V.lane64 a.toNat) ∧
    RowWord s V (.movi d i) (0x102#11 ++ d ++ i) d (fun _ => i.signExtend 32) ∧
    RowWord s V (.movh d i) (0x103#11 ++ d ++ i) d (fun l => BitVec.ofNat 32 ((V.lane d.toNat l).toNat * 2 ^ 14 + i.toNat)) ∧
    RowWord s V (.movB d u) (0x104#11 ++ d ++ 0#1 ++ u ++ z7) d (fun _ => V.uni u.toNat) ∧
    UniWord s V (.smov e u) (0x480#11 ++ e ++ u ++ z9) e (V.uni u.toNat) ∧
    UniWord s V (.smovi e j) (0x481#11 ++ e ++ j) e (j.signExtend 32) ∧
    UniWord s V (.smovh e j) (0x482#11 ++ e ++ j) e (BitVec.ofNat 32 ((V.uni e.toNat).toNat * 2 ^ 15 + j.toNat)) ∧
    UniWord s V (.sgetl e n a) (0x485#11 ++ e ++ 0#3 ++ n ++ a) e (V.lane a.toNat n.toNat)) ∧
  (∀ (s : State) (V : View) (d a i : BitVec 7) (n : BitVec 8),
    (Ready s (infoOf (.setx a)) true V → SetsIndex (.setx a) s V fun l => BitVec.ofNat 8 ((V.lane a.toNat l).toNat % 256)) ∧
    (Ready s (infoOf (.setxi n)) true V → SetsIndex (.setxi n) s V fun _ => n) ∧
    (Ready s (infoOf (.movxG d i)) true V → IndexFree V i → Computes (.movxG d i) s V ⟨[(d.toNat, fun l => V.lane (V.indexed_ i l) l)], []⟩) ∧
    (Ready s (infoOf (.movxP a i)) true V → IndexFree V i →
      ∃ t w, exec (.movxP a i) s = .next t ∧ WarpOnly V s (infoOf (.movxP a i)) t ∧ SameWarp V (infoOf (.movxP a i)) V.w V.onward t w ∧
        (∀ l, l < 32 → V.em.getLsbD l = true → V.rfIn t (V.lidx (V.indexed_ i l) l) = V.lane a.toNat l) ∧
        ∀ j, (∀ l, l < 32 → V.em.getLsbD l = true → V.lidx (V.indexed_ i l) l ≠ j) → V.rfIn t j = Sparse.get 0#32 V.q.rf j) ∧
    (∀ k, k = Instr.movxG d i ∨ k = Instr.movxP a i → Ready s (infoOf k) true V →
      (∃ l, l < 32 ∧ V.em.getLsbD l = true ∧ (((V.vx l).toNat : Int) + i.toInt < 0 ∨ (V.w.allot : Int) ≤ ((V.vx l).toNat : Int) + i.toInt)) →
      ∃ m : Word, (∀ l, l < 32 → (m.getLsbD l = true ↔ V.em.getLsbD l = true ∧
          (((V.vx l).toNat : Int) + i.toInt < 0 ∨ (V.w.allot : Int) ≤ ((V.vx l).toNat : Int) + i.toInt))) ∧
        exec k s = .next (V.fault 0x00A 0#64 m)))

/-- R82, R87: RDS and SRDS read the system registers; CORE reads the logical core number on a logical core, and SLOT the entry that governs.

R87: what SWRS does to each register that it may write, and its refusals. -/
def Obligations.SystemRegisters : Prop :=
  (∀ (s : State) (V : View) (n : Nat) (x : Nat → Dword),
    ((n < 0x12 ∧ ∀ l, (n, x l) ∈ systemRegisters V l) ∨
      (n = 0x005 ∧ V.w.mgmt = false ∧ ∀ l, x l = BitVec.ofNat 64 V.cn) ∨
      (n = 0x00F ∧ ∃ e, s.entryAt s.time = some e ∧ ∀ l, x l = BitVec.ofNat 64 e.1)) →
    (∀ d : BitVec 7, Ready s (infoOf (.rds d (BitVec.ofNat 14 n))) true V →
      (¬ wideSystemRegister n → Computes (.rds d (BitVec.ofNat 14 n)) s V ⟨[(d.toNat, fun l => (x l).extractLsb' 0 32)], []⟩) ∧
      (wideSystemRegister n → Computes (.rds d (BitVec.ofNat 14 n)) s V (pairRows d.toNat x))) ∧
    (∀ d : BitVec 6, Ready s (infoOf (.srds d (BitVec.ofNat 15 n))) true V → ¬ laneSystemRegister n →
      (¬ wideSystemRegister n → Computes (.srds d (BitVec.ofNat 15 n)) s V ⟨[], [(d.toNat, (x 0).extractLsb' 0 32)]⟩) ∧
      (wideSystemRegister n → Computes (.srds d (BitVec.ofNat 15 n)) s V (pairUnis d.toNat (x 0))))) ∧
  (∀ (s : State) (V : View) (d : BitVec 6),
    let sw (n : Nat) : Instr := .swrs d (BitVec.ofNat 15 n)
    let x := V.uni d.toNat
    let y := V.uni64 d.toNat
    let nothing : Writes := ⟨[], []⟩
    let T := V.w.trap
    (Ready s (infoOf (sw 0x008)) true V →
      (x.toNat < 8 → Does (sw 0x008) s V { V.w with fmode := x.extractLsb' 0 3 } V.onward nothing) ∧
      (8 ≤ x.toNat → exec (sw 0x008) s = .next (V.issueFault 0x002))) ∧
    (Ready s (infoOf (sw 0x007)) true V →
      (x ≠ 0#32 → x &&& ~~~V.em = 0#32 → Does (sw 0x007) s V V.w { V.onward with rest := V.p.rest ||| (V.em &&& ~~~x) } nothing) ∧
      (x = 0#32 ∨ x &&& ~~~V.em ≠ 0#32 → exec (sw 0x007) s = .next (V.issueFault 0x002))) ∧
    (Ready s (infoOf (sw 0x009)) true V →
      Does (sw 0x009) s V { V.w with trap := { T with cause := x.extractLsb' 0 9 } } V.onward nothing) ∧
    (Ready s (infoOf (sw 0x00A)) true V → Does (sw 0x00A) s V { V.w with trap := { T with epc := y } } V.onward nothing) ∧
    (Ready s (infoOf (sw 0x00B)) true V → Does (sw 0x00B) s V { V.w with trap := { T with eva := y } } V.onward nothing) ∧
    (Ready s (infoOf (sw 0x00C)) true V → Does (sw 0x00C) s V { V.w with trap := { T with fmask := x } } V.onward nothing) ∧
    (s.view = some V → V.breakHit = none → V.super = false → ∀ n, n ∈ [0x007, 0x009, 0x00A, 0x00B, 0x00C] →
      exec (sw n) s = .next (V.issueFault 0x003)) ∧
    (s.view = some V → V.breakHit = none → ∀ n, n < 2 ^ 15 → n < 7 ∨ 0x00C < n → exec (sw n) s = .next (V.issueFault 0x002)))

/-- R158, R166, R167: a pick copies the stored value of a source lane; a vote reads every lane of EM. -/
def Obligations.PicksAndVotes : Prop :=
  ∀ (s : State) (V : View) (d a b : BitVec 7) (u : BitVec 6) (n : BitVec 5),
    let A := V.lane a.toNat
    let B := V.lane b.toNat
    let z := 0#7
    let seatAt (seat l : Nat) : Nat := match V.w.remap.find? fun e => e.2.2 == seat with
      | some e => e.1
      | none => l
    let holds (l : Nat) : Prop := V.em.getLsbD l = true ∧ A l ≠ 0#32
    RowWord s V (.pickLane d a b) (0x145#11 ++ d ++ a ++ b) d (fun l => A ((B l).toNat % 32)) ∧
    RowWord s V (.pickFlip d a n) (0x146#11 ++ d ++ a ++ 0#2 ++ n) d (fun l => A (l ^^^ n.toNat)) ∧
    RowWord s V (.pickLo d a n) (0x147#11 ++ d ++ a ++ 0#2 ++ n) d (fun l => A (if n.toNat ≤ l then l - n.toNat else l)) ∧
    RowWord s V (.pickHi d a n) (0x148#11 ++ d ++ a ++ 0#2 ++ n) d (fun l => A (if l + n.toNat ≤ 31 then l + n.toNat else l)) ∧
    RowWord s V (.pickSeat d a b) (0x149#11 ++ d ++ a ++ b) d (fun l => A (seatAt ((B l).toNat % 1024) l)) ∧
    MaskWord s V (.voteBal u a) (0x14C#11 ++ 0#1 ++ u ++ a ++ z) u (fun l => A l ≠ 0#32) ∧
    (encode (.voteAny u a) = some (0x14A#11 ++ 0#1 ++ u ++ a ++ z) ∧ (Ready s (infoOf (.voteAny u a)) true V →
      ((∃ l, l < 32 ∧ holds l) → Computes (.voteAny u a) s V ⟨[], [(u.toNat, 1#32)]⟩) ∧
      ((¬ ∃ l, l < 32 ∧ holds l) → Computes (.voteAny u a) s V ⟨[], [(u.toNat, 0#32)]⟩))) ∧
    (encode (.voteAll u a) = some (0x14B#11 ++ 0#1 ++ u ++ a ++ z) ∧ (Ready s (infoOf (.voteAll u a)) true V →
      ((∀ l, l < 32 → V.em.getLsbD l = true → holds l) → Computes (.voteAll u a) s V ⟨[], [(u.toNat, 1#32)]⟩) ∧
      ((¬ ∀ l, l < 32 → V.em.getLsbD l = true → holds l) → Computes (.voteAll u a) s V ⟨[], [(u.toNat, 0#32)]⟩)))

/-! ### Program counters (R141-R165) -/

/-- R161: the uniform transfers move the whole slot by four times the signed word offset from their own address, or fall through.

R144, R148, R162: BRV keeps the lanes that fall through in its slot; the taken lanes go to the other slot where that is empty, and to the
divergence stack where it is not. -/
def Obligations.TransfersTaken : Prop :=
  (∀ (s : State) (V : View) (a : BitVec 6) (o : BitVec 15) (q : BitVec 21),
    let A := V.uni a.toNat
    let near : Pc := V.p.pc + 4#48 * o.signExtend 48
    let far : Pc := V.p.pc + 4#48 * q.signExtend 48
    let goes (i : Instr) (w : Word) (taken : Prop) (tgt : Pc) : Prop :=
      encode i = some w ∧ (Ready s (infoOf i) true V →
        (taken → Does i s V V.windowsEnded (V.movedTo tgt true) ⟨[], []⟩) ∧ (¬ taken → Does i s V V.w (V.movedTo V.fallThrough false) ⟨[], []⟩))
    goes (.bra q) (0x4C0#11 ++ q) True far ∧
    goes (.bz a o) (0x4C1#11 ++ a ++ o) (A = 0#32) near ∧
    goes (.bnz a o) (0x4C2#11 ++ a ++ o) (A ≠ 0#32) near ∧
    goes (.bneg a o) (0x4C3#11 ++ a ++ o) (A.toInt < 0) near) ∧
  (∀ (s : State) (V : View) (m : BitVec 6) (o : BitVec 15),
    let i := Instr.brv m o
    let tgt : Pc := V.p.pc + 4#48 * o.signExtend 48
    let taken := V.em &&& V.uni m.toNat
    let rest := V.em &&& ~~~V.uni m.toNat
    let entry : StackEntry := { pc := tgt, depth := V.p.depth, parked := false, mask := taken }
    let d := V.w.div
    Ready s (infoOf i) true V →
      (taken = 0#32 → Does i s V V.w (V.movedTo V.fallThrough false) ⟨[], []⟩) ∧
      (taken ≠ 0#32 → rest = 0#32 ∨ tgt = V.fallThrough → Does i s V V.windowsEnded (V.movedTo tgt true) ⟨[], []⟩) ∧
      (taken ≠ 0#32 → tgt ≠ V.fallThrough → rest ≠ 0#32 → d.slot (other V.kn) = none → d.n ≤ s.ringK V.w.launch →
        Does i s V { V.bothEnded with div := d.setSlot (other V.kn) (some { freshPath tgt taken V.p.depth false with after := V.afterMove true }) }
          (V.movedGroup rest V.fallThrough V.p.depth false) ⟨[], []⟩) ∧
      (taken ≠ 0#32 → tgt ≠ V.fallThrough → rest ≠ 0#32 → d.slot (other V.kn) ≠ none → d.n < s.ringK V.w.launch → d.n = 0 ∨ d.top = none →
        Does i s V { V.windowsEnded with div := { d with n := d.n + 1, top := some entry } } (V.movedGroup rest V.fallThrough V.p.depth false) ⟨[], []⟩) ∧
      (taken ≠ 0#32 → tgt ≠ V.fallThrough → rest ≠ 0#32 → d.slot (other V.kn) ≠ none → d.n < s.ringK V.w.launch → d.n ≠ 0 →
        ∀ e pa, d.top = some e →
          s.regionAll V.cn V.w.mgmt V.w.ctx V.w.launch true [s.ringVa V.cn V.qn V.wn V.w (d.b + d.n - 1)] = .ok [pa] →
          Transfers i s V { V.windowsEnded with div := { d with n := d.n + 1, top := some entry } } (V.movedGroup rest V.fallThrough V.p.depth false)
            [(pa, e.bytes)]) ∧
      (taken ≠ 0#32 → tgt ≠ V.fallThrough → rest ≠ 0#32 → d.slot (other V.kn) ≠ none → s.ringK V.w.launch ≤ d.n →
        exec i s = .next (V.fault 0x0C5 0#64 V.em)))

/-- R149, R154, R157, R162: a BRC whose slot is at depth 0, whose warp has no other path, and whose lanes are all of one crew that has no
compaction in effect and no member at a BRC of another address, waits for the crew at the end of its run, with its target and taken lanes; any
other raises 0x0C7. RCV parks its path there; under a compaction of its crew, with a member parked at another point, it raises 0x0C7.

A BRC with no lane names no crew: 0x0C7 (the model's choice: notes/assumptions/17.md). -/
def Obligations.BranchesThatWait : Prop :=
  (∀ (s : State) (V : View) (m : BitVec 6) (o : BitVec 15),
    let taken := V.em &&& V.uni m.toNat
    let ended : Warp := if taken = 0#32 then V.w else V.windowsEnded
    let may : Prop := V.p.depth = 0 ∧ V.w.div.slot (other V.kn) = none ∧ V.w.div.n = 0 ∧ ∃ n k,
      (∀ l, l < 32 → V.em.getLsbD l = true → V.w.crewOf l = some n) ∧ V.c.crews.find n = some k ∧ k.compacted = false ∧
      ¬ OtherPath V n k V.otherBrc
    let clash : Prop := ∃ l n k, l < 32 ∧ V.em.getLsbD l = true ∧ V.w.crewOf l = some n ∧ V.c.crews.find n = some k ∧ k.compacted = true ∧
      OtherPath V n k V.otherPark
    (Ready s (infoOf (.brc m o)) true V → V.em ≠ 0#32 →
      (may → Does (.brc m o) s V ended { V.onward with ends := .brc V.p.pc (V.p.pc + 4#48 * o.signExtend 48) taken } ⟨[], []⟩) ∧
      (¬ may → exec (.brc m o) s = .next (V.fault 0x0C7 0#64 V.em))) ∧
    (Ready s (infoOf .rcv) true V →
      (¬ clash → Does .rcv s V V.windowsEnded { V.onward with ends := .park, after := V.afterMove true } ⟨[], []⟩) ∧
      (clash → exec .rcv s = .next (V.fault 0x0C7 0#64 V.em)))) ∧
  (∀ (s : State) (V : View) (m : BitVec 6) (o : BitVec 15), Ready s (infoOf (.brc m o)) true V → V.em = 0#32 →
    exec (.brc m o) s = .next (V.fault 0x0C7 0#64 0#32))

/-- R145, R163: JMPI takes each lane to its own target.

R163, R168: a target that fails in any lane stops JMPI, CALLI and CALLS for every lane; FMASK names every lane that fails, EVA is the lowest
one's target, and the cause is the first that any of them has in the order of R163.

R145: the groups of an indirect transfer stand in ascending order of address, each lane in the one group of its own address. -/
def Obligations.IndirectJumps : Prop :=
  (∀ (s : State) (V : View) (a : BitVec 7),
    let i := Instr.jmpi a
    let tgt (l : Nat) : Dword := V.lane64 a.toNat l
    Ready s (infoOf i) true V →
      (V.em = 0#32 → Does i s V V.w (V.movedTo V.fallThrough false) ⟨[], []⟩) ∧
      ((∀ l, l < 32 → V.em.getLsbD l = true → V.lands (tgt l)) →
        GroupsGo i s V V.w V.p.depth (groupLanes (fun l => (tgt l).extractLsb' 0 48) V.em) [])) ∧
  (∀ (s : State) (V : View) (a : BitVec 7) (u : BitVec 6),
    ∀ c ∈ ([(.jmpi a, V.lane64 a.toNat), (.calli a, V.lane64 a.toNat), (.calls u, fun _ => V.uni64 u.toNat)] : List (Instr × (Nat → Dword))),
    Ready s (infoOf c.1) true V → (∃ l e, l < 32 ∧ V.em.getLsbD l = true ∧ V.landsNot (c.2 l) e) →
    ∃ (m : Word) (cause l0 : Nat),
      (∀ l, l < 32 → (m.getLsbD l = true ↔ V.em.getLsbD l = true ∧ ∃ e, V.landsNot (c.2 l) e)) ∧
      l0 < 32 ∧ m.getLsbD l0 = true ∧ (∀ l, l < l0 → m.getLsbD l = false) ∧
      (∃ l, l < 32 ∧ m.getLsbD l = true ∧ V.landsNot (c.2 l) cause) ∧
      (∀ l e, l < 32 → V.em.getLsbD l = true → V.landsNot (c.2 l) e → landRank cause ≤ landRank e) ∧
      exec c.1 s = .next (V.fault cause (c.2 l0) m)) ∧
  (∀ (tgt : Nat → Pc) (m : Word),
    (groupLanes tgt m).Pairwise (fun x y => x.2.toNat < y.2.toNat) ∧
    (∀ l, l < 32 → m.getLsbD l = true → ∃ g ∈ groupLanes tgt m, g.2 = tgt l ∧ g.1.getLsbD l = true) ∧
    ∀ g ∈ groupLanes tgt m, ∀ l, l < 32 → g.1.getLsbD l = true → m.getLsbD l = true ∧ tgt l = g.2)

/-- R152: a call writes each lane's return address, the word after the run, into its frame at the new depth, and transfers; at the launch's
call levels it raises 0x0C6.

R152, R164, R308: a return takes each lane to the address in its frame at the current depth; at depth 0 it raises 0x00D; one below the depth of
the warp's flash point sets a full point. (Bits [1:0] of the address do not count: notes/assumptions/52.md.) -/
def Obligations.CallsAndReturns : Prop :=
  (∀ (s : State) (V : View) (a : BitVec 7) (u : BitVec 6) (o : BitVec 21),
    ∀ c ∈ ([
      (.call o, (fun _ => V.p.pc + 4#48 * o.signExtend 48), True),
      (.calli a, (fun l => (V.lane64 a.toNat l).extractLsb' 0 48), ∀ l, l < 32 → V.em.getLsbD l = true → V.lands (V.lane64 a.toNat l)),
      (.calls u, (fun _ => (V.uni64 u.toNat).extractLsb' 0 48), V.lands (V.uni64 u.toNat))] : List (Instr × (Nat → Pc) × Prop)),
    Ready s (infoOf c.1) true V → c.2.2 →
      (V.em = 0#32 → Does c.1 s V V.w (V.movedTo V.fallThrough false) ⟨[], []⟩) ∧
      (V.em ≠ 0#32 → s.callD V.w.launch ≤ V.p.depth → exec c.1 s = .next (V.fault 0x0C6 0#64 V.em)) ∧
      (∀ pas, V.em ≠ 0#32 → V.p.depth < s.callD V.w.launch →
        s.regionAll V.cn V.w.mgmt V.w.ctx V.w.launch true ((lanesOf V.em).map (s.frameVa V.cn V.qn V.wn V.w (V.p.depth + 1))) = .ok pas →
        GroupsGo c.1 s V V.w (V.p.depth + 1) (groupLanes c.2.1 V.em) (pas.map fun pa => (pa, toLe (V.fallThrough.signExtend 64).toNat 8)))) ∧
  (∀ (s : State) (V : View), ∀ i ∈ [Instr.ret, Instr.rets], Ready s (infoOf i) true V →
    (V.em = 0#32 → Does i s V V.w (V.movedTo V.fallThrough false) ⟨[], []⟩) ∧
    (V.em ≠ 0#32 → V.p.depth = 0 → exec i s = .next (V.fault 0x00D 0#64 V.em)) ∧
    (∀ (pas : List Nat) (at_ : Nat → Pc), V.em ≠ 0#32 → V.p.depth ≠ 0 →
      s.regionAll V.cn V.w.mgmt V.w.ctx V.w.launch false ((lanesOf V.em).map (s.frameVa V.cn V.qn V.wn V.w V.p.depth)) = .ok pas →
      (lanesOf V.em).map at_ = pas.map (fun pa => BitVec.ofNat 48 (s.memNat pa 8) &&& ~~~3#48) →
      GroupsGo i s V V.returned (V.p.depth - 1) (groupLanes at_ V.em) []))

/-- R165: LAND and NOP write nothing.

R22, R25, R119: a STOP, FLASH or plain trailer ends the run of a warp with one path: the path stands at the word after it, or where a
transfer has moved it; the run's temporary set is released, and the quadrant selects again. -/
def Obligations.NopAndTrailer : Prop :=
  (∀ (s : State) (V : View), ∀ i ∈ [Instr.land, Instr.nop], Ready s (infoOf i) true V → Computes i s V ⟨[], []⟩) ∧
  (∀ (s : State) (V : View) (st fl : BitVec 1) (a b : BitVec 7),
    let i := Instr.trailer st fl a b
    s.view = some V → V.w.div.slot (other V.kn) = none → V.w.div.n = 0 → V.kn ≤ 1 → V.p.parked = false → V.w.trap.halted = false →
    V.p.ends = .plain ∨ V.p.ends = .moved → fl = 0#1 ∨ s.siteAt V.w.launch V.r.trailerAt (st == 1#1) (fl == 1#1) = none →
    ∃ t w p, exec i s = .next t ∧ t = { s with cores := t.cores, fresh := t.fresh, time := t.time } ∧ (∀ n, n ≠ V.cn → t.core n = s.core n) ∧
      V.warpIn t = some w ∧ w.div.slot V.kn = some p ∧ p.run = none ∧ p.mask = V.p.mask ∧ p.depth = V.p.depth ∧
      p.pc = (if V.p.ends = .moved then V.p.pc else V.fallThrough) ∧ (V.quadIn t).rf = V.q.rf ∧
      (∀ x ∈ (V.quadIn t).temps, ¬ (x.2.1 = V.wn ∧ x.2.2 = V.kn)) ∧ (V.quadIn t).sel ≠ some (V.wn, V.kn) ∧
      w.fmode = V.w.fmode ∧ w.trap = V.w.watchDue.trap ∧ w.sb = V.w.sb ∧ w.rewind = V.w.rewind)

/-! ### Threads and crews (R116-R140) -/

/-- R131: a member's first arrival counts in the current phase, and a repeat arrival in the next; a phase completes exactly when every member has arrived.

R139, R140: BAR, BARA and BARW name only lanes that are members of a crew; any other lane stops the word with 0x00C. BAR by members that have
not arrived makes the path wait at the word with its run unbroken by any other effect.

R139: BARA by one lane whose crew has not seen it arrive writes the phase in which it counts, and counts it. -/
def Obligations.Barriers : Prop :=
  (∀ (c : Core) (n : Nat) (k : Crew) (seat : Nat) (owed : Nat × Word × Nat), c.crews.find n = some k →
    (seat ∉ k.arrived → (c.arrive n seat owed).2 = k.phase ∧
      (c.arrive n seat owed).1.crews.find n = some { k with arrived := k.arrived ++ [seat], owed := k.owed ++ [owed] }) ∧
    (seat ∈ k.arrived → (c.arrive n seat owed).2 = k.phase + 1 ∧
      (c.arrive n seat owed).1.crews.find n = some { k with again := k.again ++ [seat], owed := k.owed ++ [owed] }) ∧
    (k.arrived.length ≠ k.members.length ∨ k.members = [] → c.phaseCheck n = c) ∧
    (k.arrived.length = k.members.length → k.members ≠ [] → k.again = [] →
      ∃ due, (c.phaseCheck n).crews.find n = some { k with phase := k.phase + 1, arrived := [], again := [], due := due, owed := [] })) ∧
  (∀ (s : State) (V : View) (d : BitVec 7), ∀ i ∈ [Instr.bar, Instr.bara d, Instr.barw d], Ready s (infoOf i) true V →
    ((∃ l, l < 32 ∧ V.em.getLsbD l = true ∧ V.w.member l = none) →
      ∃ m : Word, (∀ l, l < 32 → (m.getLsbD l = true ↔ V.em.getLsbD l = true ∧ V.w.member l = none)) ∧ exec i s = .next (V.fault 0x00C 0#64 m)) ∧
    ((∀ l, l < 32 → V.em.getLsbD l = true → V.w.member l ≠ none) →
      (i = .bar → (∃ ms ph, V.p.wait = .barrier ms ph) → Computes i s V ⟨[], []⟩) ∧
      (i = .bar → (∀ ms ph, V.p.wait ≠ .barrier ms ph) → V.em ≠ 0#32 →
        ∃ t, exec i s = .next t ∧ t = { s with cores := t.cores } ∧ (∀ n, n ≠ V.cn → t.core n = s.core n) ∧ (V.quadIn t).rf = V.q.rf ∧
          (t.core V.cn).scratch = V.c.scratch ∧
          ∃ w p, V.warpIn t = some w ∧ w.div.slot V.kn = some p ∧ p.pc = V.p.pc ∧ p.run = V.p.run ∧ ∃ ms ph, p.wait = .barrier ms ph) ∧
      (i = .barw d → (∃ ms ph, V.p.wait = .barrier ms ph) → Computes i s V ⟨[], []⟩) ∧
      (i = .barw d → (∀ ms ph, V.p.wait ≠ .barrier ms ph) →
        (∀ l, l < 32 → V.em.getLsbD l = true → ∃ n k, V.w.crewOf l = some n ∧ V.c.crews.find n = some k ∧
          1 ≤ (k.phase - V.lane d.toNat l).toNat ∧ (k.phase - V.lane d.toNat l).toNat ≤ 2 ^ 31 ∧ k.due = []) → Computes i s V ⟨[], []⟩) ∧
      (i = .bara d → (∀ ms ph f, V.p.wait = .barrier ms ph → (∀ l, l < 32 → V.em.getLsbD l = true → ms.find? (fun x => x.1 == l) = some (l, f l)) →
        Computes i s V ⟨[(d.toNat, f)], []⟩)) ∧
      (i = .bara d → (∀ ms ph, V.p.wait ≠ .barrier ms ph) → V.em = 0#32 →
        ∃ t, exec i s = .next t ∧ (t.core V.cn).crews = V.c.crews ∧ (V.quadIn t).rf = V.q.rf))) ∧
  (∀ (s : State) (V : View) (d : BitVec 7) (l n seat : Nat) (k : Crew),
    Ready s (infoOf (.bara d)) true V → lanesOf V.em = [l] → (∀ ms ph, V.p.wait ≠ .barrier ms ph) → V.w.member l = some (n, seat) →
    V.c.crews.find n = some k → seat ∉ k.arrived → k.arrived.length + 1 ≠ k.members.length →
    ∃ t, exec (.bara d) s = .next t ∧ V.rfIn t (V.lidx d.toNat l) = k.phase ∧
      (∀ j, j ≠ V.lidx d.toNat l → V.rfIn t j = Sparse.get 0#32 V.q.rf j) ∧
      (∃ o, (t.core V.cn).crews.find n = some { k with arrived := k.arrived ++ [seat], owed := o }) ∧
      (t.core V.cn).scratch = V.c.scratch ∧ (∀ m, m ≠ V.cn → t.core m = s.core m) ∧
      t = { s with cores := t.cores, fresh := t.fresh, time := t.time })

/-- R121: a thread is deposited in the bin of its launch, entry and key while that holds fewer than 32, else in a free bin.

R136, R140: SPAWN completes when every entry is a canonical aligned address, the launch's count on the core has room, and every thread finds
a place: its path goes on, the threads are deposited, the count has gone on by one for each, and no register and no other core changes. What stops
it, in order: a bad entry, a count that is full, a full spill region, a record whose address refuses the write; a record on a migrating page waits. -/
def Obligations.SpawnAndDeposits : Prop :=
  (∀ (s : State) (cn : Nat) (t : ThreadRec),
    (∀ n b, (s.core cn).bins.find? (fun b => t.under b.2) = some (n, b) → b.threads.length < 32 →
      s.deposit cn t = some (s.setCore cn { s.core cn with bins := (s.core cn).bins.put n { b with threads := b.threads ++ [t] } })) ∧
    (∀ n, (s.core cn).bins.find? (fun b => t.under b.2) = none → (List.range 16).find? (fun n => ((s.core cn).bins.find n).isNone) = some n →
      ∃ s', s.deposit cn t = some s' ∧ s'.mem = s.mem ∧
        (s'.core cn).bins.find n = some { launch := t.launch, entry := t.entry, key := t.key, threads := [t], expired := false })) ∧
  (∀ (s : State) (V : View) (d a : BitVec 7) (p : BitVec 4),
    let i := Instr.spawn d a p
    let n := Sparse.get 0 V.c.spawned V.w.launch
    let W : View := { V with c := { V.c with spawned := Sparse.set 0 V.c.spawned V.w.launch (n + (lanesOf V.em).length) } }
    let s1 := V.spawnRetired i n
    let badEntry (l : Nat) : Prop := V.em.getLsbD l = true ∧ (canonical (V.lane64 a.toNat l) = false ∨ (V.lane64 a.toNat l).extractLsb' 0 2 ≠ 0#2)
    Ready s (infoOf i) (payloadOk d p) V →
    (∃ w, WarpOnly W { s with nextUid := s.nextUid + 32 } (infoOf i) s1 ∧ SameWarp V (infoOf i) V.w.fullPoint V.onward s1 w ∧
      (V.quadIn s1).rf = V.q.rf) ∧
    ((∀ l, l < 32 → ¬ badEntry l) → n + (lanesOf V.em).length ≤ 2 ^ 19 →
      (∀ t, s1.depositAll V.cn (spawned V d a p) = some t →
        let new := V.spilledNow t
        (s.recordFault V.cn V.w.ctx .write new = none → s.recordsMoving V.cn V.w.ctx .write new = [] →
          s.claim V.cn V.w.ctx (s.recordLines V.cn V.w.ctx new) = none → exec i s = .next (t.writeRecords V.cn V.w.ctx new)) ∧
        (∀ c va, s.recordFault V.cn V.w.ctx .write new = some (c, va) → exec i s = .next (V.laneFault c va V.em)) ∧
        (∀ va vas, s.recordFault V.cn V.w.ctx .write new = none → s.recordsMoving V.cn V.w.ctx .write new = va :: vas →
          exec i s = .next (View.hold { V with s := (va :: vas).foldl (fun s x => s.startPull V.w.ctx x) s } 11))) ∧
      (s1.depositAll V.cn (spawned V d a p) = none → exec i s = .next (V.fault 0x0C1 0#64 V.em))) ∧
    ((∃ l, l < 32 ∧ badEntry l) → ∃ m : Word, (∀ l, l < 32 → (m.getLsbD l = true ↔ badEntry l)) ∧ exec i s = .next (V.fault 0x009 0#64 m)) ∧
    (V.em ≠ 0#32 → (∀ l, l < 32 → ¬ badEntry l) → 2 ^ 19 < n + (lanesOf V.em).length →
      ∃ m : Word, (∀ l, l < 32 → (m.getLsbD l = true ↔ V.em.getLsbD l = true ∧ 2 ^ 19 ≤ n + (lanesOf V.em).countP fun j => decide (j < l))) ∧
        exec i s = .next (V.fault 0x0C4 0#64 m)))

/-- R136, R137: threads that EXIT or HAMP end leave their lanes, and a slot with none left has no path. HAMP has deposited them first, under their keys, to go on at the word after its trailer. -/
def Obligations.ThreadsEnd : Prop :=
  ∀ (s : State) (V : View),
    (Ready s (infoOf .exit) true V → V.em ≠ 0#32 → V.p.mask = V.em → V.w.remap = [] → V.w.div.slot (other V.kn) = none → V.w.div.n = 0 → V.kn ≤ 1 →
      V.w.trap.halted = false →
      ∃ t w, exec .exit s = .next t ∧ V.warpIn t = some w ∧ w.div.slot V.kn = none ∧ (∀ x ∈ w.tids, V.em.getLsbD x.1 = false) ∧
        (∀ x ∈ V.w.tids, V.em.getLsbD x.1 = false → x ∈ w.tids) ∧ w.div.progress = 0 ∧ w.rewind = .full ∧ (V.quadIn t).rf = V.q.rf ∧
        t = { s with cores := t.cores, fresh := t.fresh, time := t.time } ∧ ∀ n, n ≠ V.cn → t.core n = s.core n) ∧
    (∀ (d a : BitVec 7) (p : BitVec 4) (t0 : State), Ready s (infoOf (.hamp d a p)) (payloadOk d p) V → V.em ≠ 0#32 → V.p.mask = V.em → V.w.remap = [] →
      V.w.div.slot (other V.kn) = none → V.w.div.n = 0 → V.kn ≤ 1 → V.w.trap.halted = false →
      (V.hampRetired (.hamp d a p)).depositAll V.cn
        (V.records (fun _ => (V.p.pc + 8).signExtend 64) (fun l => ((V.w.tids.find? fun t => t.1 == l).map (·.2)).getD 0)
          (fun l => some ((V.lane a.toNat l).extractLsb' 0 16)) d p) = some t0 → V.quadIn t0 = V.quadIn (V.hampRetired (.hamp d a p)) →
      V.spilledNow t0 = [] →
      ∃ t w, exec (.hamp d a p) s = .next t ∧ V.warpIn t = some w ∧ w.div.slot V.kn = none ∧ (∀ x ∈ w.tids, V.em.getLsbD x.1 = false) ∧
        (t.core V.cn).bins = (t0.core V.cn).bins ∧ (t.core V.cn).spilled = (t0.core V.cn).spilled ∧ (V.quadIn t).rf = V.q.rf ∧ t.mem = t0.mem) ∧
    (∀ (d a : BitVec 7) (p : BitVec 4), Ready s (infoOf (.hamp d a p)) (payloadOk d p) V →
      (V.hampRetired (.hamp d a p)).depositAll V.cn
        (V.records (fun _ => (V.p.pc + 8).signExtend 64) (fun l => ((V.w.tids.find? fun t => t.1 == l).map (·.2)).getD 0)
          (fun l => some ((V.lane a.toNat l).extractLsb' 0 16)) d p) = none → exec (.hamp d a p) s = .next (V.fault 0x0C1 0#64 V.em))

/-- R128, R129, R138: JOIN stops on lanes that are in a crew already, and on lanes whose crew would pass its limit; it waits where a crew cannot
be created or entered; otherwise each lane takes a seat. A single lane that enters a live crew takes the lowest free seat.

R131, R138: LEAVE frees the seats of the lanes that are in a crew, and sets a full point; lanes in no crew are left alone. -/
def Obligations.SeatsOfCrews : Prop :=
  (∀ (s : State) (V : View) (d a : BitVec 7), Ready s (infoOf (.join d a)) true V →
    let i := Instr.join d a
    let key := V.lane a.toNat
    ((∃ l, l < 32 ∧ V.em.getLsbD l = true ∧ V.w.member l ≠ none) →
      ∃ m : Word, (∀ l, l < 32 → (m.getLsbD l = true ↔ V.em.getLsbD l = true ∧ V.w.member l ≠ none)) ∧ exec i s = .next (V.fault 0x00C 0#64 m)) ∧
    ((∀ l, l < 32 → V.em.getLsbD l = true → V.w.member l = none) →
      (V.joinWaits key = true → exec i s = .next (V.breakRun .join)) ∧
      (∀ c, V.joinWaits key = false → V.createCrews key = some c →
        (V.joinOver c key ≠ 0#32 → exec i s = .next (V.fault 0x0C2 0#64 (V.joinOver c key))) ∧
        (V.joinOver c key = 0#32 →
          let r := V.seats c key
          DoesFrom i s s { V with c := r.1 } (Warp.fullPoint { V.w with remap := V.w.remap ++ r.2 }) V.onward
            ⟨[(d.toNat, fun l => ((r.2.find? fun x => x.1 == l).map fun x => BitVec.ofNat 32 x.2.2).getD 0)], []⟩)) ∧
      (∀ l n k seat, lanesOf V.em = [l] → V.c.crewOfKey V.w.ctx (key l) = some (n, k) → k.compacted = false → k.swapped = false →
        k.members.length < k.limit → seat < 1024 → (∀ m ∈ k.members, m.seat ≠ seat) → (∀ x, x < seat → ∃ m ∈ k.members, m.seat = x) →
        DoesFrom i s s { V with c := { V.c with crews := V.c.crews.put n { k with members := k.members ++ [⟨seat, V.qn, V.wn, l⟩] } } }
          (Warp.fullPoint { V.w with remap := V.w.remap ++ [(l, n, seat)] }) V.onward ⟨[(d.toNat, fun _ => BitVec.ofNat 32 seat)], []⟩))) ∧
  (∀ (s : State) (V : View), Ready s (infoOf .leave) true V →
    ((∀ e ∈ V.w.remap, V.em.getLsbD e.1 = false) → Does .leave s V V.w.fullPoint V.onward ⟨[], []⟩) ∧
    (∀ l n seat k, l < 32 → lanesOf V.em = [l] → V.w.remap.filter (fun e => e.1 == l) = [(l, n, seat)] → V.c.crews.find n = some k → k.compacted = false →
      (∀ m ∈ k.members, ∀ p, V.c.pathOf m.quad m.warp m.lane = some p → ∀ a t x, p.wait ≠ .brc a t x) →
      let k' : Crew := { k with members := k.members.filter fun m => m.seat ≠ seat
                                arrived := k.arrived.filter fun x => x ≠ seat, again := k.again.filter fun x => x ≠ seat }
      k'.members ≠ [] → k'.arrived.length ≠ k'.members.length →
      DoesFrom .leave s s { V with c := { V.c with crews := V.c.crews.put n k' } }
        (Warp.fullPoint { V.w with remap := V.w.remap.filter fun e => e.1 ≠ l }) V.onward ⟨[], []⟩))

/-! ### Memory (R169-R230) -/

/-- R209, R210, R211: the lane loads, plain, acquire and volatile, with the width and extension of each; volatile loads close a region.

R209, R210, R211: the lane stores, plain, release and volatile.

R209, R212: the lane atomics, with the operands that each captures; they close a region.

R339, R362: what the watchpoint comparators of a core match of a user warp's accesses: the context, the kind of access and the range of
bytes; each match is gathered for each lane that the access is made for, or for none. -/
def Obligations.LaneMemoryWords : Prop :=
  (∀ (s : State) (V : View) (d a : BitVec 7) (l : BitVec 4) (k : BitVec 3), ∀ x ∈ ([
    (.ld8 d a l k, .load 1 1 false .plain, false), (.ld8s d a l k, .load 1 1 true .plain, false),
    (.ld16 d a l k, .load 2 1 false .plain, false), (.ld16s d a l k, .load 2 1 true .plain, false),
    (.ld32 d a l k, .load 4 1 false .plain, false), (.ld64 d a l k, .load 8 2 false .plain, false),
    (.ld128 d a l k, .load 16 4 false .plain, false), (.ld32V d a l k, .load 4 1 false .volatile, true),
    (.ld64V d a l k, .load 8 2 false .volatile, true), (.ld32Acq d a l k, .load 4 1 false .acquire, false),
    (.ld64Acq d a l k, .load 8 2 false .acquire, false)] : List (Instr × MemForm × Bool)),
    MemoryWord s V x.1 x.2.1 x.2.2 d.toNat l.toNat false (V.laneAddresses a k)) ∧
  (∀ (s : State) (V : View) (d a : BitVec 7) (l : BitVec 4) (k : BitVec 3), ∀ x ∈ ([
    (.st8 d a l k, .ofStore 1 1 .plain, false), (.st16 d a l k, .ofStore 2 1 .plain, false), (.st32 d a l k, .ofStore 4 1 .plain, false),
    (.st64 d a l k, .ofStore 8 2 .plain, false), (.st128 d a l k, .ofStore 16 4 .plain, false), (.st32V d a l k, .ofStore 4 1 .volatile, true),
    (.st64V d a l k, .ofStore 8 2 .volatile, true), (.st32Rel d a l k, .ofStore 4 1 .release, false),
    (.st64Rel d a l k, .ofStore 8 2 .release, false)] : List (Instr × MemForm × Bool)),
    MemoryWord s V x.1 x.2.1 x.2.2 d.toNat l.toNat false (V.laneAddresses a k)) ∧
  (∀ (s : State) (V : View) (d a : BitVec 7) (l : BitVec 4) (k : BitVec 3), ∀ x ∈ ([
    (.atAdd d a l k, .atomic 4 1 1 .add), (.atMinS d a l k, .atomic 4 1 1 .minS), (.atMaxS d a l k, .atomic 4 1 1 .maxS),
    (.atMinZ d a l k, .atomic 4 1 1 .minZ), (.atMaxZ d a l k, .atomic 4 1 1 .maxZ), (.atAnd d a l k, .atomic 4 1 1 .and),
    (.atOr d a l k, .atomic 4 1 1 .or), (.atXor d a l k, .atomic 4 1 1 .xor), (.atXchg d a l k, .atomic 4 1 1 .xchg),
    (.atCas d a l k, .atomic 4 1 2 .cas), (.atIncw d a l k, .atomic 4 1 1 .incw), (.atAddD d a l k, .atomic 8 2 2 .add),
    (.atXchgD d a l k, .atomic 8 2 2 .xchg), (.atCasD d a l k, .atomic 8 2 4 .cas)] : List (Instr × MemForm)),
    MemoryWord s V x.1 x.2 true d.toNat l.toNat false (V.laneAddresses a k)) ∧
  (∀ (V : View) (f : MemForm) (accs : List LaneAcc),
    let W := V.watch f accs
    W = { V with w := { V.w with trap := { V.w.trap with watch := W.w.trap.watch } } } ∧
    ∃ hits, W.w.trap.watch = V.w.trap.watch ++ hits ∧ ∀ h, h ∈ hits ↔
      ∃ a ∈ accs, ∃ x, V.w.mgmt = false ∧ h.comparator < 64 ∧ V.c.wps.find h.comparator = some x ∧ x.ctl.getLsbD 12 = true ∧
        x.ctl.extractLsb' 0 12 = BitVec.ofNat 12 V.w.ctx ∧
        ((f.reads = true ∧ x.ctl.getLsbD 13 = true) ∨ (f.writes = true ∧ x.ctl.getLsbD 14 = true)) ∧
        a.va.toNat < x.va.toNat + x.len.toNat ∧ x.va.toNat < a.va.toNat + f.width ∧
        h = { comparator := h.comparator, lane := h.lane, va := a.va, epc := pcVa V.p.pc, slot := V.kn } ∧
        (a.lane ≠ 32 → h.lane = a.lane) ∧ (a.lane = 32 → V.em = 0#32 → h.lane = 32) ∧
        (a.lane = 32 → V.em ≠ 0#32 → h.lane < 32 ∧ V.em.getLsbD h.lane = true))

/-- R214: the uniform loads, stores and atomics, at their even pair plus the scaled immediate. -/
def Obligations.UniformMemoryWords : Prop :=
  ∀ (s : State) (V : View) (d a : BitVec 6) (l : BitVec 4) (n : BitVec 5), ∀ x ∈ ([
    (.sld32 d a l n, .load 4 1 false .plain, false), (.sld64 d a l n, .load 8 2 false .plain, false),
    (.sst32 d a l n, .ofStore 4 1 .plain, false), (.sst64 d a l n, .ofStore 8 2 .plain, false),
    (.sld32V d a l n, .load 4 1 false .volatile, true), (.sst32V d a l n, .ofStore 4 1 .volatile, true),
    (.satAdd d a l n, .atomic 4 1 1 .add, true), (.satCas d a l n, .atomic 4 1 2 .cas, true)] : List (Instr × MemForm × Bool)),
    MemoryWord s V x.1 x.2.1 x.2.2 d.toNat l.toNat true [(32, V.uni64 a.toNat + BitVec.ofNat 64 (n.toNat * x.2.1.width))]

/-- R213, R230: WBL and DISC become pending producers of their lanes' lines; PREF drops the lanes that fail a check, and where none translates
it does nothing; a fence records which later accesses wait for which earlier ones, and waits for nothing itself: they are those of its threads
that its kind names and that an observer in its scope can see; of a broadcast store, at crew and core scope, the copy at the own core.

R192, R308, R309, R310: stores enter the store buffer in order, held exactly while the rewind point is a flash point; a full point ends
every hold; the buffer with a seventeenth held sector sets one. -/
def Obligations.LineWordsAndFences : Prop :=
  (∀ (s : State) (V : View) (a : BitVec 7) (l : BitVec 4) (k : BitVec 3) (n : BitVec 3),
    MemoryWord s V (.wbl a l k) (.line .wbl .wbl) false 0 l.toNat false (V.laneAddresses a k) ∧
    MemoryWord s V (.disc a l k) (.line .disc .disc) false 0 l.toNat false (V.laneAddresses a k) ∧
    (Ready s (infoOf (.pref a l k)) true V →
      let goes (x : Nat × Dword) : Option Nat := if V.w.mgmt = false ∧ canonical x.2 = false then none
        else match s.translate V.cn V.w.mgmt V.w.ctx .read x.2.toNat with
          | .ok (.mem pa) => some pa
          | _ => none
      let good := (V.laneAddresses a k).filter fun x => (goes x).isSome
      (good = [] → Does (.pref a l k) s V V.w V.onward ⟨[], []⟩) ∧
      (good ≠ [] → ∀ at_ : Nat → Nat, (∀ x ∈ good, goes x = some (at_ x.1)) →
        let accs : List LaneAcc := good.map fun x => { lane := x.1, va := x.2, loc := .mem (at_ x.1), width := 1, data := 0 }
        ∃ s0, V.TlbOnly s s0 ∧ Posts (.pref a l k) s s0 V
          { V.w with pend := V.w.pend ++ [V.pending .pref 0 0 l.toNat false (V.who good) accs], seq := V.w.seq + 1 } false [])) ∧
    (∀ (ls : Word) (uni write : Bool) (f : FenceRec),
      let mine (by_ : Word) (x : LaneAcc) : Bool := x.of by_ (f.lanes &&& ls) (f.uniform && uni)
      let seen (w : Bool) (x : Loc) : Prop := match x with
        | .mem pa => ¬ (isHost pa = true ∧ w = true ∧ f.scope < 5)
        | .window c _ => c = V.cn ∨ 1 < f.scope
        | _ => True
      let near (b : BufStore) : Prop := match b.acc.loc with
        | .bcast _ _ => 1 < f.scope ∨ (V.cn ∈ b.acc.reach ∧
            (b.sent = none ∨ ∃ m ∈ V.s.deliveries, m.tag = .store b.uid b.seq b.orig ∧ m.target = V.cn))
        | _ => True
      f ∈ V.fencesOf ls uni write ↔ f ∈ V.w.fences ∧ (write = true ∨ f.laterReads = true) ∧
        ((∃ o ∈ V.w.pend, o.seq < f.seq ∧ o.kind ≠ .arwait ∧ (o.kind.reads = true ∨ (f.writes = true ∧ o.kind.writes = true)) ∧
            ∃ x ∈ o.open_, mine o.lanes x = true ∧ seen (o.kind.writes && !o.kind.reads) x.loc) ∨
          (f.writes = true ∧ ∃ b ∈ V.w.sb, b.seq < f.seq ∧ mine b.lanes b.acc = true ∧ seen true b.acc.loc ∧ near b))) ∧
    ∀ x ∈ ([(.fence n, true, true, false), (.fenceAcq n, false, true, false), (.fenceRel n, true, false, false), (.sfence n, true, true, true)] :
      List (Instr × Bool × Bool × Bool)), Ready s (infoOf x.1) (scopeOk n) V →
        let rec_ : FenceRec := { seq := V.w.seq, lanes := V.em, uniform := x.2.2.2, writes := x.2.1, laterReads := x.2.2.1, scope := n.toNat }
        (V.em = 0#32 → x.2.2.2 = false → Does x.1 s V V.w V.onward ⟨[], []⟩) ∧
        (V.em ≠ 0#32 ∨ x.2.2.2 = true → ∃ fs, (∀ f ∈ fs, f ∈ V.w.fences) ∧
          (∀ f ∈ V.w.fences, V.w.outstanding f.lanes f.uniform f.seq true f.writes everywhere = true → f ∈ fs) ∧
          Does x.1 s V { V.w with fences := fs ++ [rec_] } V.onward ⟨[], []⟩)) ∧
  (∀ (w : Warp) (pc : Pc) (ls : Word) (accs : List LaneAcc) (k : StKind),
    (w.rewind = .full → (∀ b ∈ w.sb, b.held = false) →
      w.buffer pc ls accs k = { w with sb := w.sb ++ accs.map fun a => ⟨w.seq, pc, ls, a, k, false, w.uid, a.lane, [], none, false⟩ }) ∧
    (∀ sn, w.rewind = .flash sn → k ≠ .release →
      (((w.sb.filter (·.held)).map (·.acc.sector) ++ accs.map (·.sector)).eraseDups.length ≤ 16 →
        w.buffer pc ls accs k = { w with sb := w.sb ++ accs.map fun a => ⟨w.seq, pc, ls, a, k, true, w.uid, a.lane, [], none, false⟩ }) ∧
      (16 < ((w.sb.filter (·.held)).map (·.acc.sector) ++ accs.map (·.sector)).eraseDups.length →
        (w.buffer pc ls accs k).rewind = .full ∧ (w.buffer pc ls accs k).point = w.point + 1 ∧ ∀ b ∈ (w.buffer pc ls accs k).sb, b.held = false)) ∧
    ((w.buffer pc ls accs k).sb.map (·.acc) = w.sb.map (·.acc) ++ accs) ∧
    w.fullPoint.rewind = .full ∧ w.fullPoint.point = w.point + 1 ∧ w.fullPoint.sb.map (·.acc) = w.sb.map (·.acc) ∧ ∀ b ∈ w.fullPoint.sb, b.held = false)

/-- R182, R183: scratchpad loads, stores and atomics.

R172: the n-th cycle after one that is not reserved: it is not reserved itself, and n others lie from the first up to it that are not. The
cycles that an access takes are the most words that it requests of one of the 37 banks, at least one; a load or a store counts a word once.

R179, R180, R184, R185: the arrival words: arming, arriving, polling and waiting; and an arrival, which adds to the count, saturates, and steps
the generation.

R170, R182, R183, R184, R185: the checks of a scratchpad word, in their order; and what one lane of it reads and leaves, in a scratchpad of
which it finds `r`: a load reads its bytes, low byte first, and extends them; a store writes its bytes and no other; an atomic returns the old word
and leaves the new one; ARSET disarms and arms, ARADD returns the count before its arrival, ARPOLL and ARWAIT read the generation. -/
def Obligations.ScratchpadWords : Prop :=
  (∀ (s : State) (V : View) (d a : BitVec 7) (l : BitVec 4) (k : BitVec 3), ∀ x ∈ ([
    (.lds8 d a l k, ⟨1, 1, .scratchLoad false, 1, 0⟩, false), (.lds8s d a l k, ⟨1, 1, .scratchLoad true, 1, 0⟩, false),
    (.lds16 d a l k, ⟨2, 2, .scratchLoad false, 1, 0⟩, false), (.lds16s d a l k, ⟨2, 2, .scratchLoad true, 1, 0⟩, false),
    (.lds32 d a l k, ⟨4, 4, .scratchLoad false, 1, 0⟩, false), (.lds64 d a l k, ⟨8, 8, .scratchLoad false, 2, 0⟩, false),
    (.lds128 d a l k, ⟨16, 16, .scratchLoad false, 4, 0⟩, false), (.sts8 d a l k, ⟨1, 1, .scratchStore, 0, 1⟩, false),
    (.sts16 d a l k, ⟨2, 2, .scratchStore, 0, 1⟩, false), (.sts32 d a l k, ⟨4, 4, .scratchStore, 0, 1⟩, false),
    (.sts64 d a l k, ⟨8, 8, .scratchStore, 0, 2⟩, false), (.sts128 d a l k, ⟨16, 16, .scratchStore, 0, 4⟩, false),
    (.atsAdd d a l k, ⟨4, 4, .scratchAtomic .add, 1, 1⟩, true), (.atsMinS d a l k, ⟨4, 4, .scratchAtomic .minS, 1, 1⟩, true),
    (.atsMaxS d a l k, ⟨4, 4, .scratchAtomic .maxS, 1, 1⟩, true), (.atsMinZ d a l k, ⟨4, 4, .scratchAtomic .minZ, 1, 1⟩, true),
    (.atsMaxZ d a l k, ⟨4, 4, .scratchAtomic .maxZ, 1, 1⟩, true), (.atsAnd d a l k, ⟨4, 4, .scratchAtomic .and, 1, 1⟩, true),
    (.atsOr d a l k, ⟨4, 4, .scratchAtomic .or, 1, 1⟩, true), (.atsXor d a l k, ⟨4, 4, .scratchAtomic .xor, 1, 1⟩, true),
    (.atsXchg d a l k, ⟨4, 4, .scratchAtomic .xchg, 1, 1⟩, true), (.atsCas d a l k, ⟨4, 4, .scratchAtomic .cas, 1, 2⟩, true)] :
    List (Instr × SpotForm × Bool)), ScratchWord s V x.1 x.2.1 x.2.2 d.toNat l.toNat a k) ∧
  ((∀ (n t : Nat), t % 8 ≠ 7 →
    t ≤ freeCycle n t ∧ freeCycle n t % 8 ≠ 7 ∧
      (List.range (freeCycle n t)).countP (fun x => decide (t ≤ x) && decide (x % 8 ≠ 7)) = n) ∧
  ∀ ws : List Nat, let of_ (b : Nat) := ws.countP fun w => w % 37 == b
    1 ≤ bankCycles false ws ∧ (∀ b, b < 37 → of_ b ≤ bankCycles false ws) ∧ (bankCycles false ws = 1 ∨ ∃ b, b < 37 ∧ of_ b = bankCycles false ws) ∧
    bankCycles true ws = bankCycles false ws.eraseDups) ∧
  ((∀ (s : State) (V : View) (d a : BitVec 7) (l : BitVec 4) (k : BitVec 3),
    ScratchWord s V (.arset d a l k) ⟨16, 16, .arset, 0, 1⟩ true d.toNat l.toNat a k ∧
    ScratchWord s V (.aradd d a l k) ⟨16, 16, .aradd, 1, 1⟩ true d.toNat l.toNat a k ∧
    ScratchWord s V (.arpoll d a l k) ⟨16, 16, .arpoll, 1, 0⟩ false d.toNat l.toNat a k ∧
    ScratchWord s V (.arwait d a l k) ⟨16, 16, .arwait, 1, 1⟩ false d.toNat l.toNat a k) ∧
  (∀ (m : Memory) (x : Nat) (u : Word), x % 16 = 0 →
    let count := (m.word x).toNat + u.toNat
    let target := (m.word (x + 4)).toNat
    let n := m.arrive x u
    (count < 2 ^ 32 → target = 0 ∨ count < target → n.word x = m.word x + u ∧ n.word (x + 8) = m.word (x + 8) ∧ n.word (x + 12) = m.word (x + 12)) ∧
    (count < 2 ^ 32 → target ≠ 0 → target ≤ count → n.word x = BitVec.ofNat 32 (count % target) ∧
      n.word (x + 8) = m.word (x + 8) + BitVec.ofNat 32 (count / target) ∧ n.word (x + 12) = m.word (x + 12) ||| 2#32) ∧
    (2 ^ 32 ≤ count → target = 0 → n.word x = 0xFFFFFFFF#32 ∧ n.word (x + 8) = m.word (x + 8) ∧ n.word (x + 12) = m.word (x + 12) ||| 1#32) ∧
    (2 ^ 32 ≤ count → target ≠ 0 → n.word x = BitVec.ofNat 32 (0xFFFFFFFF % target) ∧
      n.word (x + 8) = m.word (x + 8) + BitVec.ofNat 32 (0xFFFFFFFF / target) ∧ n.word (x + 12) = m.word (x + 12) ||| 3#32) ∧
    n.word (x + 4) = m.word (x + 4) ∧ ∀ j, j < x ∨ x + 16 ≤ j → Sparse.get 0#8 n j = Sparse.get 0#8 m j)) ∧
  ((∀ (width align : Nat) (xs : List Spot),
    let alone (x : Spot) : Bool := x.crew.isNone
    let outside (x : Spot) : Bool := x.crew.any fun k => k.swapped || decide (1024 * k.g < x.off + width)
    let askew (x : Spot) : Bool := x.off % align != 0
    (xs.any alone = true → spotFault width align xs = some (0x00C, xs.filter alone)) ∧
    (xs.any alone = false → xs.any outside = true → spotFault width align xs = some (0x046, xs.filter outside)) ∧
    (xs.any alone = false → xs.any outside = false → xs.any askew = true → spotFault width align xs = some (0x047, xs.filter askew)) ∧
    (xs.any alone = false → xs.any outside = false → xs.any askew = false → spotFault width align xs = none)) ∧
  ∀ (m r : Memory) (x w : Nat) (data : BitVec 128) (op : AtOp),
    (w = 1 ∨ w = 2 ∨ w = 4 ∨ w = 8 ∨ w = 16 → (∀ sg, (spotAct (.scratchLoad sg) w data m r x).1 = m) ∧
      (∃ v, (spotAct (.scratchLoad false) w data m r x).2 = some v ∧ v.toNat < 2 ^ (8 * w) ∧
        ∀ j, j < w → v.extractLsb' (8 * j) 8 = Sparse.get 0#8 r (x + j)) ∧
      (∀ j, j < w → Sparse.get 0#8 (spotAct .scratchStore w data m r x).1 (x + j) = data.extractLsb' (8 * j) 8) ∧
      (∀ j, j < x ∨ x + w ≤ j → Sparse.get 0#8 (spotAct .scratchStore w data m r x).1 j = Sparse.get 0#8 m j)) ∧
    (spotAct (.scratchLoad true) 1 data m r x).2 = some (((Sparse.get 0#8 r x).signExtend 32).setWidth 128) ∧
    (spotAct (.scratchLoad true) 2 data m r x).2 = some (((Sparse.get 0#8 r (x + 1) ++ Sparse.get 0#8 r x : BitVec 16).signExtend 32).setWidth 128) ∧
    ((spotAct (.scratchAtomic op) 4 data m r x).2 = some ((r.word x).setWidth 128) ∧
      (spotAct (.scratchAtomic op) 4 data m r x).1.word x =
        BitVec.ofNat 32 (op.apply 32 (r.word x).toNat (data.extractLsb' 0 32).toNat (data.extractLsb' 32 32).toNat) ∧
      ∀ j, j < x ∨ x + 4 ≤ j → Sparse.get 0#8 (spotAct (.scratchAtomic op) 4 data m r x).1 j = Sparse.get 0#8 r j) ∧
    (∀ n, n = (spotAct .arset 16 data m r x).1 → (spotAct .arset 16 data m r x).2 = none ∧ n.word x = 0#32 ∧
      n.word (x + 4) = data.extractLsb' 0 32 ∧ n.word (x + 8) = m.word (x + 8) ∧
      n.word (x + 12) = 0#32 ∧ ∀ j, j < x ∨ x + 16 ≤ j → Sparse.get 0#8 n j = Sparse.get 0#8 m j) ∧
    spotAct .aradd 16 data m r x = (r.arrive x (data.extractLsb' 0 32), some ((r.word x).setWidth 128)) ∧
    spotAct .arpoll 16 data m r x = (m, some ((r.word (x + 8)).setWidth 128)) ∧
    (spotAct .arwait 16 data m r x).1 = m ∧
    ((spotAct .arwait 16 data m r x).2 = some ((r.word (x + 8)).setWidth 128) ↔
      r.word (x + 8) ≠ data.extractLsb' 0 32 ∧ (r.word (x + 8) - data.extractLsb' 0 32).toNat ≤ 2 ^ 31))

/-! ### Units of a core (R247-R300) -/

/-- R257, R258, R259: CPK checks its operands, waits where the queue is full, and otherwise queues a kick; CPQ reads the free entries and the
warp's unfinished kicks; PDRAIN waits for the warp's peer stores. -/
def Obligations.LadleWords : Prop :=
  ∀ (s : State) (V : View) (a b d : BitVec 6),
    (s.view = some V → V.breakHit = none → V.score (infoOf (.cpk a b)) = none →
      let cnt := (V.uni b.toNat).toNat
      cnt = 0 ∨ 256 < cnt ∨ (V.uni (a.toNat + 1)).extractLsb' 22 9 ≠ 0#9 → exec (.cpk a b) s = .next (V.issueFault 0x002)) ∧
    (Ready s (infoOf (.cpk a b)) true V →
      let first := (V.uni a.toNat).toNat
      let desc := V.uni (a.toNat + 1)
      let cnt := (V.uni b.toNat).toNat
      (1 ≤ cnt → cnt ≤ 256 → desc.extractLsb' 22 9 = 0#9 →
        (∃ l ∈ lanesOf V.em, V.w.crewOf l = none) ∨ (∃ l ∈ lanesOf V.em, ∃ j ∈ lanesOf V.em, V.w.crewOf l ≠ V.w.crewOf j) →
        exec (.cpk a b) s = .next (V.fault 0x00C 0#64 V.em)) ∧
      (∀ n x, 1 ≤ cnt → cnt ≤ 256 → desc.extractLsb' 22 9 = 0#9 → V.em ≠ 0#32 → (∀ l ∈ lanesOf V.em, V.w.crewOf l = some n) →
        V.c.crews.find n = some x →
        let comp := (desc.extractLsb' 0 22).toNat
        (first % 32 ≠ 0 ∨ (desc.getLsbD 31 = true ∧ comp % 16 ≠ 0) → exec (.cpk a b) s = .next (V.fault 0x047 0#64 V.em)) ∧
        (first % 32 = 0 → (desc.getLsbD 31 = true → comp % 16 = 0) → (1024 * x.g < first + 32 * cnt ∨ (desc.getLsbD 31 = true ∧ 1024 * x.g < comp + 16)) →
          exec (.cpk a b) s = .next (V.fault 0x046 0#64 V.em)) ∧
        (first % 32 = 0 → (desc.getLsbD 31 = true → comp % 16 = 0 ∧ comp + 16 ≤ 1024 * x.g) → first + 32 * cnt ≤ 1024 * x.g →
          (16 ≤ V.c.kicks.length → exec (.cpk a b) s = .next (V.hold 8)) ∧
          (V.c.kicks.length < 16 →
            let k : Kick := { uid := s.nextUid, ctx := V.w.ctx, crew := n, list := first, count := cnt
                              completion := if desc.getLsbD 31 = true then some comp else none
                              warpUid := V.w.uid, launch := V.w.launch, lanes := V.em, afterSeq := V.w.seq, next := 0, finals := [], runs := [] }
            DoesFrom (.cpk a b) s { s with nextUid := s.nextUid + 1 } { V with c := { V.c with kicks := V.c.kicks ++ [k] } } V.w.fullPoint V.onward
              ⟨[], []⟩)))) ∧
    (Ready s (infoOf (.cpq d)) true V →
      Computes (.cpq d) s V ⟨[], [(d.toNat, BitVec.ofNat 32 ((16 - V.c.kicks.length) * 256 + V.c.kicks.countP fun k => decide (k.warpUid = V.w.uid)))]⟩) ∧
    (Ready s (infoOf .pdrain) true V →
      (V.c.peerWork s.fresh V.w.uid = false → (∀ p ∈ s.peerSegs, p.warpUid = V.w.uid → p.settled = true) → Does .pdrain s V V.w.fullPoint V.onward ⟨[], []⟩) ∧
      (V.c.peerWork s.fresh V.w.uid = true ∨ (∃ p ∈ s.peerSegs, p.warpUid = V.w.uid ∧ p.settled = false) → exec .pdrain s = .next (V.hold 8)))

/-- R261, R265, R276: what LRES answers. A descriptor or a length that is wrong has its code; no free handle has 0xFFFFFFF1; a context that would pass the
Larder grant of its launch has 0xFFFFFFF2 (a management-core warp has no launch, and the whole Larder); no g granules free together have 0xFFFFFFF3. Otherwise
the lowest free handle is answered, and names the lowest range of g granules that are free together.

R268, R269, R272, R276-R279, R398: LRES, LREL, LBIND, PRSET, PRGET and OPRDY, in the contexts' state on the core; with an empty mask they do nothing.
On the odd core of a pair, LRES, LREL and LBIND wait for an acquire or a fence of the executing threads that R220 orders before them. -/
def Obligations.LarderWords : Prop :=
  (∀ (V : View) (len : Nat) (desc : Word), let c := V.c.tidy
    let g := (len + 1023) / 1024
    let held := ((c.res.filter fun r => decide (r.2.ctx = V.w.ctx)).map fun r => r.2.count).sum
    let free (b : Nat) : Prop := b + g ≤ 256 ∧ ∀ x, b ≤ x → x < b + g → ∀ e ∈ c.res, x < e.2.base ∨ e.2.base + e.2.count ≤ x
    (descWrong desc = true → V.reserve len desc = (0xFFFFFFF4#32, c)) ∧
    (descWrong desc = false → len = 0 ∨ 262144 < len ∨ len < descT desc → V.reserve len desc = (0xFFFFFFF5#32, c)) ∧
    (descWrong desc = false → len ≠ 0 → len ≤ 262144 → descT desc ≤ len →
      ((∀ h, h < 16 → c.res.find h ≠ none) → V.reserve len desc = (0xFFFFFFF1#32, c)) ∧
      (∀ h limit, h < 16 → c.res.find h = none → (∀ j, j < h → c.res.find j ≠ none) →
        (∃ L, V.s.launches.find V.w.launch = some L ∧ limit = L.larderKib) ∨ (V.s.launches.find V.w.launch = none ∧ limit = 256) →
        (limit < held + g → V.reserve len desc = (0xFFFFFFF2#32, c)) ∧
        (held + g ≤ limit → (∀ b, ¬ free b) → V.reserve len desc = (0xFFFFFFF3#32, c)) ∧
        (∀ b, held + g ≤ limit → free b → (∀ x, x < b → ¬ free x) →
          let r : Reservation := { base := b, count := g, desc := desc, ctx := V.w.ctx, bound := false, provisional := V.w.flashPoint
                                   releasing := none, va := 0#64, stride := 0#64, progress := 0 }
          V.reserve len desc = (BitVec.ofNat 32 h, { c with res := c.res ++ [(h, r)] }))))) ∧
  (∀ (s : State) (V : View) (d a b : BitVec 7) (n : BitVec 3),
    let l := (lanesOf V.em).headD 0
    let h := (V.lane a.toNat l).toNat
    let va : Dword := V.lane (b.toNat + 1) l ++ V.lane b.toNat l
    let stride : Dword := V.lane (b.toNat + 3) l ++ V.lane (b.toNat + 2) l
    let goes : Prop := V.cn % 2 = 0 ∨ V.owesAcquire = false
    (∀ i ∈ [Instr.lres d a b, .lrel a, .lbind a b], Ready s (infoOf i) true V → V.em ≠ 0#32 → ¬ goes → exec i s = .next (V.hold 10)) ∧
    (∀ i ∈ [Instr.lres d a b, .lrel a, .lbind a b, .prset n a, .oprdy], Ready s (infoOf i) true V → V.em = 0#32 → Does i s V V.w V.onward ⟨[], []⟩) ∧
    (Ready s (infoOf (.prget d n)) true V → Computes (.prget d n) s V ⟨[(d.toNat, fun _ => V.c.pr V.w.ctx n.toNat)], []⟩) ∧
    (V.em ≠ 0#32 →
      (Ready s (infoOf (.lres d a b)) true V → goes →
        let r := V.reserve (V.lane a.toNat l).toNat (V.lane b.toNat l)
        DoesFrom (.lres d a b) s s { V with c := r.2 } V.w V.onward ⟨[(d.toNat, fun _ => r.1)], []⟩) ∧
      (Ready s (infoOf (.lrel a)) true V → goes → (∀ x, V.p.wait ≠ .lrel x) →
        (V.c.tidy.handle V.w.ctx h = none → exec (.lrel a) s = .next (({ V with c := V.c.tidy } : View).fault 0x083 0#64 V.em)) ∧
        (∀ r, V.c.tidy.handle V.w.ctx h = some r → s.handleBusy V.cn h = false → V.w.rewind = .full →
          DoesFrom (.lrel a) s s
            { V with c := { V.c.tidy.unhaze .larder (1024 * r.base) (1024 * r.count) with res := V.c.tidy.res.drop h, larder := Memory.zero V.c.tidy.larder (1024 * r.base) (1024 * r.count) } }
            V.w V.onward ⟨[], []⟩)) ∧
      (Ready s (infoOf (.lbind a b)) true V → goes →
        (V.c.tidy.handle V.w.ctx h = none → exec (.lbind a b) s = .next (({ V with c := V.c.tidy } : View).fault 0x083 0#64 V.em)) ∧
        (∀ r, V.c.tidy.handle V.w.ctx h = some r → bindOk r.desc va stride = false →
          exec (.lbind a b) s = .next (({ V with c := V.c.tidy } : View).fault 0x086 0#64 V.em)) ∧
        (∀ r, V.c.tidy.handle V.w.ctx h = some r → bindOk r.desc va stride = true →
          let r' : Reservation := { r with va := va, stride := if va = 0#64 then 0#64 else stride, bound := decide (va ≠ 0#64), progress := 0,
                                           serial := r.serial + 1 }
          DoesFrom (.lbind a b) s s { V with c := { V.c.tidy with res := V.c.tidy.res.put h r' } } V.w V.onward ⟨[], []⟩)) ∧
      (Ready s (infoOf (.prset n a)) true V →
        let x := V.lane a.toNat l
        (prValid x = true → DoesFrom (.prset n a) s s { V with c := { V.c with prs := Sparse.set 0x377#32 V.c.prs (8 * V.w.ctx + n.toNat) x } } V.w
          V.onward ⟨[], []⟩) ∧
        (prValid x = false → exec (.prset n a) s = .next (V.fault 0x085 0#64 V.em))) ∧
      (Ready s (infoOf .oprdy) true V →
        (∀ q ∈ (V.c.setQuad V.qn V.q).quads, ∀ w ∈ q.2.warps, ∀ y ∈ w.2.sb, y.ownedBy V.w.uid = true → y.reaches V.cn = false) →
        ((∀ y ∈ s.deliveries, y.target ≠ V.cn) → Does .oprdy s V V.w V.onward ⟨[], []⟩) ∧
        ((∃ y ∈ s.deliveries, y.target = V.cn) → exec .oprdy s = .next (V.hold 9)))))

/-- R275, R285, R295, R296, R298, R398: the operations of the matrix queue. A free place takes the operation with what it captures; TZERO and TNORM wait at a
full queue; an operation of the odd core of a pair waits for an acquire or a fence of its threads that R220 orders before it, and an MMAP for that and for its
follower to be back from an edge. The steps and the transfers take the next ticket of the context, and leave what they write undefined until an MWAIT on it
(R288): the tile, and the range of a TST.

R286, R292, R297, R299: MWAIT waits for a ticket of its own context, and what the operation has written is defined from then on, with what operations
before it have written to its tile; TEXP reads a tile's exponent once earlier operations on it are complete; TCHK is
queued, waits, and reads 0 or stops where the sums differ. A fault that the operation has left deferred is raised as the MWAIT completes. -/
def Obligations.MatrixWords : Prop :=
  (∀ (s : State) (V : View) (d b : BitVec 7) (n : BitVec 3) (x y f : BitVec 4),
    let c := V.c.tidy
    let seq := Sparse.get 0#16 c.tickets V.w.ctx
    let c' : Core := { c with tickets := Sparse.set 0#16 c.tickets V.w.ctx (seq + 1) }
    let op (k : MatKind) : MatOp :=
      { id := s.nextUid, kind := k, tile := n.toNat, pr := c.pr V.w.ctx n.toNat, opA := Operand.none, opB := Operand.none, opB2 := Operand.none
        fmt := 0, loc := 0, ticket := none, ctx := V.w.ctx, launch := V.w.launch, quad := V.qn, warp := V.wn, uid := V.w.uid, pc := V.p.pc, em := V.em
        crew := 64, afterSeq := V.w.seq, blocked := false, bad := false, doneAt := 0 }
    let point := if V.w.rewind = .full then none else some (V.w.uid, V.w.point)
    let haze (t : Word) : Haze :=
      { owner := V.cn, ctx := V.w.ctx, ticket := t, shelf := .tile, first := n.toNat, count := 1, old := [], op := s.nextUid, point := point }
    let goes : Prop := V.cn % 2 = 0 ∨ V.owesAcquire = false
    let s' : State := { s with nextUid := s.nextUid + 1 }
    let queued (o : MatOp) : Quadrant := { V.q with mq := V.q.mq ++ [o] }
    let loc := V.lane b.toNat ((lanesOf V.em).headD 0)
    (∀ i ∈ [Instr.tzero n, .tnorm n, .mma d n x y, .mmap d n x y, .tst d n f b, .tld d n f b], Ready s (infoOf i) i.wf V → V.em = 0#32 →
      ∃ t w, exec i s = .next t ∧ V.warpIn t = some w ∧ w.trap.cause = 0x011#9 ∧ w.trap.halted = true) ∧
    (V.em ≠ 0#32 → ∀ i ∈ [Instr.tzero n, .tnorm n], Ready s (infoOf i) true V → 4 ≤ V.q.mq.length ∨ ¬ goes → exec i s = .next (V.hold 10)) ∧
    (Ready s (infoOf (.mmap d n x y)) true V → V.em ≠ 0#32 → ({ V with c := c } : View).stepFault true n.toNat x.toNat y.toNat = none →
      (s.core (V.cn + 1)).tenant ≠ some (V.w.ctx / 64) ∨ V.owesAcquire = true → exec (.mmap d n x y) s = .next (({ V with c := c } : View).hold 10)) ∧
    (V.em ≠ 0#32 → V.q.mq.length < 4 → goes →
      (Ready s (infoOf (.tzero n)) true V → DoesFrom (.tzero n) s s' { V with q := queued (op .tzero) } V.w V.onward ⟨[], []⟩) ∧
      (Ready s (infoOf (.tnorm n)) true V → DoesFrom (.tnorm n) s s' { V with q := queued (op .tnorm) } V.w V.onward ⟨[], []⟩) ∧
      (∀ pair : Bool, let i := if pair then Instr.mmap d n x y else .mma d n x y
        Ready s (infoOf i) true V →
        (∀ e, ({ V with c := c } : View).stepFault pair n.toNat x.toNat y.toNat = some e → exec i s = .next (({ V with c := c } : View).fault e 0#64 V.em)) ∧
        (({ V with c := c } : View).stepFault pair n.toNat x.toNat y.toNat = none →
          (pair = true → (s.core (V.cn + 1)).tenant = some (V.w.ctx / 64) ∧ V.owesAcquire = false) →
          let ticket : Word := BitVec.ofNat 32 (seq.toNat + n.toNat * 2 ^ 16 + V.w.ctx * 2 ^ 20)
          let o : MatOp := { op (if pair then .mmap else .mma) with
            opA := c.capture x.toNat, opB := c.capture y.toNat, opB2 := if pair then (s.core (V.cn + 1)).capture y.toNat else Operand.none
            ticket := some ticket }
          let f' := s.core (V.cn + 1)
          DoesFrom i s (if pair then s'.setCore (V.cn + 1) { f' with hazes := f'.hazes ++ [haze ticket] } else s')
            { V with c := { c' with hazes := c.hazes ++ [haze ticket] }, q := queued o } V.w.fullPoint V.onward ⟨[(d.toNat, fun _ => ticket)], []⟩)) ∧
      (∀ store : Bool, let i := if store then Instr.tst d n f b else .tld d n f b
        Ready s (infoOf i) (tileFormatOk f) V →
        (locOk loc = false → exec i s = .next (V.issueFault 0x002)) ∧
        (∀ e, locOk loc = true → ({ V with c := c } : View).xferFault f.toNat loc = some e →
          exec i s = .next (({ V with c := c } : View).issueFault e)) ∧
        (locOk loc = true → ({ V with c := c } : View).xferFault f.toNat loc = none →
          let ticket : Word := BitVec.ofNat 32 (seq.toNat + n.toNat * 2 ^ 16 + 2 ^ 19 + V.w.ctx * 2 ^ 20)
          let o : MatOp := { op (if store then .tst else .tld) with
            fmt := f.toNat, loc := loc, ticket := some ticket
            crew := if locKind loc = 0 then (V.w.crewOf ((lanesOf V.em).headD 0)).getD 64 else 64 }
          let b : Warp := if locKind loc = 2 then
              let r : TstRange := { ticket := ticket, first := (locRegs f.toNat loc).1, count := (locRegs f.toNat loc).2, load := !store, touched := []
                                    point := if V.w.rewind = .full then none else some V.w.point }
              { V.w with tstRanges := V.w.tstRanges ++ [r] } else V.w
          let range : List Haze := if store = true ∧ locKind loc < 2 then
              [{ owner := V.cn, ctx := V.w.ctx, ticket := ticket, shelf := if locKind loc = 0 then .scratch else .larder
                 first := ({ V with c := c } : View).locBase loc, count := xferLen f.toNat loc, old := []
                 op := s.nextUid, point := point }] else []
          DoesFrom i s s' { V with c := { c' with hazes := c.hazes ++ [haze ticket] ++ range }, q := queued o, w := b } b V.onward
            ⟨[(d.toNat, fun _ => ticket)], []⟩)) ∧
      (Ready s (infoOf (.tchk d n)) true V → V.p.wait = .none →
        exec (.tchk d n) s = .next (({ V with q := queued { op .tchk with pr := V.c.pr V.w.ctx n.toNat }, s := s' } : View).stall (.tchk s.nextUid))))) ∧
  (∀ (s : State) (V : View) (d a : BitVec 7) (n : BitVec 3),
    let t := V.lane a.toNat ((lanesOf V.em).headD 0)
    (∀ i ∈ [Instr.mwait a, .texp d n], Ready s (infoOf i) true V → V.em = 0#32 → Does i s V V.w V.onward ⟨[], []⟩) ∧
    (Ready s (infoOf (.mwait a)) true V → V.em ≠ 0#32 →
      ((t.extractLsb' 20 12).toNat ≠ V.w.ctx % 4096 → exec (.mwait a) s = .next (V.fault 0x08A 0#64 V.em)) ∧
      (let mine (o : MatOp) : Prop := o.ticket = some t ∧ ¬ (V.cn % 2 = 1 ∧ o.kind = .mmap)
       let ops := (V.c.setQuad V.qn V.q).ops
       (t.extractLsb' 20 12).toNat = V.w.ctx % 4096 →
        ((∃ o ∈ ops, mine o) → exec (.mwait a) s = .next (V.hold 10)) ∧
        ((∀ o ∈ ops, ¬ mine o) →
          (V.w.handler ≠ none ∨ (∀ x ∈ V.w.trap.deferred, x.ticket ≠ some t) → DoesThen (.mwait a) s s V V.w V.onward ⟨[], []⟩ fun u => u.mwaited V.cn t) ∧
          (V.w.handler = none → (∃ x ∈ V.w.trap.deferred, x.ticket = some t) → ∃ u w x, exec (.mwait a) s = .next u ∧ V.warpIn u = some w ∧
            x ∈ V.w.trap.deferred ∧ w.trap.halted = true ∧ w.trap.cause = BitVec.ofNat 9 x.cause ∧ w.trap.epc = x.epc ∧ w.trap.eva = x.eva ∧
            ∀ y ∈ V.w.trap.deferred, x.op ≤ y.op) ∧
          ∀ b k, (∀ h ∈ V.c.hazes, h.shelf = b → h.first ≤ k → k < h.first + h.count → (h.owner = V.cn ∧ h.ticket = t) ∨
              (b = .tile ∧ ∃ x ∈ V.c.hazes, x.owner = V.cn ∧ x.ticket = t ∧ x.shelf = .tile ∧ x.first = h.first ∧ h.op < x.op)) →
            ∃ u, exec (.mwait a) s = .next u ∧ (u.core V.cn).hazy b k = false))) ∧
    (Ready s (infoOf (.texp d n)) true V → V.em ≠ 0#32 → ∀ before, V.p.wait = .tchk before ∨ ((∀ x, V.p.wait ≠ .tchk x) ∧ before = s.nextUid) →
      (V.c.tileBusy n.toNat before = true → V.p.wait = .tchk before → exec (.texp d n) s = .next (V.stall (.tchk before))) ∧
      (V.c.tileBusy n.toNat before = false → V.w.handler ≠ none ∨ (∀ x ∈ V.w.trap.deferred, x.tile ≠ some n.toNat) →
        Computes (.texp d n) s V ⟨[(d.toNat, fun _ => BitVec.ofInt 32 (V.c.tile n.toNat).te)], []⟩)) ∧
    (Ready s (infoOf (.tchk d n)) true V →
      (V.p.wait = .tchked none → V.w.handler ≠ none ∨ (∀ x ∈ V.w.trap.deferred, x.tile ≠ some n.toNat) → Computes (.tchk d n) s V ⟨[(d.toNat, fun _ => 0#32)], []⟩) ∧
      (∀ eva, V.p.wait = .tchked (some eva) → ∃ t w, exec (.tchk d n) s = .next t ∧ V.warpIn t = some w ∧ w.trap.cause = 0x088#9 ∧ w.trap.halted = true ∧
        w.trap.eva = BitVec.ofNat 64 eva)))

/-! ### Tenancy and traps (R303-R344) -/

/-- R319, R321, R322: YIELD and NAP take effect from the end of the run; BUDGET reads what is left of the slice; R320: DONATE gives the rest of the
slice away, to a live context of the tenant or to its pool, and sets a full point. -/
def Obligations.SchedulingWords : Prop :=
  ∀ (s : State) (V : View) (a : BitVec 6),
    let x := V.uni a.toNat
    let dsts := (x.extractLsb' 0 12).toNat
    (Ready s (infoOf .yield) true V → Does .yield s V { V.w with yieldDue := true } V.onward ⟨[], []⟩) ∧
    (Ready s (infoOf (.budget a)) true V → Computes (.budget a) s V ⟨[], [(a.toNat, V.budget)]⟩) ∧
    (Ready s (infoOf (.nap a)) true V →
      (16777216 < x.toNat → exec (.nap a) s = .next (V.fault 0x002 0#64 V.em)) ∧
      (x = 0#32 → Does (.nap a) s V V.w V.onward ⟨[], []⟩) ∧
      (x ≠ 0#32 → x.toNat ≤ 16777216 → V.w.nap = none → Does (.nap a) s V { V.w with nap := some (V.c.cycle + x.toNat, false) } V.onward ⟨[], []⟩) ∧
      (x ≠ 0#32 → x.toNat ≤ 16777216 → ∀ e, V.w.nap = some (e, true) →
        Does (.nap a) s V { V.w with nap := some (V.c.cycle + x.toNat, false) } V.onward ⟨[], []⟩) ∧
      (x ≠ 0#32 → x.toNat ≤ 16777216 → ∀ e, V.w.nap = some (e, false) →
        Does (.nap a) s V { V.w with nap := some (max e (V.c.cycle + x.toNat), false) } V.onward ⟨[], []⟩)) ∧
    (Ready s (infoOf (.donate a)) true V →
      (x.extractLsb' 12 19 ≠ 0#19 ∨ (x.getLsbD 31 = true ∧ dsts ≠ 0) → exec (.donate a) s = .next (V.fault 0x002 0#64 V.em)) ∧
      (x.extractLsb' 12 19 = 0#19 → x.getLsbD 31 = false → dsts / 64 ≠ V.w.ctx / 64 ∨ dsts = V.w.ctx ∨ s.liveCtx dsts = false →
        exec (.donate a) s = .next (V.fault 0x0C9 0#64 V.em)) ∧
      (x.extractLsb' 12 19 = 0#19 → (x.getLsbD 31 = true ∧ dsts = 0) ∨ (x.getLsbD 31 = false ∧ dsts / 64 = V.w.ctx / 64 ∧ dsts ≠ V.w.ctx ∧ s.liveCtx dsts = true) →
        ∃ t w, exec (.donate a) s = .next t ∧ CoreOnly V s t ∧ SameWarp V (infoOf (.donate a)) V.w.fullPoint V.onward t w ∧ (V.quadIn t).rf = V.q.rf ∧
          (t.core V.cn).donated = V.c.donated ++ [V.w.ctx] ∧ (t.core V.cn).scratch = V.c.scratch ∧ (t.core V.cn).larder = V.c.larder ∧
          ∀ k, k ≠ V.wn → t.warp V.cn V.qn k = V.q.warps.find k))

/-- R324, R333, R334: what taking a management-path trap does to the issuing warp: CAUSE, EPC, EVA and FMASK say what trapped; the whole warp
halts; its windows end; a full point is set; its path stands at the trapping word with its run dropped; no register and no byte of memory
changes, nor anything of another warp. -/
def Obligations.TakingATrap : Prop :=
  ∀ (s : State) (V : View) (cause : Nat) (eva : Dword) (m : Word), s.view = some V → cause < 512 →
    let t := V.fault cause eva m
    ∃ w p, V.warpIn t = some w ∧ w.trap.cause = BitVec.ofNat 9 cause ∧ w.trap.epc = V.p.pc.signExtend 64 ∧ w.trap.eva = eva ∧ w.trap.fmask = m ∧
      w.trap.replay = V.em ∧ w.trap.again = true ∧ w.trap.halted = true ∧ w.trap.slot = V.kn ∧ w.rewind = .full ∧ (∀ o ∈ w.pend, o.window = 0) ∧
      w.div.slot V.kn = some p ∧ p.pc = V.p.pc ∧ p.mask = V.p.mask ∧ p.depth = V.p.depth ∧ p.run = none ∧ w.tids = V.w.tids ∧ w.remap = V.w.remap ∧
      w.fmode = V.w.fmode ∧ w.div.slot (other V.kn) = V.w.div.slot (other V.kn) ∧ w.sb.map (·.acc) = V.w.sb.map (·.acc) ∧
      (V.quadIn t).rf = V.q.rf ∧ (∀ k, k ≠ V.wn → t.warp V.cn V.qn k = V.q.warps.find k) ∧ (∀ n, n ≠ V.cn → t.core n = s.core n) ∧
      t = { s with cores := t.cores, fresh := t.fresh, launches := t.launches }

/-- R235, R237: lanes that meet only first-touch pages, at user level, enter the context's supervisor entry in the slot, with the failing lanes
active and the others resting, s48-s55 and the entry EPC saved, and the warp not halted. The trap counts in its launch (R336, R354).

R146, R343: ERET leaves the handler: s48-s55 and the resting lanes come back; with CAUSE 0 or 0x049 and EPC at the entry EPC the word is issued again
for the lanes of FMASK, or passed when FMASK is empty; at another EPC the slot goes on there. Then the warp's paths settle, which for the only path changes
nothing. An FMASK beyond the slot's lanes, or an EPC that is no word's address, stops the ERET with 0x00B, as a word of the handler. Any other CAUSE
escalates: the warp halts with it. -/
def Obligations.InLaneHandler : Prop :=
  (∀ (s : State) (V : View) (eva : Dword) (m : Word), s.view = some V → V.super = false → m ≠ 0#32 →
    let t := V.laneFault 0x049 eva m
    ∃ w p h, V.warpIn t = some w ∧ w.handler = some h ∧ h.slot = V.kn ∧ h.entryEpc = V.p.pc.signExtend 64 ∧
      h.saved = (List.range 8).map (fun i => Sparse.get 0#32 V.q.rf (V.uidx (48 + i))) ∧ w.trap.cause = 0x049#9 ∧ w.trap.epc = V.p.pc.signExtend 64 ∧
      w.trap.eva = eva ∧ w.trap.fmask = m ∧ w.trap.halted = false ∧ w.div.slot V.kn = some p ∧ p.pc = (s.ctx V.w.ctx).entry ∧ p.mask = V.p.mask ∧
      p.rest = V.p.rest ||| (V.p.mask &&& ~~~m) ∧ p.run = none ∧ p.replay = none ∧ (V.quadIn t).rf = V.q.rf ∧
      t = { s with cores := t.cores, fresh := t.fresh, launches := t.launches } ∧
      ∀ L, s.launches.find V.w.launch = some L →
        t.launches = s.launches.put V.w.launch { L with faults := min 0xFFFFFFFF (L.faults + 1) }) ∧
  (∀ (s : State) (V : View) (h : Handler), Ready s (infoOf .eret) true V → V.w.handler = some h → h.saved.length = 8 →
    let tr := V.w.trap
    (tr.cause = 0#9 ∨ tr.cause = 0x049#9 → tr.fmask &&& ~~~V.p.mask = 0#32 → canonical tr.epc = true → tr.epc.extractLsb' 0 2 = 0#2 →
      ∃ t w p, exec .eret s = .next (t.settle V.cn V.qn V.wn) ∧
        (V.w.div.slot (other V.kn) = none → V.w.div.n = 0 → V.p.parked = false → V.kn ≤ 1 → t.settle V.cn V.qn V.wn = t) ∧
        V.warpIn t = some w ∧ w.handler = none ∧ w.trap = tr ∧ w.div.slot V.kn = some p ∧ p.rest = 0#32 ∧ p.run = none ∧
        p.mask = V.p.mask ∧ p.depth = V.p.depth ∧
        (tr.epc ≠ h.entryEpc → p.pc = tr.epc.extractLsb' 0 48 ∧ p.replay = none) ∧
        (tr.epc = h.entryEpc → tr.fmask ≠ 0#32 → p.pc = tr.epc.extractLsb' 0 48 ∧ p.replay = some tr.fmask) ∧
        (tr.epc = h.entryEpc → tr.fmask = 0#32 → h.last = true → p.pc = tr.epc.extractLsb' 0 48 + 8#48 ∧ p.replay = none) ∧
        (tr.epc = h.entryEpc → tr.fmask = 0#32 → h.last = false → p.pc = tr.epc.extractLsb' 0 48 + 4#48 ∧ p.replay = some 0xFFFFFFFF#32) ∧
        (∀ k, k < 8 → V.rfIn t (V.uidx (48 + k)) = h.saved.getD k 0#32) ∧
        (∀ j, (∀ k, k < 8 → V.uidx (48 + k) ≠ j) → V.rfIn t j = Sparse.get 0#32 V.q.rf j) ∧
        t = { s with cores := t.cores, fresh := t.fresh, time := t.time }) ∧
    (tr.cause = 0#9 ∨ tr.cause = 0x049#9 → tr.fmask &&& ~~~V.p.mask ≠ 0#32 ∨ canonical tr.epc = false ∨ tr.epc.extractLsb' 0 2 ≠ 0#2 →
      ∃ t w, exec .eret s = .next t ∧ V.warpIn t = some w ∧ w.handler = none ∧ w.trap.halted = true ∧ w.trap.cause = 0x00B#9 ∧
        w.trap.epc = V.p.pc.signExtend 64 ∧ w.trap.fmask = V.em ∧ w.trap.inHandler = true) ∧
    (tr.cause ≠ 0#9 → tr.cause ≠ 0x049#9 →
      ∃ t w p, exec .eret s = .next t ∧ V.warpIn t = some w ∧ w.handler = none ∧ w.trap.halted = true ∧ w.trap.escalated = true ∧ w.trap.cause = tr.cause ∧
        w.trap.epc = tr.epc ∧ w.trap.eva = tr.eva ∧ w.trap.fmask = tr.fmask ∧ w.div.slot V.kn = some p ∧ p.pc = h.entryEpc.extractLsb' 0 48))

/-- R333, R340, R341, R342: TRAP n, BKPT and SVC halt the warp past their run, with the cause 0x1C0 + n, 0x00F or 0x010, EPC at the word, FMASK the
execution mask, and nothing to issue again; SVC leaves its number for firmware, but not where a word of the handler is it (R337). -/
def Obligations.TrapWords : Prop :=
  ∀ (s : State) (V : View) (n : BitVec 6) (k : BitVec 15),
    ∀ x ∈ ([(.trap n, 0x1C0 + n.toNat, none), (.bkpt, 0x00F, none), (.svc k, 0x010, some k.toNat)] : List (Instr × Nat × Option Nat)),
      Ready s (infoOf x.1) true V → V.p.ends = .plain → V.p.parked = false → V.w.div.slot (other V.kn) = none → V.w.div.n = 0 → V.kn ≤ 1 →
      V.w.trap.halted = false →
      ∃ t w p, exec x.1 s = .next t ∧ V.warpIn t = some w ∧ w.trap.cause = BitVec.ofNat 9 x.2.1 ∧ w.trap.epc = V.p.pc.signExtend 64 ∧
        w.trap.fmask = V.em ∧ w.trap.halted = true ∧ w.trap.again = false ∧ w.trap.inHandler = V.w.handler.any (fun h => decide (h.slot = V.kn)) ∧
        w.trap.service = (if V.w.handler.any (fun h => decide (h.slot = V.kn)) then none else x.2.2) ∧ w.rewind = .full ∧ w.div.slot V.kn = some p ∧
        p.pc = V.r.trailerAt + 4 ∧ p.run = none ∧ p.mask = V.p.mask ∧ (V.quadIn t).rf = V.q.rf ∧
        (∀ k, k ≠ V.wn → t.warp V.cn V.qn k = V.q.warps.find k) ∧
        t = { s with cores := t.cores, fresh := t.fresh, time := t.time, launches := t.launches }

/-- R244, R245, R246, R372: PROBE, PGTAKE, MAPRQ and TRACE. -/
def Obligations.PageAndTraceWords : Prop :=
  ∀ (s : State) (V : View) (d a b : BitVec 6) (l : BitVec 4) (tag : BitVec 15),
    let va := V.uni64 a.toNat
    (Ready s (infoOf (.probe d a l)) true V → V.w.pendingCount + 1 ≤ 32 →
      let o : LongOp := { seq := V.w.seq, pc := V.p.pc, slot := V.kn, window := l.toNat + 1, uniform := true, dest := [d.toNat], kind := .probe
                          lanes := V.em, accs := [], vals := [(32, (s.probed V.w.ctx va).setWidth 128)], posted := false, at_ := 0 }
      Posts (.probe d a l) s s V { V.w with pend := V.w.pend ++ [o], seq := V.w.seq + 1 } true [d.toNat]) ∧
    (Ready s (infoOf (.pgtake d a)) true V → (∀ k, V.p.wait ≠ .pgtake k) →
      (canonical va = false → Computes (.pgtake d a) s V ⟨[], [(d.toNat, 2#32)]⟩) ∧
      (canonical va = true → ∀ z e, s.walk V.w.ctx va.toNat = .leaf z e → Computes (.pgtake d a) s V ⟨[], [(d.toNat, 3#32)]⟩) ∧
      (canonical va = true → s.walk V.w.ctx va.toNat = .unmapped → Computes (.pgtake d a) s V ⟨[], [(d.toNat, 2#32)]⟩) ∧
      (canonical va = true → ∀ z e, s.walk V.w.ctx va.toNat = .firstTouch z e →
        (∀ x ∈ s.takes, ¬ (x.2.ctx = V.w.ctx ∧ x.2.va = va.toNat / pageSize z * pageSize z ∧ x.2.result = none)) →
        (s.startTake V.w.ctx V.w.launch va.toNat = none → Computes (.pgtake d a) s V ⟨[], [(d.toNat, 1#32)]⟩) ∧
        (∀ s', s.startTake V.w.ctx V.w.launch va.toNat = some s' →
          exec (.pgtake d a) s = .next ({ V with s := s', p := { V.p with wait := .pgtake s.nextUid } } : View).put))) ∧
    (Ready s (infoOf (.pgtake d a)) true V → ∀ k t x, V.p.wait = .pgtake k → s.takes.find k = some t → t.result = some x →
      DoesFrom (.pgtake d a) s { s with takes := s.takes.drop k } V V.w V.onward ⟨[], [(d.toNat, x)]⟩) ∧
    (Ready s (infoOf (.maprq d a b)) true V →
      let n := (V.uni b.toNat).toNat
      let at_ (j : Nat) : Dword := va + BitVec.ofNat 64 (32 * j)
      let last := at_ (n - 1)
      (n = 0 ∨ 64 < n → exec (.maprq d a b) s = .next (V.fault 0x002 0#64 V.em)) ∧
      (1 ≤ n → n ≤ 64 → V.w.mgmt = false → canonical va = false ∨ canonical last = false → exec (.maprq d a b) s = .next (V.fault 0x040 va V.em)) ∧
      (1 ≤ n → n ≤ 64 → V.w.mgmt = true ∨ (canonical va = true ∧ canonical last = true) → va.toNat % 32 ≠ 0 →
        exec (.maprq d a b) s = .next (V.fault 0x041 va V.em)) ∧
      (1 ≤ n → n ≤ 64 → V.w.mgmt = true ∨ (canonical va = true ∧ canonical (at_ (n - 1)) = true) → va.toNat % 32 = 0 →
        V.w.pend = [] → V.w.sb = [] →
        (256 ≤ (s.ctx V.w.ctx).mapq.length → Computes (.maprq d a b) s V ⟨[], [(d.toNat, 1#32)]⟩) ∧
        (∀ c, (s.ctx V.w.ctx).mapq.length < 256 → V.recordPlace va = .fault c → (∀ e, V.recordPlace last = .fault e → causeRank c ≤ causeRank e) →
          exec (.maprq d a b) s = .next (V.laneFault c va V.em)) ∧
        (∀ c, (s.ctx V.w.ctx).mapq.length < 256 → V.recordPlace last = .fault c → (∀ e, V.recordPlace va = .fault e → causeRank c < causeRank e) →
          exec (.maprq d a b) s = .next (V.laneFault c last V.em)) ∧
        (∀ l1 l2, (s.ctx V.w.ctx).mapq.length < 256 → V.recordPlace va = .ok l1 → V.recordPlace last = .ok l2 →
          DoesFrom (.maprq d a b) s
            (s.setCtx V.w.ctx { s.ctx V.w.ctx with mapq := (s.ctx V.w.ctx).mapq ++ (List.range n).map at_ }) V V.w V.onward ⟨[], [(d.toNat, 0#32)]⟩))) ∧
    (Ready s (infoOf (.trace d tag)) true V →
      (V.w.mgmt = true ∨ V.c.sampler.ctl.getLsbD 1 = false ∨ V.c.sampler.valid = false ∨ V.c.sampler.matches_ V.w.ctx = false →
        Does (.trace d tag) s V V.w V.onward ⟨[], []⟩) ∧
      (V.w.mgmt = false → V.c.sampler.ctl.getLsbD 1 = true → V.c.sampler.valid = true → V.c.sampler.matches_ V.w.ctx = true →
        DoesThen (.trace d tag) s s V V.w V.onward ⟨[], []⟩ fun t => t.putRecord V.cn V.w.ctx (8 * V.c.cycle + 4 + V.qn % 4)
          (toLe V.c.cycle 4 ++ toLe (V.qn + 4 * V.wn + 64 * 3) 2 ++ toLe (V.w.ctx % 4096) 2 ++ toLe (tag.setWidth 32 : Word).toNat 4 ++
            toLe (V.uni d.toNat).toNat 4)))

/-- R355, R356, R357: LAUNCH checks its record's address and waits for room; then the register holds the child's id, and the
record read starts the child. LWAIT waits while a child of that id is not complete, or its completion record is still to be written; not for the launch
that issues it (R358). -/
def Obligations.ChildLaunches : Prop :=
  ∀ (s : State) (V : View) (d a : BitVec 6),
    let va := V.uni64 a.toNat
    let id : Word := 0x80000000#32 + BitVec.ofNat 32 ((s.ctx V.w.ctx).children % 2 ^ 31)
    (Ready s (infoOf (.launch d a)) true V →
      (V.w.mgmt = false → canonical va = false → exec (.launch d a) s = .next (V.fault 0x040 va V.em)) ∧
      (V.w.mgmt = true ∨ canonical va = true → va.toNat % 128 ≠ 0 → exec (.launch d a) s = .next (V.fault 0x041 va V.em)) ∧
      (V.w.mgmt = true ∨ canonical va = true → va.toNat % 128 = 0 →
        (4096 ≤ s.childrenOut V.w.ctx → exec (.launch d a) s = .next (V.hold 12)) ∧
        (∀ pa, s.childrenOut V.w.ctx < 4096 → V.w.pend = [] → V.w.sb = [] → s.translate V.cn V.w.mgmt V.w.ctx .read va.toNat = .ok (.mem pa) →
          s.claimRead V.cn V.w.ctx [lineOf pa] = none →
          DoesThen (.launch d a) s s V V.w.fullPoint V.onward ⟨[], [(d.toNat, id)]⟩ fun t =>
            t.launchChild V.w.ctx V.w.launch id (s.memBytes pa 128)))) ∧
    (Ready s (infoOf (.lwait a)) true V →
      ((∃ L ∈ s.launches, L.1 ≠ V.w.launch ∧ L.2.ctx = V.w.ctx ∧ L.2.parent ≠ none ∧ L.2.rcd.id = V.uni a.toNat ∧ (L.2.complete = false ∨ s.recordDue V.w.ctx (V.uni a.toNat) = true)) →
        exec (.lwait a) s = .next (V.hold 12)) ∧
      ((∀ L ∈ s.launches, ¬ (L.1 ≠ V.w.launch ∧ L.2.ctx = V.w.ctx ∧ L.2.parent ≠ none ∧ L.2.rcd.id = V.uni a.toNat ∧ (L.2.complete = false ∨ s.recordDue V.w.ctx (V.uni a.toNat) = true))) →
        Does (.lwait a) s V V.w V.onward ⟨[], []⟩))

/-! ### Events of a core -/

/-- R24, R75, R119, R142, R361: a quadrant with no open run takes the first ready warp after the one selected last, resumes a broken run as it stands (in a
free temporary set, where no word of the run has issued), or opens the run that its next words decode to, in a free temporary set with every temporary
unwritten; a run that fails a check traps. With no warp ready nothing changes; a trailer match that is due is reported first. The fetch of a slot's next run
completes, or waits for a page that migrates. -/
def Obligations.SelectionAndFetch : Prop :=
  ∀ (s : State) (cn qn : Nat),
    let c := s.core cn
    let q := c.quad qn
    (∀ wn w k p, s.warp cn qn wn = some w → k ≤ 1 → w.div.slot k = some p → p.run = none → p.fetched = false →
      (∀ x, w.div.slot (other k) = some x → x.run ≠ none ∨ x.fetched = true) →
      ((∀ s', s.readRun cn w 25 [] false p.pc ≠ .wait s') → exec (.runFetchComplete cn qn wn) s =
        .next (s.setWarp cn qn wn { w with div := w.div.setSlot k (some { p with fetched := true }) })) ∧
      (∀ s', s.readRun cn w 25 [] false p.pc = .wait s' → exec (.runFetchComplete cn qn wn) s = .next s')) ∧
    ((q.sel.bind fun x => s.viewAt cn qn x.1 x.2) = none →
      (∀ x ∈ q.warps, x.2.div.n = 0 ∨ (x.2.div.top ≠ none ∧ x.2.div.s0 ≠ none ∧ x.2.div.s1 ≠ none)) →
      (∀ wn w h hs before after, q.warps = before ++ (wn, w) :: after → (∀ x ∈ before, x.2.hits = []) → w.hits = h :: hs → w.trap.halted = false →
        w.trap.deferred = [] → (∀ x ∈ w.trap.watch, x.due = false) →
        exec (.warpSelect cn qn) s = .next ((s.setWarp cn qn wn { w with hits := hs }).mgmtTrap cn qn wn h.slot
          { cause := 0x100 + h.comparator, epc := h.at_.signExtend 64, eva := 0, fmask := h.em, replay := h.em, again := false, isDeferred := false
            escalated := false, service := none })) ∧
      ((∀ x ∈ q.warps, x.2.hits = []) →
        ((∀ wn w, q.warps.find wn = some w → s.ready cn c q wn w = false) → exec (.warpSelect cn qn) s = .next s) ∧
        ∀ i w k p, i < 16 → q.warps.find ((q.last + 1 + i) % 16) = some w → s.ready cn c q ((q.last + 1 + i) % 16) w = true →
          (∀ j w', j < i → q.warps.find ((q.last + 1 + j) % 16) = some w' → s.ready cn c q ((q.last + 1 + j) % 16) w' = false) →
          s.chooseSlot c q w = some k → w.div.slot k = some p →
          let wn := (q.last + 1 + i) % 16
          let s1 := s.setQuad cn qn (q.noteSelected wn)
          let s2 := if w.mgmt then s1 else s1.tlbFill cn w.ctx (pcVa p.pc).toNat
          let w1 : Warp := { w with yielded := none, spent := false }
          (∀ r set, p.run = some r → (r.set < 8 ∧ set = r.set) ∨ (8 ≤ r.set ∧ q.freeSet = some set) →
            ∃ (t : State) (V : View), exec (.warpSelect cn qn) s = .next t ∧ t.viewAt cn qn wn k = some V ∧ V.r = { r with set := set } ∧
              V.p = { p with run := some V.r } ∧ V.q.sel = some (wn, k) ∧ V.q.last = wn ∧
              V.q.temps = q.temps ++ (if r.set < 8 then [] else [(set, wn, k)]) ∧ V.q.rf = q.rf ∧
              V.w = { w1 with div := w1.div.setSlot k (some V.p) } ∧ t = { s with cores := t.cores } ∧ ∀ n, n ≠ cn → t.core n = s.core n) ∧
          (∀ cause va, p.run = none → q.freeSet ≠ none → s2.readRun cn w1 25 [] false p.pc = .fault cause va →
            exec (.warpSelect cn qn) s = .next (s2.mgmtTrap cn qn wn k (runTrap p cause va))) ∧
          (∀ s', p.run = none → q.freeSet ≠ none → s2.readRun cn w1 25 [] false p.pc = .wait s' →
            exec (.warpSelect cn qn) s = .next (s'.onWarp cn qn wn fun x => { x with div := x.div.setSlot k (some { p with fetched := false }) })) ∧
          (∀ set ws, p.run = none → q.freeSet = some set → s2.readRun cn w1 25 [] false p.pc = .run ws →
            ∃ (t : State) (V : View), exec (.warpSelect cn qn) s = .next t ∧ t.viewAt cn qn wn k = some V ∧
              V.r = { words := ws, trailerAt := p.pc + 4#48 * BitVec.ofNat 48 (ws.length - 1), set := set, tdef := [], wdef := 0, total := ws.length } ∧
              V.p = { p with run := some V.r, site := none, fetched := false } ∧ V.q.sel = some (wn, k) ∧ V.q.last = wn ∧
              V.q.temps = q.temps ++ [(set, wn, k)] ∧ V.q.rf = q.rf ∧ V.w = { w1 with div := w1.div.setSlot k (some V.p) } ∧
              t = { s with cores := t.cores, clusters := t.clusters } ∧ ∀ n, n ≠ cn → t.core n = s.core n)))

/-- R30, R210, R212, R213: a producer whose lanes all have their values completes: its entries leave the scoreboard, and its destination
registers hold the values, in its lanes or in the uniform registers; no other word of the register file changes. A load's value is that of its bytes,
a younger byte of the thread's own buffered stores before memory's; an atomic gives the old value and writes the new; a WBL or DISC completes when
its messages have passed their ordering points. A line that is not there is asked for,
past the reverse map for a load that fills the L1; a value whose line's data is still to come waits for it. Completion is never before the CYCLE from which
the value is visible, to which CYCLE passes only while nothing else is due (R172, R304).

R171, R172, R189, R202, R217, R256, R309: a store that nothing holds back leaves the store buffer after every store before it. In memory it is then
performed where its field may write the line, with the field's other stores to the line that have left, and no other byte changes; else GetM is asked for. A
window's store is performed at its target after the earlier ones to that target, its thread's and its core's (R384), and leaves no core whose path to the
target is being changed; a broadcast's is over when every member has it. The scratchpad accepts one access: in a cycle that is free and not reserved, once every quadrant has had
its turn, that of the first quadrant of the rotation that presents one, whose word is then free to issue. -/
def Obligations.ProducersAndStores : Prop :=
  (∀ (s : State) (cn qn wn : Nat) (w : Warp) (o : LongOp), s.warp cn qn wn = some w → (w.pend.find? fun x => x.seq == o.seq) = some o → o.again = false →
    let q := (s.core cn).quad qn
    let word (x : BitVec 128) (j : Nat) : Word := x.extractLsb' (32 * j) 32
    (∀ s' o', o.kind ≠ .wbl → o.kind ≠ .disc → s.bindAll cn w o = (s', o') → o'.open_ = [] → o'.due = [] → o'.dest.Nodup → (o'.vals.map (·.1)).Nodup →
      (o'.uniform = true → o'.vals.length ≤ 1) → (o'.uniform = false → ∀ v ∈ o'.vals, v.1 < 32) →
      ({ s' with fresh := s'.fresh + 1 } : State).comes cn o.at_ = true → ∀ w1, s'.warp cn qn wn = some w1 →
      ∃ (t : State) (w' : Warp), exec (.longLatencyComplete cn qn wn o.seq) s = .next (t.mangleWarp cn qn wn) ∧ t.warp cn qn wn = some w' ∧
        w' = w1.dropOp o ∧ o.at_ ≤ (t.core cn).cycle ∧
        (∀ v ∈ o'.vals, ∀ j d, o'.dest[j]? = some d →
          Sparse.get 0#32 ((t.core cn).quad qn).rf (if o'.uniform then w.ubase * 32 + d else (w.base + d) * 32 + v.1) = word v.2 j) ∧
        (∀ i, (∀ v ∈ o'.vals, ∀ d ∈ o'.dest, i ≠ if o'.uniform then w.ubase * 32 + d else (w.base + d) * 32 + v.1) →
          Sparse.get 0#32 ((t.core cn).quad qn).rf i = Sparse.get 0#32 q.rf i) ∧ t.mem = s'.mem) ∧
    (o.kind = .wbl ∨ o.kind = .disc → o.posted = true → s.stillPosted cn w o = false → o.at_ ≤ (s.core cn).cycle →
      ∃ (t : State) (w' : Warp), exec (.longLatencyComplete cn qn wn o.seq) s = .next (t.mangleWarp cn qn wn) ∧ t.warp cn qn wn = some w' ∧ t.mem = s.mem ∧
        w' = w.dropOp o) ∧
    (∀ (a : LaneAcc) (pa : Nat), a.loc = .mem pa → w.blocked (o.ask a) = false →
      (∀ sg k, o.kind = .load sg k → w.laneStoreNewer o.seq a = false →
        (s.readable (fieldOf cn) (lineOf pa) = true →
          ∃ s', s.bindLane cn w o a = (s', some (extended sg a.width
            (if k = .volatile then leNat (s.memBytes pa a.width) else w.loaded o.seq a (s.memBytes pa a.width)), [])) ∧
            s' = { s with cores := s'.cores, clusters := s'.clusters, fields := s'.fields }) ∧
        (s.readable (fieldOf cn) (lineOf pa) = false → k = .volatile ∨ (w.allForwarded o.seq a = false ∧ (w.mgmt = true ∨ (s.core cn).l1Hit w.ctx a.va.toNat = false)) →
          s.bindLane cn w o a =
            ((if w.mgmt = true ∨ k = .volatile then s else s.passMap cn w.ctx a.va.toNat pa).request cn (lineOf pa) w.ctx false, none)) ∧
        (k ≠ .volatile → w.mgmt = false → w.allForwarded o.seq a = false → (s.core cn).l1Hit w.ctx a.va.toNat = true →
          s.bindLane cn w o a = (s.touchL1 cn w.ctx a.va.toNat, some (extended sg a.width (w.loaded o.seq a (s.memBytes pa a.width)), [])))) ∧
      (∀ op, o.kind = .atomic op → (∀ b ∈ o.tries, b.lane < a.lane → b.overlaps a = false) →
        (s.writable (fieldOf cn) (lineOf pa) = true →
          let n := 8 * a.width
          let x := s.memNat pa a.width
          let y := op.apply n x (a.data.toNat % 2 ^ n) (a.data.toNat / 2 ^ n % 2 ^ n)
          ∃ s', s.bindLane cn w o a = (s', some (BitVec.ofNat 128 x, if s.readable (fieldOf cn) (lineOf pa) then [] else [lineOf pa])) ∧
            (∀ i, i < a.width → s'.memByte (pa + i) = BitVec.ofNat 8 (y / 256 ^ i)) ∧
            (∀ b, b ∉ s.undefined → b < pa ∨ pa + a.width ≤ b → s'.memByte b = s.memByte b)) ∧
        (s.writable (fieldOf cn) (lineOf pa) = false → s.bindLane cn w o a = (s.request cn (lineOf pa) w.ctx true, none))))) ∧
  ((∀ (s : State) (cn qn wn k : Nat) (w : Warp) (b : BufStore), s.warp cn qn wn = some w → w.sb[k]? = some b → b.lost = false →
    let mine (x : BufStore) : Bool := x.uid == b.uid && x.seq == b.seq && x.orig == b.orig
    let bytes := toLe b.acc.data.toNat b.acc.width
    let sb' := w.sb.set k { b with sent := some s.fresh }
    let s1 : State := { s.setWarp cn qn wn { w with sb := sb' } with fresh := s.fresh + 1 }
    (b.sent = none → b.held = true ∨ (∃ x ∈ w.sb.take k, x.sent = none) ∨ w.blocked b.ask = true → exec (.storePerform cn qn wn k) s = .next s) ∧
    (b.sent = none → b.held = false → (∀ x ∈ w.sb.take k, x.sent ≠ none) → w.blocked b.ask = false →
      (∀ pa, b.acc.loc = .mem pa → s.writable (fieldOf cn) (lineOf pa) = true → s.readable (fieldOf cn) (lineOf pa) = true →
        s.sentTo (fieldOf cn) (lineOf pa) = [] →
        ∃ (t : State) (w' : Warp), exec (.storePerform cn qn wn k) s = .next (t.mangleWarp cn qn wn) ∧ t.warp cn qn wn = some w' ∧
          w' = { w with sb := sb'.filter fun x => !mine x } ∧
          (∀ i, i < b.acc.width → t.memByte (pa + i) = BitVec.ofNat 8 (b.acc.data.toNat / 256 ^ i)) ∧
          (∀ a, a ∉ s.undefined → a < pa ∨ pa + b.acc.width ≤ a → t.memByte a = s.memByte a) ∧ t.time = s.time) ∧
      (∀ pa, b.acc.loc = .mem pa → s.writable (fieldOf cn) (lineOf pa) = false →
        exec (.storePerform cn qn wn k) s = .next (s1.request cn (lineOf pa) w.ctx true)) ∧
      (∀ c off, b.acc.loc = .window c off → exec (.storePerform cn qn wn k) s = .next (if s.pairHeld cn c then s else s1)) ∧
      (∀ g off, b.acc.loc = .bcast g off →
        exec (.storePerform cn qn wn k) s = .next (s1.postBroadcast (.store b.uid b.seq b.orig) cn g off bytes none))) ∧
    (∀ d, b.sent = some d →
      (∀ c off, b.acc.loc = .window c off →
        ((∃ x ∈ w.sb.take k, x.acc.sameTarget b.acc = true) ∨ (cn ≠ c ∧ ∃ e ∈ s.messagesTo cn c, e < d) → exec (.storePerform cn qn wn k) s = .next s) ∧
        ((∀ x ∈ w.sb.take k, x.acc.sameTarget b.acc = false) → cn = c ∨ (∀ e ∈ s.messagesTo cn c, d ≤ e) →
          exec (.storePerform cn qn wn k) s = .next ((s.windowWrite c off bytes w.master).dropStore cn qn wn b))) ∧
      (∀ g off, b.acc.loc = .bcast g off → exec (.storePerform cn qn wn k) s =
        .next (if s.onItsWay (.store b.uid b.seq b.orig) then s else s.dropStore cn qn wn b)))) ∧
  (∀ (s : State) (cn : Nat), let T := (s.core cn).cycle
    (s.acceptDue cn = true ↔ s.nextTurn cn = none ∧ (∀ n, n < 4 → ((s.core cn).quad n).presents true = none) ∧ (s.core cn).scratchFree ≤ T ∧ T % 8 ≠ 7 ∧
      ∃ n, n < 4 ∧ ((s.core cn).quad n).presents false ≠ none) ∧
    (s.acceptDue cn = false → exec (.scratchpadAccept cn) s = .next s) ∧
    ∀ i x, s.acceptDue cn = true → i < 4 → (∀ j, j < i → ((s.core cn).quad ((T + j) % 4)).presents false = none) →
      ((s.core cn).quad ((T + i) % 4)).presents false = some x →
      ∃ t, exec (.scratchpadAccept cn) s = .next t ∧ t = { s with cores := t.cores } ∧ (∀ n, n ≠ cn → t.core n = s.core n) ∧
        ((t.core cn).quad ((T + i) % 4)).presented = some { x with accepted := true, at_ := T } ∧
        (∃ w w' p, s.warp cn ((T + i) % 4) x.warp = some w ∧ t.warp cn ((T + i) % 4) x.warp = some w' ∧ w.div.slot x.slot = some p ∧
          w'.div.slot x.slot = some { p with wait := .none }) ∧
        t.core cn = { s.core cn with quads := (t.core cn).quads } ∧ ∀ n, n ≠ (T + i) % 4 → (t.core cn).quad n = (s.core cn).quad n))

/-- R129, R150, R269, R322: rotation clears the parked flags and chooses the slot that gives up, the one that has issued more, slot 1 between equals, or with an
empty stack is complete; the slot that gives up sends its path to the bottom of the ring and takes the top entry; a nap ends at its CYCLE; the wait of an LREL
ends, and the word is done; that of a JOIN ends, and its slot is ready. -/
def Obligations.WaitsAndRotationsEnd : Prop :=
  ∀ (s : State) (cn qn wn : Nat) (w : Warp), s.warp cn qn wn = some w →
    let unparked (p : Path) : Path := { p with parked := false }
    (∀ pas, w.div.progress = 65536 → w.div.giveUp = none → w.trap.halted = false → w.div.n ≠ 0 →
      s.regionAll cn w.mgmt w.ctx w.launch true ((List.range (w.div.n - if w.div.top.isSome then 1 else 0)).map fun i =>
        s.ringVa cn qn wn w (w.div.b + i)) = .ok pas →
      ∃ (t : State) (w' : Warp), exec (.rotation cn qn wn) s = .next t ∧ t.warp cn qn wn = some w' ∧ w'.div.progress = 65536 ∧ w'.div.n = w.div.n ∧ w'.div.b = w.div.b ∧
        w'.div.s0 = w.div.s0.map unparked ∧ w'.div.s1 = w.div.s1.map unparked ∧
        w'.div.top = (w.div.top.map fun (e : StackEntry) => { e with parked := false }) ∧
        w'.div.giveUp = some (if ((w.div.s1.map (·.issued)).getD 0) < ((w.div.s0.map (·.issued)).getD 0) then 0 else 1) ∧
        ∀ a, a ∉ s.undefined → (∀ pa ∈ pas, a < pa ∨ pa + 16 ≤ a) → t.memByte a = s.memByte a) ∧
    (w.div.progress = 65536 → w.div.giveUp = none → w.trap.halted = false → w.div.n = 0 → w.div.top = none →
      exec (.rotation cn qn wn) s = .next ((s.setWarp cn qn wn { w with div := { w.div with
        s0 := w.div.s0.map fun p => { unparked p with issued := 0 }, s1 := w.div.s1.map fun p => { unparked p with issued := 0 }, progress := 0 } }).settle
          cn qn wn)) ∧
    (∀ k p e pa next, w.div.giveUp = some k → k ≤ 1 → w.div.slot k = some p → p.run = none → p.replay = none → p.wait = .none → w.trap.halted = false → w.handler = none →
      w.div.top = some e → w.div.n ≠ 0 →
      (w.div.n = 1 ∧ next = p.entry) ∨ (w.div.n ≠ 1 ∧ s.readRing cn qn wn w (w.div.b + w.div.n - 2) p.pc = .inl next) →
      let b := (w.div.b + s.ringK w.launch - 1) % s.ringK w.launch
      s.regionAll cn w.mgmt w.ctx w.launch true [s.ringVa cn qn wn w b] = .ok [pa] →
      ∃ w', exec (.rotationGiveUp cn qn wn) s = .next (((s.engineWrite (fieldOf cn) pa p.entry.bytes).setWarp cn qn wn w').settle cn qn wn) ∧
        w'.div.slot k = some { freshPath e.pc e.mask e.depth e.parked with dbgRest := w.stackRest &&& e.mask } ∧ w'.div.slot (other k) = (w.div.slot (other k)).map (fun p => { p with issued := 0 }) ∧
        w'.div.b = b ∧ w'.div.n = w.div.n ∧ w'.div.top = some next ∧ w'.div.progress = 0 ∧ w'.div.giveUp = none ∧
        w' = { w with div := w'.div, stackRest := (w.stackRest &&& ~~~e.mask) ||| p.dbgRest }) ∧
    (∀ n, w.nap = some (n, true) → s.comes cn n = false → exec (.napEnd cn qn wn) s = .next s) ∧
    (∀ n, w.nap = some (n, true) → s.comes cn n = true →
      ∃ t, exec (.napEnd cn qn wn) s = .next t ∧ t.warp cn qn wn = some { w with nap := none } ∧ (t.core cn).cycle = max (s.core cn).cycle n ∧
        s.time ≤ t.time ∧ t = { s with cores := t.cores, time := t.time, fresh := t.fresh }) ∧
    (∀ V kn h, s.viewAt cn qn wn kn = some V → kn ≤ 1 → V.p.wait = .lrel h → s.handleBusy cn h = false → w.trap.halted = false →
      ∃ t p, exec (.lrelWaitEnd cn qn wn kn) s = .next t ∧ ((t.warp cn qn wn).bind fun w => w.div.slot kn) = some p ∧ p.wait = .none ∧
        p.pc = V.p.pc + 4 ∧ ∀ r, V.c.res.find h = some r →
          (∀ x, r.releasing = some x → x.point = none → (t.core cn).res.find h = none) ∧
          (∀ x y, r.releasing = some x → x.point = some y → (t.core cn).res.find h = some { r with releasing := some { x with waited := true } })) ∧
    (∀ V kn x xs, s.viewAt cn qn wn kn = some V → V.p.wait = .join → V.r.words = x :: xs → s.warpFree cn (s.core cn) w = true →
      let a : BitVec 7 := x.extractLsb' 7 7
      (V.joinWaits (V.lane a.toNat) = true → exec (.joinProceed cn qn wn kn) s = .next s) ∧
      (V.joinWaits (V.lane a.toNat) = false → exec (.joinProceed cn qn wn kn) s = .next ({ V with p := { V.p with wait := .none } } : View).put))

/-- R117, R118, R123, R127, R249, R351: a crew with no members that nothing names is released; a bin's timer makes it ready; the ready bin whose oldest thread
is oldest launches a warp of its threads, and refills from the spill region where its records can be read; a launch creates its warps on its cores, 32 threads each, the TIDs rising; a fresh warp holds its threads in
lanes 0 up, with their payloads in v0 up and every other register zero; and a warp with no threads, operations or stores ends. -/
def Obligations.WarpsComeAndGo : Prop :=
  ∀ (s : State) (cn : Nat),
    let c := s.core cn
    (∀ k x, c.crews.find k = some x → x.members = [] → c.crewNamed k = false → exec (.crewRelease cn k) s = .next (s.setCore cn (c.releaseCrew k))) ∧
    (∀ n b t L, c.bins.find n = some b → b.threads.head? = some t → s.launches.find b.launch = some L → s.comes cn (t.cycle + L.rcd.timer) = true →
      ∃ u, exec (.binTimerExpiry cn n) s = .next u ∧ (u.core cn).bins = c.bins.put n { b with expired := true } ∧
        (u.core cn).cycle = max c.cycle (t.cycle + L.rcd.timer) ∧ u = { s with cores := u.cores, time := u.time, fresh := u.fresh }) ∧
    (∀ n b, c.bins.find n = some b → b.threads = [] → exec (.binLaunch cn n) s = .next (s.refillBin cn n b none)) ∧
    (∀ n b L t, c.bins.find n = some b → s.launches.find b.launch = some L → b.threads ≠ [] → b.ready = true → (∀ x ∈ c.bins, x.2.ready = true → b.age ≤ x.2.age) →
      c.released b.threads = true → s.holdsCore cn L.ctx = true →
      s.createWarp cn b.launch (b.entry.extractLsb' 0 48) (b.threads.map fun t => (t.tid, t.payload)) = some t →
      exec (.binLaunch cn n) s = .next (t.refillBin cn n { b with threads := [], expired := false } (some s.nextUid))) ∧
    (∀ n b ctx l, let ts := c.refilling b
      ctx = ((ts.head?.bind fun x => s.launches.find x.launch).map (·.ctx)).getD 0 → s.recordFault cn ctx .read ts = none →
      s.recordsMoving cn ctx .read ts = [] → s.claimRead cn ctx (s.recordLines cn ctx ts) = none →
      s.refillBin cn n b l = s.setCore cn (c.refill n b)) ∧
    (∀ l L w t, s.launches.find l = some L → L.nextWarp cn = some w → L.started = true → L.complete = false → L.ended = false →
      s.holdsCore cn L.ctx = true →
      s.createWarp cn l ((L.codeStart + BitVec.ofNat 64 L.entryOff).extractLsb' 0 48)
        ((List.range (min 32 (L.rcd.threads - 32 * w))).map fun i => (BitVec.ofNat 32 (32 * w + i), L.rcd.payload)) = some t →
      ∃ u L', exec (.launchWarpCreate l cn) s = .next u ∧ u = { t with launches := u.launches } ∧ u.launches.find l = some L' ∧
        L' = { L with created := L.created ++ [w], startTime := L'.startTime } ∧ (L.created = [] → L'.startTime = s.time)) ∧
    (∀ l L entry ts t, s.launches.find l = some L → ts.length ≤ 32 → 8 ≤ L.rcd.allot → (∀ x ∈ ts, x.2.length ≤ 8) → s.createWarp cn l entry ts = some t →
      ∃ qn wn w p, qn < 4 ∧ wn < 16 ∧ s.warp cn qn wn = none ∧ t.warp cn qn wn = some w ∧ w.uid = s.nextUid ∧ w.ctx = L.ctx ∧ w.launch = l ∧ w.allot = L.rcd.allot ∧
        w.base % 8 = 0 ∧ w.base + w.allot ≤ 952 ∧ w.fmode = 0 ∧ w.div.s0 = some p ∧ w.div.s1 = none ∧ w.div.n = 0 ∧ p.pc = entry ∧
        (∀ i, i < 32 → (p.mask.getLsbD i = true ↔ i < ts.length)) ∧ w.tids = (List.range ts.length).zip (ts.map (·.1)) ∧
        (∀ i x k, ts[i]? = some x → k < w.allot → Sparse.get 0#32 ((t.core cn).quad qn).rf ((w.base + k) * 32 + i) = x.2.getD k 0#32) ∧
        (∀ i, i < 64 → Sparse.get 0#32 ((t.core cn).quad qn).rf (w.ubase * 32 + i) = 0#32)) ∧
    (∀ qn wn w, s.warp cn qn wn = some w → w.div.s0 = none → w.div.s1 = none → w.div.n = 0 → w.pend = [] → w.sb = [] → w.trap.halted = false →
      (∀ o, c.array = some o → o.uid ≠ w.uid) → (∀ q ∈ c.quads, ∀ o ∈ q.2.mq, o.uid = w.uid → o.blocked = true) →
      ∃ t, exec (.warpEnd cn qn wn) s = .next t ∧ t.warp cn qn wn = none ∧ (∀ k, k ≠ wn → t.warp cn qn k = s.warp cn qn k) ∧
        (∀ i, w.base * 32 ≤ i → i < (w.base + w.allot) * 32 → Sparse.get 0#32 ((t.core cn).quad qn).rf i = 0#32) ∧
        (∀ i, i < w.base * 32 ∨ (w.base + w.allot) * 32 ≤ i → i < w.ubase * 32 ∨ (w.ubase + 2) * 32 ≤ i →
          Sparse.get 0#32 ((t.core cn).quad qn).rf i = Sparse.get 0#32 (c.quad qn).rf i) ∧ t = { s with cores := t.cores, launches := t.launches })

/-! ### Events of memory and its units -/

/-- R195-R198, R201, R202, R208: a message at the head of its bus queue takes effect and leaves the queue. GetS gives E of a line that nobody holds, or S
beside the other copies, an owner going to O; GetM gives M, with the owner's dirty bits, and no other field holds the line; the data is then on its way,
and what waits for the line is served. Where the device lacks the host's permission, or the host must give the line back, the host is asked, and the
transaction waits for its answer (R205, R207). Data from an owner whose own is still to come comes after that. Put writes an owner's dirty sectors back and
drops its copy, and is void for any other; Clean writes them back and keeps it, and does nothing where nobody owns the line; Disc leaves no copy and every
byte of the line undefined. No byte changes its value but by the stores that are served.

R201, R205, R208: line data that comes is merged: the field has the line with its data, its transaction is closed, and what waits for it is served; data
from an owner waits for the owner's own. The host's answer is merged, the device holds what it asked for, and the transactions that waited for the host go
on; a byte that the answer does not list stays as it was. An answer that nothing waits for changes nothing. -/
def Obligations.BusMessagesAndData : Prop :=
  (∀ (s : State) (g bus : Nat) (m : Msg) (ms : List Msg), s.turn g bus m ms →
    let f := g / 8
    let d := s.dirEntry m.line
    let had := (s.field f).line m.line
    let popped (t : State) : Prop := (t.cluster g).buses.find bus = some ms
    let after (u : State) : State := (u.serveLine f m.line).markTxn f m.line fun x => { x with after := s.awaitedOwner f m.line }
    let asks (own : Bool) (u : State) : Prop := popped u ∧ SameBytes s u ∧ u.behind = s.behind ∧
      u.out = s.out ++ [if isHost (256 * m.line) then .hostFetch m.line own else .backInvalidate m.line] ∧
      ∀ y ∈ (u.field f).txns, y.line = m.line → y.waitHost = true ∧ y.applied = true
    (m.kind = .getS → s.hostNeeds m.line false = true → ∃ u, exec (.gets g bus) s = .next (after u) ∧ asks false u) ∧
    (m.kind = .getM → s.hostNeeds m.line true = true → ∃ u, exec (.getm g bus) s = .next (after u) ∧ asks true u) ∧
    (m.kind = .put → d.st ≠ .owned f → ∃ t, exec (.put g bus) s = .next t ∧ SameBytes s t ∧ t.behind = s.behind ∧ t.dirEntry m.line = d) ∧
    (m.kind = .clean → (∀ o, d.st ≠ .owned o) → ∃ t, exec (.clean g bus) s = .next t ∧ popped t ∧ t = { s with clusters := t.clusters }) ∧
    (m.kind = .getS → s.hostNeeds m.line false = false → had = none →
      (∀ st d', (isHost (256 * m.line) = true ∧ d.st = .uncached ∧ d.host ≠ .EM ∧ st = .S ∧ d' = ⟨.shared, d.host⟩) ∨
          (¬(isHost (256 * m.line) = true ∧ d.host ≠ .EM) ∧ d.st = .uncached ∧ st = .E ∧ d' = ⟨.owned f, d.host⟩) ∨
          (d.st = .shared ∧ st = .S ∧ d' = d) ∨ (∃ o, o ≠ f ∧ d.st = .owned o ∧ st = .S ∧ d' = d) →
        ∃ u x, exec (.gets g bus) s = .next (after u) ∧ popped u ∧ SameBytes s u ∧ u.behind = s.behind ∧ u.cores = s.cores ∧ u.dirEntry m.line = d' ∧
          (u.field f).line m.line = some x ∧ x.st = st ∧ x.awaiting = true ∧ x.d0 = false ∧ x.d1 = false ∧ x.ctx = m.ctx ∧
          (∀ y ∈ (u.field f).txns, y.line = m.line → y.applied = true) ∧
          ∀ o y, o ≠ f → d.st = .owned o → (s.field o).line m.line = some y → (u.field o).line m.line = some { y with st := .O })) ∧
    (m.kind = .getM → s.hostNeeds m.line true = false → f < 42 →
        ∃ u x, exec (.getm g bus) s = .next (after u) ∧ popped u ∧ SameBytes s u ∧ u.behind = s.behind ∧ u.dirEntry m.line = { d with st := .owned f } ∧
          (u.field f).line m.line = some x ∧ x.st = .M ∧ ((s.lineState f m.line).owner = false → x.awaiting = true) ∧ (had = none → x.ctx = m.ctx) ∧
          (∀ o y, d.st = .owned o → (s.field o).line m.line = some y → had = none ∨ o = f → x.d0 = y.d0 ∧ x.d1 = y.d1) ∧
          (∀ k, k < 42 → k ≠ f → (u.field k).line m.line = none) ∧ ∀ y ∈ (u.field f).txns, y.line = m.line → y.applied = true) ∧
    (m.kind = .put → ∀ x, d.st = .owned f → had = some x →
      ∃ t, exec (.put g bus) s = .next t ∧ SameBytes s t ∧ t.homeCurrent m.line ∧ (t.field f).line m.line = none ∧
        t.dirEntry m.line = (if x.st = .O then ⟨.shared, d.host⟩ else ⟨.uncached, if isHost (256 * m.line) then .none else d.host⟩)) ∧
    (m.kind = .clean → ∀ o x, d.st = .owned o → (s.field o).line m.line = some x →
      ∃ t, exec (.clean g bus) s = .next t ∧ popped t ∧ SameBytes s t ∧ t.homeCurrent m.line ∧ t.dirEntry m.line = d ∧
        (t.field o).line m.line = some { x with st := if x.st = .M then .E else x.st, d0 := false, d1 := false }) ∧
    (m.kind = .disc →
      ∃ t, exec (.discMessage g bus) s = .next t ∧ popped t ∧ t.mem = s.mem ∧ t.homeCurrent m.line ∧ t.copyless m.line ∧ t.dirEntry m.line = ⟨.uncached, .none⟩ ∧
        (∀ a, a ∈ t.undefined ↔ lineOf a = m.line ∨ a ∈ s.undefined) ∧
        t.out = s.out ++ if isHost (256 * m.line) = false ∧ d.host ≠ .none then [.backInvalidate m.line] else [])) ∧
  ((∀ (s : State) (f line : Nat) (x : Txn), ((s.field f).txns.find? fun t => t.line == line) = some x →
    (x.applied = false ∨ x.waitHost = true ∨ x.after ≠ none → exec (.dataArrival f line) s = .next s) ∧
    (x.applied = true → x.waitHost = false → x.after = none → ∀ y : L2Line, (s.field f).line line = some y →
      ∃ (u : State) (z : L2Line), exec (.dataArrival f line) s = .next ((u.serveLine f line).dataCame f line) ∧ SameBytes s u ∧ u.behind = s.behind ∧
        (u.field f).line line = some z ∧ z.st = y.st ∧ z.awaiting = false ∧ ∀ t ∈ (u.field f).txns, t.line ≠ line)) ∧
  (∀ (s : State) (line : Nat) (data : List (Nat × Byte)),
    let ws := s.fields.filterMap fun f => (f.2.txns.find? fun t => t.line == line && t.waitHost).map fun t => (f.1, t)
    (ws = [] → exec (.hostResponse line data) s = .next s) ∧
    (ws ≠ [] → (data.map (·.1)).Nodup → (∀ b ∈ data, b.1 < 256) →
    ∃ u : State, exec (.hostResponse line data) s = .next (ws.foldl (fun s w => (s.markTxn w.1 line fun t => { t with waitHost := false }).ordered w.1 line) u) ∧
      (∀ b ∈ data, u.memByte (256 * line + b.1) = b.2) ∧ (∀ a, (∀ b ∈ data, a ≠ 256 * line + b.1) → u.memByte a = s.memByte a) ∧
      (u.dirEntry line).st = (s.dirEntry line).st ∧
      (u.dirEntry line).host = (if isHost (256 * line) = false then .none
        else if (∃ w ∈ ws, w.2.wantsM = true) ∨ (s.dirEntry line).host = .EM then .EM else .S))))

/-- R199, R206, R207, R378: the host's accesses to HBM lines and its snoops of host-region lines become messages of cluster 0 of the line's home field; at its
turn a shared read leaves the owner's copy clean and shared, an exclusive access no device copy, a SnpCur clean copies. Each answers with the line's
coherent bytes (an undefined byte reads as a free value). A port serves a line of device memory that a decoder of it maps and that lies in the memory grant of
the tenant of the port's context; where it does not it answers with an error, and a snoop of a line that the device does not hold with a miss. -/
def Obligations.HostAccesses : Prop :=
  ∀ (s : State) (port line : Nat) (wd : Option (List (Nat × Byte))) (ms : List Msg),
    let bytes (n : Nat) := ({ s with fresh := n } : State).memBytes (256 * line) 256
    let answers (t : State) : Prop := ∃ n, t.out = s.out ++ [.hostRead line (bytes n)]
    let posted (k : MsgKind) := s.post (8 * homeOf line) ⟨k, line, 0, none⟩
    let popped (t : State) : Prop := (t.cluster (8 * homeOf line)).buses.find (busOf line) = some ms
    let cleaned (t : State) (left : LineState → LineState) : Prop := ∀ o x, s.ownerOf line = some o → (s.field o).line line = some x →
      (t.field o).line line = some { x with st := left x.st, d0 := false, d1 := false } ∧ t.homeCurrent line
    (s.portServes port line = true ↔ port < 8 ∧ s.boot.minimal = false ∧ s.boot.starting = false ∧ isHbm (256 * line) = true ∧
      let p := (s.ports.find port).getD (Port.blank port)
      p.up = true ∧ (∃ d ∈ p.decoders, d.2.2 ≤ 256 * line ∧ 256 * line + 256 ≤ d.2.2 + d.2.1) ∧
      ∃ r ∈ ((s.tenants.find (p.ctx / 64)).getD Tenant.blank).ranges, r.1 ≤ 256 * line ∧ 256 * line + 256 ≤ r.1 + r.2) ∧
    (s.hostQueued (.hGetS port) line = false →
      exec (.hgets port line) s = .next (if s.portServes port line then posted (.hGetS port) else { s with out := s.out ++ [.hostError line] })) ∧
    (s.hostQueued (.hGetM port wd) line = false →
      exec (.hgetm port line wd) s = .next (if s.portServes port line then posted (.hGetM port wd) else { s with out := s.out ++ [.hostError line] })) ∧
    (∀ x ∈ ([(.snpdata line, .snpData), (.snpinv line, .snpInv), (.snpcur line, .snpCur)] : List (Instr × MsgKind)),
      (s.hostQueued x.2 line = false → exec x.1 s = .next (posted x.2)) ∧
      (s.hostTurn x.2 line ms → s.holdsLine line = false ∨ isHost (256 * line) = false →
        ∃ t, exec x.1 s = .next t ∧ popped t ∧ SameBytes s t ∧ t.fields = s.fields ∧ t.out = s.out ++ [.snoopMiss line])) ∧
    (s.hostTurn (.hGetS port) line ms →
      ∃ t, exec (.hgets port line) s = .next t ∧ popped t ∧ SameBytes s t ∧ t.dirEntry line = ⟨.shared, .S⟩ ∧ answers t ∧ cleaned t fun _ => .S) ∧
    (s.hostTurn (.hGetM port none) line ms →
      ∃ t, exec (.hgetm port line none) s = .next t ∧ popped t ∧ SameBytes s t ∧ t.copyless line ∧ t.dirEntry line = ⟨.uncached, .EM⟩ ∧ answers t) ∧
    (∀ w : List (Nat × Byte), s.hostTurn (.hGetM port (some w)) line ms → (w.map (·.1)).Nodup → (∀ b ∈ w, b.1 < 256) →
      ∃ t, exec (.hgetm port line (some w)) s = .next t ∧ popped t ∧ t.copyless line ∧ t.dirEntry line = ⟨.uncached, .EM⟩ ∧ t.out = s.out ++ [.hostDone line] ∧
        (∀ b ∈ w, t.memByte (256 * line + b.1) = b.2) ∧
        ∀ a, (∀ b ∈ w, a ≠ 256 * line + b.1) → (a ∈ s.undefined → a ∈ t.undefined) ∧ (a ∉ s.undefined → t.memByte a = s.memByte a)) ∧
    (s.holdsLine line = true → isHost (256 * line) = true →
      (s.hostTurn .snpData line ms →
        ∃ t, exec (.snpdata line) s = .next t ∧ popped t ∧ SameBytes s t ∧ t.dirEntry line = ⟨.shared, .S⟩ ∧ answers t ∧ cleaned t fun _ => .S) ∧
      (s.hostTurn .snpInv line ms →
        ∃ t, exec (.snpinv line) s = .next t ∧ popped t ∧ SameBytes s t ∧ t.copyless line ∧ t.dirEntry line = ⟨.uncached, .none⟩ ∧ answers t) ∧
      (s.hostTurn .snpCur line ms →
        ∃ t, exec (.snpcur line) s = .next t ∧ popped t ∧ SameBytes s t ∧ t.dirEntry line = s.dirEntry line ∧ answers t ∧
          cleaned t fun st => if st = .M then .E else st))

/-- R11-R14, R71, R174, R176, R242, R256, R262, R366, R367, R378: a window access that a granule's check refuses has no effect and is refused with its cause,
and so is one over a port none of whose decoders maps it; a read gives the window's bytes; a write of held scratchpad granules, of held Larder granules or of a warp's register
rows writes those bytes; what nothing holds, and a read-only record, discards a write. Bit 0 of the sampler's control enables it and fixes its origin; the dropped count is
cleared; a broadcast write lands at its member, in order, and then its arrival; one of a peer's segment is acknowledged with its last delivery.

R11, R66, R71, R174, R176, R262, R265, R272, R291, R335, R360, R366: what a byte of a window shows: the register row that a warp holds, the held
scratchpad granule, the held Larder granule, the mantissas, the exponent and the marks of a tile, and the records of the control area; where nothing
stands, 0. A place that an operation writes, with no MWAIT on its ticket yet, is left out here. -/
def Obligations.WindowAccesses : Prop :=
  (∀ (s : State) (by_ : Master) (cn off n : Nat) (w : List Byte),
    let m := s.carries by_
    let maps (len : Nat) : Prop := by_ = .management ∨ (∃ ctx, by_ = .peer ctx) ∨ ∃ p, by_ = .port p ∧
      ∃ d ∈ ((s.ports.find p).getD (Port.blank p)).decoders, d.2.2 ≤ 0x800000000000 + 0x400000 * cn + off ∧
        0x800000000000 + 0x400000 * cn + off + len ≤ d.2.2 + d.2.1
    (∀ p, by_ = .port p → (¬ maps n → exec (.windowAccess by_ cn off n none) s = .next { s with out := s.out ++ [.windowRefused cn off 0x045] }) ∧
      (¬ maps w.length → exec (.windowAccess by_ cn off n (some w)) s = .next { s with out := s.out ++ [.windowRefused cn off 0x045] })) ∧
    (∀ cause, maps n → s.windowRangeCheck cn off n m false = some cause →
      exec (.windowAccess by_ cn off n none) s = .next { s with out := s.out ++ [.windowRefused cn off cause] }) ∧
    (∀ cause, maps w.length → s.windowRangeCheck cn off w.length m true = some cause →
      exec (.windowAccess by_ cn off n (some w)) s = .next { s with out := s.out ++ [.windowRefused cn off cause] }) ∧
    (maps n → s.windowRangeCheck cn off n m false = none →
      exec (.windowAccess by_ cn off n none) s = .next { s with out := s.out ++ [.window cn off (s.windowBytes cn off n m)], fresh := s.fresh + 1 }) ∧
    (maps w.length → s.windowRangeCheck cn off w.length m true = none →
      (0x80000 ≤ off → off + w.length ≤ 0xCA000 →
        ∃ t, exec (.windowAccess by_ cn off n (some w)) s = .next t ∧ CoresOnly s t ∧ (∀ k, k ≠ cn → t.core k = s.core k) ∧
          t.core cn = { s.core cn with scratch := (t.core cn).scratch } ∧
          ∀ a, Sparse.get 0#8 (t.core cn).scratch a =
            if 0x80000 + a < off ∨ off + w.length ≤ 0x80000 + a ∨ (s.core cn).granuleHeld (a / 1024) = false then Sparse.get 0#8 (s.core cn).scratch a
            else w.getD (0x80000 + a - off) 0#8) ∧
      (0x100000 ≤ off → off + w.length ≤ 0x140000 →
        ∃ t, exec (.windowAccess by_ cn off n (some w)) s = .next t ∧ CoresOnly s t ∧ (∀ k, k ≠ cn → t.core k = s.core k) ∧
          t.core cn = { s.core cn with larder := (t.core cn).larder, hazes := (t.core cn).hazes } ∧
          ∀ a, Sparse.get 0#8 (t.core cn).larder a =
            if 0x100000 + a < off ∨ off + w.length ≤ 0x100000 + a ∨ (s.core cn).tidy.larderHeld (a / 1024) = false then Sparse.get 0#8 (s.core cn).larder a
            else w.getD (0x100000 + a - off) 0#8) ∧
      (∀ qn, off = 0x20000 * qn + off % 0x20000 → qn < 4 → off % 4 = 0 → off % 0x20000 < 952 * 128 → w.length = 4 →
        ((s.core cn).quad qn).rowHeld (off % 0x20000 / 128) = true → (((s.core cn).quad qn).putRow (off % 0x20000 / 4) 0#32).undefAt (off % 0x20000 / 4) = none →
        ∃ t, exec (.windowAccess by_ cn off n (some w)) s = .next t ∧ CoresOnly s t ∧
          ∀ j, Sparse.get 0#32 ((t.core cn).quad qn).rf j =
            if j = off % 0x20000 / 4 then BitVec.ofNat 32 (leNat w) else Sparse.get 0#32 ((s.core cn).quad qn).rf j)) ∧
    (∀ v : Dword, off % 8 = 0 → (0x18C000 ≤ off ∧ off < 0x18C200) ∨ (0x18D000 ≤ off ∧ off < 0x18D200) → maps 8 → s.windowRangeCheck cn off 8 m true = none →
      exec (.registerWrite by_ cn off v) s = .next s) ∧
    (∀ v : Dword, (s.core cn).absent = false →
      ∃ t, exec (.registerWrite .management cn 0x18E010 v) s = .next t ∧ CoresOnly s t ∧ (t.core cn).sampler.buf = v ∧ (t.core cn).sampler.wr = (s.core cn).sampler.wr) ∧
    (let x := (s.core cn).sampler
      ∃ t y, exec (.samplerEnable cn) s = .next t ∧ CoresOnly s t ∧ t.core cn = { s.core cn with sampler := y } ∧ y.ctl.getLsbD 0 = true ∧
        y.ctl.getLsbD 1 = x.ctl.getLsbD 1 ∧ y.queue = x.queue ∧ y.period = x.period ∧ y.buf = x.buf ∧ y.cap = x.cap ∧ y.wr = x.wr ∧ y.rd = x.rd ∧ y.dropped = x.dropped ∧
        (x.ctl.getLsbD 0 = false → y.origin = (s.core cn).cycle ∧ y.next = (s.core cn).cycle) ∧
        (x.ctl.getLsbD 0 = true → y.origin = x.origin ∧ y.next = x.next)) ∧
    (∃ t y, exec (.droppedCountClear cn) s = .next t ∧ CoresOnly s t ∧ t.core cn = { s.core cn with sampler := y } ∧ y.dropped = 0#32 ∧
      y.period = (s.core cn).sampler.period ∧ y.wr = (s.core cn).sampler.wr ∧ y.next = (s.core cn).sampler.next) ∧
    (∀ k d, s.deliveries[k]? = some d → (∀ x ∈ s.deliveries.take k, ¬ (x.source = d.source ∧ x.group = d.group ∧ x.target = d.target)) →
      let left : State := { s with deliveries := s.deliveries.eraseIdx k }
      let acks : List Out := match d.tag with
        | .peer conn _ no => if left.onItsWay d.tag then [] else [.peerAck conn no]
        | _ => []
      let u : State := { left with out := s.out ++ acks }
      ((s.core d.target).tenant = none ∨ (s.core d.target).tenant ≠ s.groups.find d.group → exec (.multicastDelivery k) s = .next u) ∧
      ((s.core d.target).tenant ≠ none → (s.core d.target).tenant = s.groups.find d.group →
        (d.arrival = none → exec (.multicastDelivery k) s = .next (u.windowWrite d.target d.off d.data none)) ∧
        (∀ at_ x, d.arrival = some (at_, x) →
          let v := u.windowWrite d.target d.off d.data none
          let c := v.core d.target
          (c.granuleHeld ((at_ - 0x80000) / 1024) = true → exec (.multicastDelivery k) s =
            .next (v.setCore d.target (c.arrived v.fresh (at_ - 0x80000) (BitVec.ofNat 32 x)))) ∧
          (c.granuleHeld ((at_ - 0x80000) / 1024) = false → exec (.multicastDelivery k) s = .next v))))) ∧
  (∀ (s : State) (cn off : Nat) (m : Option Nat),
    let c := s.core cn
    let at_ (n : Nat) := s.windowByte cn (off + n) m
    let word (n : Nat) : Nat := leNat ((List.range 4).map fun i => at_ (n + i))
    let dword (n : Nat) : Nat := leNat ((List.range 8).map fun i => at_ (n + i))
    (∀ qn j b, qn < 4 → j / 32 < 952 → b < 4 → off = 0x20000 * qn + 4 * j + b →
      ((c.quad qn).rowHeld (j / 32) = false → at_ 0 = 0#8) ∧
      ((c.quad qn).rowHeld (j / 32) = true → (c.quad qn).undefAt j = none → (c.quad qn).wordBefore j = [] →
        at_ 0 = (Sparse.get 0#32 (c.quad qn).rf j).extractLsb' (8 * b) 8)) ∧
    (∀ x, x < 0x4A000 → off = 0x80000 + x →
      ((∀ k ∈ c.crews, k.2.swapped = true ∨ x / 1024 < k.2.base ∨ k.2.base + k.2.g ≤ x / 1024) → at_ 0 = 0#8) ∧
      (∀ k ∈ c.crews, k.2.swapped = false → k.2.base ≤ x / 1024 → x / 1024 < k.2.base + k.2.g → c.hazes = [] → at_ 0 = Sparse.get 0#8 c.scratch x)) ∧
    (∀ x, x < 0x40000 → off = 0x100000 + x → c.hazes = [] → c.tidy = c →
      ((∀ r ∈ c.res, x / 1024 < r.2.base ∨ r.2.base + r.2.count ≤ x / 1024) → at_ 0 = 0#8) ∧
      (∀ r ∈ c.res, r.2.base ≤ x / 1024 → x / 1024 < r.2.base + r.2.count → at_ 0 = Sparse.get 0#8 c.larder x)) ∧
    (∀ n e i, n < 8 → c.hazes = [] → c.tidy = c →
      (e < 4096 → i < 6 → off = 0x140000 + 0x8000 * n + 6 * e + i → at_ 0 = (Sparse.get 0#48 (c.tile n).m e).extractLsb' (8 * i) 8) ∧
      (i < 2 → off = 0x140000 + 0x8000 * n + 0x6000 + i → at_ 0 = (BitVec.ofInt 16 (c.tile n).te).extractLsb' (8 * i) 8) ∧
      (e < 4096 → off = 0x140000 + 0x8000 * n + 0x6010 + e / 8 → (at_ 0).getLsbD (e % 8) = (c.tile n).marks.contains e)) ∧
    (∀ x k, k < 8 → c.prMaster m = some x → off = 0x180100 + 4 * k → word 0 = (Sparse.get 0x377#32 c.prs (8 * x + k)).toNat) ∧
    (∀ h r, h < 16 → c.tidy.res.find h = some r → r.base < 256 → r.count ≤ 256 → off = 0x181000 + 64 * h →
      word 0 = r.base + 256 * r.count + 2 ^ 31 ∧ word 4 = r.desc.toNat) ∧
    (∀ h, h < 16 → c.tidy.res.find h = none → off = 0x181000 + 64 * h → word 0 = 0) ∧
    (∀ i w, i < 64 → (c.quad (i / 16)).warps.find (i % 16) = some w → w.trap.halted = true → off = 0x189000 + 32 * i →
      word 0 % 512 = w.trap.cause.toNat ∧ dword 8 = w.trap.epc.toNat ∧ dword 16 = w.trap.eva.toNat ∧ word 24 = w.trap.fmask.toNat ∧
      word 28 = w.trap.replay.toNat) ∧
    (∀ k, k < 64 → off = 0x18C000 + 8 * k → (c.crews.find k = none → dword 0 = 0) ∧
      ∀ x, c.crews.find k = some x → x.base < 512 → x.g < 2 ^ 22 → word 0 = x.base + 512 * x.g + 2 ^ 31 ∧ word 4 = x.key.toNat) ∧
    (off = 0x18E000 → word 0 = c.sampler.ctl.toNat ∧ word 4 = c.sampler.period.toNat ∧ word 8 = c.sampler.sel.toNat ∧ dword 16 = c.sampler.buf.toNat ∧
      word 24 = c.sampler.cap.toNat ∧ word 28 = c.sampler.wr.toNat ∧ word 32 = c.sampler.rd.toNat ∧ word 36 = c.sampler.dropped.toNat) ∧
    (∀ i x, i < 64 → (off = 0x18F000 + 16 * i ∧ c.bps.find i = some x) ∨ (off = 0x18F400 + 16 * i ∧ c.wps.find i = some x) →
      dword 0 = x.va.toNat ∧ word 8 = x.len.toNat ∧ word 12 = x.ctl.toNat))

/-- R247-R254, R380, R382: the Ladle reads the next record of the kick it works on, gives a bad one its final status (0x81 malformed, 0x85 a peer that is not
reached, 0x86 out of the crew's span), and marks any other as running; it starts its next segment, cut where the destination's 256-byte lines end, by reading
the source; a segment lands by writing its bytes, and those landed in order are counted; a broadcast is posted, and has landed once every member has it.

R249, R252-R254, R376, R382: how a request ends. Its last segment lands, and with every byte moved its final status is 0x02; with a failure, that of the
failure; where its context has lost its slot or its budget it suspends, with status 0x03. A segment that fails takes its request's later ones with it. After
a failure every later request of the kick is skipped, with 0x88. A kick whose records are all final writes their statuses and leaves the queue. -/
def Obligations.LadleWorks : Prop :=
  (∀ (s : State) (cn : Nat) (k : Kick) (x : Crew),
    let c := s.core cn
    let r := requestOf k.next (c.spanBytes s.fresh k.crew (1024 * x.base + k.list + 32 * k.next) 28)
    let addr (kind : Nat) (a : Dword) : Prop := (kind = 1 → a.extractLsb' 22 10 = 0#10 ∧ a.extractLsb' 44 20 = 0#20) ∧
      (kind = 2 → a.extractLsb' 32 32 = 0#32) ∧ (kind = 3 → a.extractLsb' 24 8 = 0#8 ∧ a.extractLsb' 44 20 = 0#20)
    let wellFormed (z : Request) : Prop := z.len ≠ 0 ∧ z.len < 2 ^ 24 ∧ z.arr < 2 ^ 22 ∧ z.ctl.extractLsb' 28 4 = 0#4 ∧ addr z.sk z.src ∧
      (z.peer = false → addr z.dk z.dst) ∧ z.sk ≠ 3 ∧ z.mode ≠ 3 ∧
      (z.mode = 1 → z.dk ≠ 0 ∧ z.dk ≠ 2 ∧ z.arr % 16 = 0 ∧ 0x80000 ≤ z.arr ∧ z.arr ≤ 0xC9FF0) ∧ (z.mode = 2 → z.arr % 16 = 0) ∧
      (z.peer = true → z.dk = 0 ∧ z.mode ≠ 1)
    let reached (z : Request) : Prop := z.peer = true → z.device < 0xC0000 ∧ z.device ≠ s.deviceId ∧
      ∃ y ∈ (s.ctx k.ctx).conns, y.device = z.device ∧ y.failed = false ∧ y.closing = false
    let inside (z : Request) : Prop := (z.sk = 2 → z.src.toNat + z.len ≤ 1024 * x.g) ∧ (z.dk = 2 → z.dst.toNat + z.len ≤ 1024 * x.g) ∧
      (z.mode = 2 → z.arr + 16 ≤ 1024 * x.g)
    (∀ z, (¬ wellFormed z → s.startStatus k.ctx x.g z = some 0x81) ∧ (wellFormed z → ¬ reached z → s.startStatus k.ctx x.g z = some 0x85) ∧
      (wellFormed z → reached z → ¬ inside z → s.startStatus k.ctx x.g z = some 0x86) ∧
      (wellFormed z → reached z → inside z → s.startStatus k.ctx x.g z = none)) ∧
    (s.currentKick c = some k → c.kickCrew k = some x → k.next < k.count → s.kickGoes c k = true → c.owesAll k.warpUid k.afterSeq = false →
      (∀ q ∈ k.runs, q.suspended = false ∧ q.failed = none ∧ q.len ≤ q.startedBytes) → r.ordered = false ∨ k.runs = [] →
      (∀ st, s.startStatus k.ctx x.g r = some st →
        exec (.ladleRequestStart cn) s =
          .next { s.setCore cn (c.finishKick s.fresh (({ k with next := k.next + 1 } : Kick).final k.next st 0)) with fresh := s.fresh + 1 }) ∧
      (s.startStatus k.ctx x.g r = none →
        ∃ t, exec (.ladleRequestStart cn) s = .next t ∧ t = { s with cores := t.cores, fresh := s.fresh + 1 } ∧ (∀ n, n ≠ cn → t.core n = s.core n) ∧
          (t.core cn).kicks = (c.kicks.map fun y => if y.uid = k.uid then { k with next := k.next + 1, runs := k.runs ++ [r] } else y) ∧
          (x.swapped = true → t.core cn = { c with kicks := (t.core cn).kicks, swapped := (t.core cn).swapped } ∧ (t.core cn).swapped.map (·.1) = c.swapped.map (·.1)) ∧
          (x.swapped = false → ∀ a, Sparse.get 0#8 (t.core cn).scratch a =
            if 1024 * x.base + k.list + 32 * k.next + 28 ≤ a ∧ a < 1024 * x.base + k.list + 32 * k.next + 32 then
              (if a = 1024 * x.base + k.list + 32 * k.next + 31 then 0x01#8 else 0x00#8)
            else Sparse.get 0#8 c.scratch a))) ∧
    (∀ q from_ dsts, s.currentKick c = some k → c.kickCrew k = some x → s.kickGoes c k = true →
      (k.runs.find? fun r => r.failed.isNone && decide (r.startedBytes < r.len)) = some q → q.suspended = false → (k.runs.flatMap Request.flying).length < 8 →
      let n := min (q.len - q.startedBytes) (256 - (q.cut + q.startedBytes) % 256)
      s.kindSpan cn k x.base q.sk q.src q.startedBytes n false = .ok from_ →
      (if q.peer then .ok [] else s.kindSpan cn k x.base q.dk q.dst q.startedBytes n true : Span) = .ok dsts →
      (∀ a ∈ from_, ∀ g ∈ k.runs.flatMap Request.flying, ∀ b ∈ g.dsts, meets a b = false) → (∀ c off z, (Loc.window c off, z) ∈ dsts → s.pairHeld cn c = false) →
      s.segFails k.ctx q dsts = none → s.claimRead cn k.ctx (placeLines from_) = none →
      ∃ t g, exec (.ladleSegmentStart cn) s = .next t ∧
        g = { off := q.startedBytes, data := (s.grab k.ctx from_ ++ List.replicate n 0#8).take n, dsts := dsts, landed := false, posted := false, sent := s.fresh } ∧
        (t.core cn).kicks = (c.kicks.map fun y => if y.uid = k.uid then
          { k with runs := k.runs.map fun (z : Request) => if z.record = q.record then { z with startedBytes := q.startedBytes + n, segs := z.segs ++ [g] } else z }
          else y) ∧ SameBytes s t ∧ (t.core cn).scratch = c.scratch) ∧
    (∀ i q g, c.flying[i]? = some (k, q, g) → c.kickCrew k = some x → x.swapped = false →
      let q1 := q.onSeg { g with landed := true }
      (g.group = none → s.segFails k.ctx q g.dsts = none → s.claim cn k.ctx (placeLines g.dsts) = none →
        (∀ d off z, (Loc.window d off, z) ∈ g.dsts → s.overtakes cn d g.sent = false) →
        let s1 := s.landBytes cn k.ctx g
        let z := s1.countAll cn k x.base q1 q1.segs.length
        (∀ pa, g.dsts = [(.mem pa, g.data.length)] → (∀ j, j < g.data.length → s1.memByte (pa + j) = g.data.getD j 0#8) ∧
          ∀ a, a < pa ∨ pa + g.data.length ≤ a → s1.memByte a = s.memByte a) ∧
        ∃ t, exec (.ladleSegmentLand cn i) s = .next t ∧
          (z.2.segs ≠ [] → k.finals.length < k.count → SameBytes z.1 t ∧
            t.core cn = (z.1.core cn).putKick { k with runs := k.runs.map fun (y : Request) => if y.record = z.2.record then z.2 else y })) ∧
      (∀ grp off, g.group = some (grp, off) → g.posted = false → (∀ y ∈ q.flying, y.off < g.off → y.posted = true ∨ y.group = none) →
        ∃ t, exec (.ladleSegmentLand cn i) s = .next t ∧ SameBytes s t ∧
          t.deliveries = (s.postBroadcast (.seg cn k.uid q.record g.off) cn grp off g.data (if q.mode = 1 then some (q.arr, g.data.length) else none)).deliveries) ∧
      (∀ place, g.group = some place → g.posted = true →
        exec (.ladleSegmentLand cn i) s = .next (if s.onItsWay (.seg cn k.uid q.record g.off) then s else s.landed cn k x.base q1)))) ∧
  (∀ (s : State) (cn : Nat) (k : Kick) (x : Crew),
    let c := s.core cn
    (∀ i q g, c.flying[i]? = some (k, q, g) → c.kickCrew k = some x → x.swapped = false → g.group = none →
      (∀ st, s.segFails k.ctx q g.dsts = some st → exec (.ladleSegmentLand cn i) s =
        .next (s.landed cn k x.base { q with failed := some st, segs := q.segs.filter fun y => decide (y.off < g.off) })) ∧
      (s.segFails k.ctx q g.dsts = none → s.claim cn k.ctx (placeLines g.dsts) = none →
        (∀ d off z, (Loc.window d off, z) ∈ g.dsts → s.overtakes cn d g.sent = false) →
        exec (.ladleSegmentLand cn i) s = .next ((s.landBytes cn k.ctx g).landed cn k x.base (q.onSeg { g with landed := true })))) ∧
    (∀ q, let z := s.countAll cn k x.base q q.segs.length
      let k1 : Kick := { k with runs := k.runs.map fun (y : Request) => if y.record = q.record then z.2 else y }
      let ends (st : Nat) : Prop := ∃ t, s.landed cn k x.base q = t ∧ t = { z.1 with cores := t.cores, fresh := t.fresh, peerSegs := t.peerSegs } ∧
        t.core cn = (z.1.core cn).finishKick z.1.fresh (k1.final q.record st z.2.landedBytes) ∧ ∀ n, n ≠ cn → t.core n = z.1.core n
      z.2.segs = [] → z.2.record = q.record →
      (∀ st, z.2.failed = some st → ends st) ∧
      (z.2.failed = none → z.2.landedBytes = z.2.len → z.2.len ≤ z.2.startedBytes → ends (if z.2.lost then 0x87 else 0x02)) ∧
      (z.2.failed = none → z.2.startedBytes < z.2.len → z.2.landedBytes ≠ z.2.len → k.finals.length < k.count → ((z.1.core cn).putKick k1).kicks.find? (fun y => y.uid == k.uid) = some k1 →
        let t := { z.1.setCore cn ((z.1.core cn).putKick k1) with fresh := z.1.fresh + 1 }
        ∃ u : State, u.cores = t.cores ∧ u.fresh = t.fresh ∧ u = { t with peerSegs := u.peerSegs } ∧
          s.landed cn k x.base q = (if u.kickGoes (u.core cn) k1 then u else u.setCore cn ((u.core cn).suspend k1 z.2)))) ∧
    (∀ q, s.currentKick c = some k → c.kickCrew k = some x → (k.runs.find? fun r => r.failed.isNone && decide (r.startedBytes < r.len)) = some q →
      q.segs = [] →
      (s.kickGoes c k = false → q.suspended = false → exec (.ladleSegmentStart cn) s = .next (s.setCore cn (c.suspend k q))) ∧
      (s.kickGoes c k = true → q.suspended = true → exec (.ladleSegmentStart cn) s =
        .next (s.setCore cn ((c.putKick { k with runs := k.runs.map fun (y : Request) => if y.record = q.record then { y with suspended := false } else y
          }).putStatus k q.record 0x01 q.landedBytes)))) ∧
    (∀ q st pr, c.kickCrew k = some x → x.swapped = false → pr < 2 ^ 24 → st < 256 →
      leNat (Sparse.getAll 0#8 (c.putStatus k q st pr).scratch (1024 * x.base + k.list + 32 * q + 28) 4) = pr + st * 2 ^ 24) ∧
    (∀ q : Request, c.suspend k q = (c.putKick { k with runs := k.runs.map fun (y : Request) =>
      if y.record = q.record then { y with suspended := true } else y }).putStatus k q.record 0x03 q.landedBytes) ∧
    (∀ record st pr, let k' := k.final record st pr
      (record, st, pr) ∈ k'.finals ∧ (∀ r ∈ k'.runs, r.record ≠ record) ∧ k'.count = k.count ∧
      (st = 0x02 ∨ st = 0x87 → k'.finals = k.finals ++ [(record, st, pr)] ∧ k'.next = k.next) ∧
      (st ≠ 0x02 → st ≠ 0x87 → k'.next = k.count ∧ (∀ f ∈ k'.finals, record < f.1 → f.2.1 = 0x88) ∧
        (∀ r ∈ k'.runs, record < r.record → r.failed = some 0x88 ∧ r.segs ≠ []) ∧
        ∀ i, k.next ≤ i → i < k.count → record < i → ∃ f ∈ k'.finals, f.1 = i ∧ f.2.1 = 0x88)) ∧
    (k.finals.length < k.count → c.finishKick s.fresh k = c.putKick k) ∧
    (k.finals.length = k.count → (c.finishKick s.fresh k).kicks = c.kicks.filter (fun y => decide (y.uid ≠ k.uid)) ∧
      (c.kickCrew k = some x → x.swapped = false → k.completion = none → (k.finals.map (·.1)).Nodup →
        ∀ f ∈ k.finals, f.2.1 < 256 → f.2.2 < 2 ^ 24 →
          leNat (Sparse.getAll 0#8 (c.finishKick s.fresh k).scratch (1024 * x.base + k.list + 32 * f.1 + 28) 4) = f.2.2 + f.2.1 * 2 ^ 24)))

/-- R255, R381, R382: a peer segment that has landed is sent under the next number of its connection, in the peer's context; an acknowledged one is no longer outstanding; one that is not acknowledged in time marks its record, and counts a fault in its launch;
a segment from a peer is performed once and acknowledged, and its duplicate is discarded. -/
def Obligations.PeerSegments : Prop :=
  ∀ (s : State),
    let run (p : PeerSeg) := ((s.core p.core).kicks.find? fun k => k.uid == p.kick).bind fun k => (k.runs.find? fun r => r.record == p.record).map fun r => (k, r)
    (∀ k p, s.peerSegs[k]? = some p →
      exec (.peerAck k) s = .next { s with peerSegs := s.peerSegs.eraseIdx k } ∧
      ∃ t, exec (.peerAckTimeout k) s = .next t ∧ t.peerSegs.length = (s.peerSegs.eraseIdx k).length ∧
        (∀ y ∈ t.peerSegs, y.kick = p.kick → y.core = p.core → y.record = p.record → y.settled = true) ∧ t.launches = (s.countFault p.launch).launches ∧
        (t.core p.core).kicks = p.markKicks (s.core p.core).kicks ∧ (∀ n, n ≠ p.core → t.core n = s.core n) ∧ SameBytes s t ∧
        (run p = none →
          (p.holds (s.core p.core).crews = true → Sparse.get 0#8 (s.core p.core).scratch (p.place + 3) = 0x02#8 →
            Sparse.get 0#8 (t.core p.core).scratch (p.place + 3) = 0x87#8) ∧
          ∀ a, a ≠ p.place + 3 → Sparse.get 0#8 (t.core p.core).scratch a = Sparse.get 0#8 (s.core p.core).scratch a) ∧
        ∀ y x, run p = some y → (s.core p.core).kickCrew y.1 = some x → x.swapped = false → y.2.landedBytes < 2 ^ 24 →
          p.place = 1024 * x.base + y.1.list + 32 * y.2.record + 28 →
          Sparse.get 0#8 (t.core p.core).scratch (p.place + 3) = 0x87#8 ∧
          ∀ a, a < p.place ∨ p.place + 4 ≤ a → Sparse.get 0#8 (t.core p.core).scratch a = Sparse.get 0#8 (s.core p.core).scratch a) ∧
    (∀ cn k base r g y, r.peer = true → r.mode = 0 → ((s.ctx k.ctx).conns.find? fun z => z.device == r.device) = some y →
      let t := s.countSegment cn k base r g
      let va := r.dst + BitVec.ofNat 64 g.off
      t.out = s.out ++ [.peerSend r.device y.peerCtx y.sent va g.data] ∧
      (∃ p, t.peerSegs = s.peerSegs ++ [p] ∧ p.number = y.sent ∧ p.va = va ∧ p.data = g.data ∧ p.device = r.device ∧ p.kick = k.uid ∧ p.record = r.record) ∧
      ((t.ctx k.ctx).conns.find? fun z => z.device == r.device) = some { y with sent := y.sent + 1 }) ∧
    (∀ device ctx seqNo va data,
      ((device, seqNo) ∈ (s.ctx ctx).seen → exec (.peerSegmentReceive device ctx seqNo va data) s = .next s) ∧
      (∀ pa, (device, seqNo) ∉ (s.ctx ctx).seen → s.vaSpan 0 ctx s.nextUid va data.length true = .ok [(.mem pa, data.length)] →
        s.claim 0 ctx (placeLines [(.mem pa, data.length)]) = none → (∀ d ∈ s.deliveries, d.tag ≠ .peer device ctx seqNo) →
        ∃ t, exec (.peerSegmentReceive device ctx seqNo va data) s = .next t ∧ t.out = s.out ++ [.peerAck device seqNo] ∧
          (t.ctx ctx).seen = (s.ctx ctx).seen ++ [(device, seqNo)] ∧ (∀ j, j < data.length → t.memByte (pa + j) = data.getD j 0#8) ∧
          ∀ a, a < pa ∨ pa + data.length ≤ a → t.memByte a = s.memByte a))

/-- R267, R275, R286, R287, R295, R298: a row of a stream lands in its span and the row progress advances; the array takes the operation at the head of the
queue whose turn it is, when that can start and its deficit, with the 260 that a visit earns, covers its cost; an operation ends, its cycles passed, with its result in its tile, or in its crew's scratchpad, and the array is free. -/
def Obligations.ArrayWorks : Prop :=
  ∀ (s : State) (cn : Nat) (o : MatOp),
    let c := s.core cn
    (∀ r bs, s.headOp cn o.id = some o → o.blocked = false → o.opA.streams = true → c.serves o.ctx = true →
      s.spanRead cn o.opA.handle o.id = false → c.owesAll o.uid o.afterSeq = false → c.res.find o.opA.handle = some r →
      s.readRow cn o (o.opA.va + BitVec.ofInt 64 (o.opA.landed * o.opA.stride.toInt)) (rowLen r.desc) = .row bs →
      ∃ t, exec (.matrixRowLand cn o.id false) s = .next t ∧ (t.core cn).larder = putRow c.larder (1024 * r.base) r.desc o.opA.landed bs ∧
        t.headOp cn o.id = some { o with opA := { o.opA with landed := o.opA.landed + 1 } } ∧
        (t.core cn).res.find o.opA.handle = some (if r.serial = o.opA.serial then
          { r with progress := if o.opA.landed + 1 = 64 then 0 else o.opA.landed + 1 } else r) ∧
        SameBytes s t ∧ ∀ n, n ≠ cn → t.core n = s.core n) ∧
    (let qn := c.arrayTurn / 2 % 4
      let q := c.quad qn
      let d := q.deficit + if c.arrayTurn % 2 = 0 then 260 else 0
      ∀ rest, c.array = none → q.mq = o :: rest → s.startable cn o = true → matCost o.kind o.pr ≤ d →
        ∃ t, exec (.matrixComputeStart cn) s = .next t ∧ (t.core cn).array = some { o with doneAt := c.cycle + matCost o.kind o.pr } ∧ ((t.core cn).quad qn).mq = rest ∧
          ((t.core cn).quad qn).deficit = (if rest = [] then 0 else d - matCost o.kind o.pr) ∧ (t.core cn).arrayTurn = 2 * qn + 1 ∧ CoresOnly s t ∧
          (o.kind = .mmap → (t.core (cn + 1)).array = some { o with doneAt := (s.core (cn + 1)).cycle + matCost o.kind o.pr }) ∧
          (∀ n, n ≠ cn → (n ≠ cn + 1 ∨ o.kind ≠ .mmap) → t.core n = s.core n)) ∧
    (∀ e, c.array = some e → s.comes cn e.doneAt = false → exec (.matrixOpComplete cn) s = .next s) ∧
    (c.array = some o → ¬ (o.kind = .mmap ∧ cn % 2 = 1) → s.doneComes cn = true →
      let u := s.toDone cn o
      let mine (x : Tile) : Tile := { x with owner := some o.ctx }
      ∃ t, exec (.matrixOpComplete cn) s = .next t ∧ (t.core cn).array = none ∧ (o.kind = .mmap → (t.core (cn + 1)).array = none) ∧ SameBytes s t ∧
        (o.kind = .tzero → (t.core cn).tile o.tile = mine Tile.zero) ∧
        (∀ x, o.kind = .tnorm → (c.tile o.tile).norm = some x → (t.core cn).tile o.tile = mine x) ∧
        (∀ x, o.kind = .tld → tldTile (c.tile o.tile) o.fmt (locRow o.loc) (locRows o.loc) (u.xferIn cn o) = some x → (t.core cn).tile o.tile = mine x) ∧
        (o.kind = .tst → (t.core cn).tiles = c.tiles ∧
          ∀ k, locKind o.loc = 0 → c.crews.find o.crew = some k →
            (t.core cn).scratch = Sparse.setAll 0#8 c.scratch (1024 * k.base + 16 * (o.loc.extractLsb' 0 18).toNat)
              (tstBytes (c.tile o.tile) o.fmt (locRow o.loc) (locRows o.loc))) ∧
        (o.kind = .tchk → (t.core cn).tiles = c.tiles ∧ ∀ w k p, s.warp cn o.quad o.warp = some w → w.uid = o.uid → w.div.slot k = some p → k ≤ 1 →
          p.wait = .tchk o.id → ∃ w' p' bad, t.warp cn o.quad o.warp = some w' ∧ w'.div.slot k = some p' ∧ p'.wait = .tchked bad ∧
            (bad = none ↔ (c.tile o.tile).badRow = 64 ∧ (c.tile o.tile).badCol = 64)) ∧
        (o.kind = .mmap → o.bad = false → (s.core (cn + 1)).array.any (·.bad) = false →
          let f := u.core (cn + 1)
          let r := matrixStep ((u.core cn).side u.fresh o.opA o.pr false) [(u.core cn).side u.fresh o.opB o.pr true, f.side u.fresh o.opB2 o.pr true]
            [c.tile o.tile, f.tile o.tile] none
          (t.core cn).tile o.tile = mine (r.1.getD 0 Tile.zero) ∧ (t.core (cn + 1)).tile o.tile = mine (r.1.getD 1 Tile.zero)) ∧
        (o.kind = .mma → o.bad = false →
          let r := matrixStep ((u.core cn).side u.fresh o.opA o.pr false) [(u.core cn).side u.fresh o.opB o.pr true] [c.tile o.tile] none
          ((t.core cn).tile o.tile = mine (r.1.getD 0 Tile.zero)) ∧
          (r.2 = none → ∀ q n, (t.warp cn q n).map (·.trap.deferred) = (s.warp cn q n).map (·.trap.deferred))) ∧
        c.cycle ≤ (t.core cn).cycle ∧ o.doneAt ≤ (t.core cn).cycle)

/-- R240, R241: firmware takes the first record of a context's map request queue. One whose number does not follow the last accepted is skipped; else it is
accepted, with status 1, and sets the last number. A step later a refused one gets its refusal's number with bit 31, and changes no page; an unmap or a
protect whose range has accesses on their way waits; any other gets status 2 as it takes effect.

R233, R240, R243: what a walk of the context's table finds after a map request that is not refused: fresh zeroed pages with the permissions asked for (op 0);
nothing (1); the same pages with other permissions (2); first-touch pages (3); migrating pages (4); the windows of consecutive cores (5); the broadcast window of
a group (6). A walk to any other address finds what it found. The tables stand as firmware keeps them: in its own memory, which no mapped page meets.

R238, R243, R245: a page that has been pulled is mapped where firmware chose, with the bytes that came and zeros elsewhere, and the pull is over; a pull that fails
poisons its page; a take maps its first-touch page and answers the PGTAKE that waits, and what it drew goes back where the page is mapped already; a peer's
pull is answered with the bytes of a readable page of the device, and refused otherwise. -/
def Obligations.PageEvents : Prop :=
  (∀ (s : State) (ctx pa : Nat) (va : Dword) (vas : List Dword) (f : List Byte),
    ∀ e ∈ ([(.mapMemory ctx pa, 0, pa), (.unmap ctx, 1, 0), (.protect ctx, 2, 0), (.grantFirstTouch ctx, 3, 0), (.migrateIn ctx, 4, 0),
      (.mapCoreWindows ctx, 5, 0), (.mapBroadcastWindow ctx, 6, 0)] : List (Instr × Nat × Nat)),
    let x := s.ctx ctx
    let r := mapReqOf f
    let wrote (status : Nat) (u : State) : Prop := s.writeVa 0 false ctx (va.toNat + 28) (toLe status 4) = .done u
    (x.mapq = [] → exec e.1 s = .next s) ∧
    (x.mapq = va :: vas → x.accepted = none → s.fetchVa ctx va.toNat 32 = .bad → exec e.1 s = .next (s.mapPop ctx)) ∧
    (x.mapq = va :: vas → x.accepted = none → s.fetchVa ctx va.toNat 32 = .ok f →
      (follows r.seqNo x.lastSeq = false → exec e.1 s = .next (s.setCtx ctx { x with mapq := vas })) ∧
      (follows r.seqNo x.lastSeq = true → r.op ≤ 6 → r.op ≠ e.2.1 → exec e.1 s = .next s) ∧
      (∀ u, follows r.seqNo x.lastSeq = true → r.op = e.2.1 ∨ 6 < r.op → wrote 1 u →
        ∃ t, exec e.1 s = .next t ∧ t.mem = u.mem ∧ t.tenants = s.tenants ∧ t.ctx ctx = { x with lastSeq := r.seqNo, accepted := some f })) ∧
    (x.mapq = va :: vas → x.accepted = some f → r.op = e.2.1 ∨ 6 < r.op →
      (∀ c u, s.mapRefusal ctx r = some c → wrote (0x80000000 + c) u →
        ∃ t, exec e.1 s = .next t ∧ t.mem = u.mem ∧ t.tenants = s.tenants ∧ t.ctx ctx = { x with mapq := vas, accepted := none }) ∧
      (s.mapRefusal ctx r = none → r.op = 1 ∨ r.op = 2 → s.rangeBusy ctx r = true → exec e.1 s = .next s) ∧
      (s.mapRefusal ctx r = none → r.op = 0 → s.mapFresh ctx r.size pa (r.perm % 8) r.pages = none → e.2.2 = pa → exec e.1 s = .next s) ∧
      (∀ u, s.mapRefusal ctx r = none → (r.op = 0 → s.mapFresh ctx r.size pa (r.perm % 8) r.pages ≠ none) → (r.op = 1 ∨ r.op = 2 → s.rangeBusy ctx r = false) → wrote 2 u →
        ∃ t, exec e.1 s = .next t ∧ t = (u.mapApply ctx e.2.2 r).mapPop ctx ∧ (t.ctx ctx).mapq = vas ∧
          (t.ctx ctx).lastSeq = x.lastSeq ∧ (t.ctx ctx).accepted = none ∧
          (r.op = 0 → (t.tenant (ctx / 64)).grant = (s.tenant (ctx / 64)).grant - r.len / 0x10000) ∧
          (r.op = 2 ∨ r.op = 3 ∨ r.op = 5 ∨ r.op = 6 → t.tenants = s.tenants) ∧
          (r.op = 4 → (t.ctx ctx).sources = (x.sources.filter fun y => !r.pages.contains y.1) ++ r.pages.map fun v => (v, r.arg, r.perm))))) ∧
  (∀ (s : State) (ctx pa : Nat) (r : MapReq), s.tablesSound ctx (3 * r.pages.length + 1) → s.mapRefusal ctx r = none →
    (∀ v z e, s.walk ctx v = .leaf z e → isHbm (leafPa z e v) = true → leafPa z e v + 1 ≤ 0x03EF00000000) →
    (r.op = 0 → s.mapFresh ctx r.size pa r.perm r.pages ≠ none) →
    let t := s.mapApply ctx pa r
    let page (x : Nat) := x % 2 ^ 48 / pageSize r.size
    let perms (e : Dword) : Prop := e.extractLsb' 2 3 = BitVec.ofNat 3 r.perm
    let changed (e : Dword) : Dword := (e &&& ~~~0x1C#64) ||| BitVec.ofNat 64 (4 * r.perm)
    (∀ x, (∀ v ∈ r.pages, page x ≠ page v) → t.walk ctx x = s.walk ctx x) ∧
    (∀ v ∈ r.pages, ∀ x, v ≤ x → x < v + pageSize r.size →
      (r.op = 0 → ∃ e, t.walk ctx x = .leaf r.size e ∧ perms e ∧ t.memByte (leafPa r.size e x) = 0#8) ∧
      (r.op = 1 → t.walk ctx x = .unmapped) ∧
      (r.op = 2 → (∀ z e, s.walk ctx x = .leaf z e → t.walk ctx x = .leaf z (changed e)) ∧
        (∀ z e, s.walk ctx x = .firstTouch z e → t.walk ctx x = .firstTouch z (changed e)) ∧
        (∀ z e, s.walk ctx x = .poisoned z e → t.walk ctx x = .poisoned z (changed e)) ∧
        ∀ z e, s.walk ctx x = .migrating z e → t.walk ctx x = .migrating z (changed e)) ∧
      (r.op = 3 → ∃ e, t.walk ctx x = .firstTouch r.size e ∧ perms e) ∧
      (r.op = 4 → ∃ e, t.walk ctx x = .migrating r.size e ∧ perms e) ∧
      (r.op = 5 → ∃ e, t.walk ctx x = .leaf 1 e ∧ perms e ∧ leafPa 1 e x = 0x800000000000 + 0x400000 * r.arg + (x - r.va.toNat)) ∧
      (r.op = 6 → ∃ e, t.walk ctx x = .leaf 1 e ∧ perms e ∧ leafPa 1 e x = 0xA00000000000 + 0x1000000 * r.arg + (x - r.va.toNat)))) ∧
  (∀ (s : State) (k pa : Nat),
    (∀ p z e data, s.pulls.find k = some p → s.walk p.ctx p.va = .migrating z e →
      let poked (u : State) := data.foldl (fun (u : State) (b : Nat × Byte) => if b.1 < pageSize z then u.pokeMem (pa + b.1) [b.2] else u) u
      (s.reaches p.ctx p.device = false ∨ s.freshPlace (p.ctx / 64) pa (pageSize p.size) p.size = false → exec (.pagePullComplete k pa data) s = .next s) ∧
      (s.reaches p.ctx p.device = true → s.freshPlace (p.ctx / 64) pa (pageSize p.size) p.size = true →
        ∃ t, exec (.pagePullComplete k pa data) s = .next t ∧
          t = (poked { (s.wipe pa (pageSize z)).setLeaf p.ctx p.va z (pa + 3 + 4 * (e.extractLsb' 2 3).toNat) with
            frames := s.frames ++ [(p.ctx / 64, pa, pageSize z)], undrawn := s.undrawn ++ [pa] }).endPull k p ∧
          t.pulls.find k = none ∧ (∀ y ∈ (t.ctx p.ctx).sources, y.1 ≠ p.va) ∧
          (∀ u, ((data.map (·.1)).Nodup → ∀ b ∈ data, b.1 < pageSize z → (poked u).memByte (pa + b.1) = b.2) ∧
            ∀ a, (∀ b ∈ data, pa + b.1 ≠ a) → (poked u).memByte a = u.memByte a) ∧
          (∀ j, j < pageSize z → (s.wipe pa (pageSize z)).memByte (pa + j) = 0#8) ∧
          ∀ a, a < pa ∨ pa + pageSize z ≤ a → (s.wipe pa (pageSize z)).memByte a = s.memByte a) ∧
      ∃ t, exec (.pagePullTimeout k) s = .next t ∧ t = (s.setLeaf p.ctx p.va z (0x42 + 4 * (e.extractLsb' 2 3).toNat)).endPull k p ∧ t.pulls.find k = none) ∧
    (∀ x z e, s.takes.find k = some x → x.result = none →
      let ends (u : State) (c : Word) : Prop := ∃ t, exec (.pageTakeComplete k pa) s = .next t ∧ t = { u with takes := t.takes } ∧
        (u.takeAwaited k = true → t.takes.find k = some { x with result := some c }) ∧ (u.takeAwaited k = false → t.takes.find k = none)
      (s.walk x.ctx x.va = .firstTouch z e → z = x.size → s.freshPlace (x.ctx / 64) pa (pageSize z) z = true → ends (s.takePage x.ctx x.va z e pa) 0) ∧
      (s.walk x.ctx x.va = .firstTouch z e → z ≠ x.size → ends (s.refundTake x) 2) ∧
      (s.walk x.ctx x.va = .leaf z e → ends (s.refundTake x) 3) ∧ (s.walk x.ctx x.va = .unmapped → ends (s.refundTake x) 2)) ∧
    (∀ device ctx va z e, canonical (BitVec.ofNat 64 va) = true → s.walk ctx va = .leaf z e →
      let p := leafPa z e (va / pageSize z * pageSize z)
      (permits e .read = true → isHbm p = true → s.claimRead 0 ctx (linesFrom p (pageSize z)) = none → exec (.peerPullRequest device ctx va) s =
        .next { s with out := s.out ++ [.pageData device va (s.rangeBytes p (pageSize z))], fresh := s.fresh + 1 }) ∧
      (permits e .read = false ∨ isHbm p = false → exec (.peerPullRequest device ctx va) s = .next { s with out := s.out ++ [.pageRefused device va] })) ∧
    (∀ device ctx va, canonical (BitVec.ofNat 64 va) = false ∨ s.walk ctx va = .unmapped →
      exec (.peerPullRequest device ctx va) s = .next { s with out := s.out ++ [.pageRefused device va] }))

/-! ### Events of firmware and the host -/

/-- R303-R316, R337, R394: in minimal mode, and until a start has ended, no table is installed. Else firmware installs a table that passes its checks, at once or where the table in force next comes to the end of its cycle. The drain of a core begins
2,000 ns before an edge that passes it to another tenant: no in-lane handler goes on. When every warp has stopped and none can still end, the compute that has begun may end and no tick of the sampler is due,
the tenant's state is saved and the
core is cleared: no register, granule, tile, reservation, crew or warp is left. A slice begins at an edge: the tenant that the table names holds the core,
with its access table, its saved state as it was, and its budgets anew less what it owes, and what was withheld for it is released; where the table
names none the core is idle. -/
def Obligations.SlicesOfTheTable : Prop :=
  (∀ (s : State) (image : List (Nat × Byte)) (groups : List (Nat × Nat)) (sums : Bool),
    let x := slotTableOf image
    let with_ (k : Slots) : State := { s with slots := k, groups := allotGroups groups, health := { s.health with checksumMode := sums } }
    (s.boot.minimal = true ∨ s.boot.starting = true ∨ tableOk sums x = false → exec (.slotTableInstall ⟨image, groups, sums⟩) s = .next s) ∧
    (s.boot.minimal = false → s.boot.starting = false → tableOk sums x = true → s.tableAt s.time = none →
      exec (.slotTableInstall ⟨image, groups, sums⟩) s = .next (with_ { table := some x, next := none, switch := 0 })) ∧
    (∀ old, s.boot.minimal = false → s.boot.starting = false → tableOk sums x = true → s.tableAt s.time = some old → 0 < slotCycle old →
      ∃ e, s.time < e ∧ e ≤ max s.time old.epoch + slotCycle old ∧ old.epoch < e ∧ (e - old.epoch) % slotCycle old = 0 ∧
        exec (.slotTableInstall ⟨image, groups, sums⟩) s = .next (with_ { table := some old, next := some { x with epoch := e }, switch := e }))) ∧
  (∀ (s s1 : State) (cn : Nat), (s.core cn).phase = .running → s.edgeDrains cn (s.core cn) = true → s.reach ((s.core cn).sliceEnd - 2000) = some s1 →
    ∃ t, exec (.drainStart cn) s = .next t ∧ (t.core cn).phase = .draining ∧ t.time = max s.time ((s.core cn).sliceEnd - 2000) ∧
      t = { s with cores := t.cores, time := t.time } ∧ (∀ n, n ≠ cn → t.core n = s.core n) ∧ (t.core cn).scratch = (s.core cn).scratch ∧
      ∀ qn wn w, t.warp cn qn wn = some w → w.handler = none) ∧
  (∀ (s : State) (cn tenant : Nat), (s.core cn).phase = .draining → (s.core cn).tenant = some tenant →
    (∀ q ∈ (s.core cn).quads, ∀ w ∈ q.2.warps, s.warpDrained cn (s.core cn) q.2 w.2 = true) → s.workComes cn = true →
    let v := (s.settleWork cn).flushRecords cn
    let u1 := (v.spillBins cn).1.stopWarps cn
    let u := u1.setCore cn (u1.core cn).suspendAll
    (v.core cn).flying = [] → (v.core cn).sampler.queue = [] → v.time ≤ (v.core cn).sliceEnd →
    ((v.spillBins cn).2 = false → exec (.drainComplete cn) s = .next (v.spillBins cn).1) ∧
    ((v.spillBins cn).2 = true → ∃ t, exec (.drainComplete cn) s = .next t ∧ (t.core cn).phase = .idle ∧ (t.core cn).tenant = none ∧ (t.core cn).saved = (u.core cn).saved ++ [u.saveOf cn tenant] ∧
      (t.core cn).scratch = [] ∧ (t.core cn).larder = [] ∧ (t.core cn).tiles = [] ∧ (t.core cn).res = [] ∧ (t.core cn).crews = [] ∧ (t.core cn).l1 = [] ∧
      (t.core cn).kicks = [] ∧ (∀ qn j, Sparse.get 0#32 ((t.core cn).quad qn).rf j = 0#32) ∧ (∀ qn wn, t.warp cn qn wn = none) ∧
      (∀ e ∈ (t.cluster (cn / 8)).tlb, e.ctx / 64 ≠ tenant) ∧ SameBytes u t)) ∧
  (∀ (s s1 : State) (cn i stop : Nat) (e : SlotEntry) (tab : SlotTable), s.slots.table = some tab → cn < 2688 →
    s.reach (if (s.core cn).sliceEnd = 0 then ((s.tableAt s.time).map (·.epoch)).getD 0 else (s.core cn).sliceEnd) = some s1 →
    s1.entryAt s1.time = some (i, e, stop) →
    ((s.core cn).phase = .idle → s1.tenantAt cn s1.time = none →
      exec (.sliceStart cn) s = .next (s1.setCore cn { s.core cn with sliceEnd := stop, tenant := none, phase := .idle })) ∧
    (∀ tenant, (s.core cn).phase = .idle → s1.tenantAt cn s1.time = some tenant → tenant < 64 →
      ∃ u, exec (.sliceStart cn) s = .next (u.releaseDue tenant) ∧ u.due = s.due ∧ SameBytes s u ∧
        (u.core cn).phase = .running ∧ (u.core cn).tenant = some tenant ∧ (u.core cn).sliceEnd = stop ∧
        (u.core cn).access = ((s.tenant tenant).access.find cn).getD [] ∧ (u.core cn).donated = [] ∧
        (∀ n ∈ nodesOf tenant, limited (s.grant n).issue = true → ∀ qn, qn < 4 →
          Sparse.get 0 ((u.core cn).quad qn).left n = (s.grant n).issue + min 0 (Sparse.get 0 ((s.core cn).quad qn).left n)) ∧
        ∀ x, (s.core cn).saved.find? (fun x => x.tenant == tenant) = some x →
          (u.core cn).scratch = x.scratch ∧ (u.core cn).larder = x.larder ∧ (u.core cn).res = x.res ∧ (u.core cn).tiles = x.tiles ∧ (u.core cn).crews = x.crews ∧
          (u.core cn).kicks = x.kicks ∧ (u.core cn).hazes = x.hazes ∧ (∀ y ∈ (u.core cn).saved, y.tenant ≠ tenant) ∧
          ∀ w ∈ x.warps, (∀ v ∈ x.warps, v.quad = w.quad → v.slot = w.slot → v = w) → u.warp cn w.quad w.slot = some w.warp) ∧
    (∀ tenant, (s.core cn).phase = .running → s.edgeDrains cn (s.core cn) = false → s1.tenantAt cn s1.time = some tenant →
      ∃ u, exec (.sliceStart cn) s = .next (u.releaseDue tenant) ∧ u.due = s.due ∧ SameBytes s u ∧
        (u.core cn).phase = .running ∧ (u.core cn).tenant = (s.core cn).tenant ∧ (u.core cn).sliceEnd = stop ∧
        (u.core cn).scratch = (s.core cn).scratch ∧ (u.core cn).crews = (s.core cn).crews ∧ ∀ qn wn, u.warp cn qn wn = s.warp cn qn wn))

/-- R345-R348, R379: firmware takes the commands of a function one at a time; an unknown code, or reserved bytes that are not zero, end with status 1; the final
status is written last, and the function's vector 0 raised with it. A registered queue is new and empty; a queue slot that has lost its copy of the tail line reads the tail
again, and a tail that falls, runs too far ahead or cannot be read stops the queue, with status 4 and the queue's number for the host; every write that removes copies of a line
removes those of slots. Once in a quantum of 100 us a waiting queue with work takes a hardware slot and an empty one, of which no record is being read, gives its slot
up; an unregistered queue stops after its current launch.

R346, R349-R354: the head record of a mapped queue, read granule by granule, becomes a launch once the whole of it has been read, its number following the queue's; it starts when its predecessor and dependence let it,
its image is good and no check refuses it, taking its pool from the grant; a refused launch completes at once with its status. A launch whose warps,
waiting threads, peer requests and children are gone completes, with status 2 where a trap ended it, else 1 where it has faults, else 0; its record, signal and
interrupt arise in that order, withheld while its context holds no slice. -/
def Obligations.QueuesAndLaunches : Prop :=
  ((∀ (s : State) (i : Instr) (m : Mail) (code : Nat), mailOf i = some (m, code) →
    (¬ s.accepts m code → exec i s = .next s) ∧
    (s.accepts m code → m.code = 0 ∨ 8 < m.code → exec i s = .next ((s.taken m).mailbox m 1)) ∧
    (s.accepts m code → m.code ≠ 0 → m.code ≤ 8 → m.code ≠ code → exec i s = .next s) ∧
    (s.accepts m code → m.code = code → m.reservedZero = false → exec i s = .next ((s.taken m).mailbox m 1))) ∧
  (∀ (s : State) (m : Mail) (st : Nat),
    let t := s.mailbox m st
    t = { s with contexts := t.contexts, out := s.out ++ [.mailbox m.port m.ctx (BitVec.ofNat 32 st), .msix m.ctx 0] } ∧
      t.ctx m.ctx = { s.ctx m.ctx with mail := (t.ctx m.ctx).mail } ∧
      (t.ctx m.ctx).mail.find m.port = some { area := (s.boxOf m).area, status := BitVec.ofNat 32 st, busy := none } ∧
      (∀ p, p ≠ m.port → (t.ctx m.ctx).mail.find p = (s.ctx m.ctx).mail.find p) ∧ ∀ c, c ≠ m.ctx → t.ctx c = s.ctx c) ∧
  (∀ (s : State) (keep line : Nat), ∀ q ∈ (s.invalidateOthers keep line).queues, q.tailLine ≠ some line ∧
    (q ∈ s.queues ∨ ∃ p ∈ s.queues, p.tailLine = some line ∧ q = { p with reread := true, tailLine := none })) ∧
  ∀ (s : State) (ctx n : Nat) (q : Queue),
    let lineFor (x : State) : Option Nat := match x.translate 0 false ctx .read q.desc.tailVa.toNat with
      | .ok (.mem pa) => some (lineOf pa)
      | _ => none
    let read (bs : List Byte) (x : State) (since : Nat) : Queue := { q with tail := leNat bs, reread := false, tailLine := lineFor x, since := since }
    let fits (bs : List Byte) : Prop := q.tail ≤ leNat bs ∧ leNat bs ≤ q.head + q.desc.capacity
    (s.queue ctx n = some q → q.reread = false ∨ q.mapped = false ∨ q.stopped = true ∨ s.holdsSlice ctx = false → exec (.tailReread ctx n) s = .next s) ∧
    (s.queue ctx n = some q → q.desc.ctx = ctx → q.desc.number = n → q.mapped = true → q.stopped = false → q.reread = true → s.holdsSlice ctx = true →
      (s.fetchVa ctx q.desc.tailVa.toNat 8 = .bad ∨ (∃ bs, s.fetchVa ctx q.desc.tailVa.toNat 8 = .ok bs ∧ ¬ fits bs) →
        ∃ t, exec (.tailReread ctx n) s = .next t ∧ t = { s with queues := t.queues, contexts := t.contexts, out := t.out } ∧
          t.out = s.out ++ [.mailbox q.port ctx 4#32, .msix ctx 0] ∧ t.queue ctx n = some { q with stopped := true, mapped := false, part := [] } ∧
          ∃ b, (t.ctx ctx).mail.find q.port = some b ∧ b.status = 4#32 ∧ b.area = Sparse.setAll 0#8 (s.boxOf ⟨q.port, ctx, 0, true⟩).area 4 (toLe n 4)) ∧
      (∀ bs, s.fetchVa ctx q.desc.tailVa.toNat 8 = .ok bs → fits bs → ∃ t, exec (.tailReread ctx n) s = .next t ∧ t = { s with queues := t.queues } ∧
        t.queue ctx n = some (read bs s q.since))) ∧
    (s.holdsSlice ctx = false ∨ (s.ctx ctx).quantum = s.time / 100000 + 1 → exec (.queueQuantum ctx) s = .next s) ∧
    (∀ qs, s.holdsSlice ctx = true → (s.ctx ctx).quantum ≠ s.time / 100000 + 1 → s.queues = qs ++ [q] → (∀ x ∈ qs, x.desc.ctx ≠ ctx) → q.desc.ctx = ctx →
      q.stopped = false → q.closing = false →
      let u := s.setCtx ctx { s.ctx ctx with quantum := s.time / 100000 + 1 }
      (∀ bs, q.mapped = false → u.fetchVa ctx q.desc.tailVa.toNat 8 = .ok bs → fits bs → leNat bs ≠ q.head →
        exec (.queueQuantum ctx) s = .next { u with queues := qs ++ [{ read bs u s.time with reread := true, mapped := true }] }) ∧
      (∀ bs, q.mapped = false → u.fetchVa ctx q.desc.tailVa.toNat 8 = .ok bs → fits bs → leNat bs = q.head →
        exec (.queueQuantum ctx) s = .next { u with queues := qs ++ [read bs u q.since] }) ∧
      (q.mapped = true → q.tail = q.head → q.part = [] →
        exec (.queueQuantum ctx) s = .next { u with queues := qs ++ [{ q with mapped := false, since := s.time }] }) ∧
      (q.mapped = true → q.tail ≠ q.head ∨ q.part ≠ [] → exec (.queueQuantum ctx) s = .next u)) ∧
    (∀ (m : Mail) (bits : BitVec 512), s.obeys m 1 →
      let d := queueDescOf bits
      let v := s.taken m
      (d.reservedZero = false → exec (.registerQueue m bits) s = .next (v.mailbox m 1)) ∧
      (d.reservedZero = true → queueOk d m.ctx = false ∨ (∃ x, s.queue m.ctx d.number = some x ∧ x.stopped = false) →
        exec (.registerQueue m bits) s = .next (v.mailbox m 2)) ∧
      (d.reservedZero = true → queueOk d m.ctx = true → (∀ x, s.queue m.ctx d.number = some x → x.stopped = true) →
        ∃ (t : State) (x : Queue), exec (.registerQueue m bits) s = .next (t.mailbox m 0) ∧ t = { v with queues := t.queues } ∧ t.queue m.ctx d.number = some x ∧
          x = { desc := d, head := 0, tail := 0, stopped := false, mapped := false, reread := true, closing := false, since := s.time, port := m.port,
                tailLine := none, part := [] } ∧
          ∀ c k, ¬ (c = m.ctx ∧ k = d.number) → t.queue c k = s.queue c k)) ∧
    (∀ m : Mail, s.obeys m 2 → m.ctx = ctx →
      let v := s.taken m
      (s.queue ctx n = none → exec (.unregisterQueue m n) s = .next (v.mailbox m 2)) ∧
      (s.queue ctx n = some q → (∀ L ∈ s.launches, L.2.ctx = ctx → L.2.queue = n → L.2.complete = true) →
        ∃ t : State, exec (.unregisterQueue m n) s = .next (t.mailbox m 0) ∧ t = { v with queues := t.queues } ∧ t.queue ctx n = none) ∧
      (s.queue ctx n = some q → (∃ L ∈ s.launches, L.2.ctx = ctx ∧ L.2.queue = n ∧ L.2.complete = false) →
        ∃ t : State, exec (.unregisterQueue m n) s = .next (t.mailbox m 0) ∧ t = { v with queues := t.queues } ∧ t.queue ctx n = some { q with closing := true }))) ∧
  (∀ (s : State) (ctx n : Nat) (q : Queue),
    let m := if n = 0x3FF then 0xFFFF else n
    let pending := (s.launches.filter fun L => L.2.ctx == ctx && L.2.queue == m && !L.2.started && !L.2.complete).map (·.1)
    let pool (L : Launch) : Nat := (s.tenant (L.ctx / 64)).grant
    (s.queueStopped ctx m = true ∨ s.holdsSlice ctx = false → exec (.launchStart ctx n) s = .next s) ∧
    (s.queueStopped ctx m = false → s.holdsSlice ctx = true → pending ≠ [] →
      exec (.launchStart ctx n) s = .next (pending.foldl State.startLaunch s)) ∧
    (n ≠ 0x3FF → s.queue ctx n = some q → q.desc.ctx = ctx → q.desc.number = n → q.stopped = false → q.closing = false → q.mapped = true →
      s.holdsSlice ctx = true → pending = [] →
      (q.reread = true ∨ q.tail ≤ q.head → exec (.launchStart ctx n) s = .next s) ∧
      (∀ f, q.reread = false → q.head < q.tail → q.part.length < 128 → q.part.length % 8 = 0 →
        let size := 8 * (1 + Config.freeNat s.fresh 128 % (16 - q.part.length / 8))
        s.fetchVa ctx (q.desc.ring.toNat + 128 * (q.head % q.desc.capacity) + q.part.length) size = .ok f →
        0 < size ∧ q.part.length + size ≤ 128 ∧
        (q.part.length + size < 128 →
          exec (.launchStart ctx n) s = .next { s.setQueue { q with part := q.part ++ f } with fresh := s.fresh + 1 }) ∧
        (∀ v p, q.part.length + size = 128 → s.postVa ctx q.desc.headVa.toNat (toLe (q.head + 1) 8) = .done v → v.queue ctx n = some p → p.stopped = false →
          let u := ({ v with launches := v.launches.put v.nextUid (Launch.read ctx n q.head none (launchRecOf (q.part ++ f) false)), nextUid := v.nextUid + 1 } : State).setQueue
            { p with head := q.head + 1, part := [] }
          exec (.launchStart ctx n) s = .next (u.startLaunch v.nextUid)))) ∧
    (∀ uid L x, s.launches.find uid = some L → L.started = false → L.complete = false → s.predecessorOk uid L = true → s.depOf uid L ≠ .waits →
      L.rcd.reservedOk = true → s.readImage L.ctx L.rcd.image.toNat = .ok x → s.launchFails uid L (some x) = none → (∀ c ∈ L.cores, (s.core c).suspect = false) →
      let t := s.startLaunch uid
      ∃ L', t.launches.find uid = some L' ∧ L'.started = true ∧ L'.complete = false ∧ L'.startTime = s.time ∧ L'.entryOff = x.entry ∧ L'.codeSize = x.size ∧
        L'.crewSize = x.crew ∧ L'.granules = x.granules ∧ L'.sites = x.sites ∧ L'.rcd.allot = (if L.rcd.allot = 0 then x.allot else L.rcd.allot) ∧
        L'.pool = L.rcd.pool ∧ (t.tenant (L.ctx / 64)).grant = pool L - L.rcd.pool ∧ t.mem = s.mem ∧ ∀ c, c ∉ L.cores → t.core c = s.core c) ∧
    (∀ uid L st, s.launches.find uid = some L → L.started = false → L.complete = false → s.predecessorOk uid L = true → s.depOf uid L ≠ .waits →
      L.rcd.reservedOk = true → (∃ x, s.readImage L.ctx L.rcd.image.toNat = .ok x ∧ s.launchFails uid L (some x) = some st) ∨
        (s.readImage L.ctx L.rcd.image.toNat = .bad ∧ s.launchFails uid L none = some st) →
      s.startLaunch uid = s.endLaunch uid { L with startTime := s.time } st) ∧
    (∀ uid L, s.launches.find uid = some L → L.started = false → L.complete = false → s.predecessorOk uid L = true → s.depOf uid L ≠ .waits →
      L.rcd.reservedOk = false → s.startLaunch uid = s.endLaunch uid { L with startTime := s.time } 0x10) ∧
    (∀ uid L, s.launches.find uid = some L → L.started = true → L.complete = false → L.ended = true ∨ L.created.length = (L.rcd.threads + 31) / 32 →
      (∀ c ∈ s.cores, c.2.clearOf uid = true) → (∀ p ∈ s.peerSegs, p.launch ≠ uid) → (∀ x ∈ s.launches, x.2.parent = some uid → x.2.complete = true) →
      exec (.launchComplete uid) s = .next (s.endLaunch uid L (if L.ended then 2 else if L.faults = 0 then 0 else 1))) ∧
    (∀ uid L st, s.launches.find uid = some L → s.holdsSlice L.ctx = false →
      let t := s.endLaunch uid L st
      let L' : Launch := { L with status := BitVec.ofNat 32 st, complete := true, endTime := s.time }
      t.launches.find uid = some { L' with pool := 0 } ∧ (t.tenant (L.ctx / 64)).grant = pool L + L.pool ∧ t.mem = s.mem ∧
        t.due = s.due ++ (if L.rcd.completion = 0#64 then [] else [.record L.ctx L.rcd.completion L'.recordBytes]) ++
          (if L.rcd.signal = 0#64 then [] else [.signal L.ctx L.rcd.signal (if L.queue = 0xFFFF then L.rcd.id.setWidth 64 else BitVec.ofNat 64 (L.index + 1))]) ++
          (match s.queue L.ctx L.queue with
            | some q => if L.rcd.interrupt then [.interrupt L.ctx q.desc.vector] else []
            | none => [])))

/-- R160, R292, R293, R333-R339, R342, R354: of a warp's deferred faults the first issued is raised; watchpoint matches of one instruction are reported as one trap, with the lowest
comparator and the lowest lane's address, once the run boundary after the last lane has come; firmware's resume waits for a slice, checks the warp's edited state, gives a service's result, and issues the word again for the
replay mask; a launch that took an End trap is ended: its warps stop, and its waiting threads and queued operations are gone. -/
def Obligations.TrapsAndResumes : Prop :=
  ∀ (s : State) (cn qn wn : Nat) (w : Warp), s.warp cn qn wn = some w →
    (∀ d, firstDeferred w.trap.deferred = some d → w.trap.halted = false → ((s.core cn).quad qn).mayDefer wn w = true →
      ∃ t w', exec (.deferredFaultRaise cn qn wn) s = .next t ∧ t.warp cn qn wn = some w' ∧ w'.trap.cause = BitVec.ofNat 9 d.cause ∧ w'.trap.epc = d.epc ∧
        w'.trap.eva = d.eva ∧ w'.trap.fmask = d.fmask ∧ w'.trap.replay = (if d.late.isSome then d.fmask else 0#32) ∧ w'.trap.wasDeferred = (d.late.isNone && !d.plain) ∧ w'.trap.halted = true ∧ w'.trap.reissue = d.reissue ∧ w'.trap.late = d.late ∧
        w'.trap.deferred = (w.trap.deferred.filter fun x => x ≠ d) ∧ w'.rewind = .full ∧ t = { s with cores := t.cores, launches := t.launches }) ∧
    (∀ h, w.trap.watch.find? (·.due) = some h → w.trap.halted = false → ((s.core cn).quad qn).mayWatch wn w = true →
      let same (x : WatchHit) : Bool := h.epc == x.epc && h.slot == x.slot
      let mine := w.trap.watch.filter same
      ∃ t w' i x, exec (.watchpointReport cn qn wn) s = .next t ∧ t.warp cn qn wn = some w' ∧ w'.trap.cause = BitVec.ofNat 9 (0x140 + i) ∧
        (∃ y ∈ mine, y.comparator = i) ∧ (∀ y ∈ mine, i ≤ y.comparator) ∧ w'.trap.epc = h.epc ∧ x ∈ mine ∧ (∀ y ∈ mine, x.lane ≤ y.lane) ∧
        w'.trap.eva = x.va ∧ (∀ l, l < 32 → (w'.trap.fmask.getLsbD l = true ↔ ∃ y ∈ mine, y.lane = l)) ∧ w'.trap.slot = h.slot ∧ w'.trap.halted = true ∧
        w'.trap.watch = (w.trap.watch.filter fun x => !same x) ∧ t = { s with cores := t.cores, launches := t.launches }) ∧
    ((∀ h ∈ w.trap.watch, h.due = false) → exec (.watchpointReport cn qn wn) s = .next s) ∧
    (w.trap.halted = false → exec (.trapResume cn qn wn) s = .next s) ∧
    (w.trap.halted = true → w.trap.service ≠ some 2 → w.mgmt = false → (s.core cn).phase ≠ .running →
      ∃ t w', exec (.trapResume cn qn wn) s = .next t ∧ t.warp cn qn wn = some w' ∧ w' = { w with trap := { w.trap with resuming := true } } ∧ CoresOnly s t) ∧
    (w.trap.halted = true → w.trap.service ≠ some 2 → w.mgmt = true ∨ (s.core cn).phase = .running →
      let blank (p : Path) : Path := { p with run := p.run.map fun r => { r with tdef := [], wdef := 0 } }
      let x := s.divWindow cn qn wn w
      let K := s.ringK w.launch
      let n := bitsAt x 256 32
      let kept := w.div.keepsTop K x
      let below := s.regionAll cn w.mgmt w.ctx w.launch false ((List.range (if kept then n - 1 else n)).map fun i => s.ringVa cn qn wn w (bitsAt x 288 32 + i))
      let sound (pas : List Nat) := stackOk (s.callD w.launch) x (pas.map (fun pa => s.memNat pa 16) ++ if kept then w.div.top.toList.map fun e => leNat e.bytes else [])
      let bad : Prop := ∃ t w', exec (.trapResume cn qn wn) s = .next t ∧ t.warp cn qn wn = some w' ∧ w'.trap.cause = 0x00E#9 ∧ w'.trap.halted = true
      (windowOk (s.callD w.launch) K x = false → bad) ∧
      (windowOk (s.callD w.launch) K x = true → s.topHome cn qn wn w x = .ok [] →
        (∀ pas, below = .ok pas → sound pas = false → bad) ∧
        (∀ c vs, below = .fault c vs → ∃ t w', exec (.trapResume cn qn wn) s = .next t ∧ t.warp cn qn wn = some w' ∧ w'.trap.halted = true ∧
          w'.trap.cause = BitVec.ofNat 9 (ringTrap c w.div.popPc (lowestVa vs)).cause) ∧
        (∀ pas, below = .ok pas → sound pas = true → w.trap.slot ≤ 1 →
          ∃ u w', exec (.trapResume cn qn wn) s = .next (u.settle cn qn wn) ∧ CoresOnly s u ∧ u.warp cn qn wn = some w' ∧
            (∀ j, Sparse.get 0#32 ((u.core cn).quad qn).rf j = if w.trap.service.isSome ∧ j = w.ubase * 32 then serviceResult (w.trap.service.getD 0)
              else Sparse.get 0#32 ((s.core cn).quad qn).rf j) ∧
            (w.trap.late = none → w'.trap = { w.trap with halted := false, service := none, edit := none, resuming := false } ∧
              w'.undef = if w.trap.service.isSome then Sparse.set 0#32 w.undef 128 0 else w.undef) ∧
            (w.trap.late = none → ∀ y, w.trap.edit = some y →
              let d := (w.div.edited K y).setSlot w.trap.slot (((w.div.edited K y).slot w.trap.slot).map w.trap.replayed)
              w'.div = { d with s0 := d.s0.map blank, s1 := d.s1.map blank }) ∧
            (w.trap.late = none → w.trap.edit = none → ∀ p, w.div.slot w.trap.slot = some p →
              ∃ p', w'.div.slot w.trap.slot = some p' ∧ w'.div.slot (other w.trap.slot) = (w.div.slot (other w.trap.slot)).map blank ∧
                (w.trap.again = false → p' = blank p) ∧
                (w.trap.again = true → w.trap.replay = 0#32 → p' = blank
                  { p with pc := if w.trap.last then p.pc + 8 else p.pc + 4, replay := if w.trap.last then none else some 0xFFFFFFFF#32 }) ∧
                (w.trap.again = true → w.trap.replay ≠ 0#32 → p' = blank { p with replay := if w.trap.start ∧ w.trap.replay = p.em then none else some w.trap.replay }) ∧
                (w.trap.again = true → 0x100 ≤ w.trap.cause.toNat → w.trap.cause.toNat < 0x140 → ∀ l, lowestLane p.mask = some l →
                  (w.trap.cause.toNat - 0x100, p.pc, l) ∈ w'.passed))))) ∧
    (∀ l L, s.launches.find l = some L → L.firstEnd ≠ none → L.complete = false →
      ∃ t L', exec (.launchEndForTrap l) s = .next t ∧ t.launches.find l = some L' ∧ L'.ended = true ∧ L'.firstEnd = L.firstEnd ∧ SameBytes s t ∧
        ∀ c ∈ t.cores, (∀ b ∈ c.2.bins, b.2.launch ≠ l) ∧ (∀ x ∈ c.2.spilled, x.launch ≠ l) ∧
          ∀ q ∈ c.2.quads, (∀ o ∈ q.2.mq, o.launch ≠ l) ∧ ∀ x ∈ q.2.warps, x.2.launch = l → x.2.stopped = true)

/-- R359-R369, R379: a session opens and closes, and its end clears the context's comparators and resumes its halted warps; a warp halted by a debugger's hit is swapped out with its crew once they have stopped; a swapped-out crew comes back to its places when these are
free; each period, once nothing more can issue in its CYCLE, the sampler records one candidate warp of each quadrant; a record takes its place in
the order of cycle and quadrant, samples before traces; with the buffer full the last is dropped and counted; a record is written once its cycle is past.

R370, R371, R379, R387: a chunk of a dump is its header, the ciphertext and the tag under the tenant's key; the dump of a halted context with a key is written, as far as
whole chunks fit, and numbered; without a key or a halt it is refused; a key goes in only inside a secured session. -/
def Obligations.DebugDumpsAndKeys : Prop :=
  (∀ (s : State) (ctx cn : Nat),
    let c := s.core cn
    (∀ m : Mail, m.ctx = ctx → s.obeys m 3 →
      let s0 := s.taken m
      exec (.openDebugSession m) s = .next ((s0.setCtx ctx { s0.ctx ctx with debug := true }).mailbox m 0)) ∧
    (∀ m : Mail, m.ctx = ctx → s.obeys m 4 →
      let s0 := s.taken m
      let s1 := s0.setCtx ctx { s0.ctx ctx with debug := false }
      let u : State := { s1 with cores := s1.cores.map fun (c : Nat × Core) => (c.1, { c.2 with bps := clearFor ctx c.2.bps, wps := clearFor ctx c.2.wps }) }
      let v := u.cores.foldl (fun s c => c.2.warps.foldl (fun (s : State) (w : Nat × Nat × Warp) =>
        if w.2.2.ctx = ctx ∧ w.2.2.mgmt = false then s.resume c.1 w.1 w.2.1 else s) s) u
      ∃ t : State, exec (.closeDebugSession m) s = .next (t.mailbox m 0) ∧ (t.ctx ctx).debug = false ∧
        (∀ c ∈ t.cores, ∀ x, x ∈ c.2.bps ∨ x ∈ c.2.wps → (x.2.ctl.extractLsb' 0 12).toNat ≠ ctx) ∧
        t = v.cores.foldl (fun s c => (c.2.swapped.filter fun x => x.2.warps.any fun w => w.warp.ctx == ctx).foldl
          (fun (s : State) (x : Nat × Saved) => s.crewBack c.1 x.1) s) v) ∧
    (∀ qn wn w, s.warp cn qn wn = some w → w.trap.halted = true → debuggerCause w.trap.cause.toNat = true → (s.ctx w.ctx).debug = true →
      let ws := c.crewWarps qn wn w.crews
      let u := s.setCore cn (c.askStop ws)
      let still := ws.all fun x => match ((u.core cn).quad x.1).warps.find x.2 with
        | some w => u.warpStill cn (u.core cn) ((u.core cn).quad x.1) w
        | none => true
      (still = false → exec (.crewSwapOut cn qn wn) s = .next u) ∧
      (still = true → ∃ t x y, exec (.crewSwapOut cn qn wn) s = .next t ∧ t.warp cn qn wn = none ∧ (t.core cn).swapped.find s.nextUid = some x ∧ y ∈ x.warps ∧
        y.quad = qn ∧ y.slot = wn ∧ y.warp.uid = w.uid ∧ (∀ k ∈ w.crews, ∀ z, (t.core cn).crews.find k = some z → z.swapped = true) ∧ SameBytes s t)) ∧
    (∀ k x, c.swapped.find k = some x → c.tenant = some x.tenant → c.phase = .running → c.placesFree x = true →
      ∃ u, exec (.crewResume cn k) s = .next (x.warps.foldl (fun s w => s.resume cn w.quad w.slot) u) ∧ CoresOnly s u ∧ (u.core cn).swapped.find k = none ∧
        (∀ w ∈ x.warps, (∀ v ∈ x.warps, v.quad = w.quad → v.slot = w.slot → v = w) → u.warp cn w.quad w.slot = some w.warp) ∧
        ∀ a, (∀ b ∈ x.scratch, b.1 ≠ a) → Sparse.get 0#8 (u.core cn).scratch a = Sparse.get 0#8 c.scratch a) ∧
    (c.sampler.queue ≠ [] → c.tickBy c.cycle = false → exec (.samplerTick cn) s = .next (s.flushRecords cn)) ∧
    (c.sampler.queue = [] → c.sampler.counts = false → c.sampler.owed = false → exec (.samplerTick cn) s = .next s) ∧
    (c.sampler.queue = [] → c.sampler.counts = true ∨ c.sampler.owed = true → c.cycle < c.sampler.next →
      exec (.samplerTick cn) s = .next (if s.mayPass cn c.sampler.next then s.passTo cn c.sampler.next else s)) ∧
    (c.sampler.counts = true ∨ c.sampler.owed = true → c.sampler.next ≤ c.cycle →
      (s.cycleOver cn = false → exec (.samplerTick cn) s = .next s) ∧
      (s.cycleOver cn = true →
        ∃ u, exec (.samplerTick cn) s = .next ((List.range 4).foldl (fun s n => s.sampleQuad cn n c.sampler.next) u) ∧
          u = s.setCore cn { c with sampler := (u.core cn).sampler } ∧ (u.core cn).sampler = { c.sampler with next := (u.core cn).sampler.next, owed := false } ∧
          ∀ i, c.sampler.valid = true → c.sampler.next = c.sampler.origin + i * c.sampler.period.toNat →
            (u.core cn).sampler.next = c.sampler.next + c.sampler.period.toNat)) ∧
    (∀ qn cycle i w, i < 16 → let wn := ((c.quad qn).sampled + 1 + i) % 16
      (c.quad qn).warps.find wn = some w → w.mgmt = false → c.sampler.matches_ w.ctx = true →
      (∀ j v, j < i → (c.quad qn).warps.find (((c.quad qn).sampled + 1 + j) % 16) = some v → v.mgmt = true ∨ c.sampler.matches_ v.ctx = false) →
      let name (p : Option Pc) : Word := match p with
        | some pc => s.nameOf w.launch pc
        | none => 0xFFFFFFFF#32
      s.sampleQuad cn qn cycle = (s.setQuad cn qn { c.quad qn with sampled := wn }).putRecord cn w.ctx (8 * cycle + qn % 4)
        (sampleBytes cycle qn wn (s.classify cn c (c.quad qn) wn w).1 (s.classify cn c (c.quad qn) wn w).2.1 w.ctx (name (s.sampleWord c (c.quad qn) wn w))
          (name (s.classify cn c (c.quad qn) wn w).2.2))) ∧
    (∀ owner key bs, let x := c.sampler
      ∃ a b, x.queue = a ++ b ∧ (∀ r ∈ a, r.1 ≤ key) ∧ (∀ r ∈ b.head?, key < r.1) ∧
        (x.wr + BitVec.ofNat 32 x.queue.length - x.rd = x.cap → x.dropped ≠ 0xFFFFFFFF#32 →
          s.putRecord cn owner key bs = s.setCore cn { c with sampler := { x with queue := (a ++ (key, owner, bs) :: b).dropLast, dropped := x.dropped + 1 } }) ∧
        (x.wr + BitVec.ofNat 32 x.queue.length - x.rd ≠ x.cap →
          s.putRecord cn owner key bs = s.setCore cn { c with sampler := { x with queue := a ++ (key, owner, bs) :: b } })) ∧
    (∀ owner key bs, bs.length = 16 → c.sampler.queue = [(key, owner, bs)] → c.sampler.valid = true →
      let x := c.sampler
      let pa := x.buf.toNat + 16 * (x.wr.toNat % x.cap.toNat)
      key / 8 < c.cycle → s.claim cn owner [lineOf pa] = none →
        let t := s.flushRecords cn
        (t.core cn).sampler = { x with wr := x.wr + 1, queue := [] } ∧ (∀ i, i < 16 → t.memByte (pa + i) = bs.getD i 0#8) ∧
        ∀ a, a < pa ∨ pa + 16 ≤ a → t.memByte a = s.memByte a)) ∧
  ((∀ (x : Chunk) (ctx number index : Nat) (key : List Byte),
    let header := toLe 0x504D5544 4 ++ toLe 1 2 ++ toLe x.kind 2 ++ toLe ctx 4 ++ toLe x.core 4 ++ toLe x.at_ 4 ++ toLe x.data.length 4 ++ toLe number 4 ++ toLe index 4
    header.length = 32 ∧ x.bytes ctx number index key = header ++ gcmSeal key (toLe number 4 ++ toLe index 4 ++ toLe 0 4) header x.data) ∧
  ∀ (s : State) (m : Mail) (va len : Nat) (key : List Byte),
    let ctx := m.ctx
    let x := s.tenant (ctx / 64)
    let v := s.taken m
    ((s.contexts.find ctx).isSome = true → exec (.securedSession ctx) s = .next (s.setCtx ctx { s.ctx ctx with secured := true })) ∧
    (s.obeys m 8 →
      ((s.ctx ctx).secured = false → exec (.installTenantKey m key) s = .next (v.mailbox m 3)) ∧
      ((s.ctx ctx).secured = true → key.length ≠ 32 → exec (.installTenantKey m key) s = .next (v.mailbox m 2)) ∧
      ((s.ctx ctx).secured = true → key.length = 32 →
        ∃ t : State, exec (.installTenantKey m key) s = .next (t.mailbox m 0) ∧ t = { v with tenants := t.tenants } ∧ t.tenant (ctx / 64) = { x with key := some key } ∧
          ∀ n, n ≠ ctx / 64 → t.tenant n = s.tenant n)) ∧
    (s.obeys m 5 → x.key = none ∨ v.ctxHalted ctx = false ∨ 2 ^ 32 ≤ x.dumps + 1 → exec (.dump m va len) s = .next (v.mailbox m 3)) ∧
    (∀ k, s.obeys m 5 → x.key = some k → v.ctxHalted ctx = true → x.dumps + 1 < 2 ^ 32 →
      (canonical (BitVec.ofNat 64 va) = false → exec (.dump m va len) s = .next (v.mailbox m 2)) ∧
      (canonical (BitVec.ofNat 64 va) = true →
        let bs := fitting ctx (x.dumps + 1) k 0 len (v.cores.flatMap fun c => v.coreChunks c.1 ctx)
        bs.length ≤ len ∧
        (∀ c, v.postVa ctx va bs = .fault c → exec (.dump m va len) s = .next (v.mailbox m 2)) ∧
        (∀ u, v.postVa ctx va bs = .waits u → exec (.dump m va len) s = .next (u.mailWaits m)) ∧
        (∀ u, v.postVa ctx va bs = .done u →
          ∃ t : State, exec (.dump m va len) s = .next (t.mailbox m 0) ∧ t.mem = u.mem ∧ t.tenant (ctx / 64) = { x with dumps := x.dumps + 1 }))))

/-- R34, R377-R387: the host opens a context as its tenant's slot entries allow and closes it when its launches are done, the tenant's key going with its last context;
connections to peers are made, fail and close; a decode-table image that firmware accepts goes into slot 2 or 3 while no running launch has selected it; and
evidence, signed with the device's certificate chain, names the measurements that a function may see. -/
def Obligations.ContextsPeersAndImages : Prop :=
  ∀ (s : State) (port ctx device peer nonce slot : Nat) (img : TableImage),
    let x := s.ctx ctx
    let signed (ms : List (Nat × Nat × BitVec 512)) (key : Option Bool) : Out :=
      .evidence ctx nonce ms s.deviceId key (Config.attest ctx nonce ms s.deviceId key) Config.attestChain
    let live := x.conns.filter fun c => !(c.device == device && c.failed)
    (port < 8 → ctx < 4096 → s.runs = true → s.hasSlots (ctx / 64) = true → port ∉ x.ports →
      exec (.openContext port ctx) s = .next (s.setCtx ctx { x with ports := x.ports ++ [port] })) ∧
    (8 ≤ port ∨ s.runs = false ∨ s.hasSlots (ctx / 64) = false ∨ port ∈ x.ports → exec (.openContext port ctx) s = .next s) ∧
    (port ∈ x.ports → x.ports ≠ [port] → exec (.closeContext port ctx) s = .next (s.setCtx ctx { x with ports := x.ports.filter (· ≠ port) })) ∧
    (x.ports = [port] → (∀ L ∈ s.launches, L.2.ctx = ctx → L.2.complete = true) →
      ∃ t, exec (.closeContext port ctx) s = .next t ∧ t.contexts.find ctx = none ∧ (∀ q ∈ t.queues, q.desc.ctx ≠ ctx) ∧ (∀ p ∈ t.pulls, p.2.ctx ≠ ctx) ∧
        (∀ c ∈ t.clusters, ∀ e ∈ c.2.tlb, e.ctx ≠ ctx) ∧ SameBytes s t ∧
        ((∀ y ∈ s.contexts, y.1 ≠ ctx → y.1 / 64 ≠ ctx / 64) → (t.tenant (ctx / 64)).key = none)) ∧
    (∀ m : Mail, m.ctx = ctx → s.obeys m 6 →
      let v := s.taken m
      (0xC0000 ≤ device ∨ device = s.deviceId ∨ 4096 ≤ peer ∨ 64 ≤ live.length ∨ (∃ c ∈ live, c.device = device) →
        exec (.bindPeer m device peer) s = .next (v.mailbox m 2)) ∧
      (device < 0xC0000 → device ≠ s.deviceId → peer < 4096 → live.length < 64 → (∀ c ∈ live, c.device ≠ device) →
        exec (.bindPeer m device peer) s =
          .next ((v.setCtx ctx { v.ctx ctx with conns := live ++ [{ device := device, peerCtx := peer, failed := false, closing := false }] }).mailbox m 0))) ∧
    (∀ m : Mail, m.ctx = ctx → s.obeys m 7 →
      let v := s.taken m
      ((∀ c ∈ x.conns, c.device ≠ device) → exec (.unbindPeer m device) s = .next (v.mailbox m 2)) ∧
      ((∃ c ∈ x.conns, c.device = device) →
        ((∃ p ∈ s.peerSegs, p.ctx = ctx ∧ p.device = device) → exec (.unbindPeer m device) s =
          .next ((v.setCtx ctx { v.ctx ctx with conns := x.conns.map fun (c : Conn) => if c.device = device then { c with closing := true } else c }).mailWaits m)) ∧
        ((∀ p ∈ s.peerSegs, ¬ (p.ctx = ctx ∧ p.device = device)) → exec (.unbindPeer m device) s =
          .next ((v.setCtx ctx { v.ctx ctx with conns := x.conns.filter fun c => c.device ≠ device }).mailbox m 0)))) ∧
    ((∃ c ∈ x.conns, c.device = device) →
      ∃ t, exec (.peerConnectionFailure ctx device) s = .next t ∧ (t.ctx ctx).conns.length = x.conns.length ∧ (∀ c ∈ (t.ctx ctx).conns, c.device = device → c.failed = true) ∧
        t.reaches ctx device = false) ∧
    (slot = 2 ∨ slot = 3 → imageAccepted img = true → s.rollback ≤ img.version →
      (∀ L ∈ s.launches, L.2.started = true → L.2.complete = false → L.2.rcd.table ≠ slot) →
      ∃ t, exec (.decodeTableLoad slot img) s = .next t ∧ t = { s with tables := t.tables, measurements := t.measurements } ∧ t.tables.find slot = some img ∧
        (∀ n, n ≠ slot → t.tables.find n = s.tables.find n) ∧ (0x100 + slot, img.version, Config.measuredTable img) ∈ t.measurements) ∧
    (slot ≠ 2 ∧ slot ≠ 3 ∨ imageAccepted img = false ∨ img.version < s.rollback → exec (.decodeTableLoad slot img) s = .next s) ∧
    (4096 ≤ ctx → ∃ ms, exec (.getMeasurements ctx nonce) s = .next { s with out := s.out ++ [signed ms none] } ∧ ∀ m ∈ s.measurements, m ∈ ms) ∧
    (ctx < 4096 → (s.contexts.find ctx).isSome = true →
      ∃ ms, exec (.getMeasurements ctx nonce) s =
        .next { s with out := s.out ++ [signed ms (some (s.tenant (ctx / 64)).key.isSome)] } ∧
        (∀ m ∈ s.measurements, m.1 < 0x100 → m ∈ ms) ∧ ∀ m ∈ ms, 0x100 ≤ m.1 → m.1 < 0x200 → m.1 - 0x100 ∈ s.tablesOf ctx)

/-- R376, R384: a port that goes down takes its host lines from every cache, fails each buffered store and each lane's access on it, each such word having a fault of cause 0x045 to raise, and counts the dirty lines lost; a port that comes back reports them and waits for the host, and goes on when the host has acknowledged them; what no peer has
acknowledged is sent again when a port goes down; when a mesh link drops out, the pairs of cores whose paths change are drained, and once none has a message on its way the new turns are there. -/
def Obligations.PortsAndLinks : Prop :=
  ∀ (s : State) (n link : Nat),
    let p := s.port n
    (n < 8 → p.up = true →
      ∃ t, exec (.portDown n) s = .next t ∧ t.port n = { p with up := false, awaitAck := false, lost := p.lost + ((s.linesOn n).filter s.dirty).length } ∧
        (∀ k, k ≠ n → t.port k = s.port k) ∧
        (∀ l ∈ s.linesOn n, t.copyless l ∧ t.dirEntry l = ⟨.uncached, .none⟩ ∧ t.homeCurrent l) ∧
        (∀ a, (∀ l ∈ s.linesOn n, lineOf a ≠ l) → t.memByte a = s.memByte a) ∧
        t.out = s.out ++ s.peerSegs.flatMap s.resend ∧
        ∀ cn qn wn w, s.warp cn qn wn = some w → ∃ w', t.warp cn qn wn = some w' ∧ w'.sb.length = w.sb.length ∧
          (∀ b ∈ w'.sb, s.onPort n b.acc = true → b.lost = true) ∧ (∀ b ∈ w.sb, s.onPort n b.acc = false → b ∈ w'.sb) ∧
          w'.pend.length = w.pend.length ∧ (∀ o ∈ w'.pend, ∀ a ∈ o.tries, s.onPort n a = false) ∧
          (∀ b ∈ w.sb, b.lost = false → s.onPort n b.acc = true → ∃ d ∈ w'.trap.deferred, d.cause = 0x045 ∧ d.epc = b.pc.signExtend 64 ∧ d.late = some b.seq) ∧
          (∀ o ∈ w.pend, o.kind.reads = true → (∃ a ∈ o.tries, s.onPort n a = true) → ∃ d ∈ w'.trap.deferred, d.cause = 0x045 ∧ d.epc = o.pc.signExtend 64 ∧ d.late = some o.seq)) ∧
    (p.up = false → exec (.portUp n) s = .next { s with ports := s.ports.put n { p with up := true, awaitAck := true }, out := s.out ++ [.lostLines n p.lost] }) ∧
    (p.up = true → p.awaitAck = true → exec (.lostLinesAck n) s = .next { s with ports := s.ports.put n { p with awaitAck := false, lost := 0 } }) ∧
    (link ∈ s.health.linksOut → exec (.linkDropout link) s = .next s) ∧
    (link ∉ s.health.linksOut →
      let emptied : Prop := ∀ c ∈ s.cores, ∀ k, k < 2772 → k ≠ c.1 → Config.reroutes link c.1 k = true → s.messagesTo c.1 k = []
      (s.health.rerouting = none → exec (.linkDropout link) s = .next { s with health := { s.health with rerouting := some link } }) ∧
      (s.health.rerouting = some link → emptied →
        exec (.linkDropout link) s = .next { s with health := { s.health with rerouting := none, linksOut := s.health.linksOut ++ [link] } }) ∧
      (s.health.rerouting = some link → ¬ emptied → exec (.linkDropout link) s = .next s) ∧
      (∀ l, s.health.rerouting = some l → l ≠ link → exec (.linkDropout link) s = .next s))

/-- R290, R331, R388-R393: the third event at a structure within 2^24 cycles is lasting, and makes its core suspect; what it has lost is reported against the warp, at once or, of a halted one, once it goes on, and a page-table line that is lost is unreadable; a suspect core that runs
no launch is retired, its name going to the cluster's spare, or becoming absent; a lost wavelength group's traffic goes to a spare group at the switch; an
idle core is scanned, and one that fails is suspect. -/
def Obligations.HealthEvents : Prop :=
  (∀ (s : State) (u : HealthUnit), unitExists u = true →
    let now := s.unitCycle u
    let old := ((s.health.events.find? fun x => x.1 == u).map (·.2)).getD []
    ∃ t v, exec (.faultEvent u none) s = .next t ∧ (t.health.events.find? fun x => x.1 == u) = some v ∧ v.2 = (now :: old).take 2 ∧ SameBytes s t ∧
      (∀ x, x ≠ u → (t.health.events.find? fun y => y.1 == x) = s.health.events.find? fun y => y.1 == x) ∧
      (old.length ≠ 2 → t = { s with health := t.health }) ∧
      (∀ a b, old = [a, b] → now - b > 2 ^ 24 → t = { s with health := t.health }) ∧
      (∀ a b c, old = [a, b] → now - b ≤ 2 ^ 24 → (u = .coreStores c ∨ u = .matrixArray c ∨ u = .l1 c ∨ ∃ q, u = .registerFile c q) → (s.core c).absent = false →
        t.core c = { s.core c with suspect := true })) ∧
  (∀ (s : State) (u : HealthUnit) (x : LostData) (w : Warp) (p : Path), unitExists u = true → x.cause = 0x180 ∨ x.cause = 0x181 ∨ x.cause = 0x184 ∨ x.cause = 0x185 ∨ x.cause = 0x186 →
    s.warp x.core x.quad x.warp = some w → w.trap.halted = false → (∀ k, ((s.core x.core).quad x.quad).sel ≠ some (x.warp, k)) → w.div.s0 = some p →
    ∃ t w', exec (.faultEvent u (some x)) s = .next t ∧ t.warp x.core x.quad x.warp = some w' ∧ w'.trap.cause = BitVec.ofNat 9 x.cause ∧ w'.trap.halted = true ∧
      w'.trap.epc = p.pc.signExtend 64 ∧ w'.trap.fmask = p.em) ∧
  (∀ (s : State) (u : HealthUnit) (x : LostData) (w : Warp) (p : Path), unitExists u = true → x.cause = 0x180 ∨ x.cause = 0x181 ∨ x.cause = 0x184 ∨ x.cause = 0x185 ∨ x.cause = 0x186 →
    s.warp x.core x.quad x.warp = some w → w.trap.halted = true → (∀ k, ((s.core x.core).quad x.quad).sel ≠ some (x.warp, k)) → w.div.s0 = some p →
    ∃ t, exec (.faultEvent u (some x)) s = .next t ∧ t.warp x.core x.quad x.warp = some { w with trap := { w.trap with
      deferred := w.trap.deferred ++ [{ op := 0, cause := x.cause, epc := p.pc.signExtend 64, eva := 0, fmask := p.em, reissue := none, plain := true }] } }) ∧
  (∀ (s : State) (u : HealthUnit) (x : LostData), unitExists u = true → x.cause = 0x04B → 0x03EF00000000 ≤ 256 * x.line → 256 * x.line < s.nodeNext →
    ∃ t, exec (.faultEvent u (some x)) s = .next t ∧ x.line ∈ t.unreadable ∧ SameBytes s t) ∧
  (∀ (s : State) (cn : Nat), (s.core cn).suspect = false → exec (.coreRetire cn) s = .next s) ∧
  (∀ (s : State) (cn : Nat) (L : Nat × Launch), L ∈ s.launches → L.2.started = true → L.2.complete = false → L.2.rcd.c0 ≤ cn → cn < L.2.rcd.c0 + L.2.rcd.m →
    (s.core cn).tenant = some (L.2.ctx / 64) → exec (.coreRetire cn) s = .next s) ∧
  (∀ (s : State) (cn : Nat), (s.core cn).suspect = true →
    (∀ L ∈ s.launches, L.2.started = true → L.2.complete = false → L.2.rcd.c0 ≤ cn → cn < L.2.rcd.c0 + L.2.rcd.m →
      (s.core cn).tenant ≠ some (L.2.ctx / 64) ∧ (s.cluster (clusterOf cn)).spareUsed = false) →
    ∃ t, exec (.coreRetire cn) s = .next t ∧ (t.core cn).suspect = false ∧ (t.core cn).l1 = [] ∧ (t.core cn).saved = (s.core cn).saved ∧ SameBytes s t ∧
      ((s.cluster (clusterOf cn)).spareUsed = true → (t.core cn).absent = true) ∧
      ((s.cluster (clusterOf cn)).spareUsed = false → (t.core cn).absent = (s.core cn).absent ∧ (t.core cn).physical = 2688 + clusterOf cn ∧
        (t.cluster (clusterOf cn)).spareUsed = true)) ∧
  (∀ (s : State) (group g spare : Nat), (s.health.switching.find? fun x => x.1 == group) = some (group, spare) → s.groupOwner group = some g →
    ∃ t, exec (.groupSwitch group) s = .next t ∧ t.cluster g = { s.cluster g with group := spare } ∧ (∀ x ∈ t.health.switching, x.1 ≠ group) ∧
      ∀ k, k ≠ g → t.cluster k = s.cluster k) ∧
  (∀ (s : State) (cn : Nat) (bad : Bool), s.health.checksumMode = false → cn < 2688 → (s.core cn).absent = false → (s.core cn).phase = .idle →
    s.tenantAt cn s.time = none →
    exec (.scanTest cn bad) s = .next (s.setCore cn { s.core cn with scanned := s.time, suspect := (s.core cn).suspect || bad }))

/-- R374, R375, R378, R380, R385, R394, R395: a start whose images all verify begins from the reset state, with the measurements of the images, the device id, ports and target
voltages that are set; the windows of two port groups do not overlap, and no decoder maps a broadcast window. A start that fails is counted, the third in a row leading
to the minimal mode, and an image that does not verify, or is older than the fused counter, makes it fail; in the minimal mode only the restart word starts the device again.

R395, R396: clock stretching of a field begins where a sensor reads more than 40 mV below the field's target and ends where every one of its 256 sensors reads within 30 mV of it; the
cycles that the field's clock makes meanwhile are counted, up to the largest number; a new lowest reading is recorded with its sensor and TIME, and reading the record, over the
maintenance bus or in BAR 0, gives its 16 bytes out and empties it.

R379, R394: BAR 0 of the physical function reads the boot record of 64 bytes; in the minimal mode the host writes images into the image-load area, and a 1 in the restart word
starts the device again; BAR 0 of a virtual function holds its command area and status word. -/
def Obligations.StartsAndVoltage : Prop :=
  (∀ (s : State) (r : StartReport) (v : Word),
    let kept (b : Boot) : State := { State.reset with agenda := s.agenda, fresh := s.fresh, nextUid := s.nextUid, time := s.time, rollback := s.rollback, out := s.out, boot := b, tenants := s.tenants.map fun t => (t.1, { Tenant.blank with dumps := t.2.dumps }) }
    let fails (t : State) (reason : Nat) (field : Option Nat) : Prop :=
      t = { kept { failed := min 3 (s.boot.failed + 1), minimal := decide (2 ≤ s.boot.failed), reason := reason, field := field, time := s.time
                   starting := decide (s.boot.failed < 2) } with tables := s.tables, measurements := s.measurements }
    (r.reason ≠ 0 → ∃ t, exec (.deviceStart r) s = .next t ∧ fails t r.reason (if r.field < 42 then some r.field else none)) ∧
    (r.reason = 0 → (∃ m ∈ r.images, m.signed = false ∨ m.version < s.rollback) → ∃ t, exec (.deviceStart r) s = .next t ∧ fails t 1 none) ∧
    (r.reason = 0 → (∀ m ∈ r.images, m.signed = true ∧ s.rollback ≤ m.version) → r.deviceId < 0xC0000 →
      ∃ t, exec (.deviceStart r) s = .next t ∧ t.boot = { failed := 0, minimal := false, reason := 0, field := none, time := s.time, starting := false } ∧
        t.deviceId = r.deviceId ∧ t.measurements = (r.images.map fun m => (m.slot, m.version, m.hash)) ∧ t.health.checksumMode = r.checksumMode ∧ t.mem = [] ∧ t.cores = [] ∧
        t.slots.table = none ∧ t.tables = [] ∧ t.contexts = [] ∧ t.rollback = s.rollback ∧
        (∀ x ∈ r.targets, x.1 < 42 → (∀ y ∈ r.targets, y.1 = x.1 → y = x) → (t.field x.1).target = x.2) ∧
        (r.ports.all (setupOk r.ports) = false → t.ports = []) ∧
        (r.ports.all (setupOk r.ports) = true → ∀ x ∈ r.ports, t.port x.1 = { Port.blank x.1 with
          base := x.2.base, size := x.2.size, first := x.2.first, width := x.2.width, ctx := x.2.ctx, decoders := x.2.decoders }) ∧
        (∀ k p, t.ports.find k = some p → k < 8 ∧ p.width ∈ [1, 2, 4, 8] ∧ p.first % p.width = 0 ∧ p.first ≤ k ∧ k < p.first + p.width ∧
          0x30000 ≤ p.base ∧ p.base + p.size ≤ 0x40000 ∧ p.decoders.length ≤ 8 ∧ (∀ d ∈ p.decoders, d.2.2 + d.2.1 ≤ 0xA00000000000) ∧
          ∀ j q, t.ports.find j = some q → (q.first = p.first ∧ q.width = p.width ∧ q.base = p.base ∧ q.size = p.size) ∨ q.base + q.size ≤ p.base ∨ p.base + p.size ≤ q.base)) ∧
    (s.boot.starting = true → ∃ t, exec .startTimeout s = .next t ∧ fails t 5 none) ∧
    (s.boot.starting = false → exec .startTimeout s = .next s) ∧
    (s.boot.minimal = true → v = 1#32 → exec (.restart v) s = .next { s with boot := { s.boot with starting := true } }) ∧
    (s.boot.minimal = false ∨ v ≠ 1#32 → exec (.restart v) s = .next s)) ∧
  (∀ (s : State) (x : Sensors) (mv sensor : Nat), x.field < 42 →
    let n := x.field
    let f := s.field n
    let m : MinVolt := if f.stretching then { f.minVolt with stretched := min 0xFFFFFFFF (f.minVolt.stretched + (s.fieldClock n - f.stretchedAt)) } else f.minVolt
    let bytes := toLe m.millivolts 2 ++ toLe (if m.empty then 0x8000 else m.sensor) 2 ++ toLe m.stretched 4 ++ toLe m.time 8
    let emptied := s.setField n { f with minVolt := { millivolts := 0xFFFF, sensor := 0, empty := true, stretched := 0, time := 0 }, stretchedAt := s.fieldClock n }
    (f.stretching = false → (∃ r ∈ x.readings, r.1 < 256 ∧ r.2 + 40 < f.target) →
      exec (.stretchStart x) s = .next (s.setField n { f with stretching := true, stretchedAt := s.fieldClock n })) ∧
    (f.stretching = true ∨ (∀ r ∈ x.readings, r.1 < 256 → f.target ≤ r.2 + 40) → exec (.stretchStart x) s = .next s) ∧
    (f.stretching = true → (∀ i, i < 256 → ∃ r ∈ x.readings, r.1 = i ∧ f.target ≤ r.2 + 30) →
      exec (.stretchEnd x) s = .next (s.setField n { f with stretching := false, minVolt := m })) ∧
    (f.stretching = false ∨ (∃ i, i < 256 ∧ ∀ r ∈ x.readings, r.1 = i → r.2 + 30 < f.target) → exec (.stretchEnd x) s = .next s) ∧
    (sensor < 256 → mv < 65536 → f.minVolt.empty = true ∨ mv < f.minVolt.millivolts →
      exec (.newLowestReading n mv sensor) s = .next (s.setField n { f with minVolt :=
        { f.minVolt with millivolts := mv, sensor := sensor, empty := false, time := s.time } })) ∧
    (f.minVolt.empty = false → f.minVolt.millivolts ≤ mv → exec (.newLowestReading n mv sensor) s = .next s) ∧
    exec (.minVoltageRead n) s = .next { emptied with out := s.out ++ [.minVolt n bytes] } ∧
    ∀ c, exec (.windowAccess .physical c (0x900 + 16 * n) 16 none) s = .next { emptied with out := s.out ++ [.bar none (0x900 + 16 * n) bytes] }) ∧
  (∀ (s : State) (c i n : Nat) (bs : List Byte),
    let boot := toLe s.boot.failed 4 ++ toLe (if s.boot.minimal then 1 else 0) 4 ++ toLe s.boot.reason 4 ++ toLe (s.boot.field.getD 0xFFFFFFFF) 4 ++ toLe s.boot.time 8 ++ List.replicate 40 0#8
    (i + n ≤ 64 → exec (.windowAccess .physical c (0x800 + i) n none) s = .next { s with out := s.out ++ [.bar none (0x800 + i) ((boot.drop i).take n)] }) ∧
    (s.boot.minimal = false → exec (.windowAccess .physical c i n (some bs)) s = .next s) ∧
    (s.boot.minimal = true → i + bs.length ≤ 2 ^ 26 → s.imageArea.wf →
      ∃ t, exec (.windowAccess .physical c (0x100000 + i) n (some bs)) s = .next t ∧ t = { s with imageArea := t.imageArea } ∧
        ∀ a, Sparse.get 0#8 t.imageArea a = if i ≤ a ∧ a < i + bs.length then bs.getD (a - i) 0#8 else Sparse.get 0#8 s.imageArea a) ∧
    (s.boot.minimal = true → exec (.windowAccess .physical c 0x840 n (some [1#8, 0#8, 0#8, 0#8])) s = .next { s with boot := { s.boot with starting := true } }) ∧
    ∀ p ctx, (s.contexts.find ctx).isSome = true → p ∈ (s.ctx ctx).ports →
      let b := s.boxOf ⟨p, ctx, 0, true⟩
      exec (.windowAccess (.virtual p ctx) c 0x1040 4 none) s = .next { s with out := s.out ++ [.bar (some (p, ctx)) 0x1040 (toLe b.status.toNat 4)] } ∧
      (i < 64 → exec (.windowAccess (.virtual p ctx) c (0x1000 + i) 1 none) s = .next { s with out := s.out ++ [.bar (some (p, ctx)) (0x1000 + i) [Sparse.get 0#8 b.area i]] }) ∧
      (i + bs.length ≤ 64 → b.area.wf → ∃ t b', exec (.windowAccess (.virtual p ctx) c (0x1000 + i) n (some bs)) s = .next t ∧
        t = s.setCtx ctx { s.ctx ctx with mail := (s.ctx ctx).mail.put p b' } ∧ b' = { b with area := b'.area } ∧
        ∀ a, Sparse.get 0#8 b'.area a = if i ≤ a ∧ a < i + bs.length then bs.getD (a - i) 0#8 else Sparse.get 0#8 b.area a))

/-! ### Words, steps, checks, memory and reset (R15-R40) -/

/-- R15-R20, R22, R37, R38: words written out from the encodings of the opcode maps (an 11-bit place: set bit and OPC; then the operands from bit 20 down) decode to
the instructions they stand for, some of every family; words with an unassigned place or a broken must-be-zero bit decode to none. -/
def Obligations.DecodedWords : Prop :=
  (∀ x ∈ ([
      (0x00014307, .add 5 6 7), (0x0040817F, .addi 2 2 127), (0x05014103, .cmpLtS 5 2 3), (0x05C1C405, .sel 7 8 5), (0x1062450B, .ffma 9 10 11), 
      (0x38820113, .ld32 8 2 2 3), (0x28028006, .brv 5 6), (0x20810480, .movB 4 9), (0x21218001, .rds 6 1), (0x28600500, .calli 10), 
      (0x2981C180, .voteBal 7 3), (0x30820113, .lds32 8 2 2 3), (0x31818200, .atsAdd 6 4 0 0), (0x39214100, .st32 5 2 0 0), 
      (0x3A818219, .atAdd 6 4 3 1)] : List (Word × Instr)), decode x.1 = some x.2) ∧
  (∀ x ∈ ([
      (0x3C800500, .disc 10 0 0), (0x3CE00004, .fenceRel 4), (0x28C10201, .pickFlip 4 4 1), (0x40424080, .join 9 1), (0x40010103, .spawn 4 2 3), 
      (0x40E00282, .hamp 0 5 2), (0x40A0C000, .bara 3), (0x50010103, .lres 4 2 3), (0x50200200, .lrel 4), (0x50400208, .lbind 4 8), 
      (0x50608300, .prset 2 6), (0x5081C100, .prget 7 2), (0x50C0C000, .tzero 3), (0x50E09885, .mma 2 3 1 5), (0x51009885, .mmap 2 3 1 5)] : List (Word × Instr)), decode x.1 = some x.2) ∧
  (∀ x ∈ ([
      (0x51200100, .mwait 2), (0x5142580C, .tst 9 3 0 12), (0x5180C000, .tnorm 3), (0x51A1C180, .texp 7 3), (0x51C1C180, .tchk 7 3), 
      (0x98227FFD, .bz 4 32765), (0x80020A30, .sadd 4 5 6), (0x84A0841F, .ssel 1 2 3 7), (0x90A10F8A, .sgetl 2 31 10), (0x98A01000, .calls 8), 
      (0x98437FF6, .bnz 6 32758), (0xA0221422, .sld64 4 10 1 2), (0xA0C31000, .satAdd 6 8 0 0), (0xA1000005, .sfence 5), (0xB6021440, .probe 4 10 2)] : List (Word × Instr)), decode x.1 = some x.2) ∧
  (∀ x ∈ ([
      (0xB6386400, .pgtake 48 50), (0xB641A828, .maprq 3 20 5), (0xA8001460, .cpk 10 12), (0xA8228000, .cpq 5), (0xAC200800, .donate 4), 
      (0xAC438000, .budget 7), (0xAC601200, .nap 9), (0xB0000005, .trap 5), (0xB0400001, .svc 1), (0xB4032800, .launch 6 20), (0xB4200C00, .lwait 6), 
      (0xB8028012, .trace 5 18), (0xFFE88FE0, .trailer 0 1 8 127), (0xFFE7FFE0, .trailer 0 0 127 127)] : List (Word × Instr)), decode x.1 = some x.2) ∧
  ∀ w ∈ ([0x07C00000, 0xFFC00000, 0x02C00020, 0x01600001, 0x04D00000, 0x99200001] : List Word), decode w = none

/-- R15-R20, R32, R33, R37, R38: a word decodes to an instruction exactly when the instruction encodes to the word, so that no bit of a word is dropped and no instruction has
two words; its bytes stand lowest address first; and through any table entry that holds the instruction's native operation, at any place of the same half but the
trailer's, the word with that place decodes to the instruction. The entry carries the flags of the map (SWRS is privileged or not by the register that it
writes, R87). -/
def Obligations.CodecRoundTrip : Prop :=
  (∀ (i : Instr) (w : Word), decode w = some i ↔ encode i = some w) ∧
  (∀ w : Word, decodeBytes (wordBytes w) = decode w) ∧
  ∀ (i : Instr) (w : Word), encode i = some w → isTrailer w = false →
    let e := nativeEntry (opc11 w).toNat
    e.getLsbD 15 = true ∧ e.getLsbD 16 = (infoOf i).ll ∧ e.getLsbD 17 = (infoOf i).rc ∧ e.getLsbD 18 = (infoOf i).xfer ∧ (e.getLsbD 19 = (infoOf i).priv ∨ ∃ d n, i = .swrs d n) ∧
    w.getLsbD 31 = !(infoOf i).lset ∧
    ∀ (entry : Nat → Word) (p : BitVec 11), p ≠ 0x7FF#11 → p.getLsbD 10 = w.getLsbD 31 → entry p.toNat = e →
      decodeEntry entry (p ++ w.extractLsb' 0 21) = .ok i

/-- R24, R33, R121, R130, R270: in a turn of a core the lowest quadrant issues that has not had its turn in this CYCLE, has something to issue, and above which none has issued; one whose scratchpad
access has been accepted goes first. Where no act of the rules is due first, a step issues the next word of the run: it decodes the word through its launch's table and executes it; a word that no entry
decodes raises 0x001, or 0x002 for a broken must-be-zero bit (0x003 first for a supervisor-only one in user code), before it has any effect. The agenda names the
turn (the model's choice, notes/assumptions/1.md); a word placed as notes/assumptions/10.md says runs in the very next step. -/
def Obligations.StepRunsDecodedWord : Prop :=
  (∀ w i, w < 2 ^ 32 → decodeTableWord 32 w = some i → step (State.reset.withFetchWord 32 w) = exec i (State.reset.withFetchWord 32 w)) ∧
  (∀ (s : State) (n : Nat), s.nextTurn s.focusCore = some n →
    let c := s.core s.focusCore
    s.toTurn = { s with focusQuad := n } ∧ n < 4 ∧
      (((c.quad n).presents true).isSome = true ∨
        (∀ k, k < 4 → (c.quad k).presents true = none) ∧ c.hadTurn n = false ∧ s.able s.focusCore n c = true ∧ (∀ k, n < k → k < 4 → c.hasIssued k = false) ∧
          ∀ k, k < n → c.hadTurn k = true ∨ s.able s.focusCore k c = false ∨ ∃ j, k < j ∧ j < 4 ∧ c.hasIssued j = true)) ∧
  (∀ s : State, s.nextTurn s.focusCore = none → s.acceptDue s.focusCore = true ∨ (s.core s.focusCore).tickBy (s.core s.focusCore).cycle = true → s.toTurn = s) ∧
  ∀ (s s0 : State) (V : View) (w : Word) (ws : List Word),
    (s.agenda = [] ∧ (s.busy = true ∨ s.autoEvent = none) ∧ s0 = s ∨
      ∃ c q rest, s.agenda = .issue c q :: rest ∧ s0 = { s with agenda := rest, focusCore := c, focusQuad := q }) →
    let s' := s0.toTurn
    s'.dueEvent s'.focusCore = none → s'.view = some V → V.r.words = w :: ws →
    (∀ i, decodeEntry (s'.entryOf V.w.mgmt V.w.launch) w = .ok i → step s = exec i s') ∧
    (decodeEntry (s'.entryOf V.w.mgmt V.w.launch) w = .error .unassigned → V.breakHit = none → step s = .next (V.issueFault 0x001)) ∧
    (∀ priv, decodeEntry (s'.entryOf V.w.mgmt V.w.launch) w = .error (.mustBeZero priv) → V.breakHit = none →
      step s = .next (V.issueFault (if w.getLsbD 31 = false ∧ V.w.mgmt = true then 0x001 else if priv = true ∧ V.super = false then 0x003 else 0x002)))

/-- R40, R30, R80, R92, R361: what happens to a word at issue: a breakpoint comparator that matches raises its cause; else the first issue check that fails raises its own
(a word whose checks look at operand values waits for these first); else a named register whose producer is pending beyond its window breaks the run and
the word waits; else a word whose pipe or operands are not free yet waits for their CYCLE. -/
def Obligations.IssueChecks : Prop :=
  ∀ (i : Instr) (w : Word) (s : State) (V : View), encode i = some w → isTrailer w = false → s.view = some V →
    let f := infoOf i
    let checks : List (Bool × Nat) :=
      [(f.lset && V.w.mgmt, 0x001), (f.priv && !V.super, 0x003), (!i.wf || !valuesOk V i, 0x002), ((f.lane ++ f.uni).any fun r => r.reg % r.align != 0, 0x005),
       (f.lane.any fun r => decide (r.reg < 120 ∧ V.w.allot < r.reg + r.span) || decide (120 ≤ r.reg ∧ 128 < r.reg + r.span), 0x004),
       (f.ll && match f.dest with
         | none => false
         | some (uniform, d) => decide ((if uniform then 56 else 120) ≤ d), 0x006),
       (f.full && !V.fullMask && !rangeBad V i, 0x011)]
    (∀ b, V.breakHit = some b → exec i s = .next (V.fault (0x100 + b) 0#64 V.em)) ∧
    (V.breakHit = none → (checksValues i = true → V.score f = none) → ∀ b c, checks.find? (·.1) = some (b, c) → exec i s = .next (V.issueFault c)) ∧
    (V.breakHit = none → checks.find? (·.1) = none → ∀ x, V.score f = some x → exec i s = .next (V.breakRun x)) ∧
    (V.breakHit = none → checks.find? (·.1) = none → V.score f = none → rangeBad V i = false → V.c.cycle < V.readyAt f → exec i s = .next (V.pipeWait f))

/-- Every step keeps memory in its canonical form (addresses rising, no byte listed that reads as zero), and so the copy of home memory behind
dirty owners: equal memories are equal data. The form is the model's own (notes/assumptions/5.md). -/
def Obligations.MemoryStaysCanonical : Prop :=
  ∀ s t : State, s.mem.wf = true → s.behind.wf = true → step s = .next t → t.mem.wf = true ∧ t.behind.wf = true

/-- R32, R82, R195, R265, R272, R304: after reset no slot table is installed and no core holds a warp; no decode-table image is loaded; every CYCLE is 0; no line is cached and every
directory entry is Uncached; no reservation is live, and the precision registers read 0x377; memory is canonical. Nothing moves of itself. The byte an unlisted address reads
(notes/assumptions/5.md), TIME (3) and the remaining fields (4) are the model's choice. -/
def Obligations.ResetState : Prop :=
  let s := State.reset
  s.mem.wf = true ∧ s.behind.wf = true ∧ s.slots.table = none ∧ s.launches = [] ∧ s.boot.failed = 0 ∧ s.boot.minimal = false ∧
  (∀ slot, s.tables.find slot = none) ∧ (∀ c, (s.core c).cycle = 0 ∧ (s.core c).l1 = [] ∧ (s.core c).res = [] ∧ ∀ ctx n, (s.core c).pr ctx n = 0x377#32) ∧
  (∀ c q w, s.warp c q w = none) ∧ (∀ line, (s.dirEntry line).st = .uncached ∧ ∀ f, (s.field f).line line = none) ∧ step s = .next s
end

