-- ==== Sys2Proof/Laws/Sparse.lean ====
section
/-! SUPPORT. Read after write on the two containers, and the canonical form of a sparse map. -/
namespace Sys2Proof.Machine
variable {α : Type}

theorem Sparse.get_filter_ne (d : α) (m : Sparse α) (a b : Nat) :
    Sparse.get d (m.filter fun c => c.1 ≠ a) b = if b = a then d else Sparse.get d m b := by
  induction m <;> grind [Sparse.get]

theorem Sparse.get_insert (d : α) (m : Sparse α) (a : Nat) (v : α) (b : Nat) :
    Sparse.get d (Sparse.insert m a v) b = if b = a then v else Sparse.get d m b := by
  induction m <;> grind [Sparse.insert, Sparse.get]

/-- A read after a write: the value written at its address, and everything else as before. -/
@[simp] theorem Sparse.get_set [DecidableEq α] (d : α) (m : Sparse α) (a : Nat) (v : α) (b : Nat) :
    Sparse.get d (Sparse.set d m a v) b = if b = a then v else Sparse.get d m b := by
  by_cases h : v = d <;> simp only [Sparse.set, h, if_true, if_false, Sparse.get_filter_ne, Sparse.get_insert]

/-- A read after a write of consecutive cells. -/
theorem Sparse.get_setAll [DecidableEq α] (d : α) (vs : List α) (m : Sparse α) (a b : Nat) :
    Sparse.get d (Sparse.setAll d m a vs) b = if a ≤ b ∧ b < a + vs.length then vs.getD (b - a) d else Sparse.get d m b := by
  fun_induction Sparse.setAll d m a vs <;> grind [Sparse.get_set]

/-- Cells that are dropped read as the default. -/
theorem Sparse.get_clear (d : α) (p : Nat → Bool) (m : Sparse α) (b : Nat) :
    Sparse.get d (Sparse.clear p m) b = if p b then d else Sparse.get d m b := by
  unfold Sparse.clear
  induction m <;> grind [Sparse.get]

@[simp] theorem Sparse.length_getAll (d : α) (m : Sparse α) (a n : Nat) : (Sparse.getAll d m a n).length = n := by
  fun_induction Sparse.getAll d m a n <;> grind

/-! ### The canonical form -/

/-- Every cell of a map lies above an address. -/
def Sparse.above (a : Nat) (m : Sparse α) : Prop := ∀ c ∈ m, a < c.1

theorem Sparse.wf_cons [DecidableEq α] (d : α) (c : Nat × α) (m : Sparse α) :
    Sparse.wf d (c :: m) = true ↔ c.2 ≠ d ∧ Sparse.above c.1 m ∧ Sparse.wf d m = true := by
  induction m generalizing c <;> grind [Sparse.wf, Sparse.above]

theorem Sparse.above_filter (a : Nat) (p : Nat × α → Bool) (m : Sparse α) (h : Sparse.above a m) : Sparse.above a (m.filter p) := by
  grind [Sparse.above]

theorem Sparse.wf_filter [DecidableEq α] (d : α) (p : Nat × α → Bool) (m : Sparse α) (h : Sparse.wf d m = true) :
    Sparse.wf d (m.filter p) = true := by
  induction m <;> grind [Sparse.wf_cons, Sparse.above_filter]

theorem Sparse.above_insert (a b : Nat) (v : α) (m : Sparse α) (h : Sparse.above a m) (hb : a < b) :
    Sparse.above a (Sparse.insert m b v) := by
  induction m <;> grind [Sparse.insert, Sparse.above]

theorem Sparse.wf_insert [DecidableEq α] (d : α) (m : Sparse α) (a : Nat) (v : α) (hv : v ≠ d) (h : Sparse.wf d m = true) :
    Sparse.wf d (Sparse.insert m a v) = true := by
  induction m <;> grind [Sparse.wf, Sparse.insert, Sparse.wf_cons, Sparse.above_insert, Sparse.above]

/-- A write keeps the canonical form. -/
theorem Sparse.wf_set [DecidableEq α] (d : α) (m : Sparse α) (a : Nat) (v : α) (h : Sparse.wf d m = true) :
    Sparse.wf d (Sparse.set d m a v) = true := by
  grind [Sparse.set, Sparse.wf_filter, Sparse.wf_insert]

theorem Sparse.wf_setAll [DecidableEq α] (d : α) (vs : List α) (m : Sparse α) (a : Nat) (h : Sparse.wf d m = true) :
    Sparse.wf d (Sparse.setAll d m a vs) = true := by
  fun_induction Sparse.setAll d m a vs <;> grind [Sparse.wf_set]

theorem Sparse.wf_clear [DecidableEq α] (d : α) (p : Nat → Bool) (m : Sparse α) (h : Sparse.wf d m = true) :
    Sparse.wf d (Sparse.clear p m) = true := Sparse.wf_filter d _ m h

/-! ### Tables -/

@[simp] theorem Table.find_put (m : Table α) (a : Nat) (v : α) (b : Nat) :
    (Table.put m a v).find b = if b = a then some v else Table.find m b := by
  induction m <;> grind [Table.put, Table.find]

@[simp] theorem Table.find_drop (m : Table α) (a b : Nat) : (Table.drop m a).find b = if b = a then none else Table.find m b := by
  unfold Table.drop
  induction m <;> grind [Table.find]

end Sys2Proof.Machine
end

