-- ==== Sys2Proof/Laws/State.lean ====
section
/-! SUPPORT. What the named updates of the state leave alone, field by field, and what a record reads after an update. -/
namespace Sys2Proof.Machine

@[simp] theorem State.setCore_agenda (s : State) (n : Nat) (c : Core) : (s.setCore n c).agenda = s.agenda := rfl
@[simp] theorem State.setCore_focusCore (s : State) (n : Nat) (c : Core) : (s.setCore n c).focusCore = s.focusCore := rfl
@[simp] theorem State.setCore_focusQuad (s : State) (n : Nat) (c : Core) : (s.setCore n c).focusQuad = s.focusQuad := rfl
@[simp] theorem State.setCore_fresh (s : State) (n : Nat) (c : Core) : (s.setCore n c).fresh = s.fresh := rfl
@[simp] theorem State.setCore_nextUid (s : State) (n : Nat) (c : Core) : (s.setCore n c).nextUid = s.nextUid := rfl
@[simp] theorem State.setCore_mem (s : State) (n : Nat) (c : Core) : (s.setCore n c).mem = s.mem := rfl
@[simp] theorem State.setCore_behind (s : State) (n : Nat) (c : Core) : (s.setCore n c).behind = s.behind := rfl
@[simp] theorem State.setCore_undefined (s : State) (n : Nat) (c : Core) : (s.setCore n c).undefined = s.undefined := rfl
@[simp] theorem State.setCore_unreadable (s : State) (n : Nat) (c : Core) : (s.setCore n c).unreadable = s.unreadable := rfl
@[simp] theorem State.setCore_time (s : State) (n : Nat) (c : Core) : (s.setCore n c).time = s.time := rfl
@[simp] theorem State.setCore_clusters (s : State) (n : Nat) (c : Core) : (s.setCore n c).clusters = s.clusters := rfl
@[simp] theorem State.setCore_fields (s : State) (n : Nat) (c : Core) : (s.setCore n c).fields = s.fields := rfl
@[simp] theorem State.setCore_contexts (s : State) (n : Nat) (c : Core) : (s.setCore n c).contexts = s.contexts := rfl
@[simp] theorem State.setCore_tenants (s : State) (n : Nat) (c : Core) : (s.setCore n c).tenants = s.tenants := rfl
@[simp] theorem State.setCore_budgets (s : State) (n : Nat) (c : Core) : (s.setCore n c).budgets = s.budgets := rfl
@[simp] theorem State.setCore_launches (s : State) (n : Nat) (c : Core) : (s.setCore n c).launches = s.launches := rfl
@[simp] theorem State.setCore_queues (s : State) (n : Nat) (c : Core) : (s.setCore n c).queues = s.queues := rfl
@[simp] theorem State.setCore_tables (s : State) (n : Nat) (c : Core) : (s.setCore n c).tables = s.tables := rfl
@[simp] theorem State.setCore_slots (s : State) (n : Nat) (c : Core) : (s.setCore n c).slots = s.slots := rfl
@[simp] theorem State.setCore_groups (s : State) (n : Nat) (c : Core) : (s.setCore n c).groups = s.groups := rfl
@[simp] theorem State.setCore_deliveries (s : State) (n : Nat) (c : Core) : (s.setCore n c).deliveries = s.deliveries := rfl
@[simp] theorem State.setCore_peerSegs (s : State) (n : Nat) (c : Core) : (s.setCore n c).peerSegs = s.peerSegs := rfl
@[simp] theorem State.setCore_ports (s : State) (n : Nat) (c : Core) : (s.setCore n c).ports = s.ports := rfl
@[simp] theorem State.setCore_deviceId (s : State) (n : Nat) (c : Core) : (s.setCore n c).deviceId = s.deviceId := rfl
@[simp] theorem State.setCore_pulls (s : State) (n : Nat) (c : Core) : (s.setCore n c).pulls = s.pulls := rfl
@[simp] theorem State.setCore_takes (s : State) (n : Nat) (c : Core) : (s.setCore n c).takes = s.takes := rfl
@[simp] theorem State.setCore_due (s : State) (n : Nat) (c : Core) : (s.setCore n c).due = s.due := rfl
@[simp] theorem State.setCore_out (s : State) (n : Nat) (c : Core) : (s.setCore n c).out = s.out := rfl
@[simp] theorem State.setCore_health (s : State) (n : Nat) (c : Core) : (s.setCore n c).health = s.health := rfl
@[simp] theorem State.setCore_boot (s : State) (n : Nat) (c : Core) : (s.setCore n c).boot = s.boot := rfl
@[simp] theorem State.setCore_measurements (s : State) (n : Nat) (c : Core) : (s.setCore n c).measurements = s.measurements := rfl
@[simp] theorem State.setCore_rollback (s : State) (n : Nat) (c : Core) : (s.setCore n c).rollback = s.rollback := rfl
@[simp] theorem State.setCore_nodeNext (s : State) (n : Nat) (c : Core) : (s.setCore n c).nodeNext = s.nodeNext := rfl
@[simp] theorem State.setCore_frames (s : State) (n : Nat) (c : Core) : (s.setCore n c).frames = s.frames := rfl
@[simp] theorem State.setCore_undrawn (s : State) (n : Nat) (c : Core) : (s.setCore n c).undrawn = s.undrawn := rfl
@[simp] theorem State.setCore_imageArea (s : State) (n : Nat) (c : Core) : (s.setCore n c).imageArea = s.imageArea := rfl

@[simp] theorem State.setCluster_agenda (s : State) (n : Nat) (c : Cluster) : (s.setCluster n c).agenda = s.agenda := rfl
@[simp] theorem State.setCluster_focusCore (s : State) (n : Nat) (c : Cluster) : (s.setCluster n c).focusCore = s.focusCore := rfl
@[simp] theorem State.setCluster_focusQuad (s : State) (n : Nat) (c : Cluster) : (s.setCluster n c).focusQuad = s.focusQuad := rfl
@[simp] theorem State.setCluster_fresh (s : State) (n : Nat) (c : Cluster) : (s.setCluster n c).fresh = s.fresh := rfl
@[simp] theorem State.setCluster_nextUid (s : State) (n : Nat) (c : Cluster) : (s.setCluster n c).nextUid = s.nextUid := rfl
@[simp] theorem State.setCluster_mem (s : State) (n : Nat) (c : Cluster) : (s.setCluster n c).mem = s.mem := rfl
@[simp] theorem State.setCluster_behind (s : State) (n : Nat) (c : Cluster) : (s.setCluster n c).behind = s.behind := rfl
@[simp] theorem State.setCluster_undefined (s : State) (n : Nat) (c : Cluster) : (s.setCluster n c).undefined = s.undefined := rfl
@[simp] theorem State.setCluster_unreadable (s : State) (n : Nat) (c : Cluster) : (s.setCluster n c).unreadable = s.unreadable := rfl
@[simp] theorem State.setCluster_time (s : State) (n : Nat) (c : Cluster) : (s.setCluster n c).time = s.time := rfl
@[simp] theorem State.setCluster_cores (s : State) (n : Nat) (c : Cluster) : (s.setCluster n c).cores = s.cores := rfl
@[simp] theorem State.setCluster_fields (s : State) (n : Nat) (c : Cluster) : (s.setCluster n c).fields = s.fields := rfl
@[simp] theorem State.setCluster_contexts (s : State) (n : Nat) (c : Cluster) : (s.setCluster n c).contexts = s.contexts := rfl
@[simp] theorem State.setCluster_tenants (s : State) (n : Nat) (c : Cluster) : (s.setCluster n c).tenants = s.tenants := rfl
@[simp] theorem State.setCluster_budgets (s : State) (n : Nat) (c : Cluster) : (s.setCluster n c).budgets = s.budgets := rfl
@[simp] theorem State.setCluster_launches (s : State) (n : Nat) (c : Cluster) : (s.setCluster n c).launches = s.launches := rfl
@[simp] theorem State.setCluster_queues (s : State) (n : Nat) (c : Cluster) : (s.setCluster n c).queues = s.queues := rfl
@[simp] theorem State.setCluster_tables (s : State) (n : Nat) (c : Cluster) : (s.setCluster n c).tables = s.tables := rfl
@[simp] theorem State.setCluster_slots (s : State) (n : Nat) (c : Cluster) : (s.setCluster n c).slots = s.slots := rfl
@[simp] theorem State.setCluster_groups (s : State) (n : Nat) (c : Cluster) : (s.setCluster n c).groups = s.groups := rfl
@[simp] theorem State.setCluster_deliveries (s : State) (n : Nat) (c : Cluster) : (s.setCluster n c).deliveries = s.deliveries := rfl
@[simp] theorem State.setCluster_peerSegs (s : State) (n : Nat) (c : Cluster) : (s.setCluster n c).peerSegs = s.peerSegs := rfl
@[simp] theorem State.setCluster_ports (s : State) (n : Nat) (c : Cluster) : (s.setCluster n c).ports = s.ports := rfl
@[simp] theorem State.setCluster_deviceId (s : State) (n : Nat) (c : Cluster) : (s.setCluster n c).deviceId = s.deviceId := rfl
@[simp] theorem State.setCluster_pulls (s : State) (n : Nat) (c : Cluster) : (s.setCluster n c).pulls = s.pulls := rfl
@[simp] theorem State.setCluster_takes (s : State) (n : Nat) (c : Cluster) : (s.setCluster n c).takes = s.takes := rfl
@[simp] theorem State.setCluster_due (s : State) (n : Nat) (c : Cluster) : (s.setCluster n c).due = s.due := rfl
@[simp] theorem State.setCluster_out (s : State) (n : Nat) (c : Cluster) : (s.setCluster n c).out = s.out := rfl
@[simp] theorem State.setCluster_health (s : State) (n : Nat) (c : Cluster) : (s.setCluster n c).health = s.health := rfl
@[simp] theorem State.setCluster_boot (s : State) (n : Nat) (c : Cluster) : (s.setCluster n c).boot = s.boot := rfl
@[simp] theorem State.setCluster_measurements (s : State) (n : Nat) (c : Cluster) : (s.setCluster n c).measurements = s.measurements := rfl
@[simp] theorem State.setCluster_rollback (s : State) (n : Nat) (c : Cluster) : (s.setCluster n c).rollback = s.rollback := rfl
@[simp] theorem State.setCluster_nodeNext (s : State) (n : Nat) (c : Cluster) : (s.setCluster n c).nodeNext = s.nodeNext := rfl
@[simp] theorem State.setCluster_frames (s : State) (n : Nat) (c : Cluster) : (s.setCluster n c).frames = s.frames := rfl
@[simp] theorem State.setCluster_undrawn (s : State) (n : Nat) (c : Cluster) : (s.setCluster n c).undrawn = s.undrawn := rfl
@[simp] theorem State.setCluster_imageArea (s : State) (n : Nat) (c : Cluster) : (s.setCluster n c).imageArea = s.imageArea := rfl

@[simp] theorem State.setField_agenda (s : State) (n : Nat) (f : Field) : (s.setField n f).agenda = s.agenda := rfl
@[simp] theorem State.setField_focusCore (s : State) (n : Nat) (f : Field) : (s.setField n f).focusCore = s.focusCore := rfl
@[simp] theorem State.setField_focusQuad (s : State) (n : Nat) (f : Field) : (s.setField n f).focusQuad = s.focusQuad := rfl
@[simp] theorem State.setField_fresh (s : State) (n : Nat) (f : Field) : (s.setField n f).fresh = s.fresh := rfl
@[simp] theorem State.setField_nextUid (s : State) (n : Nat) (f : Field) : (s.setField n f).nextUid = s.nextUid := rfl
@[simp] theorem State.setField_mem (s : State) (n : Nat) (f : Field) : (s.setField n f).mem = s.mem := rfl
@[simp] theorem State.setField_behind (s : State) (n : Nat) (f : Field) : (s.setField n f).behind = s.behind := rfl
@[simp] theorem State.setField_undefined (s : State) (n : Nat) (f : Field) : (s.setField n f).undefined = s.undefined := rfl
@[simp] theorem State.setField_unreadable (s : State) (n : Nat) (f : Field) : (s.setField n f).unreadable = s.unreadable := rfl
@[simp] theorem State.setField_time (s : State) (n : Nat) (f : Field) : (s.setField n f).time = s.time := rfl
@[simp] theorem State.setField_cores (s : State) (n : Nat) (f : Field) : (s.setField n f).cores = s.cores := rfl
@[simp] theorem State.setField_clusters (s : State) (n : Nat) (f : Field) : (s.setField n f).clusters = s.clusters := rfl
@[simp] theorem State.setField_contexts (s : State) (n : Nat) (f : Field) : (s.setField n f).contexts = s.contexts := rfl
@[simp] theorem State.setField_tenants (s : State) (n : Nat) (f : Field) : (s.setField n f).tenants = s.tenants := rfl
@[simp] theorem State.setField_budgets (s : State) (n : Nat) (f : Field) : (s.setField n f).budgets = s.budgets := rfl
@[simp] theorem State.setField_launches (s : State) (n : Nat) (f : Field) : (s.setField n f).launches = s.launches := rfl
@[simp] theorem State.setField_queues (s : State) (n : Nat) (f : Field) : (s.setField n f).queues = s.queues := rfl
@[simp] theorem State.setField_tables (s : State) (n : Nat) (f : Field) : (s.setField n f).tables = s.tables := rfl
@[simp] theorem State.setField_slots (s : State) (n : Nat) (f : Field) : (s.setField n f).slots = s.slots := rfl
@[simp] theorem State.setField_groups (s : State) (n : Nat) (f : Field) : (s.setField n f).groups = s.groups := rfl
@[simp] theorem State.setField_deliveries (s : State) (n : Nat) (f : Field) : (s.setField n f).deliveries = s.deliveries := rfl
@[simp] theorem State.setField_peerSegs (s : State) (n : Nat) (f : Field) : (s.setField n f).peerSegs = s.peerSegs := rfl
@[simp] theorem State.setField_ports (s : State) (n : Nat) (f : Field) : (s.setField n f).ports = s.ports := rfl
@[simp] theorem State.setField_deviceId (s : State) (n : Nat) (f : Field) : (s.setField n f).deviceId = s.deviceId := rfl
@[simp] theorem State.setField_pulls (s : State) (n : Nat) (f : Field) : (s.setField n f).pulls = s.pulls := rfl
@[simp] theorem State.setField_takes (s : State) (n : Nat) (f : Field) : (s.setField n f).takes = s.takes := rfl
@[simp] theorem State.setField_due (s : State) (n : Nat) (f : Field) : (s.setField n f).due = s.due := rfl
@[simp] theorem State.setField_out (s : State) (n : Nat) (f : Field) : (s.setField n f).out = s.out := rfl
@[simp] theorem State.setField_health (s : State) (n : Nat) (f : Field) : (s.setField n f).health = s.health := rfl
@[simp] theorem State.setField_boot (s : State) (n : Nat) (f : Field) : (s.setField n f).boot = s.boot := rfl
@[simp] theorem State.setField_measurements (s : State) (n : Nat) (f : Field) : (s.setField n f).measurements = s.measurements := rfl
@[simp] theorem State.setField_rollback (s : State) (n : Nat) (f : Field) : (s.setField n f).rollback = s.rollback := rfl
@[simp] theorem State.setField_nodeNext (s : State) (n : Nat) (f : Field) : (s.setField n f).nodeNext = s.nodeNext := rfl
@[simp] theorem State.setField_frames (s : State) (n : Nat) (f : Field) : (s.setField n f).frames = s.frames := rfl
@[simp] theorem State.setField_undrawn (s : State) (n : Nat) (f : Field) : (s.setField n f).undrawn = s.undrawn := rfl
@[simp] theorem State.setField_imageArea (s : State) (n : Nat) (f : Field) : (s.setField n f).imageArea = s.imageArea := rfl

@[simp] theorem State.setCtx_agenda (s : State) (n : Nat) (c : Context) : (s.setCtx n c).agenda = s.agenda := rfl
@[simp] theorem State.setCtx_focusCore (s : State) (n : Nat) (c : Context) : (s.setCtx n c).focusCore = s.focusCore := rfl
@[simp] theorem State.setCtx_focusQuad (s : State) (n : Nat) (c : Context) : (s.setCtx n c).focusQuad = s.focusQuad := rfl
@[simp] theorem State.setCtx_fresh (s : State) (n : Nat) (c : Context) : (s.setCtx n c).fresh = s.fresh := rfl
@[simp] theorem State.setCtx_nextUid (s : State) (n : Nat) (c : Context) : (s.setCtx n c).nextUid = s.nextUid := rfl
@[simp] theorem State.setCtx_mem (s : State) (n : Nat) (c : Context) : (s.setCtx n c).mem = s.mem := rfl
@[simp] theorem State.setCtx_behind (s : State) (n : Nat) (c : Context) : (s.setCtx n c).behind = s.behind := rfl
@[simp] theorem State.setCtx_undefined (s : State) (n : Nat) (c : Context) : (s.setCtx n c).undefined = s.undefined := rfl
@[simp] theorem State.setCtx_unreadable (s : State) (n : Nat) (c : Context) : (s.setCtx n c).unreadable = s.unreadable := rfl
@[simp] theorem State.setCtx_time (s : State) (n : Nat) (c : Context) : (s.setCtx n c).time = s.time := rfl
@[simp] theorem State.setCtx_cores (s : State) (n : Nat) (c : Context) : (s.setCtx n c).cores = s.cores := rfl
@[simp] theorem State.setCtx_clusters (s : State) (n : Nat) (c : Context) : (s.setCtx n c).clusters = s.clusters := rfl
@[simp] theorem State.setCtx_fields (s : State) (n : Nat) (c : Context) : (s.setCtx n c).fields = s.fields := rfl
@[simp] theorem State.setCtx_tenants (s : State) (n : Nat) (c : Context) : (s.setCtx n c).tenants = s.tenants := rfl
@[simp] theorem State.setCtx_budgets (s : State) (n : Nat) (c : Context) : (s.setCtx n c).budgets = s.budgets := rfl
@[simp] theorem State.setCtx_launches (s : State) (n : Nat) (c : Context) : (s.setCtx n c).launches = s.launches := rfl
@[simp] theorem State.setCtx_queues (s : State) (n : Nat) (c : Context) : (s.setCtx n c).queues = s.queues := rfl
@[simp] theorem State.setCtx_tables (s : State) (n : Nat) (c : Context) : (s.setCtx n c).tables = s.tables := rfl
@[simp] theorem State.setCtx_slots (s : State) (n : Nat) (c : Context) : (s.setCtx n c).slots = s.slots := rfl
@[simp] theorem State.setCtx_groups (s : State) (n : Nat) (c : Context) : (s.setCtx n c).groups = s.groups := rfl
@[simp] theorem State.setCtx_deliveries (s : State) (n : Nat) (c : Context) : (s.setCtx n c).deliveries = s.deliveries := rfl
@[simp] theorem State.setCtx_peerSegs (s : State) (n : Nat) (c : Context) : (s.setCtx n c).peerSegs = s.peerSegs := rfl
@[simp] theorem State.setCtx_ports (s : State) (n : Nat) (c : Context) : (s.setCtx n c).ports = s.ports := rfl
@[simp] theorem State.setCtx_deviceId (s : State) (n : Nat) (c : Context) : (s.setCtx n c).deviceId = s.deviceId := rfl
@[simp] theorem State.setCtx_pulls (s : State) (n : Nat) (c : Context) : (s.setCtx n c).pulls = s.pulls := rfl
@[simp] theorem State.setCtx_takes (s : State) (n : Nat) (c : Context) : (s.setCtx n c).takes = s.takes := rfl
@[simp] theorem State.setCtx_due (s : State) (n : Nat) (c : Context) : (s.setCtx n c).due = s.due := rfl
@[simp] theorem State.setCtx_out (s : State) (n : Nat) (c : Context) : (s.setCtx n c).out = s.out := rfl
@[simp] theorem State.setCtx_health (s : State) (n : Nat) (c : Context) : (s.setCtx n c).health = s.health := rfl
@[simp] theorem State.setCtx_boot (s : State) (n : Nat) (c : Context) : (s.setCtx n c).boot = s.boot := rfl
@[simp] theorem State.setCtx_measurements (s : State) (n : Nat) (c : Context) : (s.setCtx n c).measurements = s.measurements := rfl
@[simp] theorem State.setCtx_rollback (s : State) (n : Nat) (c : Context) : (s.setCtx n c).rollback = s.rollback := rfl
@[simp] theorem State.setCtx_nodeNext (s : State) (n : Nat) (c : Context) : (s.setCtx n c).nodeNext = s.nodeNext := rfl
@[simp] theorem State.setCtx_frames (s : State) (n : Nat) (c : Context) : (s.setCtx n c).frames = s.frames := rfl
@[simp] theorem State.setCtx_undrawn (s : State) (n : Nat) (c : Context) : (s.setCtx n c).undrawn = s.undrawn := rfl
@[simp] theorem State.setCtx_imageArea (s : State) (n : Nat) (c : Context) : (s.setCtx n c).imageArea = s.imageArea := rfl

@[simp] theorem State.setQuad_agenda (s : State) (n k : Nat) (q : Quadrant) : (s.setQuad n k q).agenda = s.agenda := rfl
@[simp] theorem State.setQuad_focusCore (s : State) (n k : Nat) (q : Quadrant) : (s.setQuad n k q).focusCore = s.focusCore := rfl
@[simp] theorem State.setQuad_focusQuad (s : State) (n k : Nat) (q : Quadrant) : (s.setQuad n k q).focusQuad = s.focusQuad := rfl
@[simp] theorem State.setQuad_fresh (s : State) (n k : Nat) (q : Quadrant) : (s.setQuad n k q).fresh = s.fresh := rfl
@[simp] theorem State.setQuad_nextUid (s : State) (n k : Nat) (q : Quadrant) : (s.setQuad n k q).nextUid = s.nextUid := rfl
@[simp] theorem State.setQuad_mem (s : State) (n k : Nat) (q : Quadrant) : (s.setQuad n k q).mem = s.mem := rfl
@[simp] theorem State.setQuad_behind (s : State) (n k : Nat) (q : Quadrant) : (s.setQuad n k q).behind = s.behind := rfl
@[simp] theorem State.setQuad_undefined (s : State) (n k : Nat) (q : Quadrant) : (s.setQuad n k q).undefined = s.undefined := rfl
@[simp] theorem State.setQuad_unreadable (s : State) (n k : Nat) (q : Quadrant) : (s.setQuad n k q).unreadable = s.unreadable := rfl
@[simp] theorem State.setQuad_time (s : State) (n k : Nat) (q : Quadrant) : (s.setQuad n k q).time = s.time := rfl
@[simp] theorem State.setQuad_clusters (s : State) (n k : Nat) (q : Quadrant) : (s.setQuad n k q).clusters = s.clusters := rfl
@[simp] theorem State.setQuad_fields (s : State) (n k : Nat) (q : Quadrant) : (s.setQuad n k q).fields = s.fields := rfl
@[simp] theorem State.setQuad_contexts (s : State) (n k : Nat) (q : Quadrant) : (s.setQuad n k q).contexts = s.contexts := rfl
@[simp] theorem State.setQuad_tenants (s : State) (n k : Nat) (q : Quadrant) : (s.setQuad n k q).tenants = s.tenants := rfl
@[simp] theorem State.setQuad_budgets (s : State) (n k : Nat) (q : Quadrant) : (s.setQuad n k q).budgets = s.budgets := rfl
@[simp] theorem State.setQuad_launches (s : State) (n k : Nat) (q : Quadrant) : (s.setQuad n k q).launches = s.launches := rfl
@[simp] theorem State.setQuad_queues (s : State) (n k : Nat) (q : Quadrant) : (s.setQuad n k q).queues = s.queues := rfl
@[simp] theorem State.setQuad_tables (s : State) (n k : Nat) (q : Quadrant) : (s.setQuad n k q).tables = s.tables := rfl
@[simp] theorem State.setQuad_slots (s : State) (n k : Nat) (q : Quadrant) : (s.setQuad n k q).slots = s.slots := rfl
@[simp] theorem State.setQuad_groups (s : State) (n k : Nat) (q : Quadrant) : (s.setQuad n k q).groups = s.groups := rfl
@[simp] theorem State.setQuad_deliveries (s : State) (n k : Nat) (q : Quadrant) : (s.setQuad n k q).deliveries = s.deliveries := rfl
@[simp] theorem State.setQuad_peerSegs (s : State) (n k : Nat) (q : Quadrant) : (s.setQuad n k q).peerSegs = s.peerSegs := rfl
@[simp] theorem State.setQuad_ports (s : State) (n k : Nat) (q : Quadrant) : (s.setQuad n k q).ports = s.ports := rfl
@[simp] theorem State.setQuad_deviceId (s : State) (n k : Nat) (q : Quadrant) : (s.setQuad n k q).deviceId = s.deviceId := rfl
@[simp] theorem State.setQuad_pulls (s : State) (n k : Nat) (q : Quadrant) : (s.setQuad n k q).pulls = s.pulls := rfl
@[simp] theorem State.setQuad_takes (s : State) (n k : Nat) (q : Quadrant) : (s.setQuad n k q).takes = s.takes := rfl
@[simp] theorem State.setQuad_due (s : State) (n k : Nat) (q : Quadrant) : (s.setQuad n k q).due = s.due := rfl
@[simp] theorem State.setQuad_out (s : State) (n k : Nat) (q : Quadrant) : (s.setQuad n k q).out = s.out := rfl
@[simp] theorem State.setQuad_health (s : State) (n k : Nat) (q : Quadrant) : (s.setQuad n k q).health = s.health := rfl
@[simp] theorem State.setQuad_boot (s : State) (n k : Nat) (q : Quadrant) : (s.setQuad n k q).boot = s.boot := rfl
@[simp] theorem State.setQuad_measurements (s : State) (n k : Nat) (q : Quadrant) : (s.setQuad n k q).measurements = s.measurements := rfl
@[simp] theorem State.setQuad_rollback (s : State) (n k : Nat) (q : Quadrant) : (s.setQuad n k q).rollback = s.rollback := rfl
@[simp] theorem State.setQuad_nodeNext (s : State) (n k : Nat) (q : Quadrant) : (s.setQuad n k q).nodeNext = s.nodeNext := rfl
@[simp] theorem State.setQuad_frames (s : State) (n k : Nat) (q : Quadrant) : (s.setQuad n k q).frames = s.frames := rfl
@[simp] theorem State.setQuad_undrawn (s : State) (n k : Nat) (q : Quadrant) : (s.setQuad n k q).undrawn = s.undrawn := rfl
@[simp] theorem State.setQuad_imageArea (s : State) (n k : Nat) (q : Quadrant) : (s.setQuad n k q).imageArea = s.imageArea := rfl

@[simp] theorem State.setWarp_agenda (s : State) (n k j : Nat) (w : Warp) : (s.setWarp n k j w).agenda = s.agenda := rfl
@[simp] theorem State.setWarp_focusCore (s : State) (n k j : Nat) (w : Warp) : (s.setWarp n k j w).focusCore = s.focusCore := rfl
@[simp] theorem State.setWarp_focusQuad (s : State) (n k j : Nat) (w : Warp) : (s.setWarp n k j w).focusQuad = s.focusQuad := rfl
@[simp] theorem State.setWarp_fresh (s : State) (n k j : Nat) (w : Warp) : (s.setWarp n k j w).fresh = s.fresh := rfl
@[simp] theorem State.setWarp_nextUid (s : State) (n k j : Nat) (w : Warp) : (s.setWarp n k j w).nextUid = s.nextUid := rfl
@[simp] theorem State.setWarp_mem (s : State) (n k j : Nat) (w : Warp) : (s.setWarp n k j w).mem = s.mem := rfl
@[simp] theorem State.setWarp_behind (s : State) (n k j : Nat) (w : Warp) : (s.setWarp n k j w).behind = s.behind := rfl
@[simp] theorem State.setWarp_undefined (s : State) (n k j : Nat) (w : Warp) : (s.setWarp n k j w).undefined = s.undefined := rfl
@[simp] theorem State.setWarp_unreadable (s : State) (n k j : Nat) (w : Warp) : (s.setWarp n k j w).unreadable = s.unreadable := rfl
@[simp] theorem State.setWarp_time (s : State) (n k j : Nat) (w : Warp) : (s.setWarp n k j w).time = s.time := rfl
@[simp] theorem State.setWarp_clusters (s : State) (n k j : Nat) (w : Warp) : (s.setWarp n k j w).clusters = s.clusters := rfl
@[simp] theorem State.setWarp_fields (s : State) (n k j : Nat) (w : Warp) : (s.setWarp n k j w).fields = s.fields := rfl
@[simp] theorem State.setWarp_contexts (s : State) (n k j : Nat) (w : Warp) : (s.setWarp n k j w).contexts = s.contexts := rfl
@[simp] theorem State.setWarp_tenants (s : State) (n k j : Nat) (w : Warp) : (s.setWarp n k j w).tenants = s.tenants := rfl
@[simp] theorem State.setWarp_budgets (s : State) (n k j : Nat) (w : Warp) : (s.setWarp n k j w).budgets = s.budgets := rfl
@[simp] theorem State.setWarp_launches (s : State) (n k j : Nat) (w : Warp) : (s.setWarp n k j w).launches = s.launches := rfl
@[simp] theorem State.setWarp_queues (s : State) (n k j : Nat) (w : Warp) : (s.setWarp n k j w).queues = s.queues := rfl
@[simp] theorem State.setWarp_tables (s : State) (n k j : Nat) (w : Warp) : (s.setWarp n k j w).tables = s.tables := rfl
@[simp] theorem State.setWarp_slots (s : State) (n k j : Nat) (w : Warp) : (s.setWarp n k j w).slots = s.slots := rfl
@[simp] theorem State.setWarp_groups (s : State) (n k j : Nat) (w : Warp) : (s.setWarp n k j w).groups = s.groups := rfl
@[simp] theorem State.setWarp_deliveries (s : State) (n k j : Nat) (w : Warp) : (s.setWarp n k j w).deliveries = s.deliveries := rfl
@[simp] theorem State.setWarp_peerSegs (s : State) (n k j : Nat) (w : Warp) : (s.setWarp n k j w).peerSegs = s.peerSegs := rfl
@[simp] theorem State.setWarp_ports (s : State) (n k j : Nat) (w : Warp) : (s.setWarp n k j w).ports = s.ports := rfl
@[simp] theorem State.setWarp_deviceId (s : State) (n k j : Nat) (w : Warp) : (s.setWarp n k j w).deviceId = s.deviceId := rfl
@[simp] theorem State.setWarp_pulls (s : State) (n k j : Nat) (w : Warp) : (s.setWarp n k j w).pulls = s.pulls := rfl
@[simp] theorem State.setWarp_takes (s : State) (n k j : Nat) (w : Warp) : (s.setWarp n k j w).takes = s.takes := rfl
@[simp] theorem State.setWarp_due (s : State) (n k j : Nat) (w : Warp) : (s.setWarp n k j w).due = s.due := rfl
@[simp] theorem State.setWarp_out (s : State) (n k j : Nat) (w : Warp) : (s.setWarp n k j w).out = s.out := rfl
@[simp] theorem State.setWarp_health (s : State) (n k j : Nat) (w : Warp) : (s.setWarp n k j w).health = s.health := rfl
@[simp] theorem State.setWarp_boot (s : State) (n k j : Nat) (w : Warp) : (s.setWarp n k j w).boot = s.boot := rfl
@[simp] theorem State.setWarp_measurements (s : State) (n k j : Nat) (w : Warp) : (s.setWarp n k j w).measurements = s.measurements := rfl
@[simp] theorem State.setWarp_rollback (s : State) (n k j : Nat) (w : Warp) : (s.setWarp n k j w).rollback = s.rollback := rfl
@[simp] theorem State.setWarp_nodeNext (s : State) (n k j : Nat) (w : Warp) : (s.setWarp n k j w).nodeNext = s.nodeNext := rfl
@[simp] theorem State.setWarp_frames (s : State) (n k j : Nat) (w : Warp) : (s.setWarp n k j w).frames = s.frames := rfl
@[simp] theorem State.setWarp_undrawn (s : State) (n k j : Nat) (w : Warp) : (s.setWarp n k j w).undrawn = s.undrawn := rfl
@[simp] theorem State.setWarp_imageArea (s : State) (n k j : Nat) (w : Warp) : (s.setWarp n k j w).imageArea = s.imageArea := rfl

@[simp] theorem Core.setQuad_lastQuad (c : Core) (n : Nat) (q : Quadrant) : (c.setQuad n q).lastQuad = c.lastQuad := rfl
@[simp] theorem Core.setQuad_cycle (c : Core) (n : Nat) (q : Quadrant) : (c.setQuad n q).cycle = c.cycle := rfl
@[simp] theorem Core.setQuad_scratch (c : Core) (n : Nat) (q : Quadrant) : (c.setQuad n q).scratch = c.scratch := rfl
@[simp] theorem Core.setQuad_scratchFree (c : Core) (n : Nat) (q : Quadrant) : (c.setQuad n q).scratchFree = c.scratchFree := rfl
@[simp] theorem Core.setQuad_crews (c : Core) (n : Nat) (q : Quadrant) : (c.setQuad n q).crews = c.crews := rfl
@[simp] theorem Core.setQuad_bins (c : Core) (n : Nat) (q : Quadrant) : (c.setQuad n q).bins = c.bins := rfl
@[simp] theorem Core.setQuad_spilled (c : Core) (n : Nat) (q : Quadrant) : (c.setQuad n q).spilled = c.spilled := rfl
@[simp] theorem Core.setQuad_spawned (c : Core) (n : Nat) (q : Quadrant) : (c.setQuad n q).spawned = c.spawned := rfl
@[simp] theorem Core.setQuad_l1 (c : Core) (n : Nat) (q : Quadrant) : (c.setQuad n q).l1 = c.l1 := rfl
@[simp] theorem Core.setQuad_kicks (c : Core) (n : Nat) (q : Quadrant) : (c.setQuad n q).kicks = c.kicks := rfl
@[simp] theorem Core.setQuad_larder (c : Core) (n : Nat) (q : Quadrant) : (c.setQuad n q).larder = c.larder := rfl
@[simp] theorem Core.setQuad_res (c : Core) (n : Nat) (q : Quadrant) : (c.setQuad n q).res = c.res := rfl
@[simp] theorem Core.setQuad_prs (c : Core) (n : Nat) (q : Quadrant) : (c.setQuad n q).prs = c.prs := rfl
@[simp] theorem Core.setQuad_prHeld (c : Core) (n : Nat) (q : Quadrant) : (c.setQuad n q).prHeld = c.prHeld := rfl
@[simp] theorem Core.setQuad_tickets (c : Core) (n : Nat) (q : Quadrant) : (c.setQuad n q).tickets = c.tickets := rfl
@[simp] theorem Core.setQuad_tiles (c : Core) (n : Nat) (q : Quadrant) : (c.setQuad n q).tiles = c.tiles := rfl
@[simp] theorem Core.setQuad_array (c : Core) (n : Nat) (q : Quadrant) : (c.setQuad n q).array = c.array := rfl
@[simp] theorem Core.setQuad_arrayTurn (c : Core) (n : Nat) (q : Quadrant) : (c.setQuad n q).arrayTurn = c.arrayTurn := rfl
@[simp] theorem Core.setQuad_access (c : Core) (n : Nat) (q : Quadrant) : (c.setQuad n q).access = c.access := rfl
@[simp] theorem Core.setQuad_bps (c : Core) (n : Nat) (q : Quadrant) : (c.setQuad n q).bps = c.bps := rfl
@[simp] theorem Core.setQuad_wps (c : Core) (n : Nat) (q : Quadrant) : (c.setQuad n q).wps = c.wps := rfl
@[simp] theorem Core.setQuad_sampler (c : Core) (n : Nat) (q : Quadrant) : (c.setQuad n q).sampler = c.sampler := rfl
@[simp] theorem Core.setQuad_tenant (c : Core) (n : Nat) (q : Quadrant) : (c.setQuad n q).tenant = c.tenant := rfl
@[simp] theorem Core.setQuad_phase (c : Core) (n : Nat) (q : Quadrant) : (c.setQuad n q).phase = c.phase := rfl
@[simp] theorem Core.setQuad_sliceEnd (c : Core) (n : Nat) (q : Quadrant) : (c.setQuad n q).sliceEnd = c.sliceEnd := rfl
@[simp] theorem Core.setQuad_debt (c : Core) (n : Nat) (q : Quadrant) : (c.setQuad n q).debt = c.debt := rfl
@[simp] theorem Core.setQuad_late (c : Core) (n : Nat) (q : Quadrant) : (c.setQuad n q).late = c.late := rfl
@[simp] theorem Core.setQuad_donated (c : Core) (n : Nat) (q : Quadrant) : (c.setQuad n q).donated = c.donated := rfl
@[simp] theorem Core.setQuad_left (c : Core) (n : Nat) (q : Quadrant) : (c.setQuad n q).left = c.left := rfl
@[simp] theorem Core.setQuad_pool (c : Core) (n : Nat) (q : Quadrant) : (c.setQuad n q).pool = c.pool := rfl
@[simp] theorem Core.setQuad_saved (c : Core) (n : Nat) (q : Quadrant) : (c.setQuad n q).saved = c.saved := rfl
@[simp] theorem Core.setQuad_swapped (c : Core) (n : Nat) (q : Quadrant) : (c.setQuad n q).swapped = c.swapped := rfl
@[simp] theorem Core.setQuad_suspect (c : Core) (n : Nat) (q : Quadrant) : (c.setQuad n q).suspect = c.suspect := rfl
@[simp] theorem Core.setQuad_absent (c : Core) (n : Nat) (q : Quadrant) : (c.setQuad n q).absent = c.absent := rfl
@[simp] theorem Core.setQuad_physical (c : Core) (n : Nat) (q : Quadrant) : (c.setQuad n q).physical = c.physical := rfl
@[simp] theorem Core.setQuad_scanned (c : Core) (n : Nat) (q : Quadrant) : (c.setQuad n q).scanned = c.scanned := rfl
@[simp] theorem Core.setQuad_hazes (c : Core) (n : Nat) (q : Quadrant) : (c.setQuad n q).hazes = c.hazes := rfl

@[simp] theorem Quadrant.setWarp_rf (q : Quadrant) (n : Nat) (w : Warp) : (q.setWarp n w).rf = q.rf := rfl
@[simp] theorem Quadrant.setWarp_last (q : Quadrant) (n : Nat) (w : Warp) : (q.setWarp n w).last = q.last := rfl
@[simp] theorem Quadrant.setWarp_sel (q : Quadrant) (n : Nat) (w : Warp) : (q.setWarp n w).sel = q.sel := rfl
@[simp] theorem Quadrant.setWarp_temps (q : Quadrant) (n : Nat) (w : Warp) : (q.setWarp n w).temps = q.temps := rfl
@[simp] theorem Quadrant.setWarp_mq (q : Quadrant) (n : Nat) (w : Warp) : (q.setWarp n w).mq = q.mq := rfl
@[simp] theorem Quadrant.setWarp_deficit (q : Quadrant) (n : Nat) (w : Warp) : (q.setWarp n w).deficit = q.deficit := rfl
@[simp] theorem Quadrant.setWarp_presented (q : Quadrant) (n : Nat) (w : Warp) : (q.setWarp n w).presented = q.presented := rfl
@[simp] theorem Quadrant.setWarp_left (q : Quadrant) (n : Nat) (w : Warp) : (q.setWarp n w).left = q.left := rfl
@[simp] theorem Quadrant.setWarp_sampled (q : Quadrant) (n : Nat) (w : Warp) : (q.setWarp n w).sampled = q.sampled := rfl
@[simp] theorem Quadrant.setWarp_lanePipe (q : Quadrant) (n : Nat) (w : Warp) : (q.setWarp n w).lanePipe = q.lanePipe := rfl
@[simp] theorem Quadrant.setWarp_uniPipe (q : Quadrant) (n : Nat) (w : Warp) : (q.setWarp n w).uniPipe = q.uniPipe := rfl
@[simp] theorem Quadrant.setWarp_turn (q : Quadrant) (n : Nat) (w : Warp) : (q.setWarp n w).turn = q.turn := rfl

@[simp] theorem Div.slot_zero (d : Div) : d.slot 0 = d.s0 := rfl
@[simp] theorem Div.slot_one (d : Div) : d.slot 1 = d.s1 := rfl
@[simp] theorem Div.slot_setSlot (d : Div) (k : Nat) (p : Option Path) : (d.setSlot k p).slot k = p := by
  unfold Div.slot Div.setSlot; split <;> rfl

end Sys2Proof.Machine
end

