-- ==== Sys2Proof/Laws/View.lean ====
section
/-! SUPPORT. Reading a record after writing one, what the view of an issuing word is, and what the named register writes do. -/
namespace Sys2Proof.Machine

/-! ### Records by number -/

@[simp] theorem State.core_setCore (s : State) (n : Nat) (c : Core) (m : Nat) : (s.setCore n c).core m = if m = n then c else s.core m := by
  simp only [State.core, State.setCore, Table.find_put]; split <;> rfl
@[simp] theorem State.cluster_setCluster (s : State) (n : Nat) (c : Cluster) (m : Nat) :
    (s.setCluster n c).cluster m = if m = n then c else s.cluster m := by
  simp only [State.cluster, State.setCluster, Table.find_put]; split <;> rfl
@[simp] theorem State.field_setField (s : State) (n : Nat) (f : Field) (m : Nat) :
    (s.setField n f).field m = if m = n then f else s.field m := by
  simp only [State.field, State.setField, Table.find_put]; split <;> rfl
@[simp] theorem State.ctx_setCtx (s : State) (n : Nat) (c : Context) (m : Nat) : (s.setCtx n c).ctx m = if m = n then c else s.ctx m := by
  simp only [State.ctx, State.setCtx, Table.find_put]; split <;> rfl
@[simp] theorem Core.quad_setQuad (c : Core) (n : Nat) (q : Quadrant) (m : Nat) : (c.setQuad n q).quad m = if m = n then q else c.quad m := by
  simp only [Core.quad, Core.setQuad, Table.find_put]; split <;> rfl
@[simp] theorem Quadrant.find_setWarp (q : Quadrant) (n : Nat) (w : Warp) (m : Nat) :
    (q.setWarp n w).warps.find m = if m = n then some w else q.warps.find m := by
  simp [Quadrant.setWarp]
@[simp] theorem State.core_setCluster (s : State) (n : Nat) (c : Cluster) (m : Nat) : (s.setCluster n c).core m = s.core m := rfl
@[simp] theorem State.core_setField (s : State) (n : Nat) (f : Field) (m : Nat) : (s.setField n f).core m = s.core m := rfl
@[simp] theorem State.core_setCtx (s : State) (n : Nat) (x : Context) (m : Nat) : (s.setCtx n x).core m = s.core m := rfl

/-! ### The view of the issuing word -/

/-- A view is made of the records that its numbers name. -/
structure View.From (V : View) (s : State) : Prop where
  state : V.s = s
  core : V.c = s.core V.cn
  quad : V.q = V.c.quad V.qn
  warp : V.q.warps.find V.wn = some V.w
  path : V.w.div.slot V.kn = some V.p
  run : V.p.run = some V.r
  em : V.em = V.p.em

theorem State.viewAt_from {s : State} {a b c d : Nat} {V : View} (h : s.viewAt a b c d = some V) : V.From s := by
  simp only [State.viewAt] at h
  cases hw : ((s.core a).quad b).warps.find c <;> simp only [hw, reduceCtorEq] at h
  rename_i w
  cases hp : w.div.slot d <;> simp only [hp, reduceCtorEq] at h
  rename_i p
  cases hr : p.run <;> simp only [hr, reduceCtorEq, Option.some.injEq] at h
  subst h
  exact ⟨rfl, rfl, rfl, hw, hp, hr, rfl⟩

theorem State.view_from {s : State} {V : View} (h : s.view = some V) : V.From s := by
  unfold State.view at h
  split at h
  · simp at h
  · exact State.viewAt_from h

/-! ### Register writes -/

theorem lanes_mem {l : Nat} : l ∈ lanes ↔ l < 32 := List.mem_range
theorem lanes_nodup : lanes.Nodup := List.nodup_range
theorem lanesOf_mem {m : Word} {l : Nat} : l ∈ lanesOf m ↔ l < 32 ∧ m.getLsbD l = true := by simp [lanesOf, lanes_mem]
theorem lanesOf_nodup (m : Word) : (lanesOf m).Nodup := lanes_nodup.filter _

/-- Setting distinct cells sets each of them and nothing else. -/
theorem get_foldl_set {idx : Nat → Nat} {f : Nat → Word} (hi : ∀ a b, idx a = idx b → a = b) (ls : List Nat) (hn : ls.Nodup) (rf : Sparse Word) (j : Nat) :
    Sparse.get 0#32 (ls.foldl (fun rf l => Sparse.set 0#32 rf (idx l) (f l)) rf) j =
      match ls.find? fun l => idx l == j with
      | some l => f l
      | none => Sparse.get 0#32 rf j := by
  induction ls generalizing rf <;> grind [Sparse.get_set]

/-- A row written in some lanes holds the values there. -/
theorem get_writeRow_here {idx : Nat → Nat} (hi : ∀ a b, idx a = idx b → a = b) (rf : Sparse Word) (m : Word) (f : Nat → Word) {l : Nat} (hl : l ∈ lanesOf m) :
    Sparse.get 0#32 (writeRow rf idx m f) (idx l) = f l := by
  unfold writeRow
  rw [get_foldl_set hi _ (lanesOf_nodup m)]
  have : (lanesOf m).find? (fun x => idx x == idx l) = some l := by
    obtain ⟨x, hx⟩ : ∃ x, (lanesOf m).find? (fun x => idx x == idx l) = some x :=
      Option.isSome_iff_exists.mp (List.find?_isSome.mpr ⟨l, hl, by simp⟩)
    have h : x = l := hi _ _ (by simpa using List.find?_some hx)
    rw [hx, h]
  rw [this]

/-- A row written in some lanes leaves every other word alone. -/
theorem get_writeRow_other {idx : Nat → Nat} (hi : ∀ a b, idx a = idx b → a = b) (rf : Sparse Word) (m : Word) (f : Nat → Word) {j : Nat}
    (hj : ∀ l ∈ lanesOf m, idx l ≠ j) : Sparse.get 0#32 (writeRow rf idx m f) j = Sparse.get 0#32 rf j := by
  unfold writeRow
  rw [get_foldl_set hi _ (lanesOf_nodup m)]
  have : (lanesOf m).find? (fun x => idx x == j) = none := List.find?_eq_none.mpr fun x hx => by simpa using hj x hx
  rw [this]

theorem View.lidx_inj (V : View) (k : Nat) : ∀ a b, V.lidx k a = V.lidx k b → a = b := by
  intro a b h; unfold View.lidx at h; split at h <;> omega

end Sys2Proof.Machine
end

