-- ==== Sys2Proof/Laws/Issue.lean ====
section
/-! SUPPORT. What issuing a word does: the word that is free to execute takes its effect; a word that only writes registers leaves everything
else alone. -/
namespace Sys2Proof.Machine

/-- A word that is free to execute takes its effect. -/
theorem issue_ready {i : Info} {wf : Bool} {s : State} {V : View} (h : Ready s i wf V) (eff : View → State) :
    issue i wf s eff = .next (eff V) := by
  obtain ⟨h1, h2, h3, h4, h5⟩ := h
  simp [issue, View.issueWord, h1, h2, h3, h4, Nat.not_lt.mpr h5]

theorem issueReg_ready {i : Info} {s : State} {V : View} (h : Ready s i true V) (f : View → View) :
    issueReg i s f = .next ((f V).retire i) := issue_ready h _

/-- A word that fails a check of R40 takes the trap of its cause (R40, R324). -/
theorem issue_check {i : Info} {wf : Bool} {s : State} {V : View} {c : Nat} (h : s.view = some V) (hb : V.breakHit = none) (hc : V.check i wf = some c)
    (eff : View → State) : issue i wf s eff = .next (V.issueFault c) := by
  simp [issue, View.issueWord, h, hb, hc]

/-- A word that names a register with a producer beyond its window breaks its run (R30, R119). -/
theorem issue_score {i : Info} {wf : Bool} {s : State} {V : View} {w : Wait} (h : s.view = some V) (hb : V.breakHit = none) (hc : V.check i wf = none)
    (hw : V.score i = some w) (eff : View → State) : issue i wf s eff = .next (V.breakRun w) := by
  simp [issue, View.issueWord, h, hb, hc, hw]

/-- A word whose pipe, or something that it reads, is not there yet keeps the quadrant until that CYCLE (R80, R92, R405). -/
theorem issue_pipe {i : Info} {wf : Bool} {s : State} {V : View} (h : s.view = some V) (hb : V.breakHit = none) (hc : V.check i wf = none)
    (hw : V.score i = none) (hp : V.c.cycle < V.readyAt i) (eff : View → State) : issue i wf s eff = .next (V.pipeWait i) := by
  simp [issue, View.issueWord, h, hb, hc, hw, hp]

/-- A breakpoint comparator that matches raises its cause before the word issues (R361). -/
theorem issue_break {i : Info} {wf : Bool} {s : State} {V : View} {b : Nat} (h : s.view = some V) (hb : V.breakHit = some b) (eff : View → State) :
    issue i wf s eff = .next (V.fault (0x100 + b) 0#64 V.em) := by
  simp [issue, View.issueWord, h, hb]

theorem issue_next {i : Info} {wf : Bool} {s t : State} {eff : View → State} (h : issue i wf s eff = .next t) :
    ∃ V, s.view = some V ∧ t = V.issueWord i wf eff := by
  unfold issue at h
  split at h
  · cases h
  · next V hV => exact ⟨V, hV, by injection h with h; exact h.symm⟩

/-- A view that differs from another only in the contents of registers and in which of them are defined. -/
structure RegsOnly (V W : View) : Prop where
  rest : W = { V with q := { V.q with rf := W.q.rf }, w := { V.w with undef := W.w.undef, tstRanges := W.w.tstRanges }
                      r := { V.r with tdef := W.r.tdef, wdef := W.r.wdef } }

theorem RegsOnly.refl (V : View) : RegsOnly V V := ⟨rfl⟩
theorem RegsOnly.trans {V W X : View} (h : RegsOnly V W) (k : RegsOnly W X) : RegsOnly V X := by
  obtain ⟨h⟩ := h; obtain ⟨k⟩ := k
  constructor
  rw [k, h]

theorem RegsOnly.noteLane (V : View) (k : Nat) : RegsOnly V (V.noteLane k) := by
  constructor; unfold View.noteLane; split <;> rfl
theorem RegsOnly.writeLane (V : View) (k : Nat) (f : Nat → Word) : RegsOnly V (V.writeLane k f) := by
  constructor; unfold View.writeLane View.noteLane; simp only; split <;> rfl
theorem RegsOnly.writeLane64 (V : View) (k : Nat) (f : Nat → Dword) : RegsOnly V (V.writeLane64 k f) :=
  (RegsOnly.writeLane V k _).trans (RegsOnly.writeLane _ _ _)
theorem RegsOnly.writeUni (V : View) (k : Nat) (x : Word) : RegsOnly V (V.writeUni k x) := by
  constructor; unfold View.writeUni View.noteUni; simp only; split <;> rfl
theorem RegsOnly.writeUni64 (V : View) (k : Nat) (x : Dword) : RegsOnly V (V.writeUni64 k x) :=
  (RegsOnly.writeUni V k _).trans (RegsOnly.writeUni _ _ _)
theorem RegsOnly.writeVx (V : View) (f : Nat → Byte) : RegsOnly V (V.writeVx f) := ⟨rfl⟩

/-! ### Retirement -/

theorem State.warp_eq (s : State) (a b c : Nat) : s.warp a b c = ((s.core a).quad b).warps.find c := rfl

/-- What putting a view back writes: its warp in its slot of its quadrant of its core, and nothing else. -/
theorem View.putWarp_core (V : View) (w : Warp) (n : Nat) :
    (V.putWarp w).core n = if n = V.cn then V.c.setQuad V.qn (V.q.setWarp V.wn w) else V.s.core n := by
  simp [View.putWarp]
theorem View.putWarp_quad (V : View) (w : Warp) : ((V.putWarp w).core V.cn).quad V.qn = V.q.setWarp V.wn w := by
  simp [View.putWarp]
theorem View.putWarp_warp (V : View) (w : Warp) (n : Nat) : (V.putWarp w).warp V.cn V.qn n = if n = V.wn then some w else V.q.warps.find n := by
  simp [View.putWarp, State.warp_eq]

theorem other_slot (d : Div) (k : Nat) (p : Option Path) : (d.setSlot k p).slot (other k) = d.slot (other k) := by
  unfold Div.slot Div.setSlot other; by_cases h : k = 0 <;> simp [h]

/-- What a word that has executed leaves: the view after `advance`, as `V` with the state `s0`, the registers of `W`, the warp `b` and the path `p`. -/
structure Became (V : View) (s0 : State) (b : Warp) (p : Path) (W : View) : Prop where
  rest : W = { V with s := s0, q := { V.q with rf := W.q.rf }, w := { b with undef := W.w.undef, tstRanges := W.w.tstRanges }, p := p
                      r := { V.r with tdef := W.r.tdef, wdef := W.r.wdef } }
  cores : s0.cores = V.s.cores
  onward : p.pc = V.p.pc ∧ p.issued = V.p.issued ∧ p.mask = V.p.mask

theorem RegsOnly.became {V W : View} (h : RegsOnly V W) : Became V V.s V.w V.p W := by
  obtain ⟨h⟩ := h
  exact ⟨h, rfl, rfl, rfl, rfl⟩

/-- Retirement of a word after it has written registers, its warp and its path, and perhaps tables outside the cores: what it leaves alone,
and where it leaves its path. -/
theorem View.retire_frame {s : State} {V W : View} {s0 : State} {b : Warp} {p0 : Path} {i : Info} (h : V.From s) (hr : Became V s0 b p0 W) :
    WarpOnly V s0 i (W.retire i) ∧ ∃ w p r, SameWarp V i (if i.rc then b.fullPoint else b) { p0 with pc := V.p.pc + 4 } (W.retire i) w ∧
      w.div.slot V.kn = some p ∧ p.run = some r ∧ (V.quadIn (W.retire i)).rf = W.q.rf ∧ w.undef = W.w.undef ∧ w.tstRanges = W.w.tstRanges ∧
      r.tdef = W.r.tdef ∧ r.wdef = W.r.wdef := by
  obtain ⟨hW, hcores, hpc, his, hm⟩ := hr
  generalize W.q.rf = rf at *
  generalize W.w.undef = un at *
  generalize W.w.tstRanges = tr at *
  generalize W.r.tdef = td at *
  generalize W.r.wdef = wd at *
  subst hW
  obtain ⟨hs, hc, hq, hw, hp, hrun, he⟩ := h
  subst hs
  refine ⟨⟨⟨?_, ?_, ?_, ?_⟩, ?_, ?_, ?_, ?_⟩, ?_⟩
  · simp [View.retire, View.advance, View.put, View.putWarp, State.setCore]
  · intro a ha
    simp [View.retire, View.advance, View.put, View.putWarp, State.setCore, State.memByte, ha]
  · simp [View.retire, View.advance, View.put, View.putWarp]
  · intro n hn
    simp [View.retire, View.put, View.putWarp, View.advance, State.core, State.setCore, hn]
  · simp [View.retire, View.put, View.putWarp, View.advance, Core.setQuad]
  · intro k hk
    simp [View.retire, View.put, View.putWarp, View.advance, hk]
    rfl
  · simp [View.retire, View.put, View.putWarp, View.advance, View.quadIn, View.turned, hpc]
    split <;> rfl
  · intro k hk
    simp [View.retire, View.put, View.putWarp, View.advance, View.turned, State.warp_eq, hk]
  · let r : OpenRun := { V.r with words := V.r.words.tail, tdef := td, wdef := wd }
    let p : Path := { p0 with pc := V.p.pc + 4, wait := .none, replay := none, issued := V.p.issued + 1, run := some r }
    refine ⟨_, p, r, ⟨(View.putWarp_warp _ _ _).trans (if_pos rfl), ?_, ?_, ?_, p, ?_, r, rfl, rfl⟩, ?_, rfl, ?_, ?_, ?_, rfl, rfl⟩
    all_goals simp only [View.warp, View.advance]
    · split <;> simp [Div.setSlot, Warp.fullPoint, View.noteVis, hpc, hm]
    · simp only [Div.setSlot, Warp.fullPoint, apply_ite Warp.div, ite_self]; split <;> simp
    · simp only [other_slot, Warp.fullPoint, apply_ite Warp.div, ite_self]; rfl
    · simp [p, r, hpc, his]
    · simp [p, r, hpc, his]
    · simp [View.quadIn, View.retire, View.put, View.putWarp_quad, View.advance, View.turned, apply_ite]
    · split <;> simp [Warp.fullPoint]
    · split <;> simp [Warp.fullPoint]

end Sys2Proof.Machine
end

