-- ==== Sys2Proof/Laws/Memory.lean ====
section
/-! SUPPORT. The operations on memory keep its canonical form, and those that move copies alone leave memory as it is. -/
namespace Sys2Proof.Machine

/-- Memory and the copy of home memory behind dirty owners are in canonical form. -/
def MemWf (s : State) : Prop := s.mem.wf = true ∧ s.behind.wf = true
/-- Memory is the same, and so is what lies behind dirty owners. -/
def SameMem (s t : State) : Prop := t.mem = s.mem ∧ t.behind = s.behind

theorem SameMem.refl (s : State) : SameMem s s := ⟨rfl, rfl⟩
theorem SameMem.trans {s t u : State} (h : SameMem s t) (k : SameMem t u) : SameMem s u := ⟨k.1.trans h.1, k.2.trans h.2⟩
theorem SameMem.wf {s t : State} (h : SameMem s t) (k : MemWf s) : MemWf t := by
  unfold MemWf at *; rw [h.1, h.2]; exact k
theorem MemWf.reset : MemWf State.reset := ⟨rfl, rfl⟩

/-- What every step of a fold keeps, the fold keeps. -/
theorem foldl_keeps {α β : Type} (P : α → Prop) (f : α → β → α) (h : ∀ a b, P a → P (f a b)) (l : List β) (a : α) (ha : P a) : P (l.foldl f a) :=
  List.foldlRecOn l f ha fun a ha b _ => h a b ha
theorem SameMem.foldl {β : Type} (f : State → β → State) (h : ∀ a b, SameMem a (f a b)) (l : List β) (s : State) : SameMem s (l.foldl f s) :=
  foldl_keeps (SameMem s) f (fun a b ha => ha.trans (h a b)) l s (.refl s)

/-! ### A memory alone -/

theorem Memory.setAll_wf (m : Memory) (a : Nat) (bs : List Byte) (h : m.wf = true) : Memory.wf (Sparse.setAll 0#8 m a bs) = true :=
  Sparse.wf_setAll 0#8 bs m a h
theorem Memory.set_wf (m : Memory) (a : Nat) (b : Byte) (h : m.wf = true) : Memory.wf (Sparse.set 0#8 m a b) = true := Sparse.wf_set 0#8 m a b h
theorem Memory.clear_wf (m : Memory) (p : Nat → Bool) (h : m.wf = true) : Memory.wf (Sparse.clear p m) = true := Sparse.wf_clear 0#8 p m h
theorem Memory.zero_wf (m : Memory) (a n : Nat) (h : m.wf = true) : (m.zero a n).wf = true := m.clear_wf _ h
theorem Memory.putWord_wf (m : Memory) (a : Nat) (v : Word) (h : m.wf = true) : (m.putWord a v).wf = true := m.setAll_wf _ _ h
theorem Memory.arrive_wf (m : Memory) (a : Nat) (u : Word) (h : m.wf = true) : (m.arrive a u).wf = true := by
  unfold Memory.arrive
  dsimp only
  split <;> exact Memory.putWord_wf _ _ _ (by first | exact Memory.putWord_wf _ _ _ (Memory.putWord_wf _ _ _ h) | exact Memory.putWord_wf _ _ _ h)

/-! ### Memory of the machine -/

theorem MemWf.pokeMem {s : State} (h : MemWf s) (pa : Nat) (bs : List Byte) : MemWf (s.pokeMem pa bs) := ⟨Memory.setAll_wf _ _ _ h.1, h.2⟩
theorem MemWf.wipe {s : State} (h : MemWf s) (pa n : Nat) : MemWf (s.wipe pa n) := 
  ⟨Memory.clear_wf s.mem (fun a => decide (pa ≤ a) && decide (a < pa + n)) h.1, Memory.clear_wf s.behind (fun a => decide (pa ≤ a) && decide (a < pa + n)) h.2⟩
theorem SameMem.setDir (s : State) (line : Nat) (d : DirEntry) : SameMem s (s.setDir line d) := ⟨rfl, rfl⟩
theorem SameMem.freeRev (s : State) (g line : Nat) : SameMem s (s.freeRev g line) := by
  unfold State.freeRev
  dsimp only
  split
  · exact .refl s
  · refine SameMem.trans (t := s.setCluster g _) ⟨rfl, rfl⟩ (SameMem.foldl _ (fun a b => ?_) _ _)
    split <;> exact ⟨rfl, rfl⟩
theorem SameMem.backInvalidate (s : State) (f line : Nat) (keep : Option Nat) : SameMem s (s.backInvalidate f line keep) := by
  unfold State.backInvalidate
  split
  · exact .refl s
  · refine SameMem.foldl _ (fun a k => ?_) _ _
    split
    · dsimp only
      split
      · split
        · refine SameMem.trans (t := a.setCluster _ _) ⟨rfl, rfl⟩ (SameMem.foldl _ (fun a i => ?_) _ _)
          split <;> exact ⟨rfl, rfl⟩
        · exact (SameMem.freeRev a _ line).trans ⟨rfl, rfl⟩
      · split
        · exact (SameMem.freeRev a _ line).trans ⟨rfl, rfl⟩
        · exact SameMem.freeRev a _ line
    · exact .refl a
theorem SameMem.invalidate (s : State) (f line : Nat) : SameMem s (s.invalidate f line) := (SameMem.backInvalidate s f line none).trans ⟨rfl, rfl⟩
theorem SameMem.loseTails (s : State) (line : Nat) : SameMem s (s.loseTails line) := by
  unfold State.loseTails; split <;> exact ⟨rfl, rfl⟩
theorem SameMem.invalidateOthers (s : State) (keep line : Nat) : SameMem s (s.invalidateOthers keep line) := by
  refine SameMem.trans (SameMem.foldl _ (fun a f => ?_) _ s) (.loseTails _ line)
  split
  · exact .refl a
  · split
    · exact .invalidate a f line
    · exact .refl a
theorem SameMem.setLine (s : State) (f line : Nat) (st : LineState) (ctx : Nat) (d0 d1 aw : Bool) : SameMem s (s.setLine f line st ctx d0 d1 aw) := by
  unfold State.setLine
  dsimp only
  split <;> exact ⟨rfl, rfl⟩
/-- GetS and GetM move copies; no byte changes. -/
theorem SameMem.applyGetS (s : State) (f line ctx : Nat) : SameMem s (s.applyGetS f line ctx) := by
  unfold State.applyGetS
  dsimp only
  split
  · exact (SameMem.setLine s _ _ _ _ _ _ _).trans ⟨rfl, rfl⟩
  · exact .setLine s _ _ _ _ _ _ _
  · split
    · exact .refl s
    · refine SameMem.trans ?_ (.setLine _ _ _ _ _ _ _ _)
      split <;> exact ⟨rfl, rfl⟩
theorem SameMem.applyGetM (s : State) (f line ctx : Nat) : SameMem s (s.applyGetM f line ctx) :=
  ((SameMem.invalidateOthers s f line).trans (.setLine _ _ _ _ _ _ _ _)).trans (.setDir _ _ _)
theorem MemWf.cleanLine {s : State} (h : MemWf s) (f line : Nat) (st : LineState) : MemWf (s.cleanLine f line st) := by
  unfold State.cleanLine
  dsimp only
  split
  · exact h
  · exact ⟨h.1, Memory.clear_wf s.behind (fun a => lineOf a == line) h.2⟩
theorem MemWf.applyClean {s : State} (h : MemWf s) (line : Nat) : MemWf (s.applyClean line) := by
  unfold State.applyClean
  split
  · exact h.cleanLine _ _ _
  · exact h
theorem MemWf.applyPut {s : State} (h : MemWf s) (f line : Nat) : MemWf (s.applyPut f line) := by
  unfold State.applyPut
  dsimp only
  split
  · exact ((SameMem.invalidate _ _ _).trans (.setDir _ _ _)).wf (h.cleanLine _ _ _)
  · exact h
theorem MemWf.applyDisc {s : State} (h : MemWf s) (line : Nat) : MemWf (s.applyDisc line) := by
  have k := (SameMem.invalidateOthers s 42 line).wf h
  unfold State.applyDisc
  generalize s.invalidateOthers 42 line = u at k
  exact (SameMem.setDir _ line _).wf ⟨k.1, Memory.clear_wf _ (fun a => lineOf a == line) k.2⟩
theorem MemWf.writeLine {s : State} (h : MemWf s) (f : Nat) (who : Option Nat) (pa : Nat) (bs : List Byte) : MemWf (s.writeLine f who pa bs) := by
  have k := ((SameMem.backInvalidate s f (lineOf pa) who).trans (.loseTails _ (lineOf pa))).wf h
  unfold State.writeLine
  dsimp only
  generalize (s.backInvalidate f (lineOf pa) who).loseTails (lineOf pa) = u at *
  split
  · exact k.pokeMem _ _
  · apply MemWf.pokeMem
    refine ⟨k.1, ?_⟩
    dsimp only
    split
    · refine Memory.setAll_wf _ _ _ ?_
      split
      · exact Memory.setAll_wf _ _ _ k.2
      · exact k.2
    · split
      · exact Memory.setAll_wf _ _ _ k.2
      · exact k.2
theorem MemWf.engineWriteFrom (f fuel : Nat) : ∀ {s : State}, MemWf s → ∀ pa bs, MemWf (s.engineWriteFrom f fuel pa bs) := by
  induction fuel with
  | zero => exact fun h _ _ => h
  | succ n ih =>
    intro s h pa bs
    unfold State.engineWriteFrom
    split
    · exact h
    · exact ih (h.writeLine _ _ _ _) _ _
theorem MemWf.engineWrite {s : State} (h : MemWf s) (f pa : Nat) (bs : List Byte) : MemWf (s.engineWrite f pa bs) := MemWf.engineWriteFrom f _ h pa bs
theorem MemWf.dropHostLine {s : State} (h : MemWf s) (line : Nat) : MemWf (s.dropHostLine line) := by
  have back : ∀ (b : Bool) (m : Memory) (a : Nat) (bs : List Byte), m.wf = true → Memory.wf (if b = true then Sparse.setAll 0#8 m a bs else m) = true := by
    intro b m a bs hm
    split
    · exact m.setAll_wf _ _ hm
    · exact hm
  unfold State.dropHostLine
  extract_lets lost bk u v
  have k : MemWf u := ⟨back _ _ _ _ (back _ _ _ _ h.1), Memory.clear_wf _ (fun a => lineOf a == line) h.2⟩
  clear_value u
  have i := (SameMem.invalidateOthers u 42 line).wf k
  have l : MemWf v := (SameMem.setDir (u.invalidateOthers 42 line) line ⟨.uncached, .none⟩).wf i
  clear_value v
  exact ⟨l.1, l.2⟩

/-! ### Read after write -/

/-- Bytes put in memory are read back, and no other byte changes. -/
theorem memByte_pokeMem (s : State) (pa : Nat) (bs : List Byte) (a : Nat) :
    (s.pokeMem pa bs).memByte a = if pa ≤ a ∧ a < pa + bs.length then bs.getD (a - pa) 0#8 else s.memByte a := by
  unfold State.memByte State.pokeMem
  dsimp only
  by_cases h : pa ≤ a ∧ a < pa + bs.length
  · have : (List.filter (fun a => !(decide (pa ≤ a) && decide (a < pa + bs.length))) s.undefined).contains a = false := by
      simp [h]
    rw [this, Sparse.get_setAll]
    simp [h]
  · have : (List.filter (fun a => !(decide (pa ≤ a) && decide (a < pa + bs.length))) s.undefined).contains a = s.undefined.contains a := by
      rw [Bool.eq_iff_iff]; simp only [List.contains_iff_mem, List.mem_filter]; simp; intro _; omega
    rw [this, Sparse.get_setAll]
    simp [h]

end Sys2Proof.Machine
end

