-- ==== Sys2Proof/Laws/PerInstr.lean ====
section
/-! SUPPORT. Per instruction: the entry of the native decode table at the place of the instruction's word carries the map's flags (R32, R33, R35, R37, R38). -/
namespace Sys2Proof.Laws.Entry
open Sys2Proof

/-- An entry of the native table, at a place, is one of an instruction of the map: valid, with its flags, its operation and its half. Whether SWRS (0x484) is privileged
depends on the register that it writes (R87). -/
def Fits (p : BitVec 11) (i : Machine.Info) : Prop :=
  let e := nativeEntry p.toNat
  e.getLsbD 15 = true ∧ e.getLsbD 16 = i.ll ∧ e.getLsbD 17 = i.rc ∧ e.getLsbD 18 = i.xfer ∧ (e.getLsbD 19 = i.priv ∨ p = 0x484#11) ∧
    e.extractLsb' 0 10 = p.extractLsb' 0 10 ∧ p.getLsbD 10 = !i.lset

/-- The native table's entry at the place of an instruction's word is its own. -/
def Statement (i : Instr) : Prop := ∀ w, encode i = some w → Fits (opc11 w) (Machine.infoOf i)

/-- The bits above a field stand on the bits above it. -/
theorem above {m n : Nat} (j l : Nat) (x : BitVec m) (y : BitVec n) : (x ++ y).extractLsb' (j + n) l = x.extractLsb' j l := by
  ext i hi
  simp
  grind
theorem of_place {i : Instr} {w : BitVec 32} (p : BitVec 11) (he : encode i = some w) (hp : opc11 w = p) (h : Fits p (Machine.infoOf i)) : Statement i := by
  intro v hv
  obtain rfl : w = v := by rw [he] at hv; exact Option.some.inj hv
  rw [hp]; exact h

theorem warpSelect (core quad : Nat) : Statement (.warpSelect core quad) := fun _ h => nomatch h
theorem longLatencyComplete (core quad warp seq : Nat) : Statement (.longLatencyComplete core quad warp seq) := fun _ h => nomatch h
theorem rotation (core quad warp : Nat) : Statement (.rotation core quad warp) := fun _ h => nomatch h
theorem rotationGiveUp (core quad warp : Nat) : Statement (.rotationGiveUp core quad warp) := fun _ h => nomatch h
theorem joinProceed (core quad warp slot : Nat) : Statement (.joinProceed core quad warp slot) := fun _ h => nomatch h
theorem crewRelease (core crew : Nat) : Statement (.crewRelease core crew) := fun _ h => nomatch h
theorem binTimerExpiry (core bin : Nat) : Statement (.binTimerExpiry core bin) := fun _ h => nomatch h
theorem binLaunch (core bin : Nat) : Statement (.binLaunch core bin) := fun _ h => nomatch h
theorem launchWarpCreate (launch core : Nat) : Statement (.launchWarpCreate launch core) := fun _ h => nomatch h
theorem warpEnd (core quad warp : Nat) : Statement (.warpEnd core quad warp) := fun _ h => nomatch h
theorem scratchpadAccept (core : Nat) : Statement (.scratchpadAccept core) := fun _ h => nomatch h
theorem windowAccess (master : Master) (core off len : Nat) (wdata : Option (List (BitVec 8))) : Statement (.windowAccess master core off len wdata) := fun _ h => nomatch h
theorem multicastDelivery (k : Nat) : Statement (.multicastDelivery k) := fun _ h => nomatch h
theorem storePerform (core quad warp k : Nat) : Statement (.storePerform core quad warp k) := fun _ h => nomatch h
theorem dataArrival (field line : Nat) : Statement (.dataArrival field line) := fun _ h => nomatch h
theorem gets (cluster bus : Nat) : Statement (.gets cluster bus) := fun _ h => nomatch h
theorem getm (cluster bus : Nat) : Statement (.getm cluster bus) := fun _ h => nomatch h
theorem put (cluster bus : Nat) : Statement (.put cluster bus) := fun _ h => nomatch h
theorem clean (cluster bus : Nat) : Statement (.clean cluster bus) := fun _ h => nomatch h
theorem discMessage (cluster bus : Nat) : Statement (.discMessage cluster bus) := fun _ h => nomatch h
theorem hgets (port line : Nat) : Statement (.hgets port line) := fun _ h => nomatch h
theorem hgetm (port line : Nat) (wdata : Option (List (Nat × BitVec 8))) : Statement (.hgetm port line wdata) := fun _ h => nomatch h
theorem snpdata (line : Nat) : Statement (.snpdata line) := fun _ h => nomatch h
theorem snpinv (line : Nat) : Statement (.snpinv line) := fun _ h => nomatch h
theorem snpcur (line : Nat) : Statement (.snpcur line) := fun _ h => nomatch h
theorem deferredFaultRaise (core quad warp : Nat) : Statement (.deferredFaultRaise core quad warp) := fun _ h => nomatch h
theorem watchpointReport (core quad warp : Nat) : Statement (.watchpointReport core quad warp) := fun _ h => nomatch h
theorem trapResume (core quad warp : Nat) : Statement (.trapResume core quad warp) := fun _ h => nomatch h
theorem launchEndForTrap (launch : Nat) : Statement (.launchEndForTrap launch) := fun _ h => nomatch h
theorem pagePullComplete (k pa : Nat) (data : List (Nat × BitVec 8)) : Statement (.pagePullComplete k pa data) := fun _ h => nomatch h
theorem pagePullTimeout (k : Nat) : Statement (.pagePullTimeout k) := fun _ h => nomatch h
theorem mapMemory (ctx pa : Nat) : Statement (.mapMemory ctx pa) := fun _ h => nomatch h
theorem unmap (ctx : Nat) : Statement (.unmap ctx) := fun _ h => nomatch h
theorem protect (ctx : Nat) : Statement (.protect ctx) := fun _ h => nomatch h
theorem grantFirstTouch (ctx : Nat) : Statement (.grantFirstTouch ctx) := fun _ h => nomatch h
theorem migrateIn (ctx : Nat) : Statement (.migrateIn ctx) := fun _ h => nomatch h
theorem mapCoreWindows (ctx : Nat) : Statement (.mapCoreWindows ctx) := fun _ h => nomatch h
theorem mapBroadcastWindow (ctx : Nat) : Statement (.mapBroadcastWindow ctx) := fun _ h => nomatch h
theorem ladleRequestStart (core : Nat) : Statement (.ladleRequestStart core) := fun _ h => nomatch h
theorem ladleSegmentStart (core : Nat) : Statement (.ladleSegmentStart core) := fun _ h => nomatch h
theorem ladleSegmentLand (core seg : Nat) : Statement (.ladleSegmentLand core seg) := fun _ h => nomatch h
theorem peerAck (k : Nat) : Statement (.peerAck k) := fun _ h => nomatch h
theorem peerAckTimeout (k : Nat) : Statement (.peerAckTimeout k) := fun _ h => nomatch h
theorem peerSegmentReceive (device : PeerLink) (ctx seqNo va : Nat) (data : List (BitVec 8)) : Statement (.peerSegmentReceive device ctx seqNo va data) := fun _ h => nomatch h
theorem matrixRowLand (core op : Nat) (sideB : Bool) : Statement (.matrixRowLand core op sideB) := fun _ h => nomatch h
theorem matrixComputeStart (core : Nat) : Statement (.matrixComputeStart core) := fun _ h => nomatch h
theorem matrixOpComplete (core : Nat) : Statement (.matrixOpComplete core) := fun _ h => nomatch h
theorem lrelWaitEnd (core quad warp slot : Nat) : Statement (.lrelWaitEnd core quad warp slot) := fun _ h => nomatch h
theorem napEnd (core quad warp : Nat) : Statement (.napEnd core quad warp) := fun _ h => nomatch h
theorem drainStart (core : Nat) : Statement (.drainStart core) := fun _ h => nomatch h
theorem drainComplete (core : Nat) : Statement (.drainComplete core) := fun _ h => nomatch h
theorem sliceStart (core : Nat) : Statement (.sliceStart core) := fun _ h => nomatch h
theorem slotTableInstall (table : TableInstall) : Statement (.slotTableInstall table) := fun _ h => nomatch h
theorem tailReread (ctx queue : Nat) : Statement (.tailReread ctx queue) := fun _ h => nomatch h
theorem queueQuantum (ctx : Nat) : Statement (.queueQuantum ctx) := fun _ h => nomatch h
theorem launchStart (ctx queue : Nat) : Statement (.launchStart ctx queue) := fun _ h => nomatch h
theorem launchComplete (launch : Nat) : Statement (.launchComplete launch) := fun _ h => nomatch h
theorem crewSwapOut (core quad warp : Nat) : Statement (.crewSwapOut core quad warp) := fun _ h => nomatch h
theorem crewResume (core k : Nat) : Statement (.crewResume core k) := fun _ h => nomatch h
theorem samplerTick (core : Nat) : Statement (.samplerTick core) := fun _ h => nomatch h
theorem samplerEnable (core : Nat) : Statement (.samplerEnable core) := fun _ h => nomatch h
theorem droppedCountClear (core : Nat) : Statement (.droppedCountClear core) := fun _ h => nomatch h
theorem registerWrite (master : Master) (core off : Nat) (value : BitVec 64) : Statement (.registerWrite master core off value) := fun _ h => nomatch h
theorem minVoltageRead (field : Nat) : Statement (.minVoltageRead field) := fun _ h => nomatch h
theorem restart (value : BitVec 32) : Statement (.restart value) := fun _ h => nomatch h
theorem registerQueue (ctx : Mail) (desc : BitVec 512) : Statement (.registerQueue ctx desc) := fun _ h => nomatch h
theorem unregisterQueue (ctx : Mail) (queue : Nat) : Statement (.unregisterQueue ctx queue) := fun _ h => nomatch h
theorem openDebugSession (ctx : Mail) : Statement (.openDebugSession ctx) := fun _ h => nomatch h
theorem closeDebugSession (ctx : Mail) : Statement (.closeDebugSession ctx) := fun _ h => nomatch h
theorem dump (ctx : Mail) (va len : Nat) : Statement (.dump ctx va len) := fun _ h => nomatch h
theorem bindPeer (ctx : Mail) (device peerCtx : Nat) : Statement (.bindPeer ctx device peerCtx) := fun _ h => nomatch h
theorem unbindPeer (ctx : Mail) (device : Nat) : Statement (.unbindPeer ctx device) := fun _ h => nomatch h
theorem installTenantKey (ctx : Mail) (key : List (BitVec 8)) : Statement (.installTenantKey ctx key) := fun _ h => nomatch h
theorem getMeasurements (function nonce : Nat) : Statement (.getMeasurements function nonce) := fun _ h => nomatch h
theorem decodeTableLoad (slot : Nat) (image : TableImage) : Statement (.decodeTableLoad slot image) := fun _ h => nomatch h
theorem deviceStart (report : StartReport) : Statement (.deviceStart report) := fun _ h => nomatch h
theorem startTimeout : Statement .startTimeout := fun _ h => nomatch h
theorem faultEvent (unit : HealthUnit) (lost : Option LostData) : Statement (.faultEvent unit lost) := fun _ h => nomatch h
theorem coreRetire (core : Nat) : Statement (.coreRetire core) := fun _ h => nomatch h
theorem groupSwitch (group : Nat) : Statement (.groupSwitch group) := fun _ h => nomatch h
theorem scanTest (core : Nat) (failed : Bool) : Statement (.scanTest core failed) := fun _ h => nomatch h
theorem stretchStart (field : Sensors) : Statement (.stretchStart field) := fun _ h => nomatch h
theorem stretchEnd (field : Sensors) : Statement (.stretchEnd field) := fun _ h => nomatch h
theorem portDown (port : Nat) : Statement (.portDown port) := fun _ h => nomatch h
theorem portUp (port : Nat) : Statement (.portUp port) := fun _ h => nomatch h
theorem lostLinesAck (port : Nat) : Statement (.lostLinesAck port) := fun _ h => nomatch h
theorem hostResponse (line : Nat) (data : List (Nat × BitVec 8)) : Statement (.hostResponse line data) := fun _ h => nomatch h
theorem linkDropout (link : Nat) : Statement (.linkDropout link) := fun _ h => nomatch h
theorem openContext (port ctx : Nat) : Statement (.openContext port ctx) := fun _ h => nomatch h
theorem closeContext (port ctx : Nat) : Statement (.closeContext port ctx) := fun _ h => nomatch h
theorem newLowestReading (field millivolts sensor : Nat) : Statement (.newLowestReading field millivolts sensor) := fun _ h => nomatch h
theorem pageTakeComplete (k pa : Nat) : Statement (.pageTakeComplete k pa) := fun _ h => nomatch h
theorem peerConnectionFailure (ctx device : Nat) : Statement (.peerConnectionFailure ctx device) := fun _ h => nomatch h
theorem peerPullRequest (device peerCtx va : Nat) : Statement (.peerPullRequest device peerCtx va) := fun _ h => nomatch h
theorem runFetchComplete (core quad warp : Nat) : Statement (.runFetchComplete core quad warp) := fun _ h => nomatch h
theorem securedSession (ctx : Nat) : Statement (.securedSession ctx) := fun _ h => nomatch h
theorem add (d : BitVec 7) (a : BitVec 7) (b : BitVec 7) : Statement (.add d a b) :=
  of_place 0x000 rfl (by
    repeat refine (above _ _ _ _).trans ?_
    rfl) ⟨rfl, rfl, rfl, rfl, .inl rfl, rfl, rfl⟩
theorem sub (d : BitVec 7) (a : BitVec 7) (b : BitVec 7) : Statement (.sub d a b) :=
  of_place 0x001 rfl (by
    repeat refine (above _ _ _ _).trans ?_
    rfl) ⟨rfl, rfl, rfl, rfl, .inl rfl, rfl, rfl⟩
theorem addi (d : BitVec 7) (a : BitVec 7) (i : BitVec 7) : Statement (.addi d a i) :=
  of_place 0x002 rfl (by
    repeat refine (above _ _ _ _).trans ?_
    rfl) ⟨rfl, rfl, rfl, rfl, .inl rfl, rfl, rfl⟩
theorem mul (d : BitVec 7) (a : BitVec 7) (b : BitVec 7) : Statement (.mul d a b) :=
  of_place 0x003 rfl (by
    repeat refine (above _ _ _ _).trans ?_
    rfl) ⟨rfl, rfl, rfl, rfl, .inl rfl, rfl, rfl⟩
theorem mulhS (d : BitVec 7) (a : BitVec 7) (b : BitVec 7) : Statement (.mulhS d a b) :=
  of_place 0x004 rfl (by
    repeat refine (above _ _ _ _).trans ?_
    rfl) ⟨rfl, rfl, rfl, rfl, .inl rfl, rfl, rfl⟩
theorem mulhZ (d : BitVec 7) (a : BitVec 7) (b : BitVec 7) : Statement (.mulhZ d a b) :=
  of_place 0x005 rfl (by
    repeat refine (above _ _ _ _).trans ?_
    rfl) ⟨rfl, rfl, rfl, rfl, .inl rfl, rfl, rfl⟩
theorem mad (d : BitVec 7) (a : BitVec 7) (b : BitVec 7) : Statement (.mad d a b) :=
  of_place 0x006 rfl (by
    repeat refine (above _ _ _ _).trans ?_
    rfl) ⟨rfl, rfl, rfl, rfl, .inl rfl, rfl, rfl⟩
theorem minS (d : BitVec 7) (a : BitVec 7) (b : BitVec 7) : Statement (.minS d a b) :=
  of_place 0x007 rfl (by
    repeat refine (above _ _ _ _).trans ?_
    rfl) ⟨rfl, rfl, rfl, rfl, .inl rfl, rfl, rfl⟩
theorem minZ (d : BitVec 7) (a : BitVec 7) (b : BitVec 7) : Statement (.minZ d a b) :=
  of_place 0x008 rfl (by
    repeat refine (above _ _ _ _).trans ?_
    rfl) ⟨rfl, rfl, rfl, rfl, .inl rfl, rfl, rfl⟩
theorem maxS (d : BitVec 7) (a : BitVec 7) (b : BitVec 7) : Statement (.maxS d a b) :=
  of_place 0x009 rfl (by
    repeat refine (above _ _ _ _).trans ?_
    rfl) ⟨rfl, rfl, rfl, rfl, .inl rfl, rfl, rfl⟩
theorem maxZ (d : BitVec 7) (a : BitVec 7) (b : BitVec 7) : Statement (.maxZ d a b) :=
  of_place 0x00A rfl (by
    repeat refine (above _ _ _ _).trans ?_
    rfl) ⟨rfl, rfl, rfl, rfl, .inl rfl, rfl, rfl⟩
theorem abs (d : BitVec 7) (a : BitVec 7) : Statement (.abs d a) :=
  of_place 0x00B rfl (by
    repeat refine (above _ _ _ _).trans ?_
    rfl) ⟨rfl, rfl, rfl, rfl, .inl rfl, rfl, rfl⟩
theorem and (d : BitVec 7) (a : BitVec 7) (b : BitVec 7) : Statement (.and d a b) :=
  of_place 0x00C rfl (by
    repeat refine (above _ _ _ _).trans ?_
    rfl) ⟨rfl, rfl, rfl, rfl, .inl rfl, rfl, rfl⟩
theorem or (d : BitVec 7) (a : BitVec 7) (b : BitVec 7) : Statement (.or d a b) :=
  of_place 0x00D rfl (by
    repeat refine (above _ _ _ _).trans ?_
    rfl) ⟨rfl, rfl, rfl, rfl, .inl rfl, rfl, rfl⟩
theorem xor (d : BitVec 7) (a : BitVec 7) (b : BitVec 7) : Statement (.xor d a b) :=
  of_place 0x00E rfl (by
    repeat refine (above _ _ _ _).trans ?_
    rfl) ⟨rfl, rfl, rfl, rfl, .inl rfl, rfl, rfl⟩
theorem andn (d : BitVec 7) (a : BitVec 7) (b : BitVec 7) : Statement (.andn d a b) :=
  of_place 0x00F rfl (by
    repeat refine (above _ _ _ _).trans ?_
    rfl) ⟨rfl, rfl, rfl, rfl, .inl rfl, rfl, rfl⟩
theorem andi (d : BitVec 7) (a : BitVec 7) (i : BitVec 7) : Statement (.andi d a i) :=
  of_place 0x010 rfl (by
    repeat refine (above _ _ _ _).trans ?_
    rfl) ⟨rfl, rfl, rfl, rfl, .inl rfl, rfl, rfl⟩
theorem ori (d : BitVec 7) (a : BitVec 7) (i : BitVec 7) : Statement (.ori d a i) :=
  of_place 0x011 rfl (by
    repeat refine (above _ _ _ _).trans ?_
    rfl) ⟨rfl, rfl, rfl, rfl, .inl rfl, rfl, rfl⟩
theorem xori (d : BitVec 7) (a : BitVec 7) (i : BitVec 7) : Statement (.xori d a i) :=
  of_place 0x012 rfl (by
    repeat refine (above _ _ _ _).trans ?_
    rfl) ⟨rfl, rfl, rfl, rfl, .inl rfl, rfl, rfl⟩
theorem shl (d : BitVec 7) (a : BitVec 7) (b : BitVec 7) : Statement (.shl d a b) :=
  of_place 0x013 rfl (by
    repeat refine (above _ _ _ _).trans ?_
    rfl) ⟨rfl, rfl, rfl, rfl, .inl rfl, rfl, rfl⟩
theorem shr (d : BitVec 7) (a : BitVec 7) (b : BitVec 7) : Statement (.shr d a b) :=
  of_place 0x014 rfl (by
    repeat refine (above _ _ _ _).trans ?_
    rfl) ⟨rfl, rfl, rfl, rfl, .inl rfl, rfl, rfl⟩
theorem sar (d : BitVec 7) (a : BitVec 7) (b : BitVec 7) : Statement (.sar d a b) :=
  of_place 0x015 rfl (by
    repeat refine (above _ _ _ _).trans ?_
    rfl) ⟨rfl, rfl, rfl, rfl, .inl rfl, rfl, rfl⟩
theorem shli (d : BitVec 7) (a : BitVec 7) (n : BitVec 5) : Statement (.shli d a n) :=
  of_place 0x016 rfl (by
    repeat refine (above _ _ _ _).trans ?_
    rfl) ⟨rfl, rfl, rfl, rfl, .inl rfl, rfl, rfl⟩
theorem shri (d : BitVec 7) (a : BitVec 7) (n : BitVec 5) : Statement (.shri d a n) :=
  of_place 0x017 rfl (by
    repeat refine (above _ _ _ _).trans ?_
    rfl) ⟨rfl, rfl, rfl, rfl, .inl rfl, rfl, rfl⟩
theorem sari (d : BitVec 7) (a : BitVec 7) (n : BitVec 5) : Statement (.sari d a n) :=
  of_place 0x018 rfl (by
    repeat refine (above _ _ _ _).trans ?_
    rfl) ⟨rfl, rfl, rfl, rfl, .inl rfl, rfl, rfl⟩
theorem rotl (d : BitVec 7) (a : BitVec 7) (b : BitVec 7) : Statement (.rotl d a b) :=
  of_place 0x019 rfl (by
    repeat refine (above _ _ _ _).trans ?_
    rfl) ⟨rfl, rfl, rfl, rfl, .inl rfl, rfl, rfl⟩
theorem popc (d : BitVec 7) (a : BitVec 7) : Statement (.popc d a) :=
  of_place 0x01A rfl (by
    repeat refine (above _ _ _ _).trans ?_
    rfl) ⟨rfl, rfl, rfl, rfl, .inl rfl, rfl, rfl⟩
theorem clz (d : BitVec 7) (a : BitVec 7) : Statement (.clz d a) :=
  of_place 0x01B rfl (by
    repeat refine (above _ _ _ _).trans ?_
    rfl) ⟨rfl, rfl, rfl, rfl, .inl rfl, rfl, rfl⟩
theorem brev (d : BitVec 7) (a : BitVec 7) : Statement (.brev d a) :=
  of_place 0x01C rfl (by
    repeat refine (above _ _ _ _).trans ?_
    rfl) ⟨rfl, rfl, rfl, rfl, .inl rfl, rfl, rfl⟩
theorem bfxS (d : BitVec 7) (a : BitVec 7) (b : BitVec 7) : Statement (.bfxS d a b) :=
  of_place 0x01D rfl (by
    repeat refine (above _ _ _ _).trans ?_
    rfl) ⟨rfl, rfl, rfl, rfl, .inl rfl, rfl, rfl⟩
theorem bfxZ (d : BitVec 7) (a : BitVec 7) (b : BitVec 7) : Statement (.bfxZ d a b) :=
  of_place 0x01E rfl (by
    repeat refine (above _ _ _ _).trans ?_
    rfl) ⟨rfl, rfl, rfl, rfl, .inl rfl, rfl, rfl⟩
theorem bfi (d : BitVec 7) (a : BitVec 7) (b : BitVec 7) : Statement (.bfi d a b) :=
  of_place 0x01F rfl (by
    repeat refine (above _ _ _ _).trans ?_
    rfl) ⟨rfl, rfl, rfl, rfl, .inl rfl, rfl, rfl⟩
theorem addD (d : BitVec 7) (a : BitVec 7) (b : BitVec 7) : Statement (.addD d a b) :=
  of_place 0x020 rfl (by
    repeat refine (above _ _ _ _).trans ?_
    rfl) ⟨rfl, rfl, rfl, rfl, .inl rfl, rfl, rfl⟩
theorem subD (d : BitVec 7) (a : BitVec 7) (b : BitVec 7) : Statement (.subD d a b) :=
  of_place 0x021 rfl (by
    repeat refine (above _ _ _ _).trans ?_
    rfl) ⟨rfl, rfl, rfl, rfl, .inl rfl, rfl, rfl⟩
theorem mulD (d : BitVec 7) (a : BitVec 7) (b : BitVec 7) : Statement (.mulD d a b) :=
  of_place 0x022 rfl (by
    repeat refine (above _ _ _ _).trans ?_
    rfl) ⟨rfl, rfl, rfl, rfl, .inl rfl, rfl, rfl⟩
theorem shlD (d : BitVec 7) (a : BitVec 7) (b : BitVec 7) : Statement (.shlD d a b) :=
  of_place 0x023 rfl (by
    repeat refine (above _ _ _ _).trans ?_
    rfl) ⟨rfl, rfl, rfl, rfl, .inl rfl, rfl, rfl⟩
theorem shrD (d : BitVec 7) (a : BitVec 7) (b : BitVec 7) : Statement (.shrD d a b) :=
  of_place 0x024 rfl (by
    repeat refine (above _ _ _ _).trans ?_
    rfl) ⟨rfl, rfl, rfl, rfl, .inl rfl, rfl, rfl⟩
theorem sarD (d : BitVec 7) (a : BitVec 7) (b : BitVec 7) : Statement (.sarD d a b) :=
  of_place 0x025 rfl (by
    repeat refine (above _ _ _ _).trans ?_
    rfl) ⟨rfl, rfl, rfl, rfl, .inl rfl, rfl, rfl⟩
theorem cmpEq (d : BitVec 6) (a : BitVec 7) (b : BitVec 7) : Statement (.cmpEq d a b) :=
  of_place 0x026 rfl (by
    repeat refine (above _ _ _ _).trans ?_
    rfl) ⟨rfl, rfl, rfl, rfl, .inl rfl, rfl, rfl⟩
theorem cmpNe (d : BitVec 6) (a : BitVec 7) (b : BitVec 7) : Statement (.cmpNe d a b) :=
  of_place 0x027 rfl (by
    repeat refine (above _ _ _ _).trans ?_
    rfl) ⟨rfl, rfl, rfl, rfl, .inl rfl, rfl, rfl⟩
theorem cmpLtS (d : BitVec 6) (a : BitVec 7) (b : BitVec 7) : Statement (.cmpLtS d a b) :=
  of_place 0x028 rfl (by
    repeat refine (above _ _ _ _).trans ?_
    rfl) ⟨rfl, rfl, rfl, rfl, .inl rfl, rfl, rfl⟩
theorem cmpLeS (d : BitVec 6) (a : BitVec 7) (b : BitVec 7) : Statement (.cmpLeS d a b) :=
  of_place 0x029 rfl (by
    repeat refine (above _ _ _ _).trans ?_
    rfl) ⟨rfl, rfl, rfl, rfl, .inl rfl, rfl, rfl⟩
theorem cmpLtZ (d : BitVec 6) (a : BitVec 7) (b : BitVec 7) : Statement (.cmpLtZ d a b) :=
  of_place 0x02A rfl (by
    repeat refine (above _ _ _ _).trans ?_
    rfl) ⟨rfl, rfl, rfl, rfl, .inl rfl, rfl, rfl⟩
theorem cmpLeZ (d : BitVec 6) (a : BitVec 7) (b : BitVec 7) : Statement (.cmpLeZ d a b) :=
  of_place 0x02B rfl (by
    repeat refine (above _ _ _ _).trans ?_
    rfl) ⟨rfl, rfl, rfl, rfl, .inl rfl, rfl, rfl⟩
theorem cmpiEq (d : BitVec 6) (a : BitVec 7) (i : BitVec 7) : Statement (.cmpiEq d a i) :=
  of_place 0x02C rfl (by
    repeat refine (above _ _ _ _).trans ?_
    rfl) ⟨rfl, rfl, rfl, rfl, .inl rfl, rfl, rfl⟩
theorem cmpiLtS (d : BitVec 6) (a : BitVec 7) (i : BitVec 7) : Statement (.cmpiLtS d a i) :=
  of_place 0x02D rfl (by
    repeat refine (above _ _ _ _).trans ?_
    rfl) ⟨rfl, rfl, rfl, rfl, .inl rfl, rfl, rfl⟩
theorem sel (d : BitVec 7) (a : BitVec 7) (b : BitVec 6) : Statement (.sel d a b) :=
  of_place 0x02E rfl (by
    repeat refine (above _ _ _ _).trans ?_
    rfl) ⟨rfl, rfl, rfl, rfl, .inl rfl, rfl, rfl⟩
theorem divS (d : BitVec 7) (a : BitVec 7) (b : BitVec 7) : Statement (.divS d a b) :=
  of_place 0x02F rfl (by
    repeat refine (above _ _ _ _).trans ?_
    rfl) ⟨rfl, rfl, rfl, rfl, .inl rfl, rfl, rfl⟩
theorem divZ (d : BitVec 7) (a : BitVec 7) (b : BitVec 7) : Statement (.divZ d a b) :=
  of_place 0x030 rfl (by
    repeat refine (above _ _ _ _).trans ?_
    rfl) ⟨rfl, rfl, rfl, rfl, .inl rfl, rfl, rfl⟩
theorem remS (d : BitVec 7) (a : BitVec 7) (b : BitVec 7) : Statement (.remS d a b) :=
  of_place 0x031 rfl (by
    repeat refine (above _ _ _ _).trans ?_
    rfl) ⟨rfl, rfl, rfl, rfl, .inl rfl, rfl, rfl⟩
theorem remZ (d : BitVec 7) (a : BitVec 7) (b : BitVec 7) : Statement (.remZ d a b) :=
  of_place 0x032 rfl (by
    repeat refine (above _ _ _ _).trans ?_
    rfl) ⟨rfl, rfl, rfl, rfl, .inl rfl, rfl, rfl⟩
theorem addB (d : BitVec 7) (a : BitVec 7) (b : BitVec 6) : Statement (.addB d a b) :=
  of_place 0x033 rfl (by
    repeat refine (above _ _ _ _).trans ?_
    rfl) ⟨rfl, rfl, rfl, rfl, .inl rfl, rfl, rfl⟩
theorem subB (d : BitVec 7) (a : BitVec 7) (b : BitVec 6) : Statement (.subB d a b) :=
  of_place 0x034 rfl (by
    repeat refine (above _ _ _ _).trans ?_
    rfl) ⟨rfl, rfl, rfl, rfl, .inl rfl, rfl, rfl⟩
theorem mulB (d : BitVec 7) (a : BitVec 7) (b : BitVec 6) : Statement (.mulB d a b) :=
  of_place 0x035 rfl (by
    repeat refine (above _ _ _ _).trans ?_
    rfl) ⟨rfl, rfl, rfl, rfl, .inl rfl, rfl, rfl⟩
theorem madB (d : BitVec 7) (a : BitVec 7) (b : BitVec 6) : Statement (.madB d a b) :=
  of_place 0x036 rfl (by
    repeat refine (above _ _ _ _).trans ?_
    rfl) ⟨rfl, rfl, rfl, rfl, .inl rfl, rfl, rfl⟩
theorem andB (d : BitVec 7) (a : BitVec 7) (b : BitVec 6) : Statement (.andB d a b) :=
  of_place 0x037 rfl (by
    repeat refine (above _ _ _ _).trans ?_
    rfl) ⟨rfl, rfl, rfl, rfl, .inl rfl, rfl, rfl⟩
theorem orB (d : BitVec 7) (a : BitVec 7) (b : BitVec 6) : Statement (.orB d a b) :=
  of_place 0x038 rfl (by
    repeat refine (above _ _ _ _).trans ?_
    rfl) ⟨rfl, rfl, rfl, rfl, .inl rfl, rfl, rfl⟩
theorem xorB (d : BitVec 7) (a : BitVec 7) (b : BitVec 6) : Statement (.xorB d a b) :=
  of_place 0x039 rfl (by
    repeat refine (above _ _ _ _).trans ?_
    rfl) ⟨rfl, rfl, rfl, rfl, .inl rfl, rfl, rfl⟩
theorem shlB (d : BitVec 7) (a : BitVec 7) (b : BitVec 6) : Statement (.shlB d a b) :=
  of_place 0x03A rfl (by
    repeat refine (above _ _ _ _).trans ?_
    rfl) ⟨rfl, rfl, rfl, rfl, .inl rfl, rfl, rfl⟩
theorem shrB (d : BitVec 7) (a : BitVec 7) (b : BitVec 6) : Statement (.shrB d a b) :=
  of_place 0x03B rfl (by
    repeat refine (above _ _ _ _).trans ?_
    rfl) ⟨rfl, rfl, rfl, rfl, .inl rfl, rfl, rfl⟩
theorem cmpEqB (d : BitVec 6) (a : BitVec 7) (b : BitVec 6) : Statement (.cmpEqB d a b) :=
  of_place 0x03C rfl (by
    repeat refine (above _ _ _ _).trans ?_
    rfl) ⟨rfl, rfl, rfl, rfl, .inl rfl, rfl, rfl⟩
theorem cmpLtSB (d : BitVec 6) (a : BitVec 7) (b : BitVec 6) : Statement (.cmpLtSB d a b) :=
  of_place 0x03D rfl (by
    repeat refine (above _ _ _ _).trans ?_
    rfl) ⟨rfl, rfl, rfl, rfl, .inl rfl, rfl, rfl⟩
theorem fadd (d : BitVec 7) (a : BitVec 7) (b : BitVec 7) : Statement (.fadd d a b) :=
  of_place 0x080 rfl (by
    repeat refine (above _ _ _ _).trans ?_
    rfl) ⟨rfl, rfl, rfl, rfl, .inl rfl, rfl, rfl⟩
theorem fsub (d : BitVec 7) (a : BitVec 7) (b : BitVec 7) : Statement (.fsub d a b) :=
  of_place 0x081 rfl (by
    repeat refine (above _ _ _ _).trans ?_
    rfl) ⟨rfl, rfl, rfl, rfl, .inl rfl, rfl, rfl⟩
theorem fmul (d : BitVec 7) (a : BitVec 7) (b : BitVec 7) : Statement (.fmul d a b) :=
  of_place 0x082 rfl (by
    repeat refine (above _ _ _ _).trans ?_
    rfl) ⟨rfl, rfl, rfl, rfl, .inl rfl, rfl, rfl⟩
theorem ffma (d : BitVec 7) (a : BitVec 7) (b : BitVec 7) : Statement (.ffma d a b) :=
  of_place 0x083 rfl (by
    repeat refine (above _ _ _ _).trans ?_
    rfl) ⟨rfl, rfl, rfl, rfl, .inl rfl, rfl, rfl⟩
theorem fmin (d : BitVec 7) (a : BitVec 7) (b : BitVec 7) : Statement (.fmin d a b) :=
  of_place 0x084 rfl (by
    repeat refine (above _ _ _ _).trans ?_
    rfl) ⟨rfl, rfl, rfl, rfl, .inl rfl, rfl, rfl⟩
theorem fmax (d : BitVec 7) (a : BitVec 7) (b : BitVec 7) : Statement (.fmax d a b) :=
  of_place 0x085 rfl (by
    repeat refine (above _ _ _ _).trans ?_
    rfl) ⟨rfl, rfl, rfl, rfl, .inl rfl, rfl, rfl⟩
theorem fabs (d : BitVec 7) (a : BitVec 7) : Statement (.fabs d a) :=
  of_place 0x086 rfl (by
    repeat refine (above _ _ _ _).trans ?_
    rfl) ⟨rfl, rfl, rfl, rfl, .inl rfl, rfl, rfl⟩
theorem fneg (d : BitVec 7) (a : BitVec 7) : Statement (.fneg d a) :=
  of_place 0x087 rfl (by
    repeat refine (above _ _ _ _).trans ?_
    rfl) ⟨rfl, rfl, rfl, rfl, .inl rfl, rfl, rfl⟩
theorem fcmpEq (d : BitVec 6) (a : BitVec 7) (b : BitVec 7) : Statement (.fcmpEq d a b) :=
  of_place 0x088 rfl (by
    repeat refine (above _ _ _ _).trans ?_
    rfl) ⟨rfl, rfl, rfl, rfl, .inl rfl, rfl, rfl⟩
theorem fcmpLt (d : BitVec 6) (a : BitVec 7) (b : BitVec 7) : Statement (.fcmpLt d a b) :=
  of_place 0x089 rfl (by
    repeat refine (above _ _ _ _).trans ?_
    rfl) ⟨rfl, rfl, rfl, rfl, .inl rfl, rfl, rfl⟩
theorem fcmpLe (d : BitVec 6) (a : BitVec 7) (b : BitVec 7) : Statement (.fcmpLe d a b) :=
  of_place 0x08A rfl (by
    repeat refine (above _ _ _ _).trans ?_
    rfl) ⟨rfl, rfl, rfl, rfl, .inl rfl, rfl, rfl⟩
theorem fcmpUn (d : BitVec 6) (a : BitVec 7) (b : BitVec 7) : Statement (.fcmpUn d a b) :=
  of_place 0x08B rfl (by
    repeat refine (above _ _ _ _).trans ?_
    rfl) ⟨rfl, rfl, rfl, rfl, .inl rfl, rfl, rfl⟩
theorem frcp (d : BitVec 7) (a : BitVec 7) : Statement (.frcp d a) :=
  of_place 0x08C rfl (by
    repeat refine (above _ _ _ _).trans ?_
    rfl) ⟨rfl, rfl, rfl, rfl, .inl rfl, rfl, rfl⟩
theorem frsq (d : BitVec 7) (a : BitVec 7) : Statement (.frsq d a) :=
  of_place 0x08D rfl (by
    repeat refine (above _ _ _ _).trans ?_
    rfl) ⟨rfl, rfl, rfl, rfl, .inl rfl, rfl, rfl⟩
theorem fsqrt (d : BitVec 7) (a : BitVec 7) : Statement (.fsqrt d a) :=
  of_place 0x08E rfl (by
    repeat refine (above _ _ _ _).trans ?_
    rfl) ⟨rfl, rfl, rfl, rfl, .inl rfl, rfl, rfl⟩
theorem fdiv (d : BitVec 7) (a : BitVec 7) (b : BitVec 7) : Statement (.fdiv d a b) :=
  of_place 0x08F rfl (by
    repeat refine (above _ _ _ _).trans ?_
    rfl) ⟨rfl, rfl, rfl, rfl, .inl rfl, rfl, rfl⟩
theorem fex2 (d : BitVec 7) (a : BitVec 7) : Statement (.fex2 d a) :=
  of_place 0x090 rfl (by
    repeat refine (above _ _ _ _).trans ?_
    rfl) ⟨rfl, rfl, rfl, rfl, .inl rfl, rfl, rfl⟩
theorem flg2 (d : BitVec 7) (a : BitVec 7) : Statement (.flg2 d a) :=
  of_place 0x091 rfl (by
    repeat refine (above _ _ _ _).trans ?_
    rfl) ⟨rfl, rfl, rfl, rfl, .inl rfl, rfl, rfl⟩
theorem fsin (d : BitVec 7) (a : BitVec 7) : Statement (.fsin d a) :=
  of_place 0x092 rfl (by
    repeat refine (above _ _ _ _).trans ?_
    rfl) ⟨rfl, rfl, rfl, rfl, .inl rfl, rfl, rfl⟩
theorem fcos (d : BitVec 7) (a : BitVec 7) : Statement (.fcos d a) :=
  of_place 0x093 rfl (by
    repeat refine (above _ _ _ _).trans ?_
    rfl) ⟨rfl, rfl, rfl, rfl, .inl rfl, rfl, rfl⟩
theorem faddB (d : BitVec 7) (a : BitVec 7) (b : BitVec 6) : Statement (.faddB d a b) :=
  of_place 0x094 rfl (by
    repeat refine (above _ _ _ _).trans ?_
    rfl) ⟨rfl, rfl, rfl, rfl, .inl rfl, rfl, rfl⟩
theorem fmulB (d : BitVec 7) (a : BitVec 7) (b : BitVec 6) : Statement (.fmulB d a b) :=
  of_place 0x095 rfl (by
    repeat refine (above _ _ _ _).trans ?_
    rfl) ⟨rfl, rfl, rfl, rfl, .inl rfl, rfl, rfl⟩
theorem ffmaB (d : BitVec 7) (a : BitVec 7) (b : BitVec 6) : Statement (.ffmaB d a b) :=
  of_place 0x096 rfl (by
    repeat refine (above _ _ _ _).trans ?_
    rfl) ⟨rfl, rfl, rfl, rfl, .inl rfl, rfl, rfl⟩
theorem dadd (d : BitVec 7) (a : BitVec 7) (b : BitVec 7) : Statement (.dadd d a b) :=
  of_place 0x097 rfl (by
    repeat refine (above _ _ _ _).trans ?_
    rfl) ⟨rfl, rfl, rfl, rfl, .inl rfl, rfl, rfl⟩
theorem dsub (d : BitVec 7) (a : BitVec 7) (b : BitVec 7) : Statement (.dsub d a b) :=
  of_place 0x098 rfl (by
    repeat refine (above _ _ _ _).trans ?_
    rfl) ⟨rfl, rfl, rfl, rfl, .inl rfl, rfl, rfl⟩
theorem dmul (d : BitVec 7) (a : BitVec 7) (b : BitVec 7) : Statement (.dmul d a b) :=
  of_place 0x099 rfl (by
    repeat refine (above _ _ _ _).trans ?_
    rfl) ⟨rfl, rfl, rfl, rfl, .inl rfl, rfl, rfl⟩
theorem dfma (d : BitVec 7) (a : BitVec 7) (b : BitVec 7) : Statement (.dfma d a b) :=
  of_place 0x09A rfl (by
    repeat refine (above _ _ _ _).trans ?_
    rfl) ⟨rfl, rfl, rfl, rfl, .inl rfl, rfl, rfl⟩
theorem ddiv (d : BitVec 7) (a : BitVec 7) (b : BitVec 7) : Statement (.ddiv d a b) :=
  of_place 0x09B rfl (by
    repeat refine (above _ _ _ _).trans ?_
    rfl) ⟨rfl, rfl, rfl, rfl, .inl rfl, rfl, rfl⟩
theorem dsqrt (d : BitVec 7) (a : BitVec 7) : Statement (.dsqrt d a) :=
  of_place 0x09C rfl (by
    repeat refine (above _ _ _ _).trans ?_
    rfl) ⟨rfl, rfl, rfl, rfl, .inl rfl, rfl, rfl⟩
theorem dcmpEq (d : BitVec 6) (a : BitVec 7) (b : BitVec 7) : Statement (.dcmpEq d a b) :=
  of_place 0x09D rfl (by
    repeat refine (above _ _ _ _).trans ?_
    rfl) ⟨rfl, rfl, rfl, rfl, .inl rfl, rfl, rfl⟩
theorem dcmpLt (d : BitVec 6) (a : BitVec 7) (b : BitVec 7) : Statement (.dcmpLt d a b) :=
  of_place 0x09E rfl (by
    repeat refine (above _ _ _ _).trans ?_
    rfl) ⟨rfl, rfl, rfl, rfl, .inl rfl, rfl, rfl⟩
theorem dcmpLe (d : BitVec 6) (a : BitVec 7) (b : BitVec 7) : Statement (.dcmpLe d a b) :=
  of_place 0x09F rfl (by
    repeat refine (above _ _ _ _).trans ?_
    rfl) ⟨rfl, rfl, rfl, rfl, .inl rfl, rfl, rfl⟩
theorem faddF16x2 (d : BitVec 7) (a : BitVec 7) (b : BitVec 7) : Statement (.faddF16x2 d a b) :=
  of_place 0x0A0 rfl (by
    repeat refine (above _ _ _ _).trans ?_
    rfl) ⟨rfl, rfl, rfl, rfl, .inl rfl, rfl, rfl⟩
theorem fmulF16x2 (d : BitVec 7) (a : BitVec 7) (b : BitVec 7) : Statement (.fmulF16x2 d a b) :=
  of_place 0x0A1 rfl (by
    repeat refine (above _ _ _ _).trans ?_
    rfl) ⟨rfl, rfl, rfl, rfl, .inl rfl, rfl, rfl⟩
theorem ffmaF16x2 (d : BitVec 7) (a : BitVec 7) (b : BitVec 7) : Statement (.ffmaF16x2 d a b) :=
  of_place 0x0A2 rfl (by
    repeat refine (above _ _ _ _).trans ?_
    rfl) ⟨rfl, rfl, rfl, rfl, .inl rfl, rfl, rfl⟩
theorem cvtF32S32 (d : BitVec 7) (a : BitVec 7) : Statement (.cvtF32S32 d a) :=
  of_place 0x0A3 rfl (by
    repeat refine (above _ _ _ _).trans ?_
    rfl) ⟨rfl, rfl, rfl, rfl, .inl rfl, rfl, rfl⟩
theorem cvtF32Z32 (d : BitVec 7) (a : BitVec 7) : Statement (.cvtF32Z32 d a) :=
  of_place 0x0A4 rfl (by
    repeat refine (above _ _ _ _).trans ?_
    rfl) ⟨rfl, rfl, rfl, rfl, .inl rfl, rfl, rfl⟩
theorem cvtS32F32 (d : BitVec 7) (a : BitVec 7) : Statement (.cvtS32F32 d a) :=
  of_place 0x0A5 rfl (by
    repeat refine (above _ _ _ _).trans ?_
    rfl) ⟨rfl, rfl, rfl, rfl, .inl rfl, rfl, rfl⟩
theorem cvtZ32F32 (d : BitVec 7) (a : BitVec 7) : Statement (.cvtZ32F32 d a) :=
  of_place 0x0A6 rfl (by
    repeat refine (above _ _ _ _).trans ?_
    rfl) ⟨rfl, rfl, rfl, rfl, .inl rfl, rfl, rfl⟩
theorem cvtF64F32 (d : BitVec 7) (a : BitVec 7) : Statement (.cvtF64F32 d a) :=
  of_place 0x0A7 rfl (by
    repeat refine (above _ _ _ _).trans ?_
    rfl) ⟨rfl, rfl, rfl, rfl, .inl rfl, rfl, rfl⟩
theorem cvtF32F64 (d : BitVec 7) (a : BitVec 7) : Statement (.cvtF32F64 d a) :=
  of_place 0x0A8 rfl (by
    repeat refine (above _ _ _ _).trans ?_
    rfl) ⟨rfl, rfl, rfl, rfl, .inl rfl, rfl, rfl⟩
theorem cvtF64S32 (d : BitVec 7) (a : BitVec 7) : Statement (.cvtF64S32 d a) :=
  of_place 0x0A9 rfl (by
    repeat refine (above _ _ _ _).trans ?_
    rfl) ⟨rfl, rfl, rfl, rfl, .inl rfl, rfl, rfl⟩
theorem cvtS32F64 (d : BitVec 7) (a : BitVec 7) : Statement (.cvtS32F64 d a) :=
  of_place 0x0AA rfl (by
    repeat refine (above _ _ _ _).trans ?_
    rfl) ⟨rfl, rfl, rfl, rfl, .inl rfl, rfl, rfl⟩
theorem cvtF16x2F32 (d : BitVec 7) (a : BitVec 7) (b : BitVec 7) : Statement (.cvtF16x2F32 d a b) :=
  of_place 0x0AB rfl (by
    repeat refine (above _ _ _ _).trans ?_
    rfl) ⟨rfl, rfl, rfl, rfl, .inl rfl, rfl, rfl⟩
theorem cvtF32F16 (d : BitVec 7) (a : BitVec 7) (h : BitVec 1) : Statement (.cvtF32F16 d a h) :=
  of_place 0x0AC rfl (by
    repeat refine (above _ _ _ _).trans ?_
    rfl) ⟨rfl, rfl, rfl, rfl, .inl rfl, rfl, rfl⟩
theorem cvtBf16x2F32 (d : BitVec 7) (a : BitVec 7) (b : BitVec 7) : Statement (.cvtBf16x2F32 d a b) :=
  of_place 0x0AD rfl (by
    repeat refine (above _ _ _ _).trans ?_
    rfl) ⟨rfl, rfl, rfl, rfl, .inl rfl, rfl, rfl⟩
theorem cvtF32Bf16 (d : BitVec 7) (a : BitVec 7) (h : BitVec 1) : Statement (.cvtF32Bf16 d a h) :=
  of_place 0x0AE rfl (by
    repeat refine (above _ _ _ _).trans ?_
    rfl) ⟨rfl, rfl, rfl, rfl, .inl rfl, rfl, rfl⟩
theorem cvtE4x2F32 (d : BitVec 7) (a : BitVec 7) (b : BitVec 7) : Statement (.cvtE4x2F32 d a b) :=
  of_place 0x0AF rfl (by
    repeat refine (above _ _ _ _).trans ?_
    rfl) ⟨rfl, rfl, rfl, rfl, .inl rfl, rfl, rfl⟩
theorem cvtE5x2F32 (d : BitVec 7) (a : BitVec 7) (b : BitVec 7) : Statement (.cvtE5x2F32 d a b) :=
  of_place 0x0B0 rfl (by
    repeat refine (above _ _ _ _).trans ?_
    rfl) ⟨rfl, rfl, rfl, rfl, .inl rfl, rfl, rfl⟩
theorem cvtF32E4 (d : BitVec 7) (a : BitVec 7) (n : BitVec 2) : Statement (.cvtF32E4 d a n) :=
  of_place 0x0B1 rfl (by
    repeat refine (above _ _ _ _).trans ?_
    rfl) ⟨rfl, rfl, rfl, rfl, .inl rfl, rfl, rfl⟩
theorem cvtF32E5 (d : BitVec 7) (a : BitVec 7) (n : BitVec 2) : Statement (.cvtF32E5 d a n) :=
  of_place 0x0B2 rfl (by
    repeat refine (above _ _ _ _).trans ?_
    rfl) ⟨rfl, rfl, rfl, rfl, .inl rfl, rfl, rfl⟩
theorem mov (d : BitVec 7) (a : BitVec 7) : Statement (.mov d a) :=
  of_place 0x100 rfl (by
    repeat refine (above _ _ _ _).trans ?_
    rfl) ⟨rfl, rfl, rfl, rfl, .inl rfl, rfl, rfl⟩
theorem movD (d : BitVec 7) (a : BitVec 7) : Statement (.movD d a) :=
  of_place 0x101 rfl (by
    repeat refine (above _ _ _ _).trans ?_
    rfl) ⟨rfl, rfl, rfl, rfl, .inl rfl, rfl, rfl⟩
theorem movi (d : BitVec 7) (i : BitVec 14) : Statement (.movi d i) :=
  of_place 0x102 rfl (by
    repeat refine (above _ _ _ _).trans ?_
    rfl) ⟨rfl, rfl, rfl, rfl, .inl rfl, rfl, rfl⟩
theorem movh (d : BitVec 7) (i : BitVec 14) : Statement (.movh d i) :=
  of_place 0x103 rfl (by
    repeat refine (above _ _ _ _).trans ?_
    rfl) ⟨rfl, rfl, rfl, rfl, .inl rfl, rfl, rfl⟩
theorem movB (d : BitVec 7) (a : BitVec 6) : Statement (.movB d a) :=
  of_place 0x104 rfl (by
    repeat refine (above _ _ _ _).trans ?_
    rfl) ⟨rfl, rfl, rfl, rfl, .inl rfl, rfl, rfl⟩
theorem setx (a : BitVec 7) : Statement (.setx a) :=
  of_place 0x105 rfl (by
    repeat refine (above _ _ _ _).trans ?_
    rfl) ⟨rfl, rfl, rfl, rfl, .inl rfl, rfl, rfl⟩
theorem setxi (i : BitVec 8) : Statement (.setxi i) :=
  of_place 0x106 rfl (by
    repeat refine (above _ _ _ _).trans ?_
    rfl) ⟨rfl, rfl, rfl, rfl, .inl rfl, rfl, rfl⟩
theorem movxG (d : BitVec 7) (i : BitVec 7) : Statement (.movxG d i) :=
  of_place 0x107 rfl (by
    repeat refine (above _ _ _ _).trans ?_
    rfl) ⟨rfl, rfl, rfl, rfl, .inl rfl, rfl, rfl⟩
theorem movxP (a : BitVec 7) (i : BitVec 7) : Statement (.movxP a i) :=
  of_place 0x108 rfl (by
    repeat refine (above _ _ _ _).trans ?_
    rfl) ⟨rfl, rfl, rfl, rfl, .inl rfl, rfl, rfl⟩
theorem rds (d : BitVec 7) (n : BitVec 14) : Statement (.rds d n) :=
  of_place 0x109 rfl (by
    repeat refine (above _ _ _ _).trans ?_
    rfl) ⟨rfl, rfl, rfl, rfl, .inl rfl, rfl, rfl⟩
theorem brv (m : BitVec 6) (o : BitVec 15) : Statement (.brv m o) :=
  of_place 0x140 rfl (by
    repeat refine (above _ _ _ _).trans ?_
    rfl) ⟨rfl, rfl, rfl, rfl, .inl rfl, rfl, rfl⟩
theorem brc (m : BitVec 6) (o : BitVec 15) : Statement (.brc m o) :=
  of_place 0x141 rfl (by
    repeat refine (above _ _ _ _).trans ?_
    rfl) ⟨rfl, rfl, rfl, rfl, .inl rfl, rfl, rfl⟩
theorem jmpi (a : BitVec 7) : Statement (.jmpi a) :=
  of_place 0x142 rfl (by
    repeat refine (above _ _ _ _).trans ?_
    rfl) ⟨rfl, rfl, rfl, rfl, .inl rfl, rfl, rfl⟩
theorem calli (a : BitVec 7) : Statement (.calli a) :=
  of_place 0x143 rfl (by
    repeat refine (above _ _ _ _).trans ?_
    rfl) ⟨rfl, rfl, rfl, rfl, .inl rfl, rfl, rfl⟩
theorem ret : Statement .ret :=
  of_place 0x144 rfl (rfl) ⟨rfl, rfl, rfl, rfl, .inl rfl, rfl, rfl⟩
theorem pickLane (d : BitVec 7) (a : BitVec 7) (b : BitVec 7) : Statement (.pickLane d a b) :=
  of_place 0x145 rfl (by
    repeat refine (above _ _ _ _).trans ?_
    rfl) ⟨rfl, rfl, rfl, rfl, .inl rfl, rfl, rfl⟩
theorem pickFlip (d : BitVec 7) (a : BitVec 7) (n : BitVec 5) : Statement (.pickFlip d a n) :=
  of_place 0x146 rfl (by
    repeat refine (above _ _ _ _).trans ?_
    rfl) ⟨rfl, rfl, rfl, rfl, .inl rfl, rfl, rfl⟩
theorem pickLo (d : BitVec 7) (a : BitVec 7) (n : BitVec 5) : Statement (.pickLo d a n) :=
  of_place 0x147 rfl (by
    repeat refine (above _ _ _ _).trans ?_
    rfl) ⟨rfl, rfl, rfl, rfl, .inl rfl, rfl, rfl⟩
theorem pickHi (d : BitVec 7) (a : BitVec 7) (n : BitVec 5) : Statement (.pickHi d a n) :=
  of_place 0x148 rfl (by
    repeat refine (above _ _ _ _).trans ?_
    rfl) ⟨rfl, rfl, rfl, rfl, .inl rfl, rfl, rfl⟩
theorem pickSeat (d : BitVec 7) (a : BitVec 7) (b : BitVec 7) : Statement (.pickSeat d a b) :=
  of_place 0x149 rfl (by
    repeat refine (above _ _ _ _).trans ?_
    rfl) ⟨rfl, rfl, rfl, rfl, .inl rfl, rfl, rfl⟩
theorem voteAny (d : BitVec 6) (a : BitVec 7) : Statement (.voteAny d a) :=
  of_place 0x14A rfl (by
    repeat refine (above _ _ _ _).trans ?_
    rfl) ⟨rfl, rfl, rfl, rfl, .inl rfl, rfl, rfl⟩
theorem voteAll (d : BitVec 6) (a : BitVec 7) : Statement (.voteAll d a) :=
  of_place 0x14B rfl (by
    repeat refine (above _ _ _ _).trans ?_
    rfl) ⟨rfl, rfl, rfl, rfl, .inl rfl, rfl, rfl⟩
theorem voteBal (d : BitVec 6) (a : BitVec 7) : Statement (.voteBal d a) :=
  of_place 0x14C rfl (by
    repeat refine (above _ _ _ _).trans ?_
    rfl) ⟨rfl, rfl, rfl, rfl, .inl rfl, rfl, rfl⟩
theorem lds8 (d : BitVec 7) (a : BitVec 7) (l : BitVec 4) (k : BitVec 3) : Statement (.lds8 d a l k) :=
  of_place 0x180 rfl (by
    repeat refine (above _ _ _ _).trans ?_
    rfl) ⟨rfl, rfl, rfl, rfl, .inl rfl, rfl, rfl⟩
theorem lds8s (d : BitVec 7) (a : BitVec 7) (l : BitVec 4) (k : BitVec 3) : Statement (.lds8s d a l k) :=
  of_place 0x181 rfl (by
    repeat refine (above _ _ _ _).trans ?_
    rfl) ⟨rfl, rfl, rfl, rfl, .inl rfl, rfl, rfl⟩
theorem lds16 (d : BitVec 7) (a : BitVec 7) (l : BitVec 4) (k : BitVec 3) : Statement (.lds16 d a l k) :=
  of_place 0x182 rfl (by
    repeat refine (above _ _ _ _).trans ?_
    rfl) ⟨rfl, rfl, rfl, rfl, .inl rfl, rfl, rfl⟩
theorem lds16s (d : BitVec 7) (a : BitVec 7) (l : BitVec 4) (k : BitVec 3) : Statement (.lds16s d a l k) :=
  of_place 0x183 rfl (by
    repeat refine (above _ _ _ _).trans ?_
    rfl) ⟨rfl, rfl, rfl, rfl, .inl rfl, rfl, rfl⟩
theorem lds32 (d : BitVec 7) (a : BitVec 7) (l : BitVec 4) (k : BitVec 3) : Statement (.lds32 d a l k) :=
  of_place 0x184 rfl (by
    repeat refine (above _ _ _ _).trans ?_
    rfl) ⟨rfl, rfl, rfl, rfl, .inl rfl, rfl, rfl⟩
theorem lds64 (d : BitVec 7) (a : BitVec 7) (l : BitVec 4) (k : BitVec 3) : Statement (.lds64 d a l k) :=
  of_place 0x185 rfl (by
    repeat refine (above _ _ _ _).trans ?_
    rfl) ⟨rfl, rfl, rfl, rfl, .inl rfl, rfl, rfl⟩
theorem lds128 (d : BitVec 7) (a : BitVec 7) (l : BitVec 4) (k : BitVec 3) : Statement (.lds128 d a l k) :=
  of_place 0x186 rfl (by
    repeat refine (above _ _ _ _).trans ?_
    rfl) ⟨rfl, rfl, rfl, rfl, .inl rfl, rfl, rfl⟩
theorem sts8 (d : BitVec 7) (a : BitVec 7) (l : BitVec 4) (k : BitVec 3) : Statement (.sts8 d a l k) :=
  of_place 0x187 rfl (by
    repeat refine (above _ _ _ _).trans ?_
    rfl) ⟨rfl, rfl, rfl, rfl, .inl rfl, rfl, rfl⟩
theorem sts16 (d : BitVec 7) (a : BitVec 7) (l : BitVec 4) (k : BitVec 3) : Statement (.sts16 d a l k) :=
  of_place 0x188 rfl (by
    repeat refine (above _ _ _ _).trans ?_
    rfl) ⟨rfl, rfl, rfl, rfl, .inl rfl, rfl, rfl⟩
theorem sts32 (d : BitVec 7) (a : BitVec 7) (l : BitVec 4) (k : BitVec 3) : Statement (.sts32 d a l k) :=
  of_place 0x189 rfl (by
    repeat refine (above _ _ _ _).trans ?_
    rfl) ⟨rfl, rfl, rfl, rfl, .inl rfl, rfl, rfl⟩
theorem sts64 (d : BitVec 7) (a : BitVec 7) (l : BitVec 4) (k : BitVec 3) : Statement (.sts64 d a l k) :=
  of_place 0x18A rfl (by
    repeat refine (above _ _ _ _).trans ?_
    rfl) ⟨rfl, rfl, rfl, rfl, .inl rfl, rfl, rfl⟩
theorem sts128 (d : BitVec 7) (a : BitVec 7) (l : BitVec 4) (k : BitVec 3) : Statement (.sts128 d a l k) :=
  of_place 0x18B rfl (by
    repeat refine (above _ _ _ _).trans ?_
    rfl) ⟨rfl, rfl, rfl, rfl, .inl rfl, rfl, rfl⟩
theorem atsAdd (d : BitVec 7) (a : BitVec 7) (l : BitVec 4) (k : BitVec 3) : Statement (.atsAdd d a l k) :=
  of_place 0x18C rfl (by
    repeat refine (above _ _ _ _).trans ?_
    rfl) ⟨rfl, rfl, rfl, rfl, .inl rfl, rfl, rfl⟩
theorem atsMinS (d : BitVec 7) (a : BitVec 7) (l : BitVec 4) (k : BitVec 3) : Statement (.atsMinS d a l k) :=
  of_place 0x18D rfl (by
    repeat refine (above _ _ _ _).trans ?_
    rfl) ⟨rfl, rfl, rfl, rfl, .inl rfl, rfl, rfl⟩
theorem atsMaxS (d : BitVec 7) (a : BitVec 7) (l : BitVec 4) (k : BitVec 3) : Statement (.atsMaxS d a l k) :=
  of_place 0x18E rfl (by
    repeat refine (above _ _ _ _).trans ?_
    rfl) ⟨rfl, rfl, rfl, rfl, .inl rfl, rfl, rfl⟩
theorem atsMinZ (d : BitVec 7) (a : BitVec 7) (l : BitVec 4) (k : BitVec 3) : Statement (.atsMinZ d a l k) :=
  of_place 0x18F rfl (by
    repeat refine (above _ _ _ _).trans ?_
    rfl) ⟨rfl, rfl, rfl, rfl, .inl rfl, rfl, rfl⟩
theorem atsMaxZ (d : BitVec 7) (a : BitVec 7) (l : BitVec 4) (k : BitVec 3) : Statement (.atsMaxZ d a l k) :=
  of_place 0x190 rfl (by
    repeat refine (above _ _ _ _).trans ?_
    rfl) ⟨rfl, rfl, rfl, rfl, .inl rfl, rfl, rfl⟩
theorem atsAnd (d : BitVec 7) (a : BitVec 7) (l : BitVec 4) (k : BitVec 3) : Statement (.atsAnd d a l k) :=
  of_place 0x191 rfl (by
    repeat refine (above _ _ _ _).trans ?_
    rfl) ⟨rfl, rfl, rfl, rfl, .inl rfl, rfl, rfl⟩
theorem atsOr (d : BitVec 7) (a : BitVec 7) (l : BitVec 4) (k : BitVec 3) : Statement (.atsOr d a l k) :=
  of_place 0x192 rfl (by
    repeat refine (above _ _ _ _).trans ?_
    rfl) ⟨rfl, rfl, rfl, rfl, .inl rfl, rfl, rfl⟩
theorem atsXor (d : BitVec 7) (a : BitVec 7) (l : BitVec 4) (k : BitVec 3) : Statement (.atsXor d a l k) :=
  of_place 0x193 rfl (by
    repeat refine (above _ _ _ _).trans ?_
    rfl) ⟨rfl, rfl, rfl, rfl, .inl rfl, rfl, rfl⟩
theorem atsXchg (d : BitVec 7) (a : BitVec 7) (l : BitVec 4) (k : BitVec 3) : Statement (.atsXchg d a l k) :=
  of_place 0x194 rfl (by
    repeat refine (above _ _ _ _).trans ?_
    rfl) ⟨rfl, rfl, rfl, rfl, .inl rfl, rfl, rfl⟩
theorem atsCas (d : BitVec 7) (a : BitVec 7) (l : BitVec 4) (k : BitVec 3) : Statement (.atsCas d a l k) :=
  of_place 0x195 rfl (by
    repeat refine (above _ _ _ _).trans ?_
    rfl) ⟨rfl, rfl, rfl, rfl, .inl rfl, rfl, rfl⟩
theorem arset (d : BitVec 7) (a : BitVec 7) (l : BitVec 4) (k : BitVec 3) : Statement (.arset d a l k) :=
  of_place 0x196 rfl (by
    repeat refine (above _ _ _ _).trans ?_
    rfl) ⟨rfl, rfl, rfl, rfl, .inl rfl, rfl, rfl⟩
theorem aradd (d : BitVec 7) (a : BitVec 7) (l : BitVec 4) (k : BitVec 3) : Statement (.aradd d a l k) :=
  of_place 0x197 rfl (by
    repeat refine (above _ _ _ _).trans ?_
    rfl) ⟨rfl, rfl, rfl, rfl, .inl rfl, rfl, rfl⟩
theorem arwait (d : BitVec 7) (a : BitVec 7) (l : BitVec 4) (k : BitVec 3) : Statement (.arwait d a l k) :=
  of_place 0x198 rfl (by
    repeat refine (above _ _ _ _).trans ?_
    rfl) ⟨rfl, rfl, rfl, rfl, .inl rfl, rfl, rfl⟩
theorem arpoll (d : BitVec 7) (a : BitVec 7) (l : BitVec 4) (k : BitVec 3) : Statement (.arpoll d a l k) :=
  of_place 0x199 rfl (by
    repeat refine (above _ _ _ _).trans ?_
    rfl) ⟨rfl, rfl, rfl, rfl, .inl rfl, rfl, rfl⟩
theorem ld8 (d : BitVec 7) (a : BitVec 7) (l : BitVec 4) (k : BitVec 3) : Statement (.ld8 d a l k) :=
  of_place 0x1C0 rfl (by
    repeat refine (above _ _ _ _).trans ?_
    rfl) ⟨rfl, rfl, rfl, rfl, .inl rfl, rfl, rfl⟩
theorem ld8s (d : BitVec 7) (a : BitVec 7) (l : BitVec 4) (k : BitVec 3) : Statement (.ld8s d a l k) :=
  of_place 0x1C1 rfl (by
    repeat refine (above _ _ _ _).trans ?_
    rfl) ⟨rfl, rfl, rfl, rfl, .inl rfl, rfl, rfl⟩
theorem ld16 (d : BitVec 7) (a : BitVec 7) (l : BitVec 4) (k : BitVec 3) : Statement (.ld16 d a l k) :=
  of_place 0x1C2 rfl (by
    repeat refine (above _ _ _ _).trans ?_
    rfl) ⟨rfl, rfl, rfl, rfl, .inl rfl, rfl, rfl⟩
theorem ld16s (d : BitVec 7) (a : BitVec 7) (l : BitVec 4) (k : BitVec 3) : Statement (.ld16s d a l k) :=
  of_place 0x1C3 rfl (by
    repeat refine (above _ _ _ _).trans ?_
    rfl) ⟨rfl, rfl, rfl, rfl, .inl rfl, rfl, rfl⟩
theorem ld32 (d : BitVec 7) (a : BitVec 7) (l : BitVec 4) (k : BitVec 3) : Statement (.ld32 d a l k) :=
  of_place 0x1C4 rfl (by
    repeat refine (above _ _ _ _).trans ?_
    rfl) ⟨rfl, rfl, rfl, rfl, .inl rfl, rfl, rfl⟩
theorem ld64 (d : BitVec 7) (a : BitVec 7) (l : BitVec 4) (k : BitVec 3) : Statement (.ld64 d a l k) :=
  of_place 0x1C5 rfl (by
    repeat refine (above _ _ _ _).trans ?_
    rfl) ⟨rfl, rfl, rfl, rfl, .inl rfl, rfl, rfl⟩
theorem ld128 (d : BitVec 7) (a : BitVec 7) (l : BitVec 4) (k : BitVec 3) : Statement (.ld128 d a l k) :=
  of_place 0x1C6 rfl (by
    repeat refine (above _ _ _ _).trans ?_
    rfl) ⟨rfl, rfl, rfl, rfl, .inl rfl, rfl, rfl⟩
theorem st8 (d : BitVec 7) (a : BitVec 7) (l : BitVec 4) (k : BitVec 3) : Statement (.st8 d a l k) :=
  of_place 0x1C7 rfl (by
    repeat refine (above _ _ _ _).trans ?_
    rfl) ⟨rfl, rfl, rfl, rfl, .inl rfl, rfl, rfl⟩
theorem st16 (d : BitVec 7) (a : BitVec 7) (l : BitVec 4) (k : BitVec 3) : Statement (.st16 d a l k) :=
  of_place 0x1C8 rfl (by
    repeat refine (above _ _ _ _).trans ?_
    rfl) ⟨rfl, rfl, rfl, rfl, .inl rfl, rfl, rfl⟩
theorem st32 (d : BitVec 7) (a : BitVec 7) (l : BitVec 4) (k : BitVec 3) : Statement (.st32 d a l k) :=
  of_place 0x1C9 rfl (by
    repeat refine (above _ _ _ _).trans ?_
    rfl) ⟨rfl, rfl, rfl, rfl, .inl rfl, rfl, rfl⟩
theorem st64 (d : BitVec 7) (a : BitVec 7) (l : BitVec 4) (k : BitVec 3) : Statement (.st64 d a l k) :=
  of_place 0x1CA rfl (by
    repeat refine (above _ _ _ _).trans ?_
    rfl) ⟨rfl, rfl, rfl, rfl, .inl rfl, rfl, rfl⟩
theorem st128 (d : BitVec 7) (a : BitVec 7) (l : BitVec 4) (k : BitVec 3) : Statement (.st128 d a l k) :=
  of_place 0x1CB rfl (by
    repeat refine (above _ _ _ _).trans ?_
    rfl) ⟨rfl, rfl, rfl, rfl, .inl rfl, rfl, rfl⟩
theorem ld32V (d : BitVec 7) (a : BitVec 7) (l : BitVec 4) (k : BitVec 3) : Statement (.ld32V d a l k) :=
  of_place 0x1CC rfl (by
    repeat refine (above _ _ _ _).trans ?_
    rfl) ⟨rfl, rfl, rfl, rfl, .inl rfl, rfl, rfl⟩
theorem ld64V (d : BitVec 7) (a : BitVec 7) (l : BitVec 4) (k : BitVec 3) : Statement (.ld64V d a l k) :=
  of_place 0x1CD rfl (by
    repeat refine (above _ _ _ _).trans ?_
    rfl) ⟨rfl, rfl, rfl, rfl, .inl rfl, rfl, rfl⟩
theorem st32V (d : BitVec 7) (a : BitVec 7) (l : BitVec 4) (k : BitVec 3) : Statement (.st32V d a l k) :=
  of_place 0x1CE rfl (by
    repeat refine (above _ _ _ _).trans ?_
    rfl) ⟨rfl, rfl, rfl, rfl, .inl rfl, rfl, rfl⟩
theorem st64V (d : BitVec 7) (a : BitVec 7) (l : BitVec 4) (k : BitVec 3) : Statement (.st64V d a l k) :=
  of_place 0x1CF rfl (by
    repeat refine (above _ _ _ _).trans ?_
    rfl) ⟨rfl, rfl, rfl, rfl, .inl rfl, rfl, rfl⟩
theorem ld32Acq (d : BitVec 7) (a : BitVec 7) (l : BitVec 4) (k : BitVec 3) : Statement (.ld32Acq d a l k) :=
  of_place 0x1D0 rfl (by
    repeat refine (above _ _ _ _).trans ?_
    rfl) ⟨rfl, rfl, rfl, rfl, .inl rfl, rfl, rfl⟩
theorem ld64Acq (d : BitVec 7) (a : BitVec 7) (l : BitVec 4) (k : BitVec 3) : Statement (.ld64Acq d a l k) :=
  of_place 0x1D1 rfl (by
    repeat refine (above _ _ _ _).trans ?_
    rfl) ⟨rfl, rfl, rfl, rfl, .inl rfl, rfl, rfl⟩
theorem st32Rel (d : BitVec 7) (a : BitVec 7) (l : BitVec 4) (k : BitVec 3) : Statement (.st32Rel d a l k) :=
  of_place 0x1D2 rfl (by
    repeat refine (above _ _ _ _).trans ?_
    rfl) ⟨rfl, rfl, rfl, rfl, .inl rfl, rfl, rfl⟩
theorem st64Rel (d : BitVec 7) (a : BitVec 7) (l : BitVec 4) (k : BitVec 3) : Statement (.st64Rel d a l k) :=
  of_place 0x1D3 rfl (by
    repeat refine (above _ _ _ _).trans ?_
    rfl) ⟨rfl, rfl, rfl, rfl, .inl rfl, rfl, rfl⟩
theorem atAdd (d : BitVec 7) (a : BitVec 7) (l : BitVec 4) (k : BitVec 3) : Statement (.atAdd d a l k) :=
  of_place 0x1D4 rfl (by
    repeat refine (above _ _ _ _).trans ?_
    rfl) ⟨rfl, rfl, rfl, rfl, .inl rfl, rfl, rfl⟩
theorem atMinS (d : BitVec 7) (a : BitVec 7) (l : BitVec 4) (k : BitVec 3) : Statement (.atMinS d a l k) :=
  of_place 0x1D5 rfl (by
    repeat refine (above _ _ _ _).trans ?_
    rfl) ⟨rfl, rfl, rfl, rfl, .inl rfl, rfl, rfl⟩
theorem atMaxS (d : BitVec 7) (a : BitVec 7) (l : BitVec 4) (k : BitVec 3) : Statement (.atMaxS d a l k) :=
  of_place 0x1D6 rfl (by
    repeat refine (above _ _ _ _).trans ?_
    rfl) ⟨rfl, rfl, rfl, rfl, .inl rfl, rfl, rfl⟩
theorem atMinZ (d : BitVec 7) (a : BitVec 7) (l : BitVec 4) (k : BitVec 3) : Statement (.atMinZ d a l k) :=
  of_place 0x1D7 rfl (by
    repeat refine (above _ _ _ _).trans ?_
    rfl) ⟨rfl, rfl, rfl, rfl, .inl rfl, rfl, rfl⟩
theorem atMaxZ (d : BitVec 7) (a : BitVec 7) (l : BitVec 4) (k : BitVec 3) : Statement (.atMaxZ d a l k) :=
  of_place 0x1D8 rfl (by
    repeat refine (above _ _ _ _).trans ?_
    rfl) ⟨rfl, rfl, rfl, rfl, .inl rfl, rfl, rfl⟩
theorem atAnd (d : BitVec 7) (a : BitVec 7) (l : BitVec 4) (k : BitVec 3) : Statement (.atAnd d a l k) :=
  of_place 0x1D9 rfl (by
    repeat refine (above _ _ _ _).trans ?_
    rfl) ⟨rfl, rfl, rfl, rfl, .inl rfl, rfl, rfl⟩
theorem atOr (d : BitVec 7) (a : BitVec 7) (l : BitVec 4) (k : BitVec 3) : Statement (.atOr d a l k) :=
  of_place 0x1DA rfl (by
    repeat refine (above _ _ _ _).trans ?_
    rfl) ⟨rfl, rfl, rfl, rfl, .inl rfl, rfl, rfl⟩
theorem atXor (d : BitVec 7) (a : BitVec 7) (l : BitVec 4) (k : BitVec 3) : Statement (.atXor d a l k) :=
  of_place 0x1DB rfl (by
    repeat refine (above _ _ _ _).trans ?_
    rfl) ⟨rfl, rfl, rfl, rfl, .inl rfl, rfl, rfl⟩
theorem atXchg (d : BitVec 7) (a : BitVec 7) (l : BitVec 4) (k : BitVec 3) : Statement (.atXchg d a l k) :=
  of_place 0x1DC rfl (by
    repeat refine (above _ _ _ _).trans ?_
    rfl) ⟨rfl, rfl, rfl, rfl, .inl rfl, rfl, rfl⟩
theorem atCas (d : BitVec 7) (a : BitVec 7) (l : BitVec 4) (k : BitVec 3) : Statement (.atCas d a l k) :=
  of_place 0x1DD rfl (by
    repeat refine (above _ _ _ _).trans ?_
    rfl) ⟨rfl, rfl, rfl, rfl, .inl rfl, rfl, rfl⟩
theorem atIncw (d : BitVec 7) (a : BitVec 7) (l : BitVec 4) (k : BitVec 3) : Statement (.atIncw d a l k) :=
  of_place 0x1DE rfl (by
    repeat refine (above _ _ _ _).trans ?_
    rfl) ⟨rfl, rfl, rfl, rfl, .inl rfl, rfl, rfl⟩
theorem atAddD (d : BitVec 7) (a : BitVec 7) (l : BitVec 4) (k : BitVec 3) : Statement (.atAddD d a l k) :=
  of_place 0x1DF rfl (by
    repeat refine (above _ _ _ _).trans ?_
    rfl) ⟨rfl, rfl, rfl, rfl, .inl rfl, rfl, rfl⟩
theorem atXchgD (d : BitVec 7) (a : BitVec 7) (l : BitVec 4) (k : BitVec 3) : Statement (.atXchgD d a l k) :=
  of_place 0x1E0 rfl (by
    repeat refine (above _ _ _ _).trans ?_
    rfl) ⟨rfl, rfl, rfl, rfl, .inl rfl, rfl, rfl⟩
theorem atCasD (d : BitVec 7) (a : BitVec 7) (l : BitVec 4) (k : BitVec 3) : Statement (.atCasD d a l k) :=
  of_place 0x1E1 rfl (by
    repeat refine (above _ _ _ _).trans ?_
    rfl) ⟨rfl, rfl, rfl, rfl, .inl rfl, rfl, rfl⟩
theorem pref (a : BitVec 7) (l : BitVec 4) (k : BitVec 3) : Statement (.pref a l k) :=
  of_place 0x1E2 rfl (by
    repeat refine (above _ _ _ _).trans ?_
    rfl) ⟨rfl, rfl, rfl, rfl, .inl rfl, rfl, rfl⟩
theorem wbl (a : BitVec 7) (l : BitVec 4) (k : BitVec 3) : Statement (.wbl a l k) :=
  of_place 0x1E3 rfl (by
    repeat refine (above _ _ _ _).trans ?_
    rfl) ⟨rfl, rfl, rfl, rfl, .inl rfl, rfl, rfl⟩
theorem disc (a : BitVec 7) (l : BitVec 4) (k : BitVec 3) : Statement (.disc a l k) :=
  of_place 0x1E4 rfl (by
    repeat refine (above _ _ _ _).trans ?_
    rfl) ⟨rfl, rfl, rfl, rfl, .inl rfl, rfl, rfl⟩
theorem fence (n : BitVec 3) : Statement (.fence n) :=
  of_place 0x1E5 rfl (by
    repeat refine (above _ _ _ _).trans ?_
    rfl) ⟨rfl, rfl, rfl, rfl, .inl rfl, rfl, rfl⟩
theorem fenceAcq (n : BitVec 3) : Statement (.fenceAcq n) :=
  of_place 0x1E6 rfl (by
    repeat refine (above _ _ _ _).trans ?_
    rfl) ⟨rfl, rfl, rfl, rfl, .inl rfl, rfl, rfl⟩
theorem fenceRel (n : BitVec 3) : Statement (.fenceRel n) :=
  of_place 0x1E7 rfl (by
    repeat refine (above _ _ _ _).trans ?_
    rfl) ⟨rfl, rfl, rfl, rfl, .inl rfl, rfl, rfl⟩
theorem spawn (d : BitVec 7) (a : BitVec 7) (p : BitVec 4) : Statement (.spawn d a p) :=
  of_place 0x200 rfl (by
    repeat refine (above _ _ _ _).trans ?_
    rfl) ⟨rfl, rfl, rfl, rfl, .inl rfl, rfl, rfl⟩
theorem exit : Statement .exit :=
  of_place 0x201 rfl (rfl) ⟨rfl, rfl, rfl, rfl, .inl rfl, rfl, rfl⟩
theorem join (d : BitVec 7) (a : BitVec 7) : Statement (.join d a) :=
  of_place 0x202 rfl (by
    repeat refine (above _ _ _ _).trans ?_
    rfl) ⟨rfl, rfl, rfl, rfl, .inl rfl, rfl, rfl⟩
theorem leave : Statement .leave :=
  of_place 0x203 rfl (rfl) ⟨rfl, rfl, rfl, rfl, .inl rfl, rfl, rfl⟩
theorem bar : Statement .bar :=
  of_place 0x204 rfl (rfl) ⟨rfl, rfl, rfl, rfl, .inl rfl, rfl, rfl⟩
theorem bara (d : BitVec 7) : Statement (.bara d) :=
  of_place 0x205 rfl (by
    repeat refine (above _ _ _ _).trans ?_
    rfl) ⟨rfl, rfl, rfl, rfl, .inl rfl, rfl, rfl⟩
theorem barw (a : BitVec 7) : Statement (.barw a) :=
  of_place 0x206 rfl (by
    repeat refine (above _ _ _ _).trans ?_
    rfl) ⟨rfl, rfl, rfl, rfl, .inl rfl, rfl, rfl⟩
theorem hamp (d : BitVec 7) (a : BitVec 7) (p : BitVec 4) : Statement (.hamp d a p) :=
  of_place 0x207 rfl (by
    repeat refine (above _ _ _ _).trans ?_
    rfl) ⟨rfl, rfl, rfl, rfl, .inl rfl, rfl, rfl⟩
theorem lres (d : BitVec 7) (a : BitVec 7) (b : BitVec 7) : Statement (.lres d a b) :=
  of_place 0x280 rfl (by
    repeat refine (above _ _ _ _).trans ?_
    rfl) ⟨rfl, rfl, rfl, rfl, .inl rfl, rfl, rfl⟩
theorem lrel (a : BitVec 7) : Statement (.lrel a) :=
  of_place 0x281 rfl (by
    repeat refine (above _ _ _ _).trans ?_
    rfl) ⟨rfl, rfl, rfl, rfl, .inl rfl, rfl, rfl⟩
theorem lbind (a : BitVec 7) (b : BitVec 7) : Statement (.lbind a b) :=
  of_place 0x282 rfl (by
    repeat refine (above _ _ _ _).trans ?_
    rfl) ⟨rfl, rfl, rfl, rfl, .inl rfl, rfl, rfl⟩
theorem prset (n : BitVec 3) (a : BitVec 7) : Statement (.prset n a) :=
  of_place 0x283 rfl (by
    repeat refine (above _ _ _ _).trans ?_
    rfl) ⟨rfl, rfl, rfl, rfl, .inl rfl, rfl, rfl⟩
theorem prget (d : BitVec 7) (n : BitVec 3) : Statement (.prget d n) :=
  of_place 0x284 rfl (by
    repeat refine (above _ _ _ _).trans ?_
    rfl) ⟨rfl, rfl, rfl, rfl, .inl rfl, rfl, rfl⟩
theorem oprdy : Statement .oprdy :=
  of_place 0x285 rfl (rfl) ⟨rfl, rfl, rfl, rfl, .inl rfl, rfl, rfl⟩
theorem tzero (n : BitVec 3) : Statement (.tzero n) :=
  of_place 0x286 rfl (by
    repeat refine (above _ _ _ _).trans ?_
    rfl) ⟨rfl, rfl, rfl, rfl, .inl rfl, rfl, rfl⟩
theorem mma (d : BitVec 7) (t : BitVec 3) (x : BitVec 4) (y : BitVec 4) : Statement (.mma d t x y) :=
  of_place 0x287 rfl (by
    repeat refine (above _ _ _ _).trans ?_
    rfl) ⟨rfl, rfl, rfl, rfl, .inl rfl, rfl, rfl⟩
theorem mmap (d : BitVec 7) (t : BitVec 3) (x : BitVec 4) (y : BitVec 4) : Statement (.mmap d t x y) :=
  of_place 0x288 rfl (by
    repeat refine (above _ _ _ _).trans ?_
    rfl) ⟨rfl, rfl, rfl, rfl, .inl rfl, rfl, rfl⟩
theorem mwait (a : BitVec 7) : Statement (.mwait a) :=
  of_place 0x289 rfl (by
    repeat refine (above _ _ _ _).trans ?_
    rfl) ⟨rfl, rfl, rfl, rfl, .inl rfl, rfl, rfl⟩
theorem tst (d : BitVec 7) (t : BitVec 3) (f : BitVec 4) (b : BitVec 7) : Statement (.tst d t f b) :=
  of_place 0x28A rfl (by
    repeat refine (above _ _ _ _).trans ?_
    rfl) ⟨rfl, rfl, rfl, rfl, .inl rfl, rfl, rfl⟩
theorem tld (d : BitVec 7) (t : BitVec 3) (f : BitVec 4) (b : BitVec 7) : Statement (.tld d t f b) :=
  of_place 0x28B rfl (by
    repeat refine (above _ _ _ _).trans ?_
    rfl) ⟨rfl, rfl, rfl, rfl, .inl rfl, rfl, rfl⟩
theorem tnorm (n : BitVec 3) : Statement (.tnorm n) :=
  of_place 0x28C rfl (by
    repeat refine (above _ _ _ _).trans ?_
    rfl) ⟨rfl, rfl, rfl, rfl, .inl rfl, rfl, rfl⟩
theorem texp (d : BitVec 7) (t : BitVec 3) : Statement (.texp d t) :=
  of_place 0x28D rfl (by
    repeat refine (above _ _ _ _).trans ?_
    rfl) ⟨rfl, rfl, rfl, rfl, .inl rfl, rfl, rfl⟩
theorem tchk (d : BitVec 7) (t : BitVec 3) : Statement (.tchk d t) :=
  of_place 0x28E rfl (by
    repeat refine (above _ _ _ _).trans ?_
    rfl) ⟨rfl, rfl, rfl, rfl, .inl rfl, rfl, rfl⟩
theorem sadd (d : BitVec 6) (a : BitVec 6) (b : BitVec 6) : Statement (.sadd d a b) :=
  of_place 0x400 rfl (by
    repeat refine (above _ _ _ _).trans ?_
    rfl) ⟨rfl, rfl, rfl, rfl, .inl rfl, rfl, rfl⟩
theorem ssub (d : BitVec 6) (a : BitVec 6) (b : BitVec 6) : Statement (.ssub d a b) :=
  of_place 0x401 rfl (by
    repeat refine (above _ _ _ _).trans ?_
    rfl) ⟨rfl, rfl, rfl, rfl, .inl rfl, rfl, rfl⟩
theorem saddi (d : BitVec 6) (a : BitVec 6) (i : BitVec 9) : Statement (.saddi d a i) :=
  of_place 0x402 rfl (by
    repeat refine (above _ _ _ _).trans ?_
    rfl) ⟨rfl, rfl, rfl, rfl, .inl rfl, rfl, rfl⟩
theorem smul (d : BitVec 6) (a : BitVec 6) (b : BitVec 6) : Statement (.smul d a b) :=
  of_place 0x403 rfl (by
    repeat refine (above _ _ _ _).trans ?_
    rfl) ⟨rfl, rfl, rfl, rfl, .inl rfl, rfl, rfl⟩
theorem smulhS (d : BitVec 6) (a : BitVec 6) (b : BitVec 6) : Statement (.smulhS d a b) :=
  of_place 0x404 rfl (by
    repeat refine (above _ _ _ _).trans ?_
    rfl) ⟨rfl, rfl, rfl, rfl, .inl rfl, rfl, rfl⟩
theorem smulhZ (d : BitVec 6) (a : BitVec 6) (b : BitVec 6) : Statement (.smulhZ d a b) :=
  of_place 0x405 rfl (by
    repeat refine (above _ _ _ _).trans ?_
    rfl) ⟨rfl, rfl, rfl, rfl, .inl rfl, rfl, rfl⟩
theorem sminS (d : BitVec 6) (a : BitVec 6) (b : BitVec 6) : Statement (.sminS d a b) :=
  of_place 0x406 rfl (by
    repeat refine (above _ _ _ _).trans ?_
    rfl) ⟨rfl, rfl, rfl, rfl, .inl rfl, rfl, rfl⟩
theorem smaxS (d : BitVec 6) (a : BitVec 6) (b : BitVec 6) : Statement (.smaxS d a b) :=
  of_place 0x407 rfl (by
    repeat refine (above _ _ _ _).trans ?_
    rfl) ⟨rfl, rfl, rfl, rfl, .inl rfl, rfl, rfl⟩
theorem sminZ (d : BitVec 6) (a : BitVec 6) (b : BitVec 6) : Statement (.sminZ d a b) :=
  of_place 0x408 rfl (by
    repeat refine (above _ _ _ _).trans ?_
    rfl) ⟨rfl, rfl, rfl, rfl, .inl rfl, rfl, rfl⟩
theorem smaxZ (d : BitVec 6) (a : BitVec 6) (b : BitVec 6) : Statement (.smaxZ d a b) :=
  of_place 0x409 rfl (by
    repeat refine (above _ _ _ _).trans ?_
    rfl) ⟨rfl, rfl, rfl, rfl, .inl rfl, rfl, rfl⟩
theorem sand (d : BitVec 6) (a : BitVec 6) (b : BitVec 6) : Statement (.sand d a b) :=
  of_place 0x40A rfl (by
    repeat refine (above _ _ _ _).trans ?_
    rfl) ⟨rfl, rfl, rfl, rfl, .inl rfl, rfl, rfl⟩
theorem sor (d : BitVec 6) (a : BitVec 6) (b : BitVec 6) : Statement (.sor d a b) :=
  of_place 0x40B rfl (by
    repeat refine (above _ _ _ _).trans ?_
    rfl) ⟨rfl, rfl, rfl, rfl, .inl rfl, rfl, rfl⟩
theorem sxor (d : BitVec 6) (a : BitVec 6) (b : BitVec 6) : Statement (.sxor d a b) :=
  of_place 0x40C rfl (by
    repeat refine (above _ _ _ _).trans ?_
    rfl) ⟨rfl, rfl, rfl, rfl, .inl rfl, rfl, rfl⟩
theorem sandn (d : BitVec 6) (a : BitVec 6) (b : BitVec 6) : Statement (.sandn d a b) :=
  of_place 0x40D rfl (by
    repeat refine (above _ _ _ _).trans ?_
    rfl) ⟨rfl, rfl, rfl, rfl, .inl rfl, rfl, rfl⟩
theorem sandi (d : BitVec 6) (a : BitVec 6) (i : BitVec 9) : Statement (.sandi d a i) :=
  of_place 0x40E rfl (by
    repeat refine (above _ _ _ _).trans ?_
    rfl) ⟨rfl, rfl, rfl, rfl, .inl rfl, rfl, rfl⟩
theorem sori (d : BitVec 6) (a : BitVec 6) (i : BitVec 9) : Statement (.sori d a i) :=
  of_place 0x40F rfl (by
    repeat refine (above _ _ _ _).trans ?_
    rfl) ⟨rfl, rfl, rfl, rfl, .inl rfl, rfl, rfl⟩
theorem sxori (d : BitVec 6) (a : BitVec 6) (i : BitVec 9) : Statement (.sxori d a i) :=
  of_place 0x410 rfl (by
    repeat refine (above _ _ _ _).trans ?_
    rfl) ⟨rfl, rfl, rfl, rfl, .inl rfl, rfl, rfl⟩
theorem sshl (d : BitVec 6) (a : BitVec 6) (b : BitVec 6) : Statement (.sshl d a b) :=
  of_place 0x411 rfl (by
    repeat refine (above _ _ _ _).trans ?_
    rfl) ⟨rfl, rfl, rfl, rfl, .inl rfl, rfl, rfl⟩
theorem sshr (d : BitVec 6) (a : BitVec 6) (b : BitVec 6) : Statement (.sshr d a b) :=
  of_place 0x412 rfl (by
    repeat refine (above _ _ _ _).trans ?_
    rfl) ⟨rfl, rfl, rfl, rfl, .inl rfl, rfl, rfl⟩
theorem ssar (d : BitVec 6) (a : BitVec 6) (b : BitVec 6) : Statement (.ssar d a b) :=
  of_place 0x413 rfl (by
    repeat refine (above _ _ _ _).trans ?_
    rfl) ⟨rfl, rfl, rfl, rfl, .inl rfl, rfl, rfl⟩
theorem sshli (d : BitVec 6) (a : BitVec 6) (n : BitVec 5) : Statement (.sshli d a n) :=
  of_place 0x414 rfl (by
    repeat refine (above _ _ _ _).trans ?_
    rfl) ⟨rfl, rfl, rfl, rfl, .inl rfl, rfl, rfl⟩
theorem sshri (d : BitVec 6) (a : BitVec 6) (n : BitVec 5) : Statement (.sshri d a n) :=
  of_place 0x415 rfl (by
    repeat refine (above _ _ _ _).trans ?_
    rfl) ⟨rfl, rfl, rfl, rfl, .inl rfl, rfl, rfl⟩
theorem ssari (d : BitVec 6) (a : BitVec 6) (n : BitVec 5) : Statement (.ssari d a n) :=
  of_place 0x416 rfl (by
    repeat refine (above _ _ _ _).trans ?_
    rfl) ⟨rfl, rfl, rfl, rfl, .inl rfl, rfl, rfl⟩
theorem spopc (d : BitVec 6) (a : BitVec 6) : Statement (.spopc d a) :=
  of_place 0x417 rfl (by
    repeat refine (above _ _ _ _).trans ?_
    rfl) ⟨rfl, rfl, rfl, rfl, .inl rfl, rfl, rfl⟩
theorem sclz (d : BitVec 6) (a : BitVec 6) : Statement (.sclz d a) :=
  of_place 0x418 rfl (by
    repeat refine (above _ _ _ _).trans ?_
    rfl) ⟨rfl, rfl, rfl, rfl, .inl rfl, rfl, rfl⟩
theorem sffs (d : BitVec 6) (a : BitVec 6) : Statement (.sffs d a) :=
  of_place 0x419 rfl (by
    repeat refine (above _ _ _ _).trans ?_
    rfl) ⟨rfl, rfl, rfl, rfl, .inl rfl, rfl, rfl⟩
theorem sbrev (d : BitVec 6) (a : BitVec 6) : Statement (.sbrev d a) :=
  of_place 0x41A rfl (by
    repeat refine (above _ _ _ _).trans ?_
    rfl) ⟨rfl, rfl, rfl, rfl, .inl rfl, rfl, rfl⟩
theorem sbfxZ (d : BitVec 6) (a : BitVec 6) (b : BitVec 6) : Statement (.sbfxZ d a b) :=
  of_place 0x41B rfl (by
    repeat refine (above _ _ _ _).trans ?_
    rfl) ⟨rfl, rfl, rfl, rfl, .inl rfl, rfl, rfl⟩
theorem sbfi (d : BitVec 6) (a : BitVec 6) (b : BitVec 6) : Statement (.sbfi d a b) :=
  of_place 0x41C rfl (by
    repeat refine (above _ _ _ _).trans ?_
    rfl) ⟨rfl, rfl, rfl, rfl, .inl rfl, rfl, rfl⟩
theorem saddD (d : BitVec 6) (a : BitVec 6) (b : BitVec 6) : Statement (.saddD d a b) :=
  of_place 0x41D rfl (by
    repeat refine (above _ _ _ _).trans ?_
    rfl) ⟨rfl, rfl, rfl, rfl, .inl rfl, rfl, rfl⟩
theorem ssubD (d : BitVec 6) (a : BitVec 6) (b : BitVec 6) : Statement (.ssubD d a b) :=
  of_place 0x41E rfl (by
    repeat refine (above _ _ _ _).trans ?_
    rfl) ⟨rfl, rfl, rfl, rfl, .inl rfl, rfl, rfl⟩
theorem scmpEq (d : BitVec 6) (a : BitVec 6) (b : BitVec 6) : Statement (.scmpEq d a b) :=
  of_place 0x41F rfl (by
    repeat refine (above _ _ _ _).trans ?_
    rfl) ⟨rfl, rfl, rfl, rfl, .inl rfl, rfl, rfl⟩
theorem scmpNe (d : BitVec 6) (a : BitVec 6) (b : BitVec 6) : Statement (.scmpNe d a b) :=
  of_place 0x420 rfl (by
    repeat refine (above _ _ _ _).trans ?_
    rfl) ⟨rfl, rfl, rfl, rfl, .inl rfl, rfl, rfl⟩
theorem scmpLtS (d : BitVec 6) (a : BitVec 6) (b : BitVec 6) : Statement (.scmpLtS d a b) :=
  of_place 0x421 rfl (by
    repeat refine (above _ _ _ _).trans ?_
    rfl) ⟨rfl, rfl, rfl, rfl, .inl rfl, rfl, rfl⟩
theorem scmpLeS (d : BitVec 6) (a : BitVec 6) (b : BitVec 6) : Statement (.scmpLeS d a b) :=
  of_place 0x422 rfl (by
    repeat refine (above _ _ _ _).trans ?_
    rfl) ⟨rfl, rfl, rfl, rfl, .inl rfl, rfl, rfl⟩
theorem scmpLtZ (d : BitVec 6) (a : BitVec 6) (b : BitVec 6) : Statement (.scmpLtZ d a b) :=
  of_place 0x423 rfl (by
    repeat refine (above _ _ _ _).trans ?_
    rfl) ⟨rfl, rfl, rfl, rfl, .inl rfl, rfl, rfl⟩
theorem scmpLeZ (d : BitVec 6) (a : BitVec 6) (b : BitVec 6) : Statement (.scmpLeZ d a b) :=
  of_place 0x424 rfl (by
    repeat refine (above _ _ _ _).trans ?_
    rfl) ⟨rfl, rfl, rfl, rfl, .inl rfl, rfl, rfl⟩
theorem ssel (d : BitVec 6) (a : BitVec 6) (b : BitVec 6) (f : BitVec 3) : Statement (.ssel d a b f) :=
  of_place 0x425 rfl (by
    repeat refine (above _ _ _ _).trans ?_
    rfl) ⟨rfl, rfl, rfl, rfl, .inl rfl, rfl, rfl⟩
theorem sdivZ (d : BitVec 6) (a : BitVec 6) (b : BitVec 6) : Statement (.sdivZ d a b) :=
  of_place 0x426 rfl (by
    repeat refine (above _ _ _ _).trans ?_
    rfl) ⟨rfl, rfl, rfl, rfl, .inl rfl, rfl, rfl⟩
theorem sremZ (d : BitVec 6) (a : BitVec 6) (b : BitVec 6) : Statement (.sremZ d a b) :=
  of_place 0x427 rfl (by
    repeat refine (above _ _ _ _).trans ?_
    rfl) ⟨rfl, rfl, rfl, rfl, .inl rfl, rfl, rfl⟩
theorem smov (d : BitVec 6) (a : BitVec 6) : Statement (.smov d a) :=
  of_place 0x480 rfl (by
    repeat refine (above _ _ _ _).trans ?_
    rfl) ⟨rfl, rfl, rfl, rfl, .inl rfl, rfl, rfl⟩
theorem smovi (d : BitVec 6) (i : BitVec 15) : Statement (.smovi d i) :=
  of_place 0x481 rfl (by
    repeat refine (above _ _ _ _).trans ?_
    rfl) ⟨rfl, rfl, rfl, rfl, .inl rfl, rfl, rfl⟩
theorem smovh (d : BitVec 6) (i : BitVec 15) : Statement (.smovh d i) :=
  of_place 0x482 rfl (by
    repeat refine (above _ _ _ _).trans ?_
    rfl) ⟨rfl, rfl, rfl, rfl, .inl rfl, rfl, rfl⟩
theorem srds (d : BitVec 6) (n : BitVec 15) : Statement (.srds d n) :=
  of_place 0x483 rfl (by
    repeat refine (above _ _ _ _).trans ?_
    rfl) ⟨rfl, rfl, rfl, rfl, .inl rfl, rfl, rfl⟩
theorem swrs (d : BitVec 6) (n : BitVec 15) : Statement (.swrs d n) :=
  of_place 0x484 rfl (by
    repeat refine (above _ _ _ _).trans ?_
    rfl) ⟨rfl, rfl, rfl, rfl, .inr rfl, rfl, rfl⟩
theorem sgetl (d : BitVec 6) (l : BitVec 5) (k : BitVec 7) : Statement (.sgetl d l k) :=
  of_place 0x485 rfl (by
    repeat refine (above _ _ _ _).trans ?_
    rfl) ⟨rfl, rfl, rfl, rfl, .inl rfl, rfl, rfl⟩
theorem bra (o : BitVec 21) : Statement (.bra o) :=
  of_place 0x4C0 rfl (by
    repeat refine (above _ _ _ _).trans ?_
    rfl) ⟨rfl, rfl, rfl, rfl, .inl rfl, rfl, rfl⟩
theorem bz (a : BitVec 6) (o : BitVec 15) : Statement (.bz a o) :=
  of_place 0x4C1 rfl (by
    repeat refine (above _ _ _ _).trans ?_
    rfl) ⟨rfl, rfl, rfl, rfl, .inl rfl, rfl, rfl⟩
theorem bnz (a : BitVec 6) (o : BitVec 15) : Statement (.bnz a o) :=
  of_place 0x4C2 rfl (by
    repeat refine (above _ _ _ _).trans ?_
    rfl) ⟨rfl, rfl, rfl, rfl, .inl rfl, rfl, rfl⟩
theorem bneg (a : BitVec 6) (o : BitVec 15) : Statement (.bneg a o) :=
  of_place 0x4C3 rfl (by
    repeat refine (above _ _ _ _).trans ?_
    rfl) ⟨rfl, rfl, rfl, rfl, .inl rfl, rfl, rfl⟩
theorem call (o : BitVec 21) : Statement (.call o) :=
  of_place 0x4C4 rfl (by
    repeat refine (above _ _ _ _).trans ?_
    rfl) ⟨rfl, rfl, rfl, rfl, .inl rfl, rfl, rfl⟩
theorem calls (a : BitVec 6) : Statement (.calls a) :=
  of_place 0x4C5 rfl (by
    repeat refine (above _ _ _ _).trans ?_
    rfl) ⟨rfl, rfl, rfl, rfl, .inl rfl, rfl, rfl⟩
theorem rets : Statement .rets :=
  of_place 0x4C6 rfl (rfl) ⟨rfl, rfl, rfl, rfl, .inl rfl, rfl, rfl⟩
theorem rcv : Statement .rcv :=
  of_place 0x4C7 rfl (rfl) ⟨rfl, rfl, rfl, rfl, .inl rfl, rfl, rfl⟩
theorem land : Statement .land :=
  of_place 0x4C8 rfl (rfl) ⟨rfl, rfl, rfl, rfl, .inl rfl, rfl, rfl⟩
theorem nop : Statement .nop :=
  of_place 0x4C9 rfl (rfl) ⟨rfl, rfl, rfl, rfl, .inl rfl, rfl, rfl⟩
theorem sld32 (d : BitVec 6) (a : BitVec 6) (l : BitVec 4) (i : BitVec 5) : Statement (.sld32 d a l i) :=
  of_place 0x500 rfl (by
    repeat refine (above _ _ _ _).trans ?_
    rfl) ⟨rfl, rfl, rfl, rfl, .inl rfl, rfl, rfl⟩
theorem sld64 (d : BitVec 6) (a : BitVec 6) (l : BitVec 4) (i : BitVec 5) : Statement (.sld64 d a l i) :=
  of_place 0x501 rfl (by
    repeat refine (above _ _ _ _).trans ?_
    rfl) ⟨rfl, rfl, rfl, rfl, .inl rfl, rfl, rfl⟩
theorem sst32 (d : BitVec 6) (a : BitVec 6) (l : BitVec 4) (i : BitVec 5) : Statement (.sst32 d a l i) :=
  of_place 0x502 rfl (by
    repeat refine (above _ _ _ _).trans ?_
    rfl) ⟨rfl, rfl, rfl, rfl, .inl rfl, rfl, rfl⟩
theorem sst64 (d : BitVec 6) (a : BitVec 6) (l : BitVec 4) (i : BitVec 5) : Statement (.sst64 d a l i) :=
  of_place 0x503 rfl (by
    repeat refine (above _ _ _ _).trans ?_
    rfl) ⟨rfl, rfl, rfl, rfl, .inl rfl, rfl, rfl⟩
theorem sld32V (d : BitVec 6) (a : BitVec 6) (l : BitVec 4) (i : BitVec 5) : Statement (.sld32V d a l i) :=
  of_place 0x504 rfl (by
    repeat refine (above _ _ _ _).trans ?_
    rfl) ⟨rfl, rfl, rfl, rfl, .inl rfl, rfl, rfl⟩
theorem sst32V (d : BitVec 6) (a : BitVec 6) (l : BitVec 4) (i : BitVec 5) : Statement (.sst32V d a l i) :=
  of_place 0x505 rfl (by
    repeat refine (above _ _ _ _).trans ?_
    rfl) ⟨rfl, rfl, rfl, rfl, .inl rfl, rfl, rfl⟩
theorem satAdd (d : BitVec 6) (a : BitVec 6) (l : BitVec 4) (i : BitVec 5) : Statement (.satAdd d a l i) :=
  of_place 0x506 rfl (by
    repeat refine (above _ _ _ _).trans ?_
    rfl) ⟨rfl, rfl, rfl, rfl, .inl rfl, rfl, rfl⟩
theorem satCas (d : BitVec 6) (a : BitVec 6) (l : BitVec 4) (i : BitVec 5) : Statement (.satCas d a l i) :=
  of_place 0x507 rfl (by
    repeat refine (above _ _ _ _).trans ?_
    rfl) ⟨rfl, rfl, rfl, rfl, .inl rfl, rfl, rfl⟩
theorem sfence (n : BitVec 3) : Statement (.sfence n) :=
  of_place 0x508 rfl (by
    repeat refine (above _ _ _ _).trans ?_
    rfl) ⟨rfl, rfl, rfl, rfl, .inl rfl, rfl, rfl⟩
theorem cpk (a : BitVec 6) (b : BitVec 6) : Statement (.cpk a b) :=
  of_place 0x540 rfl (by
    repeat refine (above _ _ _ _).trans ?_
    rfl) ⟨rfl, rfl, rfl, rfl, .inl rfl, rfl, rfl⟩
theorem cpq (d : BitVec 6) : Statement (.cpq d) :=
  of_place 0x541 rfl (by
    repeat refine (above _ _ _ _).trans ?_
    rfl) ⟨rfl, rfl, rfl, rfl, .inl rfl, rfl, rfl⟩
theorem pdrain : Statement .pdrain :=
  of_place 0x542 rfl (rfl) ⟨rfl, rfl, rfl, rfl, .inl rfl, rfl, rfl⟩
theorem yield : Statement .yield :=
  of_place 0x560 rfl (rfl) ⟨rfl, rfl, rfl, rfl, .inl rfl, rfl, rfl⟩
theorem donate (a : BitVec 6) : Statement (.donate a) :=
  of_place 0x561 rfl (by
    repeat refine (above _ _ _ _).trans ?_
    rfl) ⟨rfl, rfl, rfl, rfl, .inl rfl, rfl, rfl⟩
theorem budget (d : BitVec 6) : Statement (.budget d) :=
  of_place 0x562 rfl (by
    repeat refine (above _ _ _ _).trans ?_
    rfl) ⟨rfl, rfl, rfl, rfl, .inl rfl, rfl, rfl⟩
theorem nap (a : BitVec 6) : Statement (.nap a) :=
  of_place 0x563 rfl (by
    repeat refine (above _ _ _ _).trans ?_
    rfl) ⟨rfl, rfl, rfl, rfl, .inl rfl, rfl, rfl⟩
theorem trap (n : BitVec 6) : Statement (.trap n) :=
  of_place 0x580 rfl (by
    repeat refine (above _ _ _ _).trans ?_
    rfl) ⟨rfl, rfl, rfl, rfl, .inl rfl, rfl, rfl⟩
theorem bkpt : Statement .bkpt :=
  of_place 0x581 rfl (rfl) ⟨rfl, rfl, rfl, rfl, .inl rfl, rfl, rfl⟩
theorem svc (n : BitVec 15) : Statement (.svc n) :=
  of_place 0x582 rfl (by
    repeat refine (above _ _ _ _).trans ?_
    rfl) ⟨rfl, rfl, rfl, rfl, .inl rfl, rfl, rfl⟩
theorem eret : Statement .eret :=
  of_place 0x583 rfl (rfl) ⟨rfl, rfl, rfl, rfl, .inl rfl, rfl, rfl⟩
theorem launch (d : BitVec 6) (a : BitVec 6) : Statement (.launch d a) :=
  of_place 0x5A0 rfl (by
    repeat refine (above _ _ _ _).trans ?_
    rfl) ⟨rfl, rfl, rfl, rfl, .inl rfl, rfl, rfl⟩
theorem lwait (a : BitVec 6) : Statement (.lwait a) :=
  of_place 0x5A1 rfl (by
    repeat refine (above _ _ _ _).trans ?_
    rfl) ⟨rfl, rfl, rfl, rfl, .inl rfl, rfl, rfl⟩
theorem probe (d : BitVec 6) (a : BitVec 6) (l : BitVec 4) : Statement (.probe d a l) :=
  of_place 0x5B0 rfl (by
    repeat refine (above _ _ _ _).trans ?_
    rfl) ⟨rfl, rfl, rfl, rfl, .inl rfl, rfl, rfl⟩
theorem pgtake (d : BitVec 6) (a : BitVec 6) : Statement (.pgtake d a) :=
  of_place 0x5B1 rfl (by
    repeat refine (above _ _ _ _).trans ?_
    rfl) ⟨rfl, rfl, rfl, rfl, .inl rfl, rfl, rfl⟩
theorem maprq (d : BitVec 6) (a : BitVec 6) (b : BitVec 6) : Statement (.maprq d a b) :=
  of_place 0x5B2 rfl (by
    repeat refine (above _ _ _ _).trans ?_
    rfl) ⟨rfl, rfl, rfl, rfl, .inl rfl, rfl, rfl⟩
theorem trace (d : BitVec 6) (t : BitVec 15) : Statement (.trace d t) :=
  of_place 0x5C0 rfl (by
    repeat refine (above _ _ _ _).trans ?_
    rfl) ⟨rfl, rfl, rfl, rfl, .inl rfl, rfl, rfl⟩
theorem trailer (s : BitVec 1) (f : BitVec 1) (a : BitVec 7) (b : BitVec 7) : Statement (.trailer s f a b) :=
  of_place 0x7FF rfl (by
    repeat refine (above _ _ _ _).trans ?_
    rfl) ⟨rfl, rfl, rfl, rfl, .inl rfl, rfl, rfl⟩

end Sys2Proof.Laws.Entry
end

