-- ==== Sys2Proof/Laws/Writes.lean ====
section
/-! SUPPORT. The register writes in the terms of the statements: which words of the register file they set, and what is defined after them. -/
namespace Sys2Proof.Machine

/-- What a change of view writes, as `Holds` says it of a state. -/
structure Effects (V : View) (x : Writes) (W : View) : Prop where
  values : ∀ c ∈ V.cells x, Sparse.get 0#32 W.q.rf c.1 = c.2
  others : ∀ j, (∀ c ∈ V.cells x, c.1 ≠ j) → Sparse.get 0#32 W.q.rf j = Sparse.get 0#32 V.q.rf j
  rows : ∀ e ∈ x.rows, e.1 < 120 → Sparse.get 0#32 W.w.undef e.1 = V.undefAfter e.1
  temps : ∀ e ∈ x.rows, 120 ≤ e.1 → e.1 < 128 → Sparse.get 0#32 W.r.tdef (e.1 - 120) = Sparse.get 0#32 V.r.tdef (e.1 - 120) ||| V.em
  unis : ∀ e ∈ x.unis, e.1 < 56 → Sparse.get 0#32 W.w.undef (128 + e.1) = if V.inWindow true e.1 then 1#32 else 0#32
  utemps : ∀ e ∈ x.unis, 56 ≤ e.1 → e.1 < 64 → W.r.wdef.getLsbD (e.1 - 56) = true
  sameRows : ∀ k, k < 120 → (∀ e ∈ x.rows, e.1 ≠ k) → Sparse.get 0#32 W.w.undef k = Sparse.get 0#32 V.w.undef k
  sameTemps : ∀ k, 120 ≤ k → k < 128 → (∀ e ∈ x.rows, e.1 ≠ k) → Sparse.get 0#32 W.r.tdef (k - 120) = Sparse.get 0#32 V.r.tdef (k - 120)
  sameUnis : ∀ k, k < 56 → (∀ e ∈ x.unis, e.1 ≠ k) → Sparse.get 0#32 W.w.undef (128 + k) = Sparse.get 0#32 V.w.undef (128 + k)
  sameUtemps : ∀ k, 56 ≤ k → k < 64 → (∀ e ∈ x.unis, e.1 ≠ k) → W.r.wdef.getLsbD (k - 56) = V.r.wdef.getLsbD (k - 56)
  ranges : W.w.tstRanges = V.touched x

theorem Effects.holds {V W : View} {x : Writes} {t : State} {w : Warp} {r : OpenRun} (h : Effects V x W) (hf : (V.quadIn t).rf = W.q.rf)
    (hu : w.undef = W.w.undef) (hr : w.tstRanges = W.w.tstRanges) (ht : r.tdef = W.r.tdef) (hd : r.wdef = W.r.wdef) : Holds V x t w r := by
  obtain ⟨a, b, c, d, e, f, g, i, j, k, l⟩ := h
  constructor <;> simpa only [View.rfIn, hf, hu, hr, ht, hd]

/-- Nothing written. -/
theorem Effects.none (V : View) : Effects V ⟨[], []⟩ V := by
  constructor <;> simp [View.cells, View.touched]

theorem Effects.row (V : View) (k : Nat) (f : Nat → Word) : Effects V ⟨[(k, f)], []⟩ (V.writeLane k f) where
  values := by
    intro c hc
    obtain ⟨l, hl, rfl⟩ : ∃ l ∈ lanesOf V.em, (V.lidx k l, f l) = c := by simpa [View.cells] using hc
    exact get_writeRow_here (V.lidx_inj k) _ _ _ hl
  others := by
    intro j hj
    exact get_writeRow_other (V.lidx_inj k) _ _ _ fun l hl => hj (V.lidx k l, f l) (by simpa [View.cells] using ⟨l, hl, rfl, rfl⟩)
  rows := by
    intro e he h
    obtain rfl : e = (k, f) := by simpa using he
    simp [View.writeLane, View.noteLane, show k < 120 from h, View.undefAfter]
  temps := by
    intro e he h _
    obtain rfl : e = (k, f) := by simpa using he
    simp [View.writeLane, View.noteLane, show ¬ k < 120 by simpa using h]
  unis := by simp
  utemps := by simp
  sameRows := by
    intro j hj h
    have h : k ≠ j := h (k, f) (by simp)
    unfold View.writeLane View.noteLane
    split <;> simp [Ne.symm h]
  sameTemps := by
    intro j hj hj' h
    have h : k ≠ j := h (k, f) (by simp)
    unfold View.writeLane View.noteLane
    split
    · rfl
    · simp only [Sparse.get_set]
      rw [if_neg (by omega)]
  sameUnis := by
    intro j hj h
    unfold View.writeLane View.noteLane
    split
    · simp only [Sparse.get_set]
      rw [if_neg (by omega)]
    · rfl
  sameUtemps := by
    intro j hj hj' h
    unfold View.writeLane View.noteLane
    split <;> rfl
  ranges := by
    simp only [View.writeLane, View.noteLane, View.touched, List.foldl_cons, List.foldl_nil]
    split <;> rfl

theorem getLsbD_or_bit (x : BitVec 8) (a b : Nat) (ha : a < 8) (hb : b < 8) : (x ||| 1#8 <<< a).getLsbD b = (x.getLsbD b || decide (a = b)) := by
  simp only [BitVec.getLsbD_or, BitVec.getLsbD_shiftLeft, BitVec.getLsbD_one]
  congr 1
  by_cases h : a = b
  · subst h; simp [ha]
  · simp only [h, decide_false, Bool.and_eq_false_iff]
    by_cases h2 : b < a
    · simp [h2]
    · simp; omega

theorem Effects.uni (V : View) (k : Nat) (x : Word) (hk : k < 64) : Effects V ⟨[], [(k, x)]⟩ (V.writeUni k x) where
  values := by simp [View.cells, View.writeUni]
  others := by
    intro j hj
    have : V.uidx k ≠ j := hj (V.uidx k, x) (by simp [View.cells])
    simp [View.writeUni, Ne.symm this]
  rows := by simp
  temps := by simp
  unis := by
    intro e he h
    obtain rfl : e = (k, x) := by simpa using he
    simp [View.writeUni, View.noteUni, show k < 56 from h]
  utemps := by
    intro e he h h'
    obtain rfl : e = (k, x) := by simpa using he
    simp only at h h'
    simp only [View.writeUni, View.noteUni, show ¬ k < 56 by omega, if_false]
    rw [getLsbD_or_bit _ _ _ (by omega) (by omega)]; simp
  sameRows := by
    intro j hj h
    unfold View.writeUni View.noteUni
    split
    · simp only [Sparse.get_set]; rw [if_neg (by omega)]
    · rfl
  sameTemps := by
    intro j hj hj' h
    unfold View.writeUni View.noteUni
    split <;> rfl
  sameUnis := by
    intro j hj h
    have h : k ≠ j := h (k, x) (by simp)
    unfold View.writeUni View.noteUni
    split
    · simp only [Sparse.get_set]; rw [if_neg (by omega)]
    · rfl
  sameUtemps := by
    intro j hj hj' h
    have h : k ≠ j := h (k, x) (by simp)
    unfold View.writeUni View.noteUni
    split
    · rfl
    · simp only; rw [getLsbD_or_bit _ _ _ (by omega) (by omega), decide_eq_false (by omega), Bool.or_false]
  ranges := by
    unfold View.writeUni View.noteUni
    split <;> rfl

/-- A note of a write leaves what a TST writes as it is. -/
theorem tstWrites_touched (V : View) (x : Writes) (k : Nat) : Warp.tstWrites { V.w with tstRanges := V.touched x } k = V.w.tstWrites k := by
  have touch (k' : Nat) (t : TstRange) : (!(t.touch k' V.em).load && (t.touch k' V.em).holds k) = (!t.load && t.holds k) := by
    unfold TstRange.touch; split <;> rfl
  suffices h : ∀ (es : List (Nat × (Nat → Word))) (ts : List TstRange),
      ((es.foldl (fun ts e => if e.1 < 120 then ts.map fun t => t.touch e.1 V.em else ts) ts).any fun t => !t.load && t.holds k) =
        ts.any fun t => !t.load && t.holds k from h x.rows V.w.tstRanges
  intro es
  induction es with
  | nil => exact fun _ => rfl
  | cons e es ih =>
    intro ts
    rw [List.foldl_cons, ih]
    split
    · rw [List.any_map]; congr 1; funext t; exact touch e.1 t
    · rfl

/-! ### Two registers -/

theorem RegsOnly.same {V W : View} (h : RegsOnly V W) :
    W.em = V.em ∧ (∀ k l, W.lidx k l = V.lidx k l) ∧ (∀ k, W.uidx k = V.uidx k) ∧ (∀ b k, W.inWindow b k = V.inWindow b k) ∧
      ∀ k, W.pendLanes k = V.pendLanes k := by
  obtain ⟨h⟩ := h
  rw [h]
  exact ⟨rfl, fun _ _ => rfl, fun _ => rfl, fun _ _ => rfl, fun _ => rfl⟩

theorem RegsOnly.cells {V W : View} (h : RegsOnly V W) (x : Writes) : W.cells x = V.cells x := by
  obtain ⟨h1, h2, h3, -, -⟩ := h.same
  simp only [View.cells, h1, h2, h3]

/-- Two writes to different registers, whose words in the file are different, do both. -/
theorem Effects.andThen {V W X : View} {a b : Writes} (h : Effects V a W) (hr : RegsOnly V W) (k : Effects W b X)
    (hc : ∀ c ∈ V.cells a, ∀ e ∈ V.cells b, c.1 ≠ e.1) (hrow : ∀ c ∈ a.rows, ∀ e ∈ b.rows, c.1 ≠ e.1) (huni : ∀ c ∈ a.unis, ∀ e ∈ b.unis, c.1 ≠ e.1) :
    Effects V ⟨a.rows ++ b.rows, a.unis ++ b.unis⟩ X := by
  have hcell : ∀ c, c ∈ V.cells ⟨a.rows ++ b.rows, a.unis ++ b.unis⟩ ↔ c ∈ V.cells a ∨ c ∈ V.cells b := by
    intro c
    simp only [View.cells, List.flatMap_append, List.map_append, List.mem_append]
    tauto
  have hb : ∀ c, c ∈ W.cells b ↔ c ∈ V.cells b := fun c => by rw [hr.cells b]
  obtain ⟨e1, -, -, e4, e5⟩ := hr.same
  constructor
  · intro c hc'
    rcases (hcell c).mp hc' with h1 | h1
    · rw [k.others c.1 fun e he => (hc c h1 e ((hb e).mp he)).symm]; exact h.values c h1
    · exact k.values c ((hb c).mpr h1)
  · intro j hj
    rw [k.others j fun c h1 => hj c ((hcell c).mpr (.inr ((hb c).mp h1))), h.others j fun c h1 => hj c ((hcell c).mpr (.inl h1))]
  · intro e he hlt
    rcases List.mem_append.mp he with h1 | h1
    · rw [k.sameRows _ hlt fun f hf => (hrow e h1 f hf).symm]; exact h.rows e h1 hlt
    · rw [k.rows e h1 hlt]
      have e6 : W.w.tstWrites e.1 = V.w.tstWrites e.1 := by
        rw [← tstWrites_touched V a, ← h.ranges]; rfl
      unfold View.undefAfter
      rw [e4, e5, e6, e1, h.sameRows _ hlt fun f hf => hrow f hf e h1]
  · intro e he hlt hlt'
    rcases List.mem_append.mp he with h1 | h1
    · rw [k.sameTemps _ hlt hlt' fun f hf => (hrow e h1 f hf).symm]; exact h.temps e h1 hlt hlt'
    · rw [k.temps e h1 hlt hlt', h.sameTemps _ hlt hlt' fun f hf => hrow f hf e h1, e1]
  · intro e he hlt
    rcases List.mem_append.mp he with h1 | h1
    · rw [k.sameUnis _ hlt fun f hf => (huni e h1 f hf).symm]; exact h.unis e h1 hlt
    · rw [k.unis e h1 hlt, e4]
  · intro e he hlt hlt'
    rcases List.mem_append.mp he with h1 | h1
    · rw [k.sameUtemps _ hlt hlt' fun f hf => (huni e h1 f hf).symm]; exact h.utemps e h1 hlt hlt'
    · exact k.utemps e h1 hlt hlt'
  · intro j hj hne
    rw [k.sameRows j hj fun e he => hne e (List.mem_append_right _ he), h.sameRows j hj fun e he => hne e (List.mem_append_left _ he)]
  · intro j hj hj' hne
    rw [k.sameTemps j hj hj' fun e he => hne e (List.mem_append_right _ he), h.sameTemps j hj hj' fun e he => hne e (List.mem_append_left _ he)]
  · intro j hj hne
    rw [k.sameUnis j hj fun e he => hne e (List.mem_append_right _ he), h.sameUnis j hj fun e he => hne e (List.mem_append_left _ he)]
  · intro j hj hj' hne
    rw [k.sameUtemps j hj hj' fun e he => hne e (List.mem_append_right _ he), h.sameUtemps j hj hj' fun e he => hne e (List.mem_append_left _ he)]
  · rw [k.ranges]
    simp only [View.touched, e1, h.ranges, List.foldl_append]

theorem Effects.row64 (V : View) (k : Nat) (f : Nat → Dword) (hk : k % 2 = 0) : Effects V (pairRows k f) (V.writeLane64 k f) := by
  refine (Effects.row V k fun l => (f l).extractLsb' 0 32).andThen (RegsOnly.writeLane V k _) (Effects.row _ (k + 1) fun l => (f l).extractLsb' 32 32) ?_ ?_ ?_
  · intro c hc e he
    obtain ⟨l, hl, rfl⟩ : ∃ l ∈ lanesOf V.em, (V.lidx k l, (f l).extractLsb' 0 32) = c := by simpa [View.cells] using hc
    obtain ⟨m, hm, rfl⟩ : ∃ m ∈ lanesOf V.em, (V.lidx (k + 1) m, (f m).extractLsb' 32 32) = e := by simpa [View.cells] using he
    have h1 := (lanesOf_mem.mp hl).1
    have h2 := (lanesOf_mem.mp hm).1
    simp only [View.lidx]
    split <;> split <;> omega
  · simp
  · simp

theorem Effects.uni64 (V : View) (k : Nat) (x : Dword) (hk : k % 2 = 0) (h : k < 64) : Effects V (pairUnis k x) (V.writeUni64 k x) := by
  refine (Effects.uni V k (x.extractLsb' 0 32) h).andThen (RegsOnly.writeUni V k _) (Effects.uni _ (k + 1) (x.extractLsb' 32 32) (by omega)) ?_ ?_ ?_
  · intro c hc e he
    obtain rfl : (V.uidx k, x.extractLsb' 0 32) = c := by simpa [View.cells, eq_comm] using hc
    obtain rfl : (V.uidx (k + 1), x.extractLsb' 32 32) = e := by simpa [View.cells, eq_comm] using he
    simp only [View.uidx]
    split <;> split <;> omega
  · simp
  · simp

/-! ### Words that only write registers -/

/-- A word that executes by changing registers, its warp and its path, and retires. -/
theorem does_of {i : Instr} {s s0 : State} {V W : View} {b : Warp} {p0 : Path} {x : Writes} (hv : s.view = some V)
    (he : exec i s = .next (W.retire (infoOf i))) (hb : Became V s0 b p0 W) (hx : Effects V x W) :
    DoesFrom i s s0 V (if (infoOf i).rc then b.fullPoint else b) { p0 with pc := V.p.pc + 4 } x := by
  obtain ⟨h1, w, p, r, h2, h3, h4, h5, h6, h7, h8, h9⟩ := View.retire_frame (i := infoOf i) (State.view_from hv) hb
  exact ⟨_, w, p, r, he, h1, h2, h3, h4, hx.holds h5 h6 h7 h8 h9⟩

/-- A word whose meaning is `issueReg` of a register write computes it. -/
theorem computes_reg {i : Instr} {s : State} {V : View} {f : View → View} {x : Writes} (h : Ready s (infoOf i) true V)
    (he : exec i s = issueReg (infoOf i) s f) (hi : (infoOf i).rc = false) (hr : RegsOnly V (f V)) (hx : Effects V x (f V)) : Computes i s V x := by
  have := does_of h.1 (he.trans (issueReg_ready h f)) hr.became hx
  rw [(State.view_from h.1).state] at this
  simpa [Computes, Does, View.onward, hi] using this

theorem computes_row {i : Instr} {s : State} {V : View} {k : Nat} {f : View → Nat → Word} (h : Ready s (infoOf i) true V)
    (he : exec i s = issueReg (infoOf i) s fun V => V.writeLane k (f V)) (hi : (infoOf i).rc = false) : Computes i s V ⟨[(k, f V)], []⟩ :=
  computes_reg h he hi (RegsOnly.writeLane V k _) (Effects.row V k _)
theorem computes_row64 {i : Instr} {s : State} {V : View} {k : Nat} {f : View → Nat → Dword} (h : Ready s (infoOf i) true V) (hk : k % 2 = 0)
    (he : exec i s = issueReg (infoOf i) s fun V => V.writeLane64 k (f V)) (hi : (infoOf i).rc = false) : Computes i s V (pairRows k (f V)) :=
  computes_reg h he hi (RegsOnly.writeLane64 V k _) (Effects.row64 V k _ hk)
theorem computes_uni {i : Instr} {s : State} {V : View} {k : Nat} {x : View → Word} (h : Ready s (infoOf i) true V) (hk : k < 64)
    (he : exec i s = issueReg (infoOf i) s fun V => V.writeUni k (x V)) (hi : (infoOf i).rc = false) : Computes i s V ⟨[], [(k, x V)]⟩ :=
  computes_reg h he hi (RegsOnly.writeUni V k _) (Effects.uni V k _ hk)
theorem computes_uni64 {i : Instr} {s : State} {V : View} {k : Nat} {x : View → Dword} (h : Ready s (infoOf i) true V) (hk : k % 2 = 0) (hk' : k < 64)
    (he : exec i s = issueReg (infoOf i) s fun V => V.writeUni64 k (x V)) (hi : (infoOf i).rc = false) : Computes i s V (pairUnis k (x V)) :=
  computes_reg h he hi (RegsOnly.writeUni64 V k _) (Effects.uni64 V k _ hk hk')

end Sys2Proof.Machine
end

