-- ==== Sys2Proof/Tests/Slice0.lean ====
section
/-! SUPPORT. Tests of the model on small states, each with its expected result from the manual; and for each statement states and operands that meet its
hypotheses. -/
namespace Sys2Proof.Tests
open Sys2Proof Sys2Proof.Machine
set_option maxRecDepth 8000
set_option Elab.async false

/-! ### Well-formedness (R20, R39, R87, R140, R300): an ill-formed term for each check -/

theorem test_wf_scope : (Instr.fence 6).wf = false ∧ (Instr.fenceAcq 7).wf = false ∧ (Instr.fenceRel 6).wf = false ∧ (Instr.sfence 7).wf = false ∧
    (Instr.fence 5).wf = true := by decide
theorem test_wf_sysreg : (Instr.rds 0 0x12).wf = false ∧ (Instr.srds 0 0x12).wf = false ∧ (Instr.srds 0 1).wf = false ∧ (Instr.swrs 0 6).wf = false ∧
    (Instr.swrs 0 0xD).wf = false ∧ (Instr.rds 0 0x11).wf = true ∧ (Instr.swrs 0 0xC).wf = true := by decide
theorem test_wf_payload : (Instr.spawn 0 2 9).wf = false ∧ (Instr.spawn 1 2 0).wf = false ∧ (Instr.hamp 0 2 9).wf = false ∧ (Instr.hamp 1 2 0).wf = false ∧
    (Instr.spawn 1 2 8).wf = true := by decide
theorem test_wf_tileFormat : (Instr.tst 0 0 9 1).wf = false ∧ (Instr.tld 0 0 15 1).wf = false ∧ (Instr.tst 0 0 8 1).wf = true := by decide

/-- The published standard of the cipher that R371 names: its substitution of 0x53 is 0xED, of 0 is 0x63. -/
theorem test_aes_substitution : aesSub 0x53#8 = 0xED#8 ∧ aesSub 0x00#8 = 0x63#8 := by decide

/-! ### Small states -/

/-- A warp of 32 threads of context 0 on core 0, quadrant 0, with a run of one word open, about to issue; its allotment is 120. -/
def base : State := State.reset.withFetchWord 32 0x99200000
/-- That state, with the view changed. -/
def at_ (f : View → View) : State := match base.view with
  | some V => (f V).put
  | none => base
/-- With some uniform registers, or some lane registers in every lane, holding values. -/
def withUni (xs : List (Nat × Word)) : State := at_ fun V => xs.foldl (fun V x => V.writeUni x.1 x.2) V
def withLane (xs : List (Nat × Word)) : State := at_ fun V => xs.foldl (fun V x => V.writeLane x.1 fun _ => x.2) V
/-- A supervisor's warp: of a management core. -/
def super (V : View) : View := { V with w := { V.w with mgmt := true } }

/-- The hypotheses of a statement about a word: it is free to execute, and `p` holds of its view. -/
def Met (i : Instr) (s : State) (p : View → Prop) : Prop := ∃ V, Ready s (infoOf i) i.wf V ∧ p V
/-- The same, computed. -/
def met (i : Instr) (s : State) (p : View → Bool) : Bool := match s.view with
  | some V => V.breakHit.isNone && (V.check (infoOf i) i.wf).isNone && (V.score (infoOf i)).isNone && decide (V.readyAt (infoOf i) ≤ V.c.cycle) && p V
  | none => false
theorem met_spec {i : Instr} {s : State} {p : View → Bool} (h : met i s p = true) : Met i s fun V => p V = true := by
  unfold met at h
  split at h
  · next V hV =>
    simp only [Bool.and_eq_true, Option.isNone_iff_eq_none, decide_eq_true_eq] at h
    exact ⟨V, ⟨hV, h.1.1.1.1, h.1.1.1.2, h.1.1.2, h.1.2⟩, h.2⟩
  · cases h

/-- What a lane register, or a uniform register, of the warp holds after an instruction. -/
def laneAfter (i : Instr) (s : State) (k l : Nat) : Option Word := match s.view, exec i s with
  | some V, .next t => some (V.rfIn t (V.lidx k l))
  | _, _ => none
def uniAfter (i : Instr) (s : State) (k : Nat) : Option Word := match s.view, exec i s with
  | some V, .next t => some (V.rfIn t (V.uidx k))
  | _, _ => none
/-- The warp after an instruction, and its path. -/
def warpAfter (i : Instr) (s : State) : Option Warp := match s.view, exec i s with
  | some V, .next t => V.warpIn t
  | _, _ => none
def pathAfter (i : Instr) (s : State) : Option Path := (warpAfter i s).bind (·.div.s0)

/-! ### Decoding: words written out from the manual's encodings (their fields from bit 20 down) -/

/-- R89: `addi v2, v2, #-1` and `sadd s4, s5, s6`; R99: `cmp.lt.s s5, v2, v3`; R100: `sel v7, v8, s5`; R104: `ssel s1, s2, s3, s7`. -/
theorem test_decode_registers : decode 0x0040817F = some (.addi 2 2 0x7F) ∧ decode 0x80020A30 = some (.sadd 4 5 6) ∧
    decode 0x05014103 = some (.cmpLtS 5 2 3) ∧ decode 0x05C1C405 = some (.sel 7 8 5) ∧ decode 0x84A0841F = some (.ssel 1 2 3 7) :=
  ⟨rfl, rfl, rfl, rfl, rfl⟩
/-- R87: `rds v6, tid`; R22: a FLASH trailer of keep-set ends 8 and 127, and a plain trailer. -/
theorem test_decode_system : decode 0x21218001 = some (.rds 6 1) ∧ decode 0xFFE88FE0 = some (.trailer 0 1 8 127) ∧
    decode 0xFFE7FFE0 = some (.trailer 0 0 127 127) := ⟨rfl, rfl, rfl⟩
/-- R20: a must-be-zero bit set is no instruction: SHLI with bit 5, ABS with b, a mask compare with bit 20, NOP with an operand. -/
theorem test_decode_reserved : decode 0x02C00020 = none ∧ decode 0x01600001 = none ∧ decode 0x04D00000 = none ∧ decode 0x99200001 = none := ⟨rfl, rfl, rfl, rfl⟩
/-- R33, R36: place 0x040 of W1 holds FADD's native entry; a place of no range is unassigned. -/
theorem test_w1 : decodeEntry w1Entry 0x08014307 = .ok (.fadd 5 6 7) ∧ decodeEntry w1Entry 0x06814307 = .error .unassigned := ⟨rfl, rfl⟩
/-- The placed instruction is the one the next step runs. -/
theorem test_step_runs : step (State.reset.withFetchWord 32 0x0040817F) = exec (.addi 2 2 0x7F) (State.reset.withFetchWord 32 0x0040817F) := by rfl

/-! ### Results worked in the manual -/

/-- R93: A = 0x8000_0000, B = 2. -/
theorem test_mul : let s := withLane [(2, 0x80000000), (3, 2)]
    laneAfter (.mul 1 2 3) s 1 0 = some 0 ∧ laneAfter (.mulhS 1 2 3) s 1 31 = some 0xFFFFFFFF ∧ laneAfter (.mulhZ 1 2 3) s 1 5 = some 1 := by decide +kernel
/-- R93: ABS of the most negative number; R94: ADDI wraps. -/
theorem test_abs_addi : laneAfter (.abs 1 2) (withLane [(2, 0x80000000)]) 1 0 = some 0x80000000 ∧
    laneAfter (.addi 2 2 0x7F) (withLane [(2, 0)]) 2 0 = some 0xFFFFFFFF := by decide +kernel
/-- R95: shifts by the width or more. -/
theorem test_shifts : let s := withLane [(2, 0x80000001), (3, 32), (4, 0x101)]
    laneAfter (.shl 1 2 3) s 1 0 = some 0 ∧ laneAfter (.sar 1 2 3) s 1 0 = some 0xFFFFFFFF ∧ laneAfter (.shr 1 2 4) s 1 0 = some 0x40000000 ∧
    laneAfter (.rotl 1 2 4) s 1 0 = some 3 := by decide +kernel
/-- R97: the fields of 0x0E50, and BFI of 3 into all ones. -/
theorem test_bfx : let s := withLane [(2, 0xE50), (3, 0x304), (4, 0x308), (5, 3), (6, 0xFFFFFFFF)]
    laneAfter (.bfxZ 1 2 3) s 1 0 = some 5 ∧ laneAfter (.bfxS 1 2 4) s 1 0 = some 0xFFFFFFFE ∧ laneAfter (.bfi 6 5 3) s 6 0 = some 0xFFFFFF3F := by decide +kernel
/-- R101: −7 divided by 2, signed and unsigned, and division by zero. -/
theorem test_div : let s := withLane [(2, 0xFFFFFFF9), (3, 2), (4, 0)]
    laneAfter (.divS 1 2 3) s 1 0 = some 0xFFFFFFFD ∧ laneAfter (.remS 1 2 3) s 1 0 = some 0xFFFFFFFF ∧ laneAfter (.divZ 1 2 3) s 1 0 = some 0x7FFFFFFC ∧
    laneAfter (.remZ 1 2 4) s 1 0 = some 0xFFFFFFF9 := by decide +kernel
/-- R98: a pair's carry goes into its high word. -/
theorem test_addD : let s := withLane [(2, 0xFFFFFFFF), (3, 0), (4, 1), (5, 0)]
    laneAfter (.addD 6 2 4) s 6 0 = some 0 ∧ laneAfter (.addD 6 2 4) s 7 0 = some 1 := by decide +kernel
/-- R99: the lanes of EM whose compare holds, here all, and the bits above 7 where EM is 0xFF. -/
theorem test_cmp : let s := withLane [(2, 0xFFFFFFFF), (3, 0)]
    uniAfter (.cmpLtS 5 2 3) s 5 = some 0xFFFFFFFF ∧ uniAfter (.cmpLtZ 5 2 3) s 5 = some 0 ∧
    uniAfter (.cmpLtS 5 2 3) (at_ fun V => let V := { V with em := 0xFFFFFFFF }
      { (V.writeLane 2 fun _ => 0xFFFFFFFF) with p := { V.p with mask := 0xFF } }) 5 = some 0xFF := by decide +kernel
/-- R102, R103: the lowest 1 bit; 32 for zero; a compare gives 1. -/
theorem test_uniform : uniAfter (.sffs 4 5) (withUni [(5, 0x50)]) 4 = some 4 ∧ uniAfter (.sffs 4 5) (withUni [(5, 0)]) 4 = some 32 ∧
    uniAfter (.scmpLtS 4 5 6) (withUni [(5, 0xFFFFFFFF), (6, 0)]) 4 = some 1 := by decide +kernel
/-- R84, R85: a constant, and its upper part. -/
theorem test_movi : laneAfter (.movi 3 0x3FFF) base 3 7 = some 0xFFFFFFFF ∧ laneAfter (.movh 3 5) (withLane [(3, 1)]) 3 7 = some 0x4005 := by decide +kernel
/-- R106: 1.5 + 0.25, and 1 / 3 to nearest. -/
theorem test_float : let s := withLane [(2, 0x3FC00000), (3, 0x3E800000), (4, 0x3F800000), (5, 0x40400000)]
    laneAfter (.fadd 1 2 3) s 1 0 = some 0x3FE00000 ∧ laneAfter (.fdiv 1 4 5) s 1 0 = some 0x3EAAAAAB := by decide +kernel
/-- R166: the lanes of a flip by 1. -/
theorem test_flip : laneAfter (.pickFlip 2 1 1) (at_ fun V => V.writeLane 1 fun l => BitVec.ofNat 32 l) 2 6 = some 7 := by decide +kernel
/-- R161: BZ over four words back from its own address; R26: not taken, the word after the run. -/
theorem test_bz : (pathAfter (.bz 4 0x7FFD) base).map (·.pc) = some (0xFFFFFFFFFFF4) ∧
    (pathAfter (.bz 4 0x7FFD) (withUni [(4, 1)])).map (·.pc) = some 8 := by decide +kernel
/-- R40: LD.64 into register 121 at allotment 64 raises 0x005 before 0x006. -/
theorem test_check_order : (warpAfter (.ld64 121 3 0 0) (at_ fun V => { V with w := { V.w with allot := 64 } })).map (·.trap.cause) = some 0x005 := by decide +kernel
/-- R40, R324: a trap halts the warp at its word. -/
theorem test_trap_taken : (warpAfter (.mma 1 8 0 0) (at_ fun V => { V with p := { V.p with rest := 1 } })).map (fun w => (w.trap.cause, w.trap.halted, w.trap.fmask)) =
    some (0x011, true, 0xFFFFFFFE) := by decide +kernel
/-- R341: TRAP 5 raises 0x1C5, once its run has closed. -/
theorem test_trap5 : (warpAfter (.trap 5) base).map (·.trap.cause) = some 0x1C5 := by decide +kernel
/-- R272: a precision register reads 0x377 until it is written. -/
theorem test_prget : laneAfter (.prget 3 2) base 3 0 = some 0x377 := by decide +kernel

/-! ### Hypotheses met: words -/

/-- Register words of every shape are free to execute, with registers at the ends of their ranges. -/
theorem met_registerWords : (∀ i ∈ ([.add 0 119 127, .addB 119 0 63, .abs 1 119, .addi 0 0 0x7F, .shl 120 127 0, .rotl 1 2 3, .shli 0 1 31, .popc 1 2, .bfi 0 1 2,
      .addD 118 126 0, .shlD 0 2 119, .cmpEq 63 0 119, .cmpEqB 0 1 63, .sel 0 119 63, .divS 1 2 3, .remZ 1 2 3] : List Instr), met i base (fun _ => true) = true) ∧
    (∀ i ∈ ([.sadd 0 63 56, .saddi 55 0 0x1FF, .sffs 0 63, .saddD 54 62 0, .sdivZ 1 2 3, .scmpEq 0 1 2, .ssel 0 1 63 7,
      .fadd 0 119 127, .ffmaB 1 2 63, .fcmpUn 63 0 1, .fex2 1 2, .dadd 118 0 126, .dcmpLe 0 2 4, .ffmaF16x2 0 1 2, .cvtF64F32 118 1, .cvtF32E4 0 1 3] : List Instr),
      met i base (fun _ => true) = true) ∧
    (∀ i ∈ ([.mov 127 0, .movD 118 0, .movi 0 0x3FFF, .movB 0 63, .smov 63 0, .smovh 0 0x7FFF, .sgetl 0 31 127, .setx 119, .setxi 255,
      .pickLane 0 1 2, .pickFlip 0 1 31, .pickSeat 0 1 2, .voteAny 63 0, .voteAll 0 119, .voteBal 7 3, .land, .nop] : List Instr), met i base (fun _ => true) = true) := by
  decide +kernel

/-- MOVX inside the allotment, at its last register, and past either end of it. -/
theorem met_indexed :
    (met (.movxG 1 0) base fun V => decide ((∀ l : Nat, l < 32 → V.em.getLsbD l = true → (V.vx l).toNat = 0) ∧ (∀ l : Nat, l < 32 → V.pendingReg false l = false))) = true ∧
    (met (.movxP 1 0) (at_ fun V => V.writeVx fun _ => 119) fun V => decide (∀ l : Nat, l < 32 → (V.vx l).toNat = 119 ∧ V.w.allot = 120 ∧ V.pendingReg false 119 = false)) = true ∧
    (met (.movxG 1 1) (at_ fun V => V.writeVx fun _ => 119) fun V => decide (∃ l : Nat, l < 32 ∧ V.em.getLsbD l = true ∧ (V.w.allot : Int) ≤ ((V.vx l).toNat : Int) + 1)) = true ∧
    (met (.movxP 1 0x7F) base fun V => decide (∃ l : Nat, l < 32 ∧ V.em.getLsbD l = true ∧ ((V.vx l).toNat : Int) - 1 < 0)) = true := by
  decide +kernel

/-- A system register of each kind; CORE on a logical core; SLOT where an entry governs. -/
def oneEntry : SlotTable :=
  { epoch := 0, entries := [{ duration := 1000, partitions := [{ tenant := 0, clusters := [0], ways := [], hbm := [], links := [] }] }], reservedZero := true }
theorem met_systemReads : (met (.rds 1 0x011) base fun V => decide (∀ l : Nat, l < 32 → (0x011, BitVec.ofNat 64 (V.w.allot + V.w.base * 2 ^ 7 + V.w.ubase * 2 ^ 17 + V.qn * 2 ^ 27)) ∈ systemRegisters V l)) = true ∧
    (met (.rds 2 0x00D) base fun V => decide (∀ l : Nat, l < 32 → (0x00D, BitVec.ofNat 64 V.c.cycle) ∈ systemRegisters V l)) = true ∧
    (met (.srds 2 0x005) base fun V => !V.w.mgmt) = true := by
  decide +kernel

/-- With part of the view of another state changed. -/
def on (s : State) (f : View → View) : State := match s.view with
  | some V => (f V).put
  | none => s
/-- Memory mapped: VA and PA are the same below 1 GiB, with every permission; the word LAND stands at 0x100. -/
def mapped : State :=
  { base with clusters := [(0, { Cluster.blank 0 with tlb := [⟨0, 0, 2, 0x1F⟩] })], contexts := [(0, Context.blank)], mem := [(0x103, 0x99)] }
/-- That memory, its line 0 held by field 0 in M. -/
def mine : State :=
  { mapped with fields := [(0, { Field.blank with l2 := [⟨0, .M, true, true, false, false, 1, 0, 0, 0, 0⟩], dir := [(0, ⟨.owned 0, .none⟩)] })] }
/-- The other PC slot in use; a stack of one entry on chip. -/
def twoPaths (V : View) : View := { V with w := { V.w with div := { V.w.div with s1 := some (freshPath 0x40 0xFF 0 false) } }, p := { V.p with mask := 0xFFFFFF00 } }
def oneEntryOnChip (V : View) : View := { V with w := { V.w with div := { V.w.div with n := 1, b := 0, top := some ⟨0x80, 0, false, 0xF⟩ } } }

theorem met_systemSlot : met (.srds 2 0x00F) { base with slots := { table := some oneEntry, next := none, switch := 0 } }
    (fun V => (V.s.entryAt V.s.time).isSome) = true := by decide +kernel
/-- SWRS: at each boundary of the value that a register takes; the refused numbers. -/
theorem met_systemWrites :
    met (.swrs 2 0x008) (withUni [(2, 7)]) (fun V => V.uni 2 == 7) = true ∧ met (.swrs 2 0x008) (withUni [(2, 8)]) (fun V => V.uni 2 == 8) = true ∧
    met (.swrs 2 0x007) (at_ fun V => (super V).writeUni 2 1) (fun V => V.uni 2 == 1 && V.em == 0xFFFFFFFF) = true ∧
    met (.swrs 2 0x007) (at_ fun V => (super V).writeUni 2 0) (fun V => V.uni 2 == 0) = true ∧
    met (.swrs 2 0x009) (at_ fun V => (super V).writeUni 2 511) (fun V => V.uni 2 == 511) = true ∧
    met (.swrs 2 0x009) (at_ fun V => (super V).writeUni 2 512) (fun V => V.uni 2 == 512) = true ∧
    met (.swrs 2 0x00A) (at_ super) (fun _ => true) = true ∧ met (.swrs 2 0x00B) (at_ super) (fun _ => true) = true ∧
    met (.swrs 2 0x00C) (at_ super) (fun _ => true) = true ∧
    (∃ V, base.view = some V ∧ V.breakHit = none ∧ V.super = false) := by
  and_intros
  iterate 9 · decide +kernel
  exact ⟨_, rfl, by decide, by decide⟩

/-- Votes: with some lane, with every lane, and with none. -/
theorem met_votes : met (.voteAny 2 3) (withLane [(3, 1)]) (fun V => decide (∃ l : Nat, l < 32 ∧ V.em.getLsbD l = true ∧ V.lane 3 l ≠ 0#32)) = true ∧
    met (.voteAny 2 3) base (fun V => decide (¬ ∃ l : Nat, l < 32 ∧ V.em.getLsbD l = true ∧ V.lane 3 l ≠ 0#32)) = true ∧
    met (.voteAll 2 3) base (fun V => decide (¬ ∀ l : Nat, l < 32 → V.em.getLsbD l = true → V.lane 3 l ≠ 0#32)) = true := by decide +kernel

/-- The transfers: taken and not; BRV in each of its cases; the stack at K. -/
theorem met_transfers :
    met (.bz 4 0x7FFD) base (fun V => V.uni 4 == 0) = true ∧ met (.bnz 4 2) base (fun V => V.uni 4 == 0) = true ∧
    met (.bneg 4 2) (withUni [(4, 0x80000000)]) (fun V => decide ((V.uni 4).toInt < 0)) = true ∧
    met (.brv 4 4) base (fun V => V.em &&& V.uni 4 == 0) = true ∧
    met (.brv 4 2) (withUni [(4, 1)]) (fun V => V.p.pc + 8 == V.fallThrough) = true ∧
    met (.brv 4 4) (withUni [(4, 0xFFFFFFFF)]) (fun V => V.p.pc + 16 != V.fallThrough && V.em &&& ~~~V.uni 4 == 0) = true ∧
    met (.brv 4 4) (withUni [(4, 1)]) (fun V => (V.w.div.slot (other V.kn)).isNone && decide (V.w.div.n ≤ V.s.ringK V.w.launch) && V.em &&& ~~~V.uni 4 != 0) = true ∧
    met (.brv 4 4) (on (withUni [(4, 0x100)]) twoPaths) (fun V => (V.w.div.slot (other V.kn)).isSome && V.w.div.n == 0 && V.em &&& V.uni 4 != 0) = true ∧
    met (.brv 4 4) (on (on { mine with cores := (withUni [(4, 0x100)]).cores } twoPaths) oneEntryOnChip) (fun V =>
      decide (V.w.div.n ≠ 0 ∧ V.w.div.n < V.s.ringK V.w.launch) && V.w.div.top.isSome &&
        V.s.regionAll V.cn V.w.mgmt V.w.ctx V.w.launch true [V.s.ringVa V.cn V.qn V.wn V.w (V.w.div.b + V.w.div.n - 1)] == .ok [0]) = true ∧
    met (.brv 4 4) (on (on (withUni [(4, 0x100)]) twoPaths) fun V => { V with w := { V.w with div := { V.w.div with n := 16 } } })
      (fun V => decide (V.s.ringK V.w.launch ≤ V.w.div.n)) = true := by
  and_intros <;> decide +kernel

/-- BRC and RCV with and without a crew for their lanes; RCV clashing with a handler's slot. -/
theorem met_waitingBranches : met (.brc 4 4) base (fun V => !V.brcOk) = true ∧ met .rcv base (fun V => !V.rcvClash) = true := by
  and_intros <;> decide +kernel

/-- The special functions: their ranges at both ends (R110). -/
theorem met_specialRanges : (0x43000000#32 ≤ (0x43000000#32 : Word) ∧ (0x43000000#32 : Word) ≤ 0x7F800000#32) ∧
    (0xC3160000#32 < (0xC3160001#32 : Word) ∧ (0xC3160001#32 : Word) ≤ 0xFF800000#32) ∧ (0x80800000#32 ≤ (0xFF800000#32 : Word)) ∧
    (0x80000000#32 < (0x80000001#32 : Word) ∧ (0x80000001#32 : Word) < 0x80800000#32) ∧
    (0x47000000#32 < (0xC7000001 &&& 0x7FFFFFFF#32 : Word) ∧ (0xC7000001 &&& 0x7FFFFFFF#32 : Word) < 0x7F800000#32) ∧ 0x7F800000#32 < (0xFFC00000 &&& 0x7FFFFFFF#32 : Word) ∧
    (-149 : Int) ≤ -149 ∧ (-149 : Int) < -126 ∧ (127 : Int) ≤ 127 := by decide
/-- Three targets by lane: the words at 0x100, 0x204 and 0x308 are LAND. -/
def threeWays (n : Nat) : State := on
  { mapped with mem := [(0x103, 0x99), (0x207, 0x99), (0x30B, 0x99)],
                cores := (at_ fun V => V.writeLane 2 fun l => if l = 0 then 0x100 else if l = 1 then 0x204 else 0x308).cores }
  fun V => { V with w := { V.w with div := { V.w.div with n := n } } }
theorem met_groups : (∀ n ∈ [0, 16], met (.jmpi 2) (threeWays n) (fun V => decide ((lanesOf V.em).all fun l => V.landing (V.lane64 2 l) == .ok) &&
      groupLanes (fun l => (V.lane64 2 l).extractLsb' 0 48) V.em == [(1, 0x100), (2, 0x204), (0xFFFFFFFC, 0x308)]) = true) ∧
    met (.jmpi 2) (threeWays 0) (fun V => (V.pushed 0 [(2, 0x204), (0xFFFFFFFC, 0x308)]).length == 1 &&
      V.s.regionAll V.cn V.w.mgmt V.w.ctx V.w.launch true ((V.ringWrites (V.pushed 0 [(2, 0x204), (0xFFFFFFFC, 0x308)])).map (·.1)) == .ok []) = true ∧
    met (.jmpi 2) (threeWays 16) (fun V => decide (V.s.ringK V.w.launch < V.w.div.n + (V.pushed 0 [(2, 0x204), (0xFFFFFFFC, 0x308)]).length)) = true ∧
    (∀ x ∈ [((0x8000 : Word), (0 : Word), 0x009), (0x8000, 2, 0x009), (0, 2, 0x008)], met (.jmpi 2) (withLane [(2, x.2.1), (3, x.1)]) (fun V => V.landing (V.lane64 2 0) == .fault x.2.2) = true) ∧
    met (.calls 2) base (fun V => V.landing (V.uni64 2) == .fault 0x042) = true := by
  and_intros <;> decide +kernel
/-- JMPI and the calls: to a LAND, to a word that is none; with an empty mask; at the last call level; returns, and one at depth 0. -/
theorem met_jumps :
    met (.jmpi 2) { mapped with cores := (withLane [(2, 0x100)]).cores } (fun V => decide ((lanesOf V.em).all fun l => V.landing (V.lane64 2 l) == .ok) &&
      groupLanes (fun l => (V.lane64 2 l).extractLsb' 0 48) V.em == [(0xFFFFFFFF, 0x100)]) = true ∧
    met (.jmpi 2) mapped (fun V => V.landing (V.lane64 2 0) == .fault 0x008) = true ∧
    met (.jmpi 2) (at_ fun V => { V with p := { V.p with mask := 0 } }) (fun V => V.em == 0) = true ∧
    met (.call 4) base (fun V => decide (V.em ≠ 0 ∧ V.p.depth < V.s.callD V.w.launch)) = true ∧
    met (.call 4) (at_ fun V => { V with p := { V.p with depth := 1 } }) (fun V => decide (V.em ≠ 0 ∧ V.s.callD V.w.launch ≤ V.p.depth)) = true ∧
    met (.calls 2) { mine with cores := (withUni [(2, 0x100)]).cores } (fun V => V.landing (V.uni64 2) == .ok && decide (V.p.depth < V.s.callD V.w.launch) &&
      V.s.regionAll V.cn V.w.mgmt V.w.ctx V.w.launch true ((lanesOf V.em).map (V.s.frameVa V.cn V.qn V.wn V.w 1)) == .ok (lanes.map (8 * ·))) = true ∧
    met .ret base (fun V => decide (V.em ≠ 0 ∧ V.p.depth = 0)) = true ∧
    met .ret (on mine fun V => { V with p := { V.p with depth := 1 }, w := { V.w with rewind := .flash ⟨[], 0, 0, 1, 0, 0, 0, [], [], [], [], none, 0⟩ } }) (fun V =>
      (match V.w.rewind with
        | .flash x => decide (V.p.depth - 1 < x.depth)
        | .full => false) &&
      V.s.regionAll V.cn V.w.mgmt V.w.ctx V.w.launch false ((lanesOf V.em).map (V.s.frameVa V.cn V.qn V.wn V.w 1)) == .ok (lanes.map (8 * ·))) = true ∧
    met .rets (on mine fun V => { V with p := { V.p with depth := 1 } }) (fun V => V.w.rewind == .full && decide (V.p.depth ≠ 0) &&
      V.s.regionAll V.cn V.w.mgmt V.w.ctx V.w.launch false ((lanesOf V.em).map (V.s.frameVa V.cn V.qn V.wn V.w 1)) == .ok (lanes.map (8 * ·))) = true := by
  and_intros <;> decide +kernel

/-- A trailer at the head of the run of a warp with one path. -/
theorem met_trailer : ∃ V, (State.reset.withFetchWord 32 0xFFE7FFE0).view = some V ∧ V.w.div.slot (other V.kn) = none ∧ V.w.div.n = 0 ∧ V.kn ≤ 1 ∧ V.p.parked = false ∧
    V.w.trap.halted = false ∧ V.p.ends = .plain := ⟨_, rfl, by decide, by decide, by decide, by decide, by decide, by decide⟩
/-! ### Hypotheses met: crews, threads, memory -/

/-- The lanes of the base state as members of crew 0, seat by lane; some of them arrived. -/
def crewed (arrived : List Nat) : State := at_ fun V => { V with
  c := { V.c with crews := [(0, ⟨0, 0, 0, 0, 1, 1024, (List.range 32).map fun l => ⟨l, V.qn, V.wn, l⟩, 5, arrived, [], [], [], false, false⟩)] }
  w := { V.w with remap := (List.range 32).map fun l => (l, 0, l) } }
/-- Lane 0 alone, in a crew with lane 1's seat. -/
def crewedLane0 (f : View → View) : State := on (crewed []) fun V => f { V with p := { V.p with mask := 1 } }

theorem met_barriers :
    (∀ i ∈ [Instr.bar, .bara 1, .barw 1], met i base (fun V => decide (∃ l : Nat, l < 32 ∧ V.em.getLsbD l = true ∧ V.w.member l = none)) = true) ∧
    (∀ i ∈ [Instr.bar, .bara 1, .barw 1], met i (on (crewed []) fun V => { V with p := { V.p with wait := .barrier ((List.range 32).map fun l => (l, 5)) [(0, 5)] } })
      (fun V => decide (∀ l : Nat, l < 32 → V.em.getLsbD l = true → V.w.member l ≠ none)) = true) ∧
    met .bar (crewed []) (fun V => V.em != 0) = true ∧
    met (.bara 1) (on (crewed []) fun V => { V with p := { V.p with mask := 0 } }) (fun V => V.em == 0) = true ∧
    met (.barw 1) (on (crewed []) fun V => V.writeLane 1 fun _ => 4) (fun V => decide (∀ l : Nat, l < 32 → V.w.crewOf l = some 0) &&
      V.lane 1 0 == 4 && V.lane 1 31 == 4) = true ∧
    met (.bara 1) (crewedLane0 id) (fun V => lanesOf V.em == [0] && V.w.member 0 == some (0, 0)) = true := by
  and_intros <;> decide +kernel
/-- BRC and RCV with a crew; with a crew path of another handler's slot compacted. -/
theorem met_waitingBranchesInCrew : met (.brc 4 4) (crewed []) (fun V => V.brcOk) = true ∧ met .rcv (crewed []) (fun V => !V.rcvClash) = true ∧
    met .rcv (on { base with cores := (crewed []).cores } fun V => { V with
      c := { V.c with crews := V.c.crews.map fun k => (k.1, { k.2 with compacted := true, members := k.2.members ++ [⟨40, 1, 0, 0⟩] })
                      quads := V.c.quads.put 1 { Quadrant.blank with warps := [(0, { V.w with div := { V.w.div with s0 := some { freshPath 0x500 1 0 true with run := none } } })] } } })
      (fun V => V.rcvClash) = true := by
  and_intros <;> decide +kernel
/-- JOIN and LEAVE: refused lanes; a crew to create; a live crew to enter; lanes with no crew; one member of several. -/
theorem met_seats :
    met (.join 1 2) (crewed []) (fun V => decide (∃ l : Nat, l < 32 ∧ V.em.getLsbD l = true ∧ V.w.member l ≠ none)) = true ∧
    met (.join 1 2) base (fun V => !V.joinWaits (V.lane 2) && (match V.createCrews (V.lane 2) with
      | some c => V.joinOver c (V.lane 2) == 0
      | none => false)) = true ∧
    met (.join 1 2) (crewedLane0 fun V => { V with w := { V.w with remap := [] }, c := { V.c with crews := V.c.crews.map fun k =>
        (k.1, { k.2 with members := k.2.members.drop 1 }) } })
      (fun V => lanesOf V.em == [0] && (V.c.crewOfKey V.w.ctx (V.lane 2 0)).map (·.1) == some 0) = true ∧
    met .leave base (fun V => V.w.remap == []) = true ∧
    met .leave (crewedLane0 id) (fun V => lanesOf V.em == [0] && V.w.remap.filter (fun e => e.1 == 0) == [(0, 0, 0)]) = true := by
  and_intros <;> decide +kernel

/-- SPAWN with a place for every thread; EXIT and HAMP that end every lane. -/
def ending (V : View) : Bool := V.em != 0 && V.p.mask == V.em && V.w.remap == [] && (V.w.div.slot (other V.kn)).isNone && V.w.div.n == 0 && decide (V.kn ≤ 1) &&
  !V.w.trap.halted
/-- The sixteen bins held by other threads, with `n` spill records for them. -/
def binsHeld (n : Nat) (s : State) : State :=
  { (on s fun V => { V with c := { V.c with bins := (List.range 16).map fun k => (k, ⟨9, 0, none, [], false⟩) } }) with
    launches := [(0, { Launch.blank with rcd := { LaunchRec.blank with spillBase := 0, spillCount := n } })] }
/-- The threads that SPAWN deposits, and those that HAMP does. -/
noncomputable def toSpawn (V : View) : Option State :=
  (V.spawnRetired (.spawn 8 2 1) (Sparse.get 0 V.c.spawned V.w.launch)).depositAll V.cn (spawned V 8 2 1)
noncomputable def toHamp (V : View) : Option State := (V.hampRetired (.hamp 0 4 0)).depositAll V.cn
  (V.records (fun _ => (V.p.pc + 8).signExtend 64) (fun l => ((V.w.tids.find? fun t => t.1 == l).map (·.2)).getD 0)
    (fun l => some ((V.lane 4 l).extractLsb' 0 16)) 0 0)
theorem met_threads :
    met (.spawn 8 2 1) (withLane [(2, 0x100)]) (fun V => decide (∀ l : Nat, l < 32 → canonical (V.lane64 2 l) = true ∧ (V.lane64 2 l).extractLsb' 0 2 = 0#2) &&
      Sparse.get 0 V.c.spawned V.w.launch == 0 && (lanesOf V.em).length == 32 && match toSpawn V with
        | some t => V.spilledNow t == []
        | none => false) = true ∧
    met (.spawn 8 2 1) (binsHeld 32 (withLane [(2, 0x100)])) (fun V => match toSpawn V with
        | some t => (V.s.recordFault V.cn V.w.ctx .write (V.spilledNow t)).isSome
        | none => false) = true ∧
    met (.spawn 8 2 1) (binsHeld 32 { mine with cores := (withLane [(2, 0x100)]).cores }) (fun V => match toSpawn V with
        | some t => (V.spilledNow t).length == 32
        | none => false) = true ∧
    met (.spawn 8 2 1) (binsHeld 31 (withLane [(2, 0x100)])) (fun V => (toSpawn V).isNone) = true ∧
    met (.spawn 8 2 1) (withLane [(3, 0x8000)]) (fun V => decide (∀ l : Nat, l < 32 → canonical (V.lane64 2 l) = false)) = true ∧
    met (.spawn 8 2 1) (withLane [(2, 2)]) (fun V => decide (∀ l : Nat, l < 32 → (V.lane64 2 l).extractLsb' 0 2 ≠ 0#2)) = true ∧
    (∀ n ∈ [2 ^ 19 - 32, 2 ^ 19 - 31], met (.spawn 8 2 1) (on (withLane [(2, 0x100)]) fun V => { V with c := { V.c with spawned := Sparse.set 0 V.c.spawned V.w.launch n } })
      (fun V => V.em != 0 && Sparse.get 0 V.c.spawned V.w.launch == n && decide (∀ l : Nat, l < 32 → canonical (V.lane64 2 l) = true ∧ (V.lane64 2 l).extractLsb' 0 2 = 0#2)) = true) ∧
    met .exit base ending = true ∧
    met (.hamp 0 4 0) base (fun V => ending V && match toHamp V with
        | some t => V.quadIn t == V.quadIn (V.hampRetired (.hamp 0 4 0)) && V.spilledNow t == []
        | none => false) = true ∧
    met (.hamp 0 4 0) (binsHeld 31 base) (fun V => (toHamp V).isNone) = true := by
  and_intros <;> decide +kernel
/-- SPAWN with records to write: every record's place is mapped and its lines are held for writing. -/
theorem met_spills : met (.spawn 8 2 1) (on (binsHeld 1 { mine with cores := (withLane [(2, 0x100)]).cores }) fun V => { V with p := { V.p with mask := 1 } })
    (fun V => match toSpawn V with
      | some t =>
        let new := V.spilledNow t
        new.length == 1 && (V.s.recordFault V.cn V.w.ctx .write new).isNone && V.s.recordsMoving V.cn V.w.ctx .write new == [] &&
          (V.s.claim V.cn V.w.ctx (V.s.recordLines V.cn V.w.ctx new)).isNone
      | none => false) = true := by decide +kernel

/-- The main clause of a memory word: every address mapped, aligned and ordered by no fence. -/
def reachable (V : View) (f : MemForm) (uniform : Bool) (vas : List (Nat × Dword)) (pa : Nat) : Bool :=
  vas != [] && V.c.wps == [] && V.fencesOf (V.who vas) uniform f.writes == [] && vas.all fun x =>
    canonical x.2 && x.2.toNat % f.width == 0 && V.s.translate V.cn V.w.mgmt V.w.ctx f.need x.2.toNat == .ok (.mem pa)
/-- A path in whose mask no lane is left. -/
def noLanes : State := at_ fun V => { V with p := { V.p with mask := 0 } }
/-- Memory mapped, with the address pair v2:v3, or s2:s3, holding a low word. -/
def mappedAt (lo : Word) : State := { mapped with cores := (at_ fun V => (V.writeUni 2 lo).writeLane 2 fun _ => lo).cores }
theorem met_laneMemory : (∀ x ∈ ([(.ld8 4 2 0 0, .load 1 1 false .plain), (.ld128 4 2 15 1, .load 16 4 false .plain), (.ld64Acq 4 2 0 0, .load 8 2 false .acquire),
      (.ld32V 4 2 0 0, .load 4 1 false .volatile), (.st16 4 2 0 0, .ofStore 2 1 .plain), (.st32Rel 4 2 0 0, .ofStore 4 1 .release),
      (.st64V 4 2 0 0, .ofStore 8 2 .volatile), (.atAdd 4 2 0 0, .atomic 4 1 1 .add), (.atCasD 4 2 0 0, .atomic 8 2 4 .cas), (.wbl 2 0 0, .line .wbl .wbl),
      (.disc 2 0 0, .line .disc .disc), (.pref 2 0 0, .line .read .pref)] : List (Instr × MemForm)),
      met x.1 (mappedAt 0x40) (fun V => reachable V x.2 false (V.laneAddresses 2 0) 0x40) = true) ∧
    met (.sld64 4 2 0 1) (mappedAt 0x40) (fun V => reachable V (.load 8 2 false .plain) true [(32, V.uni64 2 + 8)] 0x48) = true ∧
    met (.sst32V 4 2 0 31) (mappedAt 0x40) (fun V => reachable V (.ofStore 4 1 .volatile) true [(32, V.uni64 2 + 124)] 0xBC) = true ∧
    met (.satCas 4 2 0 0) (mappedAt 0x40) (fun V => reachable V (.atomic 4 1 2 .cas) true [(32, V.uni64 2)] 0x40) = true ∧
    (∀ i ∈ [Instr.ld32 4 2 0 0, .st32 4 2 0 0, .atAdd 4 2 0 0, .wbl 2 0 0, .disc 2 0 0], met i noLanes (fun V => V.laneAddresses 2 0 == [] &&
      V.fencesOf (V.who []) false true == []) = true) := by
  and_intros <;> decide +kernel
/-- Addresses that fail a check: not canonical; not aligned; unmapped; and no room in the scoreboard. -/
theorem met_memoryStops :
    met (.ld32 4 2 0 0) (withLane [(3, 0x8000)]) (fun V => V.laneAddresses 2 0 != [] && (V.laneAddresses 2 0).all fun x => !canonical x.2) = true ∧
    met (.ld32 4 2 0 0) (mappedAt 0x42) (fun V => (V.laneAddresses 2 0).all fun x => canonical x.2 && x.2.toNat % 4 != 0) = true ∧
    met (.sst64 4 2 0 0) (mappedAt 0x44) (fun V => canonical (V.uni64 2) && (V.uni64 2).toNat % 8 != 0) = true ∧
    met (.pref 2 0 0) base (fun V => (V.laneAddresses 2 0).all fun x => match V.s.translate V.cn V.w.mgmt V.w.ctx .read x.2.toNat with
      | .ok (.mem _) => false
      | _ => true) = true ∧
    met (.ld32 4 2 0 0) (on (mappedAt 0x40) fun V => { V with w := { V.w with pend := [⟨0, 0, 0, 1, false, (List.range 32).map (40 + ·), .load false .plain, 1, [], [], false, 0, [], []⟩] } })
      (fun V => decide (32 < V.w.pendingCount + 1)) = true := by
  and_intros <;> decide +kernel
/-- Lanes that differ: lane 0 at 0x40 is there; the others are on an unmapped page, or on one that migrates, alone or with lane 0 on it too. -/
def lanesApart (e : Byte) (lo0 lo : Word) : State :=
  { mapped with cores := (at_ fun V => V.writeLane 2 fun l => if l = 0 then lo0 else lo).cores
                contexts := [(0, { Context.blank with root := some 0x10000 })], mem := [(0x10000, 0x01), (0x10002, 0x02), (0x20008, e)] }
def goesTo (V : View) (x : Nat × Dword) : Nat := match V.s.translate V.cn V.w.mgmt V.w.ctx .read x.2.toNat with
  | .ok _ => 0
  | .migrating => 1
  | .fault _ => 2
theorem met_memoryLanes : ∀ x ∈ [((0 : Byte), (0x40 : Word), (0x40000040 : Word), [0, 2]), (0x86, 0x40, 0x40000040, [0, 1]), (0x86, 0x40000040, 0x40000040, [1, 1])],
    met (.ld32 4 2 0 0) (lanesApart x.1 x.2.1 x.2.2.1) (fun V => ((V.laneAddresses 2 0).take 2).map (goesTo V) == x.2.2.2 &&
      (V.laneAddresses 2 0).all (fun y => canonical y.2 && y.2.toNat % 4 == 0) && V.fencesOf (V.who (V.laneAddresses 2 0)) false false == []) = true := by decide +kernel
/-- A load of lane 0 that is still open, with a fence behind it or not: a word that a fence holds, in memory and in the scratchpad; and one that an
acquire holds. -/
def openLoad (k : LdKind) : LongOp := ⟨0, 0, 0, 0, false, [40], .load false k, 0xFFFFFFFF, [⟨0, 0x40, .mem 0x40, 4, 0, []⟩], [], false, 0, [], []⟩
def loadBefore (k : LdKind) (fs : List FenceRec) (V : View) : View := { V with w := { V.w with pend := [openLoad k], fences := fs, seq := 2 } }
def fenceBehind : FenceRec := ⟨1, 0xFFFFFFFF, false, true, true, 5⟩
theorem met_heldWords :
    met (.ld32 4 2 0 0) (on (mappedAt 0x40) (loadBefore .plain [fenceBehind])) (fun V => V.fencesOf (V.who (V.laneAddresses 2 0)) false false == [fenceBehind] &&
      (V.laneAddresses 2 0).all fun y => canonical y.2 && y.2.toNat % 4 == 0) = true ∧
    met (.sts32 4 2 0 0) (on (crewed []) (loadBefore .plain [fenceBehind])) (fun V => V.fencesOf V.em false true == [fenceBehind] && (spotFault 4 4 (V.spots 2 0)).isNone) = true ∧
    met (.lds32 4 2 0 0) (on (crewed []) (loadBefore .acquire [])) (fun V => V.fencesOf V.em false false == [] && (spotFault 4 4 (V.spots 2 0)).isNone &&
      (V.spots 2 0).any fun x => V.w.blocked (V.spotAsk ⟨4, 4, .scratchLoad false, 1, 0⟩ false x)) = true := by
  and_intros <;> decide +kernel
/-- Fences with lanes and with none, lane and uniform. -/
theorem met_fences : (∀ i ∈ [Instr.fence 5, .fenceAcq 0, .fenceRel 3, .sfence 5], met i base (fun V => V.em != 0) = true) ∧
    (∀ i ∈ [Instr.fence 5, .fenceAcq 0, .fenceRel 3], met i (at_ fun V => { V with p := { V.p with mask := 0 } }) (fun V => V.em == 0) = true) := by
  and_intros <;> decide +kernel
/-- Scratchpad words: a place inside the crew's span; one past its end; a first try, and an accepted access. -/
def presented (V : View) : View := { V with q := { V.q with presented := some { warp := V.wn, slot := V.kn, pc := V.p.pc, accepted := true, at_ := 0 } } }
theorem met_scratchpad :
    (∀ x ∈ ([(.lds128 4 2 0 0, 16, 16), (.sts8 4 2 0 0, 1, 1), (.atsCas 4 2 0 0, 4, 4), (.arset 4 2 0 0, 16, 16), (.aradd 4 2 0 0, 16, 16), (.arpoll 4 2 0 0, 16, 16),
      (.arwait 4 2 0 0, 16, 16)] : List (Instr × Nat × Nat)), ∀ f ∈ [id, presented],
      met x.1 (on (crewed []) fun V => f (V.writeLane 2 fun _ => 1008)) (fun V => (spotFault x.2.1 x.2.2 (V.spots 2 0)).isNone && V.w.pend == [] && V.w.sb == [] &&
        V.fencesOf V.em false true == []) = true) ∧
    (∀ i ∈ [Instr.lds32 4 2 0 0, .sts32 4 2 0 0, .arwait 4 2 0 0], met i noLanes (fun V => V.spots 2 0 == [] && V.fencesOf V.em false true == []) = true) ∧
    met (.arwait 4 2 0 0) (on (crewed []) fun V => presented V) (fun V => (V.spots 2 0).all fun x =>
      decide ((((V.c.asRead V.s.fresh V.c.scratch x.addr 16).word (x.addr + 8)) - V.lane 4 x.lane).toNat ≤ 2 ^ 31)) = true ∧
    met (.lds32 4 2 0 0) base (fun V => (spotFault 4 4 (V.spots 2 0)).map (·.1) == some 0x00C) = true ∧
    met (.lds32 4 2 0 0) (on (crewed []) fun V => V.writeLane 2 fun _ => 1024) (fun V => (spotFault 4 4 (V.spots 2 0)).isSome) = true ∧
    met (.arwait 4 2 0 0) (on (crewed []) fun V => presented (V.writeLane 4 fun _ => 1)) (fun V =>
      (V.spots 2 0).any fun x => decide (2 ^ 31 < ((V.c.asRead V.s.fresh V.c.scratch x.addr 16).word (x.addr + 8) - V.lane 4 x.lane).toNat)) = true := by
  and_intros <;> decide +kernel
/-- The store buffer under a flash point, with room for held sectors and without. -/
theorem met_storeBuffer : ∃ w : Warp, ∃ sn, w.rewind = .flash sn ∧ w.sb = [] ∧
    ((List.range 17).map fun n => (LaneAcc.mk n (BitVec.ofNat 64 (128 * n)) (.mem (128 * n)) 4 0 []).sector).eraseDups.length = 17 :=
  ⟨{ freshWarp 0 0 0 120 0 0 [] 0 with rewind := .flash ⟨[], 0, 0, 0, 0, 0, 0, [], [], [], [], none, 0⟩ }, _, rfl, rfl, by decide +kernel⟩
/-! ### Hypotheses met: units of a core, scheduling, traps, pages, launches -/

/-- The Ladle's words: a count, a list or a completion word out of place; a list in place, with room and without; peer segments in flight. -/
def kicked (first desc cnt : Word) (n : Nat) : State := on (crewed []) fun V =>
  let k : Kick := ⟨9, 0, 0, 0, 1, none, V.w.uid, 0, 1, 0, 0, [], []⟩
  let V : View := { V with c := { V.c with kicks := List.replicate n k } }
  ((V.writeUni 2 first).writeUni 3 desc).writeUni 4 cnt
/-- The last case of CPK: every address inside the span. -/
def kickFits (V : View) : Bool := V.em != 0 && V.w.crewOf 0 == some 0 && (V.uni 3).extractLsb' 22 9 == 0 && (V.uni 2).toNat % 32 == 0 &&
  decide ((V.uni 2).toNat + 32 * (V.uni 4).toNat ≤ 1024)
theorem met_ladleWords :
    met (.cpk 2 4) (kicked 0 0 0 0) (fun V => (V.uni 4).toNat == 0) = true ∧ met (.cpk 2 4) (kicked 0 0 257 0) (fun V => decide (256 < (V.uni 4).toNat)) = true ∧
    met (.cpk 2 4) (kicked 16 0 1 0) (fun V => (V.uni 2).toNat % 32 != 0) = true ∧
    met (.cpk 2 4) (kicked 0 0x80000008 1 0) (fun V => ((V.uni 3).extractLsb' 0 22).toNat % 16 != 0) = true ∧
    met (.cpk 2 4) (kicked 32 0 32 0) (fun V => decide (1024 < (V.uni 2).toNat + 32 * (V.uni 4).toNat)) = true ∧
    met (.cpk 2 4) (kicked 0 0x800003F0 31 15) kickFits = true ∧ met (.cpk 2 4) (kicked 0 0 32 16) kickFits = true ∧
    met (.cpq 5) (kicked 0 0 0 3) (fun _ => true) = true ∧
    met .pdrain base (fun V => !V.c.peerWork V.s.fresh V.w.uid && V.s.peerSegs == []) = true ∧
    met .pdrain { base with peerSegs := [⟨7, 0, 0, 0, 0, 0, 0, 0, 0, 0, true, 0, 0, []⟩] } (fun V => !V.c.peerWork V.s.fresh V.w.uid && V.s.peerSegs.all (·.settled)) = true ∧
    met .pdrain { base with peerSegs := [⟨7, 0, 0, 0, 0, 0, 0, 0, 0, 0, false, 0, 0, []⟩] } (fun V => V.s.peerSegs.any fun p => p.warpUid == V.w.uid && !p.settled) = true ∧
    met .pdrain (on (crewed []) fun V => { V with c := { V.c with scratch := [(24, 0x80)], kicks := [⟨9, 0, 0, 0, 1, none, V.w.uid, 0, 1, 0, 0, [], []⟩] } })
      (fun V => V.c.peerWork V.s.fresh V.w.uid) = true := by
  and_intros <;> decide +kernel

/-- A core with two reservations, of one granule each: handle 0 of a side A of FP16, handle 1 of a side B. -/
def reserved (f : View → View) : State := on base fun V =>
  let r : Reservation := ⟨0, 16, 0, 0, false, none, none, 0, 0, 0, 0⟩
  f { V with c := { V.c with res := [(0, r), (1, { r with base := 16, desc := 0x40 })] } }
/-- The warp on core 1, the odd one of its pair; with an acquire that is not bound yet. -/
def onOdd (s : State) : State := { s with cores := [(1, s.core 0)], focusCore := 1 }
def acquiring (V : View) : View := { V with w := { V.w with seq := 1, pend :=
  [⟨0, 0, 0, 0, false, [40], .load false .acquire, 0xFFFFFFFF, [⟨0, 0x40, .mem 0x40, 4, 0, []⟩], [], false, 0, [], []⟩] } }
/-- The Larder's words. -/
theorem met_larderWords :
    (∀ i ∈ [Instr.lres 1 2 3, .lrel 2, .lbind 2 4], met i (on (onOdd base) acquiring) (fun V => V.em != 0 && V.cn % 2 == 1 && V.owesAcquire) = true ∧
      met i (onOdd base) (fun V => V.em != 0 && V.cn % 2 == 1 && !V.owesAcquire) = true) ∧
    (∀ i ∈ [Instr.lres 1 2 3, .lrel 2, .lbind 2 4, .prset 0 2, .oprdy], met i (at_ fun V => { V with p := { V.p with mask := 0 } }) (fun V => V.em == 0) = true ∧
      met i base (fun V => V.em != 0) = true) ∧
    met (.lrel 2) (reserved id) (fun V => (V.c.tidy.handle V.w.ctx (V.lane 2 0).toNat).isSome && !V.s.handleBusy V.cn 0 && V.w.rewind == .full) = true ∧
    met (.lbind 2 4) (reserved id) (fun V => bindOk 0 (V.lane64 4 0) 0) = true ∧
    met (.lbind 2 4) (reserved fun V => V.writeLane 4 fun _ => 1) (fun V => !bindOk 0 (V.lane64 4 0) 0) = true ∧
    met (.prset 7 2) (withLane [(2, 0x7FFF)]) (fun V => !prValid (V.lane 2 0)) = true ∧ met (.prset 7 2) (withLane [(2, 0x13FF)]) (fun V => prValid (V.lane 2 0)) = true ∧
    met (.prget 1 7) base (fun _ => true) = true := by
  and_intros <;> decide +kernel
/-- A view whose core holds the granules of `s`, whose launch grants `limit`, and which a reservation of `g` granules meets at granule `b` first. -/
def resFree (V : View) (g b : Nat) : Bool := decide (b + g ≤ 256) && V.c.tidy.res.all fun e => decide (b + g ≤ e.2.base ∨ e.2.base + e.2.count ≤ b)
def resGrants (limit g : Nat) (s : State) : Bool := match ({ s with launches := [(0, { Launch.blank with larderKib := limit })] } : State).view with
  | some V => decide (((V.c.tidy.res.filter fun r => decide (r.2.ctx = V.w.ctx)).map fun r => r.2.count).sum + g ≤ limit)
  | none => false
def foreign (V : View) : View := { V with c := { V.c with res := V.c.res.map fun r => (r.1, { r.2 with count := 200, ctx := 1 }) } }
/-- LRES in each of its cases: a wrong descriptor, a length out of range, no handle left, the grant at its limit and passed, a place, and no place. -/
theorem met_reservations : resGrants 34 2 (reserved id) = true ∧ resGrants 33 2 (reserved id) = false ∧
    (match (reserved id).view with
      | some V => resFree V 2 32 && !resFree V 2 31 && !resFree V 225 31 && !resFree V 225 32
      | none => false) = true ∧
    (match (reserved foreign).view with
      | some V => (List.range 256).all fun b => !resFree V 57 b
      | none => false) = true ∧ descWrong 0x400 = true ∧ descWrong 0 = false ∧ descT 0 ≤ 262144 ∧ 262144 < 262145 ∧
    (∀ h, h < 16 → Table.find ((List.range 16).map fun h => (h, (⟨h, 1, 0, 0, false, none, none, 0, 0, 0, 0⟩ : Reservation))) h ≠ none) := by
  and_intros <;> decide
/-- The matrix words: an empty mask; a full queue; room, with operands that a step takes, and with none; a register location. -/
def tzeroOp : MatOp := ⟨0, .tzero, 0, 0, Operand.none, Operand.none, Operand.none, 0, 0, none, 0, 0, 0, 0, 0, 0, 1, 64, 0, false, false, 0⟩
def queued (n : Nat) : State := reserved fun V => { V with q := { V.q with mq := List.replicate n tzeroOp } }
theorem met_matrixWords :
    (∀ i ∈ [Instr.tzero 1, .tnorm 1, .mma 1 1 0 1, .mmap 1 1 0 1, .tst 1 1 0 2, .tld 1 1 8 2],
      met i (at_ fun V => { V with p := { V.p with mask := 0 } }) (fun V => V.em == 0) = true ∧ met i (queued 3) (fun V => V.em != 0 && decide (V.q.mq.length < 4)) = true) ∧
    met (.tnorm 7) (queued 4) (fun V => decide (4 ≤ V.q.mq.length)) = true ∧ met (.tchk 1 1) (queued 3) (fun V => V.p.wait == .none) = true ∧
    met (.mma 1 1 0 0) (queued 0) (fun V => (({ V with c := V.c.tidy } : View).stepFault false 1 0 0).isSome) = true ∧
    met (.mma 1 1 2 2) (queued 0) (fun V => (({ V with c := V.c.tidy } : View).stepFault false 1 2 2).isSome) = true ∧
    met (.tst 1 1 0 2) (on (queued 3) fun V => V.writeLane 2 fun _ => 0x80000008) (fun V => (({ V with c := V.c.tidy } : View).xferFault 0 (V.lane 2 0)).isNone) = true := by
  and_intros <;> decide +kernel
/-- The core 1 of the pair, with or without a tenant and a reservation of the same side B. -/
def followed (t : Option Nat) : State := let s := queued 3
  { s with cores := s.cores.put 1 { s.core 0 with quads := [], tenant := t } }
theorem met_matrixSteps : met (.mma 1 1 0 1) (queued 3) (fun V => (({ V with c := V.c.tidy } : View).stepFault false 1 0 1).isNone) = true ∧
    met (.mmap 1 1 0 1) (followed (some 0)) (fun V => (({ V with c := V.c.tidy } : View).stepFault true 1 0 1).isNone &&
      (V.s.core (V.cn + 1)).tenant == some (V.w.ctx / 64) && !V.owesAcquire && decide (V.q.mq.length < 4)) = true ∧
    met (.mmap 1 1 0 1) (followed none) (fun V => (({ V with c := V.c.tidy } : View).stepFault true 1 0 1).isNone &&
      (V.s.core (V.cn + 1)).tenant != some (V.w.ctx / 64)) = true ∧
    met (.mmap 1 1 0 1) (on (followed (some 0)) acquiring) (fun V => (({ V with c := V.c.tidy } : View).stepFault true 1 0 1).isNone && V.owesAcquire) = true ∧
    met (.tzero 1) (on (onOdd base) acquiring) (fun V => V.em != 0 && V.cn % 2 == 1 && V.owesAcquire) = true ∧
    met (.tst 1 1 0 2) (withLane [(2, 0xC0000000)]) (fun V => !locOk (V.lane 2 0)) = true ∧
    met (.tld 1 1 0 2) (on (queued 3) fun V => V.writeLane 2 fun _ => 0x80000078) (fun V => locOk (V.lane 2 0) && V.rangeFault 0 (V.lane 2 0) == some 0x006) = true := by
  and_intros <;> decide +kernel
theorem met_matrixWaits :
    (∀ i ∈ [Instr.mwait 2, .texp 1 2], met i (at_ fun V => { V with p := { V.p with mask := 0 } }) (fun V => V.em == 0) = true) ∧
    met (.mwait 2) (withLane [(2, 0x100000)]) (fun V => ((V.lane 2 0).extractLsb' 20 12).toNat != V.w.ctx % 4096) = true ∧
    met (.mwait 2) base (fun V => ((V.lane 2 0).extractLsb' 20 12).toNat == V.w.ctx % 4096 && V.c.ops.all fun o => o.ticket != some 0) = true ∧
    met (.mwait 2) (on (queued 1) fun V => { V with q := { V.q with mq := V.q.mq.map fun o => { o with ticket := some 0 } } })
      (fun V => V.c.ops.any fun o => o.ticket == some (V.lane 2 0)) = true ∧
    met (.texp 1 2) base (fun V => V.p.wait == .none && !V.c.tileBusy 2 V.s.nextUid) = true ∧
    met (.tchk 1 2) (at_ fun V => { V with p := { V.p with wait := .tchked none } }) (fun V => V.p.wait == .tchked none) = true ∧
    met (.tchk 1 2) (at_ fun V => { V with p := { V.p with wait := .tchked (some 5) } }) (fun V => V.p.wait == .tchked (some 5)) = true ∧
    met (.mwait 2) (at_ fun V => { V with w := { V.w with trap := { V.w.trap with deferred := [⟨3, 0x080, 0x40, 0, 1, none, some 0, some 1, none, false⟩] } } })
      (fun V => V.w.handler.isNone && V.w.trap.deferred.any fun x => x.ticket == some 0) = true ∧
    met (.mwait 2) (at_ fun V => { V with c := { V.c with hazes := [⟨0, 0, 5, .tile, 1, 1, [], 1, none, none⟩, ⟨0, 0, 0, .tile, 1, 1, [], 2, none, none⟩] } })
      (fun V => V.lane 2 0 == 0 && V.c.hazy .tile 1 && V.c.hazes.all fun h => h.ticket == 0 || decide (h.op < 2)) = true ∧
    met (.texp 1 2) (on (queued 3) fun V => { V with p := { V.p with wait := .tchk 9 }, q := { V.q with mq := V.q.mq.map fun o => { o with tile := 2 } } })
      (fun V => V.c.tileBusy 2 9 && V.p.wait == .tchk 9) = true := by
  and_intros <;> decide +kernel

/-- A running launch of context 1, beside that of the base state. -/
def withLive : State := { base with launches := base.launches.put 1 { Launch.blank with ctx := 1, started := true } }
theorem met_scheduling :
    met .yield base (fun _ => true) = true ∧ met (.budget 2) base (fun _ => true) = true ∧
    met (.nap 2) (withUni [(2, 16777217)]) (fun V => decide (16777216 < (V.uni 2).toNat)) = true ∧
    met (.nap 2) base (fun V => V.uni 2 == 0) = true ∧ met (.nap 2) (withUni [(2, 16777216)]) (fun V => V.uni 2 != 0 && V.w.nap == none) = true ∧
    met (.nap 2) (on (withUni [(2, 1)]) fun V => { V with w := { V.w with nap := some (90, false) } }) (fun V => V.w.nap == some (90, false)) = true ∧
    met (.donate 2) (withUni [(2, 0x1000)]) (fun V => (V.uni 2).extractLsb' 12 19 != 0) = true ∧
    met (.donate 2) base (fun V => (V.uni 2).extractLsb' 0 12 == 0 && V.w.ctx == 0) = true ∧
    met (.donate 2) (withUni [(2, 0x80000000)]) (fun V => (V.uni 2).getLsbD 31 && (V.uni 2).extractLsb' 0 31 == 0) = true ∧
    met (.donate 2) { withLive with cores := (withUni [(2, 1)]).cores } (fun V => V.uni 2 == 1 && V.w.ctx == 0 && V.s.liveCtx 1) = true := by
  and_intros <;> decide +kernel

/-- A state in which a word issues, at user level; a warp inside a handler whose CAUSE, EPC and FMASK are as it entered, or edited. -/
theorem met_taking : ∃ V, base.view = some V ∧ V.super = false := ⟨_, rfl, by decide⟩
def handling (cause : BitVec 9) (epc : Dword) (m : Word) : State := at_ fun V => { V with
  w := { V.w with handler := some ⟨V.kn, List.replicate 8 7, 0x40, false⟩, trap := { V.w.trap with inHandler := true, cause := cause, epc := epc, fmask := m } } }
theorem met_returns : (∀ s ∈ [handling 0x049 0x40 1, handling 0 0x40 0, handling 0x049 0x80 1],
      met .eret s (fun V => (V.w.handler.map (·.saved.length)) == some 8 && (V.w.trap.cause == 0 || V.w.trap.cause == 0x049) &&
        V.w.trap.fmask &&& ~~~V.p.mask == 0 && canonical V.w.trap.epc && V.w.trap.epc.extractLsb' 0 2 == 0) = true) ∧
    (∀ s ∈ [handling 0x049 0x42 1, handling 0x049 0x8000000000000000 1, on (handling 0x049 0x40 1) fun V => { V with p := { V.p with mask := 2 } }],
      met .eret s (fun V => V.w.trap.cause == 0x049 && (V.w.trap.fmask &&& ~~~V.p.mask != 0 || !canonical V.w.trap.epc || V.w.trap.epc.extractLsb' 0 2 != 0)) = true) ∧
    met .eret (handling 0x041 0x40 1) (fun V => V.w.trap.cause != 0 && V.w.trap.cause != 0x049) = true := by
  and_intros <;> decide +kernel
theorem met_trapWords : ∀ i ∈ [Instr.trap 0, .trap 63, .bkpt, .svc 0x7FFF], met i base (fun V => V.p.ends == .plain && !V.p.parked &&
    (V.w.div.slot (other V.kn)).isNone && V.w.div.n == 0 && decide (V.kn ≤ 1) && !V.w.trap.halted) = true ∧
    met i (handling 0x049 0x40 1) (fun V => V.w.handler.any fun h => h.slot == V.kn) = true := by decide +kernel

/-- A context whose root at 0x10000 leads to a node at 0x20000 whose first entry, of 1 GiB from address 0, has low byte `e`; its warp a supervisor's. -/
def paged (e : Byte) : State := on
  { base with contexts := [(0, { Context.blank with root := some 0x10000 })], mem := [(0x10000, 0x01), (0x10002, 0x02), (0x20000, e)] }
  fun V => { V with w := { V.w with handler := some ⟨V.kn, List.replicate 8 0, 0, false⟩ } }
theorem met_pages :
    met (.probe 4 2 0) base (fun V => decide (V.w.pendingCount + 1 ≤ 32)) = true ∧
    met (.pgtake 4 2) (on (paged 3) fun V => V.writeUni 3 0x8000) (fun V => !canonical (V.uni64 2) && V.p.wait == .none) = true ∧
    met (.pgtake 4 2) (paged 0) (fun V => V.s.walk V.w.ctx (V.uni64 2).toNat == .unmapped && V.p.wait == .none) = true ∧
    met (.pgtake 4 2) (paged 3) (fun V => V.s.walk V.w.ctx (V.uni64 2).toNat == .leaf 2 3 && V.p.wait == .none) = true ∧
    met (.pgtake 4 2) (paged 0x22) (fun V => V.s.walk V.w.ctx (V.uni64 2).toNat == .firstTouch 2 0x22 && V.p.wait == .none && V.s.takes == [] &&
      (V.s.startTake V.w.ctx V.w.launch 0).isNone) = true ∧
    met (.pgtake 4 2) { paged 0x22 with launches := [(0, { Launch.blank with pool := 16384 })] } (fun V => V.s.walk V.w.ctx (V.uni64 2).toNat == .firstTouch 2 0x22 &&
      V.p.wait == .none && V.s.takes == [] && (V.s.startTake V.w.ctx V.w.launch 0).isSome) = true ∧
    met (.pgtake 4 2) (on { paged 0 with takes := [(5, ⟨0, 0, 0, 0, some 0⟩)] } fun V => { V with p := { V.p with wait := .pgtake 5 } })
      (fun V => V.p.wait == .pgtake 5 && (V.s.takes.find 5).bind (·.result) == some 0) = true ∧
    met (.maprq 4 2 6) base (fun V => (V.uni 6).toNat == 0) = true ∧ met (.maprq 4 2 6) (withUni [(6, 65)]) (fun V => decide (64 < (V.uni 6).toNat)) = true ∧
    met (.maprq 4 2 6) (on { mapped with cores := (withUni [(6, 64)]).cores } id) (fun V => (V.uni 6).toNat == 64 && V.w.pend == [] && V.w.sb == [] &&
      (V.s.ctx V.w.ctx).mapq == [] && V.recordPlace 0 == .ok (.mem 0) && V.recordPlace 2016 == .ok (.mem 2016)) = true ∧
    met (.maprq 4 2 6) (on (withUni [(6, 1), (3, 0x8000)]) id) (fun V => !canonical (V.uni64 2) && !V.w.mgmt) = true ∧
    met (.maprq 4 2 6) (withUni [(6, 1), (2, 16)]) (fun V => canonical (V.uni64 2) && (V.uni64 2).toNat % 32 != 0) = true ∧
    met (.maprq 4 2 6) (withUni [(6, 2)]) (fun V => V.w.pend == [] && V.w.sb == [] && match V.recordPlace 0, V.recordPlace 32 with
      | .fault c, .fault e => decide (causeRank c ≤ causeRank e)
      | _, _ => false) = true ∧
    met (.maprq 4 2 6) (on { mapped with cores := (withUni [(6, 2), (2, 0x3FFFFFE0)]).cores } id) (fun V => match V.recordPlace 0x3FFFFFE0, V.recordPlace 0x40000000 with
      | .ok _, .fault _ => true
      | _, _ => false) = true ∧
    met (.maprq 4 2 6) (on { withUni [(6, 1)] with contexts := [(0, { Context.blank with mapq := List.replicate 256 0 })] } id)
      (fun V => decide (256 ≤ (V.s.ctx V.w.ctx).mapq.length)) = true := by
  and_intros <;> decide +kernel
/-- TRACE with tracing off, and with it on for every context. -/
theorem met_trace : met (.trace 2 9) base (fun V => !V.c.sampler.ctl.getLsbD 1) = true ∧
    met (.trace 2 9) (at_ fun V => { V with c := { V.c with sampler := { Sampler.blank with ctl := 2, period := 16, cap := 1 } } })
      (fun V => !V.w.mgmt && V.c.sampler.ctl.getLsbD 1 && V.c.sampler.valid) = true := by
  and_intros <;> decide +kernel
/-- LAUNCH of a record that can be read, and not; LWAIT with and without its child running. -/
theorem met_children :
    met (.launch 4 2) (withUni [(3, 0x8000)]) (fun V => !canonical (V.uni64 2)) = true ∧ met (.launch 4 2) (withUni [(2, 64)]) (fun V => (V.uni64 2).toNat % 128 != 0) = true ∧
    met (.launch 4 2) (mappedAt 0x80) (fun V => V.s.childrenOut V.w.ctx == 0 && V.w.pend == [] && V.w.sb == [] &&
      V.s.translate V.cn V.w.mgmt V.w.ctx .read (V.uni64 2).toNat == .ok (.mem 0x80)) = true ∧
    met (.lwait 2) base (fun V => V.s.launches.all fun L => L.2.parent.isNone) = true ∧
    met (.lwait 2) { base with launches := [(0, { Launch.blank with parent := some 7 })] } (fun V => V.s.launches.all fun L => L.1 == V.w.launch && L.2.rcd.id == V.uni 2) = true ∧
    met (.lwait 2) { base with launches := base.launches.put 1 { Launch.blank with parent := some 0 } } (fun V => V.s.launches.any fun L => L.1 != V.w.launch && L.2.ctx == V.w.ctx &&
      L.2.parent.isSome && L.2.rcd.id == V.uni 2 && !L.2.complete) = true := by
  and_intros <;> decide +kernel
/-! ### Hypotheses met: events of a core -/

/-- The warp of the base state, and the base state with that warp changed. -/
def warp0 : Warp := loadedWarp 0x99200000
def withWarp (f : Warp → Warp) (s : State := base) : State := s.setWarp 0 0 0 (f warp0)
def noRun (w : Warp) : Warp := { w with div := { w.div with s0 := some (freshPath 0 0xFFFFFFFF 0 false) } }
/-- With its path's words fetched. -/
def fetched (w : Warp) : Warp := { w with div := { w.div with s0 := w.div.s0.map fun p => { p with fetched := true } } }
/-- No slot selected; its run open or not; NOP and a trailer at 0, or nothing. -/
def unselected (f : Warp → Warp) (code : Memory) : State :=
  let s := { mapped with mem := code }
  s.setQuad 0 0 { ((s.core 0).quad 0) with sel := none, temps := [], warps := [(0, fetched (f warp0))], last := 15 }
def nopCode : Memory := [(2, 0x20), (3, 0x99), (4, 0xE0), (5, 0xFF), (6, 0xE7), (7, 0xFF)]
/-- The premises of a selection of warp 0. -/
def selects (s : State) : Bool :=
  let c := s.core 0
  let q := c.quad 0
  (q.sel.bind fun x => s.viewAt 0 0 x.1 x.2).isNone && (q.warps.all fun x => x.2.hits.isEmpty && x.2.div.n == 0) &&
    match q.warps.find ((q.last + 1 + 0) % 16) with
    | some w => s.ready 0 c q ((q.last + 1 + 0) % 16) w && s.chooseSlot c q w == some 0
    | none => false
/-- A run broken before its first word issued: it holds no temporary set. -/
def unissued (w : Warp) : Warp := { w with div := { w.div with s0 := w.div.s0.map fun p => { p with run := p.run.map fun r => { r with set := 8 } } } }
/-- A trailer match that is due. -/
def hitting (w : Warp) : Warp := { noRun w with hits := [⟨3, 0x40, 0, 1⟩] }
theorem met_trailerHits : let s := unselected hitting nopCode
    ((((s.core 0).quad 0).sel.bind fun x => s.viewAt 0 0 x.1 x.2).isNone && (((s.core 0).quad 0).warps.all fun x =>
      x.2.hits == [⟨3, 0x40, 0, 1⟩] && !x.2.trap.halted && x.2.trap.deferred == [] && x.2.trap.watch.isEmpty && x.2.div.n == 0)) = true := by decide +kernel
theorem met_selection : selects (unselected noRun nopCode) = true ∧ selects (unselected id nopCode) = true ∧ selects (unselected noRun []) = true ∧
    selects (unselected unissued nopCode) = true ∧
    (∀ s ∈ [unselected noRun nopCode, unselected noRun []], ((s.core 0).quad 0).freeSet = some 0) ∧
    ((unselected noRun nopCode).setQuad 0 0 { (((unselected noRun nopCode).core 0).quad 0) with last := 0 }).readRun 0 warp0 25 [] false 0 = .run [0x99200000, 0xFFE7FFE0] := by
  and_intros <;> decide +kernel
/-- The fetch of a path whose words are there, and of one whose page migrates. -/
theorem met_fetches : (match base.readRun 0 (noRun warp0) 25 [] false 0 with
      | .wait _ => false
      | _ => true) = true ∧
    (match (paged 0x92).readRun 0 (noRun warp0) 25 [] false 0 with
      | .wait _ => true
      | _ => false) = true := by
  and_intros <;> decide +kernel
theorem met_selectionOfNone : ((((Quadrant.blank).sel.bind fun x => State.reset.viewAt 0 0 x.1 x.2)).isNone && (Quadrant.blank.warps.all fun _ => false)) = true := by decide

/-- Producers: a load with its value, and a WBL that is posted and done; a load and an atomic of a line that is there, and of one that is not. -/
def acc0 : LaneAcc := ⟨0, 0x40, .mem 0x40, 4, 7, []⟩
def loadOp : LongOp := ⟨0, 0, 0, 0, false, [4], .load false .plain, 1, [acc0], [(0, 5)], false, 0, [], []⟩
def pending (o : LongOp) : State := withWarp (fun w => { w with pend := [o], seq := 1 })
/-- Field 0 owns line 0. -/
def lineHere (s : State) : State := { s with fields := mine.fields }
theorem met_producers :
    (match (pending loadOp).bindAll 0 { warp0 with pend := [loadOp], seq := 1 } loadOp with
      | (_, o) => o.open_ == [] && decide (o.dest.Nodup ∧ (o.vals.map (·.1)).Nodup ∧ ∀ v ∈ o.vals, v.1 < 32)) = true ∧
    ((pending { loadOp with kind := .wbl, posted := true }).stillPosted 0 warp0 { loadOp with kind := .wbl, posted := true }) = false ∧
    warp0.blocked ({ loadOp with vals := [] }.ask acc0) = false ∧ warp0.laneStoreNewer 0 acc0 = false ∧
    (lineHere base).readable (fieldOf 0) (lineOf 0x40) = true ∧ (lineHere base).writable (fieldOf 0) (lineOf 0x40) = true ∧
    base.readable (fieldOf 0) (lineOf 0x40) = false ∧ base.writable (fieldOf 0) (lineOf 0x40) = false ∧
    warp0.allForwarded 0 acc0 = false ∧ (base.core 0).l1Hit 0 0x40 = false := by decide +kernel
/-- A store that nothing holds back, to memory that its field may write and not, to a window, and to a group. -/
def stored (l : Loc) : BufStore := ⟨0, 0, 1, { acc0 with loc := l }, .plain, false, 0, 0, [], none, false⟩
def storing (l : Loc) : Warp := { warp0 with sb := [stored l] }
theorem met_stores : (∀ l ∈ [Loc.mem 0x40, .window 0 0x80000, .bcast 0 0x80000], (storing l).blocked (stored l).ask = false) ∧
    (lineHere base).sentTo (fieldOf 0) (lineOf 0x40) = [] ∧ base.onItsWay (.store 0 0 0) = false ∧
    (stored (.window 0 0x80000)).acc.sameTarget (stored (.window 0 0x90000)).acc = true ∧ (stored (.window 0 0x80000)).acc.sameTarget (stored (.window 1 0x80000)).acc = false ∧
    ({ stored (.bcast 0 0x80000) with acc := { (stored (.bcast 0 0x80000)).acc with reach := [0] } }.acc.sameTarget (stored (.window 0 0x90000)).acc = true) ∧
    base.messagesTo 0 1 = [] ∧ (withWarp fun w => { w with sb := [{ stored (.window 1 0x80000) with sent := some 4 }] }).messagesTo 0 1 = [4] ∧
    base.pairHeld 0 1 = false := by
  decide +kernel
/-- Quadrant 0 presents; cycle 7 is the reserved one. -/
def presenting (cycle : Nat) : State := on (crewed []) fun V => { V with
  c := { V.c with cycle := cycle }
  p := { V.p with wait := .held 4 }
  q := { V.q with presented := some ⟨V.wn, V.kn, V.p.pc, false, 0⟩, turn := some ⟨cycle, V.wn, V.kn, V.p.pc, some 4⟩ } }
theorem met_accepts : (∀ n, n < 4 → (((presenting 7).core 0).quad n).presents true = none) ∧ (((presenting 7).core 0).quad 0).presents false = some ⟨0, 0, 0, false, 0⟩ ∧
    (presenting 7).acceptDue 0 = false ∧ (presenting 8).acceptDue 0 = true := by
  and_intros <;> decide +kernel

/-- Rotation of a warp with entries and without; a slot that gives up; a nap in force; an LREL that waits; a JOIN that waits. -/
def rotating (n : Nat) : Warp := { noRun warp0 with div := { (noRun warp0).div with n := n, top := if n = 0 then none else some ⟨0x80, 0, false, 0xF⟩, progress := 65536 } }
theorem met_rotations :
    (rotating 1).div.progress = 65536 ∧ (rotating 1).div.giveUp = none ∧ (rotating 1).div.n ≠ 0 ∧ (rotating 0).div.top = none ∧
    (∀ n ∈ [1, 2], (withWarp (fun _ => rotating n) mine).regionAll 0 false 0 0 true ((List.range ((rotating n).div.n - if (rotating n).div.top.isSome then 1 else 0)).map fun i =>
      (withWarp (fun _ => rotating n) mine).ringVa 0 0 0 (rotating n) ((rotating n).div.b + i)) = .ok ((List.range (n - 1)).map (16 * ·))) ∧
    (withWarp (fun _ => rotating 1) mine).regionAll 0 false 0 0 true [(withWarp (fun _ => rotating 1) mine).ringVa 0 0 0 (rotating 1) 15] = .ok [240] ∧
    ((withWarp (fun _ => rotating 2) mine).readRing 0 0 0 (rotating 2) 0 0).isLeft = true ∧
    (withWarp (fun w => { w with nap := some (1, true) }) (unselected noRun nopCode)).comes 0 1 = true ∧
    (withWarp (fun w => { w with nap := some (90, true) })).comes 0 90 = false := by decide +kernel
theorem met_waitsEnd :
    ((at_ fun V => { V with p := { V.p with wait := .lrel 0 } }).viewAt 0 0 0 0).map (·.p.wait) = some (.lrel 0) ∧ base.handleBusy 0 0 = false ∧
    ((at_ fun V => { V with p := { V.p with wait := .join } }).viewAt 0 0 0 0).map (·.p.wait) = some .join ∧
    (withWarp id).warpFree 0 ((withWarp id).core 0) warp0 = true ∧
    (base.view.map fun V => V.joinWaits (V.lane 2)) = some false ∧
    ((on (crewedLane0 fun V => { V with w := { V.w with remap := [] } }) fun V => { V with c := { V.c with crews := V.c.crews.map fun k => (k.1, { k.2 with limit := 0, members := [] }) } }).view.map
      fun V => V.joinWaits (V.lane 2)).isSome = true := by
  and_intros <;> decide +kernel

/-- An empty crew that nothing names; a bin of one thread whose launch runs; a launch with warps to create; a warp with no thread left. -/
def aThread : ThreadRec := ⟨0x100, 3, none, [9], 0, 1, 0, 0, 0, 0, none⟩
def binned : State := let s := { base with launches := [(0, { Launch.blank with rcd := { LaunchRec.blank with threads := 64 } })] }
  s.setCore 0 { s.core 0 with bins := [(0, ⟨0, 0x100, none, [aThread], true⟩)] }
theorem met_warpsStart :
    (({ base.core 0 with crews := [(0, ⟨0, 0, 0, 0, 1, 32, [], 0, [], [], [], [], false, false⟩)] } : Core).crewNamed 0) = false ∧
    (binned.setCore 0 { binned.core 0 with cycle := 100000 }).comes 0 (aThread.cycle + LaunchRec.blank.timer) = true ∧ ((binned.core 0).bins.all fun b => b.2.ready) = true ∧
    (binned.core 0).released [aThread] = true ∧ binned.holdsCore 0 0 = true ∧ (binned.createWarp 0 0 0x100 [(3, [9])]).isSome = true ∧
    ((binned.launches.find 0).bind (·.nextWarp 0)) = some 1 ∧
    (binned.createWarp 0 0 0 ((List.range 32).map fun i => (BitVec.ofNat 32 (32 + i), []))).isSome = true := by
  decide +kernel
theorem met_warpEnds : ∃ w : Warp, w.div.s0 = none ∧ w.div.s1 = none ∧ w.div.n = 0 ∧ w.pend = [] ∧ w.sb = [] ∧ w.trap.halted = false ∧
    (withWarp (fun _ => w)).warp 0 0 0 = some w ∧ ((withWarp (fun _ => w)).core 0).array = none :=
  ⟨{ warp0 with div := { warp0.div with s0 := none } }, rfl, rfl, rfl, rfl, rfl, rfl, by decide +kernel, by decide +kernel⟩
/-! ### Hypotheses met: events of memory and of the units -/

/-- A message of each kind at the head of bus 0 of cluster 0. -/
def posted (k : MsgKind) (s : State := base) : State :=
  { s with clusters := [(0, { Cluster.blank 0 with buses := [(0, [⟨k, 0, 0, none⟩])] })] }
/-- Line 0 dirty; field 1 its owner, and field 0 its requester. -/
def dirtyLine : L2Line := ⟨0, .M, true, true, true, false, 1, 0, 0, 0, 0⟩
def ownedElsewhere : State :=
  { base with fields := [(0, { Field.blank with dir := [(0, ⟨.owned 1, .none⟩)], txns := [⟨0, false, 0, false, false, none⟩] }), (1, { Field.blank with l2 := [dirtyLine] })] }
def sharedElsewhere : State := { base with fields := [(0, { Field.blank with dir := [(0, ⟨.shared, .none⟩)] }), (1, { Field.blank with l2 := [{ dirtyLine with st := .S }] })] }
theorem met_busMessages :
    (∀ k ∈ [MsgKind.getS, .getM, .put, .clean, .disc, .hGetS 0, .hGetM 0 none, .hGetM 0 (some [(0, 1), (255, 2)]), .snpData, .snpInv, .snpCur],
      ((posted k).cluster 0).buses.find 0 = some [⟨k, 0, 0, none⟩] ∧ (posted k).hostWait 0 = false) ∧
    (posted .getS).hostNeeds 0 false = false ∧ (posted .getM).hostNeeds 0 true = false ∧ ((posted .getS).field 0).line 0 = none ∧
    ((posted .getS).dirEntry 0).st = .uncached ∧ ((posted .getS ownedElsewhere).dirEntry 0).st = .owned 1 ∧ ((posted .getS ownedElsewhere).field 0).line 0 = none ∧
    ((posted .getS sharedElsewhere).dirEntry 0).st = .shared ∧ (posted .getM ownedElsewhere).hostNeeds 0 true = false ∧ isHost 0 = false ∧
    ((posted .put (lineHere base)).dirEntry 0).st = .owned 0 ∧ ((posted .clean ownedElsewhere).field 1).line 0 = some dirtyLine ∧
    ((posted .put ownedElsewhere).dirEntry 0).st ≠ .owned 0 ∧ (posted .clean).ownerOf 0 = none ∧
    (∀ own, (({ base with fields := [(0, { Field.blank with dir := [(0, ⟨.uncached, .EM⟩)] })] } : State)).hostNeeds 0 own = true) ∧
    base.hostNeeds (0xC000_0000_0000 / 256) false = true := by
  decide +kernel
/-- Data on their way to field 0; a line that waits for the host. -/
theorem met_dataComes :
    ({ base with fields := [(0, { Field.blank with l2 := [{ dirtyLine with st := .E, v0 := false, v1 := false, d0 := false }], txns := [⟨0, false, 0, true, false, none⟩] })] : State}.field 0).txns
      = [⟨0, false, 0, true, false, none⟩] ∧
    (∀ x ∈ [(⟨0, false, 0, true, false, some 3⟩ : Txn), ⟨0, false, 0, false, false, none⟩, ⟨0, true, 0, true, true, none⟩],
      x.applied = false ∨ x.waitHost = true ∨ x.after ≠ none) ∧
    (([(0, { Field.blank with txns := [⟨5, true, 0, false, true, none⟩] })] : Table Field).filterMap fun f => (f.2.txns.find? fun t => t.line == 5 && t.waitHost).map fun t => (f.1, t)) ≠ [] ∧
    (([(0, 1), (255, 2)] : List (Nat × Byte)).map (·.1)).Nodup := by decide +kernel
/-- A port that serves a line, and one that does not; no message of the host's queued; a host line that the device holds, and one that it does not. -/
def hostLine : Nat := 0xC000_0000_0000 / 256
theorem met_hostAccesses : ({ base with tenants := [(0, { Tenant.blank with ranges := [(0, 256)] })], ports := [(0, { Port.blank 0 with decoders := [(0x100000, 256, 0)] })] } : State).portServes 0 0 = true ∧
    ({ base with tenants := [(0, { Tenant.blank with ranges := [(0, 512)] })], ports := [(0, { Port.blank 0 with decoders := [(0x100000, 256, 0)] })] } : State).portServes 0 1 = false ∧ base.portServes 8 0 = false ∧
    base.holdsLine 0 = false ∧ (lineHere base).ownerOf 0 = some 0 ∧ (∀ k ∈ [MsgKind.hGetS 0, .hGetM 0 none, .snpData, .snpInv, .snpCur], base.hostQueued k hostLine = false) ∧
    ({ base with fields := [(0, { Field.blank with l2 := [{ dirtyLine with line := hostLine }] })] } : State).holdsLine hostLine = true ∧ isHost (256 * hostLine) = true := by
  decide +kernel

/-- Window ranges that are let through, and refused; a held granule; a register row of a warp; a delivery with an arrival and without. -/
theorem met_windowAccesses :
    base.windowRangeCheck 0 0x80000 4 none false = none ∧ base.windowRangeCheck 0 0x1FFFFC 4 none false = some 0x045 ∧
    base.windowRangeCheck 0 0xC9FFC 4 none true = none ∧ base.windowRangeCheck 0 0x100000 4 none true = none ∧ base.windowRangeCheck 0 0x13FFFC 4 none true = none ∧
    ((crewed []).core 0).granuleHeld 0 = true ∧ ((base.core 0).quad 0).rowHeld 0 = true ∧ (((base.core 0).quad 0).putRow 0 0#32).undefAt 0 = none ∧
    base.windowRangeCheck 0 0 4 none true = none ∧
    base.windowRangeCheck 0 0x18C000 8 none true = none ∧ base.windowRangeCheck 0 0x18D1F8 8 none true = none ∧ (base.core 0).absent = false ∧
    (({ base with groups := [(7, 0)] } : State).core 0).tenant = ({ base with groups := [(7, 0)] } : State).groups.find 7 ∧
    (base.core 2687).tenant = none ∧ State.reset.onItsWay (.peer ⟨5, 0, 0⟩ 0 6) = false ∧
    (∃ d ∈ (({ base with ports := [(2, { Port.blank 2 with decoders := [(0, 0x1000, 0x800000080000)] })] } : State).port 2).decoders,
      d.2.2 ≤ 0x800000000000 + 0x400000 * 0 + 0x80FFC ∧ 0x800000000000 + 0x400000 * 0 + 0x80FFC + 4 ≤ d.2.2 + d.2.1) ∧ (base.port 2).decoders = [] := by
  decide +kernel

/-- What a window shows: rows, granules and spans that are held and not, a place that no operation writes, a halted warp, a comparator. -/
theorem met_windowContents :
    ((base.core 0).quad 0).rowHeld 500 = false ∧ ((base.core 0).quad 0).undefAt 0 = none ∧ ((base.core 0).quad 0).wordBefore 0 = [] ∧ (base.core 0).hazes = [] ∧
    ((crewed []).core 0).crews.all (fun k => !k.2.swapped && k.2.base == 0 && k.2.g == 1) = true ∧ ((reserved id).core 0).tidy = (reserved id).core 0 ∧
    ((reserved id).core 0).res.all (fun r => decide (r.2.base + r.2.count ≤ 32)) = true ∧ (({ base.core 0 with prHeld := [0] } : Core).prMaster (some 0)) = some 0 ∧
    ((reserved id).core 0).tidy.res.find 15 = none ∧ ((crewed []).core 0).crews.find 63 = none ∧
    (((at_ fun V => { V with w := { V.w with trap := { V.w.trap with halted := true } } }).core 0).quad 0).warps.any (fun w => w.1 == 0 && w.2.trap.halted) = true ∧
    (({ base.core 0 with bps := [(63, ⟨0x40, 4, 1⟩)] } : Core).bps.find 63).isSome = true := by
  and_intros <;> decide +kernel

/-- A kick of one record in crew 0 of a core whose tenant runs: before its record is read; with a request whose next segment can start; with one in flight. -/
def request0 : Request := { record := 0, src := 0x100, dst := 0x200, len := 64, arr := 0, ctl := 0, startedBytes := 0, landedBytes := 0, segs := [], suspended := false, failed := none, lost := false }
def kick0 (rs : List Request) : Kick := ⟨9, 0, 0, 0, 1, none, 0, 0, 1, 0, rs.length, [], rs⟩
def ladling (rs : List Request) : State := on { mapped with cores := (crewed []).cores } fun V => { V with c := { V.c with kicks := [kick0 rs] } }
/-- The same, the lines of the source and of the destination held by the core's field. -/
def ladlingHeld (rs : List Request) : State :=
  { ladling rs with fields := [(0, { Field.blank with l2 := [{ dirtyLine with line := 1 }, { dirtyLine with line := 2 }] })] }
def inFlight (g : Seg) : Request := { request0 with startedBytes := 64, segs := [g] }
def heapSeg : Seg := ⟨0, List.replicate 64 1, [(.mem 0x200, 64)], false, false, 0⟩
def bcastSeg : Seg := ⟨0, [1], [(.bcast 7 0x80000, 1)], false, false, 0⟩
theorem met_ladleStarts :
    (ladling []).currentKick ((ladling []).core 0) = some (kick0 []) ∧ (((ladling []).core 0).kickCrew (kick0 [])).isSome = true ∧
    (ladling []).kickGoes ((ladling []).core 0) (kick0 []) = true ∧ ((ladling []).core 0).owesAll 0 0 = false ∧
    ((ladling []).startStatus 0 1 (requestOf 0 (List.replicate 28 0))).isSome = true ∧
    ((((ladling []).core 0).kickCrew (kick0 [])).map (·.swapped)) = some false := by decide +kernel
theorem met_ladleSegments :
    (ladlingHeld [request0]).currentKick ((ladlingHeld [request0]).core 0) = some (kick0 [request0]) ∧
    (ladlingHeld [request0]).kickGoes ((ladlingHeld [request0]).core 0) (kick0 [request0]) = true ∧
    ((kick0 [request0]).runs.find? fun r => r.failed.isNone && decide (r.startedBytes < r.len)) = some request0 ∧
    (ladlingHeld [request0]).kindSpan 0 (kick0 [request0]) 0 request0.sk request0.src 0 64 false = .ok [(.mem 0x100, 64)] ∧
    (ladlingHeld [request0]).kindSpan 0 (kick0 [request0]) 0 request0.dk request0.dst 0 64 true = .ok [(.mem 0x200, 64)] ∧ request0.peer = false ∧
    (ladlingHeld [request0]).segFails 0 request0 [(.mem 0x200, 64)] = none ∧
    ((ladlingHeld [request0]).claimRead 0 0 (placeLines [(.mem 0x100, 64)])).isNone = true := by
  decide +kernel
theorem met_ladleLandings :
    ((ladlingHeld [inFlight heapSeg]).core 0).flying = [(kick0 [inFlight heapSeg], inFlight heapSeg, heapSeg)] ∧ heapSeg.group = none ∧
    (ladlingHeld [inFlight heapSeg]).segFails 0 (inFlight heapSeg) heapSeg.dsts = none ∧ (ladlingHeld [inFlight heapSeg]).overtakes 0 1 heapSeg.sent = false ∧ ((ladlingHeld [inFlight heapSeg]).claim 0 0 (placeLines heapSeg.dsts)).isNone = true ∧
    (∀ g ∈ [bcastSeg, { bcastSeg with posted := true }], ((ladling [inFlight g]).core 0).flying = [(kick0 [inFlight g], inFlight g, g)] ∧ g.group = some (7, 0x80000)) := by
  decide +kernel
/-- Ends of requests: a segment that fails as its peer is out of reach; a request without its slot, and one that is suspended; the last segment's landing. -/
def peerRequest (g : Seg) : Request := { inFlight g with ctl := 0x780 }
theorem met_ladleEnds :
    ((ladling [peerRequest heapSeg]).core 0).flying = [(kick0 [peerRequest heapSeg], peerRequest heapSeg, heapSeg)] ∧ (peerRequest heapSeg).peer = true ∧
    (ladling [peerRequest heapSeg]).segFails 0 (peerRequest heapSeg) heapSeg.dsts = some 0x85 ∧
    (let s := ladlingHeld [inFlight heapSeg]
     let z := (s.landBytes 0 0 heapSeg).countAll 0 (kick0 [inFlight heapSeg]) 0 ((inFlight heapSeg).onSeg { heapSeg with landed := true }) 1
     z.2.segs == [] && z.2.record == 0 && z.2.landedBytes == z.2.len) = true ∧
    (let s := ladling [{ request0 with suspended := true }]
     s.currentKick (s.core 0) == some (kick0 [{ request0 with suspended := true }]) && s.kickGoes (s.core 0) (kick0 [{ request0 with suspended := true }])) = true ∧
    (let s := (ladling [request0]).setCore 0 { (ladling [request0]).core 0 with phase := .draining }
     s.currentKick (s.core 0) == some (kick0 [request0]) && !s.kickGoes (s.core 0) (kick0 [request0])) = true := by decide +kernel
/-- A peer segment in flight, of a kick that stands and of one that has gone; one received, new and mapped, and one seen before. -/
def sent (core kick : Nat) : PeerSeg := ⟨7, 0, 0, 0, core, kick, 0, 0, 0, 28, false, 0, 0x40, [1]⟩
theorem met_peers : ({ base with peerSegs := [sent 0 0] } : State).peerSegs[0]?.isSome = true ∧ ((base.core 0).kicks.find? fun k => k.uid == (sent 0 0).kick) = none ∧
    (((ladling [inFlight heapSeg]).core 0).kicks.find? fun k => k.uid == (sent 0 9).kick) = some (kick0 [inFlight heapSeg]) ∧
    (sent 0 9).place = 1024 * 0 + (kick0 [inFlight heapSeg]).list + 32 * (inFlight heapSeg).record + 28 ∧
    mine.vaSpan 0 0 1 0x40 4 true = .ok [(.mem 0x40, 4)] ∧ (mine.claim 0 0 (placeLines [(.mem 0x40, 4)])).isNone = true ∧ (⟨5, 0, 0⟩, 6) ∉ (mine.ctx 0).seen ∧
    (⟨5, 0, 0⟩, 6) ∈ (({ mine with contexts := [(0, { Context.blank with seen := [(⟨5, 0, 0⟩, 6)] })] } : State).ctx 0).seen ∧
    (peerRequest heapSeg).mode = 0 ∧ ((({ mine with contexts := [(0, { Context.blank with conns := [⟨(peerRequest heapSeg).device, 3, false, false, 4⟩] })] } : State).ctx 0).conns.find?
      fun z => z.device == (peerRequest heapSeg).device) = some ⟨(peerRequest heapSeg).device, 3, false, false, 4⟩ := by
  decide +kernel

/-- The array: an operand that streams; a free array with an operation that can start; one whose operation ends, and an MMAP on both arrays of a pair. -/
def streaming : State := on { mine with cores := (reserved id).cores } fun V => { V with
  c := { V.c with res := V.c.res.map fun r => (r.1, { r.2 with va := 0, stride := 0, bound := true }) }
  q := { V.q with mq := [{ tzeroOp with id := 5, kind := .mma, opA := ⟨0, 0, 0, 0, 0⟩, opB := ⟨1, 0, 0, 0, 0⟩ }] } }
theorem met_arrayRows : ((streaming.headOp 0 5).map fun o => !o.blocked && !streaming.spanRead 0 0 5 && !(streaming.core 0).owesAll o.uid o.afterSeq) = some true ∧
    (streaming.core 0).serves 0 = true ∧ ((streaming.core 0).res.find 0).isSome = true := by decide +kernel
theorem met_arrayOps : ((queued 1).core 0).array = none ∧ (((queued 1).core 0).quad 0).mq = [tzeroOp] ∧ (queued 1).startable 0 tzeroOp = true ∧ ((queued 1).core 0).arrayTurn = 0 ∧
    matCost tzeroOp.kind tzeroOp.pr ≤ 260 ∧ (queued 1).comes 0 7 = false ∧ (∀ k ∈ [MatKind.tzero, .tnorm, .mma, .tst, .tld, .tchk], ¬ (k = .mmap)) ∧
    (Tile.zero.norm).isSome = true := by decide +kernel

/-- A write that is done. -/
def isDone (x : Wrote) : Bool := match x with
  | .done _ => true
  | _ => false
/-- Map requests: none queued; a record that can be read, one whose number follows, and one whose number does not; refused and accepted; its status written. -/
def mapping (acc : Option (List Byte)) : State := { mine with contexts := [(0, { Context.blank with root := some 0x10000, mapq := [0x40], accepted := acc })] }
theorem met_mapRequests :
    (mapping none).fetchVa 0 0x40 32 = .ok (List.replicate 32 0) ∧ follows 1 0 = true ∧ follows 0 0 = false ∧ follows 0x80000001 0 = false ∧
    (mapReqOf (List.replicate 32 0)).op = 0 ∧ ((mapping (some (List.replicate 32 0))).ctx 0).accepted = some (List.replicate 32 0) ∧
    (mapping (some (List.replicate 32 0))).mapRefusal 0 (mapReqOf (List.replicate 32 0)) ≠ none ∧
    (∀ st ∈ [1, 2, 0x80000003], isDone ((mapping none).writeVa 0 false 0 (0x40 + 28) (toLe st 4)) = true) := by
  decide +kernel
/-- A pull of a migrating page, a take of a first-touch page, and a peer's pull of a readable and of an unmapped page. -/
theorem met_pagesArrive : (paged 0x82).walk 0 0 = .migrating 2 0x82 ∧ (paged 0x22).walk 0 0 = .firstTouch 2 0x22 ∧ (paged 0x07).walk 0 0 = .leaf 2 7 ∧
    permits 7 .read = true ∧ permits 3 .read = false ∧ (paged 0).walk 0 0 = .unmapped ∧ isHbm 0x40000000 = true ∧ (paged 0x82).freshPlace 0 0x40000000 (pageSize 2) 2 = true ∧
    ({ paged 0x82 with contexts := [(0, { Context.blank with root := some 0x10000, conns := [⟨7, 0, false, false, 0⟩] })] } : State).reaches 0 7 = true ∧
    canonical (BitVec.ofNat 64 0x800000000000) = false := by decide +kernel

/-- Slices: a table that passes its checks, and one that does not; an edge that drains and one that does not; a core that has come to rest; a core at its edge. -/
def twoTenants : SlotTable := { oneEntry with entries := [⟨10, [⟨0, [0], [(0, 1)], [], []⟩]⟩, ⟨10, [⟨1, [0], [(0, 1)], [], []⟩]⟩] }
def slicing (t : SlotTable) (time stop : Nat) : State := on { base with slots := ⟨some t, none, 0⟩, time := time } fun V => { V with c := { V.c with sliceEnd := stop } }
/-- An image of one entry of one partition: a duration of 10, tenant 0, cluster 0. -/
def anImage : List (Nat × Byte) := [(0, 1), (64, 10), (68, 1), (132, 1), (176, 1)]
theorem met_slices :
    tableOk true (slotTableOf anImage) = true ∧ tableOk true (slotTableOf [(8, 1)]) = false ∧ (slicing twoTenants 5 100000).tableAt 5 = some twoTenants ∧ base.tableAt 0 = none ∧ 0 < slotCycle twoTenants ∧
    (slicing twoTenants 5 100000).edgeDrains 0 ((slicing twoTenants 5 100000).core 0) = true ∧
    ((slicing twoTenants 5 100000).reach (100000 - 2000)).isSome = true ∧
    (slicing oneEntry 5 1000).edgeDrains 0 ((slicing oneEntry 5 1000).core 0) = false ∧
    (({ slicing twoTenants 5 100000 with cores := [(0, { Core.blank 0 with sliceEnd := 100000 })] } : State).reach 100000).map (·.tenantAt 0 100000) = some (some 1) ∧
    (({ slicing twoTenants 5 100000 with cores := [(8, { Core.blank 8 with sliceEnd := 100000 })] } : State).reach 100000).map (·.tenantAt 8 100000) = some none ∧
    ((slicing oneEntry 5 1000).reach 1000).map (·.tenantAt 0 1000) = some (some 0) := by
  and_intros <;> decide +kernel
theorem met_drained : ∃ s : State, (s.core 0).phase = .draining ∧ (s.core 0).tenant = some 0 ∧ (∀ q ∈ (s.core 0).quads, ∀ w ∈ q.2.warps, s.warpDrained 0 (s.core 0) q.2 w.2 = true) ∧
    s.workComes 0 = true ∧ (((s.settleWork 0).flushRecords 0).core 0).flying = [] ∧ (((s.settleWork 0).flushRecords 0).core 0).sampler.queue = [] ∧
    ((s.settleWork 0).flushRecords 0).time ≤ (((s.settleWork 0).flushRecords 0).core 0).sliceEnd ∧ (((s.settleWork 0).flushRecords 0).spillBins 0).2 = true :=
  ⟨base.setCore 0 { Core.blank 0 with phase := .draining, tenant := some 0 }, by decide +kernel⟩
/-- A context whose table is one empty node in firmware's memory, and a promise of one 64 KiB page (R240 op 3). -/
def emptyTable : State := { State.reset with contexts := [(0, { Context.blank with root := some 0x03EF00000000 })], nodeNext := 0x03EF00001000 }
def aPromise : MapReq := ⟨0x10000, 0x10000, 3, 3, 0, 0, 1, 0⟩
theorem emptyTable_memNat (a : Nat) : emptyTable.memNat a 8 = 0 := by rfl
theorem emptyTable_cells (v : Nat) : emptyTable.cells 0 v = [(3, 0x03EF00000000 + 8 * nodeIndex 3 v)] := by
  change emptyTable.cellsFrom v 3 0x03EF00000000 = _
  unfold State.cellsFrom
  simp [emptyTable_memNat]
theorem met_walksAfterMaps : emptyTable.tablesSound 0 (3 * aPromise.pages.length + 1) ∧ emptyTable.mapRefusal 0 aPromise = none ∧
    ∀ v z e, emptyTable.walk 0 v ≠ .leaf z e := by
  refine ⟨⟨by decide, by decide, by decide, by decide, ?_, ?_⟩, by decide +kernel, ?_⟩
  · intro v c hc
    simp only [emptyTable_cells, List.mem_singleton] at hc
    subst hc
    simp only [emptyTable, nodeIndex, if_pos]
    omega
  · intro v w c hc d hd h1 h2
    simp only [emptyTable_cells, List.mem_singleton] at hc hd
    subst hc hd
    simp only [nodeIndex, if_pos, spanBits] at h1 h2 ⊢
    have : v / 2 ^ 39 % 512 = w / 2 ^ 39 % 512 := by omega
    exact ⟨by rw [this], by omega⟩
  · intro v z e
    change emptyTable.walkFrom v 3 0x03EF00000000 ≠ _
    unfold State.walkFrom
    simp only [emptyTable_memNat]
    intro h
    split at h <;> simp at h
/-! ### Hypotheses met: events of firmware and the host; steps -/

/-- A queue of context 0, its tail at 0x40 and ring at 0x80 where memory is mapped; its tenant holds a core. -/
def queue0 : Queue := ⟨⟨0x80, 16, 3, 0, 0x40, 0x48, 0, true⟩, 0, 0, false, true, false, false, 0, 0, none, []⟩
def queueing (q : Queue) (tail : Byte) : State :=
  { mine with queues := [q], mem := [(0x40, tail)], slots := ⟨some oneEntry, none, 0⟩, contexts := [(0, Context.blank)], launches := [] }
theorem met_queues :
    (queueing queue0 2).queue 0 3 = some queue0 ∧ (queueing queue0 2).holdsSlice 0 = true ∧ (queueing queue0 2).fetchVa 0 0x40 8 = .ok [2, 0, 0, 0, 0, 0, 0, 0] ∧
    (queueing queue0 17).fetchVa 0 0x40 8 = .ok [17, 0, 0, 0, 0, 0, 0, 0] ∧ State.reset.holdsSlice 0 = false ∧
    (∀ h ∈ [3, 0x10003], (queueDescOf (BitVec.ofNat 512 h)).reservedZero = true ∨ queueOk (queueDescOf (BitVec.ofNat 512 h)) 0 = false) ∧
    ({ queue0 with reread := true } : Queue).reread = true ∧ (queue0.tail ≤ 2 ∧ 2 ≤ queue0.head + queue0.desc.capacity) ∧ ¬ 17 ≤ queue0.head + queue0.desc.capacity ∧
    ((queueing queue0 2).ctx 0).quantum ≠ (queueing queue0 2).time / 100000 + 1 ∧
    queueOk queue0.desc 0 = true ∧ queueOk queue0.desc 1 = false ∧ ((queueing queue0 2).contexts.find 0).isSome = true := by
  and_intros <;> decide +kernel
/-- A function that is there, on port 0 and on port 7, and has no command open; one whose last command firmware still serves. -/
def mailed (busy : Option Nat) : State :=
  { queueing queue0 2 with contexts := [(0, { Context.blank with ports := [0, 7], mail := [(7, { busy := busy })] })] }
theorem met_commands : (∀ code ∈ [1, 2, 3, 4, 5, 6, 7, 8], (mailed none).obeys ⟨0, 0, code, true⟩ code ∧ (mailed none).obeys ⟨7, 0, code, true⟩ code) ∧
    (mailed (some 5)).accepts ⟨7, 0, 5, true⟩ 5 ∧ ¬ (mailed (some 5)).accepts ⟨7, 0, 3, true⟩ 3 ∧ ¬ (mailed none).accepts ⟨1, 0, 3, true⟩ 3 ∧
    (mailed none).accepts ⟨0, 0, 9, true⟩ 3 ∧ (9 = 0 ∨ 8 < 9) := by
  refine ⟨?_, ⟨by decide, by decide, fun k h => ?_⟩, fun h => ?_, fun h => absurd h.2.1 (by decide), ⟨by decide, by decide, fun k h => ?_⟩, by decide⟩
  · intro code h
    have h0 : ((mailed none).contexts.find 0).isSome = true := by decide
    have h1 : 0 ∈ ((mailed none).ctx 0).ports ∧ 7 ∈ ((mailed none).ctx 0).ports := by decide
    exact ⟨⟨⟨h0, h1.1, fun k hk => by cases hk⟩, rfl, rfl⟩, ⟨⟨h0, h1.2, fun k hk => by cases hk⟩, rfl, rfl⟩⟩
  · cases h; rfl
  · exact absurd (h.2.2 5 rfl) (by decide)
  · cases h
/-- The head record of a queue, of which any number of granules can be read, and the last. -/
def fetched? (x : Got) : Bool := match x with
  | .ok _ => true
  | _ => false
theorem met_recordReads : (∀ n ∈ List.range 16, fetched? ((queueing queue0 2).fetchVa 0 (0x80 + 128 * (queue0.head % 16) + 0) (8 * (1 + n))) = true) ∧
    (∀ n : Nat, 120 + 8 * (1 + n % (16 - 120 / 8)) = 128) ∧ fetched? ((queueing queue0 2).fetchVa 0 (0x80 + 120) 8) = true := by
  refine ⟨by decide +kernel, fun n => ?_, by decide +kernel⟩
  simp [Nat.mod_one]
/-- A launch read and not started; one that runs and has ended; the head record of a queue with work. -/
def readLaunch : Launch := { Launch.blank with started := false, created := [], queue := 3 }
theorem met_launches :
    (∃ f, (queueing { queue0 with tail := 1 } 1).fetchVa 0 0x80 128 = .ok f) ∧ isDone ((queueing { queue0 with tail := 1 } 1).postVa 0 0x48 (toLe 1 8)) = true ∧
    ({ queueing queue0 2 with launches := [(0, readLaunch)] } : State).predecessorOk 0 readLaunch = true ∧
    ({ queueing queue0 2 with launches := [(0, readLaunch)] } : State).depOf 0 readLaunch ≠ .waits ∧ readLaunch.rcd.reservedOk = true ∧
    ({ queueing queue0 2 with launches := [(0, readLaunch)] } : State).readImage 0 0 = .bad ∧
    (({ queueing queue0 2 with launches := [(0, readLaunch)] } : State).launchFails 0 readLaunch none).isSome = true ∧
    Launch.blank.created.length = (Launch.blank.rcd.threads + 31) / 32 ∧ (∀ c ∈ ({ base with cores := [(0, Core.blank 0)] } : State).cores, c.2.clearOf 0 = true) := by
  and_intros
  · exact ⟨_, rfl⟩
  all_goals decide +kernel

/-- A warp with a deferred fault; with two watchpoint matches; halted with a state that firmware may resume, and with one it may not. -/
def halted (f : TrapRegs → TrapRegs) : Warp := { noRun warp0 with trap := f { warp0.trap with halted := true, epc := 0 } }
def edited (x : Nat) (s : State) : State := withWarp (fun _ => halted fun t => { t with edit := some x }) s
/-- The window of that warp, and the same with one ring entry. -/
def window0 : Nat := base.divWindow 0 0 0 (halted id)
def windowOfOne : Nat := window0 + 2 ^ 256
theorem met_traps :
    firstDeferred ([⟨5, 0x045, 0, 0, 1, none, none, none, some 2, false⟩] : List Deferred) = some ⟨5, 0x045, 0, 0, 1, none, none, none, some 2, false⟩ ∧
    ((base.core 0).quad 0).mayDefer 1 (noRun warp0) = true ∧ ((base.core 0).quad 0).mayWatch 1 { noRun warp0 with trap := { (noRun warp0).trap with watch := [⟨0, 0, 0x40, 0, 0, true⟩] } } = true ∧
    windowOk 16 16 window0 = true ∧ (withWarp fun _ => halted id).topHome 0 0 0 (halted id) window0 = .ok [] ∧ stackOk 16 window0 [] = true ∧
    windowOk 16 16 (window0 + 2 ^ 62) = false ∧ windowOk 16 16 (window0 + 2 ^ 288 * 16) = false ∧ windowOk 16 16 windowOfOne = true ∧
    (edited windowOfOne mine).divWindow 0 0 0 (halted fun t => { t with edit := some windowOfOne }) = windowOfOne ∧
    (edited windowOfOne mine).regionAll 0 false 0 0 false [(edited windowOfOne mine).ringVa 0 0 0 (halted id) 0] = .ok [0] ∧
    stackOk 16 windowOfOne [({ mine with mem := [(0, 2)] } : State).memNat 0 16] = false ∧
    (edited windowOfOne base).regionAll 0 false 0 0 false [(edited windowOfOne base).ringVa 0 0 0 (halted id) 0] = .fault 0x042 [0] ∧
    (withWarp fun _ => halted id).warp 0 0 0 = some (halted id) ∧ (halted id).div.slot (halted id).trap.slot = some (freshPath 0 0xFFFFFFFF 0 false) ∧
    (∀ h ∈ ([⟨0, 0, 0x40, 0, 0, false⟩] : List WatchHit), h.due = false) ∧ (halted id).trap.halted = true ∧ (halted id).mgmt = false ∧ (halted id).trap.service = none ∧
    ((({ base with cores := [(0, { base.core 0 with phase := .idle })] } : State).core 0).phase) ≠ .running ∧ ((withWarp fun _ => halted id).core 0).phase = .running ∧
    (halted fun t => { t with late := none, service := some 1 }).trap.service.isSome = true ∧
    ({ Launch.blank with firstEnd := some (3, 0, 0) } : Launch).firstEnd ≠ none := by
  and_intros <;> decide +kernel
/-- A warp halted by a breakpoint in a debugged context; a swapped-out crew whose places are free; a sampler that ticks; its buffer full and not. -/
theorem met_debugging :
    debuggerCause 0x100 = true ∧ (({ base with contexts := [(0, { Context.blank with debug := true })] } : State).ctx 0).debug = true ∧
    (base.core 1).placesFree ⟨0, [], [], [], [], [], [], [], [], [], []⟩ = true ∧ ({ Sampler.blank with ctl := 1, period := 16, cap := 1 } : Sampler).valid = true ∧
    ({ Sampler.blank with ctl := 1, period := 0xFFFFFF, cap := 0x1000000 } : Sampler).valid = true ∧
    ({ Sampler.blank with sel := 0 } : Sampler).matches_ 0 = true ∧ ({ Sampler.blank with cap := 4, wr := 6, rd := 2 } : Sampler).wr - 2 = 4 ∧
    mine.claim 0 0 [lineOf ({ Sampler.blank with cap := 4, wr := 6 } : Sampler).place] = none ∧
    (({ Sampler.blank with ctl := 1, period := 16, cap := 1, origin := 5, next := 21 } : Sampler).retimed { Sampler.blank with ctl := 1, period := 32, cap := 1, origin := 5, next := 21 } 20).next = 37 := by
  and_intros <;> decide +kernel
/-- A context with a key whose warps are halted, and one that runs; keys of 31 and 32 bytes; a dump buffer that is mapped. -/
theorem met_dumps :
    (withWarp (fun _ => halted id) { mapped with contexts := [(0, { Context.blank with secured := true, debug := true })], tenants := [(0, { Tenant.blank with key := some (List.replicate 32 0) })] }).ctxHalted 0 = true ∧
    base.ctxHalted 0 = false ∧ (List.replicate 31 (0 : Byte)).length ≠ 32 ∧ canonical (BitVec.ofNat 64 0x800000000000) = false ∧
    canonical (BitVec.ofNat 64 0x7FFFFFFFFFFF) = true ∧ isDone (mine.postVa 0 0x40 [1]) = true ∧
    isDone (mapped.postVa 0 0x40 [1]) = false ∧ (match base.postVa 0 0x40 [1] with
      | .fault c => c == 0x042
      | _ => false) = true := by
  and_intros <;> decide +kernel
/-- A context that may be opened, at the last port and the last context; connections at their limit; an image that is accepted, and one that is older. -/
theorem met_contexts :
    ({ base with slots := ⟨some oneEntry, none, 0⟩ } : State).runs = true ∧ ({ base with slots := ⟨some oneEntry, none, 0⟩ } : State).hasSlots 0 = true ∧
    ({ base with slots := ⟨some oneEntry, none, 0⟩ } : State).hasSlots 63 = false ∧ (base.ctx 0).ports = [] ∧
    (((List.range 64).map fun n => (⟨n, 0, false, false, 0⟩ : Conn)).filter fun c => !(c.device == 70 && c.failed)).length = 64 ∧
    (((List.range 64).map fun n => (⟨n, 0, true, false, 0⟩ : Conn)).filter fun c => !(c.device == 63 && c.failed)).length = 63 := by
  and_intros <;> decide +kernel
theorem met_ports : (base.port 7).up = true ∧ (({ base with ports := [(0, { Port.blank 0 with up := false })] } : State).port 0).up = false ∧
    (({ base with ports := [(0, { Port.blank 0 with awaitAck := true })] } : State).port 0).awaitAck = true ∧ 9 ∉ base.health.linksOut ∧
    ({ State.reset with health := { State.reset.health with rerouting := some 9 } } : State).health.rerouting = some 9 ∧ State.reset.cores = [] ∧ State.reset.health.rerouting = none ∧
    ({ base with ports := [(0, { Port.blank 0 with base := 0x30000, size := 1 })] } : State).onPort 0 (stored (.mem 0xC00000000040)).acc = true ∧ (stored (.mem 0x40)).lost = false ∧
    base.onPort 0 (stored (.mem 0x40)).acc = false := by
  and_intros <;> decide +kernel
/-- A structure with two events before, in time and out of it; a warp that loses data; a suspect core; a group to switch; a core to scan. -/
theorem met_health : unitExists (.coreStores 2687) = true ∧ unitExists (.coreStores 2688) = false ∧ base.unitCycle (.coreStores 0) - 0 ≤ 2 ^ 24 ∧
    (((withWarp noRun State.reset).core 0).quad 0).sel = none ∧ (withWarp noRun State.reset).warp 0 0 0 = some (noRun warp0) ∧
    (withWarp (fun _ => halted id) State.reset).warp 0 0 0 = some (halted id) ∧ unitExists (.matrixArray 2687) = true ∧ (let s : State := { State.reset with nodeNext := 0x03EF00001000 }
      0x03EF00000000 ≤ 256 * 0x3EF000000 ∧ 256 * 0x3EF000000 < s.nodeNext) ∧
    ({ State.reset with cores := [(0, { Core.blank 0 with suspect := true })] } : State).holdsLaunch 0 = false ∧
    (let L : Launch := { Launch.blank with started := true, rcd := { LaunchRec.blank with c0 := 0, m := 1 } }
     ({ State.reset with launches := [(0, L)], cores := [(0, { Core.blank 0 with suspect := true, tenant := some 0 })] } : State).holdsLaunch 0 = true ∧
       ({ State.reset with launches := [(0, L)], cores := [(0, { Core.blank 0 with suspect := true })] } : State).holdsLaunch 0 = false) ∧ base.groupOwner 5 = some 5 ∧
    (base.core 2687).phase = .idle ∧ base.tenantAt 2687 base.time = none := by
  and_intros <;> decide +kernel
/-- A start whose images verify, with two port groups whose windows do not overlap, a decoder and a target voltage; settings that break the rules. -/
def aSetup (b f w : Nat) (ds : List (Nat × Nat × Nat)) : PortSetup := ⟨b, 256, f, w, 0, ds⟩
def aStart (ps : List (Nat × PortSetup)) : StartReport := ⟨0, 0, [⟨0, 3, true, 0⟩], 0xBFFFF, false, ps, [(41, 750)]⟩
def goodPorts : List (Nat × PortSetup) := [(0, aSetup 0x30000 0 2 [(0, 4096, 0x800000000000)]), (1, aSetup 0x30000 0 2 []), (7, aSetup 0x30100 7 1 [])]
theorem met_starts : (aStart goodPorts).reason = 0 ∧ (∀ m ∈ (aStart goodPorts).images, m.signed = true ∧ State.reset.rollback ≤ m.version) ∧
    (aStart goodPorts).deviceId < 0xC0000 ∧ goodPorts.all (setupOk goodPorts) = true ∧
    (∀ bad ∈ [[(0, aSetup 0x30000 0 2 []), (1, aSetup 0x30001 0 2 [])], [(0, aSetup 0x30000 0 1 []), (1, aSetup 0x300FF 1 1 [])],
      [(0, aSetup 0x30000 0 1 [(0, 4096, 0xA00000000000)])], [(3, aSetup 0x30000 3 2 [])]], bad.all (setupOk bad) = false) ∧
    (∃ m ∈ ([⟨0, 3, false, 0⟩] : List BootImage), m.signed = false ∨ m.version < State.reset.rollback) := by
  and_intros <;> decide +kernel
/-- Sensors of a field at the two thresholds; records of the lowest reading. -/
theorem met_voltage : (State.reset.field 41).minVolt.empty = true ∧ ({ MinVolt.reset with empty := false, millivolts := 700 } : MinVolt).millivolts ≤ 700 ∧
    (∃ r ∈ ([(255, 709)] : List (Nat × Nat)), r.1 < 256 ∧ r.2 + 40 < 750) ∧ (∀ r ∈ ([(255, 710), (256, 0)] : List (Nat × Nat)), r.1 < 256 → 750 ≤ r.2 + 40) ∧
    (∀ i, i < 256 → ∃ r ∈ (List.range 256).map (fun i => (i, 720)), r.1 = i ∧ 750 ≤ r.2 + 30) ∧
    (∃ i, i < 256 ∧ ∀ r ∈ ([(7, 719)] : List (Nat × Nat)), r.1 = i → r.2 + 30 < 750) := by
  refine ⟨by decide, by decide, by decide, by decide, fun i h => ⟨(i, 720), List.mem_map.mpr ⟨i, List.mem_range.mpr h, rfl⟩, rfl, by omega⟩, 7, by decide, by decide⟩
/-- The minimal mode; a function of a context, its command area. -/
theorem met_barAccesses : ({ State.reset with boot := { State.reset.boot with minimal := true } } : State).boot.minimal = true ∧ State.reset.imageArea.wf = true ∧
    (({ State.reset with contexts := [(3, { Context.blank with ports := [7] })] } : State).contexts.find 3).isSome = true ∧
    7 ∈ (({ State.reset with contexts := [(3, { Context.blank with ports := [7] })] } : State).ctx 3).ports ∧ (State.reset.boxOf ⟨7, 3, 0, true⟩).area.wf = true := by
  and_intros <;> decide

/-- A state whose next step issues a word; a word that no entry decodes; a word that fails an issue check; memory and its copy in canonical form. -/
theorem met_steps : base.agenda = [] ∧ base.busy = true ∧ base.nextTurn base.focusCore = some 0 ∧ base.toTurn.dueEvent base.toTurn.focusCore = none ∧
    (∃ V, base.toTurn.view = some V ∧ V.r.words = [0x99200000, 0xFFE7FFE0]) ∧ State.reset.nextTurn 0 = none ∧ (presenting 8).acceptDue 0 = true ∧
    decodeEntry (base.entryOf false 0) 0x99200000 = .ok .nop ∧ decodeEntry (base.entryOf false 0) 0x07C00000 = .error .unassigned ∧
    decodeEntry (base.entryOf false 0) 0x02C00020 = .error (.mustBeZero false) := by
  and_intros
  iterate 4 · decide +kernel
  · exact ⟨_, rfl, by decide +kernel⟩
  iterate 2 · decide +kernel
  all_goals rfl
theorem met_issueChecks : (∃ w, encode (.addD 119 0 0) = some w ∧ isTrailer w = false ∧
      ∃ V, base.view = some V ∧ V.breakHit = none ∧ (infoOf (.addD 119 0 0)).lane.any fun r => r.reg % r.align != 0) ∧
    ((at_ fun V => { V with q := { V.q with lanePipe := 9 } }).view.any fun V => V.breakHit.isNone && (V.check (infoOf (.addi 2 2 1)) true).isNone &&
      (V.score (infoOf (.addi 2 2 1))).isNone && decide (V.c.cycle < V.readyAt (infoOf (.addi 2 2 1)))) = true ∧
    ((pending loadOp).view.any fun V => (V.check (infoOf (.addi 5 4 1)) true).isNone && V.breakHit.isNone && (V.score (infoOf (.addi 5 4 1))).isSome) = true := by
  refine ⟨⟨_, rfl, by decide, _, rfl, by decide, by decide⟩, ?_, ?_⟩ <;> decide +kernel
theorem met_canonical : base.mem.wf = true ∧ base.behind.wf = true ∧ mapped.mem.wf = true ∧ ∃ t, step State.reset = .next t := ⟨by decide, by decide, by decide, _, rfl⟩

end Sys2Proof.Tests
end

section
/-! SUPPORT. A window write of no bytes at a tile's first byte: no granule refuses it, and it computes the tile's kept sums again. -/
namespace Sys2Proof.Machine

/-- A range of no bytes that starts at a granule holds no granule that could refuse it. -/
theorem State.windowRangeCheck_zero (s : State) (cn off : Nat) (m : Option Nat) (write : Bool) (h : off % 8 = 0) :
    s.windowRangeCheck cn off 0 m write = none := by
  simp only [State.windowRangeCheck, List.head?_eq_none_iff, List.filterMap_eq_nil_iff, ite_eq_right_iff]
  intro i _ hi
  omega

/-- A write of a management core that no granule refuses is performed. -/
theorem exec_windowAccess_management (s : State) (cn off n : Nat) (w : List Byte) (h : s.windowRangeCheck cn off w.length none true = none) :
    exec (.windowAccess .management cn off n (some w)) s = .next (s.windowWrite cn off w none) := by
  change Host.Outcome.next (s.windowAccess none cn off n (some w)) = _
  simp only [State.windowAccess, Option.isSome_some, h]

/-- A write of no bytes at the first byte of tile 0 leaves the tile with its sums computed again (R290). -/
theorem State.tile_windowWrite_nil (s : State) (cn : Nat) (m : Option Nat) :
    ((s.windowWrite cn 0x140000 [] m).core cn).tile 0 = ((s.core cn).tile 0).resum := by
  simp [State.windowWrite, Core.tile]

/-- Where every mantissa is 0, every row sums to 0. -/
theorem Tile.sumRow_of_no_mantissas (t : Tile) (h : t.m = []) (i : Nat) : t.sumRow i = 0#48 := by
  simp only [Tile.sumRow, h, Sparse.get, BitVec.add_zero]
  exact foldl_keeps (· = 0#48) _ (fun _ _ ha => ha) _ _ rfl

/-- Where every mantissa is 0, the sums computed again list no row. -/
theorem Tile.rows_resum_of_no_mantissas (t : Tile) (h : t.m = []) : t.resum.rows = [] := by
  simp only [Tile.resum, t.sumRow_of_no_mantissas h]
  exact foldl_keeps (· = []) _ (fun m i hm => by simp [hm, Sparse.set]) _ _ rfl

/-- A tile whose kept sum of row 0 is not that of its mantissas, which are all 0: what TCHK is there to find (R290). -/
def staleTile : Tile := { Tile.zero with rows := [(0, 1#48)] }
/-- A device at reset but for tile 0 of core 0. -/
def staleState : State := { State.reset with cores := [(0, { Core.blank 0 with tiles := [(0, staleTile)] })] }

theorem staleState_tile : (staleState.core 0).tile 0 = staleTile := rfl

theorem staleTile_resum_ne : staleTile.resum ≠ staleTile := by
  intro h
  have hrows := staleTile.rows_resum_of_no_mantissas rfl
  rw [h] at hrows
  exact List.cons_ne_nil _ _ hrows

/-- Refutes O42: its clause on the Larder takes in a write of no bytes at the Larder's end, 0x140000, which is the first byte of tile 0; the
clause says that every tile stays, and that write computes the sums of tile 0 again. -/
theorem not_windowAccesses : ¬ Obligations.WindowAccesses := by
  unfold Obligations.WindowAccesses
  rintro ⟨h, -⟩
  have hcheck := staleState.windowRangeCheck_zero 0 0x140000 none true rfl
  obtain ⟨-, -, -, -, hwrite, -⟩ := h staleState .management 0 0x140000 0 []
  obtain ⟨-, hlarder, -⟩ := hwrite (.inl rfl) hcheck
  obtain ⟨t, hexec, -, -, hcore, -⟩ := hlarder (by decide) (by decide)
  have ht : staleState.windowWrite 0 0x140000 [] none = t :=
    Host.Outcome.next.inj ((exec_windowAccess_management staleState 0 0x140000 0 [] hcheck).symm.trans hexec)
  have hkept : (t.core 0).tile 0 = (staleState.core 0).tile 0 := by rw [hcore]; rfl
  rw [← ht, State.tile_windowWrite_nil, staleState_tile] at hkept
  exact staleTile_resum_ne hkept

end Sys2Proof.Machine
end

section
/-! SUPPORT. Words and their fields; decoding and encoding undo each other (R15-R20, R32, R33, R37, R38). -/
namespace Sys2Proof

/-- A word is a concatenation exactly when its fields are the parts. -/
theorem append_eq_iff {m n : Nat} (w : BitVec (m + n)) (x : BitVec m) (y : BitVec n) :
    x ++ y = w ↔ w.extractLsb' n m = x ∧ w.extractLsb' 0 n = y := by
  constructor
  · rintro rfl
    exact ⟨BitVec.extractLsb'_append_eq_left, BitVec.extractLsb'_append_eq_right⟩
  · rintro ⟨rfl, rfl⟩
    exact ((BitVec.extractLsb'_append_extractLsb'_eq_extractLsb' (Nat.zero_add n).symm).trans BitVec.extractLsb'_eq_self)

theorem extractLsb'_extractLsb' {v : Nat} (w : BitVec v) (lo m a k : Nat) (h : a + k ≤ m) :
    (w.extractLsb' lo m).extractLsb' a k = w.extractLsb' (lo + a) k := by
  ext i hi
  simp [show a + i < m by omega, Nat.add_assoc]

/-- And so is a field, by the fields that it is made of. -/
theorem field_eq_append_iff {m n v lo : Nat} (w : BitVec v) (x : BitVec m) (y : BitVec n) :
    w.extractLsb' lo (m + n) = x ++ y ↔ w.extractLsb' (lo + n) m = x ∧ w.extractLsb' lo n = y := by
  rw [eq_comm, append_eq_iff, extractLsb'_extractLsb' _ _ _ _ _ (by omega), extractLsb'_extractLsb' _ _ _ _ _ (by omega), Nat.add_zero]

/-- What stands in the leading bits of a word says what every field above them holds. -/
theorem field_of_prefix {v lo : Nat} {P : BitVec v} {w : Word} (h : w.extractLsb' lo v = P) (hv : 32 ≤ lo + v) (a k : Nat) (ha : lo ≤ a) :
    w.extractLsb' a k = P.extractLsb' (a - lo) k := by
  subst h
  ext i hi
  have ho : lo + (a - lo + i) = a + i := by omega
  simp only [BitVec.getElem_extractLsb', BitVec.getLsbD_extractLsb', ho]
  by_cases hw : a + i < 32
  · simp [show a - lo + i < v by omega]
  · simp [BitVec.getLsbD_of_ge w (a + i) (by omega)]

/-- The place and the zero bits under it are a word's leading bits. -/
theorem prefix_of_place {lo k : Nat} {p : BitVec 11} {P : BitVec (11 + k)} {w : Word} (hop : opc11 w = p) (hz : fld w lo k = 0#k) (hlo : lo + k = 21)
    (hP : P = p ++ 0#k) : w.extractLsb' lo (11 + k) = P :=
  ((field_eq_append_iff w p 0#k).mpr ⟨by rw [hlo]; exact hop, hz⟩).trans hP.symm

theorem word_of_place {p : BitVec 11} {P w : Word} (hop : opc11 w = p) (hz : fld w 0 21 = 0#21) (hP : P = p ++ 0#21) : P = w := by
  rw [hP, append_eq_iff]
  exact ⟨hop, hz⟩

/-- What a row of the opcode map decodes to satisfies `Q`, where its place does and the rows after it do. -/
theorem decoded_row {c Q : Prop} [Decidable c] {x y : Option Instr} {i : Instr} (hx : c → x = some i → Q) (hy : y = some i → Q) :
    (if c then x else y) = some i → Q := by
  split
  · next h => exact hx h
  · exact hy
theorem decoded_row_and {c d Q : Prop} [Decidable (c ∧ d)] {x y : Option Instr} {i : Instr} (hx : c → d → x = some i → Q) (hy : y = some i → Q) :
    (if c ∧ d then x else y) = some i → Q := decoded_row (fun h => hx h.1 h.2) hy

theorem encode_of_decodeGroup00 {w : Word} {i : Instr} :
    (decodeGroup00 w = some i → encode i = some w)
    ∧ (decodeGroup01 w = some i → encode i = some w) := by
  unfold decodeGroup00 decodeGroup01
  refine ⟨?_, ?_⟩
  all_goals repeat' first | refine decoded_row_and (fun _ _ => ?_) ?_ | refine decoded_row (fun _ => ?_) ?_
  all_goals rintro ⟨⟩
  all_goals
    refine congrArg some ?_
    repeat' first | with_reducible refine (append_eq_iff _ _ _).mpr ⟨?_, ?_⟩ | with_reducible refine (field_eq_append_iff _ _ _).mpr ⟨?_, ?_⟩
    all_goals first | rfl | assumption | exact prefix_of_place ‹opc11 w = _› ‹_› rfl rfl
theorem encode_of_decodeGroup04 {w : Word} {i : Instr} :
    (decodeGroup04 w = some i → encode i = some w)
    ∧ (decodeGroup05 w = some i → encode i = some w) := by
  unfold decodeGroup04 decodeGroup05
  refine ⟨?_, ?_⟩
  all_goals repeat' first | refine decoded_row_and (fun _ _ => ?_) ?_ | refine decoded_row (fun _ => ?_) ?_
  all_goals rintro ⟨⟩
  all_goals
    refine congrArg some ?_
    repeat' first | with_reducible refine (append_eq_iff _ _ _).mpr ⟨?_, ?_⟩ | with_reducible refine (field_eq_append_iff _ _ _).mpr ⟨?_, ?_⟩
    all_goals first | rfl | assumption | exact prefix_of_place ‹opc11 w = _› ‹_› rfl rfl
theorem encode_of_decodeGroup08 {w : Word} {i : Instr} :
    (decodeGroup08 w = some i → encode i = some w)
    ∧ (decodeGroup0A w = some i → encode i = some w)
    ∧ (decodeGroup10 w = some i → encode i = some w)
    ∧ (decodeGroup14 w = some i → encode i = some w) := by
  unfold decodeGroup08 decodeGroup0A decodeGroup10 decodeGroup14
  refine ⟨?_, ?_, ?_, ?_⟩
  all_goals repeat' first | refine decoded_row_and (fun _ _ => ?_) ?_ | refine decoded_row (fun _ => ?_) ?_
  all_goals rintro ⟨⟩
  all_goals
    refine congrArg some ?_
    repeat' first | with_reducible refine (append_eq_iff _ _ _).mpr ⟨?_, ?_⟩ | with_reducible refine (field_eq_append_iff _ _ _).mpr ⟨?_, ?_⟩
    all_goals first | rfl | assumption | exact prefix_of_place ‹opc11 w = _› ‹_› rfl rfl | exact word_of_place ‹opc11 w = _› ‹_› rfl
theorem encode_of_decodeGroup0C {w : Word} {i : Instr} :
    (decodeGroup0C w = some i → encode i = some w)
    ∧ (decodeGroup0E w = some i → encode i = some w)
    ∧ (decodeGroup0F w = some i → encode i = some w) := by
  unfold decodeGroup0C decodeGroup0E decodeGroup0F
  refine ⟨?_, ?_, ?_⟩
  all_goals repeat' first | refine decoded_row_and (fun _ _ => ?_) ?_ | refine decoded_row (fun _ => ?_) ?_
  all_goals rintro ⟨⟩
  all_goals
    refine congrArg some ?_
    repeat' first | with_reducible refine (append_eq_iff _ _ _).mpr ⟨?_, ?_⟩ | with_reducible refine (field_eq_append_iff _ _ _).mpr ⟨?_, ?_⟩
    all_goals first | rfl | assumption | exact prefix_of_place ‹opc11 w = _› ‹_› rfl rfl
theorem encode_of_decodeGroup20 {w : Word} {i : Instr} :
    (decodeGroup20 w = some i → encode i = some w)
    ∧ (decodeGroup21 w = some i → encode i = some w)
    ∧ (decodeGroup24 w = some i → encode i = some w)
    ∧ (decodeGroup26 w = some i → encode i = some w) := by
  unfold decodeGroup20 decodeGroup21 decodeGroup24 decodeGroup26
  refine ⟨?_, ?_, ?_, ?_⟩
  all_goals repeat' first | refine decoded_row_and (fun _ _ => ?_) ?_ | refine decoded_row (fun _ => ?_) ?_
  all_goals rintro ⟨⟩
  all_goals
    refine congrArg some ?_
    repeat' first | with_reducible refine (append_eq_iff _ _ _).mpr ⟨?_, ?_⟩ | with_reducible refine (field_eq_append_iff _ _ _).mpr ⟨?_, ?_⟩
    all_goals first | rfl | assumption | exact prefix_of_place ‹opc11 w = _› ‹_› rfl rfl | exact word_of_place ‹opc11 w = _› ‹_› rfl
theorem encode_of_decodeGroup28 {w : Word} {i : Instr} :
    (decodeGroup28 w = some i → encode i = some w)
    ∧ (decodeGroup2A w = some i → encode i = some w)
    ∧ (decodeGroup2B w = some i → encode i = some w)
    ∧ (decodeGroup2C w = some i → encode i = some w)
    ∧ (decodeGroup2D w = some i → encode i = some w)
    ∧ (decodeGroup2E w = some i → encode i = some w)
    ∧ (decodeGroup3F w = some i → encode i = some w) := by
  unfold decodeGroup28 decodeGroup2A decodeGroup2B decodeGroup2C decodeGroup2D decodeGroup2E decodeGroup3F
  refine ⟨?_, ?_, ?_, ?_, ?_, ?_, ?_⟩
  all_goals repeat' first | refine decoded_row_and (fun _ _ => ?_) ?_ | refine decoded_row (fun _ => ?_) ?_
  all_goals rintro ⟨⟩
  all_goals
    refine congrArg some ?_
    repeat' first | with_reducible refine (append_eq_iff _ _ _).mpr ⟨?_, ?_⟩ | with_reducible refine (field_eq_append_iff _ _ _).mpr ⟨?_, ?_⟩
    all_goals first | rfl | assumption | exact prefix_of_place ‹opc11 w = _› ‹_› rfl rfl | exact word_of_place ‹opc11 w = _› ‹_› rfl

/-- What a word decodes to encodes to the word: each row of the map names every field of the word, and the must-be-zero fields are 0. -/
theorem encode_of_decode {w : Word} {i : Instr} : decode w = some i → encode i = some w := by
  obtain ⟨g00, g01⟩ := @encode_of_decodeGroup00 w i
  obtain ⟨g04, g05⟩ := @encode_of_decodeGroup04 w i
  obtain ⟨g08, g0A, g10, g14⟩ := @encode_of_decodeGroup08 w i
  obtain ⟨g0C, g0E, g0F⟩ := @encode_of_decodeGroup0C w i
  obtain ⟨g20, g21, g24, g26⟩ := @encode_of_decodeGroup20 w i
  obtain ⟨g28, g2A, g2B, g2C, g2D, g2E, g3F⟩ := @encode_of_decodeGroup28 w i
  unfold decode
  exact decoded_row (fun _ => g00) <| decoded_row (fun _ => g01) <| decoded_row (fun _ => g04) <| decoded_row (fun _ => g05) <| decoded_row (fun _ => g08) <| decoded_row (fun _ => g0A) <| decoded_row (fun _ => g0C) <| decoded_row (fun _ => g0E) <| decoded_row (fun _ => g0F) <| decoded_row (fun _ => g10) <| decoded_row (fun _ => g14) <| decoded_row (fun _ => g20) <| decoded_row (fun _ => g21) <| decoded_row (fun _ => g24) <| decoded_row (fun _ => g26) <| decoded_row (fun _ => g28) <| decoded_row (fun _ => g2A) <| decoded_row (fun _ => g2B) <| decoded_row (fun _ => g2C) <| decoded_row (fun _ => g2D) <| decoded_row (fun _ => g2E) <| decoded_row (fun _ => g3F) nofun
/-- A word of the integer groups decodes to what it encodes. -/
theorem decode_of_encode_integer {i : Instr} {w : Word} (h : encode i = some w) (hlo : 96 ≤ i.ctorIdx) (hhi : i.ctorIdx < 158) : decode w = some i := by
  cases i
  all_goals first
    | exact absurd hlo (Nat.not_le_of_lt (Nat.le_of_ble_eq_true rfl))
    | exact absurd hhi (Nat.not_lt_of_le (Nat.le_of_ble_eq_true rfl))
    | replace h := Option.some.inj h
  all_goals
    rw [append_eq_iff] at h
    repeat rw [field_eq_append_iff] at h
    simp only [and_assoc, Nat.reduceAdd] at h
    obtain ⟨hp, h⟩ := h
    simp [decode, decodeGroup00, decodeGroup01, opc11, fld, field_of_prefix hp, h]
/-- So does one of the floating-point groups, a move or a branch of the lanes, -/
theorem decode_of_encode_float {i : Instr} {w : Word} (h : encode i = some w) (hlo : 158 ≤ i.ctorIdx) (hhi : i.ctorIdx < 232) : decode w = some i := by
  cases i
  all_goals first
    | exact absurd hlo (Nat.not_le_of_lt (Nat.le_of_ble_eq_true rfl))
    | exact absurd hhi (Nat.not_lt_of_le (Nat.le_of_ble_eq_true rfl))
    | replace h := Option.some.inj h
  all_goals first
    | rw [append_eq_iff] at h
      repeat rw [field_eq_append_iff] at h
      try simp only [and_assoc, Nat.reduceAdd] at h
      obtain ⟨hp, h⟩ := h
      simp [decode, decodeGroup04, decodeGroup05, decodeGroup08, decodeGroup0A, opc11, fld, field_of_prefix hp, h]
    | subst h; rfl
/-- one of memory, fences and threads, -/
theorem decode_of_encode_memory {i : Instr} {w : Word} (h : encode i = some w) (hlo : 232 ≤ i.ctorIdx) (hhi : i.ctorIdx < 306) : decode w = some i := by
  cases i
  all_goals first
    | exact absurd hlo (Nat.not_le_of_lt (Nat.le_of_ble_eq_true rfl))
    | exact absurd hhi (Nat.not_lt_of_le (Nat.le_of_ble_eq_true rfl))
    | replace h := Option.some.inj h
  all_goals first
    | rw [append_eq_iff] at h
      repeat rw [field_eq_append_iff] at h
      try simp only [and_assoc, Nat.reduceAdd] at h
      obtain ⟨hp, h⟩ := h
      simp [decode, decodeGroup0C, decodeGroup0E, decodeGroup0F, decodeGroup10, opc11, fld, field_of_prefix hp, h]
    | subst h; rfl
/-- and one of the Larder, the tiles, the uniform set and the supervisor. -/
theorem decode_of_encode_uniform {i : Instr} {w : Word} (h : encode i = some w) (hlo : 306 ≤ i.ctorIdx) (hhi : i.ctorIdx < 404) : decode w = some i := by
  cases i
  all_goals first
    | exact absurd hlo (Nat.not_le_of_lt (Nat.le_of_ble_eq_true rfl))
    | exact absurd hhi (Nat.not_lt_of_le (Nat.le_of_ble_eq_true rfl))
    | replace h := Option.some.inj h
  all_goals first
    | rw [append_eq_iff] at h
      repeat rw [field_eq_append_iff] at h
      try simp only [and_assoc, Nat.reduceAdd] at h
      obtain ⟨hp, h⟩ := h
      simp [decode, decodeGroup14, decodeGroup20, decodeGroup21, decodeGroup24, decodeGroup26, decodeGroup28, decodeGroup2A, decodeGroup2B, decodeGroup2C, decodeGroup2D, decodeGroup2E, decodeGroup3F, opc11, fld, field_of_prefix hp, h]
    | subst h; rfl

/-- An event has no word. -/
theorem word_of_encode {i : Instr} {w : Word} (h : encode i = some w) : 96 ≤ i.ctorIdx ∧ i.ctorIdx < 404 := by
  cases i
  all_goals first | exact ⟨Nat.le_of_ble_eq_true rfl, Nat.le_of_ble_eq_true rfl⟩ | cases h

theorem decode_of_encode {i : Instr} {w : Word} (h : encode i = some w) : decode w = some i := by
  obtain ⟨hlo, hhi⟩ := word_of_encode h
  by_cases h1 : i.ctorIdx < 158
  · exact decode_of_encode_integer h hlo h1
  by_cases h2 : i.ctorIdx < 232
  · exact decode_of_encode_float h (Nat.le_of_not_lt h1) h2
  by_cases h3 : i.ctorIdx < 306
  · exact decode_of_encode_memory h (Nat.le_of_not_lt h2) h3
  · exact decode_of_encode_uniform h (Nat.le_of_not_lt h3) hhi

theorem decodeBytes_wordBytes (w : Word) : decodeBytes (wordBytes w) = decode w := by
  have h : w.extractLsb' 24 8 ++ w.extractLsb' 16 8 ++ w.extractLsb' 8 8 ++ w.extractLsb' 0 8 = w := by
    rw [append_eq_iff, field_eq_append_iff, field_eq_append_iff]
    exact ⟨⟨⟨rfl, rfl⟩, rfl⟩, rfl⟩
  exact congrArg decode h

section
open Laws.Entry

/-- The native entry at every instruction's place is its own. -/
theorem nativeEntry_fits (i : Instr) : Statement i := by
  cases i
  exacts [warpSelect _ _, longLatencyComplete _ _ _ _, rotation _ _ _, rotationGiveUp _ _ _, joinProceed _ _ _ _, crewRelease _ _, binTimerExpiry _ _,
    binLaunch _ _, launchWarpCreate _ _, warpEnd _ _ _, scratchpadAccept _, windowAccess _ _ _ _ _, multicastDelivery _, storePerform _ _ _ _,
    dataArrival _ _, gets _ _, getm _ _, put _ _, clean _ _, discMessage _ _, hgets _ _, hgetm _ _ _, snpdata _, snpinv _, snpcur _,
    deferredFaultRaise _ _ _, watchpointReport _ _ _, trapResume _ _ _, launchEndForTrap _, pagePullComplete _ _ _, pagePullTimeout _, mapMemory _ _,
    unmap _, protect _, grantFirstTouch _, migrateIn _, mapCoreWindows _, mapBroadcastWindow _, ladleRequestStart _, ladleSegmentStart _,
    ladleSegmentLand _ _, peerAck _, peerAckTimeout _, peerSegmentReceive _ _ _ _ _, matrixRowLand _ _ _, matrixComputeStart _, matrixOpComplete _,
    lrelWaitEnd _ _ _ _, napEnd _ _ _, drainStart _, drainComplete _, sliceStart _, slotTableInstall _, tailReread _ _, queueQuantum _, launchStart _ _,
    launchComplete _, crewSwapOut _ _ _, crewResume _ _, samplerTick _, samplerEnable _, droppedCountClear _, registerWrite _ _ _ _, minVoltageRead _,
    restart _, registerQueue _ _, unregisterQueue _ _, openDebugSession _, closeDebugSession _, dump _ _ _, bindPeer _ _ _, unbindPeer _ _,
    installTenantKey _ _, getMeasurements _ _, decodeTableLoad _ _, deviceStart _, startTimeout, faultEvent _ _, coreRetire _, groupSwitch _, scanTest _ _,
    stretchStart _, stretchEnd _, portDown _, portUp _, lostLinesAck _, hostResponse _ _, linkDropout _, openContext _ _, closeContext _ _,
    newLowestReading _ _ _, pageTakeComplete _ _, peerConnectionFailure _ _, peerPullRequest _ _ _, runFetchComplete _ _ _, securedSession _, add _ _ _,
    sub _ _ _, addi _ _ _, mul _ _ _, mulhS _ _ _, mulhZ _ _ _, mad _ _ _, minS _ _ _, minZ _ _ _, maxS _ _ _, maxZ _ _ _, abs _ _, and _ _ _, or _ _ _,
    xor _ _ _, andn _ _ _, andi _ _ _, ori _ _ _, xori _ _ _, shl _ _ _, shr _ _ _, sar _ _ _, shli _ _ _, shri _ _ _, sari _ _ _, rotl _ _ _, popc _ _,
    clz _ _, brev _ _, bfxS _ _ _, bfxZ _ _ _, bfi _ _ _, addD _ _ _, subD _ _ _, mulD _ _ _, shlD _ _ _, shrD _ _ _, sarD _ _ _, cmpEq _ _ _, cmpNe _ _ _,
    cmpLtS _ _ _, cmpLeS _ _ _, cmpLtZ _ _ _, cmpLeZ _ _ _, cmpiEq _ _ _, cmpiLtS _ _ _, sel _ _ _, divS _ _ _, divZ _ _ _, remS _ _ _, remZ _ _ _,
    addB _ _ _, subB _ _ _, mulB _ _ _, madB _ _ _, andB _ _ _, orB _ _ _, xorB _ _ _, shlB _ _ _, shrB _ _ _, cmpEqB _ _ _, cmpLtSB _ _ _, fadd _ _ _,
    fsub _ _ _, fmul _ _ _, ffma _ _ _, fmin _ _ _, fmax _ _ _, fabs _ _, fneg _ _, fcmpEq _ _ _, fcmpLt _ _ _, fcmpLe _ _ _, fcmpUn _ _ _, frcp _ _,
    frsq _ _, fsqrt _ _, fdiv _ _ _, fex2 _ _, flg2 _ _, fsin _ _, fcos _ _, faddB _ _ _, fmulB _ _ _, ffmaB _ _ _, dadd _ _ _, dsub _ _ _, dmul _ _ _,
    dfma _ _ _, ddiv _ _ _, dsqrt _ _, dcmpEq _ _ _, dcmpLt _ _ _, dcmpLe _ _ _, faddF16x2 _ _ _, fmulF16x2 _ _ _, ffmaF16x2 _ _ _, cvtF32S32 _ _,
    cvtF32Z32 _ _, cvtS32F32 _ _, cvtZ32F32 _ _, cvtF64F32 _ _, cvtF32F64 _ _, cvtF64S32 _ _, cvtS32F64 _ _, cvtF16x2F32 _ _ _, cvtF32F16 _ _ _,
    cvtBf16x2F32 _ _ _, cvtF32Bf16 _ _ _, cvtE4x2F32 _ _ _, cvtE5x2F32 _ _ _, cvtF32E4 _ _ _, cvtF32E5 _ _ _, mov _ _, movD _ _, movi _ _, movh _ _,
    movB _ _, setx _, setxi _, movxG _ _, movxP _ _, rds _ _, brv _ _, brc _ _, jmpi _, calli _, ret, pickLane _ _ _, pickFlip _ _ _, pickLo _ _ _,
    pickHi _ _ _, pickSeat _ _ _, voteAny _ _, voteAll _ _, voteBal _ _, lds8 _ _ _ _, lds8s _ _ _ _, lds16 _ _ _ _, lds16s _ _ _ _, lds32 _ _ _ _,
    lds64 _ _ _ _, lds128 _ _ _ _, sts8 _ _ _ _, sts16 _ _ _ _, sts32 _ _ _ _, sts64 _ _ _ _, sts128 _ _ _ _, atsAdd _ _ _ _, atsMinS _ _ _ _,
    atsMaxS _ _ _ _, atsMinZ _ _ _ _, atsMaxZ _ _ _ _, atsAnd _ _ _ _, atsOr _ _ _ _, atsXor _ _ _ _, atsXchg _ _ _ _, atsCas _ _ _ _, arset _ _ _ _,
    aradd _ _ _ _, arwait _ _ _ _, arpoll _ _ _ _, ld8 _ _ _ _, ld8s _ _ _ _, ld16 _ _ _ _, ld16s _ _ _ _, ld32 _ _ _ _, ld64 _ _ _ _, ld128 _ _ _ _,
    st8 _ _ _ _, st16 _ _ _ _, st32 _ _ _ _, st64 _ _ _ _, st128 _ _ _ _, ld32V _ _ _ _, ld64V _ _ _ _, st32V _ _ _ _, st64V _ _ _ _, ld32Acq _ _ _ _,
    ld64Acq _ _ _ _, st32Rel _ _ _ _, st64Rel _ _ _ _, atAdd _ _ _ _, atMinS _ _ _ _, atMaxS _ _ _ _, atMinZ _ _ _ _, atMaxZ _ _ _ _, atAnd _ _ _ _,
    atOr _ _ _ _, atXor _ _ _ _, atXchg _ _ _ _, atCas _ _ _ _, atIncw _ _ _ _, atAddD _ _ _ _, atXchgD _ _ _ _, atCasD _ _ _ _, pref _ _ _, wbl _ _ _,
    disc _ _ _, fence _, fenceAcq _, fenceRel _, spawn _ _ _, exit, join _ _, leave, bar, bara _, barw _, hamp _ _ _, lres _ _ _, lrel _, lbind _ _,
    prset _ _, prget _ _, oprdy, tzero _, mma _ _ _ _, mmap _ _ _ _, mwait _, tst _ _ _ _, tld _ _ _ _, tnorm _, texp _ _, tchk _ _, sadd _ _ _,
    ssub _ _ _, saddi _ _ _, smul _ _ _, smulhS _ _ _, smulhZ _ _ _, sminS _ _ _, smaxS _ _ _, sminZ _ _ _, smaxZ _ _ _, sand _ _ _, sor _ _ _, sxor _ _ _,
    sandn _ _ _, sandi _ _ _, sori _ _ _, sxori _ _ _, sshl _ _ _, sshr _ _ _, ssar _ _ _, sshli _ _ _, sshri _ _ _, ssari _ _ _, spopc _ _, sclz _ _,
    sffs _ _, sbrev _ _, sbfxZ _ _ _, sbfi _ _ _, saddD _ _ _, ssubD _ _ _, scmpEq _ _ _, scmpNe _ _ _, scmpLtS _ _ _, scmpLeS _ _ _, scmpLtZ _ _ _,
    scmpLeZ _ _ _, ssel _ _ _ _, sdivZ _ _ _, sremZ _ _ _, smov _ _, smovi _ _, smovh _ _, srds _ _, swrs _ _, sgetl _ _ _, bra _, bz _ _, bnz _ _,
    bneg _ _, call _, calls _, rets, rcv, land, nop, sld32 _ _ _ _, sld64 _ _ _ _, sst32 _ _ _ _, sst64 _ _ _ _, sld32V _ _ _ _, sst32V _ _ _ _,
    satAdd _ _ _ _, satCas _ _ _ _, sfence _, cpk _ _, cpq _, pdrain, yield, donate _, budget _, nap _, trap _, bkpt, svc _, eret, launch _ _, lwait _,
    probe _ _ _, pgtake _ _, maprq _ _ _, trace _ _, trailer _ _ _ _]
end

/-- The word with an instruction's operation at another place of its half is, through that place's entry, the instruction's own word. -/
theorem nativeWord_at_place {e w : Word} {p : BitVec 11} (he : e.extractLsb' 0 10 = (opc11 w).extractLsb' 0 10) (hs : p.getLsbD 10 = w.getLsbD 31) :
    nativeWord e (p ++ w.extractLsb' 0 21) = w := by
  unfold nativeWord
  rw [append_eq_iff, field_eq_append_iff]
  refine ⟨⟨?_, ?_⟩, ?_⟩
  · ext j hj
    obtain rfl : j = 0 := by omega
    rw [Laws.Entry.above 10 1 p (w.extractLsb' 0 21)]
    simpa using hs.symm
  · rw [he, opc11, extractLsb'_extractLsb' _ _ _ _ _ (by omega)]
  · exact BitVec.extractLsb'_append_eq_right.symm

theorem opc11_append (p : BitVec 11) (r : BitVec 21) : opc11 (p ++ r) = p := BitVec.extractLsb'_append_eq_left

/-- The instructions at SWRS's place are SWRS. -/
theorem decode_at_swrs {w : Word} {i : Instr} (hp : opc11 w = 0x484#11) (h : decode w = some i) : ∃ d n, i = .swrs d n := by
  refine ⟨fld w 15 6, fld w 0 15, ?_⟩
  have hw : decode w = some (.swrs (fld w 15 6) (fld w 0 15)) := by
    simp [decode, decodeGroup24, hp, field_of_prefix hp]
  exact Option.some.inj (h.symm.trans hw)

/-- A word decodes, through a valid entry with its operation, to what the native word decodes to. -/
theorem decodeEntry_ok {entry : Nat → Word} {w : Word} {i : Instr} (ht : isTrailer w = false) (hv : (entry (opc11 w).toNat).getLsbD 15 = true)
    (h : decode (nativeWord (entry (opc11 w).toNat) w) = some i) : decodeEntry entry w = .ok i := by
  simp [decodeEntry, ht, hv, h]

/-- Settles O56: the rows of the map name every bit of a word (encode_of_decode), the fields of what an instruction encodes to lead through the map to its own
row (decode_of_encode), and an entry that holds the operation stands for the native word. -/
theorem codecRoundTrip : Obligations.CodecRoundTrip := by
  refine ⟨fun i w => ⟨encode_of_decode, decode_of_encode⟩, decodeBytes_wordBytes, fun i w h _ => ?_⟩
  obtain ⟨hv, hll, hrc, hx, hpriv, hop, hset⟩ := nativeEntry_fits i w h
  refine ⟨hv, hll, hrc, hx, hpriv.imp_right (decode_at_swrs · (decode_of_encode h)), ?_, fun entry p hp hs he => ?_⟩
  · simpa [opc11] using hset
  · refine decodeEntry_ok ?_ ?_ ?_
    · simpa [isTrailer, opc11_append] using hp
    · rw [opc11_append, he]; exact hv
    · rw [opc11_append, he, nativeWord_at_place hop hs]; exact decode_of_encode h

/-- Words that are the encodings of instructions decode to them. -/
theorem decodes_of_encodes {l : List (Word × Instr)} (h : ∀ x ∈ l, encode x.2 = some x.1) : ∀ x ∈ l, decode x.1 = some x.2 :=
  fun x hx => decode_of_encode (h x hx)

/-- Settles O55: the instructions encode to the words listed; the other words lead to a row whose must-be-zero bits they break, or to none. -/
theorem decodedWords : Obligations.DecodedWords := by
  refine ⟨decodes_of_encodes (by decide), decodes_of_encodes (by decide), decodes_of_encodes (by decide), decodes_of_encodes (by decide), ?_⟩
  simp only [List.forall_mem_cons]
  exact ⟨rfl, rfl, rfl, rfl, rfl, rfl, nofun⟩

end Sys2Proof
end

section
/-! SUPPORT. The state after reset. -/
namespace Sys2Proof.Machine
/-- In the state after reset nothing is selected, nothing waits, and selection finds no warp. -/
theorem step_reset : step State.reset = .next State.reset := rfl

/-- Settles O60: the tables of the state after reset are empty, so that every record is its blank, and a step finds nothing to do. -/
theorem resetState : Obligations.ResetState :=
  ⟨rfl, rfl, rfl, rfl, rfl, rfl, fun _ => rfl, fun _ => ⟨rfl, rfl, rfl, fun _ _ => rfl⟩, fun _ _ _ => rfl, fun _ => ⟨rfl, fun _ => rfl⟩, step_reset⟩
end Sys2Proof.Machine
end

section
/-! SUPPORT. One step: the turn that it takes, and the word that it decodes (R24, R33, R121, R130, R270). -/
namespace Sys2Proof.Machine

theorem step_of_issue {s : State} {c q : Nat} {rest : List Turn} (h : s.agenda = .issue c q :: rest) :
    step s = State.issueTurn { s with agenda := rest, focusCore := c, focusQuad := q } := by
  simp [step, h]

theorem step_of_busy {s : State} (h : s.agenda = []) (hb : s.busy = true ∨ s.autoEvent = none) : step s = s.issueTurn := by
  unfold step
  rw [h]
  rcases hb with hb | ha
  · simp [hb]
  · simp [ha]

/-- A turn in which nothing is due executes the next word of the run, where it decodes; -/
theorem issueTurn_ok {s : State} {V : View} {w : Word} {ws : List Word} {i : Instr} (hdue : s.toTurn.dueEvent s.toTurn.focusCore = none)
    (hV : s.toTurn.view = some V) (hw : V.r.words = w :: ws) (hd : decodeEntry (s.toTurn.entryOf V.w.mgmt V.w.launch) w = .ok i) :
    s.issueTurn = exec i s.toTurn := by
  simp [State.issueTurn, hdue, hV, hw, hd]

/-- and rejects the word that no entry decodes. -/
theorem issueTurn_error {s : State} {V : View} {w : Word} {ws : List Word} {r : Reject} (hdue : s.toTurn.dueEvent s.toTurn.focusCore = none)
    (hV : s.toTurn.view = some V) (hw : V.r.words = w :: ws) (hd : decodeEntry (s.toTurn.entryOf V.w.mgmt V.w.launch) w = .error r) :
    s.issueTurn = .next (V.reject r) := by
  simp [State.issueTurn, hdue, hV, hw, hd]

theorem reject_unassigned {V : View} (hb : V.breakHit = none) : V.reject .unassigned = V.issueFault 0x001 := by
  simp [View.reject, hb]
theorem reject_mustBeZero {V : View} {w : Word} {ws : List Word} (hb : V.breakHit = none) (hw : V.r.words = w :: ws) (priv : Bool) :
    V.reject (.mustBeZero priv) =
      V.issueFault (if w.getLsbD 31 = false ∧ V.w.mgmt = true then 0x001 else if priv = true ∧ V.super = false then 0x003 else 0x002) := by
  simp [View.reject, hb, hw]

theorem opc11_append_rest (w : Word) : opc11 w ++ w.extractLsb' 0 21 = w := by
  rw [append_eq_iff]
  exact ⟨rfl, rfl⟩

/-- Through the native table a word decodes as the map has it. -/
theorem decodeEntry_native {w : Word} {i : Instr} (h : decode w = some i) : decodeEntry nativeEntry w = .ok i := by
  obtain ⟨hv, -, -, -, -, hop, -⟩ := nativeEntry_fits i w (encode_of_decode h)
  have hn : nativeWord (nativeEntry (opc11 w).toNat) w = w := by
    have := nativeWord_at_place (p := opc11 w) hop (by simp [opc11])
    rwa [opc11_append_rest] at this
  have he : (if isTrailer w then nativeEntry 0x7FF else nativeEntry (opc11 w).toNat) = nativeEntry (opc11 w).toNat := by
    split
    · next ht => rw [show opc11 w = 0x7FF#11 by simpa [isTrailer] using ht]; rfl
    · rfl
  simp [decodeEntry, he, hv, hn, h]

/-- A launch of table 0 decodes through the native table. -/
theorem entryOf_native {s : State} {launch : Nat} {L : Launch} (hL : s.launches.find launch = some L) (h0 : L.rcd.table = 0) :
    s.entryOf false launch = nativeEntry := by
  funext p
  simp [State.entryOf, hL, h0, slotEntry]

theorem loadedRun_words (x : Word) : ∃ ws, (loadedRun x).words = x :: ws := by
  unfold loadedRun
  dsimp only
  split
  · exact ⟨_, rfl⟩
  · exact ⟨_, rfl⟩

/-- The placed word is the one that the next step runs. -/
theorem step_withFetchWord {w : Nat} {i : Instr} (h : decode (BitVec.ofNat 32 (w % 2 ^ 32)) = some i) :
    step (State.reset.withFetchWord 32 w) = exec i (State.reset.withFetchWord 32 w) := by
  obtain ⟨ws, hws⟩ := loadedRun_words (BitVec.ofNat 32 (w % 2 ^ 32))
  rw [step_of_busy rfl (.inl rfl)]
  have ht : (State.reset.withFetchWord 32 w).toTurn = State.reset.withFetchWord 32 w := rfl
  have hdue : (State.reset.withFetchWord 32 w).dueEvent 0 = none := rfl
  have hL : (State.reset.withFetchWord 32 w).launches.find 0 = some Launch.blank := rfl
  obtain ⟨V, hV, hr, hm, hl⟩ : ∃ V, (State.reset.withFetchWord 32 w).view = some V ∧ V.r = loadedRun (BitVec.ofNat 32 (w % 2 ^ 32)) ∧
      V.w.mgmt = false ∧ V.w.launch = 0 := ⟨_, rfl, rfl, rfl, rfl⟩
  have hd := decodeEntry_native h
  rw [← entryOf_native hL rfl, ← hm, ← hl, ← ht] at hd
  rw [issueTurn_ok (by rw [ht]; exact hdue) (by rw [ht]; exact hV) (hr ▸ hws) hd, ht]

/-- What the quadrant that issues next satisfies (R121, R130, R270). -/
theorem nextTurn_spec {s : State} {cn n : Nat} (h : s.nextTurn cn = some n) :
    let c := s.core cn
    n < 4 ∧ (((c.quad n).presents true).isSome = true ∨
      (∀ k, k < 4 → (c.quad k).presents true = none) ∧ c.hadTurn n = false ∧ s.able cn n c = true ∧ (∀ k, n < k → k < 4 → c.hasIssued k = false) ∧
        ∀ k, k < n → c.hadTurn k = true ∨ s.able cn k c = false ∨ ∃ j, k < j ∧ j < 4 ∧ c.hasIssued j = true) := by
  unfold State.nextTurn at h
  dsimp only at h
  split at h
  · next m hm =>
    obtain rfl := Option.some.inj h
    rw [List.find?_range_eq_some] at hm
    exact ⟨List.mem_range.mp hm.2.1, .inl hm.1⟩
  · next hnone =>
    obtain ⟨hn, hlt, hlo⟩ := List.find?_range_eq_some.mp h
    simp only [Bool.and_eq_true, Bool.not_eq_true', List.all_eq_true, List.mem_range, Bool.or_eq_true, decide_eq_true_eq] at hn
    obtain ⟨⟨hturn, hable⟩, habove⟩ := hn
    have hpres : ∀ k, k < 4 → ((s.core cn).quad k).presents true = none := by simpa using hnone
    refine ⟨List.mem_range.mp hlt, .inr ⟨hpres, hturn, hable, fun k hk h4 => (habove k h4).resolve_left (by omega), fun k hk => ?_⟩⟩
    simpa [or_assoc, and_left_comm] using hlo k hk

/-- Where a quadrant issues next, the focus goes to it; where none does and CYCLE may not pass, it stays. -/
theorem toTurn_of_nextTurn {s : State} {n : Nat} (h : s.nextTurn s.focusCore = some n) : s.toTurn = { s with focusQuad := n } := by
  simp [State.toTurn, h]
theorem toTurn_of_waiting {s : State} (h : s.nextTurn s.focusCore = none)
    (hw : s.acceptDue s.focusCore = true ∨ (s.core s.focusCore).tickBy (s.core s.focusCore).cycle = true) : s.toTurn = s := by
  rcases hw with hw | hw
  · simp [State.toTurn, h, hw]
  · simp [State.toTurn, h, hw]

/-- Settles O57: the order of the turns is that of the search that finds the next; a step that issues decodes and executes, or rejects, the next word. -/
theorem stepRunsDecodedWord : Obligations.StepRunsDecodedWord := by
  refine ⟨fun w i hw h => step_withFetchWord ?_, fun s n h => ?_, fun s h hw => toTurn_of_waiting h hw, fun s s0 V w ws hs => ?_⟩
  · rw [Nat.mod_eq_of_lt hw, ← decodeBytes_wordBytes]
    exact h
  · obtain ⟨hn, hspec⟩ := nextTurn_spec h
    exact ⟨toTurn_of_nextTurn h, hn, hspec⟩
  · have hstep : step s = s0.issueTurn := by
      obtain ⟨ha, hb, rfl⟩ | ⟨c, q, rest, ha, rfl⟩ := hs
      · exact step_of_busy ha hb
      · exact step_of_issue ha
    intro s' hdue hV hw
    rw [hstep]
    refine ⟨fun i hd => issueTurn_ok hdue hV hw hd, fun hd hb => ?_, fun priv hd hb => ?_⟩
    · rw [issueTurn_error hdue hV hw hd, reject_unassigned hb]
    · rw [issueTurn_error hdue hV hw hd, reject_mustBeZero hb hw]

end Sys2Proof.Machine
end

section
/-! SUPPORT. Issue: the checks of every word in the order of R40, the scoreboard and the pipes (R30, R80, R92, R361). -/
namespace Sys2Proof.Machine

theorem isTrailer_of_encode_trailer {s f : BitVec 1} {a b : BitVec 7} {w : Word} (h : encode (.trailer s f a b) = some w) : isTrailer w = true := by
  obtain rfl := Option.some.inj h
  have hp : opc11 (0x7FF#11 ++ s ++ f ++ a ++ b ++ 0x0#5) = 0x7FF#11 := by
    repeat refine (Laws.Entry.above _ _ _ _).trans ?_
    rfl
  exact beq_iff_eq.mpr hp

/-- Every word but the trailer, and those whose checks look at operand values, is issued with its entry of the map and its well-formedness. -/
theorem exec_issues {i : Instr} {w : Word} (h : encode i = some w) (ht : isTrailer w = false) (hv : checksValues i = false) (s : State) :
    ∃ eff, exec i s = issue (infoOf i) i.wf s eff := by
  cases i
  case trailer => cases ht.symm.trans (isTrailer_of_encode_trailer h)
  all_goals first
    | exact ⟨_, rfl⟩
    | cases h; done
    | cases hv

/-- The words whose checks look at operand values are issued once these are there; a transfer whose range of registers fails its check has no check of a full mask. -/
theorem exec_issuesChecked {i : Instr} (hv : checksValues i = true) {s : State} {V : View} (h : s.view = some V) :
    ∃ ok eff, exec i s = issueChecked (if rangeBad V i then { infoOf i with full := false } else infoOf i) ok s eff ∧ ok V = (i.wf && valuesOk V i) := by
  cases i
  case cpk a b => exact ⟨_, _, rfl, rfl⟩
  case maprq d a b => exact ⟨_, _, rfl, rfl⟩
  case tst d t f b => exact ⟨_, _, by rw [exec, execTst, issueXfer, h]; rfl, by simp [Instr.wf, valuesOk]⟩
  case tld d t f b => exact ⟨_, _, by rw [exec, execTld, issueXfer, h]; rfl, by simp [Instr.wf, valuesOk]⟩
  all_goals cases hv

/-- The issue checks of R40 as a list, for operand values that are allowed or not and with the check of a full mask made or not. -/
def View.checkList (V : View) (f : Info) (ok full : Bool) : List (Bool × Nat) :=
  [(f.lset && V.w.mgmt, 0x001), (f.priv && !V.super, 0x003), (!ok, 0x002), ((f.lane ++ f.uni).any fun r => r.reg % r.align != 0, 0x005),
   (f.lane.any fun r => decide (r.reg < 120 ∧ V.w.allot < r.reg + r.span) || decide (120 ≤ r.reg ∧ 128 < r.reg + r.span), 0x004),
   (f.ll && match f.dest with
     | none => false
     | some (uniform, d) => decide ((if uniform then 56 else 120) ≤ d), 0x006),
   (full && !V.fullMask, 0x011)]

theorem not_all_aligned (f : Info) : (!(f.lane.all RegUse.aligned && f.uni.all RegUse.aligned)) = (f.lane ++ f.uni).any fun r => r.reg % r.align != 0 := by
  simp [RegUse.aligned, List.all_eq_not_any_not, bne]

theorem not_within (n : Nat) (r : RegUse) :
    (!RegUse.within n r) = (decide (r.reg < 120 ∧ n < r.reg + r.span) || decide (120 ≤ r.reg ∧ 128 < r.reg + r.span)) := by
  unfold RegUse.within
  rw [Bool.eq_iff_iff]
  split
  · simp; omega
  · simp; omega

theorem namesTemp_eq (d : Option (Bool × Nat)) : namesTemp d = match d with
    | none => false
    | some (uniform, r) => decide ((if uniform then 56 else 120) ≤ r) := by
  match d with
  | none => rfl
  | some (false, _) => rfl
  | some (true, _) => rfl

theorem firstCause_cons (b : Bool) (c : Nat) (l : List (Bool × Nat)) :
    (((b, c) :: l).find? (·.1)).map (·.2) = if b then some c else (l.find? (·.1)).map (·.2) := by
  cases b <;> rfl

/-- The first check that fails is the cause of the trap. -/
theorem check_eq_find (V : View) (f : Info) (ok : Bool) : V.check f ok = ((V.checkList f ok f.full).find? (·.1)).map (·.2) := by
  unfold View.check View.checkList
  rw [not_all_aligned, namesTemp_eq, List.all_eq_not_any_not, Bool.not_not]
  simp only [not_within, firstCause_cons, List.find?_nil, Option.map_none]

/-- The map's entry of a word for its checks: a transfer whose range of registers fails its own check has no check of a full mask. -/
def View.checkedInfo (V : View) (i : Instr) : Info := if rangeBad V i then { infoOf i with full := false } else infoOf i
/-- The operand values of a word are those that the map and the chapters allow. -/
def View.operandsOk (V : View) (i : Instr) : Bool := i.wf && valuesOk V i

theorem checkedInfo_score (V : View) (i : Instr) : V.score (V.checkedInfo i) = V.score (infoOf i) := by
  unfold View.checkedInfo
  split <;> rfl
theorem checkedInfo_of_rangeOk {V : View} {i : Instr} (h : rangeBad V i = false) : V.checkedInfo i = infoOf i := by
  simp [View.checkedInfo, h]

theorem checkedInfo_check (V : View) (i : Instr) :
    V.check (V.checkedInfo i) (V.operandsOk i) =
      ((V.checkList (infoOf i) (V.operandsOk i) ((infoOf i).full && !rangeBad V i)).find? (·.1)).map (·.2) := by
  unfold View.checkedInfo
  split
  · next h => rw [check_eq_find, h, Bool.not_true, Bool.and_false]; rfl
  · next h => rw [check_eq_find, Bool.eq_false_iff.mpr h, Bool.not_false, Bool.and_true]

/-- Words without checked operand values have none that is not allowed. -/
theorem plain_operands {i : Instr} (hv : checksValues i = false) (V : View) : V.operandsOk i = i.wf ∧ V.checkedInfo i = infoOf i := by
  have hok : valuesOk V i = true := by
    unfold valuesOk
    split <;> first | rfl | cases hv
  have hbad : rangeBad V i = false := by
    unfold rangeBad
    split <;> first | rfl | cases hv
  exact ⟨by rw [View.operandsOk, hok, Bool.and_true], checkedInfo_of_rangeOk hbad⟩

/-- A word with checked operand values that are there is issued as every other word. -/
theorem issueChecked_free {f : Info} {ok : View → Bool} {s : State} {V : View} (h : s.view = some V) (hs : V.score f = none) (eff : View → State) :
    issueChecked f ok s eff = issue f (ok V) s eff := by
  simp [issueChecked, h, hs]

theorem noCause_iff {p : Prop} [Decidable p] {c : Nat} {x : Option Nat} : (if p then some c else x) = none ↔ ¬ p ∧ x = none := by
  split
  · next h => simp [h]
  · next h => simp [h]

/-- A word whose operand values are checked keeps, while it waits for them, only the checks that do not look at them. -/
theorem check_waiting {V : View} {f : Info} {ok : Bool} (h : V.check f ok = none) :
    V.check { f with lane := f.lane.map fun u => { u with align := 1 }, uni := f.uni.map fun u => { u with align := 1 }, full := false } true = none := by
  simp only [View.check, noCause_iff] at h ⊢
  obtain ⟨hset, hpriv, -, -, hin, htemp, -⟩ := h
  refine ⟨hset, hpriv, by simp, ?_, ?_, htemp, by simp, trivial⟩
  · simp [RegUse.aligned, Nat.mod_one]
  · rw [List.all_map]; exact hin

theorem issueChecked_waiting {f : Info} {ok : View → Bool} {s : State} {V : View} {x : Wait} (h : s.view = some V) (hb : V.breakHit = none)
    (hc : V.check f (ok V) = none) (hs : V.score f = some x) (eff : View → State) : issueChecked f ok s eff = .next (V.breakRun x) := by
  have hw : (s.view.any fun V => (V.score f).isSome) = true := by simp [h, hs]
  unfold issueChecked
  simp only [hw, if_true, Bool.true_or]
  refine issue_score h hb (check_waiting hc) ?_ eff
  rw [← hs]
  simp only [View.score, laneRegs, uniRegs, List.flatMap_map]
  rfl

theorem exec_issue {i : Instr} {w : Word} {s : State} {V : View} (he : encode i = some w) (ht : isTrailer w = false) (h : s.view = some V)
    (hs : checksValues i = true → V.score (infoOf i) = none) : ∃ eff, exec i s = issue (V.checkedInfo i) (V.operandsOk i) s eff := by
  cases hv : checksValues i with
  | false =>
    obtain ⟨hok, hf⟩ := plain_operands hv V
    rw [hok, hf]
    exact exec_issues he ht hv s
  | true =>
    obtain ⟨ok, eff, hx, hok⟩ := exec_issuesChecked hv h
    refine ⟨eff, hx.trans ?_⟩
    rw [View.operandsOk, ← hok]
    exact issueChecked_free h ((checkedInfo_score V i).trans (hs hv)) eff

/-- Settles O58: every word is issued with its entry of the map, so that the checks of `View.check` are the list of R40, and what follows them is that of
`issue`; the words that look at operand values wait for them first. -/
theorem issueChecks : Obligations.IssueChecks := by
  intro i w s V he ht h f checks
  have hlist : checks = V.checkList f (V.operandsOk i) (f.full && !rangeBad V i) := by
    simp only [checks, View.checkList, View.operandsOk, Bool.not_and, Bool.and_right_comm] <;> rfl
  have hcheck : V.check (V.checkedInfo i) (V.operandsOk i) = (checks.find? (·.1)).map (·.2) := by
    rw [hlist]
    exact checkedInfo_check V i
  refine ⟨fun b hb => ?_, fun hb hs b c hc => ?_, fun hb hc x hx => ?_, fun hb hc hs hr hp => ?_⟩
  · cases hv : checksValues i with
    | false =>
      obtain ⟨eff, hx⟩ := exec_issues he ht hv s
      rw [hx, issue_break h hb]
    | true =>
      obtain ⟨ok, eff, hx, -⟩ := exec_issuesChecked hv h
      rw [hx]
      exact issue_break h hb eff
  · obtain ⟨eff, hx⟩ := exec_issue he ht h hs
    rw [hx]
    exact issue_check h hb (by rw [hcheck, hc]; rfl) eff
  · rw [hc] at hcheck
    cases hv : checksValues i with
    | false =>
      obtain ⟨eff, he⟩ := exec_issue he ht h (fun ht => by rw [hv] at ht; cases ht)
      rw [he]
      exact issue_score h hb hcheck ((checkedInfo_score V i).trans hx) eff
    | true =>
      obtain ⟨ok, eff, he, hok⟩ := exec_issuesChecked hv h
      rw [he]
      exact issueChecked_waiting h hb (hok ▸ hcheck) ((checkedInfo_score V i).trans hx) eff
  · rw [hc] at hcheck
    obtain ⟨eff, he⟩ := exec_issue he ht h (fun _ => hs)
    rw [checkedInfo_of_rangeOk hr] at he hcheck
    rw [he]
    exact issue_pipe h hb hcheck hs hp eff

end Sys2Proof.Machine
end

section
/-! SUPPORT. Selection and the fetch of runs (R24, R75, R119, R142, R361). -/
namespace Sys2Proof.Machine

/-! ### The fetch of a run -/

theorem State.startPull_cores (s : State) (ctx va : Nat) : (s.startPull ctx va).cores = s.cores := by
  unfold State.startPull
  split
  · dsimp only
    split <;> rfl
  · rfl
theorem State.core_of_cores {s t : State} (h : t.cores = s.cores) (n : Nat) : t.core n = s.core n := by
  rw [State.core, h]; rfl
theorem State.warp_of_cores {s t : State} (h : t.cores = s.cores) (a b n : Nat) : t.warp a b n = s.warp a b n := by
  rw [State.warp, State.core_of_cores h]; rfl

/-- A run that waits for its words waits for a page that is pulled: no core changes. -/
theorem readRun_wait {s s' : State} {cn : Nat} {w : Warp} {n : Nat} {before : List Word} {x : Bool} {pc : Pc}
    (h : s.readRun cn w n before x pc = .wait s') : s'.cores = s.cores := by
  induction n generalizing before x pc with
  | zero => cases h
  | succ n ih =>
    unfold State.readRun at h
    split at h
    · cases h
    · obtain rfl := RunGot.wait.inj h
      exact State.startPull_cores _ _ _
    · next y _ =>
      split at h
      · split at h
        · cases h
        · split at h <;> cases h
      · split at h
        · cases h
        · split at h
          · cases h
          · exact ih h

/-- A slot with a run, or whose words have come, has nothing to fetch. -/
theorem fetchRun_idle {s : State} {cn qn wn k : Nat} {w : Warp} (hw : s.warp cn qn wn = some w)
    (h : ∀ x, w.div.slot k = some x → x.run ≠ none ∨ x.fetched = true) : s.fetchRun cn qn wn k = s := by
  unfold State.fetchRun
  rw [hw]
  dsimp only
  split
  · rfl
  · next x hx =>
    have hx' : (x.run.isSome || x.fetched) = true := by
      rcases h x hx with hr | hf
      · rw [Option.isSome_iff_ne_none.mpr hr, Bool.true_or]
      · rw [hf, Bool.or_true]
    rw [if_pos hx']

/-- What the fetch of a slot's next run leaves: the state of the wait, or the slot with its words come. -/
def State.fetched (s : State) (cn qn wn k : Nat) (w : Warp) (p : Path) : State := match s.readRun cn w 25 [] false p.pc with
  | .wait s' => s'
  | _ => s.setWarp cn qn wn { w with div := w.div.setSlot k (some { p with fetched := true }) }

theorem fetchRun_next {s : State} {cn qn wn k : Nat} {w : Warp} {p : Path} (hw : s.warp cn qn wn = some w) (hp : w.div.slot k = some p)
    (hr : p.run = none) (hf : p.fetched = false) : s.fetchRun cn qn wn k = s.fetched cn qn wn k w p := by
  simp [State.fetchRun, State.fetched, hw, hp, hr, hf] <;> rfl

theorem State.warp_setWarp (s : State) (a b n : Nat) (w : Warp) : (s.setWarp a b n w).warp a b n = some w := by
  simp [State.warp, State.setWarp, State.setQuad]

/-- A fetch leaves the warp's other slot. -/
theorem fetched_other {s : State} {cn qn wn k : Nat} {w : Warp} (p : Path) (hw : s.warp cn qn wn = some w) :
    ∃ w', (s.fetched cn qn wn k w p).warp cn qn wn = some w' ∧ w'.div.slot (other k) = w.div.slot (other k) := by
  unfold State.fetched
  split
  · next s' h => exact ⟨w, (State.warp_of_cores (readRun_wait h) _ _ _).trans hw, rfl⟩
  · exact ⟨_, State.warp_setWarp _ _ _ _ _, other_slot _ _ _⟩

/-- The fetch of the one slot of a warp that has words to come. -/
theorem exec_runFetchComplete {s : State} {cn qn wn k : Nat} {w : Warp} {p : Path} (hw : s.warp cn qn wn = some w) (hk : k ≤ 1) (hp : w.div.slot k = some p)
    (hr : p.run = none) (hf : p.fetched = false) (ho : ∀ x, w.div.slot (other k) = some x → x.run ≠ none ∨ x.fetched = true) :
    exec (.runFetchComplete cn qn wn) s = .next (s.fetched cn qn wn k w p) := by
  change Host.Outcome.next _ = _
  obtain rfl | rfl : k = 0 ∨ k = 1 := by omega
  · obtain ⟨w', hw', ho'⟩ := fetched_other (k := 0) p hw
    rw [fetchRun_next hw hp hr hf, fetchRun_idle hw' (k := 1) (fun x hx => ho x (ho' ▸ hx))]
  · rw [fetchRun_idle hw (k := 0) ho, fetchRun_next hw hp hr hf]

/-! ### Selection -/

/-- With no pop outstanding selection settles nothing. -/
theorem execWarpSelect_settled {s : State} {cn qn : Nat}
    (hsel : (((s.core cn).quad qn).sel.bind fun x => s.viewAt cn qn x.1 x.2) = none)
    (hset : ∀ x ∈ ((s.core cn).quad qn).warps, x.2.div.n = 0 ∨ (x.2.div.top ≠ none ∧ x.2.div.s0 ≠ none ∧ x.2.div.s1 ≠ none)) :
    exec (.warpSelect cn qn) s =
      match ((s.core cn).quad qn).warps.findSome? fun x => (x.2.hitNow ((s.core cn).quad qn) x.1).map fun b => (x.1, x.2, b) with
      | some (wn, w, x, rest) => .next (s.reportTrailer cn qn wn w x rest)
      | none =>
        match s.candidates cn qn (s.core cn) with
        | [] => .next s
        | (wn, w) :: _ =>
          match s.chooseSlot (s.core cn) ((s.core cn).quad qn) w with
          | some k => .next (s.selectSlot cn qn wn k)
          | none => .next s := by
  change execWarpSelect cn qn s = _
  have hfold : (((s.core cn).quad qn).warps.foldl (fun s x =>
      if x.2.unsettled && !x.2.owesReport ((s.core cn).quad qn) x.1 then s.settle cn qn x.1 else s) s) = s := by
    refine List.foldlRecOn (motive := (· = s)) _ _ rfl fun t ht x hx => ?_
    have hx' : x.2.unsettled = false := by
      rcases hset x hx with h | ⟨ht, h0, h1⟩
      · simp [Warp.unsettled, h]
      · simp [Warp.unsettled, Option.isSome_iff_ne_none, ht, h0, h1]
    rw [ht, hx']
    rfl
  unfold execWarpSelect
  rw [hsel, hfold]
  rfl

/-- A warp that has a trailer match to report, and no report before it, reports it. -/
theorem hitNow_some {w : Warp} {h : TrailerHit} {hs : List TrailerHit} (q : Quadrant) (wn : Nat) (hh : w.hits = h :: hs) (hal : w.trap.halted = false)
    (hd : w.trap.deferred = []) (hw : ∀ x ∈ w.trap.watch, x.due = false) : w.hitNow q wn = some (h, hs) := by
  have hwatch : w.trap.watch.any (·.due) = false := by simpa using hw
  simp [Warp.hitNow, Warp.owesReport, Quadrant.mayWatch, hal, hd, hwatch, hh]
theorem hitNow_none {w : Warp} (q : Quadrant) (wn : Nat) (h : w.hits = []) : w.hitNow q wn = none := by
  simp [Warp.hitNow, h]

/-- The first number below a bound that answers is found. -/
theorem findSome?_range {α : Type} {n i : Nat} {f : Nat → Option α} {b : α} (hi : i < n) (hf : f i = some b) (h : ∀ j, j < i → f j = none) :
    (List.range n).findSome? f = some b := by
  obtain ⟨m, rfl⟩ : ∃ m, n = i + 1 + m := ⟨n - (i + 1), by omega⟩
  rw [List.findSome?_eq_some_iff]
  refine ⟨List.range i, i, (List.range m).map (i + 1 + ·), ?_, hf, by simpa using h⟩
  rw [List.range_add, List.range_succ]
  simp

/-- The first ready warp after the one selected last heads the candidates (R119). -/
theorem candidates_head {s : State} {cn qn : Nat} {c : Core} {i : Nat} {w : Warp} (hi : i < 16)
    (hw : (c.quad qn).warps.find (((c.quad qn).last + 1 + i) % 16) = some w)
    (hr : s.ready cn c (c.quad qn) (((c.quad qn).last + 1 + i) % 16) w = true)
    (hb : ∀ j w', j < i → (c.quad qn).warps.find (((c.quad qn).last + 1 + j) % 16) = some w' →
      s.ready cn c (c.quad qn) (((c.quad qn).last + 1 + j) % 16) w' = false) :
    ∃ rest, s.candidates cn qn c = (((c.quad qn).last + 1 + i) % 16, w) :: rest := by
  refine List.head?_eq_some_iff.mp ?_
  unfold State.candidates
  rw [List.head?_filterMap, List.findSome?_map]
  refine findSome?_range hi ?_ fun j hj => ?_
  · simp [hw, hr]
  · simp only [Function.comp_apply]
    split
    · next w' hw' => rw [if_neg (by simp [hb j w' hj hw'])]
    · rfl
theorem candidates_nil {s : State} {cn qn : Nat} {c : Core}
    (h : ∀ wn w, (c.quad qn).warps.find wn = some w → s.ready cn c (c.quad qn) wn w = false) : s.candidates cn qn c = [] := by
  unfold State.candidates
  refine List.filterMap_eq_nil_iff.mpr fun wn _ => ?_
  split
  · next w hw => rw [if_neg (by simp [h wn w hw])]
  · rfl

/-- The selected warp, with the marks of its yield and its nap gone. -/
theorem find_noteSelected (q : Quadrant) (wn : Nat) :
    (q.noteSelected wn).warps.find wn = (q.warps.find wn).map fun w => { w with yielded := none, spent := false } := by
  unfold Quadrant.noteSelected
  generalize q.warps = ws
  induction ws with
  | nil => rfl
  | cons x ws ih =>
    rw [List.map_cons]
    by_cases hx : x.1 = wn
    · simp [Table.find, hx]
    · simpa [Table.find, hx] using ih

theorem State.core_setQuad_ne (s : State) {cn n : Nat} (h : n ≠ cn) (qn : Nat) (q : Quadrant) : (s.setQuad cn qn q).core n = s.core n := by
  simp [State.setQuad, h]
theorem State.quad_setQuad (s : State) (cn qn : Nat) (q : Quadrant) : ((s.setQuad cn qn q).core cn).quad qn = q := by
  simp [State.setQuad]

/-- The view of a slot with an open run. -/
theorem viewAt_eq {s : State} {cn qn wn k : Nat} {q : Quadrant} {w : Warp} {p : Path} {r : OpenRun} (hq : (s.core cn).quad qn = q)
    (hw : q.warps.find wn = some w) (hp : w.div.slot k = some p) (hr : p.run = some r) :
    s.viewAt cn qn wn k = some { s := s, cn := cn, qn := qn, wn := wn, kn := k, c := s.core cn, q := q, w := w, p := p, r := r, em := p.em } := by
  subst hq
  simp [State.viewAt, hw, hp, hr]

/-- A quadrant whose slot has been given a run holds it. -/
theorem viewAt_selected (s : State) (cn qn wn k : Nat) (q : Quadrant) (w : Warp) (p : Path) (r : OpenRun) (ts : List (Nat × Nat × Nat)) (hp : p.run = some r) :
    ∃ V, (s.setQuad cn qn { q.setWarp wn { w with div := w.div.setSlot k (some p) } with temps := ts, sel := some (wn, k), last := wn }).viewAt cn qn wn k = some V ∧
      V.r = r ∧ V.p = p ∧ V.q.sel = some (wn, k) ∧ V.q.last = wn ∧ V.q.temps = ts ∧ V.q.rf = q.rf ∧
      V.w = { w with div := w.div.setSlot k (some p) } := by
  refine ⟨_, viewAt_eq (State.quad_setQuad _ _ _ _) ((Quadrant.find_setWarp q wn _ wn).trans (if_pos rfl)) (Div.slot_setSlot _ _ _) hp, ?_⟩
  exact ⟨rfl, rfl, rfl, rfl, rfl, rfl, rfl⟩

theorem tlbFill_eq (s : State) (cn ctx va : Nat) : s.tlbFill cn ctx va = { s with clusters := (s.tlbFill cn ctx va).clusters } := by
  unfold State.tlbFill
  dsimp only
  split
  · rfl
  · split <;> rfl

/-- The state in which the words of a selected warp's next run are read: the selection is marked, and its translation has come (R232). -/
def State.selecting (s : State) (cn qn wn : Nat) (w : Warp) (p : Path) : State :=
  let s1 := s.setQuad cn qn (((s.core cn).quad qn).noteSelected wn)
  if w.mgmt then s1 else s1.tlbFill cn w.ctx (pcVa p.pc).toNat

theorem selecting_eq (s : State) (cn qn wn : Nat) (w : Warp) (p : Path) :
    s.selecting cn qn wn w p =
      { s.setQuad cn qn (((s.core cn).quad qn).noteSelected wn) with clusters := (s.selecting cn qn wn w p).clusters } := by
  unfold State.selecting
  dsimp only
  split
  · rfl
  · exact tlbFill_eq _ _ _ _

theorem warp_noteSelected {s : State} {cn qn wn : Nat} {w : Warp} (hw : ((s.core cn).quad qn).warps.find wn = some w) :
    (s.setQuad cn qn (((s.core cn).quad qn).noteSelected wn)).warp cn qn wn = some { w with yielded := none, spent := false } := by
  rw [State.warp, State.quad_setQuad, find_noteSelected, hw]
  rfl

/-- A slot with a broken run resumes it. -/
theorem selectSlot_resume {s : State} {cn qn wn k set : Nat} {w : Warp} {p : Path} {r : OpenRun} (hw : ((s.core cn).quad qn).warps.find wn = some w)
    (hp : w.div.slot k = some p) (hr : p.run = some r) (hset : (r.set < 8 ∧ set = r.set) ∨ (8 ≤ r.set ∧ ((s.core cn).quad qn).freeSet = some set)) :
    let q := ((s.core cn).quad qn).noteSelected wn
    let w1 : Warp := { w with yielded := none, spent := false }
    s.selectSlot cn qn wn k = (s.setQuad cn qn q).setQuad cn qn
      { q.setWarp wn { w1 with div := w1.div.setSlot k (some { p with run := some { r with set := set } }) } with
        temps := q.temps ++ (if r.set < 8 then [] else [(set, wn, k)]), sel := some (wn, k), last := wn } := by
  intro q w1
  unfold State.selectSlot
  dsimp only
  rw [warp_noteSelected hw]
  dsimp only
  rw [hp]
  dsimp only
  rw [hr]
  dsimp only
  obtain ⟨h8, rfl⟩ | ⟨h8, hf⟩ := hset
  · simp only [if_pos h8]
    rfl
  · have hf' : (((s.core cn).quad qn).noteSelected wn).freeSet = some set := hf
    simp only [if_neg (Nat.not_lt.mpr h8), hf']
    rfl

/-- A slot at a run boundary reads its next run. -/
theorem selectSlot_open {s : State} {cn qn wn k set : Nat} {w : Warp} {p : Path} (hw : ((s.core cn).quad qn).warps.find wn = some w)
    (hp : w.div.slot k = some p) (hr : p.run = none) (hf : ((s.core cn).quad qn).freeSet = some set) :
    let w1 : Warp := { w with yielded := none, spent := false }
    s.selectSlot cn qn wn k = match (s.selecting cn qn wn w p).readRun cn w1 25 [] false p.pc with
      | .run ws => (s.selecting cn qn wn w p).openRun cn qn wn k w1 p ws set
      | .fault c at_ => (s.selecting cn qn wn w p).mgmtTrap cn qn wn k (runTrap p c at_)
      | .wait s' => s'.onWarp cn qn wn fun w => { w with div := w.div.setSlot k (some { p with fetched := false }) } := by
  intro w1
  have hf' : (((s.core cn).quad qn).noteSelected wn).freeSet = some set := hf
  unfold State.selectSlot
  dsimp only
  rw [warp_noteSelected hw]
  dsimp only
  rw [hp]
  dsimp only
  rw [hr, hf']
  rfl

section
variable {s : State} {cn qn : Nat}
  (hsel : (((s.core cn).quad qn).sel.bind fun x => s.viewAt cn qn x.1 x.2) = none)
  (hset : ∀ x ∈ ((s.core cn).quad qn).warps, x.2.div.n = 0 ∨ (x.2.div.top ≠ none ∧ x.2.div.s0 ≠ none ∧ x.2.div.s1 ≠ none))
include hsel hset

/-- The first trailer match that is due is reported (R361). -/
theorem exec_warpSelect_report {wn : Nat} {w : Warp} {h : TrailerHit} {hs : List TrailerHit} {before after : Table Warp}
    (hq : ((s.core cn).quad qn).warps = before ++ (wn, w) :: after) (hb : ∀ x ∈ before, x.2.hits = []) (hh : w.hits = h :: hs)
    (hal : w.trap.halted = false) (hd : w.trap.deferred = []) (hw : ∀ x ∈ w.trap.watch, x.due = false) :
    exec (.warpSelect cn qn) s = .next (s.reportTrailer cn qn wn w h hs) := by
  rw [execWarpSelect_settled hsel hset]
  have hfirst : (((s.core cn).quad qn).warps.findSome? fun x => (x.2.hitNow ((s.core cn).quad qn) x.1).map fun b => (x.1, x.2, b)) = some (wn, w, h, hs) := by
    rw [List.findSome?_eq_some_iff]
    refine ⟨before, (wn, w), after, hq, ?_, fun x hx => ?_⟩
    · rw [hitNow_some _ _ hh hal hd hw]; rfl
    · rw [hitNow_none _ _ (hb x hx)]; rfl
  rw [hfirst]

variable (hhits : ∀ x ∈ ((s.core cn).quad qn).warps, x.2.hits = [])
include hhits

theorem exec_warpSelect_candidates : exec (.warpSelect cn qn) s = match s.candidates cn qn (s.core cn) with
    | [] => .next s
    | (wn, w) :: _ =>
      match s.chooseSlot (s.core cn) ((s.core cn).quad qn) w with
      | some k => .next (s.selectSlot cn qn wn k)
      | none => .next s := by
  rw [execWarpSelect_settled hsel hset]
  have hnone : (((s.core cn).quad qn).warps.findSome? fun x => (x.2.hitNow ((s.core cn).quad qn) x.1).map fun b => (x.1, x.2, b)) = none :=
    List.findSome?_eq_none_iff.mpr fun x hx => by rw [hitNow_none _ _ (hhits x hx)]; rfl
  rw [hnone]

theorem exec_warpSelect_none (h : ∀ wn w, ((s.core cn).quad qn).warps.find wn = some w → s.ready cn (s.core cn) ((s.core cn).quad qn) wn w = false) :
    exec (.warpSelect cn qn) s = .next s := by
  rw [exec_warpSelect_candidates hsel hset hhits, candidates_nil h]

/-- The first ready warp after the one selected last is selected (R119). -/
theorem exec_warpSelect_first {i k : Nat} {w : Warp} (hi : i < 16)
    (hw : ((s.core cn).quad qn).warps.find ((((s.core cn).quad qn).last + 1 + i) % 16) = some w)
    (hr : s.ready cn (s.core cn) ((s.core cn).quad qn) ((((s.core cn).quad qn).last + 1 + i) % 16) w = true)
    (hb : ∀ j w', j < i → ((s.core cn).quad qn).warps.find ((((s.core cn).quad qn).last + 1 + j) % 16) = some w' →
      s.ready cn (s.core cn) ((s.core cn).quad qn) ((((s.core cn).quad qn).last + 1 + j) % 16) w' = false)
    (hk : s.chooseSlot (s.core cn) ((s.core cn).quad qn) w = some k) :
    exec (.warpSelect cn qn) s = .next (s.selectSlot cn qn ((((s.core cn).quad qn).last + 1 + i) % 16) k) := by
  obtain ⟨rest, hc⟩ := candidates_head hi hw hr hb
  rw [exec_warpSelect_candidates hsel hset hhits, hc]
  simp only [hk]

end

/-- Settles O36: selection takes the first ready warp in rotation and resumes or opens the run of the slot it chooses; the fetch of a run fills its slot or waits for
its page. -/
theorem selectionAndFetch : Obligations.SelectionAndFetch := by
  intro s cn qn c q
  refine ⟨fun wn w k p hw hk hp hr hf ho => ⟨fun hnw => ?_, fun s' hwait => ?_⟩, fun hsel hset => ⟨?_, fun hhits => ⟨?_, ?_⟩⟩⟩
  · rw [exec_runFetchComplete hw hk hp hr hf ho]
    unfold State.fetched
    split
    · next s' h => exact absurd h (hnw s')
    · rfl
  · rw [exec_runFetchComplete hw hk hp hr hf ho, State.fetched, hwait]
  · intro wn w h hs before after hq hb hh hal hd hwatch
    exact exec_warpSelect_report hsel hset hq hb hh hal hd hwatch
  · exact exec_warpSelect_none hsel hset hhits
  · intro i w k p hi hw hr hb hk hp wn s1 s2 w1
    have hx : exec (.warpSelect cn qn) s = .next (s.selectSlot cn qn wn k) := exec_warpSelect_first hsel hset hhits hi hw hr hb hk
    refine ⟨fun r set hrun hfree => ?_, fun cause va hrun hfree hgot => ?_, fun s' hrun hfree hgot => ?_, fun set ws hrun hfree hgot => ?_⟩
    · obtain ⟨V, hV, hVr, hVp, hsel', hlast, htemps, hrf, hVw⟩ := viewAt_selected s1 cn qn wn k (q.noteSelected wn) w1
        { p with run := some { r with set := set } } _ (q.temps ++ (if r.set < 8 then [] else [(set, wn, k)])) rfl
      refine ⟨_, V, hx.trans (congrArg _ (selectSlot_resume hw hp hrun hfree)), hV, hVr, hVr ▸ hVp, hsel', hlast, htemps, hrf, hVp ▸ hVw, rfl, fun n hn => ?_⟩
      rw [State.core_setQuad_ne _ hn, State.core_setQuad_ne _ hn]
    · obtain ⟨set, hset'⟩ := Option.ne_none_iff_exists'.mp hfree
      have hgot' : (s.selecting cn qn wn w p).readRun cn w1 25 [] false p.pc = .fault cause va := hgot
      rw [hx, selectSlot_open hw hp hrun hset', hgot']
      rfl
    · obtain ⟨set, hset'⟩ := Option.ne_none_iff_exists'.mp hfree
      have hgot' : (s.selecting cn qn wn w p).readRun cn w1 25 [] false p.pc = .wait s' := hgot
      rw [hx, selectSlot_open hw hp hrun hset', hgot']
    · have hgot' : (s.selecting cn qn wn w p).readRun cn w1 25 [] false p.pc = .run ws := hgot
      have hcores : (s.selecting cn qn wn w p).cores = s1.cores := by rw [selecting_eq]
      have hq : ((s.selecting cn qn wn w p).core cn).quad qn = q.noteSelected wn := by
        rw [State.core_of_cores hcores, State.quad_setQuad]
      let r : OpenRun := { words := ws, trailerAt := p.pc + 4#48 * BitVec.ofNat 48 (ws.length - 1), set := set, tdef := [], wdef := 0, total := ws.length }
      obtain ⟨V, hV, hVr, hVp, hsel', hlast, htemps, hrf, hVw⟩ := viewAt_selected (s.selecting cn qn wn w p) cn qn wn k (q.noteSelected wn) w1
        { p with run := some r, site := none, fetched := false } _ (q.temps ++ [(set, wn, k)]) rfl
      refine ⟨_, V, ?_, hV, hVr, hVr ▸ hVp, hsel', hlast, htemps, hrf, hVp ▸ hVw, ?_, fun n hn => ?_⟩
      · rw [hx, selectSlot_open hw hp hrun hfree, hgot']
        dsimp only
        rw [State.openRun, hq]
        rfl
      · rw [selecting_eq]
        rfl
      · rw [State.core_setQuad_ne _ hn, State.core_of_cores hcores, State.core_setQuad_ne _ hn]

end Sys2Proof.Machine
end

section
/-! SUPPORT. Commands, contexts, peers and images (R34, R377-R387); what caches alone may change. -/
namespace Sys2Proof.Machine

/-- From `s` to `t` only caches change: L1s, reverse maps and the rest of a cluster, and fields. -/
structure Caches (s t : State) : Prop where
  rest : t = { s with cores := t.cores, clusters := t.clusters, fields := t.fields }
  core : ∀ n, t.core n = { s.core n with l1 := (t.core n).l1 }

namespace Caches

theorem refl (s : State) : Caches s s := ⟨rfl, fun _ => rfl⟩
theorem trans {s t u : State} (h : Caches s t) (k : Caches t u) : Caches s u := by
  obtain ⟨hr, hc⟩ := h
  obtain ⟨kr, kc⟩ := k
  refine ⟨?_, fun n => ?_⟩
  · rw [kr, hr]
  · rw [kc n, hc n]
theorem foldl {β : Type} {f : State → β → State} (h : ∀ s b, Caches s (f s b)) (l : List β) (s : State) : Caches s (l.foldl f s) :=
  foldl_keeps (Caches s) f (fun _ b ha => ha.trans (h _ b)) l s (refl s)

theorem setCluster (s : State) (g : Nat) (c : Cluster) : Caches s (s.setCluster g c) := ⟨rfl, fun _ => rfl⟩
theorem setField (s : State) (f : Nat) (x : Field) : Caches s (s.setField f x) := ⟨rfl, fun _ => rfl⟩
theorem setL1 (s : State) (n : Nat) (l : List L1Line) : Caches s (s.setCore n { s.core n with l1 := l }) := by
  refine ⟨rfl, fun m => ?_⟩
  rw [State.core_setCore]
  split
  · next h => subst h; rfl
  · rfl

theorem freeRev (s : State) (g line : Nat) : Caches s (s.freeRev g line) := by
  unfold State.freeRev
  dsimp only
  split
  · exact refl s
  · refine (setCluster s g _).trans (foldl (fun u j => ?_) _ _)
    split
    · exact setL1 u _ _
    · exact refl u

theorem dropNames (s : State) (g : Nat) (p : RevEntry → Bool) : Caches s (s.dropNames g p) := by
  refine foldl (fun u e => (freeRev u g e.pline).trans ?_) _ s
  dsimp only
  split
  · exact setField _ _ _
  · exact refl _

end Caches

/-! ### Commands -/

/-- A command that firmware takes, with its code and its reserved bytes zero, has its effect where it stands (R379). -/
theorem command_of_obeys {s : State} {m : Mail} {code : Nat} (h : s.obeys m code) (hc : code ≠ 0) (h8 : code ≤ 8) (go : State → State) :
    s.command m code go = .next (go (s.taken m)) := by
  obtain ⟨⟨hctx, hport, hbusy⟩, rfl, hz⟩ := h
  have hsome : (s.contexts.find m.ctx).isNone = false := Option.isNone_eq_false_iff.mpr hctx
  have hb : ((s.boxOf m).busy.any fun k => k != m.code) = false := by
    cases hx : (s.boxOf m).busy with
    | none => rfl
    | some k => simp [hbusy k hx]
  have hfree : ((s.contexts.find m.ctx).isNone || !(s.ctx m.ctx).ports.contains m.port || (s.boxOf m).busy.any fun k => k != m.code) ≠ true := by
    simp [hsome, hb, hport]
  unfold State.command
  dsimp only
  refine (if_neg hfree).trans ?_
  rw [if_neg (by omega), if_neg (fun h => h rfl), hz, if_neg Bool.true_eq_false.mp]
  rfl

/-- A command taken changes its context only in its mailbox. -/
theorem conns_taken (s : State) (m : Mail) : ((s.taken m).ctx m.ctx).conns = (s.ctx m.ctx).conns := by
  simp [State.taken]

theorem exec_bindPeer {s : State} {m : Mail} (h : s.obeys m 6) (device peer : Nat) :
    let live := (s.ctx m.ctx).conns.filter fun c => !(c.device == device && c.failed)
    let v := s.taken m
    exec (.bindPeer m device peer) s = .next (
      if 0xC0000 ≤ device ∨ device = s.deviceId ∨ 4096 ≤ peer ∨ 64 ≤ live.length ∨ live.any (fun c => c.device == device) then v.mailbox m 2
      else (v.setCtx m.ctx { v.ctx m.ctx with conns := live ++ [{ device := device, peerCtx := peer, failed := false, closing := false }] }).mailbox m 0) := by
  intro _ v
  change execBindPeer m device peer s = _
  unfold execBindPeer
  rw [command_of_obeys h (by decide) (by decide)]
  dsimp only
  rw [conns_taken]
  rfl

theorem exec_unbindPeer {s : State} {m : Mail} (h : s.obeys m 7) (device : Nat) :
    let cs := (s.ctx m.ctx).conns
    let v := s.taken m
    exec (.unbindPeer m device) s = .next (
      if !cs.any fun c => c.device == device then v.mailbox m 2
      else if s.peerSegs.any fun p => p.ctx == m.ctx && p.device == device then
        (v.setCtx m.ctx { v.ctx m.ctx with conns := cs.map fun (c : Conn) => if c.device = device then { c with closing := true } else c }).mailWaits m
      else (v.setCtx m.ctx { v.ctx m.ctx with conns := cs.filter fun c => c.device ≠ device }).mailbox m 0) := by
  intro _ v
  change execUnbindPeer m device s = _
  unfold execUnbindPeer
  rw [command_of_obeys h (by decide) (by decide)]
  dsimp only
  rw [conns_taken]
  rfl

/-! ### Contexts -/

/-- What is forgotten of a context is every record of it, and no byte. -/
theorem forgetCtx_spec (s : State) (ctx : Nat) :
    let t := s.forgetCtx ctx
    t.contexts = s.contexts.drop ctx ∧ (∀ q ∈ t.queues, q.desc.ctx ≠ ctx) ∧ (∀ p ∈ t.pulls, p.2.ctx ≠ ctx) ∧
      (∀ c ∈ t.clusters, ∀ e ∈ c.2.tlb, e.ctx ≠ ctx) ∧ SameBytes s t := by
  intro t
  have h : Caches s (s.clusters.foldl (fun s g => s.dropNames g.1 fun e => e.ctx == ctx) s) := Caches.foldl (fun u g => Caches.dropNames u _ _) _ s
  refine ⟨?_, ?_, ?_, ?_, ?_, ?_⟩
  · exact congrArg (fun u => u.contexts.drop ctx) h.rest
  · intro q hq
    simpa using (List.mem_filter.mp hq).2
  · intro p hp
    simpa using (List.mem_filter.mp hp).2
  · intro c hc e he
    obtain ⟨g, -, rfl⟩ := List.mem_map.mp hc
    simpa using (List.mem_filter.mp he).2
  · have hm := congrArg State.mem h.rest
    exact hm
  · have hu := congrArg State.undefined h.rest
    exact hu

theorem exec_closeContext_last {s : State} {port ctx : Nat} (hp : (s.ctx ctx).ports = [port]) (hL : ∀ L ∈ s.launches, L.2.ctx = ctx → L.2.complete = true) :
    exec (.closeContext port ctx) s = .next (if (s.forgetCtx ctx).contexts.any fun y => y.1 / 64 == ctx / 64 then s.forgetCtx ctx
      else (s.forgetCtx ctx).setTenant (ctx / 64) { (s.forgetCtx ctx).tenant (ctx / 64) with key := none }) := by
  have hlaunch : (s.launches.any fun L => L.2.ctx == ctx && !L.2.complete) = false := by
    simpa using hL
  change execCloseContext port ctx s = _
  unfold execCloseContext
  simp only [hp, hlaunch]
  simp

/-- A failed connection is reached no more (R382). -/
theorem reaches_failed {s : State} {ctx device : Nat} (h : ∀ c ∈ (s.ctx ctx).conns, c.device = device → c.failed = true) : s.reaches ctx device = false := by
  have : ((s.ctx ctx).conns.any fun x => x.device == device && !x.failed && !x.closing) = false := by
    rw [List.any_eq_false]
    intro c hc
    by_cases hd : c.device = device
    · simp [h c hc hd]
    · simp [hd]
  rw [State.reaches, this, Bool.and_false]

/-- The host opens a context, or its request changes nothing (R377). -/
theorem exec_openContext (s : State) (port ctx : Nat) : exec (.openContext port ctx) s =
    if 8 ≤ port ∨ 4096 ≤ ctx ∨ s.runs = false ∨ s.hasSlots (ctx / 64) = false ∨ (s.ctx ctx).ports.contains port then .next s
    else .next (s.setCtx ctx { s.ctx ctx with ports := (s.ctx ctx).ports ++ [port] }) := rfl

/-- Every measurement of the device, in its slots and of its slot table. -/
def State.allMeasurements (s : State) : List (Nat × Nat × BitVec 512) := s.measurements ++ match s.slots.table with
  | some t => [(slotTableMeasure, 0, Config.measuredSlots t)]
  | none => []
/-- Those that a context's function may see (R386). -/
def State.seenMeasurements (s : State) (ctx : Nat) : List (Nat × Nat × BitVec 512) :=
  s.allMeasurements.filter fun m => m.1 < 0x100 || slotTableMeasure ≤ m.1 || (s.tablesOf ctx).any fun t => m.1 == measureSlot t

theorem exec_getMeasurements_physical {s : State} {function : Nat} (h : 4096 ≤ function) (nonce : Nat) :
    exec (.getMeasurements function nonce) s = .next { s with out := s.out ++ [s.evidence function nonce s.allMeasurements none] } := by
  change execGetMeasurements function nonce s = _
  unfold execGetMeasurements
  simp only [if_pos h]
  rfl
theorem exec_getMeasurements_virtual {s : State} {ctx : Nat} (h : ctx < 4096) (hc : (s.contexts.find ctx).isSome = true) (nonce : Nat) :
    exec (.getMeasurements ctx nonce) s =
      .next { s with out := s.out ++ [s.evidence ctx nonce (s.seenMeasurements ctx) (some (s.tenant (ctx / 64)).key.isSome)] } := by
  change execGetMeasurements ctx nonce s = _
  unfold execGetMeasurements
  simp only [if_neg (Nat.not_le.mpr h), Option.isNone_eq_false_iff.mpr hc]
  rfl

theorem mem_seenMeasurements {s : State} {ctx : Nat} {m : Nat × Nat × BitVec 512} : m ∈ s.seenMeasurements ctx ↔
    m ∈ s.allMeasurements ∧ (m.1 < 0x100 ∨ 0x200 ≤ m.1 ∨ ∃ t ∈ s.tablesOf ctx, m.1 = 0x100 + t) := by
  simp only [State.seenMeasurements, List.mem_filter, Bool.or_eq_true, decide_eq_true_eq, List.any_eq_true, beq_iff_eq, or_assoc]
  exact Iff.rfl
theorem mem_allMeasurements {s : State} {m : Nat × Nat × BitVec 512} (h : m ∈ s.measurements) : m ∈ s.allMeasurements :=
  List.mem_append_left _ h

/-- A decode-table image is loaded, or its load changes nothing (R34). -/
theorem exec_decodeTableLoad (s : State) (slot : Nat) (img : TableImage) : exec (.decodeTableLoad slot img) s =
    if (slot ≠ 2 ∧ slot ≠ 3) ∨ imageAccepted img = false ∨ img.version < s.rollback ∨ (s.launches.any fun L => L.2.started && !L.2.complete && L.2.rcd.table == slot)
    then .next s
    else .next { s with tables := s.tables.put slot img
                        measurements := putMeasure s.measurements (measureSlot slot, img.version, Config.measuredTable img) } := rfl

theorem exec_peerConnectionFailure {s : State} {ctx device : Nat} (h : ∃ c ∈ (s.ctx ctx).conns, c.device = device) :
    exec (.peerConnectionFailure ctx device) s =
      .next (s.setCtx ctx { s.ctx ctx with conns := (s.ctx ctx).conns.map fun (c : Conn) => if c.device = device then { c with failed := true } else c }) := by
  have hany : ((s.ctx ctx).conns.any fun c => c.device == device) = true := by simpa using h
  change execPeerConnectionFailure ctx device s = _
  unfold execPeerConnectionFailure
  simp only [hany, if_true]

/-- Settles O51: the refusals and the effects of the commands, each read off the command's own conditions. -/
theorem contextsPeersAndImages : Obligations.ContextsPeersAndImages := by
  intro s port ctx device peer nonce slot img x signed live
  refine ⟨fun hp hc hr hs hx => ?_, fun h => ?_, fun hx hne => ?_, fun hx hL => ?_, fun m hm ho => ?_, fun m hm ho => ?_, fun h => ?_,
    fun hs hi hv hL => ?_, fun h => ?_, fun h => ?_, fun h hc => ?_⟩
  · rw [exec_openContext, if_neg]
    simp [x, hr, hs, hx] at hx ⊢
    omega
  · rw [exec_openContext, if_pos]
    rcases h with h | h | h | h
    · exact .inl h
    · exact .inr (.inr (.inl h))
    · exact .inr (.inr (.inr (.inl h)))
    · exact .inr (.inr (.inr (.inr (List.contains_iff_mem.mpr h))))
  · change execCloseContext port ctx s = _
    unfold execCloseContext
    dsimp only
    rw [if_neg (by simpa using hx), if_pos hne]
  · obtain ⟨hctx, hq, hpl, htlb, hbytes⟩ := forgetCtx_spec s ctx
    refine ⟨_, exec_closeContext_last hx hL, ?_⟩
    split
    · next hother =>
      refine ⟨by rw [hctx, Table.find_drop, if_pos rfl], hq, hpl, htlb, hbytes, fun hlast => ?_⟩
      obtain ⟨y, hy, hyt⟩ := List.any_eq_true.mp hother
      rw [hctx] at hy
      obtain ⟨hy, hne⟩ := List.mem_filter.mp hy
      exact absurd (beq_iff_eq.mp hyt) (hlast y hy (by simpa using hne))
    · refine ⟨(congrArg (Table.find · ctx) hctx).trans (by rw [Table.find_drop, if_pos rfl]), hq, hpl, htlb, hbytes, fun _ => ?_⟩
      simp [State.setTenant, State.tenant]
  · subst hm
    intro v
    rw [exec_bindPeer ho]
    have hany : (live.any fun c => c.device == device) = true ↔ ∃ c ∈ live, c.device = device := by
      simp only [List.any_eq_true, beq_iff_eq]
    refine ⟨fun h => if_pos (h.imp_right (·.imp_right (·.imp_right (·.imp_right hany.mpr)))) ▸ rfl, fun hd hs hp hl hc => ?_⟩
    rw [if_neg]
    rintro (h | h | h | h | h)
    · omega
    · exact hs h
    · omega
    · exact absurd h (Nat.not_le.mpr hl)
    · obtain ⟨c, hcm, hcd⟩ := hany.mp h
      exact hc c hcm hcd
  · subst hm
    intro v
    rw [exec_unbindPeer ho]
    refine ⟨fun h => ?_, fun h => ?_⟩
    · have hnone : (x.conns.any fun c => c.device == device) = false := by simpa using h
      rw [hnone]
      rfl
    · have hsome : (x.conns.any fun c => c.device == device) = true := by simpa using h
      rw [hsome]
      refine ⟨fun hp => ?_, fun hp => ?_⟩
      · have hsegs : (s.peerSegs.any fun p => p.ctx == m.ctx && p.device == device) = true := by simpa using hp
        rw [hsegs]
        rfl
      · have hsegs : (s.peerSegs.any fun p => p.ctx == m.ctx && p.device == device) = false := by simpa using hp
        rw [hsegs]
        rfl
  · refine ⟨_, exec_peerConnectionFailure h, ?_⟩
    have hfail : ∀ c ∈ x.conns.map (fun (c : Conn) => if c.device = device then { c with failed := true } else c), c.device = device → c.failed = true := by
      intro c hc hd
      obtain ⟨b, -, rfl⟩ := List.mem_map.mp hc
      by_cases hb : b.device = device
      · simp [hb]
      · simp [hb] at hd
    have hconns : ∀ cs : List Conn, ((s.setCtx ctx { x with conns := cs }).ctx ctx).conns = cs := fun cs => by simp
    refine ⟨?_, ?_, reaches_failed ?_⟩
    · rw [hconns, List.length_map]
    · rw [hconns]; exact hfail
    · rw [hconns]; exact hfail
  · have hno : (s.launches.any fun L => L.2.started && !L.2.complete && L.2.rcd.table == slot) = false := by simpa [and_imp] using hL
    refine ⟨_, (exec_decodeTableLoad s slot img).trans (if_neg ?_), rfl, ?_, fun n hn => ?_, ?_⟩
    · rw [hi, hno]
      rintro (h | h | h | h)
      · omega
      · cases h
      · omega
      · cases h
    · simp
    · simp [hn]
    · exact List.mem_append_right _ (List.mem_singleton.mpr rfl)
  · rw [exec_decodeTableLoad, if_pos (h.imp_right (·.imp_right .inl))]
  · exact ⟨_, exec_getMeasurements_physical h nonce, fun m hm => mem_allMeasurements hm⟩
  · refine ⟨_, exec_getMeasurements_virtual h hc nonce, fun m hm hlt => mem_seenMeasurements.mpr ⟨mem_allMeasurements hm, .inl hlt⟩, fun m hm h1 h2 => ?_⟩
    obtain ⟨-, hlt | hge | ⟨t, ht, he⟩⟩ := mem_seenMeasurements.mp hm
    · omega
    · omega
    · rwa [he, Nat.add_sub_cancel_left]

end Sys2Proof.Machine
end

section
/-! SUPPORT. Lines that caches hold, and reads past the reverse map (R190-R195). -/
namespace Sys2Proof.Machine

/-! ### Lines that caches hold -/

theorem Field.line_line {f : Field} {l : Nat} {x : L2Line} (h : f.line l = some x) : x.line = l := by
  simpa using List.find?_some h

/-- The line put is there; the others are as they were. -/
theorem Field.line_putLine (f : Field) (x : L2Line) (l : Nat) : (f.putLine x).line l = if l = x.line then some x else f.line l := by
  unfold Field.putLine Field.line
  dsimp only
  split
  · next hany =>
    rw [List.find?_map]
    split
    · next hl =>
      subst hl
      have hp : ((fun y : L2Line => y.line == x.line) ∘ fun y => if y.line = x.line then x else y) = fun y => y.line == x.line := by
        funext y
        by_cases hy : y.line = x.line <;> simp [hy]
      obtain ⟨z, hz⟩ := Option.isSome_iff_exists.mp (List.find?_isSome.trans List.any_eq_true.symm |>.mpr hany)
      have hzx : z.line = x.line := by simpa using List.find?_some hz
      rw [hp, hz]
      simp [hzx]
    · next hl =>
      have hp : ((fun y : L2Line => y.line == l) ∘ fun y => if y.line = x.line then x else y) = fun y => y.line == l := by
        funext y
        by_cases hy : y.line = x.line
        · simp [hy]
        · simp [hy]
      rw [hp]
      refine Option.map_congr (fun z hz => ?_) |>.trans Option.map_id'
      have hzl : z.line = l := by simpa using List.find?_some hz
      simp [hzl, hl]
  · next hany =>
    rw [List.find?_append]
    split
    · next hl =>
      subst hl
      rw [List.find?_eq_none.mpr fun y hy => by simpa using fun h => hany (List.any_eq_true.mpr ⟨y, hy, by simpa using h⟩)]
      simp
    · next hl => simp [Ne.symm hl]

theorem readable_putLine {s : State} {f line : Nat} {x y : L2Line} (hx : (s.field f).line line = some x) (hl : y.line = x.line) (ha : y.awaiting = x.awaiting)
    (hs : y.st = x.st) (f' l : Nat) : (s.setField f ((s.field f).putLine y)).readable f' l = s.readable f' l := by
  unfold State.readable
  rw [State.field_setField]
  by_cases hf : f' = f
  · rw [if_pos hf, Field.line_putLine, hl, Field.line_line hx, hf]
    by_cases h : l = line
    · rw [if_pos h, h, hx]
      dsimp only
      rw [ha, hs]
    · rw [if_neg h]
  · rw [if_neg hf]

namespace Caches
variable {s t : State}

theorem memByte (h : Caches s t) (a : Nat) : t.memByte a = s.memByte a := by
  rw [h.rest]
  rfl
theorem memBytes (h : Caches s t) (a n : Nat) : t.memBytes a n = s.memBytes a n := by
  unfold State.memBytes
  simp only [h.memByte]
theorem quads (h : Caches s t) (n : Nat) : (t.core n).quads = (s.core n).quads := by
  rw [h.core n]
theorem warp (h : Caches s t) (a b n : Nat) : t.warp a b n = s.warp a b n := by
  simp only [State.warp, Core.quad, h.quads]

theorem touchL1 (s : State) (cn ctx va : Nat) : Caches s (s.touchL1 cn ctx va) := setL1 s cn _
theorem touchL2 (s : State) (f line : Nat) : Caches s (s.touchL2 f line) := by
  unfold State.touchL2
  split
  · exact setField s _ _
  · exact refl s
theorem request (s : State) (cn line ctx : Nat) (m : Bool) : Caches s (s.request cn line ctx m) := by
  unfold State.request
  dsimp only
  split
  · exact refl s
  · exact (setField s _ _).trans (setCluster _ _ _)
theorem dropRevBit (s : State) (cn line : Nat) : Caches s (s.dropRevBit cn line) := by
  unfold State.dropRevBit
  dsimp only
  split
  · split
    · exact (setCluster s _ _).trans (setField _ _ _)
    · exact setCluster s _ _
  · exact setCluster s _ _
theorem l1Fill (s : State) (cn ctx va pa : Nat) : Caches s (s.l1Fill cn ctx va pa) := by
  unfold State.l1Fill
  dsimp only
  split
  · exact refl s
  · split
    · exact setL1 s cn _
    · refine trans ?_ (setL1 _ cn _)
      split
      · exact refl s
      · split
        · exact (setL1 s cn _).trans (dropRevBit _ _ _)
        · exact refl s

end Caches

/-- From `s` to `t` caches change, but every field reads the lines that it read. -/
structure Reads (s t : State) : Prop extends Caches s t where
  readable : ∀ f l, t.readable f l = s.readable f l

namespace Reads
theorem refl (s : State) : Reads s s := ⟨.refl s, fun _ _ => rfl⟩
theorem trans {s t u : State} (h : Reads s t) (k : Reads t u) : Reads s u :=
  ⟨h.toCaches.trans k.toCaches, fun f l => (k.readable f l).trans (h.readable f l)⟩
theorem setCluster (s : State) (g : Nat) (c : Cluster) : Reads s (s.setCluster g c) := ⟨.setCluster s g c, fun _ _ => rfl⟩
theorem freeRev (s : State) (g line : Nat) : Reads s (s.freeRev g line) := by
  refine ⟨Caches.freeRev s g line, fun f l => ?_⟩
  unfold State.freeRev
  dsimp only
  split
  · rfl
  · refine foldl_keeps (fun t : State => t.readable f l = s.readable f l) _ (fun t j ht => ?_) _ _ rfl
    split
    · exact ht
    · exact ht
theorem presence {s : State} {f line : Nat} {x : L2Line} (hx : (s.field f).line line = some x) (p : BitVec 8) :
    Reads s (s.setField f ((s.field f).putLine { x with presence := p })) :=
  ⟨.setField s _ _, readable_putLine hx rfl rfl rfl⟩

theorem presenceOf (s : State) (f line : Nat) (p : BitVec 8 → BitVec 8) : Reads s (match (s.field f).line line with
    | some x => s.setField f ((s.field f).putLine { x with presence := p x.presence })
    | none => s) := by
  split
  · next hx => exact presence hx _
  · exact refl s

theorem revMiss (s : State) (cn ctx va pa : Nat) : Reads s (s.revMiss cn ctx va pa) := by
  unfold State.revMiss
  dsimp only
  split
  · split
    · exact setCluster s _ _
    · exact (freeRev s _ _).trans (setCluster _ _ _)
  · refine (trans ?_ (setCluster _ _ _)).trans (presenceOf _ _ _ (· ||| _))
    split
    · exact refl s
    · split
      · exact (freeRev s _ _).trans (presenceOf _ _ _ (· &&& _))
      · exact refl s
theorem passMap (s : State) (cn ctx va pa : Nat) : Reads s (s.passMap cn ctx va pa) := by
  unfold State.passMap
  split
  · exact refl s
  · exact revMiss s cn ctx va pa
end Reads

end Sys2Proof.Machine
end

section
/-! SUPPORT. Reads and writes of lines; the write of a producer's values (R30, R190, R191, R202). -/
namespace Sys2Proof.Machine

/-! ### Reads of lines -/

section
variable {s : State} {cn : Nat} {w : Warp} {k : LongKind} {a : LaneAcc} {pa : Nat}

theorem readLine_hit (hp : w.pastL1 k = false) (hh : (s.core cn).l1Hit w.ctx a.va.toNat = true) :
    s.readLine cn w k a pa = (s.touchL1 cn w.ctx a.va.toNat, true) := by
  simp [State.readLine, hp, hh]

/-- A read of a line that is there gives it, and changes caches alone. -/
theorem readLine_readable (hr : s.readable (fieldOf cn) (lineOf pa) = true) : ∃ t, s.readLine cn w k a pa = (t, true) ∧ Caches s t := by
  cases hp : w.pastL1 k with
  | true =>
    simp only [State.readLine, hp, hr, Bool.not_true, Bool.false_and, if_true]
    exact ⟨_, rfl, Caches.touchL2 _ _ _⟩
  | false =>
    cases hh : (s.core cn).l1Hit w.ctx a.va.toNat with
    | true => exact ⟨_, readLine_hit hp hh, Caches.touchL1 _ _ _ _⟩
    | false =>
      have hm : (s.passMap cn w.ctx a.va.toNat pa).readable (fieldOf cn) (lineOf pa) = true := by rw [(Reads.passMap s _ _ _ _).readable, hr]
      simp only [State.readLine, hp, hh, hm, Bool.and_false, Bool.false_eq_true, if_false, if_true]
      exact ⟨_, rfl, ((Reads.passMap s _ _ _ _).toCaches.trans (Caches.touchL2 _ _ _)).trans (Caches.l1Fill _ _ _ _ _)⟩

/-- A read of a line that is not there asks for it. -/
theorem readLine_miss (hr : s.readable (fieldOf cn) (lineOf pa) = false) (hh : w.pastL1 k = true ∨ (s.core cn).l1Hit w.ctx a.va.toNat = false) :
    s.readLine cn w k a pa = ((if w.pastL1 k then s else s.passMap cn w.ctx a.va.toNat pa).request cn (lineOf pa) w.ctx false, false) := by
  cases hp : w.pastL1 k with
  | true => simp [State.readLine, hp, hr]
  | false =>
    have hh' := hh.resolve_left (by rw [hp]; exact Bool.false_ne_true)
    have hm : (s.passMap cn w.ctx a.va.toNat pa).readable (fieldOf cn) (lineOf pa) = false := by rw [(Reads.passMap s _ _ _ _).readable, hr]
    simp [State.readLine, hp, hh', hm]

theorem readLine_caches (s : State) (cn : Nat) (w : Warp) (k : LongKind) (a : LaneAcc) (pa : Nat) : Caches s (s.readLine cn w k a pa).1 := by
  cases hr : s.readable (fieldOf cn) (lineOf pa) with
  | true =>
    obtain ⟨t, ht, hc⟩ := readLine_readable (w := w) (k := k) (a := a) hr
    rw [ht]; exact hc
  | false =>
    cases hp : w.pastL1 k with
    | true => rw [readLine_miss hr (.inl hp), hp]; exact Caches.request _ _ _ _ _
    | false =>
      cases hh : (s.core cn).l1Hit w.ctx a.va.toNat with
      | true => rw [readLine_hit hp hh]; exact Caches.touchL1 _ _ _ _
      | false => rw [readLine_miss hr (.inr hh), hp]; exact (Reads.passMap s _ _ _ _).toCaches.trans (Caches.request _ _ _ _ _)
end

/-! ### A write of a line -/

theorem Caches.backInvalidate (s : State) (f line : Nat) (keep : Option Nat) : Caches s (s.backInvalidate f line keep) := by
  unfold State.backInvalidate
  split
  · exact refl s
  · next x _ =>
    refine foldl (fun u k => ?_) _ s
    dsimp only
    split
    · split
      · split
        · refine (setCluster u _ _).trans (foldl (fun v i => ?_) _ _)
          split
          · exact refl v
          · exact setL1 v _ _
        · exact (freeRev u _ _).trans (setField _ _ _)
      · split
        · exact (freeRev u _ _).trans (setField _ _ _)
        · exact freeRev u _ _
    · exact refl u

/-- From `s` to `t` TIME stands still, and every core keeps all but its L1. -/
structure CoresKept (s t : State) : Prop where
  time : t.time = s.time
  core : ∀ n, t.core n = { s.core n with l1 := (t.core n).l1 }

theorem Caches.coresKept {s t : State} (h : Caches s t) : CoresKept s t := ⟨by rw [h.rest], h.core⟩
theorem CoresKept.warp {s t : State} (h : CoresKept s t) (a b n : Nat) : t.warp a b n = s.warp a b n := by
  rw [State.warp, h.core a]
  rfl

/-- A byte is read from memory, from the list of undefined bytes and from the draw. -/
theorem State.memByte_congr {s t : State} (hm : t.mem = s.mem) (hu : t.undefined = s.undefined) (hf : t.fresh = s.fresh) (a : Nat) : t.memByte a = s.memByte a := by
  rw [State.memByte, State.memByte, hm, hu, hf]

theorem loseTails_eq (s : State) (line : Nat) : s.loseTails line = { s with queues := (s.loseTails line).queues } := by
  unfold State.loseTails
  split <;> rfl

/-- What a write of a line makes of a state: caches, queue slots, what home memory lags behind, and the bytes. -/
theorem writeLine_spec (s : State) (f : Nat) (who : Option Nat) (pa : Nat) (bs : List Byte) :
    ∃ u, Caches s u ∧ ∃ qs fs b, s.writeLine f who pa bs = State.pokeMem { u with queues := qs, fields := fs, behind := b } pa bs := by
  refine ⟨_, Caches.backInvalidate s f (lineOf pa) who, ?_⟩
  unfold State.writeLine
  dsimp only
  rw [loseTails_eq]
  split
  · exact ⟨_, _, _, rfl⟩
  · exact ⟨_, _, _, rfl⟩

/-- A write of a line leaves the cores but for their L1s, and TIME. -/
theorem writeLine_coresKept (s : State) (f : Nat) (who : Option Nat) (pa : Nat) (bs : List Byte) : CoresKept s (s.writeLine f who pa bs) := by
  obtain ⟨u, hu, qs, fs, b, h⟩ := writeLine_spec s f who pa bs
  rw [h]
  exact ⟨hu.coresKept.time, hu.core⟩
theorem memByte_writeLine (s : State) (f : Nat) (who : Option Nat) (pa : Nat) (bs : List Byte) (a : Nat) :
    (s.writeLine f who pa bs).memByte a = if pa ≤ a ∧ a < pa + bs.length then bs.getD (a - pa) 0#8 else s.memByte a := by
  obtain ⟨u, hu, qs, fs, b, h⟩ := writeLine_spec s f who pa bs
  rw [h, memByte_pokeMem, ← hu.memByte a]
  rfl

/-! ### What binding leaves of the register files -/

/-- From `s` to `t` the register files stay, and every warp keeps its place in them. -/
def RegsKept (s t : State) : Prop := ∀ a b, ((t.core a).quad b).rf = ((s.core a).quad b).rf ∧
  ∀ n, (t.warp a b n).map (fun w => (w.base, w.ubase)) = (s.warp a b n).map fun w => (w.base, w.ubase)

namespace RegsKept
variable {s t u : State}
theorem refl (s : State) : RegsKept s s := fun _ _ => ⟨rfl, fun _ => rfl⟩
theorem trans (h : RegsKept s t) (k : RegsKept t u) : RegsKept s u := fun a b =>
  ⟨(k a b).1.trans (h a b).1, fun n => ((k a b).2 n).trans ((h a b).2 n)⟩
theorem ofCores (h : CoresKept s t) : RegsKept s t := fun a b => by
  refine ⟨?_, fun n => by rw [h.warp]⟩
  rw [h.core a]
  rfl
/-- A change of a warp that keeps its place. -/
theorem onWarp (s : State) (a b n : Nat) (f : Warp → Warp) (hf : ∀ w, (f w).base = w.base ∧ (f w).ubase = w.ubase) : RegsKept s (s.onWarp a b n f) := by
  unfold State.onWarp
  split
  · next w hw =>
    have hfw : ((f w).base, (f w).ubase) = (w.base, w.ubase) := by rw [(hf w).1, (hf w).2]
    intro x y
    refine ⟨?_, fun m => ?_⟩
    · by_cases hx : x = a <;> by_cases hy : y = b <;> simp [State.setWarp, State.setQuad, Quadrant.setWarp, hx, hy]
    · by_cases hx : x = a <;> by_cases hy : y = b <;> by_cases hm : m = n <;>
        simp_all [State.setWarp, State.setQuad, State.warp]
  · exact refl s

theorem bindLost (s : State) (f line : Nat) : RegsKept s (s.bindLost f line) := by
  unfold State.bindLost
  split
  · refine foldl_keeps (RegsKept s) _ (fun u x hu => ?_) _ _ (refl s)
    split
    · exact hu
    · exact hu.trans (onWarp u _ _ _ _ fun _ => ⟨rfl, rfl⟩)
  · exact refl s

theorem performAt (s : State) (cn pa : Nat) (bs : List Byte) : RegsKept s (s.performAt cn pa bs) :=
  (bindLost s _ _).trans (ofCores (writeLine_coresKept _ _ _ _ _))

theorem bindLane (s : State) (cn : Nat) (w : Warp) (o : LongOp) (a : LaneAcc) : RegsKept s (s.bindLane cn w o a).1 := by
  have hread := fun pa => ofCores (readLine_caches s cn w o.kind a pa).coresKept
  have hask := fun line m => ofCores (Caches.request s cn line w.ctx m).coresKept
  unfold State.bindLane
  dsimp only
  split
  case h_1 =>
    split
    · exact refl s
    · split
      case h_1 pa _ =>
        split
        · exact refl s
        · split
          · next hr => have h := hread pa; rw [hr] at h; exact h
          · next hr => have h := hread pa; rw [hr] at h; exact h
      case h_2 => split <;> exact refl s
      all_goals exact refl s
  case h_2 =>
    split
    · split
      · exact refl s
      · split
        · exact performAt s cn _ _
        · exact hask _ _
    · exact refl s
  case h_3 =>
    split
    · split <;> exact refl s
    · exact refl s
  case h_4 =>
    split
    · exact refl s
    · split
      case h_1 pa _ =>
        split
        · next hr => have h := hread pa; rw [hr] at h; exact h
        · next hr => have h := hread pa; rw [hr] at h; exact h
      case h_2 => exact refl s
  case h_5 => exact refl s

theorem bindAll (s : State) (cn : Nat) (w : Warp) (o : LongOp) : RegsKept s (s.bindAll cn w o).1 := by
  unfold State.bindAll
  refine foldl_keeps (fun p : State × LongOp => RegsKept s p.1) _ (fun p a hp => ?_) _ _ (refl s)
  have h := hp.trans (bindLane p.1 cn { w with pend := w.pend.map fun x => if x.seq = o.seq then p.2 else x } p.2 a)
  dsimp only
  split
  · next hb => rw [hb] at h; exact h
  · next hb => rw [hb] at h; exact h
end RegsKept


/-! ### The write of a completed producer's values -/

/-- The value set last at a cell, where each cell is set once. -/
theorem get_foldl_setAt {β : Type} (cell : β → Nat) (val : β → Word) : ∀ (xs : List β) (rf : Sparse Word), (xs.map cell).Nodup →
    (∀ x ∈ xs, Sparse.get 0#32 (xs.foldl (fun rf x => Sparse.set 0#32 rf (cell x) (val x)) rf) (cell x) = val x) ∧
    ∀ i, (∀ x ∈ xs, cell x ≠ i) → Sparse.get 0#32 (xs.foldl (fun rf x => Sparse.set 0#32 rf (cell x) (val x)) rf) i = Sparse.get 0#32 rf i := by
  intro xs
  induction xs with
  | nil => exact fun rf _ => ⟨nofun, fun _ _ => rfl⟩
  | cons y ys ih =>
    intro rf hn
    rw [List.map_cons, List.nodup_cons] at hn
    obtain ⟨hval, hother⟩ := ih (Sparse.set 0#32 rf (cell y) (val y)) hn.2
    refine ⟨fun x hx => ?_, fun i hi => ?_⟩
    · rw [List.foldl_cons]
      rcases List.mem_cons.mp hx with rfl | hx
      · rw [hother _ fun z hz he => hn.1 (List.mem_map.mpr ⟨z, hz, he⟩), Sparse.get_set, if_pos rfl]
      · exact hval x hx
    · rw [List.foldl_cons, hother i fun z hz => hi z (by simp [hz]), Sparse.get_set, if_neg (hi y (by simp)).symm]

/-- The cells of a producer's destination, by lane and register, with the words that they take. -/
def LongOp.cellOf (o : LongOp) (w : Warp) (x : (Nat × BitVec 128) × (Nat × Nat)) : Nat :=
  if o.uniform then w.ubase * 32 + x.2.2 else (w.base + x.2.2) * 32 + x.1.1
def LongOp.writes (o : LongOp) : List ((Nat × BitVec 128) × (Nat × Nat)) :=
  o.vals.flatMap fun v => ((List.range o.dest.length).zip o.dest).map fun d => (v, d)

theorem writeBack_rf (q : Quadrant) (w : Warp) (o : LongOp) : (q.writeBack w o).rf =
    o.writes.foldl (fun rf x => Sparse.set 0#32 rf (o.cellOf w x) (x.1.2.extractLsb' (32 * x.2.1) 32)) q.rf := by
  simp only [Quadrant.writeBack, LongOp.writes, List.foldl_flatMap, List.foldl_map]
  rfl

theorem LongOp.mem_writes {o : LongOp} {v : Nat × BitVec 128} {j d : Nat} (hv : v ∈ o.vals) (hd : o.dest[j]? = some d) : (v, (j, d)) ∈ o.writes := by
  obtain ⟨hj, -⟩ := List.getElem?_eq_some_iff.mp hd
  have hz : ((List.range o.dest.length).zip o.dest)[j]? = some (j, d) := by
    rw [List.getElem?_zip_eq_some]
    exact ⟨by simp [hj], hd⟩
  exact List.mem_flatMap.mpr ⟨v, hv, List.mem_map.mpr ⟨_, List.mem_of_getElem? hz, rfl⟩⟩
theorem LongOp.of_mem_writes {o : LongOp} {x : (Nat × BitVec 128) × (Nat × Nat)} (h : x ∈ o.writes) :
    x.1 ∈ o.vals ∧ x.2 ∈ (List.range o.dest.length).zip o.dest := by
  obtain ⟨v, hv, hx⟩ := List.mem_flatMap.mp h
  obtain ⟨d, hd, rfl⟩ := List.mem_map.mp hx
  exact ⟨hv, hd⟩

/-- Each cell of a destination takes one word: the registers are different, and so are the lanes. -/
theorem LongOp.nodup_cells {o : LongOp} (w : Warp) (hd : o.dest.Nodup) (hv : (o.vals.map (·.1)).Nodup) (hu : o.uniform = true → o.vals.length ≤ 1)
    (hl : o.uniform = false → ∀ v ∈ o.vals, v.1 < 32) : (o.writes.map (o.cellOf w)).Nodup := by
  have hz : (((List.range o.dest.length).zip o.dest).map Prod.snd).Nodup := by
    rwa [List.map_snd_zip (by simp)]
  refine List.Nodup.map_on (fun x hx y hy hc => ?_) (hv.of_map.product hz.of_map)
  obtain ⟨hxv, hxd⟩ := LongOp.of_mem_writes hx
  obtain ⟨hyv, hyd⟩ := LongOp.of_mem_writes hy
  unfold LongOp.cellOf at hc
  cases huni : o.uniform with
  | true =>
    rw [huni, if_pos rfl, if_pos rfl] at hc
    have hreg : x.2 = y.2 := List.inj_on_of_nodup_map hz hxd hyd (by omega)
    have hval : x.1 = y.1 := by
      match hvals : o.vals, hu huni, hxv, hyv with
      | [v], _, hxv, hyv => rw [List.mem_singleton.mp hxv, List.mem_singleton.mp hyv]
    exact Prod.ext hval hreg
  | false =>
    rw [huni] at hc
    simp only [Bool.false_eq_true, if_false] at hc
    have h1 := hl huni _ hxv
    have h2 := hl huni _ hyv
    exact Prod.ext (List.inj_on_of_nodup_map hv hxv hyv (by omega)) (List.inj_on_of_nodup_map hz hxd hyd (by omega))

/-- A completed producer's values stand in its destination, and no other word of the register file changes (R30). -/
theorem writeBack_spec (q : Quadrant) (w : Warp) {o : LongOp} (hd : o.dest.Nodup) (hv : (o.vals.map (·.1)).Nodup) (hu : o.uniform = true → o.vals.length ≤ 1)
    (hl : o.uniform = false → ∀ v ∈ o.vals, v.1 < 32) :
    (∀ v ∈ o.vals, ∀ j d, o.dest[j]? = some d →
      Sparse.get 0#32 (q.writeBack w o).rf (if o.uniform then w.ubase * 32 + d else (w.base + d) * 32 + v.1) = v.2.extractLsb' (32 * j) 32) ∧
    ∀ i, (∀ v ∈ o.vals, ∀ d ∈ o.dest, i ≠ if o.uniform then w.ubase * 32 + d else (w.base + d) * 32 + v.1) →
      Sparse.get 0#32 (q.writeBack w o).rf i = Sparse.get 0#32 q.rf i := by
  have h := get_foldl_setAt (o.cellOf w) (fun x => x.1.2.extractLsb' (32 * x.2.1) 32) o.writes q.rf (o.nodup_cells w hd hv hu hl)
  rw [← writeBack_rf] at h
  refine ⟨fun v hv j d hd => ?_, fun i hi => ?_⟩
  · exact h.1 (v, (j, d)) (o.mem_writes hv hd)
  · refine h.2 i fun x hx => ?_
    obtain ⟨hxv, hxd⟩ := LongOp.of_mem_writes hx
    exact (hi x.1 hxv x.2.2 (List.of_mem_zip hxd).2).symm

end Sys2Proof.Machine
end

section
/-! SUPPORT. A pending producer completes; one lane of it binds (R30, R210-R213). -/
namespace Sys2Proof.Machine

/-! ### A producer completes -/

/-- The state in which a producer has completed, its entries gone from the scoreboard and its values written, before its warp looks at the Mangle (R30, R172). -/
def State.completed (s : State) (cn qn wn : Nat) (w : Warp) (o o' : LongOp) : State :=
  let t := if (s.core cn).cycle < o.at_ then s.passTo cn o.at_ else s
  t.setCore cn ((t.core cn).setQuad qn ((((t.core cn).quad qn).writeBack w o').setWarp wn (w.dropOp o)))

theorem exec_longLatencyComplete {s : State} {cn qn wn seq : Nat} {w : Warp} {o : LongOp} (hw : s.warp cn qn wn = some w)
    (ho : (w.pend.find? fun x => x.seq == seq) = some o) (ha : o.again = false) :
    exec (.longLatencyComplete cn qn wn seq) s = .next (s.advanceOp cn qn wn o) := by
  change execLongLatencyComplete cn qn wn seq s = _
  unfold execLongLatencyComplete
  simp only [hw, ho, ha]
  rfl

/-- A producer that is not a WBL or DISC completes when all its lanes are bound and all its data has come, from its CYCLE on. -/
theorem advanceOp_bound {s s' : State} {cn qn wn : Nat} {w w1 : Warp} {o o' : LongOp} (hw : s.warp cn qn wn = some w) (hwbl : o.kind ≠ .wbl)
    (hdisc : o.kind ≠ .disc) (hb : s.bindAll cn w o = (s', o')) (hopen : o'.open_ = []) (hdue : o'.due = [])
    (hc : ({ s' with fresh := s'.fresh + 1 } : State).comes cn o.at_ = true) (hw1 : s'.warp cn qn wn = some w1) :
    s.advanceOp cn qn wn o = (({ s' with fresh := s'.fresh + 1 } : State).completed cn qn wn w1 o o').mangleWarp cn qn wn := by
  have hw1' : ({ s' with fresh := s'.fresh + 1 } : State).warp cn qn wn = some w1 := hw1
  unfold State.advanceOp
  rw [hw]
  dsimp only
  generalize o.kind = kd at hwbl hdisc
  cases kd
  case wbl => exact absurd rfl hwbl
  case disc => exact absurd rfl hdisc
  all_goals
    dsimp only
    rw [hb]
    dsimp only
    rw [hw1']
    dsimp only
    rw [hopen, hdue, hc]
    rfl

/-- A WBL or DISC completes when its messages have passed their ordering points (R213). -/
theorem advanceOp_posted {s : State} {cn qn wn : Nat} {w : Warp} {o : LongOp} (hw : s.warp cn qn wn = some w) (hk : o.kind = .wbl ∨ o.kind = .disc)
    (hp : o.posted = true) (hs : s.stillPosted cn w o = false) (hc : o.at_ ≤ (s.core cn).cycle) :
    s.advanceOp cn qn wn o = (({ s with fresh := s.fresh + 1 } : State).completed cn qn wn w o o).mangleWarp cn qn wn := by
  have hw' : ({ s with fresh := s.fresh + 1 } : State).warp cn qn wn = some w := hw
  have hs' : ({ s with fresh := s.fresh + 1 } : State).stillPosted cn w o = false := hs
  have hcomes : ({ s with fresh := s.fresh + 1 } : State).comes cn o.at_ = true := by
    have hc' : o.at_ ≤ (({ s with fresh := s.fresh + 1 } : State).core cn).cycle := hc
    simp [State.comes, hc']
  have hpost : s.postLines cn w o = (s, o) := by simp [State.postLines, hp]
  unfold State.advanceOp
  rw [hw]
  dsimp only
  rw [hpost]
  rcases hk with hk | hk
  · rw [hk]
    dsimp only
    rw [hw']
    dsimp only
    rw [hp, hs', hcomes]
    rfl
  · rw [hk]
    dsimp only
    rw [hw']
    dsimp only
    rw [hp, hs', hcomes]
    rfl

theorem passTo_core (s : State) (cn n : Nat) : (s.passTo cn n).core cn = { s.core cn with cycle := max (s.core cn).cycle n } :=
  (State.core_setCore s cn _ cn).trans (if_pos rfl)

/-- What stands in the state of a completed producer. -/
theorem completed_spec (s : State) (cn qn wn : Nat) (w : Warp) (o o' : LongOp) :
    let t := s.completed cn qn wn w o o'
    t.warp cn qn wn = some (w.dropOp o) ∧ o.at_ ≤ (t.core cn).cycle ∧ ((t.core cn).quad qn).rf = (((s.core cn).quad qn).writeBack w o').rf ∧ t.mem = s.mem := by
  have hput (u : State) : let t := u.setCore cn ((u.core cn).setQuad qn ((((u.core cn).quad qn).writeBack w o').setWarp wn (w.dropOp o)))
      t.warp cn qn wn = some (w.dropOp o) ∧ (t.core cn).cycle = (u.core cn).cycle ∧ ((t.core cn).quad qn).rf = (((u.core cn).quad qn).writeBack w o').rf := by
    simp [State.warp, Quadrant.setWarp, Core.setQuad, Core.quad]
  unfold State.completed
  dsimp only
  split
  · obtain ⟨hwarp, hcycle, hrf⟩ := hput (s.passTo cn o.at_)
    refine ⟨hwarp, ?_, hrf.trans ?_, rfl⟩
    · rw [hcycle, passTo_core]
      exact le_max_right _ _
    · rw [passTo_core]
      rfl
  · next hlt =>
    obtain ⟨hwarp, hcycle, hrf⟩ := hput s
    exact ⟨hwarp, hcycle ▸ Nat.le_of_not_lt hlt, hrf, rfl⟩

/-! ### One lane of a producer -/

/-- Bytes that are all forwarded are not those of memory. -/
theorem loaded_allForwarded {w : Warp} {seq : Nat} {a : LaneAcc} (h : w.allForwarded seq a = true) (bs cs : List Byte) : w.loaded seq a bs = w.loaded seq a cs := by
  unfold Warp.loaded
  refine congrArg leNat (List.map_congr_left fun i hi => ?_)
  have hi' := List.all_eq_true.mp h i hi
  split
  · rfl
  · next hn => rw [hn] at hi'; cases hi'

theorem loadValue_eq {o : LongOp} {sg : Bool} {k : LdKind} (hk : o.kind = .load sg k) (w : Warp) (a : LaneAcc) (bs : List Byte) :
    o.loadValue w a bs = extended sg a.width (if k = .volatile then leNat bs else w.loaded o.seq a bs) := by
  unfold LongOp.loadValue
  rw [hk]
  cases k <;> rfl

theorem pastL1_load (w : Warp) (sg : Bool) (k : LdKind) : w.pastL1 (.load sg k) = true ↔ w.mgmt = true ∨ k = .volatile := by
  cases k <;> simp [Warp.pastL1, LongKind.volatile]

section
variable {s : State} {cn : Nat} {w : Warp} {o : LongOp} {a : LaneAcc} {pa : Nat} (hloc : a.loc = .mem pa) (hfree : w.blocked (o.ask a) = false)
include hloc hfree

section
variable {sg : Bool} {k : LdKind} (hk : o.kind = .load sg k) (hnew : w.laneStoreNewer o.seq a = false)
include hk hnew

theorem bindLane_load : s.bindLane cn w o a =
    if k ≠ .volatile ∧ w.allForwarded o.seq a = true then (s, some (o.loadValue w a [], []))
    else if (s.readLine cn w o.kind a pa).2 = true then
      ((s.readLine cn w o.kind a pa).1, some (o.loadValue w a ((s.readLine cn w o.kind a pa).1.memBytes pa a.width), []))
    else ((s.readLine cn w o.kind a pa).1, none) := by
  have hmay : w.mayLoad o a = true := by simp [Warp.mayLoad, hfree, hnew]
  have hvol : (!o.kind.volatile && w.allForwarded o.seq a) = decide (k ≠ .volatile ∧ w.allForwarded o.seq a = true) := by
    rw [hk]
    cases k <;> simp [LongKind.volatile]
  generalize hr : s.readLine cn w o.kind a pa = r
  obtain ⟨t, b⟩ := r
  rw [hk] at hr hvol
  unfold State.bindLane
  simp only [hk, hmay, hloc, hvol, hr]
  cases b <;> simp

/-- A load of a line that is there takes its bytes, or those forwarded (R192, R210). -/
theorem bindLane_load_readable (hr : s.readable (fieldOf cn) (lineOf pa) = true) :
    ∃ t, s.bindLane cn w o a = (t, some (extended sg a.width (if k = .volatile then leNat (s.memBytes pa a.width) else w.loaded o.seq a (s.memBytes pa a.width)), [])) ∧
      Caches s t := by
  rw [bindLane_load hloc hfree hk hnew]
  split
  · next h =>
    refine ⟨s, ?_, .refl s⟩
    rw [loadValue_eq hk, if_neg h.1, if_neg h.1, loaded_allForwarded h.2]
  · obtain ⟨t, ht, hc⟩ := readLine_readable (w := w) (k := o.kind) (a := a) hr
    rw [ht, if_pos rfl, loadValue_eq hk, hc.memBytes]
    exact ⟨t, rfl, hc⟩

/-- One of a line that is not there asks for it, past the reverse map where it fills an L1 (R191, R210). -/
theorem bindLane_load_miss (hr : s.readable (fieldOf cn) (lineOf pa) = false)
    (h : k = .volatile ∨ (w.allForwarded o.seq a = false ∧ (w.mgmt = true ∨ (s.core cn).l1Hit w.ctx a.va.toNat = false))) :
    s.bindLane cn w o a =
      ((if w.mgmt = true ∨ k = .volatile then s else s.passMap cn w.ctx a.va.toNat pa).request cn (lineOf pa) w.ctx false, none) := by
  have hpast : w.pastL1 o.kind = true ∨ (s.core cn).l1Hit w.ctx a.va.toNat = false := by
    rw [hk, pastL1_load]
    rcases h with hv | ⟨-, hm | hh⟩
    · exact .inl (.inr hv)
    · exact .inl (.inl hm)
    · exact .inr hh
  have hforward : ¬ (k ≠ .volatile ∧ w.allForwarded o.seq a = true) := by
    rintro ⟨hv, hf⟩
    rw [(h.resolve_left hv).1] at hf
    cases hf
  rw [bindLane_load hloc hfree hk hnew, if_neg hforward, readLine_miss hr hpast, if_neg Bool.false_ne_true]
  simp only [hk, pastL1_load]

/-- One of a sector that its core's L1 holds takes its bytes from there (R190). -/
theorem bindLane_load_hit (hv : k ≠ .volatile) (hm : w.mgmt = false) (hf : w.allForwarded o.seq a = false) (hh : (s.core cn).l1Hit w.ctx a.va.toNat = true) :
    s.bindLane cn w o a = (s.touchL1 cn w.ctx a.va.toNat, some (extended sg a.width (w.loaded o.seq a (s.memBytes pa a.width)), [])) := by
  have hpast : w.pastL1 o.kind = false := by
    rw [hk, Bool.eq_false_iff, ne_eq, pastL1_load, hm]
    simp [hv]
  rw [bindLane_load hloc hfree hk hnew, if_neg (by simp [hf]), readLine_hit hpast hh, if_pos rfl, loadValue_eq hk, if_neg hv, (Caches.touchL1 s _ _ _).memBytes]

end

/-- An atomic gives the old value, and writes the new where its field may write the line; else it asks for the line (R202, R212). -/
theorem bindLane_atomic {op : AtOp} (hk : o.kind = .atomic op) (hlow : ∀ b ∈ o.tries, b.lane < a.lane → b.overlaps a = false) :
    s.bindLane cn w o a =
      if s.writable (fieldOf cn) (lineOf pa) then
        (s.performAt cn pa (toLe (op.apply (8 * a.width) (s.memNat pa a.width) (a.data.toNat % 2 ^ (8 * a.width)) (a.data.toNat / 2 ^ (8 * a.width) % 2 ^ (8 * a.width))) a.width),
          some (BitVec.ofNat 128 (s.memNat pa a.width), if s.readable (fieldOf cn) (lineOf pa) then [] else [lineOf pa]))
      else (s.request cn (lineOf pa) w.ctx true, none) := by
  have hl : (o.tries.any fun b => decide (b.lane < a.lane) && b.overlaps a) = false := by
    rw [List.any_eq_false]
    intro b hb
    by_cases hlt : b.lane < a.lane
    · simp [hlow b hb hlt]
    · simp [hlt]
  unfold State.bindLane
  simp only [hk, hloc, hfree, hl]
  rfl
end

/-! ### Bytes -/

theorem length_toLe (x n : Nat) : (toLe x n).length = n := by
  induction n generalizing x with
  | zero => rfl
  | succ n ih => simp [toLe, ih]
theorem getD_toLe (x n i : Nat) (h : i < n) : (toLe x n).getD i 0#8 = BitVec.ofNat 8 (x / 256 ^ i) := by
  induction n generalizing x i with
  | zero => omega
  | succ n ih =>
    cases i with
    | zero => simp [toLe]
    | succ i =>
      rw [toLe, List.getD_cons_succ, ih _ _ (by omega), Nat.div_div_eq_div_mul, Nat.pow_succ, Nat.mul_comm]

/-- A store or an atomic performed at the L2 writes its bytes, lowest first, and no other byte that is defined (R1, R202). -/
theorem memByte_performAt (s : State) (cn pa x n : Nat) :
    (∀ i, i < n → (s.performAt cn pa (toLe x n)).memByte (pa + i) = BitVec.ofNat 8 (x / 256 ^ i)) ∧
    ∀ b, b ∉ s.undefined → b < pa ∨ pa + n ≤ b → (s.performAt cn pa (toLe x n)).memByte b = s.memByte b := by
  have hlost : (s.bindLost (fieldOf cn) (lineOf pa)).mem = s.mem ∧ (s.bindLost (fieldOf cn) (lineOf pa)).undefined = s.undefined := by
    unfold State.bindLost
    split
    · refine foldl_keeps (fun t : State => t.mem = s.mem ∧ t.undefined = s.undefined) _ (fun t x ht => ?_) _ _ ⟨rfl, rfl⟩
      split
      · exact ht
      · unfold State.onWarp
        split
        · exact ht
        · exact ht
    · exact ⟨rfl, rfl⟩
  unfold State.performAt
  refine ⟨fun i hi => ?_, fun b hb hout => ?_⟩
  · rw [memByte_writeLine, length_toLe, if_pos (by omega), Nat.add_sub_cancel_left, getD_toLe x n i hi]
  · rw [memByte_writeLine, length_toLe, if_neg (by omega), State.memByte, State.memByte, hlost.1, hlost.2]
    simp [hb]

end Sys2Proof.Machine
end

section
/-! SUPPORT. Stores leave the buffer (R202, R309). -/
namespace Sys2Proof.Machine

/-! ### Stores that have left their buffers -/

theorem flatMap_put {α β : Type} {g : Nat × α → List β} {m : Table α} {a : Nat} {v : α} (v' : α) (hv : m.find a = some v) (hg : ∀ x ∈ m, g x = []) :
    (m.put a v').flatMap g = g (a, v') := by
  induction m with
  | nil => cases hv
  | cons x m ih =>
    obtain ⟨k, y⟩ := x
    have htail : ∀ z ∈ m, g z = [] := fun z hz => hg z (by simp [hz])
    by_cases hk : k = a
    · simp only [Table.put, hk, if_true, List.flatMap_cons, List.flatMap_eq_nil_iff.mpr htail, List.append_nil]
    · simp only [Table.find, hk, if_false] at hv
      simp only [Table.put, hk, if_false, List.flatMap_cons, hg (k, y) (by simp), ih hv htail, List.nil_append]

/-- A warp that is there stands in the tables of its core and its quadrant. -/
theorem find_of_warp {s : State} {cn qn wn : Nat} {w : Warp} (h : s.warp cn qn wn = some w) :
    s.cores.find cn = some (s.core cn) ∧ (s.core cn).quads.find qn = some ((s.core cn).quad qn) ∧ ((s.core cn).quad qn).warps.find wn = some w := by
  have hq : (s.core cn).quads.find qn = some ((s.core cn).quad qn) := by
    unfold Core.quad
    cases hf : (s.core cn).quads.find qn with
    | some q => rfl
    | none =>
      rw [State.warp, Core.quad, hf] at h
      cases h
  refine ⟨?_, hq, h⟩
  unfold State.core
  cases hf : s.cores.find cn with
  | some c => rfl
  | none =>
    rw [State.core, hf] at hq
    cases hq

/-- What a warp of a place has sent of a line's stores. -/
def Warp.sentOf (w : Warp) (place : Nat × Nat × Nat) (line : Nat) : List (Nat × (Nat × Nat × Nat) × BufStore) :=
  w.sb.filterMap fun b => b.sent.bind fun d => if b.acc.onLine line && !b.lost then some (d, place, b) else none

theorem sentTo_eq (s : State) (f line : Nat) : s.sentTo f line = s.cores.flatMap fun c => c.2.quads.flatMap fun q => q.2.warps.flatMap fun w =>
    if fieldOf c.1 ≠ f then [] else w.2.sentOf (c.1, q.1, w.1) line := by
  simp only [State.sentTo, State.allWarps, List.flatMap_assoc, List.flatMap_map]
  rfl

theorem mem_of_find {α : Type} {m : Table α} {a : Nat} {v : α} (h : m.find a = some v) : (a, v) ∈ m := by
  induction m with
  | nil => cases h
  | cons x m ih =>
    obtain ⟨k, y⟩ := x
    by_cases hk : k = a
    · simp only [Table.find, hk, if_true, Option.some.injEq] at h
      simp [hk, h]
    · simp only [Table.find, hk, if_false] at h
      exact List.mem_cons_of_mem _ (ih h)

/-- Where nothing has been sent, no warp has sent anything, and what one then sends is all. -/
theorem sentTo_setWarp {s : State} {cn qn wn line : Nat} {w : Warp} (hw : s.warp cn qn wn = some w) (h : s.sentTo (fieldOf cn) line = []) :
    w.sentOf (cn, qn, wn) line = [] ∧ ∀ w', (s.setWarp cn qn wn w').sentTo (fieldOf cn) line = w'.sentOf (cn, qn, wn) line := by
  obtain ⟨hc, hq, hn⟩ := find_of_warp hw
  rw [sentTo_eq] at h
  have hcores := List.flatMap_eq_nil_iff.mp h
  have hquads := List.flatMap_eq_nil_iff.mp (hcores _ (mem_of_find hc))
  have hwarps := List.flatMap_eq_nil_iff.mp (hquads _ (mem_of_find hq))
  refine ⟨?_, fun w' => ?_⟩
  · have hnil := hwarps _ (mem_of_find hn)
    rwa [if_neg (fun hne => hne rfl)] at hnil
  · rw [sentTo_eq]
    refine (flatMap_put _ hc hcores).trans ?_
    refine (flatMap_put _ hq hquads).trans ?_
    refine (flatMap_put _ hn hwarps).trans ?_
    rw [if_neg (fun hne => hne rfl)]

/-- The store at a place of the buffer is the only one sent. -/
theorem sentOf_set {w : Warp} {k d : Nat} {b : BufStore} {place : Nat × Nat × Nat} {line : Nat} (hk : k < w.sb.length) (h : w.sentOf place line = [])
    (hline : b.acc.onLine line = true) (hlost : b.lost = false) :
    ({ w with sb := w.sb.set k { b with sent := some d } } : Warp).sentOf place line = [(d, place, { b with sent := some d })] := by
  unfold Warp.sentOf at h ⊢
  have hall := List.filterMap_eq_nil_iff.mp h
  rw [List.set_eq_take_append_cons_drop, if_pos hk, List.filterMap_append, List.filterMap_cons,
    List.filterMap_eq_nil_iff.mpr fun x hx => hall x (List.mem_of_mem_take hx), List.filterMap_eq_nil_iff.mpr fun x hx => hall x (List.mem_of_mem_drop hx)]
  simp [hline, hlost]

/-! ### A store leaves the buffer -/

theorem exec_storePerform (s : State) (cn qn wn k : Nat) : exec (.storePerform cn qn wn k) s = .next ((s.performStore cn qn wn k).getD s) := rfl

/-- The state in which the store at a place has left its buffer, at the draw of now. -/
def State.leftBuffer (s : State) (cn qn wn k : Nat) (w : Warp) (b : BufStore) : State :=
  { s.setWarp cn qn wn { w with sb := w.sb.set k { b with sent := some s.fresh } } with fresh := s.fresh + 1 }

/-- A store that nothing holds back may leave. -/
theorem mayLeave_of {w : Warp} {k : Nat} {b : BufStore} (hheld : b.held = false) (hbefore : ∀ x ∈ w.sb.take k, x.sent ≠ none)
    (hblock : w.blocked b.ask = false) : w.mayLeave k b = true := by
  have hall : ((w.sb.take k).all fun x => x.sent.isSome) = true := List.all_eq_true.mpr fun x hx => Option.isSome_iff_ne_none.mpr (hbefore x hx)
  simp [Warp.mayLeave, hheld, hall, hblock]

section
variable {s : State} {cn qn wn k : Nat} {w : Warp} {b : BufStore} (hw : s.warp cn qn wn = some w) (hb : w.sb[k]? = some b) (hlost : b.lost = false)
include hw hb hlost

theorem performStore_held (hs : b.sent = none) (h : b.held = true ∨ (∃ x ∈ w.sb.take k, x.sent = none) ∨ w.blocked b.ask = true) :
    exec (.storePerform cn qn wn k) s = .next s := by
  have hstay : w.mayLeave k b = false := by
    rcases h with h | ⟨x, hx, hn⟩ | h
    · simp [Warp.mayLeave, h]
    · have hall : ((w.sb.take k).all fun x => x.sent.isSome) = false := List.all_eq_false.mpr ⟨x, hx, by simp [hn]⟩
      simp [Warp.mayLeave, hall]
    · simp [Warp.mayLeave, h]
  rw [exec_storePerform]
  unfold State.performStore
  simp only [hw, hb, hlost, hs, hstay]
  rfl

theorem performStore_mem {pa : Nat} (hs : b.sent = none) (hleave : w.mayLeave k b = true) (hloc : b.acc.loc = .mem pa) :
    exec (.storePerform cn qn wn k) s = .next ((s.leftBuffer cn qn wn k w b).performLine cn w.ctx (lineOf pa)) := by
  rw [exec_storePerform]
  unfold State.performStore
  simp only [State.leftBuffer, hw, hb, hlost, hs, hleave, hloc, Bool.not_true, Bool.or_false, Bool.false_eq_true, if_false,
    Option.getD_some]
theorem performStore_window {c off : Nat} (hs : b.sent = none) (hleave : w.mayLeave k b = true) (hloc : b.acc.loc = .window c off) :
    exec (.storePerform cn qn wn k) s = .next (if s.pairHeld cn c then s else s.leftBuffer cn qn wn k w b) := by
  rw [exec_storePerform]
  unfold State.performStore
  simp only [State.leftBuffer, hw, hb, hlost, hs, hleave, hloc, Bool.not_true, Bool.false_or]
  cases s.pairHeld cn c <;> rfl
theorem performStore_bcast {g off : Nat} (hs : b.sent = none) (hleave : w.mayLeave k b = true) (hloc : b.acc.loc = .bcast g off) :
    exec (.storePerform cn qn wn k) s =
      .next ((s.leftBuffer cn qn wn k w b).postBroadcast (.store b.uid b.seq b.orig) cn g off (toLe b.acc.data.toNat b.acc.width) none) := by
  rw [exec_storePerform]
  unfold State.performStore
  simp only [State.leftBuffer, hw, hb, hlost, hs, hleave, hloc, Bool.not_true, Bool.or_false, Bool.false_eq_true, if_false,
    Option.getD_some]

theorem performStore_windowSent {c off d : Nat} (hs : b.sent = some d) (hloc : b.acc.loc = .window c off) :
    exec (.storePerform cn qn wn k) s = .next (if ((w.sb.take k).any fun x => x.acc.sameTarget b.acc) || s.overtakes cn c d then s
      else (s.windowWrite c off (toLe b.acc.data.toNat b.acc.width) w.master).dropStore cn qn wn b) := by
  rw [exec_storePerform]
  unfold State.performStore
  simp only [hw, hb, hlost, hs, hloc]
  cases ((w.sb.take k).any fun x => x.acc.sameTarget b.acc) || s.overtakes cn c d <;> rfl
theorem performStore_bcastSent {g off d : Nat} (hs : b.sent = some d) (hloc : b.acc.loc = .bcast g off) :
    exec (.storePerform cn qn wn k) s = .next (if s.onItsWay (.store b.uid b.seq b.orig) then s else s.dropStore cn qn wn b) := by
  rw [exec_storePerform]
  unfold State.performStore
  simp only [hw, hb, hlost, hs, hloc]
  cases s.onItsWay (.store b.uid b.seq b.orig) <;> rfl

/-- A store that has left, alone, to a line that its field reads and writes, is performed (R202). -/
theorem performLine_alone {pa : Nat} (hloc : b.acc.loc = .mem pa) (hwr : s.writable (fieldOf cn) (lineOf pa) = true)
    (hnone : s.sentTo (fieldOf cn) (lineOf pa) = []) (ctx : Nat) :
    (s.leftBuffer cn qn wn k w b).performLine cn ctx (lineOf pa) =
      ((s.leftBuffer cn qn wn k w b).performAt cn pa (toLe b.acc.data.toNat b.acc.width)).dropStore cn qn wn { b with sent := some s.fresh } := by
  obtain ⟨hk, -⟩ := List.getElem?_eq_some_iff.mp hb
  obtain ⟨hnil, hone⟩ := sentTo_setWarp hw hnone
  have hline : b.acc.onLine (lineOf pa) = true := by simp [LaneAcc.onLine, hloc]
  have hsent : (s.leftBuffer cn qn wn k w b).sentTo (fieldOf cn) (lineOf pa) = [(s.fresh, (cn, qn, wn), { b with sent := some s.fresh })] :=
    (hone _).trans (sentOf_set hk hnil hline hlost)
  have hwr' : (s.leftBuffer cn qn wn k w b).writable (fieldOf cn) (lineOf pa) = true := hwr
  rw [State.performLine, if_pos hwr', hsent]
  change State.performSent _ _ _ 1 = _
  rw [State.performSent, hsent]
  simp only [firstSent, hloc]
  rfl
end

end Sys2Proof.Machine
end

section
/-! SUPPORT. Stores are performed; the scratchpad accepts an access (R171, R202, R256, R384). -/
namespace Sys2Proof.Machine

/-! ### The state that a performed store leaves -/

/-- A line that its field reads has no load waiting for its data. -/
theorem bindLost_readable {s : State} {f line : Nat} (h : s.readable f line = true) : s.bindLost f line = s := by
  have hno : ((s.field f).line line).any L2Line.awaiting = false := by
    unfold State.readable at h
    cases hx : (s.field f).line line with
    | none => rfl
    | some x =>
      rw [hx] at h
      cases ha : x.awaiting with
      | false => simp [ha]
      | true => simp [ha] at h
  unfold State.bindLost
  rw [hno]
  rfl

/-- Where its field reads the line, a write at the L2 leaves TIME and all of the cores but their L1s. -/
theorem performAt_coresKept {s : State} {cn pa : Nat} (h : s.readable (fieldOf cn) (lineOf pa) = true) (bs : List Byte) :
    CoresKept s (s.performAt cn pa bs) := by
  unfold State.performAt
  rw [bindLost_readable h]
  exact writeLine_coresKept _ _ _ _ _

theorem warp_leftBuffer (s : State) (cn qn wn k : Nat) (w : Warp) (b : BufStore) :
    (s.leftBuffer cn qn wn k w b).warp cn qn wn = some { w with sb := w.sb.set k { b with sent := some s.fresh } } :=
  State.warp_setWarp s cn qn wn _

/-- A byte that is defined does not change when a store leaves its buffer. -/
theorem memByte_leftBuffer (s : State) (cn qn wn k : Nat) (w : Warp) (b : BufStore) {a : Nat} (h : a ∉ s.undefined) :
    (s.leftBuffer cn qn wn k w b).memByte a = s.memByte a := by
  have hu : a ∉ (s.leftBuffer cn qn wn k w b).undefined := h
  rw [State.memByte, State.memByte]
  simp only [h, hu, List.elem_eq_mem, decide_false]
  rfl

theorem onWarp_of_some {s : State} {cn qn wn : Nat} {w : Warp} (h : s.warp cn qn wn = some w) (f : Warp → Warp) :
    s.onWarp cn qn wn f = s.setWarp cn qn wn (f w) := by
  simp [State.onWarp, h]

/-- A store that has left alone, to a line that its field reads and writes, is performed and gone from its buffer: its bytes stand in memory, and
no other byte that is defined changes (R202). -/
theorem performLine_leftBuffer {s : State} {cn qn wn k pa : Nat} {w : Warp} {b : BufStore} (hw : s.warp cn qn wn = some w) (hb : w.sb[k]? = some b)
    (hlost : b.lost = false) (hloc : b.acc.loc = .mem pa) (hwr : s.writable (fieldOf cn) (lineOf pa) = true)
    (hrd : s.readable (fieldOf cn) (lineOf pa) = true) (hnone : s.sentTo (fieldOf cn) (lineOf pa) = []) (ctx : Nat) :
    ∃ t, (s.leftBuffer cn qn wn k w b).performLine cn ctx (lineOf pa) = State.mangleWarp t cn qn wn ∧
      t.warp cn qn wn = some { w with sb := (w.sb.set k { b with sent := some s.fresh }).filter fun x =>
        !(x.uid == b.uid && x.seq == b.seq && x.orig == b.orig) } ∧
      (∀ i, i < b.acc.width → t.memByte (pa + i) = BitVec.ofNat 8 (b.acc.data.toNat / 256 ^ i)) ∧
      (∀ a, a ∉ s.undefined → a < pa ∨ pa + b.acc.width ≤ a → t.memByte a = s.memByte a) ∧ t.time = s.time := by
  have hrd' : (s.leftBuffer cn qn wn k w b).readable (fieldOf cn) (lineOf pa) = true := hrd
  have hkept := performAt_coresKept hrd' (toLe b.acc.data.toNat b.acc.width)
  have hwarp := (hkept.warp cn qn wn).trans (warp_leftBuffer s cn qn wn k w b)
  obtain ⟨hin, hout⟩ := memByte_performAt (s.leftBuffer cn qn wn k w b) cn pa b.acc.data.toNat b.acc.width
  rw [performLine_alone hw hb hlost hloc hwr hnone]
  generalize (s.leftBuffer cn qn wn k w b).performAt cn pa (toLe b.acc.data.toNat b.acc.width) = u at hkept hwarp hin hout
  rw [State.dropStore, onWarp_of_some hwarp]
  refine ⟨_, rfl, State.warp_setWarp _ _ _ _ _, hin, fun a ha hne => ?_, hkept.time⟩
  exact (hout a ha hne).trans (memByte_leftBuffer s cn qn wn k w b ha)

theorem overtakes_iff (s : State) (cn c d : Nat) : s.overtakes cn c d = true ↔ cn ≠ c ∧ ∃ e ∈ s.messagesTo cn c, e < d := by
  simp [State.overtakes]

/-! ### The scratchpad accepts an access -/

/-- The scratchpad is free in a CYCLE that is neither taken nor reserved (R171). -/
theorem nextFree_eq_cycle (c : Core) : c.nextFree = c.cycle ↔ c.scratchFree ≤ c.cycle ∧ c.cycle % 8 ≠ 7 := by
  unfold Core.nextFree
  dsimp only
  split <;> omega

theorem accepting_eq_false (c : Core) : c.accepting = false ↔ ∀ n, n < 4 → (c.quad n).presents true = none := by
  simp [Core.accepting]

theorem acceptDue_iff (s : State) (cn : Nat) : s.acceptDue cn = true ↔ s.nextTurn cn = none ∧ (∀ n, n < 4 → ((s.core cn).quad n).presents true = none) ∧
    (s.core cn).scratchFree ≤ (s.core cn).cycle ∧ (s.core cn).cycle % 8 ≠ 7 ∧ ∃ n, n < 4 ∧ ((s.core cn).quad n).presents false ≠ none := by
  rw [← accepting_eq_false]
  simp only [State.acceptDue, Bool.and_eq_true, Bool.not_eq_true', Option.isNone_iff_eq_none, beq_iff_eq, nextFree_eq_cycle, List.any_eq_true,
    List.mem_range, Option.isSome_iff_ne_none, and_assoc]

/-- An access that stands is that of a warp and a slot that are there. -/
theorem presents_eq_some {q : Quadrant} {b : Bool} {x : Presented} (h : q.presents b = some x) :
    ∃ w p, q.warps.find x.warp = some w ∧ w.div.slot x.slot = some p := by
  unfold Quadrant.presents at h
  split at h
  · cases h
  · next y _ =>
    split at h
    · next p hslot =>
      obtain ⟨-, hyx⟩ := Option.ite_none_right_eq_some.mp h
      obtain rfl := Option.some.inj hyx
      obtain ⟨w, hw, hp⟩ := Option.bind_eq_some_iff.mp hslot
      exact ⟨w, p, hw, hp⟩
    · simp at h

/-- A quadrant whose access has been accepted: its word, held by the wait, is free to issue. -/
def Quadrant.withAccepted (q : Quadrant) (x : Presented) (t : Nat) (w : Warp) (p : Path) : Quadrant :=
  ({ q with presented := some { x with accepted := true, at_ := t } } : Quadrant).setWarp x.warp
    { w with div := w.div.setSlot x.slot (some { p with wait := .none }) }

/-- The first quadrant of the rotation that presents an access. -/
theorem rotation_findSome {c : Core} {t i : Nat} {x : Presented} (hi : i < 4) (hbefore : ∀ j, j < i → (c.quad ((t + j) % 4)).presents false = none)
    (hx : (c.quad ((t + i) % 4)).presents false = some x) :
    ((rotationAt t).findSome? fun n => ((c.quad n).presents false).map fun x => (n, x)) = some ((t + i) % 4, x) := by
  rw [rotationAt, List.findSome?_map]
  exact findSome?_range hi (by simp [hx]) fun j hj => by simp [hbefore j hj]

theorem exec_scratchpadAccept_idle {s : State} {cn : Nat} (h : s.acceptDue cn = false) : exec (.scratchpadAccept cn) s = .next s := by
  change execScratchpadAccept cn s = _
  unfold execScratchpadAccept
  exact if_pos h

theorem exec_scratchpadAccept {s : State} {cn i : Nat} {x : Presented} {w : Warp} {p : Path} (hdue : s.acceptDue cn = true) (hi : i < 4)
    (hbefore : ∀ j, j < i → ((s.core cn).quad (((s.core cn).cycle + j) % 4)).presents false = none)
    (hx : ((s.core cn).quad (((s.core cn).cycle + i) % 4)).presents false = some x)
    (hw : ((s.core cn).quad (((s.core cn).cycle + i) % 4)).warps.find x.warp = some w) (hp : w.div.slot x.slot = some p) :
    exec (.scratchpadAccept cn) s = .next (s.setQuad cn (((s.core cn).cycle + i) % 4)
      (((s.core cn).quad (((s.core cn).cycle + i) % 4)).withAccepted x (s.core cn).cycle w p)) := by
  change execScratchpadAccept cn s = _
  unfold execScratchpadAccept
  simp only [hdue, rotation_findSome hi hbefore hx, hw, hp, Bool.true_eq_false, if_false, Option.map_some]
  rfl

/-! ### The obligation -/

/-- Settles O37: a completed producer by `completed_spec` and `writeBack_spec`, a lane by the `bindLane` lemmas, a store by its place and whether it
has left its buffer, the scratchpad by the first access of the rotation. -/
theorem producersAndStores : Obligations.ProducersAndStores := by
  unfold Obligations.ProducersAndStores
  refine ⟨fun s cn qn wn w o hw ho hagain => ⟨?_, ?_, fun a pa hloc hfree => ⟨fun sg k hk hnew => ⟨?_, ?_, ?_⟩, fun op hk hlow => ⟨?_, ?_⟩⟩⟩,
    fun s cn qn wn k w b hw hb hlost => ⟨?_, fun hs hheld hbefore hblock => ⟨?_, ?_, ?_, ?_⟩, fun d hs => ⟨fun c off hloc => ⟨?_, ?_⟩, ?_⟩⟩,
    fun s cn => ⟨acceptDue_iff s cn, exec_scratchpadAccept_idle, fun i x hdue hi hbefore hx => ?_⟩⟩
  case refine_1 =>
    intro s' o' hwbl hdisc hb hopen hdue hd hv hu hl hcomes w1 hw1
    have hkept := RegsKept.bindAll s cn w o
    rw [hb] at hkept
    obtain ⟨hrf, hplace⟩ := hkept cn qn
    have hplace' := hplace wn
    rw [hw, hw1] at hplace'
    obtain ⟨hbase, hubase⟩ := Prod.mk.inj (Option.some.inj hplace')
    obtain ⟨hwarp, hcycle, hwritten, hmem⟩ := completed_spec { s' with fresh := s'.fresh + 1 } cn qn wn w1 o o'
    obtain ⟨hval, hother⟩ := writeBack_spec ((s'.core cn).quad qn) w1 hd hv hu hl
    rw [hbase, hubase] at hval hother
    rw [hrf] at hother
    refine ⟨_, _, (exec_longLatencyComplete hw ho hagain).trans (congrArg _ (advanceOp_bound hw hwbl hdisc hb hopen hdue hcomes hw1)), hwarp, rfl, hcycle,
      fun v hv j d hd => ?_, fun i hi => ?_, hmem⟩
    · rw [hwritten]; exact hval v hv j d hd
    · rw [hwritten]; exact hother i hi
  case refine_2 =>
    intro hk hposted hpassed hcome
    obtain ⟨hwarp, -, -, hmem⟩ := completed_spec { s with fresh := s.fresh + 1 } cn qn wn w o o
    exact ⟨_, _, (exec_longLatencyComplete hw ho hagain).trans (congrArg _ (advanceOp_posted hw hk hposted hpassed hcome)), hwarp, hmem, rfl⟩
  case refine_3 =>
    intro hr
    obtain ⟨t, ht, hc⟩ := bindLane_load_readable hloc hfree hk hnew hr
    exact ⟨t, ht, hc.rest⟩
  case refine_4 => exact bindLane_load_miss hloc hfree hk hnew
  case refine_5 => exact bindLane_load_hit hloc hfree hk hnew
  case refine_6 =>
    intro hwr
    obtain ⟨hin, hout⟩ := memByte_performAt s cn pa (op.apply (8 * a.width) (s.memNat pa a.width) (a.data.toNat % 2 ^ (8 * a.width))
      (a.data.toNat / 2 ^ (8 * a.width) % 2 ^ (8 * a.width))) a.width
    exact ⟨_, (bindLane_atomic hloc hfree hk hlow).trans (if_pos hwr), hin, hout⟩
  case refine_7 =>
    intro hwr
    exact (bindLane_atomic hloc hfree hk hlow).trans (if_neg (by simp [hwr]))
  case refine_8 => exact performStore_held hw hb hlost
  case refine_9 =>
    intro pa hloc hwr hrd hnone
    obtain ⟨t, ht, hwarp, hin, hout, htime⟩ := performLine_leftBuffer hw hb hlost hloc hwr hrd hnone w.ctx
    exact ⟨t, _, (performStore_mem hw hb hlost hs (mayLeave_of hheld hbefore hblock) hloc).trans (congrArg _ ht), hwarp, rfl, hin, hout, htime⟩
  case refine_10 =>
    intro pa hloc hwr
    have hwr' : (s.leftBuffer cn qn wn k w b).writable (fieldOf cn) (lineOf pa) = false := hwr
    exact (performStore_mem hw hb hlost hs (mayLeave_of hheld hbefore hblock) hloc).trans (congrArg _ (if_neg (by simp [hwr'])))
  case refine_11 => exact fun c off hloc => performStore_window hw hb hlost hs (mayLeave_of hheld hbefore hblock) hloc
  case refine_12 => exact fun g off hloc => performStore_bcast hw hb hlost hs (mayLeave_of hheld hbefore hblock) hloc
  case refine_13 =>
    intro h
    refine (performStore_windowSent hw hb hlost hs hloc).trans (congrArg _ (if_pos ?_))
    rw [Bool.or_eq_true, List.any_eq_true, overtakes_iff]
    exact h
  case refine_14 =>
    intro hsame horder
    refine (performStore_windowSent hw hb hlost hs hloc).trans (congrArg _ (if_neg ?_))
    rw [Bool.or_eq_true, List.any_eq_true, overtakes_iff]
    rintro (⟨x, hx, ht⟩ | ⟨hne, e, he, hlt⟩)
    · exact absurd ht (by simp [hsame x hx])
    · exact absurd hlt (Nat.not_lt.mpr (horder.resolve_left hne e he))
  case refine_15 => exact fun g off hloc => performStore_bcastSent hw hb hlost hs hloc
  case refine_16 =>
    obtain ⟨w, p, hw, hp⟩ := presents_eq_some hx
    refine ⟨_, exec_scratchpadAccept hdue hi hbefore hx hw hp, rfl, fun n hn => ?_, ?_, ⟨w, { w with div := w.div.setSlot x.slot (some { p with wait := .none }) }, p, hw, ?_, hp,
      Div.slot_setSlot _ _ _⟩, ?_, fun n hn => ?_⟩
    · simp [State.setQuad, hn]
    · simp [State.setQuad, Quadrant.withAccepted, Quadrant.setWarp]
    · simp [State.warp, State.setQuad, Quadrant.withAccepted, Quadrant.setWarp]
    · simp [State.setQuad, Core.setQuad]
    · simp [State.setQuad, hn]

end Sys2Proof.Machine
end

section
/-! SUPPORT. Rounding under each code (R55), and the worked examples of R57, R106, R109, R113 and R114. -/
namespace Sys2Proof.Machine

/-- Code 0, RNE, goes up past the half, and at the half where the integer below is odd. -/
theorem shiftRound_nearest (neg : Bool) (m sh : Nat) :
    shiftRound 0 neg m sh =
      if 2 ^ sh < 2 * (m % 2 ^ sh) ∨ 2 * (m % 2 ^ sh) = 2 ^ sh ∧ m / 2 ^ sh % 2 = 1 then m / 2 ^ sh + 1 else m / 2 ^ sh := by
  simp [shiftRound]

/-- RZ and the directed code that points towards zero cut the fraction. -/
theorem shiftRound_inward {mode : Nat} {neg : Bool} (m sh : Nat) (h : mode = 1 ∨ mode = 2 ∧ neg = true ∨ mode = 3 ∧ neg = false) :
    shiftRound mode neg m sh = m / 2 ^ sh := by
  rcases h with rfl | ⟨rfl, rfl⟩ | ⟨rfl, rfl⟩ <;> simp [shiftRound]

/-- The directed code that points away from zero goes up from every fraction. -/
theorem shiftRound_outward {mode : Nat} {neg : Bool} (m sh : Nat) (h : mode = 2 ∧ neg = false ∨ mode = 3 ∧ neg = true) :
    shiftRound mode neg m sh = if m % 2 ^ sh = 0 then m / 2 ^ sh else m / 2 ^ sh + 1 := by
  rcases h with ⟨rfl, rfl⟩ | ⟨rfl, rfl⟩ <;> simp [shiftRound]

/-- So it gives the least integer that the quotient does not exceed. -/
theorem shiftRound_outward_le_iff {mode : Nat} {neg : Bool} (m sh k : Nat) (h : mode = 2 ∧ neg = false ∨ mode = 3 ∧ neg = true) :
    shiftRound mode neg m sh ≤ k ↔ m ≤ k * 2 ^ sh := by
  have hw := Nat.two_pow_pos sh
  rw [shiftRound_outward m sh h]
  split
  · next hexact => rw [← Nat.mul_le_mul_right_iff hw, Nat.div_mul_cancel (Nat.dvd_of_mod_eq_zero hexact)]
  · next hfrac =>
    have hne : m ≠ k * 2 ^ sh := fun he => hfrac (he ▸ Nat.mul_mod_left ..)
    rw [Nat.add_one_le_iff, Nat.div_lt_iff_lt_mul hw]
    exact ⟨Nat.le_of_lt, fun hle => Nat.lt_of_le_of_ne hle hne⟩

/-- RNE gives an integer next to the quotient and at most a half from it, the even one of two that are. -/
theorem shiftRound_nearest_spec (neg : Bool) (m sh : Nat) :
    ∃ n, shiftRound 0 neg m sh = n ∧ (n = m / 2 ^ sh ∨ n = m / 2 ^ sh + 1) ∧ 2 * (n * 2 ^ sh) ≤ 2 * m + 2 ^ sh ∧ 2 * m ≤ 2 * (n * 2 ^ sh) + 2 ^ sh ∧
      ((2 * (n * 2 ^ sh) = 2 * m + 2 ^ sh ∨ 2 * m = 2 * (n * 2 ^ sh) + 2 ^ sh) → n % 2 = 0) := by
  have hm : m / 2 ^ sh * 2 ^ sh + m % 2 ^ sh = m := Nat.div_add_mod' m (2 ^ sh)
  have hr : m % 2 ^ sh < 2 ^ sh := Nat.mod_lt _ (Nat.two_pow_pos sh)
  rw [shiftRound_nearest]
  split
  · next hup =>
    refine ⟨_, rfl, .inr rfl, ?_⟩
    rw [Nat.add_one_mul (m / 2 ^ sh)]
    omega
  · next hdown =>
    refine ⟨_, rfl, .inl rfl, ?_⟩
    omega

/-- R106: the fused form keeps the bit that a rounded product loses. -/
theorem example_fusedProduct :
    fma32 ⟨0, false⟩ 0x3F800800#32 0x3F800800#32 0xBF800000#32 = 0x3A000400#32 ∧
    fp32 ⟨0, false⟩ fpAdd (fp32 ⟨0, false⟩ fpMul 0x3F800800#32 0x3F800800#32) 0xBF800000#32 = 0x3A000000#32 := ⟨rfl, rfl⟩

/-- 1 / sqrt 4 is exact, -/
theorem rsqrt_four : (Fp.read Fmt.fp32 false 0x40800000).rsqrt = .fin false (2 ^ 190) (-191) := by decide +kernel

/-- and the odd magnitude of 1 / sqrt 2 stands for a remainder. -/
theorem rsqrt_two : (Fp.read Fmt.fp32 false 0x40000000).rsqrt =
    .fin false 1109645300822441853584793897924632478505655261739860552211 (-190) := by decide +kernel

/-- R109: an exact reciprocal root in every mode, and an inexact one by the mode. -/
theorem example_rsqrt :
    (∀ m < 4, un32 ⟨m, false⟩ Fp.rsqrt 0x40800000#32 = 0x3F000000#32) ∧
    un32 ⟨0, false⟩ Fp.rsqrt 0x40000000#32 = 0x3F3504F3#32 ∧ un32 ⟨1, false⟩ Fp.rsqrt 0x40000000#32 = 0x3F3504F3#32 ∧
    un32 ⟨2, false⟩ Fp.rsqrt 0x40000000#32 = 0x3F3504F4#32 := by
  simp only [un32, fpUn, BitVec.toNat_ofNat, Nat.reducePow, Nat.reduceMod, rsqrt_four, rsqrt_two]
  decide

/-- R57: tininess is judged after rounding with an unbounded exponent. -/
theorem example_tiny :
    Fmt.fp32.round ⟨0, true⟩ false (2 ^ 25 - 1) (-151) = 0x00800000 ∧ Fmt.fp32.round ⟨1, true⟩ false (2 ^ 25 - 1) (-151) = 0 ∧
    Fmt.fp32.round ⟨0, true⟩ false (2 ^ 24 - 1) (-150) = 0 := ⟨rfl, rfl, rfl⟩

/-- R113: 300 and 500 packed in each FP8 format, and -0.75 truncated. -/
theorem example_conversions :
    packTwo Fmt.e4 ⟨0, false⟩ 8 0x43960000#32 0x43FA0000#32 = 0x00007E79#32 ∧
    packTwo Fmt.e5 ⟨0, false⟩ 8 0x43960000#32 0x43FA0000#32 = 0x0000605D#32 ∧
    (Fp.read Fmt.fp32 false 0xBF400000).toInt 0 4294967295 = 0 := ⟨rfl, rfl, rfl⟩

/-- R114: the least subnormal of FP16, kept and flushed. -/
theorem example_widenedSubnormal :
    fpConvert Fmt.fp16 Fmt.fp32 ⟨0, false⟩ 1 = 0x33800000 ∧ fpConvert Fmt.fp16 Fmt.fp32 ⟨0, true⟩ 1 = 0 := ⟨rfl, rfl⟩

/-- Settles O7: each code by what it does with the remainder, the directed ones away from zero by the least integer above; the examples by the
model's own exact values. -/
theorem roundingOfNumbers : Obligations.RoundingOfNumbers := by
  refine ⟨fun neg m sh => ⟨shiftRound_nearest_spec neg m sh, shiftRound_inward m sh (.inl rfl), fun mode h => shiftRound_inward m sh (.inr h),
    fun mode h => ⟨?_, fun k => (shiftRound_outward_le_iff m sh k h).mpr⟩⟩, ?_⟩
  · exact (shiftRound_outward_le_iff m sh _ h).mp (Nat.le_refl _)
  · obtain ⟨hfused, hrounded⟩ := example_fusedProduct
    obtain ⟨hfour, htwo, htwoRz, htwoRup⟩ := example_rsqrt
    obtain ⟨hkept, hcut, htiny⟩ := example_tiny
    obtain ⟨he4, he5, htrunc⟩ := example_conversions
    obtain ⟨hexact, hflushed⟩ := example_widenedSubnormal
    exact ⟨hfused, hrounded, hfour, htwo, htwoRz, htwoRup, hkept, hcut, htiny, he4, he5, hexact, hflushed, htrunc⟩

end Sys2Proof.Machine
end

section
/-! SUPPORT. Moves, constants and the words of the index register (R79, R84-R86, R88). -/
namespace Sys2Proof.Machine

/-! ### Values of words -/

/-- A value moved up by the width of an immediate, with the immediate below it. -/
theorem shiftLeft_or_zimm {n : Nat} (x : Word) (i : BitVec n) : x <<< n ||| zimm i = BitVec.ofNat 32 (x.toNat * 2 ^ n + i.toNat) := by
  apply BitVec.eq_of_toNat_eq
  rw [← Nat.shiftLeft_eq, Nat.shiftLeft_add_eq_or_of_lt i.isLt]
  simp [zimm]

/-- The mask of one lane. -/
theorem getLsbD_two_pow (k : Nat) {l : Nat} (hl : l < 32) : (BitVec.ofNat 32 (2 ^ k)).getLsbD l = decide (k = l) := by
  rw [BitVec.getLsbD_ofNat, decide_eq_true hl, Bool.true_and, Nat.testBit_two_pow]

theorem getLsbD_maskOf (p : Nat → Bool) {l : Nat} (hl : l < 32) : (maskOf p).getLsbD l = p l := by
  have hfold : ∀ (ls : List Nat) (m : Word), (ls.foldl (fun m k => if p k then m ||| BitVec.ofNat 32 (2 ^ k) else m) m).getLsbD l =
      (m.getLsbD l || (decide (l ∈ ls) && p l)) := by
    intro ls
    induction ls with
    | nil => simp
    | cons k ks ih =>
      intro m
      rw [List.foldl_cons, ih]
      rw [apply_ite (fun m : Word => m.getLsbD l), BitVec.getLsbD_or, getLsbD_two_pow k hl]
      by_cases hk : k = l
      · subst hk
        cases p k <;> simp
      · simp [hk, Ne.symm hk]
  rw [maskOf, hfold]
  simp [lanes, hl]

/-- A register operand of a word that passes the issue checks has its alignment (R40). -/
theorem aligned_of_check {V : View} {f : Info} {wf : Bool} (h : V.check f wf = none) : ∀ r ∈ f.lane ++ f.uni, r.reg % r.align = 0 := by
  simp only [View.check, noCause_iff, not_all_aligned] at h
  obtain ⟨-, -, -, halign, -⟩ := h
  simpa only [List.any_eq_false, bne_iff_ne, ne_eq, Decidable.not_not, Bool.not_eq_true] using halign

theorem even_of_ready {s : State} {f : Info} {wf : Bool} {V : View} (h : Ready s f wf V) {n : Nat} {d : BitVec n} (hd : two d ∈ f.lane ++ f.uni) :
    d.toNat % 2 = 0 := by
  obtain ⟨-, -, hcheck, -⟩ := h
  exact aligned_of_check hcheck _ hd

/-- A word that retires after a change of registers alone computes it. -/
theorem computes_retire {i : Instr} {s : State} {V W : View} {x : Writes} (hv : s.view = some V) (he : exec i s = .next (W.retire (infoOf i)))
    (hi : (infoOf i).rc = false) (hr : RegsOnly V W) (hx : Effects V x W) : Computes i s V x := by
  have := does_of hv he hr.became hx
  rw [(State.view_from hv).state] at this
  simpa [Computes, Does, View.onward, hi] using this

/-! ### A write of the index register -/

theorem getLsbD_ff (n : Nat) : (0xFF#32).getLsbD n = decide (n < 8) := by
  rw [show 0xFF#32 = (BitVec.allOnes 8).setWidth 32 from rfl, BitVec.getLsbD_setWidth, BitVec.getLsbD_allOnes, Bool.and_eq_right_iff_imp]
  simp; omega

theorem extractLsb'_setByte (w : Word) (b : Byte) {i j : Nat} (hi : i < 4) (hj : j < 4) :
    (setByte w i b).extractLsb' (8 * j) 8 = if j = i then b else w.extractLsb' (8 * j) 8 := by
  ext k hk
  simp only [setByte, BitVec.getElem_extractLsb', BitVec.getLsbD_or, BitVec.getLsbD_and, BitVec.getLsbD_not, BitVec.getLsbD_shiftLeft, getLsbD_ff,
    BitVec.getLsbD_setWidth]
  split
  · next h =>
    subst h
    simp [hk, show 8 * j + k < 32 by omega, show k < 32 by omega]
  · next h =>
    have hlow : ¬ 8 * j + k < 8 * i → ¬ 8 * j + k - 8 * i < 8 := by omega
    have hbyte : ¬ 8 * j + k - 8 * i < 8 → b.getLsbD (8 * j + k - 8 * i) = false := fun hge => BitVec.getLsbD_of_ge _ _ (Nat.le_of_not_lt hge)
    by_cases hi' : 8 * j + k < 8 * i
    · simp [hi', show 8 * j + k < 32 by omega]
    · simp [hi', hlow hi', hbyte (hlow hi'), show 8 * j + k < 32 by omega]

theorem vxIdx_inj {u a b : Nat} : vxIdx u a = vxIdx u b ↔ a = b := by
  unfold vxIdx; omega

/-- Setting the index registers of some lanes sets theirs and leaves the others'. -/
theorem vx_foldl_setByte (u : Nat) (f : Nat → Byte) (l : Nat) (ls : List Nat) (rf : Sparse Word) :
    (Sparse.get 0#32 (ls.foldl (fun rf k => Sparse.set 0#32 rf (vxIdx u (k / 4)) (setByte (Sparse.get 0#32 rf (vxIdx u (k / 4))) (k % 4) (f k))) rf)
      (vxIdx u (l / 4))).extractLsb' (8 * (l % 4)) 8 =
    if l ∈ ls then f l else (Sparse.get 0#32 rf (vxIdx u (l / 4))).extractLsb' (8 * (l % 4)) 8 := by
  induction ls generalizing rf with
  | nil => simp
  | cons k ks ih =>
    rw [List.foldl_cons, ih, Sparse.get_set]
    by_cases hks : l ∈ ks
    · simp [hks]
    by_cases hword : l / 4 = k / 4
    · have hbyte : l % 4 = k % 4 ↔ l = k := by omega
      rw [if_neg hks, if_pos (by rw [hword]), extractLsb'_setByte _ _ (Nat.mod_lt _ (by decide)) (Nat.mod_lt _ (by decide)), ← hword]
      simp only [hbyte, List.mem_cons, hks, or_false]
      split
      · next h => rw [h]
      · rfl
    · have hne : l ≠ k := fun h => hword (by rw [h])
      simp [hks, hne, vxIdx_inj, hword]

/-- It leaves every word of the register file that holds no index register. -/
theorem get_foldl_setByte_other (u : Nat) (f : Nat → Byte) {j : Nat} (ls : List Nat) (hj : ∀ k ∈ ls, vxIdx u (k / 4) ≠ j) (rf : Sparse Word) :
    Sparse.get 0#32 (ls.foldl (fun rf k => Sparse.set 0#32 rf (vxIdx u (k / 4)) (setByte (Sparse.get 0#32 rf (vxIdx u (k / 4))) (k % 4) (f k))) rf) j =
      Sparse.get 0#32 rf j := by
  induction ls generalizing rf with
  | nil => rfl
  | cons k ks ih =>
    rw [List.foldl_cons, ih fun m hm => hj m (List.mem_cons_of_mem k hm), Sparse.get_set, if_neg (hj k List.mem_cons_self).symm]

/-- A word whose meaning is a write of vx sets it in the lanes of EM. -/
theorem setsIndex_of {i : Instr} {s : State} {V : View} {f : View → Nat → Byte} (h : Ready s (infoOf i) true V)
    (he : exec i s = issueReg (infoOf i) s fun V => V.writeVx (f V)) (hi : (infoOf i).rc = false) : SetsIndex i s V (f V) := by
  have hv := State.view_from h.1
  obtain ⟨hframe, w, p, r, hw, hp, hr, hrf, hundef, hranges, htdef, hwdef⟩ := View.retire_frame (i := infoOf i) hv (RegsOnly.writeVx V (f V)).became
  rw [hi, if_neg Bool.false_ne_true] at hw
  refine ⟨_, w, p, r, he.trans (issueReg_ready h _), ?_, hw, hp, hr, hundef, hranges, htdef, hwdef, fun l hl => ?_, fun j hj => ?_⟩
  · rwa [hv.state] at hframe
  · rw [View.vxIn, View.rfIn, hrf]
    refine (vx_foldl_setByte _ _ l _ _).trans ?_
    simp only [lanesOf_mem, hl, true_and]
    rfl
  · rw [View.rfIn, hrf]
    exact get_foldl_setByte_other _ _ _ (fun k hk => hj (k / 4) (by have := (lanesOf_mem.mp hk).1; omega)) _

/-! ### Moves through the index register -/

/-- The lanes of EM whose index lies outside the allotment. -/
theorem getLsbD_indexBad (V : View) (i : BitVec 7) {l : Nat} (hl : l < 32) : (V.indexBad i).getLsbD l = true ↔
    V.em.getLsbD l = true ∧ (((V.vx l).toNat : Int) + i.toInt < 0 ∨ (V.w.allot : Int) ≤ ((V.vx l).toNat : Int) + i.toInt) := by
  rw [View.indexBad, getLsbD_maskOf _ hl]
  simp only [Bool.and_eq_true, Bool.or_eq_true, decide_eq_true_eq]
  rfl

theorem indexBad_of_free {V : View} {i : BitVec 7} (h : IndexFree V i) : V.indexBad i = 0#32 := by
  refine BitVec.eq_of_getLsbD_eq fun l hl => (Bool.eq_false_iff.mpr fun hbit => ?_).trans BitVec.getLsbD_zero.symm
  obtain ⟨hem, hout⟩ := (getLsbD_indexBad V i hl).mp hbit
  have := h.1 l hl hem
  omega

theorem indexed_free {V : View} {i : BitVec 7} (h : IndexFree V i) (eff : View → State) : V.indexed i eff = eff V := by
  have hwait : V.indexWait i = [] := by
    rw [View.indexWait, List.filter_eq_nil_iff]
    intro k hk
    rw [List.mem_eraseDups] at hk
    obtain ⟨l, hl, rfl⟩ := List.mem_map.mp hk
    obtain ⟨hl32, hem⟩ := lanesOf_mem.mp hl
    exact Bool.eq_false_iff.mp (h.2 l hl32 hem)
  simp [View.indexed, hwait, indexBad_of_free h]

theorem indexed_outside {V : View} {i : BitVec 7} (h : V.indexBad i ≠ 0#32) (eff : View → State) :
    V.indexed i eff = V.fault 0x00A 0#64 (V.indexBad i) := if_pos h

theorem lanesOf_single {l : Nat} (hl : l < 32) : lanesOf (BitVec.ofNat 32 (2 ^ l)) = [l] := by
  have : ∀ l < 32, lanesOf (BitVec.ofNat 32 (2 ^ l)) = [l] := by decide
  exact this l hl

theorem RegsOnly.writeOne (V : View) (k l : Nat) (x : Word) : RegsOnly V (V.writeOne k l x) := by
  constructor; unfold View.writeOne View.writeLane View.noteLane; simp only; split <;> rfl

theorem writeOne_rf (V : View) (k : Nat) {l : Nat} (hl : l < 32) (x : Word) :
    (V.writeOne k l x).q.rf = Sparse.set 0#32 V.q.rf (V.lidx k l) x := by
  simp only [View.writeOne, View.writeLane, writeRow, lanesOf_single hl]
  rfl

theorem RegsOnly.foldl_writeOne (k : Nat → Nat) (x : Nat → Word) (V : View) (ls : List Nat) :
    RegsOnly V (ls.foldl (fun W l => W.writeOne (k l) l (x l)) V) :=
  foldl_keeps (RegsOnly V) _ (fun W l h => h.trans (RegsOnly.writeOne W (k l) l (x l))) ls V (RegsOnly.refl V)

theorem foldl_writeOne_rf (k : Nat → Nat) (x : Nat → Word) (ls : List Nat) (hls : ∀ l ∈ ls, l < 32) (V : View) :
    (ls.foldl (fun W l => W.writeOne (k l) l (x l)) V).q.rf = ls.foldl (fun rf l => Sparse.set 0#32 rf (V.lidx (k l) l) (x l)) V.q.rf := by
  induction ls generalizing V with
  | nil => rfl
  | cons m ms ih =>
    obtain ⟨-, hlidx, -⟩ := (RegsOnly.writeOne V (k m) m (x m)).same
    rw [List.foldl_cons, ih (fun l hl => hls l (List.mem_cons_of_mem m hl)), writeOne_rf V (k m) (hls m List.mem_cons_self)]
    simp only [hlidx, List.foldl_cons]

/-- Words of different lanes are different, whatever their registers (R70). -/
theorem lidx_mod (V : View) (k : Nat) {l : Nat} (hl : l < 32) : V.lidx k l % 32 = l := by
  unfold View.lidx; split <;> omega

theorem nodup_lidx (V : View) (k : Nat → Nat) : ((lanesOf V.em).map fun l => V.lidx (k l) l).Nodup := by
  refine (lanesOf_nodup V.em).map_on fun a ha b hb h => ?_
  rw [← lidx_mod V (k a) (lanesOf_mem.mp ha).1, h, lidx_mod V (k b) (lanesOf_mem.mp hb).1]

theorem exec_movxG {s : State} {V : View} {d i : BitVec 7} (h : Ready s (infoOf (.movxG d i)) true V) : exec (.movxG d i) s =
    .next (V.indexed i fun V => (V.writeLane d.toNat fun l => V.lane (V.indexed_ i l) l).retire (infoOf (.movxG d i))) := issue_ready h _

/-- The registers after MOVX.P: each lane of EM has written its own. -/
def View.scattered (V : View) (a i : BitVec 7) : View := (lanesOf V.em).foldl (fun W l => W.writeOne (V.indexed_ i l) l (V.lane a.toNat l)) V

theorem exec_movxP {s : State} {V : View} {a i : BitVec 7} (h : Ready s (infoOf (.movxP a i)) true V) : exec (.movxP a i) s =
    .next (V.indexed i fun V => (V.scattered a i).retire (infoOf (.movxP a i))) := issue_ready h _

theorem scattered_rf (V : View) (a i : BitVec 7) :
    (∀ l ∈ lanesOf V.em, Sparse.get 0#32 (V.scattered a i).q.rf (V.lidx (V.indexed_ i l) l) = V.lane a.toNat l) ∧
    ∀ j, (∀ l ∈ lanesOf V.em, V.lidx (V.indexed_ i l) l ≠ j) → Sparse.get 0#32 (V.scattered a i).q.rf j = Sparse.get 0#32 V.q.rf j := by
  rw [View.scattered, foldl_writeOne_rf _ _ _ fun l hl => (lanesOf_mem.mp hl).1]
  exact get_foldl_setAt _ _ _ _ (nodup_lidx V fun l => V.indexed_ i l)

theorem movxP_scatters {s : State} {V : View} {a i : BitVec 7} (h : Ready s (infoOf (.movxP a i)) true V) (hfree : IndexFree V i) :
    ∃ t w, exec (.movxP a i) s = .next t ∧ WarpOnly V s (infoOf (.movxP a i)) t ∧ SameWarp V (infoOf (.movxP a i)) V.w V.onward t w ∧
      (∀ l, l < 32 → V.em.getLsbD l = true → V.rfIn t (V.lidx (V.indexed_ i l) l) = V.lane a.toNat l) ∧
      ∀ j, (∀ l, l < 32 → V.em.getLsbD l = true → V.lidx (V.indexed_ i l) l ≠ j) → V.rfIn t j = Sparse.get 0#32 V.q.rf j := by
  have hv := State.view_from h.1
  have hregs : RegsOnly V (V.scattered a i) := RegsOnly.foldl_writeOne _ _ V _
  obtain ⟨hframe, w, p, r, hw, -, -, hrf, -⟩ := View.retire_frame (i := infoOf (.movxP a i)) hv hregs.became
  obtain ⟨hhere, hothers⟩ := scattered_rf V a i
  refine ⟨_, w, (exec_movxP h).trans (congrArg _ (indexed_free hfree _)), ?_, hw, fun l hl hem => ?_, fun j hj => ?_⟩
  · rwa [hv.state] at hframe
  · rw [View.rfIn, hrf]
    exact hhere l (lanesOf_mem.mpr ⟨hl, hem⟩)
  · rw [View.rfIn, hrf]
    exact hothers j fun l hl => hj l (lanesOf_mem.mp hl).1 (lanesOf_mem.mp hl).2

/-- Both moves through the index register trap where it leads outside the allotment (R79). -/
theorem exec_indexed_outside {k : Instr} {s : State} {V : View} {d a i : BitVec 7} (hk : k = .movxG d i ∨ k = .movxP a i)
    (h : Ready s (infoOf k) true V) (hbad : V.indexBad i ≠ 0#32) : exec k s = .next (V.fault 0x00A 0#64 (V.indexBad i)) := by
  rcases hk with rfl | rfl
  · rw [exec_movxG h, indexed_outside hbad]
  · rw [exec_movxP h, indexed_outside hbad]

/-- Settles O11: the moves and constants are plain register writes; SETX sets bytes of the vx words lane by lane; MOVX passes the check of R79 first, and
its lanes' cells differ by their lane. -/
theorem movesAndIndexRegister : Obligations.MovesAndIndexRegister := by
  refine ⟨fun s V d a e u i j n => ⟨⟨rfl, fun h => ?_⟩, ⟨rfl, fun h => ?_⟩, ⟨rfl, fun h => ?_⟩, ⟨rfl, fun h => ?_⟩, ⟨rfl, fun h => ?_⟩, ⟨rfl, fun h => ?_⟩,
    ⟨rfl, fun h => ?_⟩, ⟨rfl, fun h => ?_⟩, ⟨rfl, fun h => ?_⟩⟩, fun s V d a i n => ⟨fun h => ?_, fun h => ?_, fun h hfree => ?_, movxP_scatters, ?_⟩⟩
  · exact computes_row h rfl rfl
  · exact computes_row64 h (even_of_ready h List.mem_cons_self) rfl rfl
  · exact computes_row h rfl rfl
  · simp only [← shiftLeft_or_zimm]
    exact computes_row h rfl rfl
  · exact computes_row h rfl rfl
  · exact computes_uni h e.isLt rfl rfl
  · exact computes_uni h e.isLt rfl rfl
  · rw [← shiftLeft_or_zimm]
    exact computes_uni h e.isLt rfl rfl
  · exact computes_uni h e.isLt rfl rfl
  · have hlow : (fun l => BitVec.ofNat 8 ((V.lane a.toNat l).toNat % 256)) = fun l => (V.lane a.toNat l).setWidth 8 := by
      funext l
      exact BitVec.eq_of_toNat_eq (by simp)
    rw [hlow]
    exact setsIndex_of h rfl rfl
  · exact setsIndex_of h rfl rfl
  · exact computes_retire h.1 ((exec_movxG h).trans (congrArg _ (indexed_free hfree _))) rfl (RegsOnly.writeLane V _ _) (Effects.row V _ _)
  · rintro k hk h ⟨l, hl, hem, hout⟩
    refine ⟨V.indexBad i, fun l => getLsbD_indexBad V i, exec_indexed_outside hk h fun hz => ?_⟩
    have := (getLsbD_indexBad V i hl).mpr ⟨hem, hout⟩
    simp [hz] at this

end Sys2Proof.Machine
end

section
/-! SUPPORT. The words that read and write the system registers (R82, R87). -/
namespace Sys2Proof.Machine

/-! ### Reads -/

theorem wideSystemRegister_iff (n : Nat) : wideSystemRegister n ↔ sysreg64 n = true := by
  simp [wideSystemRegister, sysreg64, or_assoc]

theorem laneSystemRegister_iff (n : Nat) : laneSystemRegister n ↔ sysregPerLane n = true := by
  simp [laneSystemRegister, sysregPerLane, or_assoc]

/-- The machine reads each register of the table as the table says. -/
theorem sysValue_of_mem {V : View} {n l : Nat} {x : Dword} (h : (n, x) ∈ systemRegisters V l) : V.sysValue n l = x := by
  simp only [systemRegisters, List.mem_cons, Prod.mk.injEq, List.not_mem_nil, or_false] at h
  rcases h with ⟨rfl, rfl⟩ | ⟨rfl, rfl⟩ | ⟨rfl, rfl⟩ | ⟨rfl, rfl⟩ | ⟨rfl, rfl⟩ | ⟨rfl, rfl⟩ | ⟨rfl, rfl⟩ | ⟨rfl, rfl⟩ | ⟨rfl, rfl⟩ | ⟨rfl, rfl⟩ |
    ⟨rfl, rfl⟩ | ⟨rfl, rfl⟩ | ⟨rfl, rfl⟩ | ⟨rfl, rfl⟩ | ⟨rfl, rfl⟩ | ⟨rfl, rfl⟩
  case inr.inr.inr.inl =>
    simp only [View.sysValue, Warp.crewOf]
    cases V.w.member l <;> rfl
  case inr.inr.inr.inr.inl =>
    simp only [View.sysValue, Warp.crewOf]
    cases V.w.member l <;> rfl
  all_goals rfl

theorem sysValue_core {V : View} (h : V.w.mgmt = false) (l : Nat) : V.sysValue 0x005 l = BitVec.ofNat 64 V.cn := by
  simp [View.sysValue, h]

theorem sysValue_slot {V : View} {e : Nat × SlotEntry × Nat} (h : V.s.entryAt V.s.time = some e) (l : Nat) :
    V.sysValue 0x00F l = BitVec.ofNat 64 e.1 := by
  simp [View.sysValue, h]

/-- The registers whose value the manual gives: those of the table, CORE of a logical core, and SLOT where an entry governs. -/
theorem sysValue_of_known {s : State} {V : View} {n : Nat} {x : Nat → Dword} (hs : V.s = s)
    (h : (n < 0x12 ∧ ∀ l, (n, x l) ∈ systemRegisters V l) ∨ (n = 0x005 ∧ V.w.mgmt = false ∧ ∀ l, x l = BitVec.ofNat 64 V.cn) ∨
      (n = 0x00F ∧ ∃ e, s.entryAt s.time = some e ∧ ∀ l, x l = BitVec.ofNat 64 e.1)) : n < 0x12 ∧ V.sysValue n = x := by
  subst hs
  rcases h with ⟨hn, hx⟩ | ⟨rfl, hm, hx⟩ | ⟨rfl, e, he, hx⟩
  · exact ⟨hn, funext fun l => sysValue_of_mem (hx l)⟩
  · exact ⟨by decide, funext fun l => (sysValue_core hm l).trans (hx l).symm⟩
  · exact ⟨by decide, funext fun l => (sysValue_slot he l).trans (hx l).symm⟩

/-- The operand of a 64-bit system register is an even pair (R87). -/
theorem even_of_sysreg64 {s : State} {f : Info} {V : View} {a b : Nat} {d : BitVec a} {n : BitVec b} (h : Ready s f true V)
    (hd : sysreg d n ∈ f.lane ++ f.uni) (hw : sysreg64 n.toNat = true) : d.toNat % 2 = 0 := by
  rw [sysreg, if_pos hw] at hd
  exact even_of_ready h hd

theorem exec_rds {s : State} {V : View} {d : BitVec 7} {n : BitVec 14} (h : Ready s (infoOf (.rds d n)) true V) (hn : n.toNat < 0x12) : exec (.rds d n) s =
    .next ((if sysreg64 n.toNat then V.writeLane64 d.toNat (V.sysValue n.toNat)
      else V.writeLane d.toNat fun l => (V.sysValue n.toNat l).extractLsb' 0 32).retire (infoOf (.rds d n))) := by
  have hwf : sysregOk n.toNat = true := decide_eq_true hn
  simp only [← BitVec.setWidth_eq_extractLsb' (show 32 ≤ 64 by decide)]
  exact issue_ready (wf := sysregOk n.toNat) (hwf ▸ h) _

theorem exec_srds {s : State} {V : View} {d : BitVec 6} {n : BitVec 15} (h : Ready s (infoOf (.srds d n)) true V) (hn : n.toNat < 0x12)
    (hl : ¬ laneSystemRegister n.toNat) : exec (.srds d n) s =
    .next ((if sysreg64 n.toNat then V.writeUni64 d.toNat (V.sysValue n.toNat 0)
      else V.writeUni d.toNat ((V.sysValue n.toNat 0).extractLsb' 0 32)).retire (infoOf (.srds d n))) := by
  have hwf : (sysregOk n.toNat && !sysregPerLane n.toNat) = true := by
    rw [laneSystemRegister_iff] at hl
    simp [sysregOk, hn, hl]
  rw [← BitVec.setWidth_eq_extractLsb' (by decide)]
  exact issue_ready (wf := sysregOk n.toNat && !sysregPerLane n.toNat) (hwf ▸ h) _

theorem rds_computes {s : State} {V : View} {d : BitVec 7} {n : BitVec 14} (h : Ready s (infoOf (.rds d n)) true V) (hn : n.toNat < 0x12) :
    (¬ wideSystemRegister n.toNat → Computes (.rds d n) s V ⟨[(d.toNat, fun l => (V.sysValue n.toNat l).extractLsb' 0 32)], []⟩) ∧
    (wideSystemRegister n.toNat → Computes (.rds d n) s V (pairRows d.toNat (V.sysValue n.toNat))) := by
  have he := exec_rds h hn
  rw [wideSystemRegister_iff]
  refine ⟨fun hw => ?_, fun hw => ?_⟩
  · rw [if_neg hw] at he
    exact computes_retire h.1 he rfl (RegsOnly.writeLane V _ _) (Effects.row V _ _)
  · rw [if_pos hw] at he
    exact computes_retire h.1 he rfl (RegsOnly.writeLane64 V _ _) (Effects.row64 V _ _ (even_of_sysreg64 h List.mem_cons_self hw))

theorem srds_computes {s : State} {V : View} {d : BitVec 6} {n : BitVec 15} (h : Ready s (infoOf (.srds d n)) true V) (hn : n.toNat < 0x12)
    (hl : ¬ laneSystemRegister n.toNat) :
    (¬ wideSystemRegister n.toNat → Computes (.srds d n) s V ⟨[], [(d.toNat, (V.sysValue n.toNat 0).extractLsb' 0 32)]⟩) ∧
    (wideSystemRegister n.toNat → Computes (.srds d n) s V (pairUnis d.toNat (V.sysValue n.toNat 0))) := by
  have he := exec_srds h hn hl
  rw [wideSystemRegister_iff]
  refine ⟨fun hw => ?_, fun hw => ?_⟩
  · rw [if_neg hw] at he
    exact computes_retire h.1 he rfl (RegsOnly.writeUni V _ _) (Effects.uni V _ _ d.isLt)
  · rw [if_pos hw] at he
    exact computes_retire h.1 he rfl (RegsOnly.writeUni64 V _ _) (Effects.uni64 V _ _ (even_of_sysreg64 h List.mem_cons_self hw) d.isLt)

/-! ### Writes -/

/-- What SWRS writes to a register: the pair, or the register extended. -/
def View.swrsValue (V : View) (d : BitVec 6) (n : Nat) : Dword := if sysreg64 n then V.uni64 d.toNat else (V.uni d.toNat).setWidth 64

/-- SWRS of a writable register, free to execute: what `writeSys` makes of the value, or cause 0x002. -/
theorem exec_swrs {s : State} {V : View} {d : BitVec 6} {n : BitVec 15} (h : Ready s (infoOf (.swrs d n)) true V) (hn : sysregWritable n.toNat = true) :
    exec (.swrs d n) s = .next (match V.writeSys n.toNat (V.swrsValue d n.toNat) with
      | some W => W.retire (infoOf (.swrs d n))
      | none => V.issueFault 0x002) := by
  have hready : Ready s (infoOf (.swrs d n)) (sysregWritable n.toNat) V := by rwa [hn]
  exact issue_ready hready _

/-- A view that has the same registers, with the same of them defined, has had nothing written. -/
theorem Effects.nothing {V W : View} (hrf : W.q.rf = V.q.rf) (hundef : W.w.undef = V.w.undef) (hranges : W.w.tstRanges = V.w.tstRanges) (hr : W.r = V.r) :
    Effects V ⟨[], []⟩ W := by
  constructor <;> simp [View.cells, View.touched, hrf, hundef, hranges, hr]

/-- A write of a system register changes the warp record or the path, and no register. -/
theorem swrs_does {s : State} {V : View} {d : BitVec 6} {n : BitVec 15} {b : Warp} {p : Path} (h : Ready s (infoOf (.swrs d n)) true V)
    (hn : sysregWritable n.toNat = true) (hw : V.writeSys n.toNat (V.swrsValue d n.toNat) = some { V with w := b, p := p })
    (hb : b.undef = V.w.undef ∧ b.tstRanges = V.w.tstRanges) (hp : p.pc = V.p.pc ∧ p.issued = V.p.issued ∧ p.mask = V.p.mask) :
    Does (.swrs d n) s V b { p with pc := V.p.pc + 4 } ⟨[], []⟩ := by
  have he := exec_swrs h hn
  rw [hw] at he
  have hbecame : Became V V.s b p { V with w := b, p := p } := ⟨rfl, rfl, hp⟩
  have := does_of h.1 he hbecame (Effects.nothing rfl hb.1 hb.2 rfl)
  rwa [(State.view_from h.1).state] at this

theorem swrs_refuses {s : State} {V : View} {d : BitVec 6} {n : BitVec 15} (h : Ready s (infoOf (.swrs d n)) true V)
    (hn : sysregWritable n.toNat = true) (hw : V.writeSys n.toNat (V.swrsValue d n.toNat) = none) :
    exec (.swrs d n) s = .next (V.issueFault 0x002) := by
  rw [exec_swrs h hn, hw]

theorem writeSys_fmode (V : View) (x : Word) : V.writeSys 0x008 (x.setWidth 64) =
    if x.toNat < 8 then some { V with w := { V.w with fmode := x.extractLsb' 0 3 } } else none := by
  rw [← BitVec.setWidth_eq_extractLsb' (by decide), ← BitVec.toNat_setWidth_of_le (show 32 ≤ 64 by decide)]
  simp [View.writeSys]

theorem writeSys_em (V : View) (x : Word) : V.writeSys 0x007 (x.setWidth 64) =
    if x = 0#32 ∨ x &&& ~~~V.em ≠ 0#32 then none else some { V with p := { V.p with rest := V.p.rest ||| (V.em &&& ~~~x) } } := by
  simp [View.writeSys]

theorem writeSys_cause (V : View) (x : Word) : V.writeSys 0x009 (x.setWidth 64) =
    some { V with w := { V.w with trap := { V.w.trap with cause := x.extractLsb' 0 9 } } } := by
  rw [← BitVec.setWidth_eq_extractLsb' (by decide)]
  simp [View.writeSys, TrapRegs.write]

theorem writeSys_fmask (V : View) (x : Word) : V.writeSys 0x00C (x.setWidth 64) =
    some { V with w := { V.w with trap := { V.w.trap with fmask := x } } } := by
  simp [View.writeSys, TrapRegs.write]

/-! ### Refusals -/

/-- A write above the level of the word (R87). -/
theorem swrs_unprivileged {s : State} {V : View} {d : BitVec 6} {n : BitVec 15} (h : s.view = some V) (hb : V.breakHit = none) (hu : V.super = false)
    (hn : sysregWritable n.toNat = true) (h8 : n.toNat ≠ 8) : exec (.swrs d n) s = .next (V.issueFault 0x003) := by
  refine issue_check h hb ?_ _
  simp [View.check, Info.privileged, Info.sysFrom, Info.u, Info.l, hu, hn, h8]

/-- A number that is no register, or one that SWRS may not write (R82, R87). -/
theorem swrs_unwritable {s : State} {V : View} {d : BitVec 6} {n : BitVec 15} (h : s.view = some V) (hb : V.breakHit = none)
    (hn : sysregWritable n.toNat = false) : exec (.swrs d n) s = .next (V.issueFault 0x002) := by
  refine issue_check h hb ?_ _
  simp [View.check, Info.privileged, Info.sysFrom, Info.u, Info.l, hn]

/-- Settles O12: the reads by the value of each register; the writes by what `writeSys` does with each register's value; the refusals by the issue
checks. -/
theorem Registers.systemRegisters : Obligations.SystemRegisters := by
  refine ⟨fun s V n x hx => ⟨fun d h => ?_, fun d h hl => ?_⟩, fun s V d => ⟨fun h => ⟨fun hx => ?_, fun hx => ?_⟩, fun h => ⟨fun hx hin => ?_, fun hx => ?_⟩,
    fun h => ?_, fun h => ?_, fun h => ?_, fun h => ?_, fun h hb hu n hn => ?_, fun h hb n hn hout => ?_⟩⟩
  · obtain ⟨hn, rfl⟩ := sysValue_of_known (State.view_from h.1).state hx
    have hval : (BitVec.ofNat 14 n).toNat = n := Nat.mod_eq_of_lt (by omega)
    simpa only [hval] using rds_computes h (by omega)
  · obtain ⟨hn, rfl⟩ := sysValue_of_known (State.view_from h.1).state hx
    have hval : (BitVec.ofNat 15 n).toNat = n := Nat.mod_eq_of_lt (by omega)
    simpa only [hval] using srds_computes h (by omega) (hval.symm ▸ hl)
  · exact swrs_does h rfl ((writeSys_fmode V _).trans (if_pos hx)) ⟨rfl, rfl⟩ ⟨rfl, rfl, rfl⟩
  · exact swrs_refuses h rfl ((writeSys_fmode V _).trans (if_neg (Nat.not_lt.mpr hx)))
  · exact swrs_does h rfl ((writeSys_em V _).trans (if_neg (by simp [hx, hin]))) ⟨rfl, rfl⟩ ⟨rfl, rfl, rfl⟩
  · exact swrs_refuses h rfl ((writeSys_em V _).trans (if_pos hx))
  · exact swrs_does h rfl (writeSys_cause V _) ⟨rfl, rfl⟩ ⟨rfl, rfl, rfl⟩
  · exact swrs_does h rfl rfl ⟨rfl, rfl⟩ ⟨rfl, rfl, rfl⟩
  · exact swrs_does h rfl rfl ⟨rfl, rfl⟩ ⟨rfl, rfl, rfl⟩
  · exact swrs_does h rfl (writeSys_fmask V _) ⟨rfl, rfl⟩ ⟨rfl, rfl, rfl⟩
  · have hval : ∀ n ∈ [0x007, 0x009, 0x00A, 0x00B, 0x00C], sysregWritable (BitVec.ofNat 15 n).toNat = true ∧ (BitVec.ofNat 15 n).toNat ≠ 8 := by decide
    exact swrs_unprivileged h hb hu (hval n hn).1 (hval n hn).2
  · have hval : (BitVec.ofNat 15 n).toNat = n := Nat.mod_eq_of_lt hn
    refine swrs_unwritable h hb ?_
    rw [hval, sysregWritable, Bool.and_eq_false_iff, decide_eq_false_iff_not, decide_eq_false_iff_not]
    omega

end Sys2Proof.Machine
end

section
/-! SUPPORT. What the integer operations on one pattern give, as numbers (R51, R93-R97, R101, R102). -/
namespace Sys2Proof.Machine

/-! ### Products, minima and the absolute value (R93) -/

theorem mul_add_eq_ofNat (a b d : Word) : a * b + d = BitVec.ofNat 32 (a.toNat * b.toNat + d.toNat) := by
  simp [BitVec.ofNat_add, BitVec.ofNat_mul]

/-- The high word of a product is that of its 64-bit pattern. -/
theorem ofInt_div_two_pow_32 (z : Int) : BitVec.ofInt 32 (z / 2 ^ 32) = (BitVec.ofInt 64 z).extractLsb' 32 32 := by
  apply BitVec.eq_of_toNat_eq
  simp only [BitVec.extractLsb'_toNat, BitVec.toNat_ofInt, Nat.shiftRight_eq_div_pow]
  omega

theorem mulHiS_eq (a b : Word) : mulHiS a b = (BitVec.ofInt 64 (a.toInt * b.toInt)).extractLsb' 32 32 := ofInt_div_two_pow_32 _

theorem mulHiZ_eq (a b : Word) : mulHiZ a b = (BitVec.ofNat 64 (a.toNat * b.toNat)).extractLsb' 32 32 := by
  simpa [mulHiZ, ← BitVec.ofInt_natCast] using ofInt_div_two_pow_32 (a.toNat * b.toNat : Nat)

theorem minSigned_eq (a b : Word) : minSigned a b = BitVec.ofInt 32 (min a.toInt b.toInt) := by
  rw [minSigned, min_def]
  split <;> simp only [BitVec.ofInt_toInt]

theorem maxSigned_eq (a b : Word) : maxSigned a b = BitVec.ofInt 32 (max a.toInt b.toInt) := by
  rw [maxSigned, max_def]
  split <;> simp only [BitVec.ofInt_toInt]

theorem minUnsigned_eq (a b : Word) : minUnsigned a b = BitVec.ofNat 32 (min a.toNat b.toNat) := by
  rw [minUnsigned, min_def]
  split <;> simp only [BitVec.ofNat_toNat, BitVec.setWidth_eq]

theorem maxUnsigned_eq (a b : Word) : maxUnsigned a b = BitVec.ofNat 32 (max a.toNat b.toNat) := by
  rw [maxUnsigned, max_def]
  split <;> simp only [BitVec.ofNat_toNat, BitVec.setWidth_eq]

theorem absWord_eq (a : Word) : absWord a = BitVec.ofNat 32 a.toInt.natAbs := by
  have hsign : a.getLsbD 31 = decide (a.toInt < 0) := by
    rw [← BitVec.msb_eq_toInt, BitVec.msb_eq_getLsbD_last]
  rw [absWord, ← BitVec.ofInt_natCast, hsign]
  split
  · next h => rw [Int.ofNat_natAbs_of_nonpos (of_decide_eq_true h).le, BitVec.ofInt_neg, BitVec.ofInt_toInt]
  · next h => rw [Int.natAbs_of_nonneg (not_lt.mp (mt decide_eq_true h)), BitVec.ofInt_toInt]

/-! ### Shifts (R95, R98) -/

theorem shiftLeft_eq {w : Nat} (a : BitVec w) (n : Nat) : shiftLeft a n = BitVec.ofNat w (a.toNat * 2 ^ n) := by
  rw [← Nat.shiftLeft_eq]; rfl

theorem shiftRight_eq {w : Nat} (a : BitVec w) (n : Nat) : shiftRight a n = BitVec.ofNat w (a.toNat / 2 ^ n) := by
  rw [← Nat.shiftRight_eq_div_pow, ← BitVec.toNat_ushiftRight, BitVec.ofNat_toNat, BitVec.setWidth_eq]; rfl

theorem shiftArith_eq {w : Nat} (a : BitVec w) (n : Nat) : shiftArith a n = BitVec.ofInt w (a.toInt / 2 ^ n) := by
  rw [shiftArith, BitVec.sshiftRight, Int.shiftRight_eq_div_pow]; norm_cast

/-- The two parts of a rotated word share no bit, so that they add up. -/
theorem rotateLeft_eq (a b : Word) :
    rotateLeft a b = BitVec.ofNat 32 (a.toNat * 2 ^ (b.toNat % 32) + a.toNat / 2 ^ (32 - b.toNat % 32)) := by
  have hr : b.toNat % 32 < 32 := Nat.mod_lt _ (by decide)
  rw [rotateLeft, BitVec.rotateLeft_def, Nat.mod_mod]
  generalize b.toNat % 32 = r at hr
  have hlow : a.toNat >>> (32 - r) < 2 ^ r := by
    rw [Nat.shiftRight_eq_div_pow, Nat.div_lt_iff_lt_mul (Nat.two_pow_pos _), ← Nat.pow_add, show r + (32 - r) = 32 by omega]
    exact a.isLt
  apply BitVec.eq_of_toNat_eq
  rw [← Nat.shiftLeft_eq, ← Nat.shiftRight_eq_div_pow, Nat.shiftLeft_add_eq_or_of_lt hlow]
  simp only [BitVec.toNat_or, BitVec.toNat_shiftLeft, BitVec.toNat_ushiftRight, BitVec.toNat_ofNat, Nat.or_mod_two_pow]
  congr 1
  exact (Nat.mod_eq_of_lt (hlow.trans (Nat.pow_lt_pow_right (by decide) hr))).symm

/-! ### Counts, bit order and bit fields (R96, R97, R102) -/

theorem popCount_eq (a : Word) : popCount a = BitVec.ofNat 32 (onesCount a) := by
  rw [popCount, onesCount, List.countP_eq_length_filter]; rfl

theorem firstSet_eq (a : Word) : firstSet a = BitVec.ofNat 32 (((List.range 32).find? fun j => a.getLsbD j).getD 32) := by
  rw [firstSet, lowestLane, lanesOf, List.head?_filter, lanes]
  split <;> next h => rw [h]; rfl

/-- The lanes from 31 down. -/
theorem lanes_reverse : lanes.reverse = (List.range 32).map (31 - ·) := by decide

theorem leadingZeros_eq (a : Word) : leadingZeros a = BitVec.ofNat 32 (zerosAbove a) := by
  have hlast : (onesOf a).getLast? = ((List.range 32).find? fun k => a.getLsbD (31 - k)).map (31 - ·) := by
    rw [onesOf, lanesOf, List.getLast?_eq_head?_reverse, ← List.filter_reverse, List.head?_filter, lanes_reverse, List.find?_map]; rfl
  rw [leadingZeros, zerosAbove, hlast]
  cases h : (List.range 32).find? fun k => a.getLsbD (31 - k) with
  | none => rfl
  | some k =>
    have hk : k < 32 := List.mem_range.mp (List.mem_of_find?_eq_some h)
    simp only [Option.map_some, Option.getD_some]
    congr 1
    omega

theorem reverseBits_eq (a : Word) : reverseBits a = a.reverse := by
  refine BitVec.eq_of_getLsbD_eq fun i hi => ?_
  rw [reverseBits, getLsbD_maskOf _ hi, BitVec.getLsbD_reverse, BitVec.getMsbD_eq_getLsbD]
  simp [hi]

theorem fieldPos_eq (b : Word) : fieldPos b = b.toNat % 32 := by
  simp [fieldPos]

theorem fieldWidth_eq (b : Word) : fieldWidth b = b.toNat / 256 % 32 + 1 := by
  simp [fieldWidth, Nat.shiftRight_eq_div_pow]

theorem fieldOfWord_eq (a b : Word) : fieldOfWord a b = bitField a b := by
  rw [fieldOfWord, fieldPos_eq, fieldWidth_eq, bitField]

theorem extractZ_eq (a b : Word) : extractZ a b = BitVec.ofNat 32 (bitField a b) := by
  rw [extractZ, fieldOfWord_eq]

/-- Read as signed, the upper half of the patterns of a width stands for the negative numbers. -/
theorem toInt_ofNat_of_lt {n f : Nat} (h : f < 2 ^ (n + 1)) :
    (BitVec.ofNat (n + 1) f).toInt = if 2 ^ n ≤ f then (f : Int) - 2 ^ (n + 1) else f := by
  rw [BitVec.toInt_eq_toNat_cond, BitVec.toNat_ofNat, Nat.mod_eq_of_lt h, Nat.pow_succ]
  by_cases hneg : 2 ^ n ≤ f
  · rw [if_neg (by omega), if_pos hneg]; push_cast; rfl
  · rw [if_pos (by omega), if_neg hneg]

theorem extractS_eq (a b : Word) : extractS a b = (BitVec.ofNat (b.toNat / 256 % 32 + 1) (bitField a b)).signExtend 32 := by
  have hlt : bitField a b < 2 ^ (b.toNat / 256 % 32 + 1) := Nat.mod_lt _ (Nat.two_pow_pos _)
  simp only [extractS, BitVec.signExtend, fieldOfWord_eq, fieldWidth_eq, toInt_ofNat_of_lt hlt, Nat.add_sub_cancel]

theorem insertField_eq (a b d : Word) :
    insertField a b d = (d &&& ~~~fieldMask b) ||| (a <<< (b.toNat % 32) &&& fieldMask b) := by
  rw [insertField, fieldMask, fieldPos_eq, fieldWidth_eq]

/-! ### Remainders (R101) -/

theorem remSigned_eq (a b : Word) : remSigned a b = restS a b := by
  rw [remSigned, restS, Int.tmod_def]; rfl

end Sys2Proof.Machine
end

section
/-! SUPPORT. The integer words of lanes and of the warp (R93-R104). -/
namespace Sys2Proof.Machine

/-! ### Words by what they write -/

section
variable {s : State} {V : View} {i : Instr} {w : Word}

theorem rowWord_of {d : BitVec 7} {f : View → Nat → Word} {g : Nat → Word} (hw : encode i = some w)
    (he : exec i s = issueReg (infoOf i) s fun V => V.writeLane d.toNat (f V)) (hi : (infoOf i).rc = false) (hg : ∀ l, f V l = g l) : RowWord s V i w d g :=
  ⟨hw, fun h => funext hg ▸ computes_row h he hi⟩

theorem pairWord_of {d : BitVec 7} {f : View → Nat → Dword} {g : Nat → Dword} (hw : encode i = some w)
    (he : exec i s = issueReg (infoOf i) s fun V => V.writeLane64 d.toNat (f V)) (hi : (infoOf i).rc = false)
    (hd : two d ∈ (infoOf i).lane ++ (infoOf i).uni) (hg : ∀ l, f V l = g l) : PairWord s V i w d g :=
  ⟨hw, fun h => funext hg ▸ computes_row64 h (even_of_ready h hd) he hi⟩

theorem uniWord_of {d : BitVec 6} {f : View → Word} {x : Word} (hw : encode i = some w)
    (he : exec i s = issueReg (infoOf i) s fun V => V.writeUni d.toNat (f V)) (hi : (infoOf i).rc = false) (hx : f V = x) : UniWord s V i w d x :=
  ⟨hw, fun h => hx ▸ computes_uni h d.isLt he hi⟩

theorem uniPairWord_of {d : BitVec 6} {f : View → Dword} {x : Dword} (hw : encode i = some w)
    (he : exec i s = issueReg (infoOf i) s fun V => V.writeUni64 d.toNat (f V)) (hi : (infoOf i).rc = false)
    (hd : two d ∈ (infoOf i).lane ++ (infoOf i).uni) (hx : f V = x) : UniPairWord s V i w d x :=
  ⟨hw, fun h => hx ▸ computes_uni64 h (even_of_ready h hd) d.isLt he hi⟩

theorem maskWord_of {d : BitVec 6} {f : View → Nat → Bool} {p : Nat → Prop} (hw : encode i = some w)
    (he : exec i s = issueReg (infoOf i) s fun V => V.writeMask d.toNat (f V)) (hi : (infoOf i).rc = false) (hp : ∀ l, f V l = true ↔ p l) :
    MaskWord s V i w d p := by
  refine ⟨hw, fun h => ⟨maskOf fun l => V.em.getLsbD l && f V l, fun l hl => ?_, computes_uni h d.isLt he hi⟩⟩
  rw [getLsbD_maskOf _ hl, Bool.and_eq_true, hp]

end

/-! ### Lane words -/

/-- Settles O1, word by word in the order of the tables of R93 and R94: what the model computes is the stated value by definition, or by the equation of its
operation. -/
theorem laneArithmeticAndLogic : Obligations.LaneArithmeticAndLogic :=
  ⟨fun _ _ _ _ _ _ => ⟨rowWord_of rfl rfl rfl fun _ => rfl, rowWord_of rfl rfl rfl fun _ => rfl, rowWord_of rfl rfl rfl fun _ => rfl,
    rowWord_of rfl rfl rfl fun _ => rfl, rowWord_of rfl rfl rfl fun _ => rfl, rowWord_of rfl rfl rfl fun _ => rfl,
    rowWord_of rfl rfl rfl fun _ => mulHiS_eq _ _, rowWord_of rfl rfl rfl fun _ => mulHiZ_eq _ _,
    rowWord_of rfl rfl rfl fun _ => mul_add_eq_ofNat _ _ _, rowWord_of rfl rfl rfl fun _ => mul_add_eq_ofNat _ _ _,
    rowWord_of rfl rfl rfl fun _ => minSigned_eq _ _, rowWord_of rfl rfl rfl fun _ => maxSigned_eq _ _,
    rowWord_of rfl rfl rfl fun _ => minUnsigned_eq _ _, rowWord_of rfl rfl rfl fun _ => maxUnsigned_eq _ _,
    rowWord_of rfl rfl rfl fun _ => absWord_eq _, rowWord_of rfl rfl rfl fun _ => rfl, rowWord_of rfl rfl rfl fun _ => rfl,
    rowWord_of rfl rfl rfl fun _ => rfl, rowWord_of rfl rfl rfl fun _ => rfl, rowWord_of rfl rfl rfl fun _ => rfl,
    rowWord_of rfl rfl rfl fun _ => rfl, rowWord_of rfl rfl rfl fun _ => rfl⟩,
  fun _ _ _ _ _ => ⟨rowWord_of rfl rfl rfl fun _ => rfl, rowWord_of rfl rfl rfl fun _ => rfl, rowWord_of rfl rfl rfl fun _ => rfl,
    rowWord_of rfl rfl rfl fun _ => rfl⟩⟩

/-- Settles O2: the shifts as products and quotients by a power of two; the counts, fields and bit order by what the model's scans of a word find. -/
theorem laneShiftsAndBits : Obligations.LaneShiftsAndBits :=
  ⟨fun _ _ _ _ _ _ _ => ⟨rowWord_of rfl rfl rfl fun _ => shiftLeft_eq _ _, rowWord_of rfl rfl rfl fun _ => shiftLeft_eq _ _,
    rowWord_of rfl rfl rfl fun _ => shiftRight_eq _ _, rowWord_of rfl rfl rfl fun _ => shiftRight_eq _ _,
    rowWord_of rfl rfl rfl fun _ => shiftArith_eq _ _, rowWord_of rfl rfl rfl fun _ => rotateLeft_eq _ _,
    rowWord_of rfl rfl rfl fun _ => shiftLeft_eq _ _, rowWord_of rfl rfl rfl fun _ => shiftRight_eq _ _,
    rowWord_of rfl rfl rfl fun _ => shiftArith_eq _ _⟩,
  fun _ _ _ _ _ => ⟨rowWord_of rfl rfl rfl fun _ => popCount_eq _, rowWord_of rfl rfl rfl fun _ => leadingZeros_eq _,
    rowWord_of rfl rfl rfl fun _ => reverseBits_eq _, rowWord_of rfl rfl rfl fun _ => extractZ_eq _ _,
    rowWord_of rfl rfl rfl fun _ => extractS_eq _ _, rowWord_of rfl rfl rfl fun _ => insertField_eq _ _ _⟩⟩

/-- Settles O3: the pair is even because the word has passed the issue checks (R16, R40). -/
theorem lanePairs : Obligations.LanePairs := fun _ _ _ _ _ =>
  ⟨pairWord_of rfl rfl rfl List.mem_cons_self fun _ => rfl, pairWord_of rfl rfl rfl List.mem_cons_self fun _ => rfl,
    pairWord_of rfl rfl rfl List.mem_cons_self fun _ => rfl, pairWord_of rfl rfl rfl List.mem_cons_self fun _ => shiftLeft_eq _ _,
    pairWord_of rfl rfl rfl List.mem_cons_self fun _ => shiftRight_eq _ _, pairWord_of rfl rfl rfl List.mem_cons_self fun _ => shiftArith_eq _ _⟩

/-- An immediate compared as signed is the number that its bits hold. -/
theorem ltS_simm (a : Word) (i : BitVec 7) : ltS a (simm i) = true ↔ a.toInt < i.toInt := by
  rw [ltS, decide_eq_true_iff, simm, BitVec.toInt_signExtend_of_le (by decide)]

/-- Settles O4: the mask of a compare holds the lanes of EM in which the relation holds. -/
theorem laneCompares : Obligations.LaneCompares := fun _ _ _ _ _ _ _ _ =>
  ⟨maskWord_of rfl rfl rfl fun _ => beq_iff_eq, maskWord_of rfl rfl rfl fun _ => beq_iff_eq, maskWord_of rfl rfl rfl fun _ => bne_iff_ne,
    maskWord_of rfl rfl rfl fun _ => decide_eq_true_iff, maskWord_of rfl rfl rfl fun _ => decide_eq_true_iff,
    maskWord_of rfl rfl rfl fun _ => decide_eq_true_iff, maskWord_of rfl rfl rfl fun _ => decide_eq_true_iff,
    maskWord_of rfl rfl rfl fun _ => decide_eq_true_iff, maskWord_of rfl rfl rfl fun _ => beq_iff_eq, maskWord_of rfl rfl rfl fun _ => ltS_simm _ _,
    rowWord_of rfl rfl rfl fun _ => rfl⟩

/-- Settles O5: the model's remainder is the dividend less the divisor times the truncated quotient. -/
theorem laneDivision : Obligations.LaneDivision :=
  ⟨fun _ _ _ _ _ => ⟨rowWord_of rfl rfl rfl fun _ => rfl, rowWord_of rfl rfl rfl fun _ => remSigned_eq _ _, rowWord_of rfl rfl rfl fun _ => rfl,
    rowWord_of rfl rfl rfl fun _ => rfl⟩,
    rfl, rfl, rfl, rfl⟩

/-! ### Uniform words -/

theorem truth_eq {b : Bool} {p : Prop} [Decidable p] (h : b = true ↔ p) : truth b = oneIf p := by
  simp only [truth, oneIf, h]

/-- An empty field b and an empty field f are nine zeros. -/
theorem append_zeros_zeros (x : BitVec 23) : (x ++ 0#6 ++ 0#3 : BitVec 32) = x ++ 0#9 := by
  apply BitVec.eq_of_toNat_eq
  simp only [BitVec.toNat_append, BitVec.toNat_ofNat, Nat.zero_mod, Nat.or_zero, ← Nat.shiftLeft_add]

theorem encode_unary {i : Instr} {x : BitVec 23} (h : encode i = some (x ++ 0#9)) : encode i = some (x ++ 0#6 ++ 0#3 : BitVec 32) := by
  rw [append_zeros_zeros, h]

/-- Settles O6: the uniform words share their operations with the lane words, and so the equations; a word without b has its zeros as one field. -/
theorem uniformIntegerWords : Obligations.UniformIntegerWords :=
  ⟨fun _ _ _ _ _ _ _ => ⟨uniWord_of rfl rfl rfl rfl, uniWord_of rfl rfl rfl rfl, uniWord_of rfl rfl rfl rfl, uniWord_of rfl rfl rfl rfl,
    uniWord_of rfl rfl rfl (mulHiS_eq _ _), uniWord_of rfl rfl rfl (mulHiZ_eq _ _), uniWord_of rfl rfl rfl (minSigned_eq _ _),
    uniWord_of rfl rfl rfl (maxSigned_eq _ _), uniWord_of rfl rfl rfl (minUnsigned_eq _ _), uniWord_of rfl rfl rfl (maxUnsigned_eq _ _),
    uniWord_of rfl rfl rfl rfl, uniWord_of rfl rfl rfl rfl, uniWord_of rfl rfl rfl rfl, uniWord_of rfl rfl rfl rfl, uniWord_of rfl rfl rfl rfl,
    uniWord_of rfl rfl rfl rfl, uniWord_of rfl rfl rfl rfl, uniWord_of rfl rfl rfl (shiftLeft_eq _ _), uniWord_of rfl rfl rfl (shiftRight_eq _ _),
    uniWord_of rfl rfl rfl (shiftArith_eq _ _), uniWord_of rfl rfl rfl (shiftLeft_eq _ _), uniWord_of rfl rfl rfl (shiftRight_eq _ _),
    uniWord_of rfl rfl rfl (shiftArith_eq _ _), uniWord_of (encode_unary rfl) rfl rfl (popCount_eq _),
    uniWord_of (encode_unary rfl) rfl rfl (leadingZeros_eq _), uniWord_of (encode_unary rfl) rfl rfl (firstSet_eq _),
    uniWord_of (encode_unary rfl) rfl rfl (reverseBits_eq _), uniWord_of rfl rfl rfl (extractZ_eq _ _), uniWord_of rfl rfl rfl (insertField_eq _ _ _),
    uniPairWord_of rfl rfl rfl List.mem_cons_self rfl, uniPairWord_of rfl rfl rfl List.mem_cons_self rfl, uniWord_of rfl rfl rfl rfl,
    uniWord_of rfl rfl rfl rfl⟩,
  fun _ _ _ _ _ _ => ⟨uniWord_of rfl rfl rfl (truth_eq beq_iff_eq), uniWord_of rfl rfl rfl (truth_eq bne_iff_ne),
    uniWord_of rfl rfl rfl (truth_eq decide_eq_true_iff), uniWord_of rfl rfl rfl (truth_eq decide_eq_true_iff),
    uniWord_of rfl rfl rfl (truth_eq decide_eq_true_iff), uniWord_of rfl rfl rfl (truth_eq decide_eq_true_iff), uniWord_of rfl rfl rfl rfl⟩⟩

end Sys2Proof.Machine
end

section
/-! SUPPORT. The floating-point words and the conversions (R105-R114). -/
namespace Sys2Proof.Machine

/-! ### Elements and the sign bit (R107, R112, R113) -/

/-- A word is its sign bit and the bits below it. -/
theorem sign_append_low (a : Word) : (a.extractLsb' 31 1 ++ a.extractLsb' 0 31 : BitVec 32) = a :=
  BitVec.extractLsb'_append_extractLsb' (w := 1) (len := 31)

theorem clearSign_eq (a : Word) : a &&& 0x7FFFFFFF#32 = (0#1 ++ a.extractLsb' 0 31 : BitVec 32) := by
  calc a &&& 0x7FFFFFFF#32 = (a.extractLsb' 31 1 ++ a.extractLsb' 0 31 : BitVec 32) &&& (0#1 ++ BitVec.allOnes 31 : BitVec 32) := by
        rw [sign_append_low]; rfl
    _ = 0#1 ++ a.extractLsb' 0 31 := by rw [BitVec.and_append, BitVec.and_zero, BitVec.and_allOnes]

theorem flipSign_eq (a : Word) : a ^^^ 0x80000000#32 = (~~~a.extractLsb' 31 1 ++ a.extractLsb' 0 31 : BitVec 32) := by
  calc a ^^^ 0x80000000#32 = (a.extractLsb' 31 1 ++ a.extractLsb' 0 31 : BitVec 32) ^^^ (BitVec.allOnes 1 ++ 0#31 : BitVec 32) := by
        rw [sign_append_low]; rfl
    _ = ~~~a.extractLsb' 31 1 ++ a.extractLsb' 0 31 := by rw [BitVec.xor_append, BitVec.xor_zero, BitVec.xor_allOnes]

theorem element_eq (w : Word) (n i : Nat) : element w n i = w.toNat / 2 ^ (n * i) % 2 ^ n := by
  rw [element, BitVec.extractLsb'_toNat, Nat.shiftRight_eq_div_pow]

/-- The lower and the upper half of a word as elements (R112). -/
theorem halves_eq (w : Word) : (w.extractLsb' 0 16).toNat = w.toNat % 2 ^ 16 ∧ (w.extractLsb' 16 16).toNat = w.toNat / 2 ^ 16 := by
  have := w.isLt
  simp only [BitVec.extractLsb'_toNat, Nat.shiftRight_eq_div_pow]
  omega

/-! ### Comparisons, halves and packed conversions (R108, R112, R113) -/

theorem fpCmp_iff (F : Fmt) (md : FMode) (rel : Int → Bool) (a b : Nat) :
    fpCmp F md rel a b = true ↔ ∃ c, (Fp.read F md.flush a).compare (Fp.read F md.flush b) = some c ∧ rel c = true := by
  unfold fpCmp
  split <;> simp [*]

theorem fpCmp_isEq (F : Fmt) (md : FMode) (a b : Nat) :
    fpCmp F md isEq a b = true ↔ (Fp.read F md.flush a).compare (Fp.read F md.flush b) = some 0 := by
  simp [fpCmp_iff, isEq]

theorem fpCmp_isLt (F : Fmt) (md : FMode) (a b : Nat) :
    fpCmp F md isLt a b = true ↔ ∃ c, (Fp.read F md.flush a).compare (Fp.read F md.flush b) = some c ∧ c < 0 := by
  simp only [fpCmp_iff, isLt, decide_eq_true_iff]

theorem fpCmp_isLe (F : Fmt) (md : FMode) (a b : Nat) :
    fpCmp F md isLe a b = true ↔ ∃ c, (Fp.read F md.flush a).compare (Fp.read F md.flush b) = some c ∧ c ≤ 0 := by
  simp only [fpCmp_iff, isLe, decide_eq_true_iff]

theorem f16x2_eq (md : FMode) (op : Fmt → FMode → Nat → Nat → Nat) (a b : Word) :
    f16x2 md op a b = BitVec.ofNat 32 (op Fmt.fp16 md (a.toNat % 2 ^ 16) (b.toNat % 2 ^ 16) +
      2 ^ 16 * op Fmt.fp16 md (a.toNat / 2 ^ 16) (b.toNat / 2 ^ 16)) := by
  simp only [f16x2, pack16, halves_eq, Nat.mul_comm (2 ^ 16)]

theorem fma16x2_eq (md : FMode) (a b d : Word) :
    fma16x2 md a b d = BitVec.ofNat 32 (fpFma Fmt.fp16 md (a.toNat % 2 ^ 16) (b.toNat % 2 ^ 16) (d.toNat % 2 ^ 16) +
      2 ^ 16 * fpFma Fmt.fp16 md (a.toNat / 2 ^ 16) (b.toNat / 2 ^ 16) (d.toNat / 2 ^ 16)) := by
  simp only [fma16x2, pack16, halves_eq, Nat.mul_comm (2 ^ 16)]

theorem packTwo_eq (F : Fmt) (md : FMode) (n : Nat) (a b : Word) :
    packTwo F md n a b = BitVec.ofNat 32 ((Fp.read Fmt.fp32 md.flush a.toNat).write F md + 2 ^ n * (Fp.read Fmt.fp32 md.flush b.toNat).write F md) := by
  rw [packTwo, Nat.mul_comm (2 ^ n)]; rfl

theorem convert_element (F G : Fmt) (md : FMode) (w : Word) (n i : Nat) :
    BitVec.ofNat 32 (fpConvert F G md (element w n i)) = BitVec.ofNat 32 ((Fp.read F md.flush (w.toNat / 2 ^ (n * i) % 2 ^ n)).write G md) := by
  rw [element_eq, fpConvert]

/-! ### The obligations -/

/-- Settles O9: the arithmetic is that of the model's operations on patterns; the sign words, compares and FP16 pairs by their equations. -/
theorem floatWords : Obligations.FloatWords :=
  ⟨fun _ _ _ _ _ _ _ => ⟨rowWord_of rfl rfl rfl fun _ => rfl, rowWord_of rfl rfl rfl fun _ => rfl, rowWord_of rfl rfl rfl fun _ => rfl,
    rowWord_of rfl rfl rfl fun _ => rfl, rowWord_of rfl rfl rfl fun _ => rfl, rowWord_of rfl rfl rfl fun _ => rfl,
    rowWord_of rfl rfl rfl fun _ => rfl, rowWord_of rfl rfl rfl fun _ => rfl, rowWord_of rfl rfl rfl fun _ => rfl,
    rowWord_of rfl rfl rfl fun _ => rfl, rowWord_of rfl rfl rfl fun _ => clearSign_eq _, rowWord_of rfl rfl rfl fun _ => flipSign_eq _,
    maskWord_of rfl rfl rfl fun _ => fpCmp_isEq _ _ _ _, maskWord_of rfl rfl rfl fun _ => fpCmp_isLt _ _ _ _,
    maskWord_of rfl rfl rfl fun _ => fpCmp_isLe _ _ _ _, maskWord_of rfl rfl rfl fun _ => Option.isNone_iff_eq_none,
    rowWord_of rfl rfl rfl fun _ => rfl, rowWord_of rfl rfl rfl fun _ => rfl, rowWord_of rfl rfl rfl fun _ => rfl,
    rowWord_of rfl rfl rfl fun _ => rfl, rowWord_of rfl rfl rfl fun _ => rfl, rowWord_of rfl rfl rfl fun _ => rfl, rowWord_of rfl rfl rfl fun _ => rfl⟩,
  fun _ _ _ _ _ _ => ⟨pairWord_of rfl rfl rfl List.mem_cons_self fun _ => rfl, pairWord_of rfl rfl rfl List.mem_cons_self fun _ => rfl,
    pairWord_of rfl rfl rfl List.mem_cons_self fun _ => rfl, pairWord_of rfl rfl rfl List.mem_cons_self fun _ => rfl,
    pairWord_of rfl rfl rfl List.mem_cons_self fun _ => rfl, pairWord_of rfl rfl rfl List.mem_cons_self fun _ => rfl,
    maskWord_of rfl rfl rfl fun _ => fpCmp_isEq _ _ _ _, maskWord_of rfl rfl rfl fun _ => fpCmp_isLt _ _ _ _,
    maskWord_of rfl rfl rfl fun _ => fpCmp_isLe _ _ _ _, rowWord_of rfl rfl rfl fun _ => f16x2_eq _ _ _ _,
    rowWord_of rfl rfl rfl fun _ => f16x2_eq _ _ _ _, rowWord_of rfl rfl rfl fun _ => fma16x2_eq _ _ _ _⟩⟩

/-- Settles O10: each conversion reads one format and writes another; packed ones by the places of their elements. -/
theorem conversions : Obligations.Conversions := fun _ _ _ _ _ _ _ =>
  ⟨rowWord_of rfl rfl rfl fun _ => rfl, rowWord_of rfl rfl rfl fun _ => rfl, rowWord_of rfl rfl rfl fun _ => rfl,
    rowWord_of rfl rfl rfl fun _ => rfl, pairWord_of rfl rfl rfl List.mem_cons_self fun _ => rfl, rowWord_of rfl rfl rfl fun _ => rfl,
    pairWord_of rfl rfl rfl List.mem_cons_self fun _ => rfl, rowWord_of rfl rfl rfl fun _ => rfl,
    rowWord_of rfl rfl rfl fun _ => packTwo_eq _ _ _ _ _, rowWord_of rfl rfl rfl fun _ => convert_element _ _ _ _ _ _,
    rowWord_of rfl rfl rfl fun _ => packTwo_eq _ _ _ _ _, rowWord_of rfl rfl rfl fun _ => convert_element _ _ _ _ _ _,
    rowWord_of rfl rfl rfl fun _ => packTwo_eq _ _ _ _ _, rowWord_of rfl rfl rfl fun _ => packTwo_eq _ _ _ _ _,
    rowWord_of rfl rfl rfl fun _ => convert_element _ _ _ _ _ _, rowWord_of rfl rfl rfl fun _ => convert_element _ _ _ _ _ _⟩

end Sys2Proof.Machine
end

section
/-! SUPPORT. FP32 patterns, the numbers that they stand for, and exact rounding (R53-R57). -/
namespace Sys2Proof.Machine

/-! ### Finite values as numbers -/

/-- The number that a finite value stands for: (-1)^neg m 2^e. -/
def finValue (neg : Bool) (m : Nat) (e : Int) : ℚ := (if neg then -(m : ℚ) else m) * 2 ^ e

/-- A magnitude brought down to a lower power of two, which is an integer there. -/
theorem scale_to_lower (m : Nat) {e k : Int} (h : k ≤ e) : (m : ℚ) * 2 ^ e = (m * 2 ^ (e - k).toNat : Nat) * 2 ^ k := by
  push_cast
  rw [← zpow_natCast, Int.toNat_of_nonneg (by omega), mul_assoc, ← zpow_add₀ two_ne_zero, sub_add_cancel]

theorem finValue_scaled (neg : Bool) (m : Nat) {e k : Int} (h : k ≤ e) :
    finValue neg m e = ((if neg then -1 else 1) * (m * 2 ^ (e - k).toNat : Nat) : Int) * 2 ^ k := by
  have hmag := scale_to_lower m h
  cases neg
  · simp [finValue, hmag]
  · simp [finValue, hmag, neg_mul]

/-- Comparison is that of the numbers. -/
theorem compare_fin (na : Bool) (ma : Nat) (ea : Int) (nb : Bool) (mb : Nat) (eb : Int) :
    Fp.compare (.fin na ma ea) (.fin nb mb eb) =
      some (if finValue na ma ea < finValue nb mb eb then -1 else if finValue nb mb eb < finValue na ma ea then 1 else 0) := by
  have hpos : (0 : ℚ) < 2 ^ min ea eb := zpow_pos two_pos _
  rw [finValue_scaled na ma (min_le_left ea eb), finValue_scaled nb mb (min_le_right ea eb)]
  simp only [Fp.compare, mul_lt_mul_iff_left₀ hpos, Int.cast_lt]

theorem finValue_ofInt (k : Int) : finValue (decide (k < 0)) k.natAbs 0 = k := by
  rw [finValue, zpow_zero, mul_one, Nat.cast_natAbs]
  split
  · next h => rw [abs_of_neg (of_decide_eq_true h)]; simp
  · next h => rw [abs_of_nonneg (not_lt.mp (mt decide_eq_true h))]

theorem compare_ofInt (neg : Bool) (m : Nat) (e k : Int) :
    Fp.compare (.fin neg m e) (.ofInt k) = some (if finValue neg m e < k then -1 else if k < finValue neg m e then 1 else 0) := by
  rw [Fp.ofInt, compare_fin, finValue_ofInt]

/-- In fixed point a value loses nothing where its lowest bit stands. -/
theorem toFx_fin (neg : Bool) (m : Nat) {e : Int} (h : 0 ≤ e + 96) : (Fp.toFx (.fin neg m e) : ℚ) = finValue neg m e * fxOne := by
  have hone : (fxOne : ℚ) = 2 ^ (96 : Int) := by norm_num [fxOne]
  rw [finValue_scaled neg m (show -96 ≤ e by omega), Fp.toFx, if_pos h, hone, mul_assoc, ← zpow_add₀ two_ne_zero]
  cases neg <;> simp

/-! ### FP32 patterns (R53) -/

/-- The numbers of the format (R53). -/
theorem fp32_fields : Fmt.fp32.ebits = 8 ∧ Fmt.fp32.fbits = 23 ∧ Fmt.fp32.e4m3 = false ∧ Fmt.fp32.fp8 = false ∧ Fmt.fp32.bias = 127 ∧
    Fmt.fp32.signBit = 2 ^ 31 ∧ Fmt.fp32.emaxCode = 255 ∧ Fmt.fp32.inf = 0x7F800000 ∧ Fmt.fp32.largest = 0x7F7FFFFF :=
  ⟨rfl, rfl, rfl, rfl, rfl, rfl, rfl, rfl, rfl⟩

theorem read_fp32 (flush : Bool) (a : Word) :
    Fp.read Fmt.fp32 flush a.toNat =
      if a.toNat % 2 ^ 31 / 2 ^ 23 = 255 then (if a.toNat % 2 ^ 23 = 0 then .inf (decide (2 ^ 31 ≤ a.toNat)) else .nan)
      else if a.toNat % 2 ^ 31 / 2 ^ 23 = 0 then .fin (decide (2 ^ 31 ≤ a.toNat)) (if flush then 0 else a.toNat % 2 ^ 23) (-149)
      else .fin (decide (2 ^ 31 ≤ a.toNat)) (2 ^ 23 + a.toNat % 2 ^ 23) ((a.toNat % 2 ^ 31 / 2 ^ 23 : Nat) - 150) := by
  have ha := a.isLt
  have hneg : (a.toNat / 2 ^ 31 % 2 = 1) = (2 ^ 31 ≤ a.toNat) := propext (by omega)
  have hex : a.toNat / 2 ^ 23 % 2 ^ 8 = a.toNat % 2 ^ 31 / 2 ^ 23 := by omega
  obtain ⟨hebits, hfbits, he4m3, -, hbias, hsign, hemax, -⟩ := fp32_fields
  simp only [Fp.read, hebits, hfbits, he4m3, hbias, hsign, hemax, hneg, hex, Bool.false_and, Bool.not_false, Bool.true_and, beq_iff_eq,
    Bool.false_eq_true, if_false, Int.sub_sub]
  rfl

section
variable {a : Word} (flush : Bool)

theorem read_nan (h : 0x7F800000 < a.toNat % 2 ^ 31) : Fp.read Fmt.fp32 flush a.toNat = .nan := by
  rw [read_fp32, if_pos (by omega), if_neg (by omega)]

theorem read_inf (h : a.toNat % 2 ^ 31 = 0x7F800000) : Fp.read Fmt.fp32 flush a.toNat = .inf (decide (2 ^ 31 ≤ a.toNat)) := by
  rw [read_fp32, if_pos (by omega), if_pos (by omega)]

theorem read_subnormal (h : a.toNat % 2 ^ 31 < 2 ^ 23) :
    Fp.read Fmt.fp32 flush a.toNat = .fin (decide (2 ^ 31 ≤ a.toNat)) (if flush then 0 else a.toNat % 2 ^ 31) (-149) := by
  rw [read_fp32, if_neg (by omega), if_pos (by omega), show a.toNat % 2 ^ 23 = a.toNat % 2 ^ 31 by omega]

theorem read_normal (hlow : 2 ^ 23 ≤ a.toNat % 2 ^ 31) (hhigh : a.toNat % 2 ^ 31 < 0x7F800000) :
    Fp.read Fmt.fp32 flush a.toNat =
      .fin (decide (2 ^ 31 ≤ a.toNat)) (2 ^ 23 + a.toNat % 2 ^ 31 % 2 ^ 23) ((a.toNat % 2 ^ 31 / 2 ^ 23 : Nat) - 150) := by
  rw [read_fp32, if_neg (by omega), if_neg (by omega), show a.toNat % 2 ^ 23 = a.toNat % 2 ^ 31 % 2 ^ 23 by omega]

end

/-! ### Exact results in FP32 -/

theorem shiftRound_zero (mode : Nat) (neg : Bool) (m : Nat) : shiftRound mode neg m 0 = m := by
  simp [shiftRound, Nat.mod_one]

/-- A magnitude of at most 24 bits, moved up until its highest bit is bit 23. -/
theorem normalized_bounds {m : Nat} (hm : m ≠ 0) (hm' : m < 2 ^ 24) :
    Nat.log2 m ≤ 23 ∧ 2 ^ 23 ≤ m * 2 ^ (23 - Nat.log2 m) ∧ m * 2 ^ (23 - Nat.log2 m) < 2 ^ 24 := by
  have hlog : Nat.log2 m < 24 := (Nat.log2_lt hm).mpr hm'
  have hlow : 2 ^ Nat.log2 m ≤ m := Nat.log2_self_le hm
  have hhigh : m < 2 ^ (Nat.log2 m + 1) := Nat.lt_log2_self
  have hup := Nat.two_pow_pos (23 - Nat.log2 m)
  refine ⟨by omega, ?_, ?_⟩
  · calc 2 ^ 23 = 2 ^ Nat.log2 m * 2 ^ (23 - Nat.log2 m) := by rw [← Nat.pow_add]; congr 1; omega
      _ ≤ _ := Nat.mul_le_mul_right _ hlow
  · calc m * 2 ^ (23 - Nat.log2 m) < 2 ^ (Nat.log2 m + 1) * 2 ^ (23 - Nat.log2 m) := (Nat.mul_lt_mul_right hup).mpr hhigh
      _ = 2 ^ 24 := by rw [← Nat.pow_add]; congr 1; omega

/-- A value of at most 24 bits in the normal range is its own rounding, in every mode. -/
theorem round_normal (md : FMode) (neg : Bool) {m : Nat} {e : Int} (hm : m ≠ 0) (hm' : m < 2 ^ 24) (hlow : -126 ≤ Nat.log2 m + e)
    (hhigh : Nat.log2 m + e ≤ 127) :
    Fmt.fp32.round md neg m e =
      Fmt.fp32.signed neg ((Nat.log2 m + e + 127).toNat * 2 ^ 23 + (m * 2 ^ (23 - Nat.log2 m) - 2 ^ 23)) := by
  obtain ⟨hlog, hfrac, hfrac'⟩ := normalized_bounds hm hm'
  obtain ⟨-, hfbits, -, -, hbias, -, -, -, hlargest⟩ := fp32_fields
  have hmove : m * 2 ^ (23 + 1) / 2 ^ (Nat.log2 m + 1) = m * 2 ^ (23 - Nat.log2 m) := by
    rw [show 23 + 1 = (23 - Nat.log2 m) + (Nat.log2 m + 1) by omega, Nat.pow_add, ← Nat.mul_assoc, Nat.mul_div_cancel _ (Nat.two_pow_pos _)]
  simp only [Fmt.round, if_neg hm, hfbits, hbias, hlargest, show Nat.log2 m + 1 - (23 + 1) = 0 by omega, shiftRound_zero, hmove]
  rw [if_neg (by omega), if_neg (by omega)]
  congr 4
  omega

/-- A power of two in the subnormal range is kept. -/
theorem round_subnormal (r : Nat) (neg : Bool) {n : Int} (hlow : -149 ≤ n) (hhigh : n < -126) :
    Fmt.fp32.round ⟨r, false⟩ neg 1 n = Fmt.fp32.signed neg (2 ^ (n + 149).toNat) := by
  obtain ⟨-, hfbits, -, -, hbias, -⟩ := fp32_fields
  simp only [Fmt.round, if_neg Nat.one_ne_zero, hfbits, hbias, show Nat.log2 1 = 0 from rfl, Nat.zero_add, Nat.reduceAdd, Nat.reduceSub, shiftRound_zero]
  rw [if_pos (by omega), if_neg Bool.false_ne_true, if_pos (by omega), Nat.one_mul]
  congr 3

/-- The sign and the magnitude code of a pattern. -/
theorem toNat_signed (neg : Bool) {c : Nat} (hc : c < 2 ^ 31) :
    (BitVec.ofNat 32 (Fmt.fp32.signed neg c)).toNat % 2 ^ 31 = c ∧ decide (2 ^ 31 ≤ (BitVec.ofNat 32 (Fmt.fp32.signed neg c)).toNat) = neg := by
  have hsign : Fmt.fp32.signBit = 2 ^ 31 := rfl
  rw [BitVec.toNat_ofNat, Fmt.signed, hsign]
  cases neg <;> simp <;> omega

/-- What has been rounded exactly reads as the value that it was. -/
theorem read_round_normal (flush : Bool) (md : FMode) (neg : Bool) {m : Nat} {e : Int} (hm : m ≠ 0) (hm' : m < 2 ^ 24)
    (hlow : -126 ≤ Nat.log2 m + e) (hhigh : Nat.log2 m + e ≤ 127) :
    Fp.read Fmt.fp32 flush (BitVec.ofNat 32 (Fmt.fp32.round md neg m e)).toNat =
      .fin neg (m * 2 ^ (23 - Nat.log2 m)) (Nat.log2 m + e - 23) := by
  obtain ⟨-, hfrac, hfrac'⟩ := normalized_bounds hm hm'
  rw [round_normal md neg hm hm' hlow hhigh]
  obtain ⟨hcode, hneg⟩ := toNat_signed neg
    (show (Nat.log2 m + e + 127).toNat * 2 ^ 23 + (m * 2 ^ (23 - Nat.log2 m) - 2 ^ 23) < 2 ^ 31 by omega)
  rw [read_normal flush (by omega) (by omega), hneg]
  congr 1 <;> omega

/-! ### Integers and powers of two -/

theorem write_ofInt (md : FMode) {n : Int} : (Fp.ofInt n).write Fmt.fp32 md = Fmt.fp32.round md (decide (n < 0)) n.natAbs 0 := rfl

/-- An integer of at most 24 bits is written in the same way in every mode. -/
theorem write_ofInt_exact (md : FMode) {n : Int} (h : n.natAbs < 2 ^ 24) : BitVec.ofNat 32 ((Fp.ofInt n).write Fmt.fp32 md) = int32 n := by
  rw [int32, write_ofInt, write_ofInt]
  rcases eq_or_ne n.natAbs 0 with hzero | hne
  · simp only [hzero, Fmt.round, if_true]
  · have hlog := (normalized_bounds hne h).1
    rw [round_normal md _ hne h (by omega) (by omega), round_normal ⟨0, false⟩ _ hne h (by omega) (by omega)]

theorem finValue_shift (neg : Bool) (m j : Nat) (e : Int) : finValue neg (m * 2 ^ j) (e - j) = finValue neg m e := by
  rw [finValue_scaled neg m (show e - j ≤ e by omega), finValue_scaled neg (m * 2 ^ j) (le_refl (e - j))]
  simp

/-- It reads as itself, and so in fixed point. -/
theorem read_int32 (flush : Bool) {n : Int} (h : n.natAbs < 2 ^ 24) :
    ∃ neg m e, Fp.read Fmt.fp32 flush (int32 n).toNat = .fin neg m e ∧ finValue neg m e = n ∧ Fp.toFx (.fin neg m e) = n * fxOne := by
  rcases eq_or_ne n 0 with rfl | hne
  · exact ⟨false, 0, -149, by cases flush <;> rfl, by simp [finValue], rfl⟩
  · have hne' : n.natAbs ≠ 0 := Int.natAbs_ne_zero.mpr hne
    have hlog := (normalized_bounds hne' h).1
    have hval : finValue (decide (n < 0)) (n.natAbs * 2 ^ (23 - Nat.log2 n.natAbs)) (Nat.log2 n.natAbs + 0 - 23) = n := by
      rw [show (Nat.log2 n.natAbs : Int) + 0 - 23 = 0 - (23 - Nat.log2 n.natAbs : Nat) by omega, finValue_shift, finValue_ofInt]
    refine ⟨_, _, _, read_round_normal flush _ _ hne' h (by omega) (by omega), hval, ?_⟩
    have := toFx_fin (decide (n < 0)) (n.natAbs * 2 ^ (23 - Nat.log2 n.natAbs)) (e := Nat.log2 n.natAbs + 0 - 23) (by omega)
    rw [hval] at this
    exact_mod_cast this

theorem round_one_eq_pow32 (flush : Bool) {n : Int} (hlow : -126 ≤ n) (hhigh : n ≤ 127) :
    BitVec.ofNat 32 (Fmt.fp32.round ⟨0, flush⟩ false 1 n) = pow32 n := by
  have hlog : Nat.log2 1 = 0 := rfl
  rw [round_normal _ _ Nat.one_ne_zero (by decide) (by omega) (by omega), pow32, if_pos hlow, hlog,
    show (0 : Nat) + n + 127 = 127 + n by omega]
  simp [Fmt.signed]

theorem round_one_subnormal {n : Int} (hlow : -149 ≤ n) (hhigh : n < -126) : BitVec.ofNat 32 (Fmt.fp32.round ⟨0, false⟩ false 1 n) = pow32 n := by
  rw [round_subnormal 0 false hlow hhigh, pow32, if_neg (by omega)]
  rfl

end Sys2Proof.Machine
end

section
/-! SUPPORT. The exact and special cases of FEX2, FLG2, FSIN and FCOS (R105, R110). -/
namespace Sys2Proof.Machine

/-! ### The four functions on a value -/

section
variable {flush : Bool} {a : Word}

theorem fex2_integer {neg : Bool} {m : Nat} {e n : Int} (hread : Fp.read Fmt.fp32 flush a.toNat = .fin neg m e) (hval : finValue neg m e = n)
    (hfx : Fp.toFx (.fin neg m e) = n * fxOne) (hlow : -149 ≤ n) (hhigh : n ≤ 127) :
    fex2 flush a = if flush && decide (n < -126) then 0#32 else BitVec.ofNat 32 (Fmt.fp32.round ⟨0, flush⟩ false 1 n) := by
  have hone : fxOne ≠ 0 := by decide
  have hcmp (k : Int) : Fp.compare (.fin neg m e) (.ofInt k) = some (if n < k then -1 else if k < n then 1 else 0) := by
    rw [compare_ofInt, hval]; norm_cast
  simp only [fex2, hread, hcmp, hfx, Int.mul_ediv_cancel _ hone, Int.mul_emod_left]
  simp [show n < 128 by omega, show ¬ n < -150 by omega, show -150 < n by omega, hlow]

theorem fex2_of_ge {neg : Bool} {m : Nat} {e : Int} (hread : Fp.read Fmt.fp32 flush a.toNat = .fin neg m e) (h : 128 ≤ finValue neg m e) :
    fex2 flush a = 0x7F800000#32 := by
  have hcmp : Fp.compare (.fin neg m e) (.ofInt 128) = some 0 ∨ Fp.compare (.fin neg m e) (.ofInt 128) = some 1 := by
    rw [compare_ofInt, if_neg (not_lt.mpr (by exact_mod_cast h))]
    split <;> simp
  simp only [fex2, hread, if_pos hcmp]

theorem fex2_of_lt {neg : Bool} {m : Nat} {e : Int} (hread : Fp.read Fmt.fp32 flush a.toNat = .fin neg m e) (h : finValue neg m e < -150) :
    fex2 flush a = 0#32 := by
  have hbig : Fp.compare (.fin neg m e) (.ofInt 128) = some (-1) := by
    rw [compare_ofInt, if_pos (h.trans (by norm_num))]
  have hlow : Fp.compare (.fin neg m e) (.ofInt (-150)) = some (-1) := by
    rw [compare_ofInt, if_pos (by exact_mod_cast h)]
  simp [fex2, hread, hbig, hlow]

theorem flg2_zero {neg : Bool} {e : Int} (hread : Fp.read Fmt.fp32 flush a.toNat = .fin neg 0 e) : flg2 flush a = 0xFF800000#32 := by
  simp only [flg2, hread, if_true]

theorem flg2_negative {m : Nat} {e : Int} (hread : Fp.read Fmt.fp32 flush a.toNat = .fin true m e) (hm : m ≠ 0) : flg2 flush a = 0x7FC00000#32 := by
  simp only [flg2, hread, if_neg hm, if_true]

theorem flg2_two_pow {k : Nat} {e : Int} (hread : Fp.read Fmt.fp32 flush a.toNat = .fin false (2 ^ k) e) (h : (k + e).natAbs < 2 ^ 24) :
    flg2 flush a = int32 (k + e) := by
  simp [flg2, hread, Nat.log2_two_pow, write_ofInt_exact ⟨0, flush⟩ h]

theorem clampUnit_le (w : Word) : clampUnit w &&& 0x7FFFFFFF#32 ≤ 0x3F800000#32 := by
  unfold clampUnit
  split
  · assumption
  · rw [BitVec.and_or_distrib_right, BitVec.and_assoc]; simp

/-- A bound on a magnitude holds of it when it is flushed. -/
theorem flushTiny_le {w x : Word} (h : w &&& 0x7FFFFFFF#32 ≤ x) : flushTiny flush w &&& 0x7FFFFFFF#32 ≤ x := by
  unfold flushTiny
  split
  · rw [BitVec.and_assoc, show 0x80000000#32 &&& 0x7FFFFFFF#32 = 0#32 from rfl, BitVec.and_zero]
    exact Nat.zero_le x.toNat
  · exact h

theorem fsin_of_gt {neg : Bool} {m : Nat} {e : Int} (hread : Fp.read Fmt.fp32 flush a.toNat = .fin neg m e) (h : 32768 < finValue false m e) :
    fsin flush a = flushTiny flush (clampUnit (Config.fsin a flush)) ∧ fcos flush a = flushTiny flush (clampUnit (Config.fcos a flush)) := by
  have hm : m ≠ 0 := by
    rintro rfl
    norm_num [finValue] at h
  have hcmp : Fp.compare (.fin false m e) (.ofInt 32768) = some 1 := by
    rw [compare_ofInt, if_neg (not_lt.mpr (by exact_mod_cast h.le)), if_pos (by exact_mod_cast h)]
  simp only [fsin, fcos, hread, if_neg hm, hcmp, if_true, and_self]

end

/-! ### Magnitudes -/

/-- The magnitude that the code of a normal number stands for. -/
def normalMagnitude (c : Nat) : ℚ := (2 ^ 23 + c % 2 ^ 23 : Nat) * 2 ^ ((c / 2 ^ 23 : Nat) - 150 : Int)

theorem normalMagnitude_strictMono : StrictMono normalMagnitude := by
  refine strictMono_nat_of_lt_succ fun c => ?_
  have hpos : (0 : ℚ) < 2 ^ ((c / 2 ^ 23 : Nat) - 150 : Int) := zpow_pos two_pos _
  unfold normalMagnitude
  by_cases hlast : c % 2 ^ 23 = 2 ^ 23 - 1
  · rw [show (c + 1) % 2 ^ 23 = 0 by omega, show (((c + 1) / 2 ^ 23 : Nat) - 150 : Int) = ((c / 2 ^ 23 : Nat) - 150) + 1 by omega, hlast,
      zpow_add_one₀ two_ne_zero]
    generalize (2 : ℚ) ^ ((c / 2 ^ 23 : Nat) - 150 : Int) = u at hpos
    norm_num
    linarith
  · rw [show (c + 1) % 2 ^ 23 = c % 2 ^ 23 + 1 by omega, show (c + 1) / 2 ^ 23 = c / 2 ^ 23 by omega]
    exact mul_lt_mul_of_pos_right (by exact_mod_cast Nat.lt_succ_self _) hpos

theorem normalMagnitude_values : normalMagnitude 0x43000000 = 128 ∧ normalMagnitude 0x43160000 = 150 ∧ normalMagnitude 0x47000000 = 32768 := by
  norm_num [normalMagnitude]

/-! ### No subnormal results under the flush code (R105) -/

/-- A pattern is no subnormal number. -/
def NotSubnormal (w : Word) : Prop := w.extractLsb' 23 8 = 0#8 → w.extractLsb' 0 23 = 0#23

theorem notSubnormal_of_code {w : Word} (h : w.toNat % 2 ^ 31 = 0 ∨ 2 ^ 23 ≤ w.toNat % 2 ^ 31) : NotSubnormal w := by
  intro hexp
  have hexp' := congrArg BitVec.toNat hexp
  rw [BitVec.extractLsb'_toNat, Nat.shiftRight_eq_div_pow, BitVec.toNat_zero] at hexp'
  apply BitVec.eq_of_toNat_eq
  rw [BitVec.extractLsb'_toNat, Nat.shiftRight_zero, BitVec.toNat_zero]
  omega

theorem notSubnormal_nan : NotSubnormal 0x7FC00000#32 := notSubnormal_of_code (by decide)
theorem notSubnormal_zero (neg : Bool) : NotSubnormal (if neg then 0x80000000#32 else 0#32) := by cases neg <;> exact fun _ => rfl
theorem notSubnormal_inf (neg : Bool) : NotSubnormal (if neg then 0xFF800000#32 else 0x7F800000#32) := by cases neg <;> exact fun _ => rfl

/-- What is rounded under the flush code is a zero, or lies at or above the least normal number. -/
theorem round_flushed (r : Nat) (neg : Bool) (m : Nat) (e : Int) :
    ∃ neg' c, Fmt.fp32.round ⟨r, true⟩ neg m e = Fmt.fp32.signed neg' c ∧ (c = 0 ∨ 2 ^ 23 ≤ c) ∧ c < 2 ^ 31 := by
  obtain ⟨-, hfbits, -, hfp8, hbias, -, -, hinf, hlargest⟩ := fp32_fields
  simp only [Fmt.round, hfbits, hbias, hlargest, if_true]
  split
  · exact ⟨neg, 0, rfl, .inl rfl, by decide⟩
  split
  · exact ⟨neg, 0, rfl, .inl rfl, by decide⟩
  split
  · simp only [Fmt.overflow, hfp8, hinf, hlargest, Bool.false_eq_true, if_false, ← apply_ite (Fmt.fp32.signed neg)]
    refine ⟨neg, _, rfl, ?_⟩
    split_ifs <;> omega
  · exact ⟨neg, _, rfl, by omega, by omega⟩

theorem notSubnormal_round (r : Nat) (neg : Bool) (m : Nat) (e : Int) : NotSubnormal (BitVec.ofNat 32 (Fmt.fp32.round ⟨r, true⟩ neg m e)) := by
  obtain ⟨neg', c, hround, hcode, hlt⟩ := round_flushed r neg m e
  apply notSubnormal_of_code
  rwa [hround, (toNat_signed neg' hlt).1]

theorem notSubnormal_flushTiny (w : Word) : NotSubnormal (flushTiny true w) := by
  unfold flushTiny
  split
  · refine notSubnormal_of_code (.inl ?_)
    rw [BitVec.toNat_and, Nat.and_mod_two_pow]
    simp
  · next h => exact fun hexp => absurd (by simpa using hexp) h

theorem notSubnormal_fex2 (a : Word) : NotSubnormal (fex2 true a) := by
  unfold fex2
  split
  · exact notSubnormal_nan
  · split
    exacts [notSubnormal_zero false, notSubnormal_inf false]
  · simp only
    split
    · exact notSubnormal_inf false
    split
    · exact notSubnormal_zero false
    split
    · split
      exacts [notSubnormal_zero false, notSubnormal_round _ _ _ _]
    · split
      · exact notSubnormal_zero false
      · next h => exact fun hexp => absurd (by simpa using hexp) h

theorem notSubnormal_flg2 (a : Word) : NotSubnormal (flg2 true a) := by
  unfold flg2
  split
  · exact notSubnormal_nan
  · split
    exacts [notSubnormal_nan, notSubnormal_inf false]
  · split
    · exact notSubnormal_inf true
    split
    · exact notSubnormal_nan
    split
    exacts [notSubnormal_round _ _ _ _, notSubnormal_flushTiny _]

theorem notSubnormal_fsin (a : Word) : NotSubnormal (fsin true a) := by
  unfold fsin
  split
  · exact notSubnormal_nan
  · exact notSubnormal_nan
  · split
    · exact notSubnormal_zero _
    split
    exacts [notSubnormal_flushTiny _, notSubnormal_flushTiny _]

theorem notSubnormal_fcos (a : Word) : NotSubnormal (fcos true a) := by
  unfold fcos
  split
  · exact notSubnormal_nan
  · exact notSubnormal_nan
  · split
    · exact notSubnormal_of_code (by decide)
    split
    exacts [notSubnormal_flushTiny _, notSubnormal_flushTiny _]

/-! ### The cases of R110 -/

theorem fex2_int32 {n : Int} (flush : Bool) (hlow : -149 ≤ n) (hhigh : n ≤ 127) :
    fex2 flush (int32 n) = if flush && decide (n < -126) then 0#32 else pow32 n := by
  obtain ⟨neg, m, e, hread, hval, hfx⟩ := read_int32 flush (n := n) (by omega)
  rw [fex2_integer hread hval hfx hlow hhigh]
  by_cases hnormal : -126 ≤ n
  · rw [round_one_eq_pow32 flush hnormal hhigh]
  · cases flush
    · rw [round_one_subnormal hlow (by omega)]
    · simp [show n < -126 by omega]

theorem toNat_pow32_normal {n : Int} (hlow : -126 ≤ n) (hhigh : n ≤ 127) : (pow32 n).toNat = (127 + n).toNat * 2 ^ 23 := by
  rw [pow32, if_pos hlow, BitVec.toNat_ofNat, Nat.mod_eq_of_lt (by omega)]

theorem flg2_pow32_normal {n : Int} (flush : Bool) (hlow : -126 ≤ n) (hhigh : n ≤ 127) : flg2 flush (pow32 n) = int32 n := by
  have hnat := toNat_pow32_normal hlow hhigh
  have hread : Fp.read Fmt.fp32 flush (pow32 n).toNat = .fin false (2 ^ 23) (n - 23) := by
    rw [read_normal flush (by omega) (by omega)]
    congr 1
    · exact decide_eq_false (by omega)
    · omega
    · omega
  rw [flg2_two_pow hread (by omega)]
  congr 1
  omega

theorem flg2_pow32_subnormal {n : Int} (hlow : -149 ≤ n) (hhigh : n < -126) : flg2 false (pow32 n) = int32 n := by
  have hlt : 2 ^ (n + 149).toNat < 2 ^ 23 := Nat.pow_lt_pow_right (by decide) (by omega)
  have hnat : (pow32 n).toNat = 2 ^ (n + 149).toNat := by
    rw [pow32, if_neg (by omega), BitVec.toNat_ofNat, Nat.mod_eq_of_lt (by omega)]
  have hread : Fp.read Fmt.fp32 false (pow32 n).toNat = .fin false (2 ^ (n + 149).toNat) (-149) := by
    rw [read_subnormal false (by omega), hnat]
    congr 1
    · exact decide_eq_false (by omega)
    · exact Nat.mod_eq_of_lt (by omega)
  rw [flg2_two_pow hread (by omega)]
  congr 1
  omega

section
variable {flush : Bool} {a : Word}

theorem special_functions_of_nan (h : 0x7F800000 < a.toNat % 2 ^ 31) :
    fex2 flush a = 0x7FC00000#32 ∧ flg2 flush a = 0x7FC00000#32 ∧ fsin flush a = 0x7FC00000#32 ∧ fcos flush a = 0x7FC00000#32 := by
  simp only [fex2, flg2, fsin, fcos, read_nan flush h, and_self]

theorem finValue_normal (neg : Bool) (c : Nat) :
    finValue neg (2 ^ 23 + c % 2 ^ 23) ((c / 2 ^ 23 : Nat) - 150) = if neg then -normalMagnitude c else normalMagnitude c := by
  cases neg <;> simp only [finValue, normalMagnitude, Bool.false_eq_true, if_true, if_false, neg_mul]

theorem fex2_above_range (hlow : 0x43000000 ≤ a.toNat) (hhigh : a.toNat ≤ 0x7F800000) : fex2 flush a = 0x7F800000#32 := by
  have hneg : decide (2 ^ 31 ≤ a.toNat) = false := decide_eq_false (by omega)
  rcases hhigh.lt_or_eq with hfin | hinf
  · refine fex2_of_ge (read_normal flush (by omega) (by omega)) ?_
    rw [finValue_normal, hneg, if_neg Bool.false_ne_true, ← normalMagnitude_values.1]
    exact normalMagnitude_strictMono.monotone (by omega)
  · simp only [fex2, read_inf flush (show a.toNat % 2 ^ 31 = 0x7F800000 by omega), hneg, Bool.false_eq_true, if_false]

theorem fex2_below_range (hlow : 0xC3160000 < a.toNat) (hhigh : a.toNat ≤ 0xFF800000) : fex2 flush a = 0#32 := by
  have hneg : decide (2 ^ 31 ≤ a.toNat) = true := decide_eq_true (by omega)
  rcases hhigh.lt_or_eq with hfin | hinf
  · refine fex2_of_lt (read_normal flush (by omega) (by omega)) ?_
    rw [finValue_normal, hneg, if_pos rfl, neg_lt_neg_iff, ← normalMagnitude_values.2.1]
    exact normalMagnitude_strictMono (by omega)
  · simp only [fex2, read_inf flush (show a.toNat % 2 ^ 31 = 0x7F800000 by omega), hneg, if_true]

theorem flg2_below_zero (hlow : 0x80800000 ≤ a.toNat) (hhigh : a.toNat ≤ 0xFF800000) : flg2 flush a = 0x7FC00000#32 := by
  have hneg : decide (2 ^ 31 ≤ a.toNat) = true := decide_eq_true (by omega)
  rcases hhigh.lt_or_eq with hfin | hinf
  · exact flg2_negative (hneg ▸ read_normal flush (by omega) (by omega)) (by omega)
  · simp only [flg2, read_inf flush (show a.toNat % 2 ^ 31 = 0x7F800000 by omega), hneg, if_true]

theorem flg2_negative_subnormal (hlow : 0x80000000 < a.toNat) (hhigh : a.toNat < 0x80800000) :
    flg2 flush a = if flush then 0xFF800000#32 else 0x7FC00000#32 := by
  have hneg : decide (2 ^ 31 ≤ a.toNat) = true := decide_eq_true (by omega)
  have hread := hneg ▸ read_subnormal flush (show a.toNat % 2 ^ 31 < 2 ^ 23 by omega)
  cases flush
  · exact flg2_negative hread (by simp; omega)
  · exact flg2_zero hread

theorem fsin_fcos_large (hlow : 0x47000000 < a.toNat % 2 ^ 31) (hhigh : a.toNat % 2 ^ 31 < 0x7F800000) :
    fsin flush a &&& 0x7FFFFFFF#32 ≤ 0x3F800000#32 ∧ fcos flush a &&& 0x7FFFFFFF#32 ≤ 0x3F800000#32 := by
  have hbig : 32768 < finValue false (2 ^ 23 + a.toNat % 2 ^ 31 % 2 ^ 23) ((a.toNat % 2 ^ 31 / 2 ^ 23 : Nat) - 150) := by
    rw [finValue_normal, if_neg Bool.false_ne_true, ← normalMagnitude_values.2.2]
    exact normalMagnitude_strictMono hlow
  obtain ⟨hsin, hcos⟩ := fsin_of_gt (read_normal flush (by omega) hhigh) hbig
  rw [hsin, hcos]
  exact ⟨flushTiny_le (clampUnit_le _), flushTiny_le (clampUnit_le _)⟩

end

theorem toNat_magnitude (a : Word) : (a &&& 0x7FFFFFFF#32).toNat = a.toNat % 2 ^ 31 := by
  rw [BitVec.toNat_and]
  exact Nat.and_two_pow_sub_one_eq_mod a.toNat 31

/-- R110 at the zeros and the infinities. -/
theorem special_functions_at_zero_and_infinity (f : Bool) :
    flg2 f 0x7F800000#32 = 0x7F800000#32 ∧ flg2 f 0#32 = 0xFF800000#32 ∧ flg2 f 0x80000000#32 = 0xFF800000#32 ∧
    fsin f 0#32 = 0#32 ∧ fsin f 0x80000000#32 = 0x80000000#32 ∧ fsin f 0x7F800000#32 = 0x7FC00000#32 ∧ fsin f 0xFF800000#32 = 0x7FC00000#32 ∧
    fcos f 0#32 = 0x3F800000#32 ∧ fcos f 0x80000000#32 = 0x3F800000#32 ∧ fcos f 0x7F800000#32 = 0x7FC00000#32 ∧
    fcos f 0xFF800000#32 = 0x7FC00000#32 := by
  cases f <;> exact ⟨rfl, rfl, rfl, rfl, rfl, rfl, rfl, rfl, rfl, rfl, rfl⟩

/-- Settles O8: the integers and powers of two by what their patterns read as, the ranges by the order of magnitudes, the flushed results by their codes. -/
theorem specialFunctionCases : Obligations.SpecialFunctionCases := by
  refine ⟨⟨rfl, rfl, rfl, rfl⟩, fun n hlow hhigh => ⟨?_, fun hnormal => ?_, fun htiny => ?_⟩, fun n hlow hhigh => ⟨?_, fun hnormal => ?_⟩,
    fun f a => ⟨fex2_above_range, fex2_below_range, flg2_below_zero, flg2_negative_subnormal, fun hlow hhigh => ?_, fun hnan => ?_, fun g hg => ?_⟩,
    special_functions_at_zero_and_infinity⟩
  · simpa using fex2_int32 false hlow hhigh
  · simpa [not_lt.mpr hnormal] using fex2_int32 true hlow hhigh
  · simpa [htiny] using fex2_int32 true hlow hhigh
  · by_cases hnormal : -126 ≤ n
    · exact flg2_pow32_normal false hnormal hhigh
    · exact flg2_pow32_subnormal hlow (not_le.mp hnormal)
  · exact flg2_pow32_normal true hnormal hhigh
  · rw [BitVec.lt_def, toNat_magnitude] at hlow hhigh
    exact fsin_fcos_large hlow hhigh
  · rw [BitVec.lt_def, toNat_magnitude] at hnan
    exact special_functions_of_nan hnan
  · simp only [List.mem_cons, List.not_mem_nil, or_false] at hg
    rcases hg with rfl | rfl | rfl | rfl
    exacts [notSubnormal_fex2 a, notSubnormal_flg2 a, notSubnormal_fsin a, notSubnormal_fcos a]

end Sys2Proof.Machine
end

section
/-! SUPPORT. Records written twice, and words that change the crews of their core (R128, R131). -/
namespace Sys2Proof.Machine

/-! ### Records written twice -/

theorem Table.put_put {α : Type} (m : Table α) (a : Nat) (v w : α) : (m.put a v).put a w = m.put a w := by
  induction m with
  | nil => simp [Table.put]
  | cons x m ih => by_cases h : x.1 = a <;> simp [Table.put, h, ih]

theorem State.setCore_setCore (s : State) (n : Nat) (c d : Core) : (s.setCore n c).setCore n d = s.setCore n d := by
  simp [State.setCore, Table.put_put]
theorem Core.setQuad_setQuad (c : Core) (n : Nat) (q r : Quadrant) : (c.setQuad n q).setQuad n r = c.setQuad n r := by
  simp [Core.setQuad, Table.put_put]
theorem Quadrant.setWarp_setWarp (q : Quadrant) (n : Nat) (w v : Warp) : (q.setWarp n w).setWarp n v = q.setWarp n v := by
  simp [Quadrant.setWarp, Table.put_put]

/-- A view put back with one warp, and then another in the same place. -/
theorem View.setWarp_putWarp (V : View) (w v : Warp) : (V.putWarp w).setWarp V.cn V.qn V.wn v = V.putWarp v := by
  simp only [State.setWarp, State.setQuad, View.putWarp_quad, Quadrant.setWarp_setWarp]
  simp only [View.putWarp, State.core_setCore, if_true, Core.setQuad_setQuad, State.setCore_setCore]
theorem View.warp_putWarp (V : View) (w : Warp) : (V.putWarp w).warp V.cn V.qn V.wn = some w := by
  rw [View.putWarp_warp, if_pos rfl]

/-! ### Words that change the crews of their core -/

/-- A word that changes its core's records beside the quadrants, its registers, its warp and its path, and retires. -/
theorem doesFrom_of_core {i : Instr} {s : State} {V W : View} {c : Core} {b : Warp} {p0 : Path} {x : Writes} (hv : s.view = some V)
    (hc : c.quads = V.c.quads) (he : exec i s = .next (W.retire (infoOf i))) (hb : Became { V with c := c } s b p0 W) (hx : Effects { V with c := c } x W) :
    DoesFrom i s s { V with c := c } (if (infoOf i).rc then b.fullPoint else b) { p0 with pc := V.p.pc + 4 } x := by
  have hf := State.view_from hv
  have hq : c.quad V.qn = V.q := by rw [Core.quad, hc]; exact hf.quad.symm
  -- the view of the state in which the core's records already stand so
  have hf' : View.From { V with s := s.setCore V.cn c, c := c } (s.setCore V.cn c) :=
    ⟨rfl, by simp, hq.symm, hf.warp, hf.path, hf.run, hf.em⟩
  have hb' : Became { V with s := s.setCore V.cn c, c := c } (s.setCore V.cn c) b p0 { W with s := s.setCore V.cn c } :=
    ⟨by rw [hb.rest], rfl, hb.onward⟩
  have ht : View.retire { W with s := s.setCore V.cn c } (infoOf i) = W.retire (infoOf i) := by
    rw [hb.rest]
    simp only [View.retire, View.put, View.putWarp, View.advance, State.setCore, Table.put_put]
    rfl
  obtain ⟨h1, w, p, r, h2, h3, h4, h5, h6, h7, h8, h9⟩ := View.retire_frame (i := infoOf i) hf' hb'
  rw [ht] at h1 h2 h5
  refine ⟨_, w, p, r, he, ⟨⟨h1.rest, h1.bytes, h1.time, fun n hn => ?_⟩, h1.core, h1.quads, h1.quad, h1.warps⟩, ⟨h2.here, h2.rest, h2.div, h2.other, h2.path⟩, h3, h4,
    hx.holds h5 h6 h7 h8 h9⟩
  rw [h1.others n hn, State.core_setCore, if_neg hn]
end Sys2Proof.Machine
end

section
/-! SUPPORT. Arrivals at a barrier and the completion of phases (R131, R139, R140). -/
namespace Sys2Proof.Machine

/-! ### Arrivals and phases of one crew -/

theorem Core.arrive_first {c : Core} {n seat : Nat} {k : Crew} (hk : c.crews.find n = some k) (h : seat ∉ k.arrived) (owed : Nat × Word × Nat) :
    c.arrive n seat owed = ({ c with crews := c.crews.put n { k with arrived := k.arrived ++ [seat], owed := k.owed ++ [owed] } }, k.phase) := by
  simp [Core.arrive, hk, h]
theorem Core.arrive_again {c : Core} {n seat : Nat} {k : Crew} (hk : c.crews.find n = some k) (h : seat ∈ k.arrived) (owed : Nat × Word × Nat) :
    c.arrive n seat owed = ({ c with crews := c.crews.put n { k with again := k.again ++ [seat], owed := k.owed ++ [owed] } }, k.phase + 1) := by
  simp [Core.arrive, hk, h]

/-- A phase of which a member has not arrived, or of a crew without members, does not complete. -/
theorem Core.phaseFrom_waits {c : Core} {n : Nat} {k : Crew} (hk : c.crews.find n = some k) (h : k.arrived.length ≠ k.members.length ∨ k.members = [])
    (fuel : Nat) : c.phaseFrom n fuel = c := by
  cases fuel with
  | zero => rfl
  | succ m =>
    have : (k.members.isEmpty || k.arrived.length != k.members.length) = true := by
      rcases h with h | h <;> simp [h]
    simp only [Core.phaseFrom, hk, this, if_true]

/-- What a phase that completes does to the warps of its crew's members. -/
def Core.phaseOver (c : Core) (k : Crew) : Core :=
  (c.onMembers (k.members.filter fun m => k.arrived.contains m.seat) fun w => w.resetProgress.fullPoint).onMembers k.members
    fun w => w.releaseFrom ((c.onMembers (k.members.filter fun m => k.arrived.contains m.seat) fun w => w.resetProgress.fullPoint).cycle + 1)
/-- The crew in its next phase. -/
def Core.nextPhase (c : Core) (k : Crew) : Crew :=
  { k with phase := k.phase + 1, arrived := k.again, again := [], due := k.due.filter c.owes ++ k.owed, owed := [] }

theorem Core.phaseFrom_completes {c : Core} {n : Nat} {k : Crew} (hk : c.crews.find n = some k) (h : k.arrived.length = k.members.length)
    (hm : k.members ≠ []) (fuel : Nat) :
    c.phaseFrom n (fuel + 1) = Core.phaseFrom { c.phaseOver k with crews := (c.phaseOver k).crews.put n ((c.phaseOver k).nextPhase k) } n fuel := by
  have : (k.members.isEmpty || k.arrived.length != k.members.length) = false := by simp [h, hm]
  simp only [Core.phaseFrom, hk, this]
  rfl

theorem Core.phaseCheck_completes {c : Core} {n : Nat} {k : Crew} (hk : c.crews.find n = some k) (h : k.arrived.length = k.members.length)
    (hm : k.members ≠ []) (ha : k.again = []) :
    ∃ due, (c.phaseCheck n).crews.find n = some { k with phase := k.phase + 1, arrived := [], again := [], due := due, owed := [] } := by
  have hfind : ({ c.phaseOver k with crews := (c.phaseOver k).crews.put n ((c.phaseOver k).nextPhase k) } : Core).crews.find n = some ((c.phaseOver k).nextPhase k) := by
    simp
  rw [Core.phaseCheck, Core.phaseFrom_completes hk h hm,
    Core.phaseFrom_waits hfind (.inl (by simpa [Core.nextPhase, ha] using Ne.symm (by simpa using hm)))]
  exact ⟨_, hfind.trans (by rw [Core.nextPhase, ha])⟩

/-! ### What arrivals and phases leave of a core -/

/-- Every path of a warp stays where it is, with its run and its wait. -/
def Warp.PathsStay (w v : Warp) : Prop := ∀ k p, w.div.slot k = some p → ∃ q, v.div.slot k = some q ∧ q.pc = p.pc ∧ q.run = p.run ∧ q.wait = p.wait

theorem Warp.PathsStay.trans {u v w : Warp} (h : u.PathsStay v) (k : v.PathsStay w) : u.PathsStay w := fun n p hp => by
  obtain ⟨q, hq, hpc, hrun, hwait⟩ := h n p hp
  obtain ⟨r, hr, hpc', hrun', hwait'⟩ := k n q hq
  exact ⟨r, hr, hpc'.trans hpc, hrun'.trans hrun, hwait'.trans hwait⟩
/-- A change of both slots alike that keeps the place, the run and the wait of a path. -/
theorem Warp.pathsStay_map {w v : Warp} {f : Path → Path} (hv : ∀ k, v.div.slot k = (w.div.slot k).map f)
    (hf : ∀ p, (f p).pc = p.pc ∧ (f p).run = p.run ∧ (f p).wait = p.wait) : w.PathsStay v := fun k p hp =>
  ⟨f p, by rw [hv, hp]; rfl, hf p⟩
theorem Warp.slot_resetProgress (w : Warp) (k : Nat) : w.resetProgress.div.slot k = (w.div.slot k).map fun p => { p with issued := 0 } := by
  unfold Div.slot Warp.resetProgress; split <;> rfl
theorem Warp.pathsStay_fullPoint (w : Warp) : w.PathsStay w.resetProgress.fullPoint :=
  Warp.pathsStay_map w.slot_resetProgress fun _ => ⟨rfl, rfl, rfl⟩
theorem Warp.pathsStay_releaseFrom (w : Warp) (n : Nat) : w.PathsStay (w.releaseFrom n) := by
  refine Warp.pathsStay_map (f := fun p => match p.wait with
    | .barrier _ _ => { p with after := max p.after n }
    | _ => p) (fun k => ?_) fun p => ?_
  · unfold Div.slot Warp.releaseFrom
    split <;> rfl
  · split <;> exact ⟨rfl, rfl, rfl⟩

/-- Of a core only crews change, and what a barrier changes of its warps. -/
structure ArrivalsOnly (c d : Core) : Prop where
  scratch : d.scratch = c.scratch
  rf : ∀ k, (d.quad k).rf = (c.quad k).rf
  warps : ∀ k n w, (c.quad k).warps.find n = some w → ∃ v, (d.quad k).warps.find n = some v ∧ w.PathsStay v

namespace ArrivalsOnly
variable {c d e : Core}
theorem refl (c : Core) : ArrivalsOnly c c := ⟨rfl, fun _ => rfl, fun _ _ w h => ⟨w, h, fun _ p hp => ⟨p, hp, rfl, rfl, rfl⟩⟩⟩
theorem trans (h : ArrivalsOnly c d) (k : ArrivalsOnly d e) : ArrivalsOnly c e where
  scratch := k.scratch.trans h.scratch
  rf n := (k.rf n).trans (h.rf n)
  warps n m w hw := by
    obtain ⟨v, hv, hwv⟩ := h.warps n m w hw
    obtain ⟨u, hu, hvu⟩ := k.warps n m v hv
    exact ⟨u, hu, hwv.trans hvu⟩
theorem crews (h : ArrivalsOnly c d) (x : Table Crew) : ArrivalsOnly c { d with crews := x } := ⟨h.scratch, h.rf, h.warps⟩
theorem setWarp {q n : Nat} {w v : Warp} (hw : (c.quad q).warps.find n = some w) (h : w.PathsStay v) :
    ArrivalsOnly c (c.setQuad q ((c.quad q).setWarp n v)) where
  scratch := rfl
  rf k := by
    rw [Core.quad_setQuad]
    split
    · next hk => rw [hk]; rfl
    · rfl
  warps k m u hu := by
    rw [Core.quad_setQuad]
    split
    · next hk =>
      subst hk
      rw [Quadrant.find_setWarp]
      split
      · next hm => subst hm; exact ⟨v, rfl, (Option.some.inj (hw.symm.trans hu)) ▸ h⟩
      · exact (refl c).warps _ _ u hu
    · exact (refl c).warps _ _ u hu
theorem onMembers (ms : List Member) {f : Warp → Warp} (hf : ∀ w : Warp, w.PathsStay (f w)) (c : Core) : ArrivalsOnly c (c.onMembers ms f) := by
  refine foldl_keeps (ArrivalsOnly c) _ (fun a x ha => ha.trans ?_) _ _ (refl c)
  split
  · next w hw => exact setWarp hw (hf w)
  · exact refl a
theorem phaseOver (c : Core) (k : Crew) : ArrivalsOnly c (c.phaseOver k) :=
  (onMembers _ Warp.pathsStay_fullPoint c).trans (onMembers _ (fun w => w.pathsStay_releaseFrom _) _)
theorem phaseFrom (n fuel : Nat) (c : Core) : ArrivalsOnly c (c.phaseFrom n fuel) := by
  induction fuel generalizing c with
  | zero => exact refl c
  | succ m ih =>
    cases hk : c.crews.find n with
    | none => simpa [Core.phaseFrom, hk] using refl c
    | some k =>
      by_cases h : k.arrived.length = k.members.length ∧ k.members ≠ []
      · rw [Core.phaseFrom_completes hk h.1 h.2]
        exact ((phaseOver c k).crews _).trans (ih _)
      · rw [Core.phaseFrom_waits hk (by tauto)]
        exact refl c
theorem arrive (n seat : Nat) (owed : Nat × Word × Nat) (c : Core) : ArrivalsOnly c (c.arrive n seat owed).1 := by
  cases hk : c.crews.find n with
  | none => simpa [Core.arrive, hk] using refl c
  | some k =>
    by_cases h : seat ∈ k.arrived
    · rw [Core.arrive_again hk h]; exact (refl c).crews _
    · rw [Core.arrive_first hk h]; exact (refl c).crews _
theorem arrivals (V : View) (c : Core) : ArrivalsOnly c (V.arrivals c).1 := by
  refine foldl_keeps (fun p : Core × List (Nat × Nat × Word) => ArrivalsOnly c p.1) _ (fun p l hp => ?_) _ _ (refl c)
  dsimp only
  split
  · exact hp
  · exact hp.trans (arrive _ _ _ _)
end ArrivalsOnly

/-- The core after the lanes of EM have arrived, phases completing as they may. -/
def View.arrivedCore (V : View) (c : Core) : Core := ((V.arrivals c).2.map fun x => x.2.1).eraseDups.foldl Core.phaseCheck (V.arrivals c).1

theorem View.arriveIn_eq (V : View) (s : State) : V.arriveIn s = s.setCore V.cn (V.arrivedCore (s.core V.cn)) := rfl
theorem arrivalsOnly_arrivedCore (V : View) (c : Core) : ArrivalsOnly c (V.arrivedCore c) :=
  foldl_keeps (ArrivalsOnly c) _ (fun _ n ha => ha.trans (ArrivalsOnly.phaseFrom n 2 _)) _ _ (ArrivalsOnly.arrivals V c)
theorem View.arrivedCore_none {V : View} (h : V.em = 0#32) (c : Core) : V.arrivedCore c = c := by
  have : lanesOf V.em = [] := by rw [h]; decide
  simp [View.arrivedCore, View.arrivals, this]

/-- One lane arrives for the first time, and others of its crew are still to come. -/
theorem View.arrivals_first {V : View} {l n seat : Nat} {k : Crew} {c : Core} (hem : lanesOf V.em = [l]) (hm : V.w.member l = some (n, seat))
    (hk : c.crews.find n = some k) (h : seat ∉ k.arrived) :
    V.arrivals c = ({ c with crews := c.crews.put n { k with arrived := k.arrived ++ [seat], owed := k.owed ++ [(V.w.uid, BitVec.ofNat 32 (2 ^ l), V.w.seq)] } },
      [(l, n, k.phase)]) := by
  simp [View.arrivals, hem, hm, Core.arrive_first hk h]
theorem View.arrivedCore_first {V : View} {l n seat : Nat} {k : Crew} {c : Core} (hem : lanesOf V.em = [l]) (hm : V.w.member l = some (n, seat))
    (hk : c.crews.find n = some k) (h : seat ∉ k.arrived) (hn : k.arrived.length + 1 ≠ k.members.length) : V.arrivedCore c = (V.arrivals c).1 := by
  have hwaits := Core.phaseFrom_waits (c := (V.arrivals c).1) (n := n)
    (k := { k with arrived := k.arrived ++ [seat], owed := k.owed ++ [(V.w.uid, BitVec.ofNat 32 (2 ^ l), V.w.seq)] })
    (by rw [View.arrivals_first hem hm hk h]; simp) (.inl (by simpa using hn)) 2
  rw [View.arrivedCore, show (V.arrivals c).2 = [(l, n, k.phase)] by rw [View.arrivals_first hem hm hk h]]
  exact hwaits

/-! ### Lanes in a crew and lanes in none -/

theorem maskOf_eq_zero {p : Nat → Bool} (h : ∀ l, l < 32 → p l = false) : maskOf p = 0#32 :=
  BitVec.eq_of_getLsbD_eq fun l hl => by rw [getLsbD_maskOf p hl, h l hl, BitVec.getLsbD_zero]
theorem maskOf_ne_zero {p : Nat → Bool} (h : ∃ l, l < 32 ∧ p l = true) : maskOf p ≠ 0#32 := by
  rintro h0
  obtain ⟨l, hl, hp⟩ := h
  rw [← getLsbD_maskOf p hl, h0, BitVec.getLsbD_zero] at hp
  exact Bool.noConfusion hp

theorem View.getLsbD_crewless (V : View) {l : Nat} (hl : l < 32) : V.crewless.getLsbD l = true ↔ V.em.getLsbD l = true ∧ V.w.member l = none := by
  simp [View.crewless, getLsbD_maskOf _ hl]
theorem View.getLsbD_crewed (V : View) {l : Nat} (hl : l < 32) : V.crewed.getLsbD l = true ↔ V.em.getLsbD l = true ∧ V.w.member l ≠ none := by
  simp [View.crewed, getLsbD_maskOf _ hl, Option.isSome_iff_ne_none]
/-- A word that acts on the crew of every lane stops where a lane is in none, and takes its effect where all are in one. -/
theorem View.inCrew_stops {V : View} (h : ∃ l, l < 32 ∧ V.em.getLsbD l = true ∧ V.w.member l = none) (eff : View → State) :
    V.inCrew eff = V.fault 0x00C 0#64 V.crewless :=
  if_pos (maskOf_ne_zero (by simpa using h))
theorem View.inCrew_passes {V : View} (h : ∀ l, l < 32 → V.em.getLsbD l = true → V.w.member l ≠ none) (eff : View → State) : V.inCrew eff = eff V :=
  if_neg (not_not.mpr (maskOf_eq_zero fun l hl => by simpa [Option.ne_none_iff_isSome] using h l hl))

end Sys2Proof.Machine
end

section
/-! SUPPORT. The barrier words (R131, R139, R140). -/
namespace Sys2Proof.Machine

/-! ### The words that wait -/

theorem Quadrant.deselect_rf (q : Quadrant) (wn kn : Nat) : (q.deselect wn kn).rf = q.rf := by
  unfold Quadrant.deselect; split <;> rfl

/-- A write of a register reads the values of the lanes of EM alone. -/
theorem View.writeLane_congr {V : View} {k : Nat} {f g : Nat → Word} (h : ∀ l ∈ lanesOf V.em, f l = g l) : V.writeLane k f = V.writeLane k g := by
  have hrow : writeRow V.q.rf (V.lidx k) V.em f = writeRow V.q.rf (V.lidx k) V.em g := List.foldl_ext _ _ _ fun rf l hl => by rw [h l hl]
  simp only [View.writeLane, hrow]

/-- A wait on something else than the scoreboard breaks the run, and the slot keeps its temporary set. -/
theorem View.breakRun_eq {V : View} {x : Wait} (h : x.isScore = false) :
    V.breakRun x = View.put { V with p := { V.p with wait := x }, q := V.q.deselect V.wn V.kn } := by
  simp [View.breakRun, h]

section
variable {s : State} {V : View} {d : BitVec 7}

theorem exec_bar (h : Ready s (infoOf .bar) true V) : exec .bar s = .next (V.inCrew fun V => V.bar (infoOf .bar)) := issue_ready h _
theorem exec_bara (h : Ready s (infoOf (.bara d)) true V) : exec (.bara d) s = .next (V.inCrew fun V => V.bara (infoOf (.bara d)) d.toNat) := issue_ready h _
theorem exec_barw (h : Ready s (infoOf (.barw d)) true V) :
    exec (.barw d) s = .next (V.inCrew fun V => V.barw (infoOf (.barw d)) (V.lane d.toNat)) := issue_ready h _

/-- A lane in no crew stops a barrier word. -/
theorem barrierWord_stops {i : Instr} (hi : i ∈ [Instr.bar, Instr.bara d, Instr.barw d]) (h : Ready s (infoOf i) true V)
    (hl : ∃ l, l < 32 ∧ V.em.getLsbD l = true ∧ V.w.member l = none) : exec i s = .next (V.fault 0x00C 0#64 V.crewless) := by
  simp only [List.mem_cons, List.not_mem_nil, or_false] at hi
  rcases hi with rfl | rfl | rfl
  · rw [exec_bar h, View.inCrew_stops hl]
  · rw [exec_bara h, View.inCrew_stops hl]
  · rw [exec_barw h, View.inCrew_stops hl]

section
variable (hcrew : ∀ l, l < 32 → V.em.getLsbD l = true → V.w.member l ≠ none)
include hcrew

/-- A BAR that has waited is done. -/
theorem bar_done (h : Ready s (infoOf .bar) true V) (hw : ∃ ms ph, V.p.wait = .barrier ms ph) : Computes .bar s V ⟨[], []⟩ := by
  obtain ⟨ms, ph, hw⟩ := hw
  refine computes_retire h.1 ?_ rfl (RegsOnly.refl V) (Effects.none V)
  rw [exec_bar h, View.inCrew_passes hcrew, View.bar, hw]

/-- BAR arrives and waits for the phases in which its lanes count. -/
theorem exec_bar_arrives (h : Ready s (infoOf .bar) true V) (hw : ∀ ms ph, V.p.wait ≠ .barrier ms ph) (hem : V.em ≠ 0#32) :
    exec .bar s = .next (V.arriveIn (V.breakRun (.barrier (marksOf (V.arrivals V.c).2) (phasesOf (V.arrivals V.c).2)))) := by
  rw [exec_bar h, View.inCrew_passes hcrew]
  unfold View.bar
  split
  · next hx => exact absurd hx (hw _ _)
  · rw [if_neg hem]

theorem bar_waits (h : Ready s (infoOf .bar) true V) (hw : ∀ ms ph, V.p.wait ≠ .barrier ms ph) (hem : V.em ≠ 0#32) :
    ∃ t, exec .bar s = .next t ∧ t = { s with cores := t.cores } ∧ (∀ n, n ≠ V.cn → t.core n = s.core n) ∧ (V.quadIn t).rf = V.q.rf ∧
      (t.core V.cn).scratch = V.c.scratch ∧
      ∃ w p, V.warpIn t = some w ∧ w.div.slot V.kn = some p ∧ p.pc = V.p.pc ∧ p.run = V.p.run ∧ ∃ ms ph, p.wait = .barrier ms ph := by
  have hf := State.view_from h.1
  refine ⟨_, exec_bar_arrives hcrew h hw hem, ?_⟩
  rw [View.breakRun_eq rfl, View.arriveIn_eq]
  generalize marksOf (V.arrivals V.c).2 = ms
  generalize phasesOf (V.arrivals V.c).2 = ph
  -- the view that BAR puts back before its lanes arrive
  let W : View := { V with p := { V.p with wait := .barrier ms ph }, q := V.q.deselect V.wn V.kn }
  have hfrom := arrivalsOnly_arrivedCore V (W.put.core V.cn)
  have hput : (W.put.core V.cn).quad V.qn = W.q.setWarp V.wn W.warp := View.putWarp_quad W W.warp
  obtain ⟨w, hw', hstay⟩ := hfrom.warps V.qn V.wn W.warp (by rw [hput, Quadrant.find_setWarp, if_pos rfl])
  obtain ⟨p, hp, hpc, hrun, hwait⟩ := hstay V.kn { W.p with run := some V.r } (by simp only [View.warp]; exact Div.slot_setSlot _ _ _)
  refine ⟨?_, fun n hn => ?_, ?_, ?_, w, p, ?_, hp, hpc, hrun.trans hf.run.symm, ms, ph, hwait⟩
  · rw [← hf.state]; rfl
  · rw [State.core_setCore, if_neg hn, View.put, View.putWarp_core, if_neg hn, ← hf.state]
  · rw [View.quadIn, State.core_setCore, if_pos rfl, hfrom.rf, hput]; exact V.q.deselect_rf V.wn V.kn
  · rw [State.core_setCore, if_pos rfl, hfrom.scratch, View.put, View.putWarp_core, if_pos rfl]; rfl
  · rw [View.warpIn, State.warp_eq, State.core_setCore, if_pos rfl]; exact hw'

theorem barw_done (h : Ready s (infoOf (.barw d)) true V) (hw : ∃ ms ph, V.p.wait = .barrier ms ph) : Computes (.barw d) s V ⟨[], []⟩ := by
  obtain ⟨ms, ph, hw⟩ := hw
  refine computes_retire h.1 ?_ rfl (RegsOnly.refl V) (Effects.none V)
  rw [exec_barw h, View.inCrew_passes hcrew, View.barw, hw]

/-- BARW whose lanes' phases have passed does not wait. -/
theorem barw_passed (h : Ready s (infoOf (.barw d)) true V) (hw : ∀ ms ph, V.p.wait ≠ .barrier ms ph)
    (hp : ∀ l, l < 32 → V.em.getLsbD l = true → ∃ n k, V.w.crewOf l = some n ∧ V.c.crews.find n = some k ∧
      1 ≤ (k.phase - V.lane d.toNat l).toNat ∧ (k.phase - V.lane d.toNat l).toNat ≤ 2 ^ 31 ∧ k.due = []) : Computes (.barw d) s V ⟨[], []⟩ := by
  have hbad : V.barwBad (V.lane d.toNat) = 0#32 := maskOf_eq_zero fun l hl => by
    by_cases hem : V.em.getLsbD l = true
    · obtain ⟨n, k, hn, hk, h1, h2, -⟩ := hp l hl hem
      have hphase : V.phaseOf l = k.phase := by simp [View.phaseOf, hn, hk]
      have hne : k.phase ≠ V.lane d.toNat l := fun heq => by rw [heq, BitVec.sub_self] at h1; exact absurd h1 (by decide)
      simpa [hphase, hne, -BitVec.toNat_sub] using fun _ => h2
    · simp [hem]
  have hdone : (((lanesOf V.em).filterMap fun l => (V.w.crewOf l).map fun k => (k, V.lane d.toNat l)).eraseDups.all fun x => V.c.phaseDone x.1 x.2) = true := by
    refine List.all_eq_true.mpr fun x hx => ?_
    rw [List.mem_eraseDups, List.mem_filterMap] at hx
    obtain ⟨l, hl, hx⟩ := hx
    obtain ⟨n, k, hn, hk, h1, h2, hdue⟩ := hp l (lanesOf_mem.mp hl).1 (lanesOf_mem.mp hl).2
    obtain rfl : (n, V.lane d.toNat l) = x := by simpa [hn] using hx
    simpa [Core.phaseDone, hk, h1, hdue, -BitVec.toNat_sub] using h2
  refine computes_retire h.1 ?_ rfl (RegsOnly.refl V) (Effects.none V)
  rw [exec_barw h, View.inCrew_passes hcrew]
  unfold View.barw
  split
  · next hx => exact absurd hx (hw _ _)
  · simp only [hbad, ne_eq, not_true_eq_false, if_false, hdone, if_true]

/-- A BARA that has waited writes the phases in which its lanes have arrived. -/
theorem bara_done (h : Ready s (infoOf (.bara d)) true V) {ms ph : List (Nat × Word)} {f : Nat → Word} (hw : V.p.wait = .barrier ms ph)
    (hms : ∀ l, l < 32 → V.em.getLsbD l = true → ms.find? (fun x => x.1 == l) = some (l, f l)) : Computes (.bara d) s V ⟨[(d.toNat, f)], []⟩ := by
  have hmark : V.markLanes d.toNat ms = V.writeLane d.toNat f := View.writeLane_congr fun l hl => by
    rw [hms l (lanesOf_mem.mp hl).1 (lanesOf_mem.mp hl).2]
  refine computes_retire h.1 ?_ rfl (RegsOnly.writeLane V d.toNat f) (Effects.row V d.toNat f)
  rw [exec_bara h, View.inCrew_passes hcrew, View.bara, hw, ← hmark]

/-- BARA of lanes that have not arrived does not wait. -/
theorem exec_bara_first (h : Ready s (infoOf (.bara d)) true V) (hw : ∀ ms ph, V.p.wait ≠ .barrier ms ph)
    (hfirst : ∀ x ∈ (V.arrivals V.c).2, V.hasArrived x.1 = false) :
    exec (.bara d) s = .next (V.arriveIn ((V.markLanes d.toNat (marksOf (V.arrivals V.c).2)).retire (infoOf (.bara d)))) := by
  have hnone : ((V.arrivals V.c).2.filter fun x => V.hasArrived x.1) = [] := List.filter_eq_nil_iff.mpr fun x hx => by simp [hfirst x hx]
  rw [exec_bara h, View.inCrew_passes hcrew]
  unfold View.bara
  split
  · next hx => exact absurd hx (hw _ _)
  · simp only [hnone]
end

/-- A BARA of no lane does nothing to the crews or the registers. -/
theorem bara_empty (h : Ready s (infoOf (.bara d)) true V) (hw : ∀ ms ph, V.p.wait ≠ .barrier ms ph) (hem : V.em = 0#32) :
    ∃ t, exec (.bara d) s = .next t ∧ (t.core V.cn).crews = V.c.crews ∧ (V.quadIn t).rf = V.q.rf := by
  have hlanes : lanesOf V.em = [] := by rw [hem]; decide
  have hnone : (V.arrivals V.c).2 = [] := by simp [View.arrivals, hlanes]
  have hW : RegsOnly V (V.markLanes d.toNat (marksOf (V.arrivals V.c).2)) := RegsOnly.writeLane V _ _
  refine ⟨_, exec_bara_first (by simp [hem]) h hw (by simp [hnone]), ?_⟩
  obtain ⟨hframe, w, p, r, -, -, -, hrf, -⟩ := View.retire_frame (i := infoOf (.bara d)) (State.view_from h.1) hW.became
  rw [View.arriveIn_eq, View.arrivedCore_none hem]
  refine ⟨?_, ?_⟩
  · rw [State.core_setCore, if_pos rfl, hframe.core]
  · rw [View.quadIn, State.core_setCore, if_pos rfl]
    refine hrf.trans ?_
    simp [View.markLanes, View.writeLane, writeRow, hlanes]

/-- A BARA of one lane that has not arrived, whose crew waits for others too. -/
theorem bara_one {l n seat : Nat} {k : Crew} (h : Ready s (infoOf (.bara d)) true V) (hem : lanesOf V.em = [l])
    (hw : ∀ ms ph, V.p.wait ≠ .barrier ms ph) (hm : V.w.member l = some (n, seat)) (hk : V.c.crews.find n = some k) (hseat : seat ∉ k.arrived)
    (hn : k.arrived.length + 1 ≠ k.members.length) :
    ∃ t, exec (.bara d) s = .next t ∧ V.rfIn t (V.lidx d.toNat l) = k.phase ∧
      (∀ j, j ≠ V.lidx d.toNat l → V.rfIn t j = Sparse.get 0#32 V.q.rf j) ∧
      (∃ o, (t.core V.cn).crews.find n = some { k with arrived := k.arrived ++ [seat], owed := o }) ∧
      (t.core V.cn).scratch = V.c.scratch ∧ (∀ m, m ≠ V.cn → t.core m = s.core m) ∧
      t = { s with cores := t.cores, fresh := t.fresh, time := t.time } := by
  have hone : ∀ j, j < 32 → V.em.getLsbD j = true → j = l := fun j hj hb => by
    have : j ∈ lanesOf V.em := lanesOf_mem.mpr ⟨hj, hb⟩
    simpa [hem] using this
  have harr := View.arrivals_first hem hm hk hseat
  have hW : V.markLanes d.toNat (marksOf (V.arrivals V.c).2) = V.writeLane d.toNat fun _ => k.phase := View.writeLane_congr fun j hj => by
    rw [hem, List.mem_singleton] at hj
    simp [harr, marksOf, hj]
  have hexec := exec_bara_first (fun j hj hb => by rw [hone j hj hb, hm]; exact Option.some_ne_none _) h hw (by simp [harr, View.hasArrived, hm, hk, hseat])
  rw [hW] at hexec
  have hf := State.view_from h.1
  obtain ⟨hframe, w, p, r, -, -, -, hrf, -⟩ := View.retire_frame (i := infoOf (.bara d)) hf (RegsOnly.writeLane V d.toNat fun _ => k.phase).became
  rw [hf.state] at hframe
  generalize (V.writeLane d.toNat fun _ => k.phase).retire (infoOf (.bara d)) = u at *
  have hku : (u.core V.cn).crews.find n = some k := by rw [hframe.core]; exact hk
  have hcore := arrivalsOnly_arrivedCore V (u.core V.cn)
  have hfile : (V.quadIn (V.arriveIn u)).rf = (V.writeLane d.toNat fun _ => k.phase).q.rf := by
    rw [View.arriveIn_eq, View.quadIn, State.core_setCore, if_pos rfl, hcore.rf]; exact hrf
  have heff := Effects.row V d.toNat fun _ => k.phase
  refine ⟨_, hexec, ?_, fun j hj => ?_, ?_, ?_, fun m hm' => ?_, ?_⟩
  · rw [View.rfIn, hfile]
    exact heff.values (V.lidx d.toNat l, k.phase) (by simp [View.cells, hem])
  · rw [View.rfIn, hfile]
    exact heff.others j (by simpa [View.cells, hem] using hj.symm)
  · rw [View.arriveIn_eq, State.core_setCore, if_pos rfl, View.arrivedCore_first hem hm hku hseat hn, View.arrivals_first hem hm hku hseat]
    exact ⟨_, (Table.find_put _ _ _ _).trans (if_pos rfl)⟩
  · rw [View.arriveIn_eq, State.core_setCore, if_pos rfl, hcore.scratch, hframe.core]
  · rw [View.arriveIn_eq, State.core_setCore, if_neg hm', hframe.others m hm']
  · rw [View.arriveIn_eq, hframe.rest]; rfl
end

/-! ### The obligation -/

/-- Settles O19: arrivals and phases of one crew by `Core.arrive_first`, `Core.arrive_again` and `Core.phaseCheck_completes`; the words by whether their slot has
waited already; what a barrier leaves of the core by `arrivalsOnly_arrivedCore`. -/
theorem barriers : Obligations.Barriers := by
  refine ⟨fun c n k seat owed hk => ⟨fun h => ?_, fun h => ?_, fun h => Core.phaseFrom_waits hk h 2, fun h hm ha => Core.phaseCheck_completes hk h hm ha⟩,
    fun s V d i hi h => ⟨fun hl => ⟨_, fun l hl => V.getLsbD_crewless hl, barrierWord_stops hi h hl⟩, fun hcrew => ?_⟩,
    fun s V d l n seat k h hem hw hm hk hseat hn => bara_one h hem hw hm hk hseat hn⟩
  · rw [Core.arrive_first hk h]; simp
  · rw [Core.arrive_again hk h]; simp
  · refine ⟨?_, ?_, ?_, ?_, ?_, ?_⟩ <;> rintro rfl
    · exact bar_done hcrew h
    · exact bar_waits hcrew h
    · exact barw_done hcrew h
    · exact barw_passed hcrew h
    · exact fun ms ph f hw hms => bara_done hcrew h hw hms
    · exact bara_empty h
end Sys2Proof.Machine
end

section
/-! SUPPORT. A deposit under a key that has threads in the spill region (R121). -/
namespace Sys2Proof.Machine

/-- The only thread in a full spill region of one record. -/
def spilledThread : ThreadRec :=
  { entry := 0x100, tid := 0, key := none, payload := [], launch := 0, stamp := 1, cycle := 0, afterUid := 0, afterLanes := 0, afterSeq := 0, place := some 0 }
/-- The bin of its launch, entry and key, which waits for its refill with room for 32. -/
def waitingBin : Bin := { launch := 0, entry := 0x100, key := none, threads := [], expired := false }
/-- A core whose bin waits to be refilled from the spill region, as after a launch of it whose refill met a migrating page. -/
def refillingState : State :=
  { State.reset with
    cores := [(0, { Core.blank 0 with bins := [(0, waitingBin)], spilled := [spilledThread] })]
    launches := [(0, Launch.blank)] }

theorem find_waitingBin : (refillingState.core 0).bins.find? (fun b => spilledThread.under b.2) = some (0, waitingBin) := rfl

/-- Behind an older thread of its key in the spill region a thread waits for a record there too, and the region has none. -/
theorem deposit_refillingState : refillingState.deposit 0 spilledThread = none := rfl

/-- Refutes O20: its first clause deposits a thread in the bin of its key while that holds fewer than 32; where an older thread of the key stands in the spill
region, the model sends the thread there, and finds no place for it where the region is full. -/
theorem not_spawnAndDeposits : ¬ Obligations.SpawnAndDeposits := by
  rintro ⟨h, -⟩
  have hdeposit := (h refillingState 0 spilledThread).1 0 waitingBin find_waitingBin (by decide)
  rw [deposit_refillingState] at hdeposit
  exact nomatch hdeposit
end Sys2Proof.Machine
end

section
/-! SUPPORT. JOIN (R128, R129, R138). -/
namespace Sys2Proof.Machine

/-- What is written is read off the register file, the undefined contents and the run. -/
theorem Effects.congr {V W X : View} {x : Writes} (h : Effects V x W) (hrf : X.q.rf = W.q.rf) (hundef : X.w.undef = W.w.undef)
    (hranges : X.w.tstRanges = W.w.tstRanges) (hr : X.r = W.r) : Effects V x X := by
  obtain ⟨a, b, c, d, e, f, g, i, j, k, l⟩ := h
  constructor <;> simpa only [hrf, hundef, hranges, hr]

/-! ### Crews that a JOIN creates and enters -/

theorem Core.newCrew_quads {c d : Core} {key : Word} {ctx launch g limit : Nat} (h : c.newCrew key ctx launch g limit = some d) : d.quads = c.quads := by
  unfold Core.newCrew at h
  split at h
  · obtain rfl := Option.some.inj h; rfl
  · cases h
theorem View.createCrews_quads {V : View} {key : Nat → Word} {c : Core} (h : V.createCrews key = some c) : c.quads = V.c.quads := by
  have keeps := foldl_keeps (fun o : Option Core => ∀ d, o = some d → d.quads = V.c.quads)
    (fun o x => o.bind fun c => c.newCrew x V.w.ctx V.w.launch (V.s.crewShape V.w.launch).2 (V.s.crewShape V.w.launch).1)
    (fun o x ho d hd => by
      obtain ⟨e, he, hd⟩ := Option.bind_eq_some_iff.mp hd
      exact (Core.newCrew_quads hd).trans (ho e he))
    (V.newKeys key) (some V.c) (fun d hd => by rw [Option.some.inj hd])
  exact keeps c h
theorem View.seats_quads (V : View) (c : Core) (key : Nat → Word) : (V.seats c key).1.quads = c.quads := by
  refine foldl_keeps (fun p : Core × List (Nat × Nat × Nat) => p.1.quads = c.quads) _ (fun p l hp => ?_) _ _ rfl
  dsimp only
  split
  · exact hp
  · exact hp

theorem Core.joined_live {c : Core} {ctx : Nat} {key : Word} {x : Nat × Crew} (h : c.crewOfKey ctx key = some x) : c.joined ctx key = some x := by
  simp [Core.joined, h]

section
variable {V : View} {key : Nat → Word} {l n seat : Nat} {k : Crew} (hem : lanesOf V.em = [l]) (hk : V.c.crewOfKey V.w.ctx (key l) = some (n, k))
include hem hk

/-- One lane that enters a live crew creates none, -/
theorem View.createCrews_live : V.createCrews key = some V.c := by
  have : V.newKeys key = [] := by simp [View.newKeys, hem, hk]
  simp [View.createCrews, this]
/-- does not wait where the crew is neither compacted nor swapped out, -/
theorem View.joinWaits_live (hc : k.compacted = false) (hs : k.swapped = false) : V.joinWaits key = false := by
  simp [View.joinWaits, View.createCrews_live hem hk, hem, hk, hc, hs]
/-- is within a limit that the crew has not reached, -/
theorem View.joinOver_live (h : k.members.length < k.limit) : V.joinOver V.c key = 0#32 := maskOf_eq_zero fun j hj => by
  by_cases hb : V.em.getLsbD j = true
  · obtain rfl : j = l := by simpa [hem] using lanesOf_mem.mpr ⟨hj, hb⟩
    simpa [Core.joined_live hk, hem] using fun _ => h
  · simp [hb]
/-- and takes the lowest free seat. -/
theorem View.seats_live (hseat : seat < 1024) (hfree : ∀ m ∈ k.members, m.seat ≠ seat) (hlow : ∀ x, x < seat → ∃ m ∈ k.members, m.seat = x) :
    V.seats V.c key = ({ V.c with crews := V.c.crews.put n { k with members := k.members ++ [⟨seat, V.qn, V.wn, l⟩] } }, [(l, n, seat)]) := by
  have hfind : (List.range 1024).find? (fun x => !k.members.any fun m => m.seat == x) = some seat := by
    rw [List.find?_range_eq_some]
    exact ⟨by simpa using hfree, List.mem_range.mpr hseat, by simpa using hlow⟩
  simp [View.seats, hem, Core.joined_live hk, hfind]
end

/-! ### The word -/

section
variable {s : State} {V : View} {d a : BitVec 7}

theorem exec_join (h : Ready s (infoOf (.join d a)) true V) : exec (.join d a) s = .next (if V.crewed ≠ 0#32 then V.fault 0x00C 0#64 V.crewed
    else (V.joinNow (infoOf (.join d a)) d.toNat (V.lane a.toNat)).getD (V.breakRun .join)) := issue_ready h _

theorem join_crewed (h : Ready s (infoOf (.join d a)) true V) (hl : ∃ l, l < 32 ∧ V.em.getLsbD l = true ∧ V.w.member l ≠ none) :
    exec (.join d a) s = .next (V.fault 0x00C 0#64 V.crewed) := by
  have : V.crewed ≠ 0#32 := maskOf_ne_zero (by simpa [Option.isSome_iff_ne_none] using hl)
  rw [exec_join h, if_pos this]

section
variable (hcrew : ∀ l, l < 32 → V.em.getLsbD l = true → V.w.member l = none)
include hcrew

theorem exec_join_free (h : Ready s (infoOf (.join d a)) true V) :
    exec (.join d a) s = .next ((V.joinNow (infoOf (.join d a)) d.toNat (V.lane a.toNat)).getD (V.breakRun .join)) := by
  have : V.crewed = 0#32 := maskOf_eq_zero fun l hl => by simpa using hcrew l hl
  rw [exec_join h, if_neg (not_not.mpr this)]

theorem join_waits (h : Ready s (infoOf (.join d a)) true V) (hw : V.joinWaits (V.lane a.toNat) = true) :
    exec (.join d a) s = .next (V.breakRun .join) := by
  rw [exec_join_free hcrew h, View.joinNow, if_pos hw]
  rfl

theorem join_over {c : Core} (h : Ready s (infoOf (.join d a)) true V) (hw : V.joinWaits (V.lane a.toNat) = false)
    (hc : V.createCrews (V.lane a.toNat) = some c) (ho : V.joinOver c (V.lane a.toNat) ≠ 0#32) :
    exec (.join d a) s = .next (V.fault 0x0C2 0#64 (V.joinOver c (V.lane a.toNat))) := by
  rw [exec_join_free hcrew h]
  simp only [View.joinNow, hw, hc, ho, Bool.false_eq_true, if_false, ne_eq, not_false_eq_true, if_true, Option.getD_some]

/-- The lanes take their seats, and each reads its own. -/
theorem join_seats {c : Core} {f : Nat → Word} (h : Ready s (infoOf (.join d a)) true V) (hw : V.joinWaits (V.lane a.toNat) = false)
    (hc : V.createCrews (V.lane a.toNat) = some c) (ho : V.joinOver c (V.lane a.toNat) = 0#32)
    (hread : ∀ l ∈ lanesOf V.em, f l = (((V.seats c (V.lane a.toNat)).2.find? fun x => x.1 == l).map fun x => BitVec.ofNat 32 x.2.2).getD 0) :
    DoesFrom (.join d a) s s { V with c := (V.seats c (V.lane a.toNat)).1 }
      (Warp.fullPoint { V.w with remap := V.w.remap ++ (V.seats c (V.lane a.toNat)).2 }) V.onward ⟨[(d.toNat, f)], []⟩ := by
  have hs := (State.view_from h.1).state
  have hq : (V.seats c (V.lane a.toNat)).1.quads = V.c.quads := (V.seats_quads c _).trans (View.createCrews_quads hc)
  have hexec := exec_join_free hcrew h
  simp only [View.joinNow, hw, hc, ho, Bool.false_eq_true, if_false, ne_eq, not_true_eq_false, Option.getD_some] at hexec
  generalize V.seats c (V.lane a.toNat) = r at *
  -- the view with the seats taken, and the seats written
  let U : View := { V with c := r.1, w := { V.w with remap := V.w.remap ++ r.2 } }
  have hwrite : (U.writeLane d.toNat fun l => match r.2.find? fun x => x.1 == l with
      | some x => BitVec.ofNat 32 x.2.2
      | none => 0) = U.writeLane d.toNat f := View.writeLane_congr fun l hl => by
    rw [hread l hl]
    cases r.2.find? fun x => x.1 == l <;> rfl
  refine doesFrom_of_core (W := { U.writeLane d.toNat f with w := (U.writeLane d.toNat f).w.fullPoint }) (p0 := V.p) h.1 hq (hwrite ▸ hexec) ?_ ?_
  · refine ⟨?_, by rw [hs], rfl, rfl, rfl⟩
    rw [← hs]
    unfold View.writeLane View.noteLane
    dsimp only
    split <;> rfl
  · refine (Effects.row { V with c := r.1 } d.toNat f).congr rfl ?_ ?_ ?_
    all_goals
      unfold View.writeLane View.noteLane
      dsimp only
      split <;> rfl

/-- One lane enters a live crew. -/
theorem join_live {l n seat : Nat} {k : Crew} (h : Ready s (infoOf (.join d a)) true V) (hem : lanesOf V.em = [l])
    (hk : V.c.crewOfKey V.w.ctx (V.lane a.toNat l) = some (n, k)) (hc : k.compacted = false) (hs : k.swapped = false) (hlim : k.members.length < k.limit)
    (hseat : seat < 1024) (hfree : ∀ m ∈ k.members, m.seat ≠ seat) (hlow : ∀ x, x < seat → ∃ m ∈ k.members, m.seat = x) :
    DoesFrom (.join d a) s s { V with c := { V.c with crews := V.c.crews.put n { k with members := k.members ++ [⟨seat, V.qn, V.wn, l⟩] } } }
      (Warp.fullPoint { V.w with remap := V.w.remap ++ [(l, n, seat)] }) V.onward ⟨[(d.toNat, fun _ => BitVec.ofNat 32 seat)], []⟩ := by
  have hseats := View.seats_live (key := V.lane a.toNat) hem hk hseat hfree hlow
  have := join_seats (f := fun _ => BitVec.ofNat 32 seat) hcrew h (View.joinWaits_live hem hk hc hs) (View.createCrews_live hem hk) (View.joinOver_live hem hk hlim)
    (fun j hj => by
      rw [hem, List.mem_singleton] at hj
      simp [hseats, hj])
  rwa [hseats] at this
end
end
end Sys2Proof.Machine
end

section
/-! SUPPORT. LEAVE; what leaves the crews of a warp's lanes alone (R131, R137, R138). -/
namespace Sys2Proof.Machine

/-! ### Lanes that leave their crews -/

section
variable {A : View} {m : Word} {after : State → State}

theorem View.leaveThen_put : A.put.leaveThen A.cn A.qn A.wn m after =
    ((A.w.remap.filter fun e => m.getLsbD e.1).map fun e => e.2.1).eraseDups.foldl (fun s k => s.mangle A.cn k)
      (after ((A.w.remap.filter fun e => m.getLsbD e.1).foldl (fun s e => s.setCore A.cn ((s.core A.cn).leaveSeat e.2.1 e.2.2))
        (View.put { A with w := { A.w with remap := A.w.remap.filter fun e => !m.getLsbD e.1 } }))) := by
  simp only [State.leaveThen, View.put, View.warp_putWarp, View.setWarp_putWarp]
  rfl

/-- Where none of the lanes is in a crew nothing is left. -/
theorem View.leaveThen_none (h : ∀ e ∈ A.w.remap, m.getLsbD e.1 = false) : A.put.leaveThen A.cn A.qn A.wn m after = after A.put := by
  have hgone : (A.w.remap.filter fun e => m.getLsbD e.1) = [] := List.filter_eq_nil_iff.mpr fun e he => by simp [h e he]
  have hkept : (A.w.remap.filter fun e => !m.getLsbD e.1) = A.w.remap := List.filter_eq_self.mpr fun e he => by simp [h e he]
  rw [View.leaveThen_put, hgone, hkept]
  rfl
end

/-- A member leaves, and the phase of the members that stay is not complete. -/
theorem Core.leaveSeat_waits {c : Core} {n seat : Nat} {k k' : Crew} (hk : c.crews.find n = some k)
    (hk' : k' = { k with members := k.members.filter fun m => m.seat ≠ seat
                         arrived := k.arrived.filter fun x => x ≠ seat, again := k.again.filter fun x => x ≠ seat })
    (hm : k'.members ≠ []) (ha : k'.arrived.length ≠ k'.members.length) : c.leaveSeat n seat = { c with crews := c.crews.put n k' } := by
  have hphase := Core.phaseFrom_waits (c := { c with crews := c.crews.put n k' }) (n := n) (k := k') (by simp) (.inl ha) 2
  subst hk'
  simp only [Core.leaveSeat, hk]
  rw [if_neg (by simpa using hm)]
  exact hphase

/-! ### Paths that do not wait at a BRC -/

/-- Where no path of a member waits at a BRC, the Mangle does not compact its crew. -/
theorem compact_idle {s : State} {cn crew : Nat} {k : Crew}
    (h : ∀ m ∈ k.members, ∀ p, (s.core cn).pathOf m.quad m.warp m.lane = some p → ∀ a t x, p.wait ≠ .brc a t x) : s.compact cn crew k = s := by
  have hnone : ∀ m ∈ k.members, (((s.core cn).pathOf m.quad m.warp m.lane).bind fun p => match p.wait with
      | .brc a t x => if p.em.getLsbD m.lane then some (a, t, p.pc, x) else none
      | _ => none) = none := fun m hm => Option.bind_eq_none_iff.mpr fun p hp => by
    split
    · next hx => exact absurd hx (h m hm p hp _ _ _)
    · rfl
  unfold State.compact
  cases hms : k.members with
  | nil => rfl
  | cons m ms =>
    have := hnone m (by simp [hms])
    simp only [List.head?_cons, Option.bind_some]
    split
    · rfl
    · next hx => exact absurd (this.symm.trans hx) (by simp)

/-- The path that a lane follows in the slots of a warp. -/
def Warp.pathIn (w : Warp) (l : Nat) : Option Path := [w.div.s0, w.div.s1].findSome? fun p => p.bind fun p => if p.mask.getLsbD l then some p else none

theorem Core.pathOf_eq (c : Core) (qn wn l : Nat) : c.pathOf qn wn l = ((c.quad qn).warps.find wn).bind fun w => w.pathIn l := by
  unfold Core.pathOf
  cases (c.quad qn).warps.find wn <;> rfl

theorem Core.pathOf_setQuad {c : Core} {q : Quadrant} {w : Warp} {qn wn a b l : Nat} : (c.setQuad qn (q.setWarp wn w)).pathOf a b l =
    if a = qn then if b = wn then w.pathIn l else (q.warps.find b).bind fun w => w.pathIn l else c.pathOf a b l := by
  rw [Core.pathOf_eq, Core.quad_setQuad, Core.pathOf_eq]
  split
  · rw [Quadrant.find_setWarp]
    split <;> rfl
  · rfl

/-- A path that changes but for its lanes is the only one that its warp's lanes follow anew. -/
theorem Warp.pathIn_setSlot {w : Warp} {kn l : Nat} {p p' r : Path} (hp : w.div.slot kn = some p) (hm : p'.mask = p.mask)
    (h : Warp.pathIn { w with div := w.div.setSlot kn (some p') } l = some r) : r = p' ∨ w.pathIn l = some r := by
  unfold Div.slot at hp
  simp only [Warp.pathIn, Div.setSlot] at h ⊢
  cases hb : p.mask.getLsbD l <;> split at hp <;> simp_all [List.findSome?]
  split at h <;> simp_all

/-! ### A view that is put back -/

theorem View.core_put (A : View) : A.put.core A.cn = A.c.setQuad A.qn (A.q.setWarp A.wn A.warp) := (View.putWarp_core A A.warp A.cn).trans (if_pos rfl)
theorem View.setCore_put (A : View) (c : Core) : A.put.setCore A.cn c = A.s.setCore A.cn c := by
  simp only [View.put, View.putWarp, State.setCore_setCore]

/-- A member of a crew of the issuing core leaves it, and the phase of those that stay is not complete. -/
theorem View.leaveSeat_put {A : View} {n seat : Nat} {k k' : Crew} (hk : A.c.crews.find n = some k)
    (hk' : k' = { k with members := k.members.filter fun m => m.seat ≠ seat
                         arrived := k.arrived.filter fun x => x ≠ seat, again := k.again.filter fun x => x ≠ seat })
    (hm : k'.members ≠ []) (ha : k'.arrived.length ≠ k'.members.length) :
    A.put.setCore A.cn ((A.put.core A.cn).leaveSeat n seat) = View.put { A with c := { A.c with crews := A.c.crews.put n k' } } := by
  rw [Core.leaveSeat_waits (k := k) (by rw [View.core_put]; exact hk) hk' hm ha, View.setCore_put, View.core_put]
  rfl

/-- The Mangle has nothing to do for a crew that is not compacted and has no member at a BRC. -/
theorem View.mangle_put {A : View} {n : Nat} {k : Crew} (hk : A.c.crews.find n = some k) (hc : k.compacted = false)
    (h : ∀ m ∈ k.members, ∀ p, (A.c.setQuad A.qn (A.q.setWarp A.wn A.warp)).pathOf m.quad m.warp m.lane = some p → ∀ a t x, p.wait ≠ .brc a t x) :
    A.put.mangle A.cn n = A.put := by
  have hfind : (A.put.core A.cn).crews.find n = some k := by rw [View.core_put]; exact hk
  simp only [State.mangle, hfind, hc, Bool.false_eq_true, if_false]
  exact compact_idle (by rw [View.core_put]; exact h)

/-- One member leaves a crew that goes on without it. -/
theorem View.leaveThen_one {A : View} {m : Word} {l n seat : Nat} {k k' : Crew} (hgone : (A.w.remap.filter fun e => m.getLsbD e.1) = [(l, n, seat)])
    (hk : A.c.crews.find n = some k) (hc : k.compacted = false)
    (hbrc : ∀ m ∈ k.members, ∀ p, (A.put.core A.cn).pathOf m.quad m.warp m.lane = some p → ∀ a t x, p.wait ≠ .brc a t x)
    (hk' : k' = { k with members := k.members.filter fun m => m.seat ≠ seat
                         arrived := k.arrived.filter fun x => x ≠ seat, again := k.again.filter fun x => x ≠ seat })
    (hm : k'.members ≠ []) (ha : k'.arrived.length ≠ k'.members.length) :
    A.put.leaveThen A.cn A.qn A.wn m id =
      View.put { A with w := { A.w with remap := A.w.remap.filter fun e => !m.getLsbD e.1 }, c := { A.c with crews := A.c.crews.put n k' } } := by
  rw [View.leaveThen_put, hgone]
  refine (congrArg (fun s => State.mangle s A.cn n) (View.leaveSeat_put (A := { A with w := { A.w with remap := A.w.remap.filter fun e => !m.getLsbD e.1 } })
    hk hk' hm ha)).trans (View.mangle_put (k := k') (A := { A with
      w := { A.w with remap := A.w.remap.filter fun e => !m.getLsbD e.1 }, c := { A.c with crews := A.c.crews.put n k' } })
    ((Table.find_put _ _ _ _).trans (if_pos rfl)) (by rw [hk']; exact hc) fun m hmem p hp => ?_)
  refine hbrc m (by rw [hk'] at hmem; exact List.mem_of_mem_filter hmem) p ?_
  rw [Core.pathOf_setQuad] at hp
  rw [View.core_put, Core.pathOf_setQuad]
  exact hp

theorem View.advance_warp_pathIn (V : View) (i : Info) (l : Nat) : (V.advance i).warp.pathIn l =
    Warp.pathIn { V.w with div := V.w.div.setSlot V.kn (some { (V.advance i).p with run := some (V.advance i).r }) } l := by
  simp only [View.warp, View.advance, Warp.pathIn, Div.setSlot]
  cases i.rc <;> by_cases hk : V.kn = 0 <;> simp [hk, Warp.fullPoint]

/-- The only path that an issued word changes is its own, which waits for nothing. -/
theorem View.advance_pathOf {V : View} {i : Info} {w : Warp} {a b l : Nat} {r : Path} (hq : V.c.quad V.qn = V.q) (hw : V.q.warps.find V.wn = some w)
    (hd : w.div = V.w.div) (hp : w.div.slot V.kn = some V.p) (h : ((V.advance i).put.core V.cn).pathOf a b l = some r) :
    r.wait = .none ∨ V.c.pathOf a b l = some r := by
  change ((V.advance i).put.core (V.advance i).cn).pathOf a b l = some r at h
  rw [View.core_put, Core.pathOf_setQuad] at h
  split at h
  · next ha =>
    subst ha
    rw [Core.pathOf_eq]
    change _ ∨ ((V.c.quad V.qn).warps.find b).bind _ = _
    rw [hq]
    split at h
    · next hb =>
      subst hb
      rw [View.advance_warp_pathIn] at h
      change _ ∨ (V.q.warps.find V.wn).bind _ = _
      rw [hw]
      rw [hd] at hp
      have hmask : ({ (V.advance i).p with run := some (V.advance i).r } : Path).mask = V.p.mask := rfl
      rcases Warp.pathIn_setSlot hp hmask h with rfl | h
      · exact .inl rfl
      · exact .inr (by simpa [Warp.pathIn, hd] using h)
    · exact .inr h
  · exact .inr h

/-! ### The word -/

section
variable {s : State} {V : View}

theorem exec_leave (h : Ready s (infoOf .leave) true V) : exec .leave s =
    .next ((({ V with w := V.w.fullPoint } : View).retire (infoOf .leave)).leaveLanes V.cn V.qn V.wn V.em) := issue_ready h _

/-- LEAVE by lanes in no crew sets a full point, and does nothing else. -/
theorem leave_none (h : Ready s (infoOf .leave) true V) (hl : ∀ e ∈ V.w.remap, V.em.getLsbD e.1 = false) :
    Does .leave s V V.w.fullPoint V.onward ⟨[], []⟩ := by
  have hs := (State.view_from h.1).state
  have hexec : exec .leave s = .next (({ V with w := V.w.fullPoint } : View).retire (infoOf .leave)) :=
    (exec_leave h).trans (congrArg Host.Outcome.next (View.leaveThen_none (A := View.advance { V with w := V.w.fullPoint } (infoOf .leave)) hl))
  have := does_of h.1 hexec (W := { V with w := V.w.fullPoint }) (b := V.w.fullPoint) (p0 := V.p) ⟨rfl, rfl, rfl, rfl, rfl⟩ (Effects.nothing rfl rfl rfl rfl)
  rwa [hs] at this

/-- What an issued word moves on does not hang on the remap entries nor on the crews. -/
theorem View.advance_leave (V : View) (R : List (Nat × Nat × Nat)) (X : Table Crew) :
    (View.advance { V with c := { V.c with crews := X }, w := Warp.fullPoint { V.w with remap := R } } (infoOf .leave)) =
      { View.advance { V with w := V.w.fullPoint } (infoOf .leave) with
        w := { (View.advance { V with w := V.w.fullPoint } (infoOf .leave)).w with remap := R }
        c := { (View.advance { V with w := V.w.fullPoint } (infoOf .leave)).c with crews := X } } := rfl

theorem View.advance_keeps (V : View) : (View.advance { V with w := V.w.fullPoint } (infoOf .leave)).w.remap = V.w.remap ∧
    (View.advance { V with w := V.w.fullPoint } (infoOf .leave)).c.crews = V.c.crews := ⟨rfl, rfl⟩

/-- One member leaves a crew that goes on without it. -/
theorem leave_one {l n seat : Nat} {k k' : Crew} (h : Ready s (infoOf .leave) true V) (hl : l < 32) (hem : lanesOf V.em = [l])
    (hremap : V.w.remap.filter (fun e => e.1 == l) = [(l, n, seat)]) (hk : V.c.crews.find n = some k) (hc : k.compacted = false)
    (hbrc : ∀ m ∈ k.members, ∀ p, V.c.pathOf m.quad m.warp m.lane = some p → ∀ a t x, p.wait ≠ .brc a t x)
    (hk' : k' = { k with members := k.members.filter fun m => m.seat ≠ seat
                         arrived := k.arrived.filter fun x => x ≠ seat, again := k.again.filter fun x => x ≠ seat })
    (hm : k'.members ≠ []) (ha : k'.arrived.length ≠ k'.members.length) :
    DoesFrom .leave s s { V with c := { V.c with crews := V.c.crews.put n k' } }
      (Warp.fullPoint { V.w with remap := V.w.remap.filter fun e => e.1 ≠ l }) V.onward ⟨[], []⟩ := by
  have hf := State.view_from h.1
  have hbit (e : Nat) : V.em.getLsbD e = (e == l) := by
    rw [Bool.eq_iff_iff, beq_iff_eq]
    by_cases he : e < 32
    · simpa [he, hem] using (lanesOf_mem (m := V.em) (l := e)).symm
    · simp [BitVec.getLsbD_of_ge V.em e (by omega), show e ≠ l by omega]
  obtain ⟨hre, hcr⟩ := View.advance_keeps V
  have hgone : ((View.advance { V with w := V.w.fullPoint } (infoOf .leave)).w.remap.filter fun e => V.em.getLsbD e.1) = [(l, n, seat)] := by
    simpa only [hre, hbit] using hremap
  have hkept : ((View.advance { V with w := V.w.fullPoint } (infoOf .leave)).w.remap.filter fun e => !V.em.getLsbD e.1) =
      V.w.remap.filter fun e => e.1 ≠ l := by
    rw [hre]
    exact List.filter_congr fun e _ => by rw [hbit]; exact (decide_not (p := e.1 = l)).symm
  have hleft := View.leaveThen_one hgone (hcr ▸ hk) hc (fun m hmem p hp => by
    rcases View.advance_pathOf (V := { V with w := V.w.fullPoint }) hf.quad.symm hf.warp rfl hf.path hp with hw | hp
    · rw [hw]; exact fun _ _ _ => Wait.noConfusion
    · exact hbrc m hmem p hp) hk' hm ha
  rw [hkept, hcr, ← View.advance_leave] at hleft
  have hexec := (exec_leave h).trans (congrArg Host.Outcome.next hleft)
  refine doesFrom_of_core (W := { V with c := { V.c with crews := V.c.crews.put n k' }
                                         w := Warp.fullPoint { V.w with remap := V.w.remap.filter fun e => e.1 ≠ l } })
    (p0 := V.p) h.1 rfl hexec ⟨?_, by rw [hf.state], rfl, rfl, rfl⟩ (Effects.nothing rfl rfl rfl rfl)
  rw [← hf.state]
  rfl
end

/-- Settles O22: JOIN by whether the lanes are in a crew, the crews can be entered and their limits hold; LEAVE by whether a lane is in a crew. -/
theorem seatsOfCrews : Obligations.SeatsOfCrews := by
  unfold Obligations.SeatsOfCrews
  refine ⟨fun s V d a h => ⟨fun hl => ⟨V.crewed, fun l hlt => V.getLsbD_crewed hlt, join_crewed h hl⟩, fun hcrew =>
    ⟨join_waits hcrew h, fun c hw hc => ⟨join_over hcrew h hw hc, fun ho => join_seats hcrew h hw hc ho fun _ _ => rfl⟩,
      fun l n k seat hem hk hc hs hlim hseat hfree hlow => join_live hcrew h hem hk hc hs hlim hseat hfree hlow⟩⟩,
    fun s V h => ⟨leave_none h, fun l n seat k hl hem hremap hk hc hbrc hm ha => leave_one h hl hem hremap hk hc hbrc rfl hm ha⟩⟩
end Sys2Proof.Machine
end

section
/-! SUPPORT. Words that end every lane of their path: EXIT and HAMP (R136, R137). -/
namespace Sys2Proof.Machine

/-! ### A warp whose threads end -/

/-- A warp from a slot of which some lanes end. -/
def Warp.withoutLanes (w : Warp) (kn : Nat) (m : Word) : Warp :=
  Warp.fullPoint (Warp.resetProgress { w with tids := w.tids.filter fun t => !m.getLsbD t.1
                                              div := w.div.setSlot kn ((w.div.slot kn).map fun p => { p with mask := p.mask &&& ~~~m }) })
/-- A warp of which every lane of a slot ends: the slot has no path. -/
def Warp.ended (w : Warp) (kn : Nat) (m : Word) : Warp := { (w.withoutLanes kn m).watchDue with div := (w.withoutLanes kn m).div.setSlot kn none }

section
variable {w : Warp} {kn : Nat} {m : Word}

theorem Warp.withoutLanes_slot {p : Path} (hp : w.div.slot kn = some p) :
    (w.withoutLanes kn m).div.slot kn = some { p with mask := p.mask &&& ~~~m, issued := 0 } := by
  unfold Div.slot at hp
  simp only [Warp.withoutLanes, Warp.fullPoint, Warp.resetProgress, Div.slot, Div.setSlot]
  split at hp <;> simp_all

/-- Where the other slot has no path either, the warp has none. -/
theorem Warp.ended_slots (hkn : kn ≤ 1) (ho : w.div.slot (other kn) = none) : (w.ended kn m).div.s0 = none ∧ (w.ended kn m).div.s1 = none := by
  simp only [Warp.ended, Warp.withoutLanes, Warp.fullPoint, Warp.resetProgress, Div.setSlot]
  rcases Nat.le_one_iff_eq_zero_or_eq_one.mp hkn with rfl | rfl <;> simp_all [Div.slot, other]

theorem Warp.ended_slot : (w.ended kn m).div.slot kn = none := by
  simp [Warp.ended]
theorem Warp.ended_n : (w.ended kn m).div.n = w.div.n := by
  simp only [Warp.ended, Warp.withoutLanes, Warp.fullPoint, Warp.resetProgress, Div.setSlot]
  split <;> rfl
theorem Warp.ended_progress : (w.ended kn m).div.progress = 0 := by
  simp only [Warp.ended, Warp.withoutLanes, Warp.fullPoint, Warp.resetProgress, Div.setSlot]
  split <;> rfl
end

/-! ### The divergence rules at a warp with no path -/

theorem Warp.settleOnce_empty {w : Warp} (h0 : w.div.s0 = none) (h1 : w.div.s1 = none) (hn : w.div.n = 0) (c : Word) : w.settleOnce c = none := by
  simp [Warp.settleOnce, Div.slot, h0, h1, hn]

theorem settle_empty {s : State} {cn qn wn : Nat} {w : Warp} (hw : s.warp cn qn wn = some w) (hh : w.trap.halted = false)
    (h0 : w.div.s0 = none) (h1 : w.div.s1 = none) (hn : w.div.n = 0) : s.settle cn qn wn = s := by
  simp [State.settle, State.settleFrom, hw, hh, hn, Warp.settleOnce_empty h0 h1 hn]

/-! ### The lanes end, and the slot is vacated -/

theorem leaveThen_none {s : State} {cn qn wn : Nat} {w : Warp} {m : Word} {after : State → State} (hw : s.warp cn qn wn = some w)
    (hr : w.remap = []) : s.leaveThen cn qn wn m after = after (s.setWarp cn qn wn w) := by
  have : w = { w with remap := [] } := by rw [← hr]
  simp only [State.leaveThen, hw, hr, List.filter_nil, List.foldl_nil, List.map_nil, List.eraseDups_nil]
  rw [← this]

theorem State.setWarp_setWarp (s : State) (cn qn wn : Nat) (w v : Warp) : (s.setWarp cn qn wn w).setWarp cn qn wn v = s.setWarp cn qn wn v := by
  simp [State.setWarp, State.setQuad, State.setCore_setCore, Core.setQuad_setQuad, Quadrant.setWarp_setWarp]

/-- Threads of a warp with no crew member end. -/
theorem endLanes_eq {s : State} {cn qn wn kn : Nat} {w : Warp} {m : Word} (hw : s.warp cn qn wn = some w) (hr : w.remap = []) (hm : m ≠ 0#32) :
    s.endLanes cn qn wn kn m = s.setWarp cn qn wn (w.withoutLanes kn m) := by
  rw [State.endLanes, if_neg hm, leaveThen_none hw hr, onWarp_of_some (w := w) (by simp [State.warp_setWarp]), State.setWarp_setWarp]
  rfl

/-- The quadrant that a slot has left. -/
def Quadrant.vacated (q : Quadrant) (wn kn : Nat) : Quadrant := (q.freeTemps wn kn).deselect wn kn
theorem Quadrant.vacated_rf (q : Quadrant) (wn kn : Nat) : (q.vacated wn kn).rf = q.rf := Quadrant.deselect_rf _ _ _
theorem Quadrant.vacated_setWarp (q : Quadrant) (wn kn : Nat) (w v : Warp) :
    ((q.setWarp wn w).vacated wn kn).setWarp wn v = (q.vacated wn kn).setWarp wn v := by
  unfold Quadrant.vacated Quadrant.deselect
  by_cases h : q.sel = some (wn, kn)
  · rw [if_pos (show ((q.setWarp wn w).freeTemps wn kn).sel = _ from h), if_pos (show (q.freeTemps wn kn).sel = _ from h)]
    exact Quadrant.setWarp_setWarp { q.freeTemps wn kn with sel := none } wn w v
  · rw [if_neg (show ((q.setWarp wn w).freeTemps wn kn).sel ≠ _ from h), if_neg (show (q.freeTemps wn kn).sel ≠ _ from h)]
    exact Quadrant.setWarp_setWarp (q.freeTemps wn kn) wn w v

/-- A path leaves its slot, and the divergence rules find no path to bring there. -/
theorem View.vacate_empty {V : View} {w : Warp} (hw : w = { V.w.watchDue with div := V.w.div.setSlot V.kn none }) (hh : w.trap.halted = false)
    (h0 : w.div.s0 = none) (h1 : w.div.s1 = none) (hn : w.div.n = 0) :
    V.vacate = V.s.setCore V.cn (V.c.setQuad V.qn ((V.q.vacated V.wn V.kn).setWarp V.wn w)) := by
  subst hw
  exact settle_empty (View.warp_putWarp _ _) hh h0 h1 hn

theorem afterExit_empty {s : State} {cn qn wn kn : Nat} {V : View} (h : s.viewAt cn qn wn kn = some V) (hm : V.p.mask = 0#32) :
    s.afterExit cn qn wn kn = V.vacate := by
  simp only [State.afterExit, h, hm, if_true]

/-- Every lane of a path ends that is the only one of a warp with no crew member: the warp and its quadrant change, and nothing else. -/
theorem endLanes_afterExit {s : State} {cn qn wn kn : Nat} {w : Warp} {p : Path} {r : OpenRun} (hw : s.warp cn qn wn = some w) (hr : w.remap = [])
    (hp : w.div.slot kn = some p) (hm : p.mask ≠ 0#32) (hrun : p.run = some r) (hkn : kn ≤ 1) (ho : w.div.slot (other kn) = none) (hn : w.div.n = 0)
    (hh : w.trap.halted = false) : (s.endLanes cn qn wn kn p.mask).afterExit cn qn wn kn =
      s.setQuad cn qn ((((s.core cn).quad qn).vacated wn kn).setWarp wn (w.ended kn p.mask)) := by
  obtain ⟨h0, h1⟩ := Warp.ended_slots (w := w) (kn := kn) (m := p.mask) hkn ho
  have hview : (s.setWarp cn qn wn (w.withoutLanes kn p.mask)).viewAt cn qn wn kn = some
      { s := s.setWarp cn qn wn (w.withoutLanes kn p.mask), cn := cn, qn := qn, wn := wn, kn := kn
        c := (s.core cn).setQuad qn (((s.core cn).quad qn).setWarp wn (w.withoutLanes kn p.mask))
        q := ((s.core cn).quad qn).setWarp wn (w.withoutLanes kn p.mask), w := w.withoutLanes kn p.mask
        p := { p with mask := p.mask &&& ~~~p.mask, issued := 0 }, r := r, em := ({ p with mask := p.mask &&& ~~~p.mask, issued := 0 } : Path).em } := by
    simp [State.viewAt, State.setWarp, State.setQuad, Warp.withoutLanes_slot hp, hrun]
  rw [endLanes_eq hw hr hm, afterExit_empty hview (BitVec.and_not_self _)]
  rw [View.vacate_empty (w := w.ended kn p.mask) (by rfl) hh h0 h1 (Warp.ended_n.trans hn)]
  simp only [State.setWarp, State.setQuad, State.setCore_setCore, Core.setQuad_setQuad, Quadrant.vacated_setWarp]

/-! ### The words -/

/-- The warp of a word that has issued, and ended its windows, is as it was in what the end of its threads reads. -/
theorem View.warp_advance_left (V : View) (i : Info) : (V.advance i).left.warp.remap = V.w.remap ∧ (V.advance i).left.warp.tids = V.w.tids ∧
    (V.advance i).left.warp.trap = V.w.trap ∧ (V.advance i).left.warp.div.n = V.w.div.n ∧
    (V.advance i).left.warp.div.slot (other V.kn) = V.w.div.slot (other V.kn) := by
  simp only [View.left, View.endWindows, View.advance, View.warp, Div.setSlot]
  cases i.rc <;> by_cases hm : V.em = 0#32 <;> by_cases hk : V.kn = 0 <;>
    simp [hm, hk, Warp.fullPoint, Warp.endSlotWindows, Div.slot, other]

theorem View.advance_left_names (V : View) (i : Info) : (V.advance i).left.cn = V.cn ∧ (V.advance i).left.qn = V.qn ∧ (V.advance i).left.wn = V.wn ∧
    (V.advance i).left.kn = V.kn ∧ (V.advance i).left.q.rf = V.q.rf ∧ (V.advance i).left.p.mask = V.p.mask ∧
    (V.advance i).left.s = { V.s with fresh := (V.advance i).s.fresh, time := (V.advance i).s.time } := by
  unfold View.left
  split <;> exact ⟨rfl, rfl, rfl, rfl, rfl, rfl, rfl⟩

/-- A slot whose threads have all ended: what is left of its warp. -/
structure SlotEnded (V : View) (t0 t : State) (w : Warp) : Prop where
  state : t = t0.setQuad V.cn V.qn (((V.quadIn t0).vacated V.wn V.kn).setWarp V.wn w)
  slot : w.div.slot V.kn = none
  tids : w.tids = V.w.tids.filter fun t => !V.em.getLsbD t.1
  progress : w.div.progress = 0
  rewind : w.rewind = .full

section
variable {V : View} {i : Info} {t0 : State} (hw : V.warpIn t0 = some (V.advance i).left.warp) (hem : V.em ≠ 0#32) (hmask : V.p.mask = V.em)
  (hr : V.w.remap = []) (ho : V.w.div.slot (other V.kn) = none) (hn : V.w.div.n = 0) (hkn : V.kn ≤ 1) (hh : V.w.trap.halted = false)
include hw hem hmask hr ho hn hkn hh

theorem slot_ended : ∃ w, SlotEnded V t0 ((t0.endLanes V.cn V.qn V.wn V.kn V.em).afterExit V.cn V.qn V.wn V.kn) w := by
  obtain ⟨hr', ht', htr', hn', ho'⟩ := V.warp_advance_left i
  obtain ⟨-, -, -, hk, -, hm, -⟩ := V.advance_left_names i
  have hp : (V.advance i).left.warp.div.slot V.kn = some { (V.advance i).left.p with run := some (V.advance i).left.r } := by
    rw [← hk]; exact Div.slot_setSlot _ _ _
  have hm' : ({ (V.advance i).left.p with run := some (V.advance i).left.r } : Path).mask = V.em := hm.trans hmask
  have := endLanes_afterExit hw (hr'.trans hr) hp (hm'.symm ▸ hem) rfl hkn (ho'.trans ho) (hn'.trans hn) (htr' ▸ hh)
  rw [hm'] at this
  exact ⟨_, this, Warp.ended_slot, congrArg (List.filter _) ht', Warp.ended_progress, rfl⟩
end

section
variable {V : View} {t0 t : State} {w : Warp} (h : SlotEnded V t0 t w)
include h

theorem SlotEnded.warpIn : V.warpIn t = some w := by
  rw [h.state]
  simp [View.warpIn, State.warp_eq, State.setQuad]
theorem SlotEnded.rf : (V.quadIn t).rf = (V.quadIn t0).rf := by
  rw [h.state]
  simp [View.quadIn, State.setQuad, Quadrant.setWarp, Quadrant.vacated_rf]
theorem SlotEnded.over : ∀ x ∈ w.tids, V.em.getLsbD x.1 = false := by
  rw [h.tids]
  simp
end

/-- EXIT of every lane of the only path of a warp with no crew member. -/
theorem exit_ends {s : State} {V : View} (h : Ready s (infoOf .exit) true V) (hem : V.em ≠ 0#32) (hmask : V.p.mask = V.em)
    (hr : V.w.remap = []) (ho : V.w.div.slot (other V.kn) = none) (hn : V.w.div.n = 0) (hkn : V.kn ≤ 1) (hh : V.w.trap.halted = false) :
    ∃ t w, exec .exit s = .next t ∧ SlotEnded V (V.advance (infoOf .exit)).left.put t w := by
  obtain ⟨hcn, hqn, hwn, -⟩ := V.advance_left_names (infoOf .exit)
  obtain ⟨w, hw⟩ := slot_ended (t0 := (V.advance (infoOf .exit)).left.put) (i := infoOf .exit)
    (by rw [View.warpIn, ← hcn, ← hqn, ← hwn]; exact View.warp_putWarp _ _) hem hmask hr ho hn hkn hh
  exact ⟨_, w, issue_ready h _, hw⟩

section
variable {s : State} {V : View} {d a : BitVec 7} {p : BitVec 4}

/-- The threads that HAMP deposits: themselves, under their keys, to go on past its trailer. -/
def View.hamped (V : View) (d a : BitVec 7) (p : BitVec 4) : List ThreadRec :=
  V.records (fun _ => (V.p.pc + 8).signExtend 64) (fun l => ((V.w.tids.find? fun t => t.1 == l).map (·.2)).getD 0)
    (fun l => some ((V.lane a.toNat l).extractLsb' 0 16)) d p

theorem exec_hamp (h : Ready s (infoOf (.hamp d a p)) (payloadOk d p) V) : exec (.hamp d a p) s =
    .next (V.depositing (V.hamped d a p) (V.advance (infoOf (.hamp d a p))).left.put fun s =>
      (s.endLanes V.cn V.qn V.wn V.kn V.em).afterExit V.cn V.qn V.wn V.kn) := by
  refine (issue_ready h _).trans (congrArg Host.Outcome.next ?_)
  unfold View.hamp View.hamped
  refine congrArg (fun ts => V.depositing ts (V.advance (infoOf (.hamp d a p))).left.put _) (List.map_congr_left fun l _ => ?_)
  dsimp only
  rw [BitVec.setWidth_eq_extractLsb' (show 16 ≤ 32 by decide)]
  cases V.w.tids.find? fun t => t.1 == l <;> rfl

/-- No place for a thread stops HAMP. -/
theorem hamp_full (h : Ready s (infoOf (.hamp d a p)) (payloadOk d p) V)
    (ht : (V.hampRetired (.hamp d a p)).depositAll V.cn (V.hamped d a p) = none) : exec (.hamp d a p) s = .next (V.fault 0x0C1 0#64 V.em) := by
  rw [exec_hamp h, View.depositing]
  unfold View.hampRetired at ht
  rw [ht]

/-- Where no thread goes to the spill region the deposit writes nothing. -/
theorem hamp_places (h : Ready s (infoOf (.hamp d a p)) (payloadOk d p) V) {t0 : State}
    (ht : (V.hampRetired (.hamp d a p)).depositAll V.cn (V.hamped d a p) = some t0) (hnew : V.spilledNow t0 = []) :
    exec (.hamp d a p) s = .next ((t0.endLanes V.cn V.qn V.wn V.kn V.em).afterExit V.cn V.qn V.wn V.kn) := by
  rw [exec_hamp h, View.depositing]
  unfold View.hampRetired at ht
  unfold View.spilledNow at hnew
  rw [ht]
  simp only [hnew]
  rfl
end

/-- Settles O21: every lane of the path ends, so its slot is vacated and no other path can come there; HAMP deposits before that. -/
theorem threadsEnd : Obligations.ThreadsEnd := by
  intro s V
  refine ⟨fun h hem hmask hr ho hn hkn hh => ?_, fun d a p t0 h hem hmask hr ho hn hkn hh ht hquad hnew => ?_, fun d a p h ht => hamp_full h ht⟩
  · obtain ⟨hcn, hqn, hwn, -, hrf, -, hs⟩ := V.advance_left_names (infoOf .exit)
    obtain ⟨t, w, he, hw⟩ := exit_ends h hem hmask hr ho hn hkn hh
    have hf := State.view_from h.1
    refine ⟨t, w, he, hw.warpIn, hw.slot, hw.over, fun x hx hl => ?_, hw.progress, hw.rewind, ?_, ?_, fun n hne => ?_⟩
    · rw [hw.tids]; simpa [hl] using hx
    · rw [hw.rf, ← hrf, View.quadIn, ← hcn, ← hqn]
      exact (congrArg Quadrant.rf (View.putWarp_quad (V.advance (infoOf .exit)).left (V.advance (infoOf .exit)).left.warp) :)
    · rw [hw.state, ← hf.state]
      simp only [View.put, View.putWarp, State.setQuad, State.setCore, hs]
    · rw [hw.state, State.setQuad, State.core_setCore, if_neg hne]
      refine (View.putWarp_core _ _ n).trans ((if_neg (hcn ▸ hne)).trans ?_)
      rw [hs, hf.state]
      rfl
  · obtain ⟨hcn, hqn, hwn, -, hrf, -⟩ := V.advance_left_names (infoOf (.hamp d a p))
    have hput : V.warpIn (V.hampRetired (.hamp d a p)) = some (V.advance (infoOf (.hamp d a p))).left.warp := by
      have := View.warp_putWarp (V.advance (infoOf (.hamp d a p))).left (V.advance (infoOf (.hamp d a p))).left.warp
      rwa [hcn, hqn, hwn] at this
    obtain ⟨w, hw⟩ := slot_ended (t0 := t0) (i := infoOf (.hamp d a p)) ((congrArg (fun q => q.warps.find V.wn) hquad).trans hput) hem hmask hr ho hn hkn hh
    refine ⟨_, w, hamp_places h ht hnew, hw.warpIn, hw.slot, hw.over, ?_, ?_, ?_, ?_⟩
    · rw [hw.state]; simp [State.setQuad, Core.setQuad]
    · rw [hw.state]; simp [State.setQuad, Core.setQuad]
    · rw [hw.rf, hquad, ← hrf]
      have := congrArg Quadrant.rf (View.putWarp_quad (V.advance (infoOf (.hamp d a p))).left (V.advance (infoOf (.hamp d a p))).left.warp)
      rwa [hcn, hqn] at this
    · rw [hw.state]; rfl
end Sys2Proof.Machine
end

section
/-! SUPPORT. Rotation, giving up a slot, and the ends of waits (R129, R150, R269, R322). -/
namespace Sys2Proof.Machine

/-! ### Bytes that the core's field writes -/

theorem engineWriteFrom_memByte (f fuel : Nat) : ∀ (s : State) (pa : Nat) (bs : List Byte) (a : Nat), a < pa ∨ pa + bs.length ≤ a →
    (s.engineWriteFrom f fuel pa bs).memByte a = s.memByte a := by
  induction fuel with
  | zero => exact fun _ _ _ _ _ => rfl
  | succ fuel ih =>
    intro s pa bs a ha
    unfold State.engineWriteFrom
    split
    · rfl
    · rw [ih _ _ _ _ (by rw [List.length_drop]; omega), memByte_writeLine, if_neg (by rw [List.length_take]; omega)]

theorem engineWrite_memByte {s : State} {f pa a : Nat} {bs : List Byte} (h : a < pa ∨ pa + bs.length ≤ a) :
    (s.engineWrite f pa bs).memByte a = s.memByte a := engineWriteFrom_memByte f _ s pa bs a h

theorem StackEntry.bytes_length (e : StackEntry) : e.bytes.length = 16 := by
  simp [StackEntry.bytes, length_toLe]

/-! ### Rotation -/

/-- The ring's entries in memory whose parked flag is set are written anew without it. -/
def State.unparkRing (s : State) (cn : Nat) (pas : List Nat) : State :=
  pas.foldl (fun s pa => let e := stackEntry (s.memNat pa 16)
    if e.parked then s.engineWrite (fieldOf cn) pa { e with parked := false }.bytes else s) s

theorem State.unparkRing_memByte (s : State) (cn : Nat) {pas : List Nat} {a : Nat} (h : ∀ pa ∈ pas, a < pa ∨ pa + 16 ≤ a) :
    (s.unparkRing cn pas).memByte a = s.memByte a := by
  refine List.foldlRecOn (motive := fun t : State => t.memByte a = s.memByte a) pas _ rfl fun t ht pa hpa => ?_
  dsimp only
  split
  · exact (engineWrite_memByte (by rw [StackEntry.bytes_length]; exact h pa hpa)).trans ht
  · exact ht

/-- A path with its parked flag cleared. -/
def Path.unparked (p : Path) : Path := { p with parked := false }
/-- A warp whose rotation has chosen the slot that gives up its path. -/
def Warp.chosen (w : Warp) : Warp :=
  { w with div := { w.div with
      s0 := w.div.s0.map Path.unparked, s1 := w.div.s1.map Path.unparked, top := w.div.top.map fun (e : StackEntry) => { e with parked := false }
      giveUp := if ((w.div.s1.map (·.issued)).getD 0) < ((w.div.s0.map (·.issued)).getD 0) then some 0 else some 1 } }

/-- A warp whose slot has given up its path for the entry on top of its stack. -/
def Warp.givenUp (w : Warp) (k : Nat) (p : Path) (e : StackEntry) (b : Nat) (next : StackEntry) : Warp :=
  ((Warp.unstack { w with div := ({ w.div with b := b, top := some next } : Div).setSlot k (some (e.path w.stackRest)) } e).stack p).resetProgress

/-- With nothing on the stack only the slots change. -/
theorem Warp.chosen_empty {w : Warp} (hg : w.div.giveUp = none) (ht : w.div.top = none) : w.chosen.resetProgress =
    { w with div := { w.div with s0 := w.div.s0.map fun p => { p with parked := false, issued := 0 }
                                 s1 := w.div.s1.map fun p => { p with parked := false, issued := 0 }, progress := 0 } } := by
  simp only [Warp.resetProgress, Warp.chosen, ht, hg, Option.map_map, Option.map_none]
  rfl

section
variable {s : State} {cn qn wn : Nat} {w : Warp} (hw : s.warp cn qn wn = some w)
include hw

theorem exec_rotation {pas : List Nat} (hp : w.div.progress = 65536) (hg : w.div.giveUp = none) (hh : w.trap.halted = false)
    (hr : s.regionAll cn w.mgmt w.ctx w.launch true ((List.range (w.div.n - if w.div.top.isSome then 1 else 0)).map fun i =>
      s.ringVa cn qn wn w (w.div.b + i)) = .ok pas) :
    exec (.rotation cn qn wn) s = .next (if w.div.n = 0 then ((s.unparkRing cn pas).setWarp cn qn wn w.chosen.resetProgress).settle cn qn wn
      else (s.unparkRing cn pas).setWarp cn qn wn w.chosen) := by
  have hrot : s.rotate cn qn wn w = if w.div.n = 0 then ((s.unparkRing cn pas).setWarp cn qn wn w.chosen.resetProgress).settle cn qn wn
      else (s.unparkRing cn pas).setWarp cn qn wn w.chosen := by
    unfold State.rotate Warp.chosen
    simp only [hr]
    cases w.div.s0 <;> cases w.div.s1 <;> rfl
  refine (show _ = execRotation cn qn wn s from rfl).trans ?_
  simp only [execRotation, hw]
  rw [if_pos ⟨hp, hg, hh⟩, hrot]

theorem exec_rotationGiveUp {k : Nat} {p : Path} {e next : StackEntry} {pa : Nat} (hk : w.div.giveUp = some k) (hp : w.div.slot k = some p)
    (hrun : p.run = none) (hre : p.replay = none) (hwait : p.wait = .none) (hh : w.trap.halted = false) (hhan : w.handler = none)
    (he : w.div.top = some e)
    (hnext : (w.div.n = 1 ∧ next = p.entry) ∨ (w.div.n ≠ 1 ∧ s.readRing cn qn wn w (w.div.b + w.div.n - 2) p.pc = .inl next))
    (hr : s.regionAll cn w.mgmt w.ctx w.launch true [s.ringVa cn qn wn w ((w.div.b + s.ringK w.launch - 1) % s.ringK w.launch)] = .ok [pa]) :
    exec (.rotationGiveUp cn qn wn) s = .next (((s.engineWrite (fieldOf cn) pa p.entry.bytes).setWarp cn qn wn
      (w.givenUp k p e ((w.div.b + s.ringK w.launch - 1) % s.ringK w.launch) next)).settle cn qn wn) := by
  have hidle : p.idle = true := by simp [Path.idle, hrun, hre, hwait]
  have hread : (if w.div.n = 1 then .inl p.entry else s.readRing cn qn wn w (w.div.b + w.div.n - 2) p.pc) = .inl next := by
    rcases hnext with ⟨h1, rfl⟩ | ⟨h1, h2⟩
    · exact if_pos h1
    · exact (if_neg h1).trans h2
  have hgive : s.giveUp cn qn wn w k = ((s.engineWrite (fieldOf cn) pa p.entry.bytes).setWarp cn qn wn
      (w.givenUp k p e ((w.div.b + s.ringK w.launch - 1) % s.ringK w.launch) next)).settle cn qn wn := by
    simp only [State.giveUp, hp, he, hread, hr]
    rfl
  refine (show _ = execRotationGiveUp cn qn wn s from rfl).trans ?_
  simp only [execRotationGiveUp, hw, hk, hp]
  rw [if_pos ⟨hidle, hh, hhan⟩, hgive]
end

/-- What a warp holds whose slot has given up its path. -/
theorem Warp.givenUp_holds {w : Warp} {k b : Nat} {p : Path} {e next : StackEntry} (hk : k ≤ 1) :
    (w.givenUp k p e b next).div.slot k = some { freshPath e.pc e.mask e.depth e.parked with dbgRest := w.stackRest &&& e.mask } ∧
      (w.givenUp k p e b next).div.slot (other k) = (w.div.slot (other k)).map (fun p => { p with issued := 0 }) ∧
      (w.givenUp k p e b next).div.b = b ∧ (w.givenUp k p e b next).div.n = w.div.n ∧ (w.givenUp k p e b next).div.top = some next ∧
      (w.givenUp k p e b next).div.progress = 0 ∧ (w.givenUp k p e b next).div.giveUp = none ∧
      w.givenUp k p e b next = { w with div := (w.givenUp k p e b next).div, stackRest := (w.stackRest &&& ~~~e.mask) ||| p.dbgRest } := by
  rcases Nat.le_one_iff_eq_zero_or_eq_one.mp hk with rfl | rfl <;> exact ⟨rfl, rfl, rfl, rfl, rfl, rfl, rfl, rfl⟩

/-! ### The ends of waits -/

theorem State.viewAt_names {s : State} {cn qn wn kn : Nat} {V : View} (h : s.viewAt cn qn wn kn = some V) :
    V.cn = cn ∧ V.qn = qn ∧ V.wn = wn ∧ V.kn = kn := by
  simp only [State.viewAt] at h
  split at h
  · cases h
  · split at h
    · cases h
    · split at h
      · cases h
      · obtain rfl := Option.some.inj h
        exact ⟨rfl, rfl, rfl, rfl⟩

section
variable {s : State} {cn qn wn n : Nat} {w : Warp} (hw : s.warp cn qn wn = some w) (hn : w.nap = some (n, true))
include hw hn

theorem nap_stays (hc : s.comes cn n = false) : exec (.napEnd cn qn wn) s = .next s := by
  refine (show _ = execNapEnd cn qn wn s from rfl).trans ?_
  simp only [execNapEnd, hw, hn, hc, Bool.not_false, if_true]
theorem nap_ends (hc : s.comes cn n = true) : exec (.napEnd cn qn wn) s = .next ((s.setWarp cn qn wn { w with nap := none }).passTo cn n) := by
  refine (show _ = execNapEnd cn qn wn s from rfl).trans ?_
  simp only [execNapEnd, hw, hn, hc, Bool.not_true, Bool.false_eq_true, if_false]
end

section
variable {s : State} {cn qn wn kn : Nat} {V : View} (hv : s.viewAt cn qn wn kn = some V)
include hv

theorem lrel_ends {h : Nat} (hwait : V.p.wait = .lrel h) (hb : s.handleBusy cn h = false) (hh : V.w.trap.halted = false) :
    exec (.lrelWaitEnd cn qn wn kn) s = .next (V.releaseEnd h) := by
  refine (show _ = execLrelWaitEnd cn qn wn kn s from rfl).trans ?_
  simp only [execLrelWaitEnd, hv, hwait, hb, hh, Bool.or_self, Bool.false_eq_true, if_false]

theorem join_proceeds {x : Word} {xs : List Word} (hwait : V.p.wait = .join) (hx : V.r.words = x :: xs) (hf : s.warpFree cn V.c V.w = true) :
    exec (.joinProceed cn qn wn kn) s = .next (if V.joinWaits (V.lane (x.extractLsb' 7 7 : BitVec 7).toNat) then s
      else ({ V with p := { V.p with wait := .none } } : View).put) := by
  refine (show _ = execJoinProceed cn qn wn kn s from rfl).trans ?_
  simp only [execJoinProceed, hv, hwait, hx, hf, Bool.true_eq_false, decide_false, Bool.false_or]
  split <;> rfl
end

/-- A word that has issued is passed by its slot, whose path waits for nothing. -/
theorem View.retire_slot (V : View) (i : Info) : ∃ p, (((V.retire i).warp V.cn V.qn V.wn).bind fun w => w.div.slot V.kn) = some p ∧
    p.wait = .none ∧ p.pc = V.p.pc + 4 := by
  refine ⟨{ (V.advance i).p with run := some (V.advance i).r }, ?_, rfl, rfl⟩
  rw [show (V.retire i).warp V.cn V.qn V.wn = some (V.advance i).warp from View.warp_putWarp (V.advance i) _]
  exact Div.slot_setSlot _ _ _

theorem View.retire_res (V : View) (i : Info) : ((V.retire i).core V.cn).res = V.c.res :=
  (congrArg Core.res (View.core_put (V.advance i)) :)

theorem View.releaseEnd_res (V : View) {h : Nat} {r : Reservation} (hr : V.c.res.find h = some r) :
    (∀ x, r.releasing = some x → x.point = none → ((V.releaseEnd h).core V.cn).res.find h = none) ∧
    (∀ x y, r.releasing = some x → x.point = some y →
      ((V.releaseEnd h).core V.cn).res.find h = some { r with releasing := some { x with waited := true } }) := by
  refine ⟨fun x hx hp => ?_, fun x y hx hp => ?_⟩
  · refine (congrArg (fun m => Table.find m h) (View.retire_res _ _)).trans ?_
    simp [hr, hx, hp, Core.freeHandle]
  · refine (congrArg (fun m => Table.find m h) (View.retire_res _ _)).trans ?_
    simp [hr, hx, hp]

/-- Settles O38: the rewritten ring entries and the chosen slot; the exchange with the ring; naps; the waits of LREL and JOIN. -/
theorem waitsAndRotationsEnd : Obligations.WaitsAndRotationsEnd := by
  intro s cn qn wn w hw
  refine ⟨fun pas hp hg hh hn hr => ?_, fun hp hg hh hn ht => ?_, fun k p e pa next hk hk1 hp hrun hre hwait hh hhan he hn hnext hr => ?_,
    fun n hn hc => nap_stays hw hn hc, fun n hn hc => ?_, fun V kn h hv hkn hwait hb hh => ?_, fun V kn x xs hv hwait hx hf => ?_⟩
  · refine ⟨_, w.chosen, (exec_rotation hw hp hg hh hr).trans (congrArg _ (if_neg hn)), State.warp_setWarp _ _ _ _ _, hp, rfl, rfl, rfl, rfl, rfl, ?_,
      fun a _ ha => State.unparkRing_memByte s cn ha⟩
    exact (apply_ite some _ _ _).symm
  · have hr : s.regionAll cn w.mgmt w.ctx w.launch true ((List.range (w.div.n - if w.div.top.isSome then 1 else 0)).map fun i =>
        s.ringVa cn qn wn w (w.div.b + i)) = .ok [] := by
      rw [hn, Nat.zero_sub]
      rfl
    rw [exec_rotation hw hp hg hh hr, if_pos hn, Warp.chosen_empty hg ht]
    rfl
  · exact ⟨_, exec_rotationGiveUp hw hk hp hrun hre hwait hh hhan he hnext hr, Warp.givenUp_holds hk1⟩
  · refine ⟨_, nap_ends hw hn hc, ?_, ?_, Nat.le_add_right _ _, rfl⟩
    · rw [State.warp, passTo_core]
      exact State.warp_setWarp s cn qn wn _
    · rw [passTo_core]
      simp [State.setWarp, State.setQuad, Core.setQuad]
  · obtain ⟨rfl, rfl, rfl, rfl⟩ := State.viewAt_names hv
    have hf := State.viewAt_from hv
    obtain rfl : V.w = w := Option.some.inj (hf.warp.symm.trans (by rw [hf.quad, hf.core]; exact hw))
    obtain ⟨p, hp, hw', hpc⟩ := View.retire_slot _ _
    refine ⟨_, p, lrel_ends hv hwait hb hh, hp, hw', hpc, fun r hr => View.releaseEnd_res V (hf.core ▸ hr)⟩
  · obtain ⟨rfl, rfl, rfl, rfl⟩ := State.viewAt_names hv
    have hview := State.viewAt_from hv
    obtain rfl : V.w = w := Option.some.inj (hview.warp.symm.trans (by rw [hview.quad, hview.core]; exact hw))
    have := join_proceeds hv hwait hx (hview.core ▸ hf)
    exact ⟨fun hj => this.trans (congrArg _ (if_pos hj)), fun hj => this.trans (congrArg _ (if_neg (ne_true_of_eq_false hj)))⟩
end Sys2Proof.Machine
end

section
/-! SUPPORT. Crews, bins and warps that come and go (R117, R118, R123, R127, R249, R351). -/
namespace Sys2Proof.Machine

/-! ### The payloads of fresh threads -/

/-- A thread's payload, written down its lane from a row. -/
def payInto (base l : Nat) (vs : List Word) (rf : Sparse Word) : Sparse Word :=
  ((List.range vs.length).zip vs).foldl (fun rf p => Sparse.set 0#32 rf ((base + p.1) * 32 + l) p.2) rf
/-- The payloads of some threads, each down its own lane. -/
def payAll (base : Nat) (xs : List (Nat × Word × List Word)) (rf : Sparse Word) : Sparse Word :=
  xs.foldl (fun rf t => payInto base t.1 t.2.2 rf) rf

theorem mem_range_zip {α : Type} {vs : List α} {k : Nat} {v : α} : (k, v) ∈ (List.range vs.length).zip vs ↔ vs[k]? = some v := by
  rw [List.mem_iff_getElem?]
  constructor
  · rintro ⟨i, hi⟩
    obtain ⟨hr, hv⟩ := List.getElem?_zip_eq_some.mp hi
    obtain ⟨_, he⟩ := List.getElem?_eq_some_iff.mp hr
    rw [List.getElem_range] at he
    rwa [show i = k from he] at hv
  · intro h
    obtain ⟨hlt, -⟩ := List.getElem?_eq_some_iff.mp h
    exact ⟨k, List.getElem?_zip_eq_some.mpr ⟨by simp [hlt], h⟩⟩

theorem map_fst_range_zip {α : Type} (vs : List α) : ((List.range vs.length).zip vs).map Prod.fst = List.range vs.length :=
  List.map_fst_zip (by simp)

theorem get_payInto (base l : Nat) (vs : List Word) (rf : Sparse Word) :
    (∀ k v, vs[k]? = some v → Sparse.get 0#32 (payInto base l vs rf) ((base + k) * 32 + l) = v) ∧
    ∀ j, (∀ k, k < vs.length → (base + k) * 32 + l ≠ j) → Sparse.get 0#32 (payInto base l vs rf) j = Sparse.get 0#32 rf j := by
  have hnodup : (((List.range vs.length).zip vs).map fun p => (base + p.1) * 32 + l).Nodup := by
    have : (fun p : Nat × Word => (base + p.1) * 32 + l) = (fun k => (base + k) * 32 + l) ∘ Prod.fst := rfl
    rw [this, ← List.map_map, map_fst_range_zip]
    exact List.nodup_range.map fun a b (hab : (base + a) * 32 + l = (base + b) * 32 + l) => by omega
  obtain ⟨hval, hother⟩ := get_foldl_setAt (fun p : Nat × Word => (base + p.1) * 32 + l) (·.2) _ rf hnodup
  refine ⟨fun k v hv => hval (k, v) (mem_range_zip.mpr hv), fun j hj => hother j fun p hp => hj p.1 ?_⟩
  exact (List.getElem?_eq_some_iff.mp (mem_range_zip.mp (show (p.1, p.2) ∈ _ from hp))).1

theorem get_payAll_other (base : Nat) {j : Nat} (xs : List (Nat × Word × List Word))
    (hj : ∀ x ∈ xs, ∀ k, k < x.2.2.length → (base + k) * 32 + x.1 ≠ j) (rf : Sparse Word) : Sparse.get 0#32 (payAll base xs rf) j = Sparse.get 0#32 rf j :=
  List.foldlRecOn (motive := fun r => Sparse.get 0#32 r j = Sparse.get 0#32 rf j) xs _ rfl fun r hr x hx =>
    ((get_payInto base x.1 x.2.2 r).2 j (hj x hx)).trans hr

/-- In a thread's lane stand the words of its payload, and what stood there past them. -/
theorem get_payAll (base k : Nat) : ∀ (xs : List (Nat × Word × List Word)) (rf : Sparse Word), (xs.map Prod.fst).Nodup → (∀ x ∈ xs, x.1 < 32) → ∀ x ∈ xs,
    Sparse.get 0#32 (payAll base xs rf) ((base + k) * 32 + x.1) = (x.2.2[k]?).getD (Sparse.get 0#32 rf ((base + k) * 32 + x.1)) := by
  intro xs
  induction xs with
  | nil => exact fun _ _ _ _ => nofun
  | cons y ys ih =>
    intro rf hn hlt x hx
    rw [List.map_cons, List.nodup_cons] at hn
    have hrest : ∀ x ∈ ys, x.1 < 32 := fun x hx => hlt x (List.mem_cons_of_mem _ hx)
    have hpay := get_payInto base y.1 y.2.2 rf
    change Sparse.get 0#32 (payAll base ys (payInto base y.1 y.2.2 rf)) _ = _
    rcases List.mem_cons.mp hx with rfl | hx
    · rw [get_payAll_other base ys fun z hz m _ he => ?_]
      · cases hk : x.2.2[k]? with
        | some v => exact hpay.1 k v hk
        | none => exact hpay.2 _ fun m hm he => absurd (List.getElem?_eq_none_iff.mp hk) (by omega)
      · have := hrest z hz
        have := hlt x (List.mem_cons_self ..)
        exact hn.1 (List.mem_map.mpr ⟨z, hz, by omega⟩)
    · rw [ih _ hn.2 hrest x hx, hpay.2]
      intro m hm he
      have := hlt y (List.mem_cons_self ..)
      have := hrest x hx
      exact hn.1 (List.mem_map.mpr ⟨x, hx, by omega⟩)

/-! ### The place of a fresh warp -/

/-- A place has a free warp slot, and its rows lie among the lane rows and apart from its uniform pair. -/
theorem Quadrant.placeFor_spec {q : Quadrant} {n wn base ubase : Nat} (h : q.placeFor n = some (wn, base, ubase)) :
    wn < 16 ∧ q.warps.find wn = none ∧ base % 8 = 0 ∧ base + n ≤ 952 ∧ (ubase + 2 ≤ base ∨ base + n ≤ ubase) := by
  unfold Quadrant.placeFor at h
  split at h
  · next x b hx hb =>
    split at h
    · next u hu =>
      obtain ⟨rfl, rfl, rfl⟩ : x = wn ∧ b = base ∧ u = ubase := by simpa using h
      have hx' := List.find?_some hx
      have hb' := List.find?_some hb
      have hu' := List.find?_some hu
      have hmem := List.mem_of_find?_eq_some hx
      obtain ⟨i, -, rfl⟩ := List.mem_map.mp (List.mem_of_find?_eq_some hb)
      simp only [Option.isNone_iff_eq_none] at hx'
      simp only [Bool.and_eq_true, decide_eq_true_eq, Bool.or_eq_true] at hb' hu'
      exact ⟨List.mem_range.mp hmem, hx', Nat.mul_mod_right 8 i, hb'.1, hu'.2⟩
    · cases h
  · cases h

theorem Core.placeFor_spec {c : Core} {n qn wn base ubase : Nat} (h : c.placeFor n = some (qn, wn, base, ubase)) :
    qn < 4 ∧ (c.quad qn).placeFor n = some (wn, base, ubase) := by
  obtain ⟨q, hq, hp⟩ := List.exists_of_findSome?_eq_some h
  obtain ⟨i, -, rfl⟩ := List.mem_map.mp hq
  obtain ⟨x, hx, he⟩ := Option.map_eq_some_iff.mp hp
  obtain ⟨rfl, rfl⟩ := Prod.mk.inj he
  exact ⟨Nat.mod_lt _ (by decide), hx⟩

theorem createWarp_spec {s t : State} {cn l : Nat} {L : Launch} {entry : Pc} {ts : List (Word × List Word)} (hl : s.launches.find l = some L)
    (h : s.createWarp cn l entry ts = some t) : ∃ qn wn base ubase, (s.core cn).placeFor L.rcd.allot = some (qn, wn, base, ubase) ∧
      t.time = s.time ∧ t.warp cn qn wn = some (freshWarp s.nextUid L.ctx l L.rcd.allot base ubase (ts.map (·.1)) entry) ∧
      ((t.core cn).quad qn).rf = payAll base ((List.range ts.length).zip ts) (((s.core cn).quad qn).zeroRows base L.rcd.allot ubase).rf := by
  simp only [State.createWarp, hl] at h
  split at h
  · cases h
  · next qn wn base ubase hp =>
    obtain rfl := Option.some.inj h
    refine ⟨qn, wn, base, ubase, hp, rfl, ?_, ?_⟩
    · rw [State.warp_eq]
      change ((((s.setCore cn _).core cn).quad qn).warps.find wn) = _
      rw [State.core_setCore, if_pos rfl]
      change Table.find (Quadrant.warps (Core.quad (Core.setQuad _ qn _) qn)) wn = _
      rw [Core.quad_setQuad, if_pos rfl]
      exact (Quadrant.find_setWarp _ _ _ _).trans (if_pos rfl)
    · change (((s.setCore cn _).core cn).quad qn).rf = _
      rw [State.core_setCore, if_pos rfl]
      change Quadrant.rf (Core.quad (Core.setQuad _ qn _) qn) = _
      rw [Core.quad_setQuad, if_pos rfl]
      rfl

/-- A row of a fresh warp holds the words of its threads' payloads, and is zero past them. -/
theorem freshRows {q : Quadrant} {base n ubase : Nat} {ts : List (Word × List Word)} (hts : ts.length ≤ 32) {i k : Nat} {x : Word × List Word}
    (hx : ts[i]? = some x) (hk : k < n) :
    Sparse.get 0#32 (payAll base ((List.range ts.length).zip ts) (q.zeroRows base n ubase).rf) ((base + k) * 32 + i) = x.2.getD k 0#32 := by
  have hlt (y : Nat × Word × List Word) (hy : y ∈ (List.range ts.length).zip ts) : y.1 < 32 := by
    obtain ⟨h, -⟩ := List.getElem?_eq_some_iff.mp (mem_range_zip.mp (show (y.1, y.2) ∈ _ from hy))
    omega
  have hi : i < 32 := hlt (i, x) (mem_range_zip.mpr hx)
  have := get_payAll base k _ (q.zeroRows base n ubase).rf (by rw [map_fst_range_zip]; exact List.nodup_range) hlt (i, x) (mem_range_zip.mpr hx)
  rw [this, Quadrant.zeroRows, Sparse.get_clear, if_pos, List.getD_eq_getElem?_getD]
  simp only [Bool.or_eq_true, Bool.and_eq_true, decide_eq_true_eq]
  exact .inl ⟨by omega, by omega⟩

/-- The uniform pair of a fresh warp is zero where it lies apart from the rows of the payloads. -/
theorem freshUniforms {q : Quadrant} {base n ubase : Nat} {ts : List (Word × List Word)} (hts : ts.length ≤ 32) (hn : 8 ≤ n)
    (hpay : ∀ x ∈ ts, x.2.length ≤ 8) (hu : ubase + 2 ≤ base ∨ base + n ≤ ubase) {i : Nat} (hi : i < 64) :
    Sparse.get 0#32 (payAll base ((List.range ts.length).zip ts) (q.zeroRows base n ubase).rf) (ubase * 32 + i) = 0#32 := by
  rw [get_payAll_other, Quadrant.zeroRows, Sparse.get_clear, if_pos]
  · simp only [Bool.or_eq_true, Bool.and_eq_true, decide_eq_true_eq]
    exact .inr ⟨by omega, by omega⟩
  · intro y hy k hk he
    have hy' := mem_range_zip.mp (show (y.1, y.2) ∈ _ from hy)
    obtain ⟨h, -⟩ := List.getElem?_eq_some_iff.mp hy'
    have := hpay y.2 (List.mem_of_getElem? hy')
    omega

/-! ### A warp that ends -/

/-- Faults that are counted change the records of launches, and nothing else. -/
theorem countFaults_rest {α : Type} (s : State) (l : Nat) (ds : List α) : ds.foldl (fun s _ => s.countFault l) s =
    { s with launches := (ds.foldl (fun s _ => s.countFault l) s).launches } := by
  refine List.foldlRecOn (motive := fun t : State => t = { s with launches := t.launches }) ds _ rfl fun t ht d _ => ?_
  unfold State.countFault
  split
  · rw [ht]
  · exact ht

theorem Quadrant.deselectWarp_rf (q : Quadrant) (n : Nat) : (q.deselectWarp n).rf = q.rf := by
  unfold Quadrant.deselectWarp
  split
  · split <;> rfl
  · rfl

/-- A quadrant that a warp has left: its rows are zero. -/
def Quadrant.without (q : Quadrant) (wn : Nat) (w : Warp) : Quadrant :=
  { (q.zeroRows w.base w.allot w.ubase).deselectWarp wn with
    mq := q.mq.filter fun o => !(o.uid == w.uid), warps := q.warps.drop wn, temps := q.temps.filter fun t => t.2.1 ≠ wn }

theorem Quadrant.without_rf (q : Quadrant) (wn : Nat) (w : Warp) : (q.without wn w).rf = (q.zeroRows w.base w.allot w.ubase).rf :=
  Quadrant.deselectWarp_rf _ _

theorem exec_warpEnd {s : State} {cn qn wn : Nat} {w : Warp} (hw : s.warp cn qn wn = some w) (he : w.canEnd (s.core cn) = true) :
    exec (.warpEnd cn qn wn) s = .next (({ s with launches := (w.trap.deferred.foldl (fun s _ => s.countFault w.launch) s).launches } : State).setQuad cn qn
      (((s.core cn).quad qn).without wn w)) := by
  refine (show _ = execWarpEnd cn qn wn s from rfl).trans ?_
  simp only [execWarpEnd, hw, he, Bool.true_eq_false, if_false]
  rw [countFaults_rest]
  rfl

/-- The end of a warp leaves no row of it, and changes no row beside its own and its pair's. -/
theorem Quadrant.without_rows (q : Quadrant) (wn : Nat) (w : Warp) :
    (∀ i, w.base * 32 ≤ i → i < (w.base + w.allot) * 32 → Sparse.get 0#32 (q.without wn w).rf i = 0#32) ∧
    ∀ i, i < w.base * 32 ∨ (w.base + w.allot) * 32 ≤ i → i < w.ubase * 32 ∨ (w.ubase + 2) * 32 ≤ i →
      Sparse.get 0#32 (q.without wn w).rf i = Sparse.get 0#32 q.rf i := by
  refine ⟨fun i h1 h2 => ?_, fun i h1 h2 => ?_⟩
  · rw [Quadrant.without_rf, Quadrant.zeroRows, Sparse.get_clear, if_pos (by simp [h1, h2])]
  · rw [Quadrant.without_rf, Quadrant.zeroRows, Sparse.get_clear, if_neg]
    simp only [Bool.or_eq_true, Bool.and_eq_true, decide_eq_true_eq]
    omega

theorem Quadrant.without_warps (q : Quadrant) (wn : Nat) (w : Warp) (n : Nat) :
    (q.without wn w).warps.find n = if n = wn then none else q.warps.find n := Table.find_drop _ _ _

theorem Warp.canEnd_of {w : Warp} {c : Core} (h0 : w.div.s0 = none) (h1 : w.div.s1 = none) (hn : w.div.n = 0) (hp : w.pend = []) (hs : w.sb = [])
    (hh : w.trap.halted = false) (ha : ∀ o, c.array = some o → o.uid ≠ w.uid)
    (hq : ∀ q ∈ c.quads, ∀ o ∈ q.2.mq, o.uid = w.uid → o.blocked = true) : w.canEnd c = true := by
  have harray : (c.array.any fun o => o.uid == w.uid) = false := by
    cases hc : c.array with
    | none => rfl
    | some o => simpa using ha o hc
  have hquads : (c.quads.any fun q => q.2.mq.any fun o => (o.uid == w.uid) && !o.blocked) = false := by
    simpa using fun a q hmem o ho hu => hq (a, q) hmem o ho hu
  simp [Warp.canEnd, h0, h1, hn, hp, hs, hh, harray, hquads]

/-! ### Bins and launches -/

section
variable {s : State} {cn : Nat}

theorem exec_crewRelease {k : Nat} {x : Crew} (hk : (s.core cn).crews.find k = some x) (hm : x.members = []) (hn : (s.core cn).crewNamed k = false) :
    exec (.crewRelease cn k) s = .next (s.setCore cn ((s.core cn).releaseCrew k)) := by
  refine (show _ = execCrewRelease cn k s from rfl).trans ?_
  simp [execCrewRelease, hk, hm, hn]

section
variable {n : Nat} {b : Bin} (hb : (s.core cn).bins.find n = some b)
include hb

theorem exec_binTimerExpiry {t : ThreadRec} {L : Launch} (ht : b.threads.head? = some t) (hl : s.launches.find b.launch = some L)
    (hc : s.comes cn (t.cycle + L.rcd.timer) = true) : exec (.binTimerExpiry cn n) s =
      .next ((s.setCore cn { s.core cn with bins := (s.core cn).bins.put n { b with expired := true } }).passTo cn (t.cycle + L.rcd.timer)) := by
  refine (show _ = execBinTimerExpiry cn n s from rfl).trans ?_
  simp only [execBinTimerExpiry, hb, ht, hl, hc, Bool.not_true, Bool.false_eq_true, if_false]

theorem exec_binLaunch_empty (ht : b.threads = []) : exec (.binLaunch cn n) s = .next (s.refillBin cn n b none) := by
  refine (show _ = execBinLaunch cn n s from rfl).trans ?_
  simp only [execBinLaunch, hb, ht, List.isEmpty_nil, if_true]

theorem exec_binLaunch {L : Launch} {t : State} (hl : s.launches.find b.launch = some L) (ht : b.threads ≠ []) (hr : b.ready = true)
    (hold : ∀ x ∈ (s.core cn).bins, x.2.ready = true → b.age ≤ x.2.age) (hrel : (s.core cn).released b.threads = true)
    (hh : s.holdsCore cn L.ctx = true)
    (hc : s.createWarp cn b.launch (b.entry.extractLsb' 0 48) (b.threads.map fun t => (t.tid, t.payload)) = some t) :
    exec (.binLaunch cn n) s = .next (t.refillBin cn n { b with threads := [], expired := false } (some s.nextUid)) := by
  have hempty : b.threads.isEmpty = false := by simpa using ht
  have holder : ((s.core cn).bins.any fun x => x.1 != n && x.2.ready && decide (x.2.age < b.age)) = false := by
    rw [List.any_eq_false]
    intro x hx
    by_cases hxr : x.2.ready = true
    · simp [hxr, hold x hx hxr]
    · simp [hxr]
  refine (show _ = execBinLaunch cn n s from rfl).trans ?_
  simp only [execBinLaunch, hb, hempty, hl, hr, holder, hrel, hh, hc, Bool.not_true, Bool.or_self, Bool.false_eq_true, if_false]
end

theorem refillBin_reads {n ctx : Nat} {b : Bin} {l : Option Nat}
    (hctx : ctx = ((((s.core cn).refilling b).head?.bind fun x => s.launches.find x.launch).map (·.ctx)).getD 0)
    (hf : s.recordFault cn ctx .read ((s.core cn).refilling b) = none) (hm : s.recordsMoving cn ctx .read ((s.core cn).refilling b) = [])
    (hc : s.claimRead cn ctx (s.recordLines cn ctx ((s.core cn).refilling b)) = none) :
    s.refillBin cn n b l = s.setCore cn ((s.core cn).refill n b) := by
  subst hctx
  simp only [State.refillBin, hf, hm, hc]

theorem exec_launchWarpCreate {l w : Nat} {L : Launch} {t : State} (hl : s.launches.find l = some L) (hw : L.nextWarp cn = some w) (hs : L.started = true)
    (hc : L.complete = false) (he : L.ended = false) (hh : s.holdsCore cn L.ctx = true)
    (ht : s.createWarp cn l ((L.codeStart + BitVec.ofNat 64 L.entryOff).extractLsb' 0 48)
      ((List.range (min 32 (L.rcd.threads - 32 * w))).map fun i => (BitVec.ofNat 32 (32 * w + i), L.rcd.payload)) = some t) :
    exec (.launchWarpCreate l cn) s = .next { t with launches := t.launches.put l { L with
      created := L.created ++ [w], startTime := if L.created = [] then t.time else L.startTime } } := by
  refine (show _ = execLaunchWarpCreate l cn s from rfl).trans ?_
  simp only [execLaunchWarpCreate, hl, hw, hs, hc, he, hh, ht, Bool.not_true, Bool.or_self, Bool.false_eq_true, if_false]
end

/-- What the threads of a fresh warp find. -/
theorem createWarp_holds {s t : State} {cn l : Nat} {L : Launch} {entry : Pc} {ts : List (Word × List Word)} (hl : s.launches.find l = some L)
    (hts : ts.length ≤ 32) (ha : 8 ≤ L.rcd.allot) (hpay : ∀ x ∈ ts, x.2.length ≤ 8) (h : s.createWarp cn l entry ts = some t) :
    ∃ qn wn w p, qn < 4 ∧ wn < 16 ∧ s.warp cn qn wn = none ∧ t.warp cn qn wn = some w ∧ w.uid = s.nextUid ∧ w.ctx = L.ctx ∧ w.launch = l ∧ w.allot = L.rcd.allot ∧
      w.base % 8 = 0 ∧ w.base + w.allot ≤ 952 ∧ w.fmode = 0 ∧ w.div.s0 = some p ∧ w.div.s1 = none ∧ w.div.n = 0 ∧ p.pc = entry ∧
      (∀ i, i < 32 → (p.mask.getLsbD i = true ↔ i < ts.length)) ∧ w.tids = (List.range ts.length).zip (ts.map (·.1)) ∧
      (∀ i x k, ts[i]? = some x → k < w.allot → Sparse.get 0#32 ((t.core cn).quad qn).rf ((w.base + k) * 32 + i) = x.2.getD k 0#32) ∧
      (∀ i, i < 64 → Sparse.get 0#32 ((t.core cn).quad qn).rf (w.ubase * 32 + i) = 0#32) := by
  obtain ⟨qn, wn, base, ubase, hp, -, hw, hrf⟩ := createWarp_spec hl h
  obtain ⟨hqn, hq⟩ := Core.placeFor_spec hp
  obtain ⟨hwn, hfree, hbase, htop, hapart⟩ := Quadrant.placeFor_spec hq
  refine ⟨qn, wn, _, freshPath entry (maskOf fun l => decide (l < (ts.map (·.1)).length)) 0 false, hqn, hwn, hfree, hw, rfl, rfl, rfl, rfl, hbase, htop, rfl,
    rfl, rfl, rfl, rfl, fun i hi => ?_, ?_, fun i x k hx hk => ?_, fun i hi => ?_⟩
  · simp [freshPath, getLsbD_maskOf _ hi]
  · simp [freshWarp]
  · rw [hrf]; exact freshRows hts hx hk
  · rw [hrf]; exact freshUniforms hts ha hpay hapart hi

/-- Settles O39: each event by what makes it due; the place that a fresh warp takes keeps its payload rows apart from its uniform pair. -/
theorem warpsComeAndGo : Obligations.WarpsComeAndGo := by
  intro s cn
  refine ⟨fun k x hk hm hn => exec_crewRelease hk hm hn, fun n b t L hb ht hl hc => ?_, fun n b hb ht => exec_binLaunch_empty hb ht,
    fun n b L t hb hl ht hr hold hrel hh hc => exec_binLaunch hb hl ht hr hold hrel hh hc,
    fun n b ctx l hctx hf hm hc => refillBin_reads hctx hf hm hc, fun l L w t hl hw hs hc he hh ht => ?_,
    fun l L entry ts t hl hts ha hpay h => createWarp_holds hl hts ha hpay h, fun qn wn w hw h0 h1 hn hp hs hh ha hq => ?_⟩
  · refine ⟨_, exec_binTimerExpiry hb ht hl hc, ?_, ?_, rfl⟩
    · rw [passTo_core]; simp
    · rw [passTo_core]; simp
  · obtain ⟨-, -, -, -, -, htime, -⟩ := createWarp_spec hl ht
    exact ⟨_, _, exec_launchWarpCreate hl hw hs hc he hh ht, rfl, (Table.find_put _ _ _ _).trans (if_pos rfl), rfl, fun h => (if_pos h).trans htime⟩
  · obtain ⟨hrows, hothers⟩ := Quadrant.without_rows ((s.core cn).quad qn) wn w
    refine ⟨_, exec_warpEnd hw (Warp.canEnd_of h0 h1 hn hp hs hh ha hq), ?_, fun k hk => ?_, ?_, ?_, rfl⟩
    · rw [State.warp_eq, State.quad_setQuad, Quadrant.without_warps, if_pos rfl]
    · rw [State.warp_eq, State.quad_setQuad, Quadrant.without_warps, if_neg hk, State.warp_eq]
    · rw [State.quad_setQuad]; exact hrows
    · rw [State.quad_setQuad]; exact hothers
end Sys2Proof.Machine
end

section
/-! SUPPORT. Picks of another lane's value and votes (R158, R166, R167). -/
namespace Sys2Proof.Machine

/-! ### Picks -/

theorem laneAbove_eq (l n : Nat) : laneAbove l n = if l + n ≤ 31 then l + n else l := by
  simp only [laneAbove, show l + n < 32 ↔ l + n ≤ 31 by omega]

/-! ### Votes -/

theorem View.getLsbD_ballot (V : View) (a : BitVec 7) {l : Nat} (hl : l < 32) :
    (V.ballot a).getLsbD l = true ↔ V.em.getLsbD l = true ∧ V.lane a.toNat l ≠ 0#32 := by
  simp [View.ballot, getLsbD_maskOf _ hl]

/-- Some lane of EM votes, where the ballot is not empty. -/
theorem View.ballot_ne_zero (V : View) (a : BitVec 7) :
    (V.ballot a != 0#32) = true ↔ ∃ l, l < 32 ∧ V.em.getLsbD l = true ∧ V.lane a.toNat l ≠ 0#32 := by
  rw [bne_iff_ne]
  constructor
  · intro h
    by_contra hnone
    push Not at hnone
    exact h (maskOf_eq_zero fun l hl => by simpa using hnone l hl)
  · rintro ⟨l, hl, hv⟩
    exact maskOf_ne_zero ⟨l, hl, by simpa using hv⟩

/-- Every lane of EM votes, where the ballot is EM. -/
theorem View.ballot_eq_em (V : View) (a : BitVec 7) :
    (V.ballot a == V.em) = true ↔ ∀ l, l < 32 → V.em.getLsbD l = true → V.em.getLsbD l = true ∧ V.lane a.toNat l ≠ 0#32 := by
  rw [beq_iff_eq]
  constructor
  · intro h l hl hem
    rwa [← V.getLsbD_ballot a hl, h]
  · intro h
    refine BitVec.eq_of_getLsbD_eq fun l hl => Bool.eq_iff_iff.mpr ?_
    rw [V.getLsbD_ballot a hl]
    exact ⟨And.left, h l hl⟩

/-- A word that writes the truth of a condition on the warp's lanes. -/
theorem truthWord {s : State} {V : View} {i : Instr} {u : BitVec 6} {f : View → Bool} {p : Prop} (h : Ready s (infoOf i) true V)
    (he : exec i s = issueReg (infoOf i) s fun V => V.writeUni u.toNat (truth (f V))) (hi : (infoOf i).rc = false) (hp : f V = true ↔ p) :
    (p → Computes i s V ⟨[], [(u.toNat, 1#32)]⟩) ∧ (¬ p → Computes i s V ⟨[], [(u.toNat, 0#32)]⟩) := by
  have hc := computes_uni h u.isLt he hi
  refine ⟨fun hv => ?_, fun hv => ?_⟩
  · rwa [truth, if_pos (hp.mpr hv)] at hc
  · rwa [truth, if_neg (mt hp.mp hv)] at hc

/-- Settles O13: a pick writes a row read at another lane; the votes compare the ballot with 0 and with EM. -/
theorem picksAndVotes : Obligations.PicksAndVotes := fun _ V _ a _ _ _ =>
  ⟨rowWord_of rfl rfl rfl fun _ => rfl, rowWord_of rfl rfl rfl fun _ => rfl, rowWord_of rfl rfl rfl fun _ => rfl,
    rowWord_of rfl rfl rfl fun l => congrArg (V.lane a.toNat) (laneAbove_eq l _), rowWord_of rfl rfl rfl fun _ => rfl,
    maskWord_of rfl rfl rfl fun _ => bne_iff_ne,
    ⟨rfl, fun h => truthWord h rfl rfl (V.ballot_ne_zero a)⟩, ⟨rfl, fun h => truthWord h rfl rfl (V.ballot_eq_em a)⟩⟩

end Sys2Proof.Machine
end

section
/-! SUPPORT. What a transfer leaves: its warp and its path, with everything else as every word leaves it (R144, R145, R161). -/
namespace Sys2Proof.Machine

/-! ### The state that a word leaves which moves its path -/

/-- A warp after a word of the issuing slot, but for its paths: windows, the progress counter, what is visible and passed comparators go on. -/
def View.warpIssued (V : View) (i : Info) (b : Warp) : Warp :=
  { b with div := { b.div with progress := min 65536 (b.div.progress + 1) }, pend := b.pend.map (LongOp.tick V.kn)
           shadow := (b.shadow.map (LongOp.tick V.kn)).filter fun o => decide (0 < o.window), vis := ({ V with w := b } : View).noteVis i
           passed := b.passed.filter fun x => !(x.2.1 == V.p.pc && V.p.mask.getLsbD x.2.2) }
/-- A path after the issuing word, with the rest of the run to issue. -/
def View.pathIssued (V : View) (p0 : Path) : Path :=
  { p0 with wait := .none, replay := none, issued := V.p.issued + 1, run := some { V.r with words := V.r.words.tail } }
/-- The issuing warp after a word that leaves it as `b` and its path as `p0`. -/
def View.warpLeft (V : View) (i : Info) (b : Warp) (p0 : Path) : Warp :=
  { V.warpIssued i b with div := (V.warpIssued i b).div.setSlot V.kn (some (V.pathIssued p0)) }
/-- The state after a word that leaves the issuing warp as `b` and its path as `p0`. -/
def View.leaves (V : View) (i : Info) (b : Warp) (p0 : Path) : State := (V.advance i).putWarp (V.warpLeft i b p0)

section
variable {s : State} {V : View} {i : Info} {b : Warp} {p0 : Path}

/-- Whatever a word makes of its warp, nothing else changes but what every word moves on. -/
theorem View.putWarp_frame (h : V.From s) (w : Warp) : WarpOnly V s i ((V.advance i).putWarp w) := by
  obtain ⟨hs, hc, hq, -⟩ := h
  subst hs
  refine ⟨⟨?_, ?_, ?_, ?_⟩, ?_, ?_, ?_, ?_⟩
  · simp [View.advance, View.putWarp, State.setCore]
  · intro a ha
    simp [View.advance, View.putWarp, State.setCore, State.memByte, ha]
  · simp [View.advance, View.putWarp]
  · intro n hn
    simp [View.putWarp, View.advance, State.core, State.setCore, hn]
  · simp [View.putWarp, View.advance, Core.setQuad]
  · intro k hk
    simp [View.putWarp, View.advance, hk]
    rfl
  · simp [View.putWarp, View.advance, View.quadIn, View.turned]
    split <;> rfl
  · intro k hk
    simp [View.putWarp, View.advance, View.turned, State.warp_eq, hk]

theorem View.putWarp_rf (V : View) (i : Info) (w : Warp) : (V.quadIn ((V.advance i).putWarp w)).rf = V.q.rf := by
  simp [View.quadIn, View.putWarp, View.advance, Quadrant.setWarp, View.turned]

theorem View.sameWarp_leaves (V : View) (i : Info) (b : Warp) (p0 : Path) : SameWarp V i b p0 (V.leaves i b p0) (V.warpLeft i b p0) := by
  refine ⟨View.warp_putWarp _ _, rfl, ?_, other_slot _ _ _, V.pathIssued p0, Div.slot_setSlot _ _ _, _, rfl, rfl⟩
  unfold View.warpLeft View.warpIssued Div.setSlot
  split <;> rfl

/-- A word that leaves its warp as `b` and its path as `p0`, and no register changed. -/
theorem View.leaves_holds (h : V.From s) (hb : b.undef = V.w.undef ∧ b.tstRanges = V.w.tstRanges) :
    ∃ w p r, WarpOnly V s i (V.leaves i b p0) ∧ SameWarp V i b p0 (V.leaves i b p0) w ∧ w.div.slot V.kn = some p ∧ p.run = some r ∧
      Holds V ⟨[], []⟩ (V.leaves i b p0) w r :=
  ⟨_, _, _, V.putWarp_frame h _, V.sameWarp_leaves i b p0, Div.slot_setSlot _ _ _, rfl, (Effects.none V).holds (V.putWarp_rf i _) hb.1 hb.2 rfl rfl⟩
end

section
variable {i : Instr} {s : State} {V : View} {b : Warp} {p0 : Path} (h : V.From s) (hb : b.undef = V.w.undef ∧ b.tstRanges = V.w.tstRanges)
include h hb

theorem does_leaves (he : exec i s = .next (V.leaves (infoOf i) b p0)) : Does i s V b p0 ⟨[], []⟩ := by
  obtain ⟨w, p, r, hframe, hw, hp, hrun, hx⟩ := View.leaves_holds (i := infoOf i) (p0 := p0) h hb
  exact ⟨_, w, p, r, he, hframe, hw, hp, hrun, hx⟩

theorem transfers_leaves {writes : List (Nat × List Byte)}
    (he : exec i s = .next (writes.foldl (fun t x => t.engineWrite (fieldOf V.cn) x.1 x.2) (V.leaves (infoOf i) b p0))) : Transfers i s V b p0 writes := by
  obtain ⟨w, p, r, hframe, hw, hp, hrun, hx⟩ := View.leaves_holds (i := infoOf i) (p0 := p0) h hb
  exact ⟨_, w, p, r, hframe, hw, hp, hrun, hx, he⟩
end

/-! ### Windows that end -/

/-- A window of a slot that has ended is at its end whether the word has been counted or not. -/
theorem View.warpIssued_endSlotWindows (V : View) (i : Info) (b : Warp) (k : Nat) :
    (V.warpIssued i b).endSlotWindows k = V.warpIssued i (b.endSlotWindows k) := by
  have hpend : (fun o : LongOp => if o.slot = k then { o with window := 0 } else o) ∘ LongOp.tick V.kn =
      LongOp.tick V.kn ∘ fun o : LongOp => if o.slot = k then { o with window := 0 } else o := by
    funext o
    simp only [Function.comp_apply, LongOp.tick]
    by_cases hk : o.slot = k <;> by_cases hv : o.slot = V.kn <;> simp_all
  have hslot : (fun o : LongOp => decide (o.slot ≠ k)) ∘ LongOp.tick V.kn = fun o : LongOp => decide (o.slot ≠ k) := by
    funext o
    simp only [Function.comp_apply, LongOp.tick]
    split <;> rfl
  have hshadow : ((b.shadow.map (LongOp.tick V.kn)).filter fun o => decide (0 < o.window)).filter (fun o => decide (o.slot ≠ k)) =
      ((b.shadow.filter fun o => decide (o.slot ≠ k)).map (LongOp.tick V.kn)).filter fun o => decide (0 < o.window) := by
    rw [List.filter_comm, List.filter_map, hslot]
  unfold View.warpIssued Warp.endSlotWindows
  simp only [List.map_map, hpend, hshadow]
  rfl

/-- The put of a word that has issued and has then changed its warp and its path. -/
theorem View.put_advance {V : View} {i : Info} {b : Warp} {p p0 : Path} (hp : { p with run := some { V.r with words := V.r.words.tail } } = V.pathIssued p0) :
    ({ V.advance i with w := V.warpIssued i b, p := p } : View).put = V.leaves i b p0 := by
  unfold View.leaves View.warpLeft
  rw [← hp]
  rfl

section
variable {V : View} {i : Info} (hi : i.rc = false)
include hi

theorem View.advance_w : (V.advance i).w = V.warpIssued i V.w := by
  simp only [View.advance, hi]
  rfl

theorem View.put_goto_falls (pc : Pc) : (V.goto i pc false).put = V.leaves i V.w (V.movedTo pc false) := by
  rw [← View.put_advance (p := { (V.advance i).p with pc := pc, ends := .moved, after := 0 }) (by rfl), ← View.advance_w hi]
  rfl

theorem View.put_goto_taken (pc : Pc) : (V.goto i pc true).put = V.leaves i V.windowsEnded (V.movedTo pc true) := by
  rw [← View.put_advance (p := { (V.advance i).p with pc := pc, ends := .moved, after := V.c.cycle + 2 }) (by rfl), View.windowsEnded,
    ← View.warpIssued_endSlotWindows, ← View.advance_w hi]
  rfl
end

/-! ### Groups of lanes that go to their places (R145) -/

/-- The warp with the windows of the slots ended to which lanes go. -/
def View.endedFor (V : View) (b : Warp) (rest : List (Word × Pc)) : Warp :=
  if V.toOther rest = [] then b.endSlotWindows V.kn else (b.endSlotWindows V.kn).endSlotWindows (other V.kn)
/-- The warp of which groups of lanes have gone to their places. -/
def View.spreadWarp (V : View) (b : Warp) (depth : Nat) (rest : List (Word × Pc)) : Warp :=
  { V.endedFor b rest with div := (V.w.div.push (V.pushed depth rest)).given (other V.kn) depth (V.afterMove true) (V.toOther rest) }

theorem Div.push_progress (d : Div) (n : Nat) (es : List StackEntry) :
    ({ d with progress := n } : Div).push es = { d.push es with progress := n } ∧ (d.push es).progress = d.progress := by
  unfold Div.push
  cases es.getLast? <;> exact ⟨rfl, rfl⟩
theorem Div.given_progress (d : Div) (n k depth after : Nat) (gs : List (Word × Pc)) :
    ({ d with progress := n } : Div).given k depth after gs = { d.given k depth after gs with progress := n } ∧ (d.given k depth after gs).progress = d.progress := by
  cases gs with
  | nil => exact ⟨rfl, rfl⟩
  | cons g gs => unfold Div.given Div.setSlot; by_cases hk : k = 0 <;> simp [hk]

/-- The divergence state goes to its places, and the word is counted: in either order. -/
theorem View.warpIssued_push (V : View) (i : Info) (b : Warp) (es : List StackEntry) (k depth after : Nat) (gs : List (Word × Pc)) :
    V.warpIssued i { b with div := (b.div.push es).given k depth after gs } =
      { V.warpIssued i b with div := ((V.warpIssued i b).div.push es).given k depth after gs } := by
  have hdiv : ((V.warpIssued i b).div.push es).given k depth after gs =
      { (b.div.push es).given k depth after gs with progress := min 65536 (b.div.progress + 1) } := by
    rw [← ((b.div.push es).given_progress _ k depth after gs).1, ← (Div.push_progress b.div _ es).1]
    rfl
  rw [hdiv]
  unfold View.warpIssued
  rw [((b.div.push es).given_progress 0 k depth after gs).2, (Div.push_progress b.div 0 es).2]
  rfl

theorem View.endedFor_warpIssued (V : View) (i : Info) (b : Warp) (rest : List (Word × Pc)) :
    V.endedFor (V.warpIssued i b) rest = V.warpIssued i (V.endedFor b rest) := by
  unfold View.endedFor
  split <;> simp only [View.warpIssued_endSlotWindows]

theorem View.warpIssued_spreadWarp {V : View} {i : Info} (hi : i.rc = false) (depth : Nat) (rest : List (Word × Pc)) :
    V.warpIssued i (V.spreadWarp V.w depth rest) = { V.endedFor (V.advance i).w rest with
      div := ((V.advance i).w.div.push (V.pushed depth rest)).given (other V.kn) depth (V.afterMove true) (V.toOther rest) } := by
  have hdiv : ∀ b, (V.endedFor b rest).div = b.div := fun b => by unfold View.endedFor; split <;> rfl
  rw [View.spreadWarp, ← hdiv V.w, View.warpIssued_push, ← View.endedFor_warpIssued, ← View.advance_w hi, hdiv]

section
variable {V : View} {i : Info} {taken : Bool} {m0 : Word} {t0 : Pc} {rest : List (Word × Pc)} {depth : Nat} {frames : List (Nat × List Byte)}

theorem View.spread_full (h : V.s.ringK V.w.launch < V.w.div.n + (V.pushed depth rest).length) :
    V.spread i taken ((m0, t0) :: rest) depth frames = V.fault 0x0C5 0#64 V.em := by
  unfold View.pushed at h
  simp only [← Option.isNone_iff_eq_none] at h
  simp only [View.spread, h, if_true]

theorem View.spread_goes (hi : i.rc = false) {pas : List Nat} (h : V.w.div.n + (V.pushed depth rest).length ≤ V.s.ringK V.w.launch)
    (hpas : V.s.regionAll V.cn V.w.mgmt V.w.ctx V.w.launch true ((V.ringWrites (V.pushed depth rest)).map (·.1)) = .ok pas) :
    V.spread i taken ((m0, t0) :: rest) depth frames =
      (pas.zip ((V.ringWrites (V.pushed depth rest)).map fun x => x.2.bytes) ++ frames).foldl (fun t x => t.engineWrite (fieldOf V.cn) x.1 x.2)
        (V.leaves i (V.spreadWarp V.w depth rest) (V.movedGroup m0 t0 depth taken)) := by
  have htoY : (if (V.w.div.slot (other V.kn)).isNone then rest.take 1 else []) = V.toOther rest := by
    simp only [View.toOther, Option.isNone_iff_eq_none]
  have hpushed : ((if (V.w.div.slot (other V.kn)).isNone then rest.drop 1 else rest).reverse.map fun g =>
      ({ pc := g.2, depth := depth, parked := false, mask := g.1 } : StackEntry)) = V.pushed depth rest := by
    simp only [View.pushed, Option.isNone_iff_eq_none]
  unfold View.ringWrites at *
  unfold View.spread
  dsimp only
  rw [htoY, hpushed, if_neg (Nat.not_lt.mpr h), hpas]
  dsimp only
  rw [← View.put_advance (p := { V.movedGroup m0 t0 depth taken with wait := .none, replay := none, issued := V.p.issued + 1 }) (by rfl),
    View.warpIssued_spreadWarp hi]
  unfold View.endedFor
  cases V.toOther rest <;> rfl
end

theorem regionAll_nil (s : State) (cn : Nat) (mgmt : Bool) (ctx launch : Nat) (write : Bool) : s.regionAll cn mgmt ctx launch write [] = .ok [] := by
  cases write <;> rfl

end Sys2Proof.Machine
end

section
/-! SUPPORT. The uniform branches and BRV (R144, R148, R161, R162). -/
namespace Sys2Proof.Machine

/-! ### Transfers of the whole slot -/

/-- A uniform transfer is taken where its condition holds, and falls through where it does not. -/
theorem uniformBranch_does {i : Instr} {s : State} {V : View} {c : View → Bool} {tgt : View → Pc} {p : Prop} (h : Ready s (infoOf i) true V)
    (he : exec i s = issue (infoOf i) true s fun V => V.uniformBranch (infoOf i) (c V) (tgt V)) (hi : (infoOf i).rc = false) (hp : c V = true ↔ p) :
    (p → Does i s V V.windowsEnded (V.movedTo (tgt V) true) ⟨[], []⟩) ∧ (¬ p → Does i s V V.w (V.movedTo V.fallThrough false) ⟨[], []⟩) := by
  have hv := State.view_from h.1
  have he := he.trans (issue_ready h _)
  refine ⟨fun ht => does_leaves hv ⟨rfl, rfl⟩ ?_, fun ht => does_leaves hv ⟨rfl, rfl⟩ ?_⟩
  · rw [he, View.uniformBranch, if_pos (hp.mpr ht), View.put_goto_taken hi]
  · rw [he, View.uniformBranch, if_neg (mt hp.mp ht), View.fallThrough, View.put_goto_falls hi]

theorem getLsbD_31_iff (a : Word) : a.getLsbD 31 = true ↔ a.toInt < 0 := by
  rw [← BitVec.msb_eq_getLsbD_last (x := a), BitVec.msb_eq_toInt, decide_eq_true_iff]

/-! ### BRV -/

section
variable {s : State} {V : View} {m : BitVec 6} {o : BitVec 15} (h : Ready s (infoOf (.brv m o)) true V)
include h

theorem exec_brv : exec (.brv m o) s = .next (V.branch (infoOf (.brv m o)) (V.uni m.toNat) (V.p.pc + 4#48 * o.signExtend 48)) := issue_ready h _

theorem brv_falls (ht : V.em &&& V.uni m.toNat = 0#32) : Does (.brv m o) s V V.w (V.movedTo V.fallThrough false) ⟨[], []⟩ := by
  refine does_leaves (State.view_from h.1) ⟨rfl, rfl⟩ ?_
  rw [exec_brv h, View.branch, if_pos ht, View.fallThrough, View.put_goto_falls rfl]

theorem brv_goes (ht : V.em &&& V.uni m.toNat ≠ 0#32) (hone : V.em &&& ~~~V.uni m.toNat = 0#32 ∨ V.p.pc + 4#48 * o.signExtend 48 = V.fallThrough) :
    Does (.brv m o) s V V.windowsEnded (V.movedTo (V.p.pc + 4#48 * o.signExtend 48) true) ⟨[], []⟩ := by
  unfold View.fallThrough at hone
  refine does_leaves (State.view_from h.1) ⟨rfl, rfl⟩ ?_
  rw [exec_brv h, View.branch, if_neg ht, if_pos hone, View.put_goto_taken rfl]

section
variable (ht : V.em &&& V.uni m.toNat ≠ 0#32) (htgt : V.p.pc + 4#48 * o.signExtend 48 ≠ V.fallThrough) (hr : V.em &&& ~~~V.uni m.toNat ≠ 0#32)
include ht htgt hr

/-- A BRV whose lanes part. -/
theorem exec_brv_parts : exec (.brv m o) s = .next (V.spread (infoOf (.brv m o)) false
    ((V.em &&& ~~~V.uni m.toNat, V.fallThrough) :: [(V.em &&& V.uni m.toNat, V.p.pc + 4#48 * o.signExtend 48)]) V.p.depth []) := by
  unfold View.fallThrough at htgt ⊢
  rw [exec_brv h, View.branch, if_neg ht, if_neg (not_or.mpr ⟨hr, htgt⟩)]

/-- The taken lanes go to the other slot, which is empty. -/
theorem brv_toOther (ho : V.w.div.slot (other V.kn) = none) (hroom : V.w.div.n ≤ s.ringK V.w.launch) :
    Does (.brv m o) s V { V.bothEnded with div := V.w.div.setSlot (other V.kn) (some { freshPath (V.p.pc + 4#48 * o.signExtend 48) (V.em &&& V.uni m.toNat)
      V.p.depth false with after := V.afterMove true }) } (V.movedGroup (V.em &&& ~~~V.uni m.toNat) V.fallThrough V.p.depth false) ⟨[], []⟩ := by
  have hv := State.view_from h.1
  have hto : ∀ g, V.toOther [g] = [g] := fun g => by simp [View.toOther, ho]
  have hpushed : ∀ d g, V.pushed d [g] = [] := fun d g => by simp [View.pushed, ho]
  refine does_leaves hv ⟨rfl, rfl⟩ ((exec_brv_parts h ht htgt hr).trans (congrArg _ ?_))
  rw [View.spread_goes (pas := []) rfl (by simpa [hpushed, hv.state] using hroom) (by rw [hpushed]; exact regionAll_nil _ _ _ _ _ _)]
  simp only [hpushed, View.spreadWarp, View.endedFor, hto]
  rfl

section
variable (ho : V.w.div.slot (other V.kn) ≠ none) {entry : StackEntry}
  (hentry : entry = { pc := V.p.pc + 4#48 * o.signExtend 48, depth := V.p.depth, parked := false, mask := V.em &&& V.uni m.toNat })
include ho

section
include hentry
/-- The entry that a BRV pushes, and its place. -/
theorem exec_brv_pushes (hroom : V.w.div.n < s.ringK V.w.launch) {pas : List Nat} {ws : List (Dword × StackEntry)}
    (hws : s.pushWrites V.cn V.qn V.wn V.w [entry] = ws) (hpas : s.regionAll V.cn V.w.mgmt V.w.ctx V.w.launch true (ws.map (·.1)) = .ok pas) :
    Transfers (.brv m o) s V { V.windowsEnded with div := { V.w.div with n := V.w.div.n + 1, top := some entry } }
      (V.movedGroup (V.em &&& ~~~V.uni m.toNat) V.fallThrough V.p.depth false) (pas.zip (ws.map fun x => x.2.bytes)) := by
  have hv := State.view_from h.1
  have hto : ∀ g, V.toOther [g] = [] := fun g => by simp [View.toOther, ho]
  have hpushed : V.pushed V.p.depth [(V.em &&& V.uni m.toNat, V.p.pc + 4#48 * o.signExtend 48)] = [entry] := by simp [View.pushed, ho, hentry]
  have hring : V.ringWrites [entry] = ws := by simp [View.ringWrites, hv.state, hws]
  refine transfers_leaves hv ?_ ((exec_brv_parts h ht htgt hr).trans (congrArg _ ?_))
  · exact ⟨rfl, rfl⟩
  rw [View.spread_goes (pas := pas) rfl (by simpa [hpushed, hv.state] using hroom) (by rw [hpushed, hring, hv.state]; exact hpas)]
  simp only [hpushed, hring, View.spreadWarp, View.endedFor, hto, List.append_nil]
  rfl

/-- With an empty stack, or its top in the ring, the entry stays on chip. -/
theorem brv_pushes (hroom : V.w.div.n < s.ringK V.w.launch) (htop : V.w.div.n = 0 ∨ V.w.div.top = none) :
    Does (.brv m o) s V { V.windowsEnded with div := { V.w.div with n := V.w.div.n + 1, top := some entry } }
      (V.movedGroup (V.em &&& ~~~V.uni m.toNat) V.fallThrough V.p.depth false) ⟨[], []⟩ := by
  have hnone : ∀ e, s.pushWrites V.cn V.qn V.wn V.w [e] = [] := fun e => by
    rcases htop with hn | hn <;> simp [State.pushWrites, hn]
  obtain ⟨s1, w, p, r, hframe, hw, hp, hrun, hx, he⟩ := exec_brv_pushes h ht htgt hr ho hentry hroom (hnone _) (regionAll_nil _ _ _ _ _ _)
  exact ⟨s1, w, p, r, he, hframe, hw, hp, hrun, hx⟩

/-- The top on chip goes to the ring. -/
theorem brv_pushesTop (hroom : V.w.div.n < s.ringK V.w.launch) (hn : V.w.div.n ≠ 0) {e : StackEntry} {pa : Nat} (htop : V.w.div.top = some e)
    (hpa : s.regionAll V.cn V.w.mgmt V.w.ctx V.w.launch true [s.ringVa V.cn V.qn V.wn V.w (V.w.div.b + V.w.div.n - 1)] = .ok [pa]) :
    Transfers (.brv m o) s V { V.windowsEnded with div := { V.w.div with n := V.w.div.n + 1, top := some entry } }
      (V.movedGroup (V.em &&& ~~~V.uni m.toNat) V.fallThrough V.p.depth false) [(pa, e.bytes)] := by
  refine exec_brv_pushes h ht htgt hr ho hentry hroom (ws := [(s.ringVa V.cn V.qn V.wn V.w (V.w.div.b + V.w.div.n - 1), e)]) ?_ hpa
  simp [State.pushWrites, hn, htop]

end

theorem brv_full (hfull : s.ringK V.w.launch ≤ V.w.div.n) : exec (.brv m o) s = .next (V.fault 0x0C5 0#64 V.em) := by
  rw [exec_brv_parts h ht htgt hr, View.spread_full]
  simpa [View.pushed, ho, (State.view_from h.1).state] using Nat.lt_succ_of_le hfull
end
end
end

/-- Settles O14: a uniform transfer moves its whole slot; a BRV whose lanes part is a spread of two groups, the taken one after the one that falls through. -/
theorem transfersTaken : Obligations.TransfersTaken := by
  refine ⟨fun s V a o q => ⟨⟨rfl, fun h => ?_⟩, ⟨rfl, fun h => ?_⟩, ⟨rfl, fun h => ?_⟩, ⟨rfl, fun h => ?_⟩⟩, fun s V m o => by
    intro i tgt taken rest entry d h
    exact ⟨brv_falls h, brv_goes h, fun ht htgt hr => brv_toOther h ht htgt hr, fun ht htgt hr ho => brv_pushes h ht htgt hr ho rfl,
      fun ht htgt hr ho hroom hn e pa htop => brv_pushesTop h ht htgt hr ho rfl hroom hn htop, fun ht htgt hr ho => brv_full h ht htgt hr ho⟩⟩
  · exact uniformBranch_does h rfl rfl (iff_of_true rfl trivial)
  · exact uniformBranch_does h rfl rfl beq_iff_eq
  · exact uniformBranch_does h rfl rfl bne_iff_ne
  · exact uniformBranch_does h rfl rfl (getLsbD_31_iff _)

end Sys2Proof.Machine
end

section
/-! SUPPORT. BRC and RCV: words whose paths wait for their crew (R149, R154, R157, R162). -/
namespace Sys2Proof.Machine

/-! ### Crews and their paths -/

theorem lowestLane_eq_none (m : Word) : lowestLane m = none ↔ m = 0#32 := by
  rw [lowestLane, List.head?_eq_none_iff, List.eq_nil_iff_forall_not_mem]
  constructor
  · exact fun h => BitVec.eq_of_getLsbD_eq fun l hl => by simpa [lanesOf_mem, hl] using h l
  · rintro rfl l hl
    simp [lanesOf_mem] at hl

/-- The lowest lane of a mask is one of its lanes. -/
theorem lowestLane_mem {m : Word} {l : Nat} (h : lowestLane m = some l) : l < 32 ∧ m.getLsbD l = true := lanesOf_mem.mp (List.mem_of_head? h)

theorem View.oneCrew_iff {V : View} (hem : V.em ≠ 0#32) {n : Nat} {k : Crew} : V.oneCrew = some (n, k) ↔
    (∀ l, l < 32 → V.em.getLsbD l = true → V.w.crewOf l = some n) ∧ V.c.crews.find n = some k := by
  obtain ⟨l0, hl0⟩ := Option.ne_none_iff_exists'.mp (mt (lowestLane_eq_none V.em).mp hem)
  obtain ⟨hlt, hbit⟩ := lowestLane_mem hl0
  unfold View.oneCrew
  rw [hl0, Option.bind_some]
  cases hc : V.w.crewOf l0 with
  | none => exact iff_of_false nofun fun ⟨h, _⟩ => by simp [h l0 hlt hbit] at hc
  | some x =>
    have hall : ((lanesOf V.em).all fun l => V.w.crewOf l == some x) = true ↔ ∀ l, l < 32 → V.em.getLsbD l = true → V.w.crewOf l = some x := by
      simp [List.all_eq_true, lanesOf_mem]
    dsimp only
    by_cases h : ∀ l, l < 32 → V.em.getLsbD l = true → V.w.crewOf l = some x
    · rw [if_pos (hall.mpr h)]
      constructor
      · intro hk
        obtain ⟨y, hy, hxy⟩ := Option.map_eq_some_iff.mp hk
        obtain ⟨rfl, rfl⟩ := Prod.mk.inj hxy
        exact ⟨h, hy⟩
      · rintro ⟨hn, hk⟩
        obtain rfl : x = n := Option.some.inj (hc.symm.trans (hn l0 hlt hbit))
        rw [hk]; rfl
    · rw [if_neg (mt hall.mp h)]
      refine iff_of_false nofun fun ⟨hn, _⟩ => h ?_
      obtain rfl : x = n := Option.some.inj (hc.symm.trans (hn l0 hlt hbit))
      exact hn

/-- Some path of a warp's two slots. -/
theorem Div.any_slot (d : Div) (f : Nat → Path → Bool) : (d.s0.any (f 0) || d.s1.any (f 1)) = true ↔ ∃ m q, m ≤ 1 ∧ d.slot m = some q ∧ f m q = true := by
  rw [Bool.or_eq_true, Option.any_eq_true, Option.any_eq_true]
  constructor
  · rintro (⟨q, hq, hf⟩ | ⟨q, hq, hf⟩)
    · exact ⟨0, q, by omega, hq, hf⟩
    · exact ⟨1, q, by omega, hq, hf⟩
  · rintro ⟨m, q, hm, hq, hf⟩
    obtain rfl | rfl := Nat.le_one_iff_eq_zero_or_eq_one.mp hm
    · exact .inl ⟨q, hq, hf⟩
    · exact .inr ⟨q, hq, hf⟩

/-- The paths of a crew that a BRC or an RCV looks at. -/
theorem View.crewPath_iff (V : View) (n : Nat) (k : Crew) {f : Path → Bool} {p : Path → Prop} (hp : ∀ q, f q = true ↔ p q) :
    V.c.crewPath n k V.qn V.wn V.kn f = true ↔ OtherPath V n k p := by
  unfold Core.crewPath OtherPath
  rw [List.any_eq_true]
  refine exists_congr fun x => and_congr_right fun _ => ?_
  cases hw : (V.c.quad x.1).warps.find x.2 with
  | none => simp
  | some w =>
    refine (Div.any_slot w.div fun m q => !(x == (V.qn, V.wn) && V.kn == m) && ((lanesOf q.mask).any fun l => w.crewOf l == some n) && f q).trans ?_
    simp only [Bool.and_eq_true, Bool.not_eq_true', Bool.and_eq_false_iff, beq_eq_false_iff_ne, List.any_eq_true, lanesOf_mem, beq_iff_eq, hp,
      Option.some.injEq, and_assoc, ne_eq, not_and_or, eq_comm (a := V.kn)]
    exact ⟨fun ⟨m, q, h⟩ => ⟨w, m, q, rfl, h⟩, fun ⟨_, m, q, hw, h⟩ => ⟨m, q, hw ▸ h⟩⟩

/-! ### BRC -/

theorem View.brcOk_iff {V : View} (hem : V.em ≠ 0#32) : V.brcOk = true ↔ V.p.depth = 0 ∧ V.w.div.slot (other V.kn) = none ∧ V.w.div.n = 0 ∧
    ∃ n k, (∀ l, l < 32 → V.em.getLsbD l = true → V.w.crewOf l = some n) ∧ V.c.crews.find n = some k ∧ k.compacted = false ∧
      ¬ OtherPath V n k V.otherBrc := by
  unfold View.brcOk
  simp only [Bool.and_eq_true, beq_iff_eq, Option.isNone_iff_eq_none, and_assoc]
  refine and_congr_right fun _ => and_congr_right fun _ => and_congr_right fun _ => ?_
  cases hc : V.oneCrew with
  | none => exact iff_of_false nofun fun ⟨n, k, hl, hk, _⟩ => nomatch hc.symm.trans ((View.oneCrew_iff hem).mpr ⟨hl, hk⟩)
  | some x =>
    obtain ⟨n, k⟩ := x
    obtain ⟨hl, hk⟩ := (View.oneCrew_iff hem).mp hc
    rw [Bool.and_eq_true, Bool.not_eq_true', Bool.not_eq_true', ← Bool.not_eq_true (V.c.crewPath _ _ _ _ _ _),
      V.crewPath_iff n k (p := V.otherBrc) fun q => ?_]
    · constructor
      · exact fun ⟨hcomp, hno⟩ => ⟨n, k, hl, hk, hcomp, hno⟩
      · rintro ⟨n', k', hl', hk', hcomp, hno⟩
        obtain ⟨rfl, rfl⟩ := Prod.mk.inj (Option.some.inj (hc.symm.trans ((View.oneCrew_iff hem).mpr ⟨hl', hk'⟩)))
        exact ⟨hcomp, hno⟩
    · simp only [View.otherBrc, Bool.or_eq_true, and_or_left, exists_or]
      refine or_congr ?_ ?_
      · cases q.wait <;> simp
      · cases q.ends <;> simp

theorem View.brcOk_empty {V : View} (hem : V.em = 0#32) : V.brcOk = false := by
  have hnone : V.oneCrew = none := by rw [View.oneCrew, (lowestLane_eq_none _).mpr hem]; rfl
  simp [View.brcOk, hnone]

section
variable {s : State} {V : View} {m : BitVec 6} {o : BitVec 15} (h : Ready s (infoOf (.brc m o)) true V)
include h

theorem brc_refused (hno : V.brcOk = false) : exec (.brc m o) s = .next (V.fault 0x0C7 0#64 V.em) :=
  (issue_ready h _).trans (congrArg _ (if_pos hno))

/-- The path of a BRC goes on in its run, at the end of which it waits. -/
theorem brc_waits {b : Warp} (hok : V.brcOk = true) (hb : b = if V.em &&& V.uni m.toNat = 0#32 then V.w else V.windowsEnded) :
    Does (.brc m o) s V b { V.onward with ends := .brc V.p.pc (V.p.pc + 4#48 * o.signExtend 48) (V.em &&& V.uni m.toNat) } ⟨[], []⟩ := by
  refine does_leaves (State.view_from h.1) ?_ ((issue_ready h _).trans (congrArg _ ((if_neg (by simp [hok])).trans ?_)))
  · rw [hb]; split <;> exact ⟨rfl, rfl⟩
  rw [← View.put_advance (p := { (V.advance (infoOf (.brc m o))).p with ends := .brc V.p.pc (V.p.pc + 4#48 * o.signExtend 48) (V.em &&& V.uni m.toNat) })
    (by rfl), hb]
  dsimp only
  by_cases ht : V.em &&& V.uni m.toNat = 0#32
  · rw [if_pos ht, if_pos ht, ← View.advance_w rfl]; rfl
  · rw [if_neg ht, if_neg ht, View.windowsEnded, ← View.warpIssued_endSlotWindows, ← View.advance_w rfl]; rfl
end

/-! ### RCV -/

theorem View.rcvClash_iff (V : View) : V.rcvClash = true ↔ ∃ l n k, l < 32 ∧ V.em.getLsbD l = true ∧ V.w.crewOf l = some n ∧
    V.c.crews.find n = some k ∧ k.compacted = true ∧ OtherPath V n k V.otherPark := by
  unfold View.rcvClash
  rw [List.any_eq_true]
  refine exists_congr fun l => ?_
  rw [lanesOf_mem, and_assoc]
  cases hc : V.w.crewOf l with
  | none => simp
  | some n =>
    dsimp only
    cases hk : V.c.crews.find n with
    | none => simp [hk]
    | some k =>
      dsimp only
      rw [Bool.and_eq_true, V.crewPath_iff n k (p := V.otherPark) fun q => ?_]
      · simp [hk]
      · simp only [View.otherPark, Bool.or_eq_true, Bool.and_eq_true, Option.isNone_iff_eq_none, bne_iff_ne, beq_iff_eq, Option.any_eq_true, and_assoc]
        rfl

section
variable {s : State} {V : View} (h : Ready s (infoOf .rcv) true V)
include h

theorem rcv_refused (hc : V.rcvClash = true) : exec .rcv s = .next (V.fault 0x0C7 0#64 V.em) := (issue_ready h _).trans (congrArg _ (if_pos hc))

/-- The path of an RCV goes on in its run, at the end of which it parks. -/
theorem rcv_parks (hc : V.rcvClash ≠ true) : Does .rcv s V V.windowsEnded { V.onward with ends := .park, after := V.afterMove true } ⟨[], []⟩ := by
  refine does_leaves (State.view_from h.1) ⟨rfl, rfl⟩ ((issue_ready h _).trans (congrArg _ ((if_neg hc).trans ?_)))
  rw [← View.put_advance (p := { (V.advance (infoOf .rcv)).p with ends := .park, after := V.afterMove true }) (by rfl), View.windowsEnded,
    ← View.warpIssued_endSlotWindows, ← View.advance_w rfl]
  rfl
end

/-- Settles O15: the conditions of a BRC and of an RCV are those that the model checks; either moves nothing but its own path. -/
theorem branchesThatWait : Obligations.BranchesThatWait := by
  refine ⟨fun s V m o => ⟨fun h hem => ⟨fun hmay => brc_waits h ((View.brcOk_iff hem).mpr hmay) rfl, fun hno => brc_refused h ?_⟩,
    fun h => ⟨fun hno => rcv_parks h (mt V.rcvClash_iff.mp hno), fun hclash => rcv_refused h (V.rcvClash_iff.mpr hclash)⟩⟩, fun s V m o h hem => ?_⟩
  · exact Bool.not_eq_true _ ▸ mt (View.brcOk_iff hem).mp hno
  · rw [brc_refused h (View.brcOk_empty hem), hem]

end Sys2Proof.Machine
end

section
/-! SUPPORT. Groups of lanes by address, and where they go (R145). -/
namespace Sys2Proof.Machine

/-! ### Groups by address -/

/-- Put a lane into the group of its address. -/
def insertLane (tgt : Nat → Pc) (gs : List (Word × Pc)) (l : Nat) : List (Word × Pc) :=
  if gs.any fun g => g.2 == tgt l then gs.map fun g => if g.2 = tgt l then (g.1 ||| BitVec.ofNat 32 (2 ^ l), g.2) else g
  else gs.takeWhile (fun g => decide (g.2.toNat < (tgt l).toNat)) ++ [(BitVec.ofNat 32 (2 ^ l), tgt l)] ++
    gs.dropWhile (fun g => decide (g.2.toNat < (tgt l).toNat))
theorem groupLanes_eq (tgt : Nat → Pc) (m : Word) : groupLanes tgt m = (lanesOf m).foldl (insertLane tgt) [] := rfl

/-- The groups stand in ascending order of address. -/
def Ascending (gs : List (Word × Pc)) : Prop := gs.Pairwise fun x y => x.2.toNat < y.2.toNat
/-- A lane stands in a group of an address. -/
def Grouped (gs : List (Word × Pc)) (a : Pc) (l : Nat) : Prop := ∃ g ∈ gs, g.2 = a ∧ g.1.getLsbD l = true

section
variable {tgt : Nat → Pc} {gs : List (Word × Pc)} {j : Nat}

/-- Of ascending groups, those left after the ones below an address are not below it. -/
theorem Ascending.dropWhile_ge (h : Ascending gs) {a : Nat} : ∀ g ∈ gs.dropWhile (fun g => decide (g.2.toNat < a)), a ≤ g.2.toNat := by
  induction gs with
  | nil => simp
  | cons x xs ih =>
    obtain ⟨hx, hxs⟩ := List.pairwise_cons.mp h
    rw [List.dropWhile_cons]
    split
    · exact ih hxs
    · next hnot =>
      have hge : a ≤ x.2.toNat := by simpa using hnot
      intro g hg
      rcases List.mem_cons.mp hg with rfl | hg
      · exact hge
      · exact hge.trans (hx g hg).le

theorem insertLane_ascending (h : Ascending gs) : Ascending (insertLane tgt gs j) := by
  unfold insertLane
  split
  · refine List.pairwise_map.mpr (h.imp fun {x y} hxy => ?_)
    split <;> split <;> exact hxy
  · next hnone =>
    have hne : ∀ g ∈ gs, g.2.toNat ≠ (tgt j).toNat := fun g hg heq => hnone (List.any_eq_true.mpr ⟨g, hg, beq_iff_eq.mpr (BitVec.eq_of_toNat_eq heq)⟩)
    have hbelow : ∀ g ∈ gs.takeWhile (fun g => decide (g.2.toNat < (tgt j).toNat)), g.2.toNat < (tgt j).toNat := fun g hg => by
      simpa using List.mem_takeWhile_imp hg
    have habove : ∀ g ∈ gs.dropWhile (fun g => decide (g.2.toNat < (tgt j).toNat)), (tgt j).toNat < g.2.toNat := fun g hg =>
      (h.dropWhile_ge g hg).lt_of_ne' (hne g ((List.dropWhile_sublist _).subset hg))
    rw [List.append_assoc, List.singleton_append]
    refine List.pairwise_append.mpr ⟨h.sublist (List.takeWhile_sublist _), List.pairwise_cons.mpr ⟨habove, h.sublist (List.dropWhile_sublist _)⟩, ?_⟩
    intro x hx y hy
    rcases List.mem_cons.mp hy with rfl | hy
    · exact hbelow x hx
    · exact (hbelow x hx).trans (habove y hy)

theorem bit_getLsbD {l j : Nat} (hl : l < 32) : (BitVec.ofNat 32 (2 ^ j)).getLsbD l = true ↔ l = j := by
  rw [BitVec.getLsbD_ofNat, Nat.testBit_two_pow, decide_eq_true hl, Bool.true_and, decide_eq_true_iff, eq_comm]

theorem insertLane_grouped {a : Pc} {l : Nat} (hl : l < 32) : Grouped (insertLane tgt gs j) a l ↔ Grouped gs a l ∨ a = tgt j ∧ l = j := by
  unfold insertLane
  split
  · next hsome =>
    obtain ⟨g0, hg0, h0⟩ := List.any_eq_true.mp hsome
    have h0 : g0.2 = tgt j := beq_iff_eq.mp h0
    constructor
    · rintro ⟨g', hg', rfl, hbit⟩
      obtain ⟨g, hg, rfl⟩ := List.mem_map.mp hg'
      split at hbit
      · next heq =>
        rw [if_pos heq]
        rw [BitVec.getLsbD_or, Bool.or_eq_true, bit_getLsbD hl] at hbit
        exact hbit.imp (fun hb => ⟨g, hg, rfl, hb⟩) fun hb => ⟨heq, hb⟩
      · next hneq => rw [if_neg hneq]; exact .inl ⟨g, hg, rfl, hbit⟩
    · rintro (⟨g, hg, rfl, hbit⟩ | ⟨rfl, rfl⟩)
      · refine ⟨_, List.mem_map_of_mem hg, ?_⟩
        split
        · exact ⟨rfl, by rw [BitVec.getLsbD_or, hbit, Bool.true_or]⟩
        · exact ⟨rfl, hbit⟩
      · refine ⟨_, List.mem_map_of_mem hg0, ?_⟩
        rw [if_pos h0]
        exact ⟨h0, by rw [BitVec.getLsbD_or, (bit_getLsbD hl).mpr rfl, Bool.or_true]⟩
  · have hnew : (∃ g, g = (BitVec.ofNat 32 (2 ^ j), tgt j) ∧ g.2 = a ∧ g.1.getLsbD l = true) ↔ a = tgt j ∧ l = j := by
      rw [exists_eq_left, bit_getLsbD hl, eq_comm]
    have hold : Grouped gs a l ↔ Grouped (gs.takeWhile (fun g => decide (g.2.toNat < (tgt j).toNat)) ++ gs.dropWhile (fun g => decide (g.2.toNat < (tgt j).toNat))) a l := by
      rw [List.takeWhile_append_dropWhile]
    rw [hold, ← hnew]
    simp only [Grouped, List.mem_append, List.mem_singleton, or_and_right, exists_or]
    exact or_right_comm
end

theorem groupLanes_ascending (tgt : Nat → Pc) (m : Word) : Ascending (groupLanes tgt m) :=
  foldl_keeps Ascending (insertLane tgt) (fun _ _ => insertLane_ascending) _ _ List.Pairwise.nil

theorem groupLanes_grouped (tgt : Nat → Pc) (m : Word) {a : Pc} {l : Nat} (hl : l < 32) : Grouped (groupLanes tgt m) a l ↔ m.getLsbD l = true ∧ a = tgt l := by
  have hfold : ∀ (ls : List Nat) (gs : List (Word × Pc)), Grouped (ls.foldl (insertLane tgt) gs) a l ↔ Grouped gs a l ∨ l ∈ ls ∧ a = tgt l := by
    intro ls
    induction ls with
    | nil => simp
    | cons k ks ih =>
      intro gs
      rw [List.foldl_cons, ih, insertLane_grouped hl, List.mem_cons]
      by_cases hk : l = k
      · subst hk; simp; tauto
      · simp [hk]
  rw [groupLanes_eq, hfold]
  simp [Grouped, lanesOf_mem, hl]

theorem groupLanes_congr {f g : Nat → Pc} {m : Word} (h : ∀ l ∈ lanesOf m, f l = g l) : groupLanes f m = groupLanes g m := by
  rw [groupLanes_eq, groupLanes_eq]
  exact List.foldl_ext _ _ _ fun gs l hl => by simp only [insertLane, h l hl]

theorem groupLanes_zero (tgt : Nat → Pc) : groupLanes tgt 0#32 = [] := rfl

/-! ### The places of the groups -/

/-- A word that spreads groups of lanes from its slot, its warp being as it was or with a full point. -/
theorem groupsGo_of {i : Instr} {s : State} {V : View} {b : Warp} {depth : Nat} {groups : List (Word × Pc)} {frames : List (Nat × List Byte)} (hv : V.From s)
    (hi : (infoOf i).rc = false) (hb : b = V.w ∨ b = V.w.fullPoint)
    (he : exec i s = .next (View.spread { V with w := b } (infoOf i) true groups depth frames)) : GroupsGo i s V b depth groups frames := by
  rintro m0 t0 rest rfl
  intro es ended
  obtain rfl := hv.state
  refine ⟨fun hfull => ?_, fun pas hroom hpas => ?_⟩
  · rw [he]
    rcases hb with rfl | rfl
    · exact congrArg _ (View.spread_full hfull)
    · exact congrArg _ (View.spread_full (V := { V with w := V.w.fullPoint }) hfull)
  · refine transfers_leaves hv ?_ (he.trans (congrArg _ ?_))
    · unfold ended
      split <;> rcases hb with rfl | rfl <;> exact ⟨rfl, rfl⟩
    · rcases hb with rfl | rfl
      · exact View.spread_goes hi hroom hpas
      · exact View.spread_goes (V := { V with w := V.w.fullPoint }) hi hroom hpas

/-- A transfer of no lane falls through. -/
theorem spread_falls {i : Instr} {s : State} {V : View} (hv : V.From s) (hi : (infoOf i).rc = false)
    (he : exec i s = .next (V.goto (infoOf i) (V.r.trailerAt + 4) false).put) : Does i s V V.w (V.movedTo V.fallThrough false) ⟨[], []⟩ :=
  does_leaves hv ⟨rfl, rfl⟩ (he.trans (congrArg _ (View.put_goto_falls hi _)))

end Sys2Proof.Machine
end

section
/-! SUPPORT. The targets of indirect transfers (R163). Settles O16. -/
namespace Sys2Proof.Machine

/-! ### The first cause -/

theorem firstCause_cons_some (c : Nat) (cs : List Nat) : ∃ d, firstCause (c :: cs) = some d := by
  rw [firstCause]
  split
  · exact ⟨c, rfl⟩
  · split
    · exact ⟨c, rfl⟩
    · exact ⟨_, rfl⟩

/-- The first cause of a list is one of its causes, and none of them comes before it (R235). -/
theorem firstCause_spec {cs : List Nat} {d : Nat} (h : firstCause cs = some d) : d ∈ cs ∧ ∀ e ∈ cs, causeRank d ≤ causeRank e := by
  induction cs generalizing d with
  | nil => cases h
  | cons c cs ih =>
    rw [firstCause] at h
    split at h
    next hnone =>
      obtain rfl := Option.some.inj h
      cases cs with
      | nil => simp
      | cons x xs => obtain ⟨y, hy⟩ := firstCause_cons_some x xs; rw [hnone] at hy; cases hy
    next x hx =>
      obtain ⟨hmem, hmin⟩ := ih hx
      split at h
      next hle =>
        obtain rfl := Option.some.inj h
        exact ⟨List.mem_cons_self, List.forall_mem_cons.mpr ⟨le_rfl, fun e he => hle.trans (hmin e he)⟩⟩
      next hgt =>
        obtain rfl := Option.some.inj h
        exact ⟨List.mem_cons_of_mem _ hmem, List.forall_mem_cons.mpr ⟨(not_le.mp hgt).le, hmin⟩⟩

/-- The cause that an indirect transfer reports is one of its lanes' causes, and none of them comes before it (R163). -/
theorem landingCause_spec {cs : List Nat} (hne : cs ≠ []) : landingCause cs ∈ cs ∧ ∀ e ∈ cs, landRank (landingCause cs) ≤ landRank e := by
  unfold landingCause
  split
  next h9 => exact ⟨List.contains_iff_mem.mp h9, fun e _ => Nat.zero_le _⟩
  next h9 =>
    have h9 : ∀ e ∈ cs, e ≠ 0x009 := fun e he h => h9 (List.contains_iff_mem.mpr (h ▸ he))
    split
    next h8 =>
      refine ⟨List.contains_iff_mem.mp h8, fun e he => ?_⟩
      rw [landRank, if_neg (by decide), if_pos rfl, landRank, if_neg (h9 e he)]
      split <;> omega
    next h8 =>
      have h8 : ∀ e ∈ cs, e ≠ 0x008 := fun e he h => h8 (List.contains_iff_mem.mpr (h ▸ he))
      obtain ⟨x, xs, rfl⟩ := List.exists_cons_of_ne_nil hne
      obtain ⟨d, hd⟩ := firstCause_cons_some x xs
      obtain ⟨hmem, hmin⟩ := firstCause_spec hd
      rw [hd]
      refine ⟨hmem, fun e he => ?_⟩
      rw [Option.getD_some, landRank, if_neg (h9 d hmem), if_neg (h8 d hmem), landRank, if_neg (h9 e he), if_neg (h8 e he)]
      exact Nat.add_le_add_left (hmin e he) 2

/-! ### One target -/

theorem View.landing_ok {V : View} {t : Dword} (h : V.lands t) : V.landing t = .ok := by
  obtain ⟨hcan, hal, x, hx, htr, hland⟩ := h
  simp [View.landing, hcan, hal, hx, htr, hland]

theorem View.landing_fault {V : View} {t : Dword} {c : Nat} : V.landing t = .fault c ↔ V.landsNot t c := by
  unfold View.landing View.landsNot
  cases hcan : canonical t with
  | false => simp only [if_true, Landing.fault.injEq, eq_comm (b := c), true_and, Bool.false_eq_true, false_and, or_false]
  | true =>
    simp only [Bool.true_eq_false, if_false, false_and, false_or, true_and]
    by_cases hal : t.extractLsb' 0 2 = 0#2
    · simp only [hal, not_true_eq_false, if_false, false_and, false_or, true_and, ne_eq]
      rcases V.s.fetchWord V.cn V.w (t.extractLsb' 0 48) with (_ | d) | x
      · simp only [reduceCtorEq, Except.error.injEq, false_and, exists_false, and_false, or_false]
      · simp only [Landing.fault.injEq, Except.error.injEq, Option.some.injEq, reduceCtorEq, false_and, exists_false, and_false, or_false]
      · simp only [reduceCtorEq, Except.ok.injEq, exists_eq_left', false_or, Bool.or_eq_true, Bool.not_eq_true']
        split
        next hbad => simp only [Landing.fault.injEq, eq_comm (b := c), hbad, and_true]
        next hbad => simp only [hbad, and_false]; exact ⟨nofun, nofun⟩
    · simp only [hal, not_false_eq_true, if_true, Landing.fault.injEq, eq_comm (b := c), ne_eq, true_and, false_and, or_false]

/-! ### Every lane's target -/

/-- The lanes of EM whose target fails, with their causes. -/
def View.failing (V : View) (tgt : Nat → Dword) : List (Nat × Nat) :=
  ((lanesOf V.em).map fun l => (l, V.landing (tgt l))).filterMap fun x => match x.2 with
    | .fault c => some (x.1, c)
    | _ => none

theorem View.mem_failing {V : View} {tgt : Nat → Dword} {l c : Nat} :
    (l, c) ∈ V.failing tgt ↔ (l < 32 ∧ V.em.getLsbD l = true) ∧ V.landsNot (tgt l) c := by
  simp only [View.failing, List.filterMap_map, List.mem_filterMap, Function.comp_apply, ← lanesOf_mem, ← View.landing_fault]
  constructor
  · rintro ⟨k, hk, heq⟩
    split at heq
    next d hd =>
      cases heq
      exact ⟨hk, hd⟩
    next => cases heq
  · rintro ⟨hl, hc⟩
    exact ⟨l, hl, by simp [hc]⟩

/-- The lanes that fail stand in ascending order. -/
theorem View.failing_ascending (V : View) (tgt : Nat → Dword) : (V.failing tgt).Pairwise fun x y => x.1 < y.1 := by
  refine List.Pairwise.filterMap _ (R := fun (x y : Nat × Landing) => x.1 < y.1) ?_ (List.pairwise_map.mpr ?_)
  · rintro ⟨a, la⟩ ⟨b, lb⟩ hab x hx y hy
    cases la <;> cases lb <;> simp at hx hy
    subst hx hy
    exact hab
  · exact (List.pairwise_lt_range.sublist List.filter_sublist : (lanesOf V.em).Pairwise (· < ·))

theorem View.indirect_eq (V : View) (tgt : Nat → Dword) (eff : (Nat → Pc) → State) :
    V.indirect tgt eff = match V.failing tgt with
      | (l, _) :: _ => V.fault (landingCause ((V.failing tgt).map (·.2))) (tgt l) (maskOf fun l => (V.failing tgt).any fun x => x.1 == l)
      | [] => match ((lanesOf V.em).map fun l => (l, V.landing (tgt l))).find? fun x => x.2 == .wait with
        | some (l, _) => { V with s := V.s.startPull V.w.ctx (tgt l).toNat }.hold 11
        | none => eff fun l => (tgt l).extractLsb' 0 48 := rfl

/-- An indirect transfer all of whose lanes have good targets goes on. -/
theorem View.indirect_goes {V : View} {tgt : Nat → Dword} (eff : (Nat → Pc) → State) (h : ∀ l, l < 32 → V.em.getLsbD l = true → V.lands (tgt l)) :
    V.indirect tgt eff = eff fun l => (tgt l).extractLsb' 0 48 := by
  have hok : ∀ l ∈ lanesOf V.em, V.landing (tgt l) = .ok := fun l hl =>
    View.landing_ok (h l (lanesOf_mem.mp hl).1 (lanesOf_mem.mp hl).2)
  have hnone : V.failing tgt = [] := List.eq_nil_iff_forall_not_mem.mpr fun x hx => by
    obtain ⟨hl, hc⟩ := View.mem_failing.mp (show (x.1, x.2) ∈ _ from hx)
    rw [← View.landing_fault, hok _ (lanesOf_mem.mpr hl)] at hc
    cases hc
  have hwait : (((lanesOf V.em).map fun l => (l, V.landing (tgt l))).find? fun x => x.2 == .wait) = none := by
    rw [List.find?_eq_none]
    intro x hx
    obtain ⟨l, hl, rfl⟩ := List.mem_map.mp hx
    simp [hok l hl]
  rw [View.indirect_eq, hnone, hwait]

/-- A target that fails in a lane stops an indirect transfer for every lane (R163). -/
theorem View.indirect_stops {V : View} {tgt : Nat → Dword} (eff : (Nat → Pc) → State) (h : ∃ l e, l < 32 ∧ V.em.getLsbD l = true ∧ V.landsNot (tgt l) e) :
    ∃ (m : Word) (cause l0 : Nat),
      (∀ l, l < 32 → (m.getLsbD l = true ↔ V.em.getLsbD l = true ∧ ∃ e, V.landsNot (tgt l) e)) ∧
      l0 < 32 ∧ m.getLsbD l0 = true ∧ (∀ l, l < l0 → m.getLsbD l = false) ∧
      (∃ l, l < 32 ∧ m.getLsbD l = true ∧ V.landsNot (tgt l) cause) ∧
      (∀ l e, l < 32 → V.em.getLsbD l = true → V.landsNot (tgt l) e → landRank cause ≤ landRank e) ∧
      V.indirect tgt eff = V.fault cause (tgt l0) m := by
  obtain ⟨lx, ex, hlx, hemx, hx⟩ := h
  have hmask : ∀ l, l < 32 → ((maskOf fun l => (V.failing tgt).any fun x => x.1 == l).getLsbD l = true ↔ V.em.getLsbD l = true ∧ ∃ e, V.landsNot (tgt l) e) := by
    intro l hl
    rw [getLsbD_maskOf _ hl, List.any_eq_true]
    constructor
    · rintro ⟨⟨k, c⟩, hmem, heq⟩
      obtain rfl := beq_iff_eq.mp heq
      obtain ⟨⟨-, hem⟩, hc⟩ := View.mem_failing.mp hmem
      exact ⟨hem, c, hc⟩
    · rintro ⟨hem, c, hc⟩
      exact ⟨(l, c), View.mem_failing.mpr ⟨⟨hl, hem⟩, hc⟩, beq_self_eq_true l⟩
  obtain ⟨⟨l0, c0⟩, rest, hbad⟩ := List.exists_cons_of_ne_nil (List.ne_nil_of_mem (View.mem_failing.mpr ⟨⟨hlx, hemx⟩, hx⟩))
  obtain ⟨⟨hl0, hem0⟩, hc0⟩ := View.mem_failing.mp (hbad ▸ List.mem_cons_self : (l0, c0) ∈ V.failing tgt)
  obtain ⟨hcause, hmin⟩ := landingCause_spec (cs := (V.failing tgt).map (·.2)) (by rw [hbad]; exact List.cons_ne_nil _ _)
  obtain ⟨⟨lc, -⟩, hlc, rfl⟩ := List.mem_map.mp hcause
  obtain ⟨⟨hlc32, hlcem⟩, hlcnot⟩ := View.mem_failing.mp hlc
  refine ⟨_, landingCause ((V.failing tgt).map (·.2)), l0, hmask, hl0, (hmask l0 hl0).mpr ⟨hem0, c0, hc0⟩, fun l hl => ?_, ?_, fun l e hl hem he => ?_, ?_⟩
  · rw [← Bool.not_eq_true, hmask l (hl.trans hl0)]
    rintro ⟨hem, e, he⟩
    have hmem := View.mem_failing.mpr ⟨⟨hl.trans hl0, hem⟩, he⟩
    have hasc := V.failing_ascending tgt
    rw [hbad] at hmem hasc
    rcases List.mem_cons.mp hmem with heq | hin
    · cases heq; exact lt_irrefl _ hl
    · exact lt_asymm hl ((List.pairwise_cons.mp hasc).1 _ hin)
  · exact ⟨lc, hlc32, (hmask lc hlc32).mpr ⟨hlcem, _, hlcnot⟩, hlcnot⟩
  · exact hmin e (List.mem_map.mpr ⟨(l, e), View.mem_failing.mpr ⟨⟨hl, hem⟩, he⟩, rfl⟩)
  · rw [View.indirect_eq]
    split
    next l c ls heq => rw [hbad] at heq; cases heq; rfl
    next heq => rw [hbad] at heq; cases heq

/-! ### JMPI and the stops -/

section
variable {s : State} {V : View} {a : BitVec 7} {u : BitVec 6}

theorem exec_jmpi (h : Ready s (infoOf (.jmpi a)) true V) :
    exec (.jmpi a) s = .next (V.indirect (V.lane64 a.toNat) fun t => V.spread (infoOf (.jmpi a)) true (groupLanes t V.em) V.p.depth []) := issue_ready h _
theorem exec_calli (h : Ready s (infoOf (.calli a)) true V) :
    exec (.calli a) s = .next (V.indirect (V.lane64 a.toNat) fun t => V.call (infoOf (.calli a)) t) := issue_ready h _
theorem exec_calls (h : Ready s (infoOf (.calls u)) true V) :
    exec (.calls u) s = .next (V.indirect (fun _ => V.uni64 u.toNat) fun t => V.call (infoOf (.calls u)) t) := issue_ready h _

theorem jmpi_of_lands (h : Ready s (infoOf (.jmpi a)) true V) (hl : ∀ l, l < 32 → V.em.getLsbD l = true → V.lands (V.lane64 a.toNat l)) :
    exec (.jmpi a) s = .next (V.spread (infoOf (.jmpi a)) true (groupLanes (fun l => (V.lane64 a.toNat l).extractLsb' 0 48) V.em) V.p.depth []) :=
  (exec_jmpi h).trans (congrArg _ (View.indirect_goes _ hl))

/-- JMPI with no lane falls through (R145). -/
theorem jmpi_of_empty (h : Ready s (infoOf (.jmpi a)) true V) (hem : V.em = 0#32) :
    Does (.jmpi a) s V V.w (V.movedTo V.fallThrough false) ⟨[], []⟩ := by
  refine spread_falls (State.view_from h.1) rfl ((jmpi_of_lands h fun l _ hl => ?_).trans (congrArg _ ?_))
  · rw [hem] at hl; simp at hl
  · rw [hem, groupLanes_zero]; rfl
end

/-- Settles O16: the failing lanes, in ascending order, give the mask, the address and the cause; a lane is put into the group of its own
address, and a new group into its place in the order. -/
theorem indirectJumps : Obligations.IndirectJumps := by
  refine ⟨fun s V a => ?_, fun s V a u c hc h hbad => ?_, fun tgt m => ⟨groupLanes_ascending tgt m, fun l hl hm => ?_, fun g hg l hl hbit => ?_⟩⟩
  · intro i tgt h
    exact ⟨jmpi_of_empty h, fun hl => groupsGo_of (State.view_from h.1) rfl (.inl rfl) (jmpi_of_lands h hl)⟩
  · obtain ⟨eff, he⟩ : ∃ eff, exec c.1 s = .next (V.indirect c.2 eff) := by
      rcases List.mem_cons.mp hc with rfl | hc
      · exact ⟨_, exec_jmpi h⟩
      rcases List.mem_cons.mp hc with rfl | hc
      · exact ⟨_, exec_calli h⟩
      obtain rfl := List.mem_singleton.mp hc
      exact ⟨_, exec_calls h⟩
    obtain ⟨m, cause, l0, hm, hl0, hbit, hlow, hcause, hmin, hstop⟩ := View.indirect_stops eff hbad
    exact ⟨m, cause, l0, hm, hl0, hbit, hlow, hcause, hmin, he.trans (congrArg _ hstop)⟩
  · exact (groupLanes_grouped tgt m hl).mpr ⟨hm, rfl⟩
  · obtain ⟨hm, ha⟩ := (groupLanes_grouped tgt m hl).mp ⟨g, hg, rfl, hbit⟩
    exact ⟨hm, ha.symm⟩

end Sys2Proof.Machine
end

section
/-! SUPPORT. Calls and returns (R152, R163, R164). Settles O17. -/
namespace Sys2Proof.Machine

/-! ### Calls -/

section
variable {i : Instr} {s : State} {V : View} {tgt : Nat → Pc} (hv : V.From s) (hi : (infoOf i).rc = false)
  (he : exec i s = .next (V.call (infoOf i) tgt))
include hv hi he

/-- A call by no lane falls through with the depth as it was (notes/assumptions/51.md). -/
theorem call_of_empty (hem : V.em = 0#32) : Does i s V V.w (V.movedTo V.fallThrough false) ⟨[], []⟩ :=
  spread_falls hv hi (he.trans (congrArg _ (if_pos hem)))

omit hi in
theorem call_at_levels (hem : V.em ≠ 0#32) (hd : s.callD V.w.launch ≤ V.p.depth) : exec i s = .next (V.fault 0x0C6 0#64 V.em) := by
  obtain rfl := hv.state
  rw [he, View.call, if_neg hem, if_pos hd]

theorem call_goes {pas : List Nat} (hem : V.em ≠ 0#32) (hd : V.p.depth < s.callD V.w.launch)
    (hpas : s.regionAll V.cn V.w.mgmt V.w.ctx V.w.launch true ((lanesOf V.em).map (s.frameVa V.cn V.qn V.wn V.w (V.p.depth + 1))) = .ok pas) :
    GroupsGo i s V V.w (V.p.depth + 1) (groupLanes tgt V.em) (pas.map fun pa => (pa, toLe (V.fallThrough.signExtend 64).toNat 8)) := by
  refine groupsGo_of hv hi (.inl rfl) ?_
  obtain rfl := hv.state
  rw [he, View.call, if_neg hem, if_neg (not_le.mpr hd)]
  dsimp only
  rw [hpas]
  rfl
end

/-! ### Returns -/

/-- The addresses that a return reads, lane by lane. -/
theorem at_of_frames {f : Nat → Pc} {at_ : Nat → Pc} : ∀ {ls pas : List Nat}, ls.map at_ = pas.map f → ∀ l ∈ ls,
    (match (ls.zip pas).find? fun x => x.1 == l with
      | some x => f x.2
      | none => 0) = at_ l
  | [], _, _, l, hl => nomatch hl
  | k :: ks, [], h, l, _ => by cases h
  | k :: ks, pa :: pas, h, l, hl => by
    obtain ⟨hk, hks⟩ := List.cons.inj h
    rw [List.zip_cons_cons, List.find?_cons]
    by_cases heq : k = l
    · subst heq
      simp only [beq_self_eq_true]
      exact hk.symm
    · simp only [beq_eq_false_iff_ne.mpr heq]
      exact at_of_frames hks l ((List.mem_cons.mp hl).resolve_left (Ne.symm heq))

theorem View.returned_eq (V : View) : V.returned = V.w ∨ V.returned = V.w.fullPoint := by
  unfold View.returned
  split
  · split
    · exact .inr rfl
    · exact .inl rfl
  · exact .inl rfl

section
variable {i : Instr} {s : State} {V : View} (hv : V.From s) (hi : (infoOf i).rc = false) (he : exec i s = .next (V.ret (infoOf i)))
include hv he

include hi in
theorem ret_of_empty (hem : V.em = 0#32) : Does i s V V.w (V.movedTo V.fallThrough false) ⟨[], []⟩ :=
  spread_falls hv hi (he.trans (congrArg _ (if_pos hem)))

omit hv in
theorem ret_at_zero (hem : V.em ≠ 0#32) (hd : V.p.depth = 0) : exec i s = .next (V.fault 0x00D 0#64 V.em) := by
  rw [he, View.ret, if_neg hem, if_pos hd]

include hi in
theorem ret_goes {pas : List Nat} {at_ : Nat → Pc} (hem : V.em ≠ 0#32) (hd : V.p.depth ≠ 0)
    (hpas : s.regionAll V.cn V.w.mgmt V.w.ctx V.w.launch false ((lanesOf V.em).map (s.frameVa V.cn V.qn V.wn V.w V.p.depth)) = .ok pas)
    (hat : (lanesOf V.em).map at_ = pas.map fun pa => BitVec.ofNat 48 (s.memNat pa 8) &&& ~~~3#48) :
    GroupsGo i s V V.returned (V.p.depth - 1) (groupLanes at_ V.em) [] := by
  refine groupsGo_of hv hi V.returned_eq ?_
  obtain rfl := hv.state
  have hlanes := groupLanes_congr (at_of_frames hat)
  have hbelow : (if (match V.w.rewind with
      | .flash x => decide (V.p.depth - 1 < x.depth)
      | .full => false) = true then V.w.fullPoint else V.w) = V.returned := by
    unfold View.returned
    cases V.w.rewind with
    | full => rfl
    | flash x => simp only [decide_eq_true_eq]
  rw [he, View.ret, if_neg hem, if_neg hd]
  dsimp only
  rewrite [hpas, ← hlanes, ← hbelow]
  rfl
end

/-- Settles O17: a call or a return is a spread of groups by address at the new depth, with the frames that it writes or reads. -/
theorem callsAndReturns : Obligations.CallsAndReturns := by
  refine ⟨fun s V a u o c hc h hgood => ?_, fun s V i hi h => ?_⟩
  · have hv := State.view_from h.1
    have hi : (infoOf c.1).rc = false := by
      simp only [List.mem_cons, List.not_mem_nil, or_false] at hc
      rcases hc with rfl | rfl | rfl <;> rfl
    have he : exec c.1 s = .next (V.call (infoOf c.1) c.2.1) := by
      simp only [List.mem_cons, List.not_mem_nil, or_false] at hc
      rcases hc with rfl | rfl | rfl
      · exact issue_ready h _
      · exact (exec_calli h).trans (congrArg _ (View.indirect_goes _ hgood))
      · exact (exec_calls h).trans (congrArg _ (View.indirect_goes _ fun _ _ _ => hgood))
    exact ⟨call_of_empty hv hi he, call_at_levels hv he, fun pas => call_goes hv hi he⟩
  · have hv := State.view_from h.1
    have hrc : (infoOf i).rc = false := by
      simp only [List.mem_cons, List.not_mem_nil, or_false] at hi
      rcases hi with rfl | rfl <;> rfl
    have he : exec i s = .next (V.ret (infoOf i)) := by
      simp only [List.mem_cons, List.not_mem_nil, or_false] at hi
      rcases hi with rfl | rfl <;> exact issue_ready h _
    exact ⟨ret_of_empty hv hrc he, ret_at_zero he, fun pas at_ => ret_goes hv hrc he⟩

end Sys2Proof.Machine
end

section
/-! SUPPORT. The end of the run of a warp with one path (R22, R25, R119). Settles O18. -/
namespace Sys2Proof.Machine

/-! ### The divergence rules at a warp with one path -/

/-- Nothing changes of itself in a warp whose one path is not parked. -/
theorem Warp.settleOnce_single {w : Warp} {p : Path} {k : Nat} (hk : k ≤ 1) (hp : w.div.slot k = some p) (ho : w.div.slot (other k) = none)
    (hn : w.div.n = 0) (hpark : p.parked = false) (c : Word) : w.settleOnce c = none := by
  obtain rfl | rfl := Nat.le_one_iff_eq_zero_or_eq_one.mp hk
  · have h0 : w.div.s0 = some p := hp
    have h1 : w.div.s1 = none := ho
    simp [Warp.settleOnce, Div.slot, h0, h1, hn, hpark]
  · have h0 : w.div.s0 = none := ho
    have h1 : w.div.s1 = some p := hp
    simp [Warp.settleOnce, Div.slot, h0, h1, hn, hpark]

theorem settle_single {s : State} {cn qn wn k : Nat} {w : Warp} {p : Path} (hw : s.warp cn qn wn = some w) (hh : w.trap.halted = false) (hk : k ≤ 1)
    (hp : w.div.slot k = some p) (ho : w.div.slot (other k) = none) (hn : w.div.n = 0) (hpark : p.parked = false) : s.settle cn qn wn = s := by
  simp [State.settle, State.settleFrom, hw, hh, hn, Warp.settleOnce_single hk hp ho hn hpark]

theorem Div.slot_other_setSlot (d : Div) (k : Nat) (p : Option Path) : (d.setSlot k p).slot (other k) = d.slot (other k) := by
  unfold Div.setSlot other
  split <;> rfl

theorem Div.setSlot_n (d : Div) (k : Nat) (p : Option Path) : (d.setSlot k p).n = d.n := by
  unfold Div.setSlot
  split <;> rfl

/-! ### A trailer without a flash point -/

theorem Quadrant.vacated_temps {q : Quadrant} {wn kn : Nat} {x : Nat × Nat × Nat} (h : x ∈ (q.vacated wn kn).temps) : ¬ (x.2.1 = wn ∧ x.2.2 = kn) := by
  have h : x ∈ (q.freeTemps wn kn).temps := by
    unfold Quadrant.vacated Quadrant.deselect at h
    split at h <;> exact h
  simpa [Quadrant.freeTemps, imp_iff_not_or] using (List.mem_filter.mp h).2

theorem Quadrant.vacated_sel (q : Quadrant) (wn kn : Nat) : (q.vacated wn kn).sel ≠ some (wn, kn) := by
  unfold Quadrant.vacated Quadrant.deselect
  split
  · exact nofun
  · assumption

/-- The view with its warp past the trailer, and its quadrant selecting again. -/
def View.closed (V : View) (stop flash : Bool) (a0 a1 : Nat) : View :=
  { V with w := V.warpClosed stop flash a0 a1, q := V.q.vacated V.wn V.kn }

/-- A trailer that marks no flash point ends the run (R22). -/
theorem View.closeRun_plain {V : View} {stop flash : Bool} (a0 a1 : Nat)
    (h : flash = false ∨ V.s.siteAt V.w.launch V.r.trailerAt stop flash = none) :
    V.closeRun stop flash a0 a1 = (V.closed stop flash a0 a1).putWarp ((V.closed stop flash a0 a1).warpWith (some (V.pathClosed stop flash))) := by
  unfold View.closeRun
  rcases h with rfl | h
  · rfl
  · simp only [h, ite_self, ne_eq, not_true_eq_false, or_self, if_false]
    rfl

theorem exec_trailer_of_view {s : State} {V : View} {st fl : BitVec 1} {a b : BitVec 7} (h : s.view = some V) (hends : V.p.ends = .plain ∨ V.p.ends = .moved) :
    exec (.trailer st fl a b) s = .next (V.close (st == 1#1) (fl == 1#1) a.toNat b.toNat) := by
  show execTrailer st fl a b s = _
  rw [execTrailer, h]
  rcases hends with hends | hends <;> simp only [hends]

/-- Settles O18: a trailer without a flash point only closes its path, and nothing settles in a warp with one path that is not parked. -/
theorem nopAndTrailer : Obligations.NopAndTrailer := by
  refine ⟨fun s V i hi h => ?_, fun s V st fl a b => ?_⟩
  · simp only [List.mem_cons, List.not_mem_nil, or_false] at hi
    rcases hi with rfl | rfl <;> exact computes_reg (f := id) h rfl rfl (RegsOnly.refl V) (Effects.none V)
  · intro i hview hother hn hk hpark hhalt hends hflash
    obtain rfl := (State.view_from hview).state
    have hplain : (fl == 1#1) = false ∨ V.s.siteAt V.w.launch V.r.trailerAt (st == 1#1) (fl == 1#1) = none :=
      hflash.imp_left fun h => by rw [h]; rfl
    let W := V.closed (st == 1#1) (fl == 1#1) a.toNat b.toNat
    let p' := V.pathClosed (st == 1#1) (fl == 1#1)
    have hpark' : p'.parked = false := by
      show (V.p.parked || V.p.ends == .park) = false
      rcases hends with hends | hends <;> rw [hpark, hends] <;> rfl
    have hslot : (W.warpWith (some p')).div.slot V.kn = some p' := Div.slot_setSlot _ _ _
    have hrest : (W.warpWith (some p')).div.slot (other V.kn) = none := (Div.slot_other_setSlot _ _ _).trans hother
    have hsettle := settle_single (View.warp_putWarp W (W.warpWith (some p'))) hhalt hk hslot hrest ((Div.setSlot_n _ _ _).trans hn) hpark'
    have hquad : V.quadIn (W.putWarp (W.warpWith (some p'))) = W.q.setWarp V.wn (W.warpWith (some p')) := View.putWarp_quad _ _
    refine ⟨W.putWarp (W.warpWith (some p')), W.warpWith (some p'), p', ?_, rfl, fun n hne => ?_, View.warp_putWarp _ _, hslot, rfl, rfl, rfl, rfl, ?_, ?_, ?_, rfl, rfl, rfl, rfl⟩
    · rw [exec_trailer_of_view hview hends, View.close, View.closeRun_plain _ _ hplain]
      exact congrArg _ hsettle
    · rw [View.putWarp_core]
      exact if_neg hne
    · rw [hquad]
      exact Quadrant.vacated_rf _ _ _
    · rw [hquad]
      exact fun x hx => Quadrant.vacated_temps hx
    · rw [hquad]
      exact Quadrant.vacated_sel _ _ _

end Sys2Proof.Machine
end

section
/-! SUPPORT. The end of a launch for a trap (R336): what the core keeps while its warps leave. -/
namespace Sys2Proof.Machine

/-! ### Records of a table -/

theorem Table.mem_of_find {α : Type} {m : Table α} {a : Nat} {v : α} (h : Table.find m a = some v) : (a, v) ∈ m := by
  induction m with
  | nil => cases h
  | cons x m ih =>
    rw [Table.find] at h
    split at h
    · next heq => obtain rfl := Option.some.inj h; obtain rfl := heq; exact List.mem_cons_self
    · exact List.mem_cons_of_mem _ (ih h)

theorem Table.forall_put {α : Type} {P : α → Prop} {m : Table α} {a : Nat} {v : α} (hv : P v) (h : ∀ x ∈ m, P x.2) : ∀ x ∈ Table.put m a v, P x.2 := by
  induction m with
  | nil => simpa [Table.put] using hv
  | cons y m ih =>
    obtain ⟨hy, hm⟩ := List.forall_mem_cons.mp h
    rw [Table.put]
    split
    · exact List.forall_mem_cons.mpr ⟨hv, hm⟩
    · exact List.forall_mem_cons.mpr ⟨hy, ih hm⟩

/-! ### Cores on which a launch has been stopped -/

section
variable {l : Nat}

/-- A warp of the launch has been told to stop. -/
def Warp.EndedFor (l : Nat) (w : Warp) : Prop := w.launch = l → w.stopped = true
/-- No operation of the launch is queued, and its warps have been told to stop. -/
def Quadrant.EndedFor (l : Nat) (q : Quadrant) : Prop := (∀ o ∈ q.mq, o.launch ≠ l) ∧ ∀ x ∈ q.warps, x.2.EndedFor l
/-- No thread of the launch waits, and its quadrants have nothing else of it. -/
def Core.EndedFor (l : Nat) (c : Core) : Prop :=
  (∀ b ∈ c.bins, b.2.launch ≠ l) ∧ (∀ x ∈ c.spilled, x.launch ≠ l) ∧ ∀ q ∈ c.quads, q.2.EndedFor l

theorem Quadrant.EndedFor.blank : Quadrant.blank.EndedFor l := by
  constructor <;> simp [Quadrant.blank]
theorem Quadrant.EndedFor.find {q : Quadrant} (h : q.EndedFor l) {n : Nat} {w : Warp} (hw : q.warps.find n = some w) : w.EndedFor l :=
  h.2 (n, w) (Table.mem_of_find hw)
theorem Quadrant.EndedFor.setWarp {q : Quadrant} (h : q.EndedFor l) (n : Nat) {w : Warp} (hw : w.EndedFor l) : (q.setWarp n w).EndedFor l :=
  ⟨h.1, Table.forall_put hw h.2⟩

theorem Core.EndedFor.quad {c : Core} (h : c.EndedFor l) (n : Nat) : (c.quad n).EndedFor l := by
  unfold Core.quad
  cases hq : Table.find c.quads n with
  | none => rw [Option.getD_none]; exact Quadrant.EndedFor.blank
  | some q => rw [Option.getD_some]; exact h.2.2 (n, q) (Table.mem_of_find hq)
theorem Core.EndedFor.setQuad {c : Core} (h : c.EndedFor l) (n : Nat) {q : Quadrant} (hq : q.EndedFor l) : (c.setQuad n q).EndedFor l :=
  ⟨h.1, h.2.1, Table.forall_put hq h.2.2⟩
theorem Core.EndedFor.same {c d : Core} (h : c.EndedFor l) (hb : d.bins = c.bins) (hs : d.spilled = c.spilled) (hq : d.quads = c.quads) : d.EndedFor l := by
  unfold Core.EndedFor
  rw [hb, hs, hq]
  exact h
theorem Core.EndedFor.withCrews {c : Core} (h : c.EndedFor l) (ks : Table Crew) : ({ c with crews := ks } : Core).EndedFor l := h
/-- A warp of the core becomes another of the same launch. -/
theorem Core.EndedFor.onWarp {c : Core} (h : c.EndedFor l) (qn wn : Nat) {f : Warp → Warp} (hf : ∀ w, w.EndedFor l → (f w).EndedFor l) :
    (match (c.quad qn).warps.find wn with
      | some w => c.setQuad qn ((c.quad qn).setWarp wn (f w))
      | none => c).EndedFor l := by
  split
  next w hw => exact h.setQuad qn ((h.quad qn).setWarp wn (hf w ((h.quad qn).find hw)))
  next => exact h
theorem Core.EndedFor.blank (n : Nat) : (Core.blank n).EndedFor l := ⟨nofun, nofun, nofun⟩

/-! ### Members leave -/

theorem Core.EndedFor.releaseCrew {c : Core} (h : c.EndedFor l) (n : Nat) : (c.releaseCrew n).EndedFor l := by
  unfold Core.releaseCrew
  split
  · exact h
  · split <;> exact h.same rfl rfl rfl

theorem Core.EndedFor.onMembers {c : Core} (h : c.EndedFor l) (ms : List Member) {f : Warp → Warp} (hf : ∀ w, w.EndedFor l → (f w).EndedFor l) :
    (c.onMembers ms f).EndedFor l :=
  foldl_keeps (Core.EndedFor l) _ (fun _ x hc => hc.onWarp x.1 x.2 hf) _ _ h

theorem Core.EndedFor.phaseFrom {c : Core} (h : c.EndedFor l) (crew fuel : Nat) : (c.phaseFrom crew fuel).EndedFor l := by
  induction fuel generalizing c with
  | zero => exact h
  | succ fuel ih =>
    rw [Core.phaseFrom]
    split
    · exact h
    · split
      · exact h
      · refine ih (Core.EndedFor.withCrews (Core.EndedFor.onMembers (Core.EndedFor.onMembers h _ ?_) _ ?_) _)
        · exact fun _ hw => hw
        · exact fun _ hw => hw

theorem Core.EndedFor.leaveSeat {c : Core} (h : c.EndedFor l) (crew seat : Nat) : (c.leaveSeat crew seat).EndedFor l := by
  unfold Core.leaveSeat
  split
  · exact h
  · dsimp only
    split
    · split
      · exact h.same rfl rfl rfl
      · exact (Core.EndedFor.withCrews h _).releaseCrew crew
    · exact (Core.EndedFor.withCrews h _).phaseFrom crew 2

/-! ### Threads move -/

theorem Core.EndedFor.moveAccesses {c : Core} (h : c.EndedFor l) (k : Crew) (ms : Moves) : (c.moveAccesses k ms).EndedFor l := by
  unfold Core.moveAccesses
  refine List.foldlRecOn _ _ h fun d hd y hy => ?_
  obtain ⟨x, -, hx⟩ := List.mem_filterMap.mp hy
  obtain ⟨w, hw, rfl⟩ := Option.map_eq_some_iff.mp hx
  exact hd.setQuad x.1 ((hd.quad x.1).setWarp x.2 ((h.quad x.1).find hw :))

theorem Core.EndedFor.seatThread {c : Core} (h : c.EndedFor l) (crew qn wn j : Nat) (x : Carried) : (c.seatThread crew qn wn j x).EndedFor l := by
  unfold Core.seatThread
  dsimp only
  split
  · exact h
  next w hw =>
    have hstop : w.EndedFor l := (h.quad qn).find hw
    refine Core.EndedFor.withCrews (h.setQuad qn ?_) _
    exact ⟨(h.quad qn).1, Table.forall_put hstop (h.quad qn).2⟩

/-! ### Waiting threads are discarded -/

theorem Core.oldestKey_mem {c : Core} {t : ThreadRec} (h : c.oldestKey = some t) : t ∈ c.spilled := by
  refine List.foldlRecOn (motive := fun m => ∀ t, m = some t → t ∈ c.spilled) _ _ (fun t ht => by cases ht) (fun m hm x hx t ht => ?_) t h
  have hx : x ∈ c.spilled := (List.mem_filter.mp hx).1
  cases m with
  | none => exact Option.some.inj ht ▸ hx
  | some y =>
    dsimp only at ht
    split at ht
    · exact Option.some.inj ht ▸ hx
    · exact hm t ht

/-- A bin that refills takes the place of threads that no launch but theirs has. -/
theorem Core.EndedFor.refill {c : Core} (h : c.EndedFor l) (n : Nat) {b : Bin} (hb : b.launch ≠ l) : (c.refill n b).EndedFor l := by
  obtain ⟨hbins, hspill, hquads⟩ := h
  have hleft : ∀ (p : ThreadRec → Bool), ∀ t ∈ c.spilled.filter p, t.launch ≠ l := fun p t ht => hspill t (List.mem_filter.mp ht).1
  unfold Core.refill
  dsimp only
  split
  · split
    · exact ⟨fun b hb => hbins b (List.mem_filter.mp hb).1, hleft _, hquads⟩
    next t ht =>
      refine ⟨fun b hb => ?_, fun t ht => hleft _ t (List.mem_filter.mp ht).1, hquads⟩
      rcases List.mem_append.mp hb with hb | hb
      · exact hbins b (List.mem_filter.mp hb).1
      · obtain rfl := List.mem_singleton.mp hb
        exact hleft _ t (Core.oldestKey_mem ht)
  · exact ⟨Table.forall_put (P := fun b : Bin => b.launch ≠ l) hb hbins, hleft _, hquads⟩

theorem Core.EndedFor.refillBins {c : Core} (h : c.EndedFor l) : c.refillBins.EndedFor l := by
  refine foldl_keeps (Core.EndedFor l) _ (fun c n hc => ?_) _ _ h
  split
  next t _ ht => exact hc.refill n (hc.2.1 t (Core.oldestKey_mem ht))
  next => exact hc

theorem Core.EndedFor.stopSelected {c : Core} (h : c.EndedFor l) (p : Warp → Bool) : (c.stopSelected p).EndedFor l := by
  refine ⟨h.1, h.2.1, fun q hq => ?_⟩
  obtain ⟨r, hr, rfl⟩ := List.mem_map.mp hq
  dsimp only
  split <;> exact h.2.2 r hr

theorem Warp.stopFor_ended (w : Warp) : (w.stopFor l).EndedFor l := by
  unfold Warp.stopFor
  split
  · exact fun _ => rfl
  next hn => exact fun hl => Bool.of_not_eq_false fun hs => hn ⟨hl, hs⟩

theorem Core.stopLaunch_ended (c : Core) : (c.stopLaunch l).EndedFor l := by
  refine Core.EndedFor.stopSelected (Core.EndedFor.refillBins ⟨fun b hb => ?_, fun t ht => ?_, fun q hq => ?_⟩) _
  · simpa using (List.mem_filter.mp hb).2
  · simpa using (List.mem_filter.mp ht).2
  · obtain ⟨q, -, rfl⟩ := List.mem_map.mp hq
    refine ⟨fun o ho => by simpa using (List.mem_filter.mp ho).2, fun x hx => ?_⟩
    obtain ⟨x, -, rfl⟩ := List.mem_map.mp hx
    exact x.2.stopFor_ended
end

end Sys2Proof.Machine
end

section
/-! SUPPORT. The end of a launch for a trap (R336): what firmware's sweep over the cores keeps. -/
namespace Sys2Proof.Machine

/-! ### The divergence rules keep a warp's launch -/

/-- A warp that is still of the same launch, told to stop or not as before. -/
def Warp.Akin (w v : Warp) : Prop := v.launch = w.launch ∧ v.stopped = w.stopped

theorem Warp.Akin.ended {w v : Warp} {l : Nat} (h : w.Akin v) (hw : w.EndedFor l) : v.EndedFor l := by
  obtain ⟨hl, hs⟩ := h
  unfold Warp.EndedFor
  rw [hl, hs]
  exact hw

theorem Warp.settleOnce_akin {w v : Warp} {c : Word} (h : w.settleOnce c = some v) : w.Akin v := by
  unfold Warp.settleOnce at h
  dsimp only at h
  split at h
  · cases h
  · obtain ⟨o, ho, hv⟩ := List.exists_of_findSome?_eq_some h
    obtain rfl : o = some v := hv
    simp only [List.mem_cons, List.not_mem_nil, or_false] at ho
    rcases ho with ho | ho | ho | ho | ho | ho | ho | hrel
    case inr.inr.inr.inr.inr.inr.inr =>
      have hunpark : ∀ k, some v = ((w.div.slot k).map fun p => { w with div := w.div.setSlot k (some { p with parked := false }) }) → w.Akin v := fun k hk => by
        obtain ⟨p, -, rfl⟩ := Option.map_eq_some_iff.mp hk.symm
        exact ⟨rfl, rfl⟩
      rcases h0 : w.div.s0 with _ | p <;> rcases h1 : w.div.s1 with _ | q <;> simp only [h0, h1] at hrel
      · split at hrel <;> cases hrel
      · split at hrel
        · cases hrel
        · split at hrel
          · exact hunpark 1 hrel
          · cases hrel
      · split at hrel
        · cases hrel
        · split at hrel
          · exact hunpark 0 hrel
          · cases hrel
      · split at hrel
        · cases hrel
        · split at hrel
          · split at hrel
            · exact hunpark 1 hrel
            · exact hunpark 0 hrel
          · split at hrel
            · exact hunpark 0 hrel
            · split at hrel
              · exact hunpark 1 hrel
              · cases hrel
    all_goals -- a merge, a pop or an exchange changes the paths, the stack and the windows alone
      repeat' split at ho
      all_goals cases ho <;> exact ⟨rfl, rfl⟩

theorem Quadrant.EndedFor.deselectWarp {q : Quadrant} {l : Nat} (h : q.EndedFor l) (n : Nat) : (q.deselectWarp n).EndedFor l := by
  unfold Quadrant.deselectWarp
  split
  · split <;> exact h
  · exact h

/-! ### States in which the launch has been ended -/

section
variable {l : Nat} {e : Nat × Dword × Dword} {s : State}

/-- The launch is ended, with the first End trap that it had; nothing of it waits on any core, and no byte has changed since `s`. -/
structure State.Ending (l : Nat) (e : Nat × Dword × Dword) (s t : State) : Prop where
  bytes : SameBytes s t
  launch : ∃ L, t.launches.find l = some L ∧ L.ended = true ∧ L.firstEnd = some e
  cores : ∀ c ∈ t.cores, c.2.EndedFor l

namespace State.Ending

variable {t : State} (h : State.Ending l e s t)
include h

theorem same {u : State} (hm : u.mem = t.mem) (hu : u.undefined = t.undefined) (hl : u.launches = t.launches) (hc : u.cores = t.cores) :
    State.Ending l e s u := by
  obtain ⟨⟨hmem, hundef⟩, hlaunch, hcores⟩ := h
  exact ⟨⟨hm.trans hmem, hu.trans hundef⟩, hl ▸ hlaunch, hc ▸ hcores⟩

/-- A launch's record changes in what is neither its end nor its first End trap. -/
theorem putLaunch {n : Nat} {K K' : Launch} (hK : t.launches.find n = some K) (he : K'.ended = K.ended)
    (hf : K.firstEnd ≠ none → K'.firstEnd = K.firstEnd) :
    State.Ending l e s { t with launches := t.launches.put n K' } := by
  obtain ⟨hbytes, ⟨L, hL, hend, hfirst⟩, hcores⟩ := h
  refine ⟨hbytes, ?_, hcores⟩
  by_cases hn : l = n
  · subst hn
    obtain rfl := Option.some.inj (hL.symm.trans hK)
    exact ⟨K', by simp, he.trans hend, (hf (by simp [hfirst])).trans hfirst⟩
  · exact ⟨L, by simp [hn, hL], hend, hfirst⟩

theorem core (n : Nat) : (t.core n).EndedFor l := by
  unfold State.core
  cases hc : Table.find t.cores n with
  | none => rw [Option.getD_none]; exact Core.EndedFor.blank n
  | some c => rw [Option.getD_some]; exact h.cores (n, c) (Table.mem_of_find hc)
theorem setCore (n : Nat) {c : Core} (hc : c.EndedFor l) : State.Ending l e s (t.setCore n c) :=
  ⟨h.bytes, h.launch, Table.forall_put hc h.cores⟩
theorem quad (cn qn : Nat) : ((t.core cn).quad qn).EndedFor l := (h.core cn).quad qn
theorem setQuad (cn qn : Nat) {q : Quadrant} (hq : q.EndedFor l) : State.Ending l e s (t.setQuad cn qn q) := h.setCore cn ((h.core cn).setQuad qn hq)
theorem warp {cn qn wn : Nat} {w : Warp} (hw : t.warp cn qn wn = some w) : w.EndedFor l := (h.quad cn qn).find hw
theorem setWarp (cn qn wn : Nat) {w : Warp} (hw : w.EndedFor l) : State.Ending l e s (t.setWarp cn qn wn w) := h.setQuad cn qn ((h.quad cn qn).setWarp wn hw)
theorem onWarp (cn qn wn : Nat) {f : Warp → Warp} (hf : ∀ w, Warp.Akin w (f w)) : State.Ending l e s (t.onWarp cn qn wn f) := by
  unfold State.onWarp
  split
  next w hw => exact h.setWarp cn qn wn ((hf w).ended (h.warp hw))
  next => exact h

/-! ### Traps and region accesses -/

theorem countFault (n : Nat) : State.Ending l e s (t.countFault n) := by
  unfold State.countFault
  split
  next K hK => exact h.putLaunch hK rfl fun _ => rfl
  next => exact h

theorem accountTrap (n ctx cause : Nat) (inHandler : Bool) (epc eva : Dword) : State.Ending l e s (t.accountTrap n ctx cause inHandler epc eva) := by
  unfold State.accountTrap
  split
  · exact h
  next K hK =>
    split
    next hnew => exact h.putLaunch hK rfl fun hsome => absurd hnew.2 hsome
    next =>
      split
      · exact h
      · exact h.countFault n

theorem mgmtTrap (cn qn wn kn : Nat) (r : TrapReq) : State.Ending l e s (t.mgmtTrap cn qn wn kn r) := by
  unfold State.mgmtTrap
  split
  · exact h
  next w hw =>
    have hstop := h.warp hw
    exact State.Ending.accountTrap (h.setQuad cn qn (Quadrant.EndedFor.deselectWarp ((h.quad cn qn).setWarp wn (by exact hstop)) wn)) _ _ _ _ _ _

theorem request (cn line ctx : Nat) (m : Bool) : State.Ending l e s (t.request cn line ctx m) := by
  unfold State.request
  dsimp only
  split
  · exact h
  · exact h.same rfl rfl rfl rfl

theorem claim {cn ctx : Nat} {ls : List Nat} {u : State} (hu : t.claim cn ctx ls = some u) : State.Ending l e s u := by
  unfold State.claim at hu
  split at hu
  · cases hu
  · obtain rfl := Option.some.inj hu
    exact foldl_keeps (State.Ending l e s) _ (fun _ _ hv => hv.request _ _ _ _) _ _ h
theorem claimRead {cn ctx : Nat} {ls : List Nat} {u : State} (hu : t.claimRead cn ctx ls = some u) : State.Ending l e s u := by
  unfold State.claimRead at hu
  split at hu
  · cases hu
  · obtain rfl := Option.some.inj hu
    exact foldl_keeps (State.Ending l e s) _ (fun _ _ hv => hv.request _ _ _ _) _ _ h

theorem startTake {ctx n va : Nat} {u : State} (hu : t.startTake ctx n va = some u) : State.Ending l e s u := by
  unfold State.startTake at hu
  split at hu
  next z _ _ =>
    dsimp only at hu
    split at hu
    · cases hu
    next L hL =>
      split at hu
      · obtain rfl := Option.some.inj hu; exact h
      · split at hu
        · cases hu
        · obtain rfl := Option.some.inj hu
          have hput := h.putLaunch hL (K' := { L with pool := L.pool - pageUnits z }) rfl fun _ => rfl
          exact hput.same rfl rfl rfl rfl
  next => obtain rfl := Option.some.inj hu; exact h

theorem startPull (ctx va : Nat) : State.Ending l e s (t.startPull ctx va) := by
  unfold State.startPull
  split
  next =>
    dsimp only
    split
    · exact h
    · exact h.same rfl rfl rfl rfl
  next => exact h

theorem region {cn ctx launch : Nat} {mgmt : Bool} {va : Dword} {u : State} (hu : t.region cn mgmt ctx launch va = .wait u) : State.Ending l e s u := by
  unfold State.region at hu
  dsimp only at hu
  split at hu
  · cases hu
  · split at hu
    · split at hu
      next hs => cases hu; exact h.startTake hs
      next => cases hu
    · cases hu
    · split at hu
      · cases hu
      · cases hu; exact h.startPull _ _

theorem regionAll {cn ctx launch : Nat} {mgmt write : Bool} {vas : List Dword} {u : State} (hu : t.regionAll cn mgmt ctx launch write vas = .wait u) :
    State.Ending l e s u := by
  unfold State.regionAll at hu
  dsimp only at hu
  split at hu
  · cases hu
  · split at hu
    next v hwait =>
      obtain rfl := Regions.wait.inj hu
      obtain ⟨x, hx, hv⟩ := List.exists_of_findSome?_eq_some hwait
      obtain ⟨va, -, rfl⟩ := List.mem_map.mp hx
      split at hv
      next hr => exact h.region (hr.trans (congrArg _ (Option.some.inj hv)))
      next => cases hv
    next =>
      split at hu
      next hclaim =>
        obtain rfl := Regions.wait.inj hu
        split at hclaim
        · exact h.claim hclaim
        · exact h.claimRead hclaim
      next => cases hu

theorem readRing {cn qn wn i : Nat} {w : Warp} {pc : Pc} {u : State} (hu : t.readRing cn qn wn w i pc = .inr u) : State.Ending l e s u := by
  unfold State.readRing at hu
  dsimp only at hu
  split at hu
  · cases hu
  · obtain rfl := Sum.inr.inj hu; exact h
  next hr => obtain rfl := Sum.inr.inj hu; exact h.regionAll hr
  · obtain rfl := Sum.inr.inj hu; exact h.mgmtTrap _ _ _ _ _

/-! ### Paths settle -/

theorem settleFrom (cn qn wn fuel : Nat) : State.Ending l e s (t.settleFrom cn qn wn fuel) := by
  induction fuel generalizing t with
  | zero => exact h
  | succ fuel ih =>
    rw [State.settleFrom]
    split
    · exact h
    next w hw =>
      have hstop := h.warp hw
      split
      · exact h
      · split
        · split
          · exact ih (h.setWarp cn qn wn (by exact hstop))
          next hr => exact h.readRing hr
        · split
          · exact h
          next w' hset =>
            have hstop' := (Warp.settleOnce_akin hset).ended hstop
            split
            · split
              · exact ih (h.setWarp cn qn wn (by exact hstop'))
              next hr => exact h.readRing hr
            · exact ih (h.setWarp cn qn wn hstop')
theorem settle (cn qn wn : Nat) : State.Ending l e s (t.settle cn qn wn) := h.settleFrom cn qn wn 200
end State.Ending
end

end Sys2Proof.Machine
end

section
/-! SUPPORT. The end of a launch for a trap (R336): the Mangle, and the warps that leave. -/
namespace Sys2Proof.Machine

/-- A crew of the core changes. -/
theorem Core.EndedFor.onCrew {l : Nat} {c : Core} (h : c.EndedFor l) (n : Nat) {f : Crew → Crew} :
    (match c.crews.find n with
      | some k => { c with crews := c.crews.put n (f k) }
      | none => c).EndedFor l := by
  split
  · exact h.withCrews _
  · exact h

section
variable {l : Nat} {e : Nat × Dword × Dword} {s t : State} (h : State.Ending l e s t)
include h

namespace State.Ending

/-! ### The Mangle -/

theorem repack (cn crew : Nat) (k : Crew) (at_ : Option Pc) (first second : List Member) (paths : Warp → Word → Word → Div) :
    State.Ending l e s (t.repack cn crew k at_ first second paths) := by
  unfold State.repack
  refine foldl_keeps (State.Ending l e s) _ (fun _ x hu => hu.settle cn x.1 x.2) _ _ (h.setCore cn ?_)
  refine Core.EndedFor.onCrew ?_ crew
  refine foldl_keeps (Core.EndedFor l) _ (fun _ x hc => Core.EndedFor.onWarp hc x.1 x.2 ?_) _ _ ?_
  · exact fun _ hw => hw
  refine foldl_keeps (Core.EndedFor l) _ (fun _ x hc => hc.seatThread _ _ _ _ _) _ _ (Core.EndedFor.moveAccesses ?_ _ _)
  refine foldl_keeps (Core.EndedFor l) _ (fun _ x hc => Core.EndedFor.onWarp hc x.1 x.2 ?_) _ _ (h.core cn)
  exact fun _ hw => hw

theorem whenMovable (cn : Nat) (k : Crew) {move : State} (hm : State.Ending l e s move) : State.Ending l e s (t.whenMovable cn k move) := by
  unfold State.whenMovable
  split
  · exact hm
  · refine foldl_keeps (State.Ending l e s) _ (fun _ x hu => hu.onWarp cn x.1 x.2 fun w => ?_) _ _ h
    split <;> exact ⟨rfl, rfl⟩

theorem compact (cn crew : Nat) (k : Crew) : State.Ending l e s (t.compact cn crew k) := by
  unfold State.compact
  dsimp only
  split
  · exact h
  · split
    · exact h.whenMovable cn k (h.repack _ _ _ _ _ _ _)
    · exact h

theorem restoreCrew (cn crew : Nat) (k : Crew) : State.Ending l e s (t.restoreCrew cn crew k) := by
  unfold State.restoreCrew
  dsimp only
  split
  · split
    · exact h.setCore cn ((h.core cn).withCrews _)
    · exact h
  · split
    · exact h.whenMovable cn k (h.repack _ _ _ _ _ _ _)
    · exact h

theorem mangle (cn crew : Nat) : State.Ending l e s (t.mangle cn crew) := by
  unfold State.mangle
  split
  · exact h
  · split
    · exact h.restoreCrew _ _ _
    · exact h.compact _ _ _

/-! ### Lanes leave their crews, and warps their cores -/

theorem leaveLanes (cn qn wn : Nat) (m : Word) : State.Ending l e s (t.leaveLanes cn qn wn m) := by
  unfold State.leaveLanes State.leaveThen
  split
  · exact h
  next w hw =>
    have hstop := h.warp hw
    refine foldl_keeps (State.Ending l e s) _ (fun _ k hu => hu.mangle cn k) _ _ ?_
    refine foldl_keeps (State.Ending l e s) _ (fun _ x hu => hu.setCore cn ((hu.core cn).leaveSeat _ _)) _ _ (h.setWarp cn qn wn ?_)
    exact hstop

theorem removeWarp (cn qn wn : Nat) (w : Warp) : State.Ending l e s (t.removeWarp cn qn wn w) := by
  have hleft := h.leaveLanes cn qn wn 0xFFFFFFFF#32
  obtain ⟨hops, hwarps⟩ := hleft.quad cn qn
  exact hleft.setQuad cn qn ⟨fun o ho => hops o (List.mem_filter.mp ho).1, fun x hx => hwarps x (List.mem_filter.mp hx).1⟩

theorem reapLaunch (cn n : Nat) : State.Ending l e s (t.reapLaunch cn n) := by
  unfold State.reapLaunch
  refine foldl_keeps (State.Ending l e s) _ (fun u x hu => ?_) _ _ h
  split
  · exact hu
  · split
    · exact hu.removeWarp _ _ _ _
    · exact hu
end State.Ending
end

/-! ### LAUNCH_END_FOR_TRAP -/

/-- The state in which a launch has been told to stop on every core. -/
def State.launchStopped (s : State) (l : Nat) (L : Launch) : State :=
  { s with launches := s.launches.put l { L with ended := true }
           cores := s.cores.map fun (c : Nat × Core) => (c.1, (c.2.stopLaunch l).endSaved l) }

theorem exec_launchEndForTrap {s : State} {l : Nat} {L : Launch} (hL : s.launches.find l = some L) (hf : L.firstEnd ≠ none) (hc : L.complete = false) :
    exec (.launchEndForTrap l) s =
      .next ((s.launchStopped l L).cores.foldl (fun (s : State) (c : Nat × Core) => s.reapLaunch c.1 l) (s.launchStopped l L)) := by
  have hopen : ¬ (L.firstEnd.isNone || L.complete) = true := by simp [hf, hc]
  show execLaunchEndForTrap l s = _
  rw [execLaunchEndForTrap, hL]
  dsimp only
  rw [if_neg hopen]
  rfl

theorem Core.EndedFor.endSaved {l : Nat} {c : Core} (h : c.EndedFor l) : (c.endSaved l).EndedFor l := by
  unfold Core.endSaved
  exact h.same rfl rfl rfl

theorem State.launchStopped_ending (s : State) {l : Nat} {L : Launch} {e : Nat × Dword × Dword} (hf : L.firstEnd = some e) :
    State.Ending l e s (s.launchStopped l L) := by
  refine ⟨⟨rfl, rfl⟩, ⟨{ L with ended := true }, by simp [State.launchStopped], rfl, hf⟩, fun c hc => ?_⟩
  obtain ⟨c, -, rfl⟩ := List.mem_map.mp hc
  exact (Core.stopLaunch_ended c.2).endSaved

/-- A launch that took an End trap ends: nothing of it waits, and its warps stop (R336). -/
theorem launchEndForTrap_ends {s : State} {l : Nat} {L : Launch} {e : Nat × Dword × Dword} (hL : s.launches.find l = some L) (hf : L.firstEnd = some e)
    (hc : L.complete = false) : ∃ t, exec (.launchEndForTrap l) s = .next t ∧ State.Ending l e s t :=
  ⟨_, exec_launchEndForTrap hL (by simp [hf]) hc,
    foldl_keeps (State.Ending l e s) _ (fun _ c hu => hu.reapLaunch c.1 l) _ _ (s.launchStopped_ending hf)⟩

end Sys2Proof.Machine
end

section
/-! SUPPORT. Deferred faults and watchpoint reports (R292, R333, R334, R339). -/
namespace Sys2Proof.Machine

/-! ### A trap that firmware receives -/

theorem State.countFault_rest (s : State) (n : Nat) : s.countFault n = { s with launches := (s.countFault n).launches } := by
  unfold State.countFault
  split <;> rfl

theorem State.accountTrap_rest (s : State) (n ctx cause : Nat) (inHandler : Bool) (epc eva : Dword) :
    s.accountTrap n ctx cause inHandler epc eva = { s with launches := (s.accountTrap n ctx cause inHandler epc eva).launches } := by
  unfold State.accountTrap
  split
  · rfl
  · split
    · rfl
    · split
      · rfl
      · exact s.countFault_rest n

theorem State.accountTrap_cores (s : State) (n ctx cause : Nat) (inHandler : Bool) (epc eva : Dword) :
    (s.accountTrap n ctx cause inHandler epc eva).cores = s.cores := by
  rw [State.accountTrap_rest]

theorem Quadrant.deselectWarp_warps (q : Quadrant) (n : Nat) : (q.deselectWarp n).warps = q.warps := by
  unfold Quadrant.deselectWarp
  split
  · split <;> rfl
  · rfl

/-- The warp that has taken a management-path trap at a slot: `service` is what it asks for, and `inHandler` whether a word of its handler trapped. -/
def Warp.trapped (w : Warp) (kn : Nat) (r : TrapReq) (service : Option Nat) (inHandler : Bool) : Warp :=
  { w.endWindows.fullPoint with trap := w.trap.take { r with service := service } kn inHandler }

/-- A trap halts its warp, and changes nothing but the core and the launch's account (R334). -/
theorem mgmtTrap_takes {s : State} {cn qn wn : Nat} {w : Warp} (hw : s.warp cn qn wn = some w) (kn : Nat) (r : TrapReq) :
    ∃ service inHandler, (s.mgmtTrap cn qn wn kn r).warp cn qn wn = some (w.trapped kn r service inHandler) ∧
      s.mgmtTrap cn qn wn kn r = { s with cores := (s.mgmtTrap cn qn wn kn r).cores, launches := (s.mgmtTrap cn qn wn kn r).launches } := by
  let inHandler := r.inHandler || match w.handler with
    | some h => h.slot == kn
    | none => false
  let r' := if inHandler then { r with service := none } else r
  have hreq : r' = { r with service := r'.service } := by
    unfold r'
    split <;> rfl
  have heq : s.mgmtTrap cn qn wn kn r = (s.setQuad cn qn ((((s.core cn).quad qn).setWarp wn
      { w.endWindows.fullPoint with trap := w.trap.take r' kn inHandler }).deselectWarp wn)).accountTrap w.launch w.ctx r'.cause inHandler r'.epc r'.eva := by
    rewrite [State.mgmtTrap, hw]
    rfl
  refine ⟨r'.service, inHandler, ?_, ?_⟩
  · rw [heq, State.warp_of_cores (State.accountTrap_cores _ _ _ _ _ _ _), State.warp, State.quad_setQuad, Quadrant.deselectWarp_warps,
      Quadrant.find_setWarp, if_pos rfl, Warp.trapped, ← hreq]
  · rw [heq, State.accountTrap_rest]
    rfl

/-! ### Deferred faults -/

theorem exec_deferredFaultRaise {s : State} {cn qn wn : Nat} {w : Warp} (hw : s.warp cn qn wn = some w) (hh : w.trap.halted = false)
    (hm : ((s.core cn).quad qn).mayDefer wn w = true) : exec (.deferredFaultRaise cn qn wn) s = .next (s.raiseDeferred cn qn wn) := by
  show execDeferredFaultRaise cn qn wn s = _
  simp [execDeferredFaultRaise, hw, hh, hm]

/-- The trap of a deferred fault. -/
def Deferred.request (d : Deferred) : TrapReq :=
  { cause := d.cause, epc := d.epc, eva := d.eva, fmask := d.fmask, replay := if d.late.isSome then d.fmask else 0, again := false
    isDeferred := d.late.isNone && !d.plain, escalated := false, service := none, reissue := d.reissue, late := d.late }

/-- A raised fault is a trap of the warp without that fault, its queued TCHKs withdrawn. -/
theorem raiseDeferred_traps {s : State} {cn qn wn : Nat} {w : Warp} {d : Deferred} (hw : s.warp cn qn wn = some w)
    (hd : firstDeferred w.trap.deferred = some d) :
    ∃ c div, let w1 := { w with div := div, trap := { w.trap with deferred := w.trap.deferred.filter fun x => x ≠ d } }
      s.raiseDeferred cn qn wn = ((s.setCore cn c).setWarp cn qn wn w1).mgmtTrap cn qn wn 0 d.request := by
  let c0 := (s.core cn).withdrawTchk w.div.s0
  let c1 := c0.1.withdrawTchk w.div.s1
  refine ⟨c1.1, { w.div with s0 := c0.2, s1 := c1.2 }, ?_⟩
  rw [State.raiseDeferred, hw]
  dsimp only
  rw [hd]
  rfl

theorem deferred_raised {s : State} {cn qn wn : Nat} {w : Warp} (hw : s.warp cn qn wn = some w) {d : Deferred}
    (hd : firstDeferred w.trap.deferred = some d) (hh : w.trap.halted = false) (hm : ((s.core cn).quad qn).mayDefer wn w = true) :
    ∃ t w', exec (.deferredFaultRaise cn qn wn) s = .next t ∧ t.warp cn qn wn = some w' ∧ w'.trap.cause = BitVec.ofNat 9 d.cause ∧ w'.trap.epc = d.epc ∧
        w'.trap.eva = d.eva ∧ w'.trap.fmask = d.fmask ∧ w'.trap.replay = (if d.late.isSome then d.fmask else 0#32) ∧
        w'.trap.wasDeferred = (d.late.isNone && !d.plain) ∧ w'.trap.halted = true ∧ w'.trap.reissue = d.reissue ∧ w'.trap.late = d.late ∧
        w'.trap.deferred = (w.trap.deferred.filter fun x => x ≠ d) ∧ w'.rewind = .full ∧ t = { s with cores := t.cores, launches := t.launches } := by
  obtain ⟨c, div, hraise⟩ := raiseDeferred_traps hw hd
  obtain ⟨service, inHandler, hwarp, hrest⟩ := mgmtTrap_takes (State.warp_setWarp (s.setCore cn c) cn qn wn
    { w with div := div, trap := { w.trap with deferred := w.trap.deferred.filter fun x => x ≠ d } }) 0 d.request
  exact ⟨_, _, (exec_deferredFaultRaise hw hh hm).trans (congrArg _ hraise), hwarp, rfl, rfl, rfl, rfl, rfl, rfl, rfl, rfl, rfl, rfl, rfl, hrest⟩

/-! ### Watchpoint reports -/

/-- The least number of a list's, and of one before them. -/
theorem foldl_min_spec {α : Type} (f : α → Nat) (xs : List α) (n : Nat) :
    (xs.foldl (fun i x => min i (f x)) n = n ∨ ∃ x ∈ xs, f x = xs.foldl (fun i x => min i (f x)) n) ∧
      xs.foldl (fun i x => min i (f x)) n ≤ n ∧ ∀ x ∈ xs, xs.foldl (fun i x => min i (f x)) n ≤ f x := by
  induction xs generalizing n with
  | nil => exact ⟨.inl rfl, le_rfl, nofun⟩
  | cons y ys ih =>
    obtain ⟨hfrom, hle, hall⟩ := ih (min n (f y))
    rw [List.foldl_cons]
    refine ⟨?_, hle.trans (min_le_left _ _), List.forall_mem_cons.mpr ⟨hle.trans (min_le_right _ _), hall⟩⟩
    rcases hfrom with heq | ⟨x, hx, hfx⟩
    · rcases min_choice n (f y) with hn | hy
      · exact .inl (heq.trans hn)
      · exact .inr ⟨y, List.mem_cons_self, (heq.trans hy).symm⟩
    · exact .inr ⟨x, List.mem_cons_of_mem _ hx, hfx⟩

/-- Some match is that of the lowest lane. -/
theorem find_lowest {xs : List WatchHit} (hne : xs ≠ []) :
    ∃ x, (xs.find? fun x => xs.all fun y => decide (x.lane ≤ y.lane)) = some x ∧ x ∈ xs ∧ ∀ y ∈ xs, x.lane ≤ y.lane := by
  obtain ⟨m, hm⟩ := Option.ne_none_iff_exists'.mp (mt List.argmin_eq_none.mp hne : xs.argmin WatchHit.lane ≠ none)
  have hfound : (xs.find? fun x => xs.all fun y => decide (x.lane ≤ y.lane)).isSome = true := by
    rw [List.find?_isSome]
    exact ⟨m, List.argmin_mem hm, by simpa using fun y hy => List.le_of_mem_argmin hy hm⟩
  obtain ⟨x, hx⟩ := Option.isSome_iff_exists.mp hfound
  exact ⟨x, hx, List.mem_of_find?_eq_some hx, by simpa using List.find?_some hx⟩

section
variable {s : State} {cn qn wn : Nat} {w : Warp} (hw : s.warp cn qn wn = some w)
include hw

theorem watchpoint_reported {h : WatchHit} (hdue : w.trap.watch.find? (·.due) = some h) (hh : w.trap.halted = false)
    (hm : ((s.core cn).quad qn).mayWatch wn w = true) :
      let same (x : WatchHit) : Bool := h.epc == x.epc && h.slot == x.slot
      let mine := w.trap.watch.filter same
      ∃ t w' i x, exec (.watchpointReport cn qn wn) s = .next t ∧ t.warp cn qn wn = some w' ∧ w'.trap.cause = BitVec.ofNat 9 (0x140 + i) ∧
        (∃ y ∈ mine, y.comparator = i) ∧ (∀ y ∈ mine, i ≤ y.comparator) ∧ w'.trap.epc = h.epc ∧ x ∈ mine ∧ (∀ y ∈ mine, x.lane ≤ y.lane) ∧
        w'.trap.eva = x.va ∧ (∀ l, l < 32 → (w'.trap.fmask.getLsbD l = true ↔ ∃ y ∈ mine, y.lane = l)) ∧ w'.trap.slot = h.slot ∧ w'.trap.halted = true ∧
        w'.trap.watch = (w.trap.watch.filter fun x => !same x) ∧ t = { s with cores := t.cores, launches := t.launches } := by
  intro same mine
  have hmine : h ∈ mine := List.mem_filter.mpr ⟨List.mem_of_find?_eq_some hdue, by simp [same]⟩
  obtain ⟨x, hx, hxmine, hlow⟩ := find_lowest (List.ne_nil_of_mem hmine)
  obtain ⟨hfrom, -, hall⟩ := foldl_min_spec WatchHit.comparator mine h.comparator
  obtain ⟨service, inHandler, hwarp, hrest⟩ := mgmtTrap_takes (State.warp_setWarp s cn qn wn
      { w with trap := { w.trap with watch := w.trap.watch.filter fun x => !h.same x } }) h.slot
    { cause := 0x140 + mine.foldl (fun i x => min i x.comparator) h.comparator, epc := h.epc, eva := x.va
      fmask := maskOf fun l => mine.any fun x => x.lane == l, replay := 0, again := false, isDeferred := false, escalated := false, service := none }
  refine ⟨_, _, _, x, ?_, hwarp, rfl, ?_, hall, rfl, hxmine, hlow, rfl, fun l hl => ?_, rfl, rfl, rfl, hrest⟩
  · show execWatchpointReport cn qn wn s = _
    have hgo : ¬ (w.trap.halted || !((s.core cn).quad qn).mayWatch wn w) = true := by simp [hh, hm]
    rw [execWatchpointReport, hw]
    dsimp only
    rw [hdue]
    dsimp only
    rw [if_neg hgo]
    rw [show (w.trap.watch.filter h.same).find? (fun x => (w.trap.watch.filter h.same).all fun y => decide (x.lane ≤ y.lane)) = some x from hx]
    rfl
  · exact hfrom.elim (fun heq => ⟨h, hmine, heq.symm⟩) id
  · refine (iff_of_eq (congrArg (· = true) (getLsbD_maskOf _ hl))).trans ?_
    simp

theorem watchpoint_not_due (hnone : ∀ h ∈ w.trap.watch, h.due = false) : exec (.watchpointReport cn qn wn) s = .next s := by
  have hfind : w.trap.watch.find? (·.due) = none := by simpa using hnone
  show execWatchpointReport cn qn wn s = _
  rw [execWatchpointReport, hw]
  dsimp only
  rw [hfind]
end

end Sys2Proof.Machine
end

section
/-! SUPPORT. A halted warp's resume (R160, R293, R333, R335, R342). Settles O49. -/
namespace Sys2Proof.Machine

/-! ### What a resume makes of the warp -/

section
variable (s : State) (w : Warp)

theorem againLate_of_none (h : w.trap.late = none) : s.againLate w = w := by
  unfold State.againLate
  rw [h]

theorem againLate_service : (s.againLate w).trap.service = w.trap.service := by
  unfold State.againLate
  split <;> rfl
theorem againLate_ubase : (s.againLate w).ubase = w.ubase := by
  unfold State.againLate
  split <;> rfl

/-- The divergence state as firmware has edited it. -/
def State.editedDiv (s : State) (w : Warp) : Div := match w.trap.edit with
  | some x => w.div.edited (s.ringK w.launch) x
  | none => w.div
/-- The divergence state of a warp that resumes, the word at the trapping slot to be issued again or passed (R333). -/
def State.resumedDiv (s : State) (w : Warp) : Div :=
  let d := (s.editedDiv w).setSlot w.trap.slot (((s.editedDiv w).slot w.trap.slot).map w.trap.replayed)
  { d with s0 := d.s0.map Path.blankTemps, s1 := d.s1.map Path.blankTemps }
/-- The warp of a resume, of which late faults are dealt with. -/
def State.resumedWarp (s : State) (w : Warp) : Warp :=
  { w with div := s.resumedDiv w, passed := w.passed ++ (((s.editedDiv w).slot w.trap.slot).map w.trap.passes).getD []
           undef := if w.trap.service.isSome then Sparse.set 0#32 w.undef 128 0 else w.undef
           trap := { w.trap with halted := false, service := none, edit := none, resuming := false } }

variable (cn qn wn : Nat)

theorem resumed_warp : (s.resumed cn qn wn w).warps.find wn = some (s.resumedWarp (s.againLate w)) := by
  refine (Quadrant.find_setWarp _ wn _ wn).trans ?_
  rw [if_pos rfl]
  rfl

theorem resumed_rf (j : Nat) : Sparse.get 0#32 (s.resumed cn qn wn w).rf j =
    if w.trap.service.isSome ∧ j = w.ubase * 32 then serviceResult (w.trap.service.getD 0) else Sparse.get 0#32 ((s.core cn).quad qn).rf j := by
  have hfree : ∀ (b : Prop) [Decidable b] (q : Quadrant) (k : Nat), (if b then q.freeTemps wn k else q).rf = q.rf := fun b _ q k => by
    split <;> rfl
  simp only [State.resumed, againLate_service, againLate_ubase, hfree]
  cases w.trap.service with
  | none => simp
  | some n => simp
end

/-! ### The divergence state of a resume without an edit -/

theorem Div.slot_map (d : Div) (f : Path → Path) (k : Nat) : ({ d with s0 := d.s0.map f, s1 := d.s1.map f } : Div).slot k = (d.slot k).map f := by
  unfold Div.slot
  split <;> rfl

section
variable {s : State} {w : Warp} {p : Path} (he : w.trap.edit = none) (hp : w.div.slot w.trap.slot = some p)
include he hp

theorem resumedDiv_slot : (s.resumedDiv w).slot w.trap.slot = some (w.trap.replayed p).blankTemps := by
  simp only [State.resumedDiv, State.editedDiv, he, hp, Option.map_some, Div.slot_map, Div.slot_setSlot]

omit hp in
theorem resumedDiv_other : (s.resumedDiv w).slot (other w.trap.slot) = (w.div.slot (other w.trap.slot)).map Path.blankTemps := by
  simp only [State.resumedDiv, State.editedDiv, he, Div.slot_map, Div.slot_other_setSlot]

theorem mem_passed {l : Nat} (ha : w.trap.again = true) (h0 : 0x100 ≤ w.trap.cause.toNat) (h1 : w.trap.cause.toNat < 0x140) (hl : lowestLane p.mask = some l) :
    (w.trap.cause.toNat - 0x100, p.pc, l) ∈ (s.resumedWarp w).passed := by
  simp [State.resumedWarp, State.editedDiv, he, hp, TrapRegs.passes, ha, h0, h1, hl]
end

theorem TrapRegs.replayed_past {t : TrapRegs} {p : Path} (ha : t.again = true) (hr : t.replay = 0#32) :
    t.replayed p = { p with pc := if t.last then p.pc + 8 else p.pc + 4, replay := if t.last then none else some 0xFFFFFFFF#32 } := by
  rw [TrapRegs.replayed, ha, hr]
  rfl
theorem TrapRegs.replayed_again {t : TrapRegs} {p : Path} (ha : t.again = true) (hr : t.replay ≠ 0#32) :
    t.replayed p = { p with replay := if t.start ∧ t.replay = p.em then none else some t.replay } := by
  simp [TrapRegs.replayed, ha, hr]

/-! ### When a resume is made -/

/-- The places of the entries that the edited window leaves in the ring. -/
def State.resumeRing (s : State) (cn qn wn : Nat) (w : Warp) : Regions :=
  let x := s.divWindow cn qn wn w
  s.regionAll cn w.mgmt w.ctx w.launch false
    ((List.range (if w.div.keepsTop (s.ringK w.launch) x then bitsAt x 256 32 - 1 else bitsAt x 256 32)).map fun i => s.ringVa cn qn wn w (bitsAt x 288 32 + i))
/-- The stack that the edited window names keeps to R160, its entries in the ring at `pas`. -/
def State.resumeStack (s : State) (cn qn wn : Nat) (w : Warp) (pas : List Nat) : Bool :=
  let x := s.divWindow cn qn wn w
  stackOk (s.callD w.launch) x
    (pas.map (fun pa => s.memNat pa 16) ++ if w.div.keepsTop (s.ringK w.launch) x then w.div.top.toList.map fun e => leNat e.bytes else [])

section
variable {s : State} {cn qn wn : Nat} {w : Warp} (hw : s.warp cn qn wn = some w)
include hw

theorem resume_running (hh : w.trap.halted = false) : exec (.trapResume cn qn wn) s = .next s := by
  show Host.Outcome.next (s.resume cn qn wn) = _
  simp [State.resume, hw, hh]

theorem resume_later (hh : w.trap.halted = true) (hs : w.trap.service ≠ some 2) (hm : w.mgmt = false) (hp : (s.core cn).phase ≠ .running) :
    ∃ t w', exec (.trapResume cn qn wn) s = .next t ∧ t.warp cn qn wn = some w' ∧ w' = { w with trap := { w.trap with resuming := true } } ∧ CoresOnly s t := by
  refine ⟨s.setWarp cn qn wn { w with trap := { w.trap with resuming := true } }, _, ?_, State.warp_setWarp _ _ _ _ _, rfl, rfl⟩
  show Host.Outcome.next (s.resume cn qn wn) = _
  simp [State.resume, hw, hh, hs, hm, hp, State.resumeLater, onWarp_of_some hw]

section
variable (hh : w.trap.halted = true) (hs : w.trap.service ≠ some 2) (hm : w.mgmt = true ∨ (s.core cn).phase = .running)
include hh hs hm

omit hw in
/-- A halted warp that may resume now passes both tests of its resume. -/
theorem resume_now : ¬ (!w.trap.halted || w.trap.service == some 2) = true ∧ ¬ (!w.mgmt && (s.core cn).phase != .running) = true := by
  refine ⟨by simp [hh, hs], ?_⟩
  rcases hm with hm | hm <;> simp [hm]

theorem resume_badWindow (hx : windowOk (s.callD w.launch) (s.ringK w.launch) (s.divWindow cn qn wn w) = false) :
    exec (.trapResume cn qn wn) s = .next (s.badEdit cn qn wn w) := by
  obtain ⟨hgo, hslice⟩ := resume_now hh hs hm
  show Host.Outcome.next (s.resume cn qn wn) = _
  rw [State.resume, hw]
  dsimp only
  rw [if_neg hgo, if_neg hslice, if_pos hx]

section
variable (hx : windowOk (s.callD w.launch) (s.ringK w.launch) (s.divWindow cn qn wn w) = true)
  (ht : s.topHome cn qn wn w (s.divWindow cn qn wn w) = .ok [])
include hx ht

/-- With a sound window, and the top at home, the resume hangs on the entries that the window leaves in the ring. -/
theorem resume_eq : exec (.trapResume cn qn wn) s = .next (match s.resumeRing cn qn wn w with
    | .wait s' => s'.resumeLater cn qn wn
    | .fault c vs => (s.setQuad cn qn (s.resumed cn qn wn w)).mgmtTrap cn qn wn 0 (ringTrap c w.div.popPc (lowestVa vs))
    | .ok pas => if s.resumeStack cn qn wn w pas = false then s.badEdit cn qn wn w else (s.setQuad cn qn (s.resumed cn qn wn w)).settle cn qn wn) := by
  obtain ⟨hgo, hslice⟩ := resume_now hh hs hm
  show Host.Outcome.next (s.resume cn qn wn) = _
  rw [State.resume, hw]
  dsimp only
  rw [if_neg hgo, if_neg hslice, if_neg (by rw [hx]; exact Bool.noConfusion), ht]
  rfl

theorem resume_sound {pas : List Nat} (hr : s.resumeRing cn qn wn w = .ok pas) (hok : s.resumeStack cn qn wn w pas = true) :
    exec (.trapResume cn qn wn) s = .next ((s.setQuad cn qn (s.resumed cn qn wn w)).settle cn qn wn) := by
  rw [resume_eq hw hh hs hm hx ht, hr]
  dsimp only
  rw [hok]
  rfl
theorem resume_badStack {pas : List Nat} (hr : s.resumeRing cn qn wn w = .ok pas) (hok : s.resumeStack cn qn wn w pas = false) :
    exec (.trapResume cn qn wn) s = .next (s.badEdit cn qn wn w) := by
  rw [resume_eq hw hh hs hm hx ht, hr]
  dsimp only
  rw [hok]
  rfl
theorem resume_ringFault {c : Nat} {vs : List Dword} (hr : s.resumeRing cn qn wn w = .fault c vs) :
    ∃ t w', exec (.trapResume cn qn wn) s = .next t ∧ t.warp cn qn wn = some w' ∧ w'.trap.halted = true ∧
      w'.trap.cause = BitVec.ofNat 9 (ringTrap c w.div.popPc (lowestVa vs)).cause := by
  have hres : (s.setQuad cn qn (s.resumed cn qn wn w)).warp cn qn wn = some (s.resumedWarp (s.againLate w)) := by
    rw [State.warp, State.quad_setQuad, resumed_warp]
  obtain ⟨service, inHandler, hwarp, -⟩ := mgmtTrap_takes hres 0 (ringTrap c w.div.popPc (lowestVa vs))
  refine ⟨_, _, ?_, hwarp, rfl, rfl⟩
  rw [resume_eq hw hh hs hm hx ht, hr]
end
end

/-- A failed check of R160 halts the warp with cause 0x00E. -/
theorem bad_of_badEdit (he : exec (.trapResume cn qn wn) s = .next (s.badEdit cn qn wn w)) :
    ∃ t w', exec (.trapResume cn qn wn) s = .next t ∧ t.warp cn qn wn = some w' ∧ w'.trap.cause = 0x00E#9 ∧ w'.trap.halted = true := by
  obtain ⟨service, inHandler, hwarp, -⟩ := mgmtTrap_takes hw w.trap.slot
    { cause := 0x00E, epc := pcVa (BitVec.ofNat 48 (s.divWindow cn qn wn w)), eva := 0, fmask := 0, replay := w.trap.replay, again := w.trap.again
      last := w.trap.last, isDeferred := false, escalated := false, service := none, reissue := w.trap.reissue, late := w.trap.late }
  exact ⟨_, _, he, hwarp, rfl, rfl⟩
end

/-- The path at the trapping slot after a resume without an edit (R333). -/
theorem resumed_path {s : State} {w : Warp} {p : Path} (he : w.trap.edit = none) (hp : w.div.slot w.trap.slot = some p) :
    ∃ p', (s.resumedWarp w).div.slot w.trap.slot = some p' ∧
      (s.resumedWarp w).div.slot (other w.trap.slot) = (w.div.slot (other w.trap.slot)).map Path.blankTemps ∧
      (w.trap.again = false → p' = p.blankTemps) ∧
      (w.trap.again = true → w.trap.replay = 0#32 → p' = Path.blankTemps
        { p with pc := if w.trap.last then p.pc + 8 else p.pc + 4, replay := if w.trap.last then none else some 0xFFFFFFFF#32 }) ∧
      (w.trap.again = true → w.trap.replay ≠ 0#32 → p' = Path.blankTemps { p with replay := if w.trap.start ∧ w.trap.replay = p.em then none else some w.trap.replay }) ∧
      (w.trap.again = true → 0x100 ≤ w.trap.cause.toNat → w.trap.cause.toNat < 0x140 → ∀ l, lowestLane p.mask = some l →
        (w.trap.cause.toNat - 0x100, p.pc, l) ∈ (s.resumedWarp w).passed) := by
  refine ⟨_, resumedDiv_slot he hp, resumedDiv_other he, fun ha => ?_, fun ha hr => ?_, fun ha hr => ?_, fun ha h0 h1 l hl => mem_passed he hp ha h0 h1 hl⟩
  · rw [TrapRegs.replayed, ha]
    rfl
  · rw [TrapRegs.replayed_past ha hr]
  · rw [TrapRegs.replayed_again ha hr]

/-- Settles O49: a raised fault and a report are each one trap of the warp; a resume hangs on the edited window, then on its stack; what the
end of a launch discards stays gone while its warps leave. -/
theorem trapsAndResumes : Obligations.TrapsAndResumes := by
  intro s cn qn wn w hw
  refine ⟨fun d hd hh hm => deferred_raised hw hd hh hm, fun h hdue hh hm => watchpoint_reported hw hdue hh hm, watchpoint_not_due hw, resume_running hw,
    resume_later hw, fun hh hs hm => ?_, fun l L hL hf hc => ?_⟩
  · intro blank x K n kept below sound bad
    refine ⟨fun hx => bad_of_badEdit hw (resume_badWindow hw hh hs hm hx), fun hx ht => ⟨fun pas hr hok => ?_, fun c vs hr => ?_, fun pas hr hok _ => ?_⟩⟩
    · exact bad_of_badEdit hw (resume_badStack hw hh hs hm hx ht hr hok)
    · exact resume_ringFault hw hh hs hm hx ht hr
    · refine ⟨s.setQuad cn qn (s.resumed cn qn wn w), s.resumedWarp (s.againLate w), resume_sound hw hh hs hm hx ht hr hok, rfl, ?_, fun j => ?_,
        fun hl => ?_, fun hl y hy => ?_, fun hl he p hp => ?_⟩
      · rw [State.warp, State.quad_setQuad, resumed_warp]
      · rw [State.quad_setQuad, resumed_rf]
      · rw [againLate_of_none s w hl]
        exact ⟨rfl, rfl⟩
      · rw [againLate_of_none s w hl]
        simp only [State.resumedWarp, State.resumedDiv, State.editedDiv, hy]
        rfl
      · rw [againLate_of_none s w hl]
        exact resumed_path he hp
  · obtain ⟨e, he⟩ := Option.ne_none_iff_exists'.mp hf
    obtain ⟨t, hexec, hbytes, ⟨L', hL', hend, hfirst⟩, hcores⟩ := launchEndForTrap_ends hL he hc
    exact ⟨t, L', hexec, hL', hend, hfirst.trans he.symm, hbytes, hcores⟩

end Sys2Proof.Machine
end

section
/-! SUPPORT. Bytes as little-endian numbers, and the words of a scratchpad; arrivals (R1, R179, R180). -/
namespace Sys2Proof.Machine

/-! ### Little-endian numbers -/

theorem leNat_lt (bs : List Byte) : leNat bs < 256 ^ bs.length := by
  induction bs with
  | nil => simp [leNat]
  | cons b bs ih =>
    have hb := b.isLt
    rw [leNat, List.length_cons, Nat.pow_succ]
    omega

/-- The digits of a little-endian number are its bytes. -/
theorem leNat_digit (bs : List Byte) (j : Nat) : leNat bs / 256 ^ j % 256 = (bs.getD j 0#8).toNat := by
  induction bs generalizing j with
  | nil => simp [leNat]
  | cons b bs ih =>
    have hb := b.isLt
    cases j with
    | zero => simp [leNat, Nat.mod_eq_of_lt hb]
    | succ j => rw [leNat, Nat.pow_succ', ← Nat.div_div_eq_div_mul, show (b.toNat + 256 * leNat bs) / 256 = leNat bs by omega, ih, List.getD_cons_succ]

theorem leNat_toLe (x n : Nat) : leNat (toLe x n) = x % 256 ^ n := by
  induction n generalizing x with
  | zero => simp [leNat, toLe, Nat.mod_one]
  | succ n ih =>
    rw [toLe, leNat, ih, BitVec.toNat_ofNat, @Nat.pow_succ' 256 n]
    exact Nat.mod_mul.symm

/-- The bytes of a bit vector, lowest first. -/
theorem getD_toLe_toNat {k : Nat} (v : BitVec k) {n j : Nat} (h : j < n) : (toLe v.toNat n).getD j 0#8 = v.extractLsb' (8 * j) 8 := by
  rw [getD_toLe _ _ _ h, BitVec.extractLsb', Nat.shiftRight_eq_div_pow, Nat.pow_mul]

/-! ### Consecutive cells -/

section
variable {α : Type}

theorem Sparse.getD_getAll (d : α) (m : Sparse α) (a : Nat) {n j : Nat} (h : j < n) : (Sparse.getAll d m a n).getD j d = Sparse.get d m (a + j) := by
  induction n generalizing a j with
  | zero => omega
  | succ n ih =>
    cases j with
    | zero => rfl
    | succ j => rw [Sparse.getAll, List.getD_cons_succ, ih (a + 1) (by omega), Nat.add_right_comm, Nat.add_assoc]

theorem Sparse.getAll_congr (d : α) {m m' : Sparse α} {a b n : Nat} (h : ∀ j, j < n → Sparse.get d m (a + j) = Sparse.get d m' (b + j)) :
    Sparse.getAll d m a n = Sparse.getAll d m' b n := by
  induction n generalizing a b with
  | zero => rfl
  | succ n ih =>
    rw [Sparse.getAll, Sparse.getAll, ih (b := b + 1) fun j hj => by simpa only [Nat.add_assoc, Nat.add_comm 1 j] using h (j + 1) (by omega)]
    exact congrArg (· :: _) (h 0 (by omega))

theorem Sparse.get_setAll_here [DecidableEq α] (d : α) (m : Sparse α) (a : Nat) {vs : List α} {j : Nat} (h : j < vs.length) :
    Sparse.get d (Sparse.setAll d m a vs) (a + j) = vs.getD j d := by
  rw [Sparse.get_setAll, if_pos (by omega), Nat.add_sub_cancel_left]

theorem Sparse.get_setAll_apart [DecidableEq α] (d : α) (m : Sparse α) {a b : Nat} {vs : List α} (h : b < a ∨ a + vs.length ≤ b) :
    Sparse.get d (Sparse.setAll d m a vs) b = Sparse.get d m b := by
  rw [Sparse.get_setAll, if_neg (by omega)]

theorem Sparse.getAll_setAll [DecidableEq α] (d : α) (m : Sparse α) (a : Nat) (vs : List α) : Sparse.getAll d (Sparse.setAll d m a vs) a vs.length = vs := by
  refine List.ext_getElem (Sparse.length_getAll ..) fun j h h' => ?_
  rw [← List.getD_eq_getElem _ d h, ← List.getD_eq_getElem _ d h', Sparse.getD_getAll d _ a h', Sparse.get_setAll_here d m a h']
end

/-- The bytes of the number that some cells hold are those cells. -/
theorem extractLsb'_leNat_getAll (m : Memory) (x : Nat) {w k j : Nat} (hw : 8 * w ≤ k) (hj : j < w) :
    (BitVec.ofNat k (leNat (Sparse.getAll 0#8 m x w))).extractLsb' (8 * j) 8 = Sparse.get 0#8 m (x + j) := by
  have hlt : leNat (Sparse.getAll 0#8 m x w) < 2 ^ k := by
    refine (leNat_lt _).trans_le ?_
    rw [Sparse.length_getAll, show 256 = 2 ^ 8 from rfl, ← Nat.pow_mul]
    exact Nat.pow_le_pow_right (by decide) hw
  rw [← Sparse.getD_getAll 0#8 m x hj]
  apply BitVec.eq_of_toNat_eq
  rw [BitVec.extractLsb'_toNat, BitVec.toNat_ofNat, Nat.mod_eq_of_lt hlt, Nat.shiftRight_eq_div_pow, Nat.pow_mul, leNat_digit]

/-! ### Words of the scratchpad -/

theorem Memory.get_putWord_apart {m : Memory} {x j : Nat} {v : Word} (h : j < x ∨ x + 4 ≤ j) :
    Sparse.get 0#8 (m.putWord x v) j = Sparse.get 0#8 m j :=
  Sparse.get_setAll_apart 0#8 m (by rwa [length_toLe])

theorem Memory.word_putWord (m : Memory) (x : Nat) (v : Word) : (m.putWord x v).word x = v := by
  have h := Sparse.getAll_setAll 0#8 m x (toLe v.toNat 4)
  rw [length_toLe] at h
  rw [Memory.word, Memory.putWord, h, leNat_toLe, Nat.mod_eq_of_lt (by simpa using v.isLt), BitVec.ofNat_toNat, BitVec.setWidth_eq]

theorem Memory.word_putWord_apart {m : Memory} {x y : Nat} {v : Word} (h : y + 4 ≤ x ∨ x + 4 ≤ y) : (m.putWord x v).word y = m.word y := by
  rw [Memory.word, Memory.word, Sparse.getAll_congr 0#8 fun j hj => Memory.get_putWord_apart (by omega)]

/-! ### Arrivals (R180) -/

section
variable {m : Memory} {x : Nat} {u : Word}

/-- An arrival that does not reach the target, or that finds none, counts alone. -/
theorem Memory.arrive_counts (h : (m.word (x + 4)).toNat = 0 ∨ min ((m.word x).toNat + u.toNat) 0xFFFFFFFF < (m.word (x + 4)).toNat) :
    m.arrive x u = (m.putWord x (BitVec.ofNat 32 (min ((m.word x).toNat + u.toNat) 0xFFFFFFFF))).putWord (x + 12)
      (m.word (x + 12) ||| if 0xFFFFFFFF < (m.word x).toNat + u.toNat then 1#32 else 0#32) :=
  if_neg (by omega)

/-- An arrival that reaches the target steps the generation. -/
theorem Memory.arrive_steps (h0 : (m.word (x + 4)).toNat ≠ 0) (h : (m.word (x + 4)).toNat ≤ min ((m.word x).toNat + u.toNat) 0xFFFFFFFF) :
    m.arrive x u = ((m.putWord x (BitVec.ofNat 32 (min ((m.word x).toNat + u.toNat) 0xFFFFFFFF % (m.word (x + 4)).toNat))).putWord (x + 8)
      (m.word (x + 8) + BitVec.ofNat 32 (min ((m.word x).toNat + u.toNat) 0xFFFFFFFF / (m.word (x + 4)).toNat))).putWord (x + 12)
        ((m.word (x + 12) ||| if 0xFFFFFFFF < (m.word x).toNat + u.toNat then 1#32 else 0#32) ||| 2#32) :=
  if_pos ⟨h0, h⟩

/-- The words of an arrival word after an arrival that counts alone. -/
theorem Memory.words_arrive_counts (h : (m.word (x + 4)).toNat = 0 ∨ min ((m.word x).toNat + u.toNat) 0xFFFFFFFF < (m.word (x + 4)).toNat) :
    (m.arrive x u).word x = BitVec.ofNat 32 (min ((m.word x).toNat + u.toNat) 0xFFFFFFFF) ∧ (m.arrive x u).word (x + 8) = m.word (x + 8) ∧
      (m.arrive x u).word (x + 12) = m.word (x + 12) ||| if 0xFFFFFFFF < (m.word x).toNat + u.toNat then 1#32 else 0#32 := by
  rw [Memory.arrive_counts h]
  refine ⟨?_, ?_, Memory.word_putWord ..⟩ <;> simp (disch := omega) only [Memory.word_putWord_apart, Memory.word_putWord]

/-- The words of an arrival word after an arrival that steps its generation. -/
theorem Memory.words_arrive_steps (h0 : (m.word (x + 4)).toNat ≠ 0) (h : (m.word (x + 4)).toNat ≤ min ((m.word x).toNat + u.toNat) 0xFFFFFFFF) :
    (m.arrive x u).word x = BitVec.ofNat 32 (min ((m.word x).toNat + u.toNat) 0xFFFFFFFF % (m.word (x + 4)).toNat) ∧
      (m.arrive x u).word (x + 8) = m.word (x + 8) + BitVec.ofNat 32 (min ((m.word x).toNat + u.toNat) 0xFFFFFFFF / (m.word (x + 4)).toNat) ∧
      (m.arrive x u).word (x + 12) = (m.word (x + 12) ||| if 0xFFFFFFFF < (m.word x).toNat + u.toNat then 1#32 else 0#32) ||| 2#32 := by
  rw [Memory.arrive_steps h0 h]
  refine ⟨?_, ?_, Memory.word_putWord ..⟩ <;> simp (disch := omega) only [Memory.word_putWord_apart, Memory.word_putWord]

/-- An arrival changes neither the target nor a byte outside its word. -/
theorem Memory.arrive_leaves (m : Memory) (x : Nat) (u : Word) :
    (m.arrive x u).word (x + 4) = m.word (x + 4) ∧ ∀ j, j < x ∨ x + 16 ≤ j → Sparse.get 0#8 (m.arrive x u) j = Sparse.get 0#8 m j := by
  by_cases h : (m.word (x + 4)).toNat ≠ 0 ∧ (m.word (x + 4)).toNat ≤ min ((m.word x).toNat + u.toNat) 0xFFFFFFFF
  · rw [Memory.arrive_steps h.1 h.2]
    refine ⟨?_, fun j hj => ?_⟩ <;> simp (disch := omega) only [Memory.word_putWord_apart, Memory.get_putWord_apart]
  · rw [Memory.arrive_counts (by omega)]
    refine ⟨?_, fun j hj => ?_⟩ <;> simp (disch := omega) only [Memory.word_putWord_apart, Memory.get_putWord_apart]
end

/-- An arrival, by whether its sum saturates and whether it reaches a target. -/
theorem Memory.arrive_spec (m : Memory) (x : Nat) (u : Word) :
    let count := (m.word x).toNat + u.toNat
    let target := (m.word (x + 4)).toNat
    let n := m.arrive x u
    (count < 2 ^ 32 → target = 0 ∨ count < target → n.word x = m.word x + u ∧ n.word (x + 8) = m.word (x + 8) ∧ n.word (x + 12) = m.word (x + 12)) ∧
    (count < 2 ^ 32 → target ≠ 0 → target ≤ count → n.word x = BitVec.ofNat 32 (count % target) ∧
      n.word (x + 8) = m.word (x + 8) + BitVec.ofNat 32 (count / target) ∧ n.word (x + 12) = m.word (x + 12) ||| 2#32) ∧
    (2 ^ 32 ≤ count → target = 0 → n.word x = 0xFFFFFFFF#32 ∧ n.word (x + 8) = m.word (x + 8) ∧ n.word (x + 12) = m.word (x + 12) ||| 1#32) ∧
    (2 ^ 32 ≤ count → target ≠ 0 → n.word x = BitVec.ofNat 32 (0xFFFFFFFF % target) ∧
      n.word (x + 8) = m.word (x + 8) + BitVec.ofNat 32 (0xFFFFFFFF / target) ∧ n.word (x + 12) = m.word (x + 12) ||| 3#32) ∧
    n.word (x + 4) = m.word (x + 4) ∧ ∀ j, j < x ∨ x + 16 ≤ j → Sparse.get 0#8 n j = Sparse.get 0#8 m j := by
  intro count target n
  have hmax : target < 2 ^ 32 := (m.word (x + 4)).isLt
  refine ⟨fun hc ht => ?_, fun hc h0 ht => ?_, fun hc h0 => ?_, fun hc h0 => ?_, Memory.arrive_leaves m x u⟩
  · have hmin : min count 0xFFFFFFFF = count := min_eq_left (by omega)
    obtain ⟨h1, h2, h3⟩ := Memory.words_arrive_counts (m := m) (x := x) (u := u) (ht.imp id fun h => hmin.trans_lt h)
    rw [show min _ _ = _ from hmin] at h1
    rw [if_neg (show ¬ 0xFFFFFFFF < count by omega), BitVec.or_zero] at h3
    exact ⟨h1.trans (by simp [count, BitVec.ofNat_add]), h2, h3⟩
  · have hmin : min count 0xFFFFFFFF = count := min_eq_left (by omega)
    obtain ⟨h1, h2, h3⟩ := Memory.words_arrive_steps (m := m) (x := x) (u := u) h0 (ht.trans_eq hmin.symm)
    rw [show min _ _ = _ from hmin] at h1 h2
    rw [if_neg (show ¬ 0xFFFFFFFF < count by omega), BitVec.or_zero] at h3
    exact ⟨h1, h2, h3⟩
  · have hmin : min count 0xFFFFFFFF = 0xFFFFFFFF := min_eq_right (by omega)
    obtain ⟨h1, h2, h3⟩ := Memory.words_arrive_counts (m := m) (x := x) (u := u) (.inl h0)
    rw [show min _ _ = _ from hmin] at h1
    rw [if_pos (show 0xFFFFFFFF < count by omega)] at h3
    exact ⟨h1, h2, h3⟩
  · have hmin : min count 0xFFFFFFFF = 0xFFFFFFFF := min_eq_right (by omega)
    obtain ⟨h1, h2, h3⟩ := Memory.words_arrive_steps (m := m) (x := x) (u := u) h0 (by rw [show min _ _ = _ from hmin]; omega)
    rw [show min _ _ = _ from hmin] at h1 h2
    rw [if_pos (show 0xFFFFFFFF < count by omega), BitVec.or_assoc] at h3
    exact ⟨h1, h2, h3⟩

end Sys2Proof.Machine
end

section
/-! SUPPORT. A scratchpad word's checks, its cycles, and what one lane of it does (R170, R172, R182-R185). -/
namespace Sys2Proof.Machine

/-! ### Cycles that are not reserved, and banks (R172) -/

/-- Of the numbers below `e`, those from `t` up are the interval between them. -/
theorem countP_range_from (p : Nat → Bool) (t e : Nat) : (List.range e).countP (fun x => decide (t ≤ x) && p x) = (List.Ico t e).countP p := by
  have h := List.countP_filter (p := p) (q := fun x => decide (t ≤ x)) (l := List.Ico 0 e)
  rw [List.Ico.filter_le, Nat.zero_max, List.Ico.zero_bot] at h
  rw [h]
  exact List.countP_congr fun x _ => by rw [Bool.and_comm]

theorem freeCycle_spec (n t : Nat) (ht : t % 8 ≠ 7) :
    t ≤ freeCycle n t ∧ freeCycle n t % 8 ≠ 7 ∧ (List.Ico t (freeCycle n t)).countP (fun x => decide (x % 8 ≠ 7)) = n := by
  induction n generalizing t with
  | zero => exact ⟨le_rfl, ht, by simp [freeCycle]⟩
  | succ n ih =>
    rw [freeCycle]
    split
    · next hr =>
      obtain ⟨hle, hfree, hcount⟩ := ih (t + 2) (by omega)
      refine ⟨by omega, hfree, ?_⟩
      rw [List.Ico.eq_cons (by omega), List.Ico.eq_cons (by omega), List.countP_cons_of_pos (by simpa using ht), List.countP_cons_of_neg (by simpa using hr), hcount]
    · next hr =>
      obtain ⟨hle, hfree, hcount⟩ := ih (t + 1) hr
      refine ⟨by omega, hfree, ?_⟩
      rw [List.Ico.eq_cons (by omega), List.countP_cons_of_pos (by simpa using ht), hcount]

/-- The largest of some numbers and a first one. -/
theorem foldl_max_spec (g : Nat → Nat) (l : List Nat) (a : Nat) :
    (∀ b ∈ l, g b ≤ l.foldl (fun m b => max m (g b)) a) ∧ a ≤ l.foldl (fun m b => max m (g b)) a ∧
      (l.foldl (fun m b => max m (g b)) a = a ∨ ∃ b ∈ l, g b = l.foldl (fun m b => max m (g b)) a) := by
  induction l generalizing a with
  | nil => simp
  | cons x l ih =>
    obtain ⟨hall, hle, hmeet⟩ := ih (max a (g x))
    simp only [List.foldl_cons, List.mem_cons, forall_eq_or_imp, exists_eq_or_imp]
    refine ⟨⟨(le_max_right _ _).trans hle, hall⟩, (le_max_left _ _).trans hle, ?_⟩
    rcases hmeet with h | h
    · rw [h]
      rcases max_choice a (g x) with hm | hm
      · exact .inl hm
      · exact .inr (.inl hm.symm)
    · exact .inr (.inr h)

theorem bankCycles_spec (ws : List Nat) :
    1 ≤ bankCycles false ws ∧ (∀ b, b < 37 → (ws.countP fun w => w % 37 == b) ≤ bankCycles false ws) ∧
      (bankCycles false ws = 1 ∨ ∃ b, b < 37 ∧ (ws.countP fun w => w % 37 == b) = bankCycles false ws) := by
  obtain ⟨hall, -, hmeet⟩ := foldl_max_spec (fun b => ws.countP fun w => w % 37 == b) (List.range 37) 0
  have heq : bankCycles false ws = max 1 ((List.range 37).foldl (fun m b => max m (ws.countP fun w => w % 37 == b)) 0) := rfl
  refine ⟨heq ▸ le_max_left _ _, fun b hb => heq ▸ (hall b (List.mem_range.mpr hb)).trans (le_max_right _ _), ?_⟩
  rcases max_choice 1 ((List.range 37).foldl (fun m b => max m (ws.countP fun w => w % 37 == b)) 0) with h | h
  · exact .inl (heq.trans h)
  · rcases hmeet with h0 | ⟨b, hb, hcount⟩
    · rw [h0] at heq
      exact .inl heq
    · exact .inr ⟨b, List.mem_range.mp hb, hcount.trans (h.symm.trans heq.symm)⟩

/-! ### The checks (R170) -/

section
variable {width align : Nat} {xs : List Spot}

/-- A lane's access lies outside its crew's span, or the crew is swapped out; a lane without a crew has none. -/
def Spot.outside (width : Nat) (x : Spot) : Bool := match x.crew with
  | some k => k.swapped || decide (1024 * k.g < x.off + width)
  | none => true

theorem Spot.outside_crewed {x : Spot} (h : x.crew.isNone = false) :
    x.outside width = x.crew.any fun k => k.swapped || decide (1024 * k.g < x.off + width) := by
  unfold Spot.outside
  cases hc : x.crew with
  | none => simp [hc] at h
  | some k => rfl

/-- Some lane fails a check. -/
def someFail (c : Nat × List Spot) : Bool := !c.2.isEmpty

theorem someFail_filter (n : Nat) (p : Spot → Bool) : someFail (n, xs.filter p) = xs.any p := by
  rw [Bool.eq_iff_iff]
  simp [someFail]

/-- The fault is that of the first check that some lane fails. -/
theorem spotFault_eq : spotFault width align xs = [(0x00C, xs.filter fun x => x.crew.isNone), (0x046, xs.filter (Spot.outside width)),
    (0x047, xs.filter fun x => x.off % align != 0)].find? someFail := by
  unfold spotFault
  extract_lets outside
  rw [show Spot.outside width = outside from rfl]
  split
  · next hcrew => rw [hcrew]; rfl
  · next hcrew =>
    split
    · next hspan => rw [hcrew, hspan]; rfl
    · next hspan =>
      split
      · next halign => rw [hcrew, hspan, halign]; rfl
      · next halign => rw [hcrew, hspan, halign]; rfl

theorem spotFault_spec (width align : Nat) (xs : List Spot) :
    let alone (x : Spot) : Bool := x.crew.isNone
    let outside (x : Spot) : Bool := x.crew.any fun k => k.swapped || decide (1024 * k.g < x.off + width)
    let askew (x : Spot) : Bool := x.off % align != 0
    (xs.any alone = true → spotFault width align xs = some (0x00C, xs.filter alone)) ∧
    (xs.any alone = false → xs.any outside = true → spotFault width align xs = some (0x046, xs.filter outside)) ∧
    (xs.any alone = false → xs.any outside = false → xs.any askew = true → spotFault width align xs = some (0x047, xs.filter askew)) ∧
    (xs.any alone = false → xs.any outside = false → xs.any askew = false → spotFault width align xs = none) := by
  intro alone outside askew
  -- with every lane in a crew, the check of the span reads the crews alone
  have hspan (h : xs.any alone = false) : xs.filter (Spot.outside width) = xs.filter outside :=
    List.filter_congr fun x hx => Spot.outside_crewed (Bool.eq_false_of_not_eq_true (List.any_eq_false.mp h x hx))
  have hcrew : xs.any (fun x => x.crew.isNone) = xs.any alone := rfl
  have halign : xs.any (fun x => x.off % align != 0) = xs.any askew := rfl
  rw [spotFault_eq]
  refine ⟨fun ha => ?_, fun ha ho => ?_, fun ha ho hk => ?_, fun ha ho hk => ?_⟩
  · simp only [List.find?_cons, someFail_filter, hcrew, ha]
    rfl
  · rw [hspan ha]
    simp only [List.find?_cons, someFail_filter, hcrew, ha, ho]
  · rw [hspan ha]
    simp only [List.find?_cons, someFail_filter, hcrew, ha, ho, halign, hk]
    rfl
  · rw [hspan ha]
    simp only [List.find?_cons, someFail_filter, hcrew, ha, ho, halign, hk, List.find?_nil]
end

/-! ### What one lane does -/

section
variable (m r : Memory) (x w : Nat) (data : BitVec 128)

/-- A load that extends by zeros has the bytes that it finds, lowest first, and nothing above them. -/
theorem spotAct_load (hw : 8 * w ≤ 128) : ∃ v, (spotAct (.scratchLoad false) w data m r x).2 = some v ∧ v.toNat < 2 ^ (8 * w) ∧
    ∀ j, j < w → v.extractLsb' (8 * j) 8 = Sparse.get 0#8 r (x + j) := by
  refine ⟨_, rfl, ?_, fun j hj => extractLsb'_leNat_getAll r x hw hj⟩
  have hlt := leNat_lt (Sparse.getAll 0#8 r x w)
  rw [Sparse.length_getAll, show 256 = 2 ^ 8 from rfl, ← Nat.pow_mul] at hlt
  exact ((BitVec.toNat_ofNat ..).trans_le (Nat.mod_le _ _)).trans_lt hlt

theorem spotAct_load_byte : (spotAct (.scratchLoad true) 1 data m r x).2 = some (((Sparse.get 0#8 r x).signExtend 32).setWidth 128) := by
  simp [spotAct, extended, Sparse.getAll, leNat]

theorem spotAct_load_half :
    (spotAct (.scratchLoad true) 2 data m r x).2 = some (((Sparse.get 0#8 r (x + 1) ++ Sparse.get 0#8 r x : BitVec 16).signExtend 32).setWidth 128) := by
  have h : BitVec.ofNat 16 (leNat (Sparse.getAll 0#8 r x 2)) = (Sparse.get 0#8 r (x + 1) ++ Sparse.get 0#8 r x : BitVec 16) := by
    apply BitVec.eq_of_toNat_eq
    rw [BitVec.toNat_append, ← Nat.shiftLeft_add_eq_or_of_lt (Sparse.get 0#8 r x).isLt]
    have h0 := (Sparse.get 0#8 r x).isLt
    have h1 := (Sparse.get 0#8 r (x + 1)).isLt
    simp [Sparse.getAll, leNat, Nat.shiftLeft_eq]
    omega
  exact congrArg (fun v : BitVec 16 => some ((v.signExtend 32).setWidth 128)) h

theorem spotAct_store :
    (∀ j, j < w → Sparse.get 0#8 (spotAct .scratchStore w data m r x).1 (x + j) = data.extractLsb' (8 * j) 8) ∧
    ∀ j, j < x ∨ x + w ≤ j → Sparse.get 0#8 (spotAct .scratchStore w data m r x).1 j = Sparse.get 0#8 m j := by
  refine ⟨fun j hj => ?_, fun j hj => Sparse.get_setAll_apart 0#8 m (by rwa [length_toLe])⟩
  exact (Sparse.get_setAll_here 0#8 m x (by rwa [length_toLe])).trans (getD_toLe_toNat data hj)

theorem spotAct_atomic (op : AtOp) : (spotAct (.scratchAtomic op) 4 data m r x).2 = some ((r.word x).setWidth 128) ∧
    (spotAct (.scratchAtomic op) 4 data m r x).1.word x =
      BitVec.ofNat 32 (op.apply 32 (r.word x).toNat (data.extractLsb' 0 32).toNat (data.extractLsb' 32 32).toNat) ∧
    ∀ j, j < x ∨ x + 4 ≤ j → Sparse.get 0#8 (spotAct (.scratchAtomic op) 4 data m r x).1 j = Sparse.get 0#8 r j := by
  refine ⟨rfl, ?_, fun j hj => Memory.get_putWord_apart hj⟩
  rw [BitVec.extractLsb'_toNat, BitVec.extractLsb'_toNat, Nat.shiftRight_eq_div_pow, Nat.shiftRight_eq_div_pow, Nat.pow_zero, Nat.div_one]
  exact Memory.word_putWord ..

/-- ARSET arms with the target and clears the count and the flags; the generation stays. -/
theorem spotAct_arset :
    (spotAct .arset 16 data m r x).2 = none ∧ (spotAct .arset 16 data m r x).1.word x = 0#32 ∧
      (spotAct .arset 16 data m r x).1.word (x + 4) = data.extractLsb' 0 32 ∧ (spotAct .arset 16 data m r x).1.word (x + 8) = m.word (x + 8) ∧
      (spotAct .arset 16 data m r x).1.word (x + 12) = 0#32 ∧
      ∀ j, j < x ∨ x + 16 ≤ j → Sparse.get 0#8 (spotAct .arset 16 data m r x).1 j = Sparse.get 0#8 m j := by
  have hacts : (spotAct .arset 16 data m r x).1 = ((m.putWord x 0).putWord (x + 4) (data.setWidth 32)).putWord (x + 12) 0 := rfl
  rw [hacts, ← BitVec.setWidth_eq_extractLsb' (by decide)]
  refine ⟨rfl, ?_, ?_, ?_, Memory.word_putWord .., fun j hj => ?_⟩ <;>
    simp (disch := omega) only [Memory.word_putWord_apart, Memory.word_putWord, Memory.get_putWord_apart]
  rfl

/-- ARWAIT returns the generation where it is past the one named by 2^31 at most (R185). -/
theorem spotAct_arwait : (spotAct .arwait 16 data m r x).2 = some ((r.word (x + 8)).setWidth 128) ↔
    r.word (x + 8) ≠ data.extractLsb' 0 32 ∧ (r.word (x + 8) - data.extractLsb' 0 32).toNat ≤ 2 ^ 31 := by
  have hpos : 1 ≤ (r.word (x + 8) - data.setWidth 32).toNat ↔ r.word (x + 8) ≠ data.setWidth 32 := by
    rw [Nat.one_le_iff_ne_zero, ne_eq, ne_eq, ← sub_eq_zero (a := r.word (x + 8)), ← BitVec.toNat_inj]
    rfl
  rw [← BitVec.setWidth_eq_extractLsb' (by decide), ← hpos]
  exact Option.ite_none_right_eq_some.trans (and_iff_left rfl)
end

end Sys2Proof.Machine
end

section
/-! SUPPORT. Words that post results, and that change the records of their core and quadrant (R28, R29, R171). -/
namespace Sys2Proof.Machine

/-! ### Destinations that are noted -/

theorem Noted.trans {V W X : View} {ds es : List Nat} (h : Noted V W false ds) (k : Noted W X false es) : Noted V X false (ds ++ es) := by
  obtain ⟨hrest, hrow, huni⟩ := h
  obtain ⟨krest, krow, kuni⟩ := k
  have apart {n : Nat} (hn : false = true ∨ n ∉ ds ++ es) : (false = true ∨ n ∉ ds) ∧ (false = true ∨ n ∉ es) := by
    simpa [not_or] using hn
  exact ⟨by rw [krest, hrest], fun n hn hd => (krow n hn (apart hd).2).trans (hrow n hn (apart hd).1),
    fun n hn _ => (kuni n hn (.inl rfl)).trans (huni n hn (.inl rfl))⟩

theorem noted_noteLane (V : View) (k : Nat) : Noted V (V.noteLane k) false [k] := by
  unfold View.noteLane
  split
  · refine ⟨rfl, fun n _ hk => ?_, fun n _ _ => ?_⟩
    · have : n ≠ k := by simpa using hk
      rw [Sparse.get_set, if_neg this]
    · rw [Sparse.get_set, if_neg (by omega)]
  · exact ⟨rfl, fun _ _ _ => rfl, fun _ _ _ => rfl⟩

/-- The destinations of a word that posts its results: their contents become undefined at most, and nothing else changes. -/
theorem noted_noteLanes (V : View) (ds : List Nat) : Noted V (ds.foldl View.noteLane V) false ds := by
  induction ds generalizing V with
  | nil => exact ⟨rfl, fun _ _ _ => rfl, fun _ _ _ => rfl⟩
  | cons d ds ih => exact (noted_noteLane V d).trans (ih (V.noteLane d))

/-! ### Words that post -/

/-- A word that changes its core's records beside the quadrants and its quadrant's beside the registers and warps, its warp and what is defined, and retires. -/
theorem posts_of_core {i : Instr} {s : State} {V W : View} {c : Core} {q : Quadrant} {b : Warp} {uniform : Bool} {ds : List Nat} (hv : s.view = some V)
    (hc : c.quads = V.c.quads) (hw : q.warps = V.q.warps) (he : exec i s = .next (W.retire (infoOf i)))
    (hb : Became { V with c := c, q := q } s b V.p W) (hW : W.q.rf = q.rf)
    (hrow : ∀ k, k < 120 → uniform = true ∨ k ∉ ds → Sparse.get 0#32 W.w.undef k = Sparse.get 0#32 V.w.undef k)
    (huni : ∀ k, k < 56 → uniform = false ∨ k ∉ ds → Sparse.get 0#32 W.w.undef (128 + k) = Sparse.get 0#32 V.w.undef (128 + k)) :
    Posts i s s { V with c := c, q := q } (if (infoOf i).rc then b.fullPoint else b) uniform ds := by
  have hf := State.view_from hv
  have hquad (k : Nat) : c.quad k = V.c.quad k := by rw [Core.quad, hc]; rfl
  -- the view of the state in which the records already stand so
  have hf' : View.From { V with s := s.setCore V.cn (c.setQuad V.qn q), c := c.setQuad V.qn q, q := q } (s.setCore V.cn (c.setQuad V.qn q)) :=
    ⟨rfl, by simp, by simp, by rw [← hf.warp]; exact congrArg (Table.find · V.wn) hw, hf.path, hf.run, hf.em⟩
  have hb' : Became { V with s := s.setCore V.cn (c.setQuad V.qn q), c := c.setQuad V.qn q, q := q } (s.setCore V.cn (c.setQuad V.qn q)) b V.p
      { W with s := s.setCore V.cn (c.setQuad V.qn q), c := c.setQuad V.qn q } := ⟨by rw [hb.rest], rfl, rfl, rfl, rfl⟩
  have ht : View.retire { W with s := s.setCore V.cn (c.setQuad V.qn q), c := c.setQuad V.qn q } (infoOf i) = W.retire (infoOf i) := by
    rw [hb.rest]
    simp only [View.retire, View.put, View.putWarp, View.advance, State.setCore, Core.setQuad, Table.put_put]
    rfl
  obtain ⟨h1, w, p, r, h2, -, -, h5, h6, -⟩ := View.retire_frame (i := infoOf i) hf' hb'
  rw [ht] at h1 h2 h5
  refine ⟨_, w, he, ⟨⟨h1.rest, h1.bytes, h1.time, fun n hn => ?_⟩, h1.core, fun k hk => ?_, h1.quad, h1.warps⟩,
    ⟨h2.here, h2.rest, h2.div, h2.other, h2.path⟩, h5.trans hW, by rwa [h6], by rwa [h6]⟩
  · rw [h1.others n hn, State.core_setCore, if_neg hn]
  · rw [h1.quads k hk, Core.quad_setQuad, if_neg hk]

end Sys2Proof.Machine
end

section
/-! SUPPORT. Scratchpad and arrival words at issue (R170, R171, R177, R185, R186). Settles O26. -/
namespace Sys2Proof.Machine

/-! ### The lanes of a word -/

theorem View.laneN_one (V : View) (k l : Nat) : (V.laneN k 1 l).setWidth 32 = V.lane k l := by
  simp [View.laneN, List.range_succ]

theorem View.mem_spots {V : View} {a : BitVec 7} {k : BitVec 3} {x : Spot} (h : x ∈ V.spots a k) : x.lane < 32 := by
  obtain ⟨l, hl, rfl⟩ := List.mem_map.mp h
  exact (lanesOf_mem.mp hl).1

theorem View.spots_eq_nil {V : View} {a : BitVec 7} {k : BitVec 3} : V.spots a k = [] ↔ V.em = 0#32 := by
  rw [View.spots, List.map_eq_nil_iff, List.eq_nil_iff_forall_not_mem]
  simp only [lanesOf_mem, not_and, Bool.not_eq_true]
  refine ⟨fun h => BitVec.eq_of_getLsbD_eq fun l hl => by rw [h l hl, BitVec.getLsbD_zero], fun h l _ => by rw [h, BitVec.getLsbD_zero]⟩

/-- The mask of the lanes of some of a word's accesses. -/
theorem getLsbD_lanes (xs : List Spot) {l : Nat} (hl : l < 32) :
    (maskOf fun l => xs.any fun x => x.lane == l).getLsbD l = true ↔ ∃ x ∈ xs, x.lane = l := by
  rw [getLsbD_maskOf _ hl]
  simp

/-! ### The branches of a scratchpad word -/

/-- A word of a form writes the scratchpad. -/
def SpotForm.writes (f : SpotForm) : Bool := !(f.kind == .scratchLoad true || f.kind == .scratchLoad false || f.kind == .arpoll || f.kind == .arwait)

/-- A quadrant's presented access is that of the issuing word, and has been accepted (R171). -/
def View.mine (V : View) (x : Presented) : Bool := x.accepted && x.warp == V.wn && x.slot == V.kn && x.pc == V.p.pc

/-- A scratchpad word that has passed its checks and its fences. -/
def View.spotIssue (V : View) (i : Info) (f : SpotForm) (d la : Nat) (xs : List Spot) : State :=
  if xs.isEmpty then (if f.dest = 0 then V else V.windowOnly f.kind ((List.range f.dest).map (d + ·)) la).retire i
  else if xs.any fun x => V.w.blocked (V.spotAsk f f.writes x) then
    (if xs.any fun x => V.w.sb.any fun b => b.held && (V.spotAsk f f.writes x).needs b then { V with w := V.w.fullPoint } else V).hold 4
  else match V.q.presented.filter V.mine with
    | some x =>
      match V.waitBad f d xs with
      | [] => (V.perform f d la xs x.at_).retire i
      | bad => (V.occupy f xs x.at_).fault 0x0C8 0#64 (maskOf fun l => bad.any fun x => x.lane == l)
    | none => { V with q := { V.q with presented := some { warp := V.wn, slot := V.kn, pc := V.p.pc, accepted := false } } }.hold 4

section
variable {V : View} {i : Info} {f : SpotForm} {d a : BitVec 7} {l : BitVec 4} {k : BitVec 3}

theorem View.scratchpad_full (h : 32 < V.w.pendingCount + f.dest) : V.scratchpad i f d a l k = V.breakRun (.score [] [] f.dest) := if_pos h

theorem View.scratchpad_fault {c : Nat} {y : Spot} {ys : List Spot} (h : V.w.pendingCount + f.dest ≤ 32)
    (hf : spotFault f.width f.align (V.spots a k) = some (c, y :: ys)) :
    V.scratchpad i f d a l k = V.fault c (BitVec.ofNat 64 y.addr) (maskOf fun l => (y :: ys).any fun x => x.lane == l) := by
  unfold View.scratchpad
  simp only [if_neg (Nat.not_lt.mpr h), hf]
  rfl

theorem View.scratchpad_passes (h : V.w.pendingCount + f.dest ≤ 32) (hf : spotFault f.width f.align (V.spots a k) = none) :
    V.scratchpad i f d a l k = V.fenced V.em false f.writes fun V' => V'.spotIssue i f d.toNat l.toNat (V.spots a k) := by
  unfold View.scratchpad
  simp only [if_neg (Nat.not_lt.mpr h), hf]
  obtain ⟨width, align, kind, dest, regs⟩ := f
  cases kind
  case scratchLoad signed => cases signed <;> rfl
  all_goals rfl

theorem View.scratchpad_fenced (h : V.w.pendingCount + f.dest ≤ 32) (hf : spotFault f.width f.align (V.spots a k) = none)
    (hfen : V.fencesOf V.em false f.writes ≠ []) : V.scratchpad i f d a l k =
      View.hold { V with w := if V.fenceHeld V.em false (V.fencesOf V.em false f.writes) then V.w.fullPoint else V.w } 5 := by
  rw [View.scratchpad_passes h hf, View.fenced]
  cases hfs : V.fencesOf V.em false f.writes with
  | nil => exact absurd hfs hfen
  | cons x xs => rfl

theorem View.scratchpad_issues (h : V.w.pendingCount + f.dest ≤ 32) (hf : spotFault f.width f.align (V.spots a k) = none)
    (hfen : V.fencesOf V.em false f.writes = []) : V.scratchpad i f d a l k = V.spotIssue i f d.toNat l.toNat (V.spots a k) := by
  rw [View.scratchpad_passes h hf, View.fenced, hfen]
end

section
variable {V : View} {i : Info} {f : SpotForm} {d la : Nat} {xs : List Spot}

theorem View.spotIssue_nil : V.spotIssue i f d la [] =
    (if f.dest = 0 then V else V.windowOnly f.kind ((List.range f.dest).map (d + ·)) la).retire i := rfl

theorem View.spotIssue_blocked (h : ∃ x ∈ xs, V.w.blocked (V.spotAsk f f.writes x) = true) : V.spotIssue i f d la xs =
    View.hold { V with w := if xs.any fun x => V.w.sb.any fun b => b.held && (V.spotAsk f f.writes x).needs b then V.w.fullPoint else V.w } 4 := by
  obtain ⟨x, hx, -⟩ := id h
  rw [View.spotIssue, if_neg (by simpa using List.ne_nil_of_mem hx), if_pos (List.any_eq_true.mpr h)]
  split <;> rfl

variable (hne : xs ≠ []) (hfree : ∀ x ∈ xs, V.w.blocked (V.spotAsk f f.writes x) = false)
include hne hfree

theorem View.spotIssue_presents (h : ∀ at_, V.q.presented ≠ some { warp := V.wn, slot := V.kn, pc := V.p.pc, accepted := true, at_ := at_ }) :
    V.spotIssue i f d la xs = View.hold { V with q := { V.q with presented := some { warp := V.wn, slot := V.kn, pc := V.p.pc, accepted := false } } } 4 := by
  have hnone : V.q.presented.filter V.mine = none := by
    refine Option.filter_eq_none_iff.mpr fun x hx hm => h x.at_ (hx.trans ?_)
    simp only [View.mine, Bool.and_eq_true, beq_iff_eq] at hm
    obtain ⟨⟨⟨ha, hw⟩, hs⟩, hp⟩ := hm
    rw [← ha, ← hw, ← hs, ← hp]
  rw [View.spotIssue, if_neg (by simpa using hne), if_neg (by simpa using hfree), hnone]

variable {at_ : Nat} (hacc : V.q.presented = some { warp := V.wn, slot := V.kn, pc := V.p.pc, accepted := true, at_ := at_ })
include hacc

/-- An access that has been accepted is performed, unless the generation of an ARWAIT cannot come. -/
theorem View.spotIssue_accepted : (V.waitBad f d xs = [] → V.spotIssue i f d la xs = (V.perform f d la xs at_).retire i) ∧
    (V.waitBad f d xs ≠ [] → V.spotIssue i f d la xs =
      (V.occupy f xs at_).fault 0x0C8 0#64 (maskOf fun l => (V.waitBad f d xs).any fun x => x.lane == l)) := by
  have hsome : V.q.presented.filter V.mine = some { warp := V.wn, slot := V.kn, pc := V.p.pc, accepted := true, at_ := at_ } := by
    rw [hacc]
    simp [Option.filter, View.mine]
  rw [View.spotIssue, if_neg (by simpa using hne), if_neg (by simpa using hfree), hsome]
  dsimp only
  cases hbad : V.waitBad f d xs with
  | nil => exact ⟨fun _ => rfl, fun h => absurd rfl h⟩
  | cons x ys => exact ⟨fun h => absurd h (List.cons_ne_nil _ _), fun _ => rfl⟩
end

/-! ### What a word that is presented leaves -/

theorem State.viewAt_some {s : State} {cn qn wn kn : Nat} {w : Warp} {p : Path} {r : OpenRun} (hw : ((s.core cn).quad qn).warps.find wn = some w)
    (hp : w.div.slot kn = some p) (hr : p.run = some r) : s.viewAt cn qn wn kn =
      some { s := s, cn := cn, qn := qn, wn := wn, kn := kn, c := s.core cn, q := (s.core cn).quad qn, w := w, p := p, r := r, em := p.em } := by
  simp only [State.viewAt, hw, hp, hr]

/-- A word that waits at issue for the scratchpad keeps its quadrant, which presents its access; nothing else changes. -/
theorem presents_leaves {s : State} {V : View} (hv : s.view = some V) (x : Presented) :
    let t := View.hold { V with q := { V.q with presented := some x } } 4
    t = { s with cores := t.cores } ∧ (t.core V.cn).scratch = V.c.scratch ∧ (V.quadIn t).presented = some x ∧ (V.quadIn t).rf = V.q.rf ∧
      t.viewAt V.cn V.qn V.wn V.kn = some { V with s := t, c := t.core V.cn, q := V.quadIn t
                                                   w := { V.w with div := V.w.div.setSlot V.kn (some { V.p with wait := .held 4 }) }
                                                   p := { V.p with wait := .held 4 } } := by
  have hf := State.view_from hv
  intro t
  let W : View := { V with q := { View.turned { V with q := { V.q with presented := some x } } (some 4) with presented := some x }
                           p := { V.p with wait := .held 4 } }
  have ht : t = W.put := by
    have hstay : View.stops { V with q := { V.q with presented := some x } } (.held 4) = false := by simp [View.stops, Wait.outside]
    exact if_neg (by simp [hstay])
  have hpath : ({ V.p with wait := .held 4, run := some V.r } : Path) = { V.p with wait := .held 4 } := by rw [← hf.run]
  have hwarp : W.warp = { V.w with div := V.w.div.setSlot V.kn (some { V.p with wait := .held 4 }) } := by
    rw [← hpath]
    rfl
  have hquad : V.quadIn t = W.q.setWarp V.wn W.warp := by
    rw [ht]
    exact View.putWarp_quad W W.warp
  refine ⟨?_, ?_, by rw [hquad]; rfl, by rw [hquad]; rfl, ?_⟩
  · rw [ht, ← hf.state]
    rfl
  · rw [ht, View.put, View.putWarp_core, if_pos rfl]
    rfl
  · have hfind : ((t.core V.cn).quad V.qn).warps.find V.wn = some W.warp := by
      rw [show (t.core V.cn).quad V.qn = _ from hquad, Quadrant.find_setWarp, if_pos rfl]
    have hslot : W.warp.div.slot V.kn = some { V.p with wait := .held 4 } := by
      rw [hwarp]
      exact Div.slot_setSlot ..
    rw [State.viewAt_some hfind hslot hf.run, hwarp, hf.em]
    rfl

/-! ### What a word that is performed leaves -/

/-- What the lanes of an accepted access do, in ascending order: the scratchpad after them, and their values. -/
def View.spotActs (V : View) (f : SpotForm) (d : Nat) (xs : List Spot) : Memory × List (Nat × BitVec 128) :=
  xs.foldl (fun (p : Memory × List (Nat × BitVec 128)) x =>
    let y := spotAct f.kind f.width (V.laneN d f.regs x.lane) p.1 (V.c.asRead V.s.fresh p.1 x.addr f.align) x.addr
    (y.1, match y.2 with
      | some v => p.2 ++ [(x.lane, v)]
      | none => p.2)) (V.c.scratch, [])

theorem View.spotActs_eq (V : View) (f : SpotForm) (d : Nat) (xs : List Spot) :
    V.spotActs f d xs = xs.foldl (fun (p : Memory × List (Nat × BitVec 128)) x =>
      let y := spotAct f.kind f.width (V.laneN d f.regs x.lane) p.1 (V.c.asRead V.s.fresh p.1 x.addr f.align) x.addr
      (y.1, p.2 ++ (y.2.map fun v => (x.lane, v)).toList)) (V.c.scratch, []) := by
  refine List.foldl_ext _ _ _ fun p x _ => ?_
  dsimp only
  split
  · next h => rw [h]; rfl
  · next h => rw [h, Option.map_none, Option.toList_none, List.append_nil]

/-- The accesses of an ARWAIT with its data, which it makes again where it is issued again (R185); those of no other word are kept. -/
def spotAccs (f : SpotForm) (cn : Nat) (data : Nat → BitVec 128) (xs : List Spot) : List LaneAcc :=
  if f.kind = .arwait then xs.map fun x => { lane := x.lane, va := 0, loc := .scratch cn x.addr, width := 4, data := data x.lane } else []

/-- The producer that a scratchpad word becomes. -/
def View.spotOp (V : View) (f : SpotForm) (d la : Nat) (xs : List Spot) (at_ : Nat) : LongOp :=
  { V.pending f.kind f.dest d la false V.em (spotAccs f V.cn (V.laneN d f.regs) xs) with vals := (V.spotActs f d xs).2, at_ := f.last xs at_ + 12 }

/-- The core after an accepted access. -/
def View.spotCore (V : View) (f : SpotForm) (d : Nat) (xs : List Spot) (at_ : Nat) : Core :=
  { V.c with scratch := (V.spotActs f d xs).1, scratchFree := freeCycle 1 (f.last xs at_) }

theorem View.perform_eq (V : View) (f : SpotForm) (d la : Nat) (xs : List Spot) (at_ : Nat) :
    let ds := (List.range f.dest).map (d + ·)
    let V' : View := { V with c := V.spotCore f d xs at_, q := { V.q with presented := none } }
    let N := ds.foldl View.noteLane V'
    V.perform f d la xs at_ = if f.dest = 0 then V'
      else { N with w := { N.w with seq := V.w.seq + 1, pend := V.w.pend ++ [V.spotOp f d la xs at_] } } := by
  intro ds V' N
  obtain ⟨hN, -, -⟩ : Noted V' N false ds := noted_noteLanes V' ds
  have hperform : V.perform f d la xs at_ = if f.dest = 0 then V'
      else { N with w := { N.w with seq := N.w.seq + 1, pend := N.w.pend ++ [{ N.producer f.kind ds la false N.em (spotAccs f N.cn (V.laneN d f.regs) xs)
        with vals := (V.spotActs f d xs).2, at_ := f.last xs at_ + 12 }] } } := by
    unfold View.perform View.occupy
    simp only [N, V', View.spotCore]
    generalize freeCycle 1 (f.last xs at_) = e
    generalize f.last xs at_ + 12 = n
    rfl
  rw [hperform]
  clear_value N
  rw [hN]
  rfl

/-- The warp after an access is performed: a word with a destination has become a producer. -/
def View.spotWarp (V : View) (f : SpotForm) (d la : Nat) (xs : List Spot) (at_ : Nat) : Warp :=
  if f.dest = 0 then V.w else { V.w with pend := V.w.pend ++ [V.spotOp f d la xs at_], seq := V.w.seq + 1 }

theorem perform_posts {i : Instr} {s : State} {V : View} {f : SpotForm} {d la : Nat} {xs : List Spot} {at_ : Nat} (hv : s.view = some V)
    (he : exec i s = .next ((V.perform f d la xs at_).retire (infoOf i))) :
    Posts i s s { V with c := V.spotCore f d xs at_, q := { V.q with presented := none } }
      (if (infoOf i).rc then (V.spotWarp f d la xs at_).fullPoint else V.spotWarp f d la xs at_) false ((List.range f.dest).map (d + ·)) := by
  have hf := State.view_from hv
  rw [View.perform_eq] at he
  obtain ⟨hN, hrow, huni⟩ := noted_noteLanes { V with c := V.spotCore f d xs at_, q := { V.q with presented := none } } ((List.range f.dest).map (d + ·))
  dsimp only at he
  generalize ((List.range f.dest).map (d + ·)).foldl View.noteLane { V with c := V.spotCore f d xs at_, q := { V.q with presented := none } } = N at *
  by_cases h0 : f.dest = 0
  · rw [if_pos h0] at he
    rw [View.spotWarp, if_pos h0]
    exact posts_of_core hv rfl rfl he ⟨by rw [← hf.state], congrArg State.cores hf.state.symm, rfl, rfl, rfl⟩ rfl (fun _ _ _ => rfl) fun _ _ _ => rfl
  · rw [if_neg h0] at he
    rw [View.spotWarp, if_neg h0]
    exact posts_of_core hv rfl rfl he ⟨by rw [hN, ← hf.state], congrArg State.cores hf.state.symm, rfl, rfl, rfl⟩ (by rw [hN]) hrow huni

/-! ### Waits that never end (R185) -/

/-- A lane's ARWAIT names a generation that has not come yet and never will. -/
def View.spotLost (V : View) (f : SpotForm) (d : Nat) (x : Spot) : Prop :=
  f.kind = .arwait ∧ 2 ^ 31 < ((V.c.asRead V.s.fresh V.c.scratch x.addr 16).word (x.addr + 8) - V.lane d x.lane).toNat

theorem View.mem_waitBad {V : View} {f : SpotForm} {d : Nat} {xs : List Spot} {x : Spot} : x ∈ V.waitBad f d xs ↔ x ∈ xs ∧ V.spotLost f d x := by
  unfold View.waitBad View.spotLost
  split
  · next h => simp only [List.mem_filter, View.laneN_one, decide_eq_true_eq, h, true_and]
  · next h => simp [h]

/-! ### A scratchpad word -/

/-- A scratchpad word with nothing to access opens its window alone (R186). -/
theorem spotIssue_opens {i : Instr} {s : State} {V : View} {f : SpotForm} {d la : Nat} (hv : s.view = some V)
    (he : exec i s = .next (V.spotIssue (infoOf i) f d la [])) :
    let b : Warp := if f.dest = 0 then V.w else V.opened f.kind f.dest d la
    Does i s V (if (infoOf i).rc then b.fullPoint else b) V.onward ⟨[], []⟩ := by
  intro b
  rw [View.spotIssue_nil] at he
  have hf := State.view_from hv
  refine does_of hv he (b := b) (p0 := V.p) ?_ ?_
  · by_cases h0 : f.dest = 0
    · simp only [b, if_pos h0]
      exact ⟨by rw [← hf.state], congrArg State.cores hf.state.symm, rfl, rfl, rfl⟩
    · simp only [b, if_neg h0]
      exact ⟨by rw [← hf.state]; rfl, congrArg State.cores hf.state.symm, rfl, rfl, rfl⟩
  · split
    · exact Effects.none V
    · constructor <;> simp [View.cells, View.touched, View.windowOnly]

/-- A word whose meaning is a scratchpad access of a form is a scratchpad word of that form. -/
theorem scratchWord_of {s : State} {V : View} {i : Instr} {f : SpotForm} {closing : Bool} {d a : BitVec 7} {l : BitVec 4} {k : BitVec 3}
    (he : exec i s = issue (infoOf i) true s fun V => V.scratchpad (infoOf i) f d a l k) (hrc : (infoOf i).rc = closing) :
    ScratchWord s V i f closing d.toNat l.toNat a k := by
  intro hready
  have hv := hready.1
  have hf := State.view_from hv
  obtain rfl := hf.state
  subst hrc
  rw [issue_ready hready] at he
  have hne (hem : V.em ≠ 0#32) : V.spots a k ≠ [] := mt View.spots_eq_nil.mp hem
  refine ⟨fun h => he.trans (congrArg _ (View.scratchpad_full h)), fun h => ⟨fun c y ys hc => ?_, fun hc hfen => ?_, fun hc hfen => ?_⟩⟩
  · exact ⟨_, fun l hl => getLsbD_lanes _ hl, he.trans (congrArg _ (View.scratchpad_fault h hc))⟩
  · exact he.trans (congrArg _ (View.scratchpad_fenced h hc hfen))
  rw [View.scratchpad_issues h hc hfen] at he
  refine ⟨fun hem => ?_, fun hw => he.trans (congrArg _ (View.spotIssue_blocked hw)), fun hem hw hp => ?_,
    fun hem hw at_ hp => ⟨fun hl => ?_, fun ⟨x, hx, hlost⟩ => ?_⟩⟩
  · rw [View.spots_eq_nil.mpr hem] at he
    exact spotIssue_opens hv he
  · exact ⟨_, he.trans (congrArg _ (View.spotIssue_presents (hne hem) hw hp)), presents_leaves hv _⟩
  · have hbad : V.waitBad f d.toNat (V.spots a k) = [] := List.eq_nil_iff_forall_not_mem.mpr fun x hx =>
      hl x (View.mem_waitBad.mp hx).1 (View.mem_waitBad.mp hx).2
    have hposts := perform_posts hv (he.trans (congrArg _ ((View.spotIssue_accepted (hne hem) hw hp).1 hbad)))
    simp only [View.spotCore, View.spotWarp, View.spotOp, View.spotActs_eq] at hposts
    exact hposts
  · have hbad : V.waitBad f d.toNat (V.spots a k) ≠ [] := List.ne_nil_of_mem (View.mem_waitBad.mpr ⟨hx, hlost⟩)
    have hlanes (l : Nat) (x : Spot) :
        x ∈ V.waitBad f d.toNat (V.spots a k) ∧ x.lane = l ↔ x ∈ V.spots a k ∧ x.lane = l ∧ V.spotLost f d.toNat x :=
      (and_congr_left' View.mem_waitBad).trans (and_assoc.trans (and_congr_right' and_comm))
    exact ⟨_, fun l hl => (getLsbD_lanes _ hl).trans (exists_congr (hlanes l)), he.trans (congrArg _ ((View.spotIssue_accepted (hne hem) hw hp).2 hbad))⟩

/-- Settles O26: each word is one form of scratchpad access; the cycles are counted by their interval, the banks by the largest of their counts,
an arrival by whether it saturates and reaches a target. -/
theorem scratchpadWords : Obligations.ScratchpadWords := by
  refine ⟨fun s V d a l k x hx => ?_, ⟨fun n t ht => ?_, fun ws => ?_⟩, ⟨fun s V d a l k => ?_, fun m x u _ => Memory.arrive_spec m x u⟩, spotFault_spec,
    fun m r x w data op => ⟨fun hw => ?_, spotAct_load_byte m r x data, spotAct_load_half m r x data, spotAct_atomic m r x data op,
      fun n hn => hn ▸ spotAct_arset m r x data, rfl, rfl, rfl, spotAct_arwait m r x data⟩⟩
  · simp only [List.mem_cons, List.not_mem_nil, or_false] at hx
    rcases hx with rfl | rfl | rfl | rfl | rfl | rfl | rfl | rfl | rfl | rfl | rfl | rfl | rfl | rfl | rfl | rfl | rfl | rfl | rfl | rfl | rfl | rfl
    all_goals exact scratchWord_of rfl rfl
  · obtain ⟨hle, hfree, hcount⟩ := freeCycle_spec n t ht
    exact ⟨hle, hfree, (countP_range_from _ t _).trans hcount⟩
  · obtain ⟨hpos, hall, hmeet⟩ := bankCycles_spec ws
    exact ⟨hpos, hall, hmeet, rfl⟩
  · exact ⟨scratchWord_of rfl rfl, scratchWord_of rfl rfl, scratchWord_of rfl rfl, scratchWord_of rfl rfl⟩
  · obtain ⟨hstored, hother⟩ := spotAct_store m r x w data
    exact ⟨fun _ => rfl, spotAct_load m r x w data (by omega), hstored, hother⟩

end Sys2Proof.Machine
end

section
/-! SUPPORT. Memory words at issue (R28, R29, R189, R209-R214, R235, R339). Settles O23 and O24. -/
namespace Sys2Proof.Machine

/-! ### Destinations and words that post -/

theorem noted_noteUni (V : View) (k : Nat) : Noted V (V.noteUni k) true [k] := by
  unfold View.noteUni
  split
  · refine ⟨rfl, fun n hn _ => ?_, fun n _ hk => ?_⟩
    · rw [Sparse.get_set, if_neg (by omega)]
    · have : n ≠ k := by simpa using hk
      rw [Sparse.get_set, if_neg (by omega)]
  · exact ⟨rfl, fun _ _ _ => rfl, fun _ _ _ => rfl⟩

theorem Noted.cons {V W X : View} {u : Bool} {d : Nat} {ds : List Nat} (h : Noted V W u [d]) (k : Noted W X u ds) : Noted V X u (d :: ds) := by
  obtain ⟨hrest, hrow, huni⟩ := h
  obtain ⟨krest, krow, kuni⟩ := k
  have apart {p : Prop} {n : Nat} (hn : p ∨ n ∉ d :: ds) : (p ∨ n ∉ [d]) ∧ (p ∨ n ∉ ds) := by
    rw [List.mem_cons, not_or] at hn
    rw [List.mem_singleton]
    tauto
  exact ⟨by rw [krest, hrest], fun n hn hd => (krow n hn (apart hd).2).trans (hrow n hn (apart hd).1),
    fun n hn hd => (kuni n hn (apart hd).2).trans (huni n hn (apart hd).1)⟩

theorem noted_noteUnis (V : View) (ds : List Nat) : Noted V (ds.foldl View.noteUni V) true ds := by
  induction ds generalizing V with
  | nil => exact ⟨rfl, fun _ _ _ => rfl, fun _ _ _ => rfl⟩
  | cons d ds ih => exact (noted_noteUni V d).cons (ih (V.noteUni d))

/-- The view of a word that has noted its destinations, as in `W`, when tables outside the cores are those of `s0` and its warp is otherwise `b`. -/
def View.posted (W : View) (s0 : State) (b : Warp) : View :=
  { W with s := s0, w := { b with undef := W.w.undef, tstRanges := W.w.tstRanges } }

/-- A word that notes its destinations, changes its warp and tables outside the cores, and retires, posts. -/
theorem posts_of_noted {i : Instr} {s s0 : State} {V W : View} {b : Warp} {uniform : Bool} {ds : List Nat} (hv : s.view = some V)
    (hN : Noted V W uniform ds) (hc : s0.cores = V.s.cores) (he : exec i s = .next ((W.posted s0 b).retire (infoOf i))) :
    Posts i s s0 V (if (infoOf i).rc then b.fullPoint else b) uniform ds := by
  obtain ⟨hW, hrow, huni⟩ := hN
  have hb : Became V s0 b V.p (W.posted s0 b) := ⟨by rw [View.posted, hW], hc, rfl, rfl, rfl⟩
  obtain ⟨h1, w, p, r, h2, -, -, h5, h6, -⟩ := View.retire_frame (i := infoOf i) (State.view_from hv) hb
  refine ⟨_, w, he, h1, h2, h5.trans (by rw [View.posted, hW]), fun k hk hd => ?_, fun k hk hd => ?_⟩
  · rw [h6]; exact hrow k hk hd
  · rw [h6]; exact huni k hk hd

/-! ### Addresses -/

theorem names_who (V : View) (vas xs : List (Nat × Dword)) (p : Nat × Dword → Prop) (h : ∀ x, x ∈ xs ↔ x ∈ vas ∧ p x) : V.Names vas p (V.who xs) := by
  intro l hl
  rw [View.who, getLsbD_maskOf _ hl, List.any_eq_true]
  simp only [h, Bool.or_eq_true, Bool.and_eq_true, beq_iff_eq, and_assoc]

theorem names_who_filter (V : View) (vas : List (Nat × Dword)) (p : Nat × Dword → Bool) : V.Names vas (fun x => p x = true) (V.who (vas.filter p)) :=
  names_who V vas _ _ fun _ => List.mem_filter
theorem names_who_all (V : View) (vas : List (Nat × Dword)) : V.Names vas (fun _ => True) (V.who vas) := names_who V vas _ _ fun _ => ⟨fun h => ⟨h, trivial⟩, And.left⟩

/-- The lanes of some accesses are those of their addresses, where none is of the uniform stream. -/
theorem who_of_lanes (V : View) {xs : List (Nat × Dword)} (h : ∀ x ∈ xs, x.1 < 32) : V.who xs = maskOf fun l => xs.any fun x => x.1 == l := by
  refine BitVec.eq_of_getLsbD_eq fun l hl => ?_
  rw [View.who, getLsbD_maskOf _ hl, getLsbD_maskOf _ hl, Bool.eq_iff_iff, List.any_eq_true, List.any_eq_true]
  refine exists_congr fun x => and_congr_right fun hx => ?_
  have := h x hx
  simp
  omega

/-! ### What an address translates to -/

def Xlate.isOk : Xlate → Bool
  | .ok _ => true
  | _ => false
def Xlate.isFault : Xlate → Bool
  | .fault _ => true
  | _ => false

/-- What one of a word's addresses translates to (R233, R235). -/
def View.goes (V : View) (f : MemForm) (x : Nat × Dword) : Xlate := V.s.translate V.cn V.w.mgmt V.w.ctx f.need x.2.toNat
/-- The addresses that translate, those that fail, and those on a migrating page. -/
def View.good (V : View) (f : MemForm) (vas : List (Nat × Dword)) : List (Nat × Dword) := vas.filter fun x => (V.goes f x).isOk
def View.bad (V : View) (f : MemForm) (vas : List (Nat × Dword)) : List (Nat × Dword) := vas.filter fun x => (V.goes f x).isFault
def View.moving (V : View) (f : MemForm) (vas : List (Nat × Dword)) : List (Nat × Dword) := vas.filter fun x => V.goes f x == .migrating

/-! ### The branches of a memory word -/

/-- An address that is not canonical, and one that is not aligned. -/
def View.bent (V : View) (x : Nat × Dword) : Bool := !V.w.mgmt && !canonical x.2
def MemForm.askew (f : MemForm) (x : Nat × Dword) : Bool := x.2.toNat % f.width != 0

/-- The translations used are cached (R234). -/
def View.filled (V : View) (accs : List LaneAcc) : State :=
  if V.w.mgmt then V.s else accs.foldl (fun (s : State) (a : LaneAcc) => s.tlbFill V.cn V.w.ctx a.va.toNat) V.s

/-- The view of a memory word that has made its accesses. -/
def View.reached (V : View) (f : MemForm) (d la : Nat) (uniform : Bool) (vas : List (Nat × Dword)) (accs : List LaneAcc) : View :=
  let W := V.complete f d la uniform accs
  let W := if V.endsHold f (V.who vas) accs then { W with w := W.w.fullPoint } else W
  match vas, f.op with
  | [], some k => W.windowOnly k ((List.range f.dest).map (d + ·)) la
  | _, _ => W

/-- A memory word that has passed its checks and its fences, with the accesses of the addresses that translate, the addresses on migrating pages,
and those that fail with their causes. -/
def View.memoryIssue (V : View) (i : Info) (f : MemForm) (d la : Nat) (uniform : Bool) (vas : List (Nat × Dword)) (accs : List LaneAcc)
    (moving : List (Nat × Dword)) (bad : List ((Nat × Dword) × Nat)) : State :=
  let W := V.reached f d la uniform vas accs
  match moving, bad with
  | [], [] => W.retire i
  | _ :: _, _ =>
    let W := { W with s := moving.foldl (fun (s : State) (x : Nat × Dword) => s.startPull V.w.ctx x.2.toNat) W.s }
    if accs.isEmpty then W.hold 11
    else { W with p := { W.p with replay := some (V.who (moving ++ bad.map Prod.fst)) }, w := if i.rc then W.w.fullPoint else W.w }.hold 11
  | [], x :: _ =>
    { W with w := if i.rc && !accs.isEmpty then W.w.fullPoint else W.w }.laneFault
      ((firstCause (bad.map Prod.snd)).getD 0) x.1.2 (V.who (bad.map Prod.fst))

section
variable {V : View} {i : Info} {f : MemForm} {d la : Nat} {uniform : Bool} {vas : List (Nat × Dword)}

theorem View.memory_full (h : 32 < V.w.pendingCount + f.dest) : V.memory i f d la uniform vas = V.breakRun (.score [] [] f.dest) := if_pos h

theorem View.memory_bent (h : V.w.pendingCount + f.dest ≤ 32) {x : Nat × Dword} (hx : vas.find? V.bent = some x) :
    V.memory i f d la uniform vas = V.fault 0x040 x.2 (V.who (vas.filter V.bent)) := by
  rw [← List.head?_filter] at hx
  obtain ⟨ys, hys⟩ := List.head?_eq_some_iff.mp hx
  unfold View.memory
  dsimp only
  rw [if_neg (Nat.not_lt.mpr h), show (vas.filter fun x => !V.w.mgmt && !canonical x.2) = x :: ys from hys, hys]

theorem View.memory_askew (h : V.w.pendingCount + f.dest ≤ 32) (hb : vas.find? V.bent = none) {x : Nat × Dword} (hx : vas.find? f.askew = some x) :
    V.memory i f d la uniform vas = V.fault 0x041 x.2 (V.who (vas.filter f.askew)) := by
  rw [← List.head?_filter] at hb hx
  obtain ⟨ys, hys⟩ := List.head?_eq_some_iff.mp hx
  unfold View.memory
  dsimp only
  rw [if_neg (Nat.not_lt.mpr h), show (vas.filter fun x => !V.w.mgmt && !canonical x.2) = [] from List.head?_eq_none_iff.mp hb,
    show (vas.filter fun x => x.2.toNat % f.width != 0) = x :: ys from hys, hys]

theorem View.memory_fenced (h : V.w.pendingCount + f.dest ≤ 32) (hb : vas.find? V.bent = none) (ha : vas.find? f.askew = none)
    (hfen : V.fencesOf (V.who vas) uniform f.writes ≠ []) : V.memory i f d la uniform vas =
      View.hold { V with w := if V.fenceHeld (V.who vas) uniform (V.fencesOf (V.who vas) uniform f.writes) then V.w.fullPoint else V.w } 5 := by
  rw [← List.head?_filter, List.head?_eq_none_iff] at hb ha
  unfold View.memory View.fenced
  dsimp only
  rw [if_neg (Nat.not_lt.mpr h), show (vas.filter fun x => !V.w.mgmt && !canonical x.2) = [] from hb,
    show (vas.filter fun x => x.2.toNat % f.width != 0) = [] from ha]
  cases hfs : V.fencesOf (V.who vas) uniform f.writes with
  | nil => exact absurd hfs hfen
  | cons x xs => rfl

/-- The accesses are those of the addresses that translate. -/
theorem View.filterMap_ok {β : Type} (g : Nat × Dword → Loc → β) {at_ : Nat → Loc} (hat : ∀ x ∈ V.good f vas, V.goes f x = .ok (at_ x.1)) :
    ((vas.map fun x => (x, V.goes f x)).filterMap fun x => match x.2 with
      | .ok loc => some (g x.1 loc)
      | _ => none) = (V.good f vas).map fun x => g x (at_ x.1) := by
  rw [View.good, List.filterMap_map, ← List.filterMap_eq_map, List.filterMap_filter]
  refine List.filterMap_congr fun x hx => ?_
  have hat' := fun h => hat x (List.mem_filter.mpr ⟨hx, h⟩)
  simp only [Function.comp_apply]
  cases hg : V.goes f x with
  | ok loc =>
    obtain rfl := Xlate.ok.inj (hg.symm.trans (hat' (by rw [hg]; rfl)))
    rfl
  | fault c => rfl
  | migrating => rfl

/-- The failing addresses, each with its cause. -/
def View.faults (V : View) (f : MemForm) (vas : List (Nat × Dword)) : List ((Nat × Dword) × Nat) :=
  (vas.map fun x => (x, V.goes f x)).filterMap fun x => match x.2 with
    | .fault c => some (x.1, c)
    | _ => none

theorem View.faults_map_fst (V : View) (f : MemForm) (vas : List (Nat × Dword)) : (V.faults f vas).map Prod.fst = V.bad f vas := by
  rw [View.faults, View.bad, List.filterMap_map, List.map_filterMap, ← List.filterMap_eq_filter]
  refine List.filterMap_congr fun x _ => ?_
  have hone : ∀ y : Xlate, Option.map Prod.fst (match y with
      | .fault c => some (x, c)
      | _ => none) = if y.isFault then some x else none := fun y => by cases y <;> rfl
  exact hone (V.goes f x)

theorem View.mem_faults {V : View} {f : MemForm} {vas : List (Nat × Dword)} {x : (Nat × Dword) × Nat} :
    x ∈ V.faults f vas ↔ x.1 ∈ vas ∧ V.goes f x.1 = .fault x.2 := by
  obtain ⟨x, c⟩ := x
  rw [View.faults, List.filterMap_map, List.mem_filterMap]
  simp only [Function.comp_apply]
  constructor
  · rintro ⟨y, hy, h⟩
    cases hg : V.goes f y with
    | fault e =>
      rw [hg] at h
      obtain ⟨rfl, rfl⟩ := Prod.mk.inj (Option.some.inj h)
      exact ⟨hy, hg⟩
    | ok _ => rw [hg] at h; cases h
    | migrating => rw [hg] at h; cases h
  · rintro ⟨hx, hg⟩
    exact ⟨x, hx, by rw [hg]⟩

theorem View.filterMap_moving (V : View) (f : MemForm) (vas : List (Nat × Dword)) :
    ((vas.map fun x => (x, V.goes f x)).filterMap fun x => if x.2 == .migrating then some x.1 else none) = V.moving f vas := by
  rw [View.moving, List.filterMap_map, ← List.filterMap_eq_filter]
  rfl

theorem View.memory_issues (h : V.w.pendingCount + f.dest ≤ 32) (hb : vas.find? V.bent = none) (ha : vas.find? f.askew = none)
    (hfen : V.fencesOf (V.who vas) uniform f.writes = []) {at_ : Nat → Loc} (hat : ∀ x ∈ V.good f vas, V.goes f x = .ok (at_ x.1)) :
    V.memory i f d la uniform vas = V.memoryIssue i f d la uniform vas (V.accesses f d uniform (V.good f vas) at_) (V.moving f vas) (V.faults f vas) := by
  rw [← List.head?_filter, List.head?_eq_none_iff] at hb ha
  rw [← View.filterMap_moving, View.accesses, ← View.filterMap_ok (fun x loc => (⟨x.1, x.2, loc, f.width,
    if uniform then V.uniN d f.regs else V.laneN d f.regs x.1, V.s.reachOf loc⟩ : LaneAcc)) hat]
  unfold View.memory View.fenced
  dsimp only
  rw [if_neg (Nat.not_lt.mpr h), show (vas.filter fun x => !V.w.mgmt && !canonical x.2) = [] from hb,
    show (vas.filter fun x => x.2.toNat % f.width != 0) = [] from ha, hfen]
  rfl
end

/-! ### What the accesses of a word leave -/

theorem buffer_undef (w : Warp) (u : Sparse Word) (ts : List TstRange) (pc : Pc) (ls : Word) (accs : List LaneAcc) (k : StKind) :
    ({ w with undef := u, tstRanges := ts } : Warp).buffer pc ls accs k = { w.buffer pc ls accs k with undef := u, tstRanges := ts } := by
  unfold Warp.buffer
  dsimp only
  split <;> rfl

/-- The warp after a word has made its accesses: they are pending, or their stores buffered, and the matches of watchpoints gathered. -/
def View.accessed (V : View) (f : MemForm) (d la : Nat) (uniform : Bool) (ls : Word) (accs : List LaneAcc) : Warp :=
  let w := (V.watch f accs).w
  match f.op with
  | some k => { w with pend := w.pend ++ [V.pending k f.dest d la uniform ls accs], seq := w.seq + 1 }
  | none => { w.buffer V.p.pc ls accs f.store with seq := w.seq + 1 }

/-- A view with the destinations noted as another notes them. -/
def View.notedAs (V N : View) : View :=
  { V with w := { V.w with undef := N.w.undef, tstRanges := N.w.tstRanges }, r := { V.r with tdef := N.r.tdef, wdef := N.r.wdef } }
theorem Noted.notedAs {V X N : View} {u : Bool} {ds : List Nat} (h : Noted X N u ds) (hu : X.w.undef = V.w.undef) : Noted V (V.notedAs N) u ds := by
  obtain ⟨-, hrow, huni⟩ := h
  rw [hu] at hrow huni
  exact ⟨rfl, hrow, huni⟩

/-- A view that has noted its destinations records its accesses in its warp. -/
def View.recorded (N : View) (f : MemForm) (d la : Nat) (uniform : Bool) (ls : Word) (accs : List LaneAcc) : View :=
  let w : Warp := match f.op with
    | some k => { N.w with pend := N.w.pend ++ [N.producer k ((List.range f.dest).map (d + ·)) la uniform ls accs] }
    | none => N.w.buffer N.p.pc ls accs f.store
  { N with w := { w with seq := N.w.seq + 1 } }

theorem recorded_posted (V : View) (s0 : State) (f : MemForm) (d la : Nat) (uniform : Bool) (ls : Word) (accs : List LaneAcc) {N : View} {ds : List Nat}
    (h : Noted (View.watch { V with s := s0 } f accs) N uniform ds) : Noted V (V.notedAs N) uniform ds ∧
      N.recorded f d la uniform ls accs = (V.notedAs N).posted s0 (V.accessed f d la uniform ls accs) := by
  refine ⟨h.notedAs rfl, ?_⟩
  rw [h.1]
  unfold View.recorded View.accessed
  cases f.op with
  | some k => rfl
  | none => simp only [buffer_undef]; rfl

/-- Accesses that there are leave their destinations noted, the translations cached, and the warp as `accessed` says. -/
theorem complete_posted (V : View) (f : MemForm) (d la : Nat) (uniform : Bool) {accs : List LaneAcc} (h : accs ≠ []) :
    ∃ W, Noted V W uniform ((List.range f.dest).map (d + ·)) ∧ V.complete f d la uniform accs =
      W.posted (V.filled accs) (V.accessed f d la uniform (if uniform then V.em else maskOf fun l => accs.any fun a => a.lane == l) accs) := by
  let X := View.watch { V with s := V.filled accs } f accs
  let ds := (List.range f.dest).map (d + ·)
  let ls := maskOf fun l => accs.any fun a => a.lane == l
  have hsome : ¬ accs.isEmpty = true := by simpa using h
  cases uniform with
  | true =>
    have hc : V.complete f d la true accs = (ds.foldl View.noteUni X).recorded f d la true V.em accs := if_neg hsome
    rw [hc]
    exact ⟨_, recorded_posted V (V.filled accs) f d la true V.em accs (noted_noteUnis X ds)⟩
  | false =>
    have hc : V.complete f d la false accs =
        ({ ds.foldl View.noteLane { X with em := ls } with em := X.em } : View).recorded f d la false ls accs := if_neg hsome
    rw [hc]
    obtain ⟨hN, hrow, huni⟩ := noted_noteLanes { X with em := ls } ds
    exact ⟨_, recorded_posted V (V.filled accs) f d la false ls accs ⟨congrArg (fun N : View => { N with em := X.em }) hN, hrow, huni⟩⟩

theorem tlbOnly_filled (V : View) (accs : List LaneAcc) : V.TlbOnly V.s (V.filled accs) := by
  have hfill (u : State) (va : Nat) (hu : V.TlbOnly V.s u) : V.TlbOnly V.s (u.tlbFill V.cn V.w.ctx va) := by
    obtain ⟨hrest, hothers, hown⟩ := hu
    unfold State.tlbFill
    dsimp only
    split
    · exact ⟨hrest, hothers, hown⟩
    · split
      · refine ⟨by rw [hrest]; rfl, fun g hg => ?_, ?_⟩
        · rw [State.cluster_setCluster, if_neg hg, hothers g hg]
        · rw [State.cluster_setCluster, if_pos rfl, hown]
      · exact ⟨hrest, hothers, hown⟩
  unfold View.filled
  split
  · exact ⟨rfl, fun _ _ => rfl, rfl⟩
  · exact foldl_keeps (V.TlbOnly V.s) _ (fun u a hu => hfill u a.va.toNat hu) accs V.s ⟨rfl, fun _ _ => rfl, rfl⟩

theorem cores_filled (V : View) (accs : List LaneAcc) : (V.filled accs).cores = V.s.cores := by
  have h := congrArg State.cores (tlbOnly_filled V accs).1
  exact h

theorem endsHold_nil (V : View) (f : MemForm) (ls : Word) : V.endsHold f ls [] = false := by
  unfold View.endsHold
  split <;> rfl

theorem accesses_eq_nil {V : View} {f : MemForm} {d : Nat} {uniform : Bool} {xs : List (Nat × Dword)} {at_ : Nat → Loc} :
    V.accesses f d uniform xs at_ = [] ↔ xs = [] := List.map_eq_nil_iff

/-- The lanes that a word's accesses serve. -/
theorem lanes_accesses (V : View) (f : MemForm) (d : Nat) (uniform : Bool) {xs : List (Nat × Dword)} (at_ : Nat → Loc) (h : uniform = false → ∀ x ∈ xs, x.1 < 32) :
    (if uniform then V.em else maskOf fun l => (V.accesses f d uniform xs at_).any fun a => a.lane == l) = if uniform then V.em else V.who xs := by
  cases uniform with
  | true => rfl
  | false =>
    rw [if_neg Bool.false_ne_true, if_neg Bool.false_ne_true, who_of_lanes V (h rfl)]
    simp only [View.accesses, List.any_map]
    rfl

/-- The warp after a word's accesses, those of the addresses `xs` among its own, with the hold of its stores ended where the word waits for a held
store. -/
def View.reachedWarp (V : View) (f : MemForm) (d la : Nat) (uniform : Bool) (vas xs : List (Nat × Dword)) (at_ : Nat → Loc) : Warp :=
  let accs := V.accesses f d uniform xs at_
  let b := if xs = [] then V.w else V.accessed f d la uniform (if uniform then V.em else V.who xs) accs
  if V.endsHold f (V.who vas) accs then b.fullPoint else b

/-- The view of a memory word with addresses that has made its accesses. -/
theorem reached_posted (V : View) (f : MemForm) (d la : Nat) (uniform : Bool) {vas xs : List (Nat × Dword)} (hvas : vas ≠ []) (at_ : Nat → Loc)
    (hlanes : uniform = false → ∀ x ∈ xs, x.1 < 32) :
    let accs := V.accesses f d uniform xs at_
    ∃ W, Noted V W uniform ((List.range f.dest).map (d + ·)) ∧
      V.reached f d la uniform vas accs = W.posted (V.filled accs) (V.reachedWarp f d la uniform vas xs at_) := by
  intro accs
  have hreached : V.reached f d la uniform vas accs = if V.endsHold f (V.who vas) accs then
      { V.complete f d la uniform accs with w := (V.complete f d la uniform accs).w.fullPoint } else V.complete f d la uniform accs := by
    cases vas with
    | nil => exact absurd rfl hvas
    | cons x xs => rfl
  rw [hreached]
  by_cases h : xs = []
  · subst h
    refine ⟨V, ⟨rfl, fun _ _ _ => rfl, fun _ _ _ => rfl⟩, ?_⟩
    have hfilled : V.filled [] = V.s := by
      unfold View.filled
      split <;> rfl
    simp only [accs, View.accesses, List.map_nil, View.reachedWarp, endsHold_nil, hfilled]
    rfl
  · have haccs : accs ≠ [] := mt accesses_eq_nil.mp h
    obtain ⟨W, hN, hW⟩ := complete_posted V f d la uniform haccs
    rw [lanes_accesses V f d uniform at_ hlanes] at hW
    refine ⟨W, hN, ?_⟩
    rw [hW, View.reachedWarp, if_neg h]
    dsimp only
    split <;> rfl

/-! ### Where a memory word goes on -/

section
variable {V : View} {i : Info} {f : MemForm} {d la : Nat} {uniform : Bool} {vas : List (Nat × Dword)} {accs : List LaneAcc}
  {moving : List (Nat × Dword)} {bad : List ((Nat × Dword) × Nat)}

theorem View.memoryIssue_retires : V.memoryIssue i f d la uniform vas accs [] [] = (V.reached f d la uniform vas accs).retire i := rfl

theorem View.memoryIssue_waits (hm : moving ≠ []) : V.memoryIssue i f d la uniform vas accs moving bad =
    let W := V.reached f d la uniform vas accs
    let W := { W with s := moving.foldl (fun (s : State) (x : Nat × Dword) => s.startPull V.w.ctx x.2.toNat) W.s }
    if accs = [] then W.hold 11
    else View.hold { W with p := { W.p with replay := some (V.who (moving ++ bad.map Prod.fst)) }, w := if i.rc then W.w.fullPoint else W.w } 11 := by
  cases moving with
  | nil => exact absurd rfl hm
  | cons x xs =>
    simp only [← List.isEmpty_iff (l := accs)]
    rfl

theorem View.memoryIssue_fails {x : Nat × Dword} (hx : (bad.map Prod.fst).head? = some x) : V.memoryIssue i f d la uniform vas accs [] bad =
    View.laneFault { V.reached f d la uniform vas accs with
      w := if i.rc && !accs.isEmpty then (V.reached f d la uniform vas accs).w.fullPoint else (V.reached f d la uniform vas accs).w }
      ((firstCause (bad.map Prod.snd)).getD 0) x.2 (V.who (bad.map Prod.fst)) := by
  cases bad with
  | nil => cases hx
  | cons y ys =>
    obtain rfl : y.1 = x := Option.some.inj hx
    rfl

/-- Where no access is made, the view is as it was. -/
theorem View.reached_nil (hvas : vas ≠ []) : V.reached f d la uniform vas [] = V := by
  cases vas with
  | nil => exact absurd rfl hvas
  | cons x xs =>
    change (if V.endsHold f (V.who (x :: xs)) [] then { V with w := V.w.fullPoint } else V) = V
    rw [endsHold_nil]
    rfl
end

/-- The first cause of the failing addresses is that of one of them, and none comes before it (R235). -/
theorem firstCause_faults {V : View} {f : MemForm} {vas : List (Nat × Dword)} (h : V.faults f vas ≠ []) :
    let c := (firstCause ((V.faults f vas).map Prod.snd)).getD 0
    (∃ y ∈ V.bad f vas, V.goes f y = .fault c) ∧ ∀ y ∈ V.bad f vas, ∀ e, V.goes f y = .fault e → causeRank c ≤ causeRank e := by
  have hbad : ∀ y c, (y, c) ∈ V.faults f vas ↔ y ∈ V.bad f vas ∧ V.goes f y = .fault c := by
    intro y c
    rw [View.mem_faults, View.bad, List.mem_filter]
    exact ⟨fun ⟨hy, hg⟩ => ⟨⟨hy, by rw [hg]; rfl⟩, hg⟩, fun ⟨hy, hg⟩ => ⟨hy.1, hg⟩⟩
  obtain ⟨d, hd⟩ : ∃ d, firstCause ((V.faults f vas).map Prod.snd) = some d := by
    cases hfs : V.faults f vas with
    | nil => exact absurd hfs h
    | cons y ys => exact firstCause_cons_some _ _
  obtain ⟨hmem, hmin⟩ := firstCause_spec hd
  obtain ⟨⟨y, c⟩, hy, rfl⟩ := List.mem_map.mp hmem
  simp only [hd, Option.getD_some]
  exact ⟨⟨y, (hbad _ _).mp hy⟩, fun z hz e he => hmin e (List.mem_map.mpr ⟨(z, e), (hbad _ _).mpr ⟨hz, he⟩, rfl⟩)⟩

/-- A memory word without addresses opens its window alone (R28, R29). -/
theorem reached_opens {i : Instr} {s : State} {V : View} {f : MemForm} {d la : Nat} {uniform : Bool} (hv : s.view = some V)
    (he : exec i s = .next ((V.reached f d la uniform [] []).retire (infoOf i))) :
    let b : Warp := match f.op with
      | some k => V.opened k f.dest d la
      | none => V.w
    Does i s V (if (infoOf i).rc then b.fullPoint else b) V.onward ⟨[], []⟩ := by
  intro b
  have hf := State.view_from hv
  have hW : V.reached f d la uniform [] [] = { V with w := b } := by
    unfold View.reached
    rw [endsHold_nil]
    cases hop : f.op with
    | none => simp only [b, hop]; rfl
    | some k => simp only [b, hop]; rfl
  rw [hW] at he
  have hw : b.undef = V.w.undef ∧ b.tstRanges = V.w.tstRanges := by
    simp only [b]
    split <;> exact ⟨rfl, rfl⟩
  refine does_of hv he (b := b) (p0 := V.p) ⟨by rw [← hf.state], congrArg State.cores hf.state.symm, rfl, rfl, rfl⟩ ?_
  obtain ⟨hu, ht⟩ := hw
  constructor <;> simp [View.cells, View.touched, hu, ht]

section
variable {V : View} {f : MemForm} {d la : Nat} {uniform : Bool} {vas : List (Nat × Dword)} (at_ : Nat → Loc) (hvas : vas ≠ [])
  (hlanes : uniform = false → ∀ x ∈ vas, x.1 < 32)
include hvas hlanes

theorem reached_good : ∃ W, Noted V W uniform ((List.range f.dest).map (d + ·)) ∧
    V.reached f d la uniform vas (V.accesses f d uniform (V.good f vas) at_) =
      W.posted (V.filled (V.accesses f d uniform (V.good f vas) at_)) (V.reachedWarp f d la uniform vas (V.good f vas) at_) :=
  reached_posted V f d la uniform hvas at_ fun hu x hx => hlanes hu x (List.mem_filter.mp hx).1

/-- A memory word whose addresses all translate posts. -/
theorem memoryIssue_posts {i : Instr} (hv : V.s.view = some V) (hbad : V.bad f vas = [])
    (he : exec i V.s = .next (V.memoryIssue (infoOf i) f d la uniform vas (V.accesses f d uniform (V.good f vas) at_) [] (V.faults f vas))) :
    let b := V.reachedWarp f d la uniform vas (V.good f vas) at_
    Posts i V.s (V.filled (V.accesses f d uniform (V.good f vas) at_)) V (if (infoOf i).rc then b.fullPoint else b) uniform
      ((List.range f.dest).map (d + ·)) := by
  obtain ⟨W, hN, hW⟩ := reached_good (d := d) (la := la) at_ hvas hlanes
  rw [List.map_eq_nil_iff.mp ((V.faults_map_fst f vas).trans hbad), View.memoryIssue_retires, hW] at he
  exact posts_of_noted hv hN (cores_filled V _) he

/-- One of whose addresses some fail and none migrates stops those with the first of their causes, the others' accesses made. -/
theorem memoryIssue_stops (i : Info) {x : Nat × Dword} (hx : (V.bad f vas).head? = some x) :
    let b := V.reachedWarp f d la uniform vas (V.good f vas) at_
    ∃ W c, Noted V W uniform ((List.range f.dest).map (d + ·)) ∧ (∃ y ∈ V.bad f vas, V.goes f y = .fault c) ∧
      (∀ y ∈ V.bad f vas, ∀ e, V.goes f y = .fault e → causeRank c ≤ causeRank e) ∧
      V.memoryIssue i f d la uniform vas (V.accesses f d uniform (V.good f vas) at_) [] (V.faults f vas) =
        View.laneFault (W.posted (V.filled (V.accesses f d uniform (V.good f vas) at_))
          (if V.good f vas = [] then b else if i.rc then b.fullPoint else b)) c x.2 (V.who (V.bad f vas)) := by
  intro b
  obtain ⟨W, hN, hW⟩ := reached_good (d := d) (la := la) at_ hvas hlanes
  obtain ⟨hcause, hmin⟩ := firstCause_faults (V := V) (f := f) (vas := vas) fun h => by
    rw [← V.faults_map_fst, h] at hx
    cases hx
  refine ⟨W, _, hN, hcause, hmin, ?_⟩
  rw [View.memoryIssue_fails (V.faults_map_fst f vas ▸ hx), hW, V.faults_map_fst]
  have hempty : (V.accesses f d uniform (V.good f vas) at_).isEmpty = decide (V.good f vas = []) := by
    rw [Bool.eq_iff_iff, List.isEmpty_iff, decide_eq_true_iff, accesses_eq_nil]
  rw [hempty]
  by_cases hg : V.good f vas = []
  · rw [decide_eq_true hg, if_pos hg, Bool.not_true, Bool.and_false]
    rfl
  · rw [decide_eq_false hg, if_neg hg, Bool.not_false, Bool.and_true]
    cases i.rc <;> rfl

/-- One of whose addresses some translate and some migrate waits, to be issued again for those that do not translate. -/
theorem memoryIssue_replays (i : Info) (hm : V.moving f vas ≠ []) (hg : V.good f vas ≠ []) :
    let b := V.reachedWarp f d la uniform vas (V.good f vas) at_
    ∃ W, Noted V W uniform ((List.range f.dest).map (d + ·)) ∧
      V.memoryIssue i f d la uniform vas (V.accesses f d uniform (V.good f vas) at_) (V.moving f vas) (V.faults f vas) =
        View.hold { W.posted ((V.moving f vas).foldl (fun (s : State) (x : Nat × Dword) => s.startPull V.w.ctx x.2.toNat)
          (V.filled (V.accesses f d uniform (V.good f vas) at_))) (if i.rc then b.fullPoint else b) with
            p := { V.p with replay := some (V.who (V.moving f vas ++ V.bad f vas)) } } 11 := by
  intro b
  obtain ⟨W, hN, hW⟩ := reached_good (d := d) (la := la) at_ hvas hlanes
  refine ⟨W, hN, ?_⟩
  rw [View.memoryIssue_waits hm, hW, V.faults_map_fst f vas]
  dsimp only
  rw [if_neg (mt accesses_eq_nil.mp hg)]
  have hp : W.p = V.p := by rw [hN.1]
  simp only [View.posted, hp]
  cases i.rc <;> rfl
end

/-- A word whose meaning is a memory access of a form is a memory word of that form. -/
theorem memoryWord_of {s : State} {V : View} {i : Instr} {f : MemForm} {closing : Bool} {d la : Nat} {uniform : Bool} {vas : View → List (Nat × Dword)}
    (he : exec i s = issue (infoOf i) true s fun V => V.memory (infoOf i) f d la uniform (vas V)) (hrc : (infoOf i).rc = closing)
    (hlanes : uniform = false → ∀ x ∈ vas V, x.1 < 32) : MemoryWord s V i f closing d la uniform (vas V) := by
  intro hready
  have hv := hready.1
  have hf := State.view_from hv
  obtain rfl := hf.state
  subst hrc
  rw [issue_ready hready] at he
  generalize vas V = vas at *
  refine ⟨fun h => he.trans (congrArg _ (View.memory_full h)), fun h => ⟨fun x hx => ?_, fun hb x hx => ?_, fun hb ha hfen => ?_, fun hb ha hfen => ?_⟩⟩
  · exact ⟨_, names_who_filter V vas V.bent, he.trans (congrArg _ (View.memory_bent h hx))⟩
  · exact ⟨_, names_who_filter V vas f.askew, he.trans (congrArg _ (View.memory_askew h hb hx))⟩
  · exact he.trans (congrArg _ (View.memory_fenced h hb ha hfen))
  have hissue (at_ : Nat → Loc) (hat : ∀ x ∈ V.good f vas, V.goes f x = .ok (at_ x.1)) := he.trans (congrArg _ (View.memory_issues h hb ha hfen hat))
  refine ⟨fun hvas => ?_, fun hm hg => ?_, fun at_ hvas hat => ?_⟩
  · subst hvas
    exact reached_opens hv (hissue (fun _ => .mem 0) nofun)
  · have hg' : V.good f vas = [] := hg
    have hvas : vas ≠ [] := by rintro rfl; exact hm rfl
    refine (hissue (fun _ => .mem 0) (by rw [hg']; exact nofun)).trans (congrArg _ ?_)
    rw [hg', View.memoryIssue_waits (moving := V.moving f vas) hm]
    simp only [View.accesses, List.map_nil, if_true, View.reached_nil hvas]
    rfl
  · replace hissue := hissue at_ hat
    refine ⟨V.filled (V.accesses f d uniform (V.good f vas) at_), tlbOnly_filled V _, fun hm hbad => ?_, fun hm x hx => ?_, fun hm hg => ?_⟩
    · rw [show V.moving f vas = [] from hm] at hissue
      exact memoryIssue_posts at_ hvas hlanes hv hbad hissue
    · rw [show V.moving f vas = [] from hm] at hissue
      obtain ⟨W, c, hN, hcause, hmin, hW⟩ := memoryIssue_stops (d := d) (la := la) at_ hvas hlanes (infoOf i) hx
      exact ⟨W, c, _, hN, names_who_all V _, hcause, hmin, hissue.trans (congrArg _ hW)⟩
    · obtain ⟨W, hN, hW⟩ := memoryIssue_replays (d := d) (la := la) at_ hvas hlanes (infoOf i) hm hg
      exact ⟨W, _, hN, names_who_all V _, hissue.trans (congrArg _ hW)⟩

/-! ### The lane words and the uniform words -/

theorem laneMemoryWord_of {s : State} {V : View} {i : Instr} {f : MemForm} {closing : Bool} {d : Nat} {a : BitVec 7} {l : BitVec 4} {k : BitVec 3}
    (he : exec i s = issue (infoOf i) true s fun V => V.memory (infoOf i) f d l.toNat false (V.laneAddresses a k)) (hrc : (infoOf i).rc = closing) :
    MemoryWord s V i f closing d l.toNat false (V.laneAddresses a k) := by
  refine memoryWord_of (vas := fun V => V.laneAddresses a k) he hrc fun _ x hx => ?_
  obtain ⟨l, hl, rfl⟩ := List.mem_map.mp hx
  exact (lanesOf_mem.mp hl).1

theorem uniMemoryWord_of {s : State} {V : View} {i : Instr} {f : MemForm} {closing : Bool} {d a : BitVec 6} {l : BitVec 4} {n : BitVec 5}
    (he : exec i s = issue (infoOf i) true s fun V => V.uniMem (infoOf i) f d a l n) (hrc : (infoOf i).rc = closing) :
    MemoryWord s V i f closing d.toNat l.toNat true [(32, V.uni64 a.toNat + BitVec.ofNat 64 (n.toNat * f.width))] :=
  memoryWord_of (vas := fun V => V.uniVas a n f.width) he hrc nofun

/-! ### Watchpoints -/

/-- What a comparator asks of an access to match it (R362). -/
theorem mem_watching {V : View} {va : Dword} {width : Nat} {reads writes : Bool} {i : Nat} : i ∈ V.watching va width reads writes ↔
    ∃ x, V.w.mgmt = false ∧ i < 64 ∧ V.c.wps.find i = some x ∧ x.ctl.getLsbD 12 = true ∧ x.ctl.extractLsb' 0 12 = BitVec.ofNat 12 V.w.ctx ∧
      ((reads = true ∧ x.ctl.getLsbD 13 = true) ∨ (writes = true ∧ x.ctl.getLsbD 14 = true)) ∧
      va.toNat < x.va.toNat + x.len.toNat ∧ x.va.toNat < va.toNat + width := by
  rw [View.watching, List.mem_filter, List.mem_range]
  cases hx : V.c.wps.find i with
  | none => simp
  | some x =>
    simp only [Bool.and_eq_true, Bool.or_eq_true, beq_iff_eq, Bool.not_eq_true', decide_eq_true_eq]
    constructor
    · rintro ⟨hi, ⟨⟨⟨⟨hen, hctx⟩, hm⟩, hkind⟩, hlo⟩, hhi⟩
      exact ⟨x, hm, hi, rfl, hen, hctx, hkind, hlo, hhi⟩
    · rintro ⟨y, hm, hi, hy, hen, hctx, hkind, hlo, hhi⟩
      obtain rfl := Option.some.inj hy
      exact ⟨hi, ⟨⟨⟨⟨hen, hctx⟩, hm⟩, hkind⟩, hlo⟩, hhi⟩

/-- The lanes for which a match of an access is gathered. -/
def View.hitLanes (V : View) (a : LaneAcc) : List Nat := if a.lane = 32 then (if V.em = 0#32 then [32] else lanesOf V.em) else [a.lane]

theorem mem_hitLanes {V : View} {a : LaneAcc} {l : Nat} : l ∈ V.hitLanes a ↔ (a.lane ≠ 32 → l = a.lane) ∧ (a.lane = 32 → V.em = 0#32 → l = 32) ∧
    (a.lane = 32 → V.em ≠ 0#32 → l < 32 ∧ V.em.getLsbD l = true) := by
  unfold View.hitLanes
  by_cases ha : a.lane = 32
  · by_cases he : V.em = 0#32
    · simp [ha, he]
    · simp [ha, he, lanesOf_mem]
  · simp [ha]

/-- The matches that the accesses of a word add (R339). -/
def View.hitsOf (V : View) (f : MemForm) (accs : List LaneAcc) : List WatchHit := accs.flatMap fun a =>
  (V.watching a.va f.width f.reads f.writes).flatMap fun i => (V.hitLanes a).map fun l =>
    { comparator := i, lane := l, va := a.va, epc := pcVa V.p.pc, slot := V.kn }

theorem mem_hitsOf {V : View} {f : MemForm} {accs : List LaneAcc} {h : WatchHit} : h ∈ V.hitsOf f accs ↔
    ∃ a ∈ accs, h.comparator ∈ V.watching a.va f.width f.reads f.writes ∧ h.lane ∈ V.hitLanes a ∧
      h = { comparator := h.comparator, lane := h.lane, va := a.va, epc := pcVa V.p.pc, slot := V.kn } := by
  simp only [View.hitsOf, List.mem_flatMap, List.mem_map]
  refine exists_congr fun a => and_congr_right fun _ => ⟨?_, fun ⟨hi, hl, he⟩ => ⟨_, hi, _, hl, he.symm⟩⟩
  rintro ⟨i, hi, l, hl, rfl⟩
  exact ⟨hi, hl, rfl⟩

/-- Settles O23: each word is one form of memory access; the matches of watchpoints by the comparator and by the lanes of the access. -/
theorem laneMemoryWords : Obligations.LaneMemoryWords := by
  refine ⟨fun s V d a l k x hx => ?_, fun s V d a l k x hx => ?_, fun s V d a l k x hx => ?_, fun V f accs => ⟨rfl, V.hitsOf f accs, rfl, fun h => ?_⟩⟩
  · simp only [List.mem_cons, List.not_mem_nil, or_false] at hx
    rcases hx with rfl | rfl | rfl | rfl | rfl | rfl | rfl | rfl | rfl | rfl | rfl
    all_goals exact laneMemoryWord_of rfl rfl
  · simp only [List.mem_cons, List.not_mem_nil, or_false] at hx
    rcases hx with rfl | rfl | rfl | rfl | rfl | rfl | rfl | rfl | rfl
    all_goals exact laneMemoryWord_of rfl rfl
  · simp only [List.mem_cons, List.not_mem_nil, or_false] at hx
    rcases hx with rfl | rfl | rfl | rfl | rfl | rfl | rfl | rfl | rfl | rfl | rfl | rfl | rfl | rfl
    all_goals exact laneMemoryWord_of rfl rfl
  · rw [mem_hitsOf]
    refine exists_congr fun a => and_congr_right fun _ => ?_
    rw [mem_watching, mem_hitLanes, ← exists_and_right]
    exact exists_congr fun x => by tauto

/-- Settles O24: each word is one form of memory access with the one address of the uniform stream. -/
theorem uniformMemoryWords : Obligations.UniformMemoryWords := by
  intro s V d a l n x hx
  simp only [List.mem_cons, List.not_mem_nil, or_false] at hx
  rcases hx with rfl | rfl | rfl | rfl | rfl | rfl | rfl | rfl
  all_goals exact uniMemoryWord_of rfl rfl

end Sys2Proof.Machine
end

section
/-! SUPPORT. PREF, the fences, and the store buffer and its holds (R192, R213, R230, R308-R310). Settles O25. -/
namespace Sys2Proof.Machine

/-! ### PREF -/

/-- The place in memory of an address that PREF does not drop. -/
def View.prefPlace (V : View) (x : Nat × Dword) : Option Nat :=
  if V.w.mgmt = false ∧ canonical x.2 = false then none
  else match V.s.translate V.cn V.w.mgmt V.w.ctx .read x.2.toNat with
    | .ok (.mem pa) => some pa
    | _ => none

/-- The access of a PREF to a line. -/
def prefAcc (x : Nat × Dword) (pa : Nat) : LaneAcc := { lane := x.1, va := x.2, loc := .mem pa, width := 1, data := 0 }

/-- The addresses that a PREF does not drop. -/
def View.prefGood (V : View) (xs : List (Nat × Dword)) : List (Nat × Dword) := xs.filter fun x => (V.prefPlace x).isSome

theorem prefetch_eq {V : View} {i : Info} {a : BitVec 7} {l : BitVec 4} {k : BitVec 3} {at_ : Nat → Nat}
    (hat : ∀ x ∈ V.prefGood (V.laneAddresses a k), V.prefPlace x = some (at_ x.1)) : V.prefetch i a l k =
      (V.complete (.line .read .pref) 0 l.toNat false ((V.prefGood (V.laneAddresses a k)).map fun x => prefAcc x (at_ x.1))).retire i := by
  have hone (x : Nat × Dword) : (if canonical x.2 = false ∧ V.w.mgmt = false then none
      else match V.s.translate V.cn V.w.mgmt V.w.ctx .read x.2.toNat with
        | .ok (.mem pa) => some ({ lane := x.1, va := x.2, loc := .mem pa, width := 1, data := 0 } : LaneAcc)
        | _ => none) = (V.prefPlace x).map (prefAcc x) := by
    unfold View.prefPlace
    by_cases h : canonical x.2 = false ∧ V.w.mgmt = false
    · rw [if_pos h, if_pos h.symm]
      rfl
    · rw [if_neg h, if_neg (mt And.symm h)]
      split <;> rfl
  have haccs : (V.laneAddresses a k).filterMap (fun x => (V.prefPlace x).map (prefAcc x)) =
      (V.prefGood (V.laneAddresses a k)).map fun x => prefAcc x (at_ x.1) := by
    rw [← List.filterMap_eq_map, View.prefGood, List.filterMap_filter]
    refine List.filterMap_congr fun x hx => ?_
    cases hp : V.prefPlace x with
    | none => rfl
    | some pa =>
      have hsome := hat x (List.mem_filter.mpr ⟨hx, by rw [hp]; rfl⟩)
      rw [hp] at hsome
      obtain rfl := Option.some.inj hsome
      rfl
  exact congrArg (fun accs => (V.complete (.line .read .pref) 0 l.toNat false accs).retire i) ((List.filterMap_congr fun x _ => hone x).trans haccs)

/-- A PREF matches no watchpoint. -/
theorem watch_pref (V : View) (accs : List LaneAcc) : V.watch (.line .read .pref) accs = V := by
  have hnone (a : LaneAcc) : V.watching a.va (MemForm.line .read .pref).width (MemForm.line .read .pref).reads (MemForm.line .read .pref).writes = [] := by
    refine List.eq_nil_iff_forall_not_mem.mpr fun i hi => ?_
    obtain ⟨x, -, -, -, -, -, hkind, -, -⟩ := mem_watching.mp hi
    rcases hkind with ⟨h, -⟩ | ⟨h, -⟩ <;> cases h
  unfold View.watch
  simp only [hnone, List.flatMap_nil, List.flatMap_eq_nil_iff.mpr fun _ _ => rfl, List.append_nil]

theorem pref_drops {s : State} {V : View} {a : BitVec 7} {l : BitVec 4} {k : BitVec 3} (h : Ready s (infoOf (.pref a l k)) true V)
    (hg : V.prefGood (V.laneAddresses a k) = []) : Does (.pref a l k) s V V.w V.onward ⟨[], []⟩ := by
  have hv := h.1
  obtain rfl := (State.view_from hv).state
  have he : exec (.pref a l k) V.s = .next (V.prefetch (infoOf (.pref a l k)) a l k) := issue_ready h _
  rw [prefetch_eq (at_ := fun _ => 0) (by rw [hg]; exact nofun), hg] at he
  exact does_of hv he (RegsOnly.refl V).became (Effects.none V)

theorem pref_posts {s : State} {V : View} {a : BitVec 7} {l : BitVec 4} {k : BitVec 3} (h : Ready s (infoOf (.pref a l k)) true V)
    {at_ : Nat → Nat} (hg : V.prefGood (V.laneAddresses a k) ≠ []) (hat : ∀ x ∈ V.prefGood (V.laneAddresses a k), V.prefPlace x = some (at_ x.1)) :
    let good := V.prefGood (V.laneAddresses a k)
    let accs := good.map fun x => prefAcc x (at_ x.1)
    ∃ s0, V.TlbOnly s s0 ∧ Posts (.pref a l k) s s0 V
      { V.w with pend := V.w.pend ++ [V.pending .pref 0 0 l.toNat false (V.who good) accs], seq := V.w.seq + 1 } false [] := by
  intro good accs
  have hv := h.1
  obtain rfl := (State.view_from hv).state
  have he : exec (.pref a l k) V.s = .next (V.prefetch (infoOf (.pref a l k)) a l k) := issue_ready h _
  have haccs : accs ≠ [] := fun h' => hg (List.map_eq_nil_iff.mp h')
  obtain ⟨W, hN, hW⟩ := complete_posted V (.line .read .pref) 0 l.toNat false haccs
  have hlanes : ∀ x ∈ good, x.1 < 32 := fun x hx => by
    obtain ⟨l, hl, rfl⟩ := List.mem_map.mp (List.mem_filter.mp hx).1
    exact (lanesOf_mem.mp hl).1
  have hls : (maskOf fun l => accs.any fun a => a.lane == l) = V.who good := by
    rw [who_of_lanes V hlanes]
    simp only [accs, List.any_map]
    rfl
  rw [prefetch_eq hat, hW] at he
  refine ⟨_, tlbOnly_filled V accs, ?_⟩
  have hposts := posts_of_noted hv hN (cores_filled V accs) he
  rw [View.accessed, watch_pref, if_neg Bool.false_ne_true, hls] at hposts
  exact hposts

/-! ### Fences -/

theorem fenceSees_iff (cn scope : Nat) (w : Bool) (x : Loc) : fenceSees cn scope w x = true ↔ match x with
    | .mem pa => ¬ (isHost pa = true ∧ w = true ∧ scope < 5)
    | .window c _ => c = cn ∨ 1 < scope
    | _ => True := by
  cases x with
  | mem pa =>
    simp [fenceSees, ← Bool.not_eq_true]
    tauto
  | window c off => simp [fenceSees]
  | bcast g off => simp [fenceSees]
  | scratch c a => simp [fenceSees]

theorem nearStore_iff (s : State) (cn scope : Nat) (b : BufStore) : s.nearStore cn scope b = true ↔ match b.acc.loc with
    | .bcast _ _ => 1 < scope ∨ (cn ∈ b.acc.reach ∧ (b.sent = none ∨ ∃ m ∈ s.deliveries, m.tag = .store b.uid b.seq b.orig ∧ m.target = cn))
    | _ => True := by
  unfold State.nearStore
  generalize b.acc.loc = x
  cases x <;> simp

theorem outstanding_iff (w : Warp) (ls : Word) (uni : Bool) (seq : Nat) (writes : Bool) (sees : Bool → Loc → Bool) :
    w.outstanding ls uni seq true writes sees = true ↔
      (∃ o ∈ w.pend, o.seq < seq ∧ o.kind ≠ .arwait ∧ (o.kind.reads = true ∨ (writes = true ∧ o.kind.writes = true)) ∧
        ∃ x ∈ o.open_, x.of o.lanes ls uni = true ∧ sees (o.kind.writes && !o.kind.reads) x.loc = true) ∨
      (writes = true ∧ ∃ b ∈ w.sb, b.seq < seq ∧ b.acc.of b.lanes ls uni = true ∧ sees true b.acc.loc = true) := by
  simp [Warp.outstanding, and_assoc]

theorem mem_fencesOf {V : View} {ls : Word} {uni write : Bool} {f : FenceRec} : f ∈ V.fencesOf ls uni write ↔
    f ∈ V.w.fences ∧ (write = true ∨ f.laterReads = true) ∧
      (V.nearWarp f.scope).outstanding (f.lanes &&& ls) (f.uniform && uni) f.seq true f.writes (fenceSees V.cn f.scope) = true := by
  rw [View.fencesOf, List.mem_filter, Bool.and_eq_true, Bool.or_eq_true]

/-- The warp after a fence. -/
def View.fenceWarp (V : View) (writes laterReads uniform : Bool) (n : BitVec 3) : Warp :=
  { V.w with fences := (V.w.fences.filter fun f => V.w.outstanding f.lanes f.uniform f.seq true f.writes everywhere) ++
      [⟨V.w.seq, V.em, uniform, writes, laterReads, n.toNat⟩] }

theorem fence_eq (V : View) (writes laterReads uniform : Bool) (n : BitVec 3) : V.fence writes laterReads uniform n =
    if V.em = 0#32 ∧ uniform = false then V else { V with w := V.fenceWarp writes laterReads uniform n } := by
  unfold View.fence
  simp only [Bool.not_eq_true']
  rfl

/-- A fence orders what its form says, and without threads nothing (R230). -/
theorem fence_does {s : State} {V : View} {i : Instr} {n : BitVec 3} {writes laterReads uniform : Bool} (h : Ready s (infoOf i) (scopeOk n) V)
    (he : exec i s = issue (infoOf i) (scopeOk n) s fun V => (V.fence writes laterReads uniform n).retire (infoOf i)) (hrc : (infoOf i).rc = false) :
    (V.em = 0#32 → uniform = false → Does i s V V.w V.onward ⟨[], []⟩) ∧
    (V.em ≠ 0#32 ∨ uniform = true → ∃ fs, (∀ f ∈ fs, f ∈ V.w.fences) ∧
      (∀ f ∈ V.w.fences, V.w.outstanding f.lanes f.uniform f.seq true f.writes everywhere = true → f ∈ fs) ∧
      Does i s V { V.w with fences := fs ++ [⟨V.w.seq, V.em, uniform, writes, laterReads, n.toNat⟩] } V.onward ⟨[], []⟩) := by
  have hv := h.1
  obtain rfl := (State.view_from hv).state
  rw [issue_ready h, fence_eq] at he
  refine ⟨fun hem hu => ?_, fun hor => ⟨_, fun f hf => (List.mem_filter.mp hf).1, fun f hf hout => List.mem_filter.mpr ⟨hf, hout⟩, ?_⟩⟩
  · rw [if_pos ⟨hem, hu⟩] at he
    have hd := does_of hv he (RegsOnly.refl V).became (Effects.none V)
    rw [hrc] at hd
    exact hd
  · have hnot : ¬ (V.em = 0#32 ∧ uniform = false) := fun ⟨hem, hu⟩ => hor.elim (fun h => h hem) fun h => by rw [hu] at h; cases h
    rw [if_neg hnot] at he
    have hd := does_of (W := { V with w := V.fenceWarp writes laterReads uniform n }) (s0 := V.s) (b := V.fenceWarp writes laterReads uniform n) (p0 := V.p)
      (x := ⟨[], []⟩) hv he ⟨rfl, rfl, rfl, rfl, rfl⟩ (by constructor <;> simp [View.cells, View.touched, View.fenceWarp])
    rw [hrc] at hd
    exact hd

/-! ### The store buffer -/

/-- The stores of a word as they enter the buffer. -/
def Warp.entries (w : Warp) (pc : Pc) (ls : Word) (accs : List LaneAcc) (k : StKind) (held : Bool) : List BufStore :=
  accs.map fun a => ⟨w.seq, pc, ls, a, k, held, w.uid, a.lane, [], none, false⟩

theorem entries_acc (w : Warp) (pc : Pc) (ls : Word) (accs : List LaneAcc) (k : StKind) (held : Bool) :
    (w.entries pc ls accs k held).map (·.acc) = accs := by
  rw [Warp.entries, List.map_map]
  exact List.map_id' accs

/-- The sectors of the held stores, those of a word that enter held included. -/
def Warp.heldSectors (w : Warp) (accs : List LaneAcc) : List Loc := ((w.sb.filter (·.held)).map (·.acc.sector) ++ accs.map (·.sector)).eraseDups

/-- What a store needs of the hold: it ends it with a seventeenth sector, or as a release behind a held store (R309, R310). -/
theorem buffer_eq (w : Warp) (pc : Pc) (ls : Word) (accs : List LaneAcc) (k : StKind) : w.buffer pc ls accs k =
    if (w.rewind ≠ .full ∧ 16 < (w.heldSectors accs).length) ∨ (k = .release ∧ ∃ b ∈ w.sb, b.held = true ∧ ∃ a ∈ accs, b.acc.sameThread a b.lanes ls = true)
    then Warp.fullPoint { w with sb := w.sb ++ w.entries pc ls accs k (w.rewind != .full) } else { w with sb := w.sb ++ w.entries pc ls accs k (w.rewind != .full) } := by
  have hsectors : ((w.sb.filter (·.held) ++ w.entries pc ls accs k (w.rewind != .full)).map fun b => b.acc.sector).eraseDups = w.heldSectors accs := by
    rw [List.map_append, Warp.entries, List.map_map]
    rfl
  have hiff : ((w.rewind != .full && decide (16 < (w.heldSectors accs).length)) ||
      (k == .release && w.sb.any fun b => b.held && accs.any fun a => b.acc.sameThread a b.lanes ls)) = true ↔
      (w.rewind ≠ .full ∧ 16 < (w.heldSectors accs).length) ∨
        (k = .release ∧ ∃ b ∈ w.sb, b.held = true ∧ ∃ a ∈ accs, b.acc.sameThread a b.lanes ls = true) := by
    simp
  refine Eq.trans ?_ (if_congr hiff rfl rfl)
  rw [← hsectors]
  rfl

theorem fullPoint_sb (w : Warp) : w.fullPoint.sb.map (·.acc) = w.sb.map (·.acc) ∧ ∀ b ∈ w.fullPoint.sb, b.held = false := by
  refine ⟨?_, fun b hb => ?_⟩
  · simp [Warp.fullPoint]
  · obtain ⟨x, -, rfl⟩ := List.mem_map.mp hb
    rfl

/-- Settles O25: WBL and DISC as memory words; PREF by whether an address is left; a fence by what is outstanding and by its threads; the buffer by
whether its hold ends. -/
theorem lineWordsAndFences : Obligations.LineWordsAndFences := by
  refine ⟨fun s V a l k n => ⟨laneMemoryWord_of rfl rfl, laneMemoryWord_of rfl rfl, fun h => ?_,
    fun ls uni write f => ?_, fun x hx h => ?_⟩, fun w pc ls accs k => ⟨fun hfull hheld => ?_, fun sn hflash hk => ⟨fun hle => ?_, fun hlt => ?_⟩, ?_, rfl, rfl,
      (fullPoint_sb w).1, (fullPoint_sb w).2⟩⟩
  · obtain rfl := (State.view_from h.1).state
    exact ⟨fun hg => pref_drops h hg, fun hg at_ hat => pref_posts h hg hat⟩
  · refine mem_fencesOf.trans (and_congr_right' (and_congr_right' ((outstanding_iff ..).trans (or_congr ?_ (and_congr_right' (exists_congr fun b => ?_))))))
    · exact exists_congr fun o => and_congr_right' (and_congr_right' (and_congr_right' (and_congr_right' (exists_congr fun x =>
        and_congr_right' (and_congr_right' (fenceSees_iff ..))))))
    · refine (and_congr_left' List.mem_filter).trans ?_
      have hseen := fenceSees_iff V.cn f.scope true b.acc.loc
      have hnear := nearStore_iff V.s V.cn f.scope b
      exact ⟨fun ⟨⟨hb, hn⟩, hlt, hof, hs⟩ => ⟨hb, hlt, hof, hseen.mp hs, hnear.mp hn⟩,
        fun ⟨hb, hlt, hof, hs, hn⟩ => ⟨⟨hb, hnear.mpr hn⟩, hlt, hof, hseen.mpr hs⟩⟩
  · simp only [List.mem_cons, List.not_mem_nil, or_false] at hx
    rcases hx with rfl | rfl | rfl | rfl
    all_goals exact fence_does h rfl rfl
  · rw [buffer_eq, if_neg, hfull]
    · rfl
    · rintro (⟨h, -⟩ | ⟨-, b, hb, hbh, -⟩)
      · exact h hfull
      · rw [hheld b hb] at hbh; cases hbh
  · rw [buffer_eq, if_neg, hflash]
    · rfl
    · rintro (⟨-, h⟩ | ⟨h, -⟩)
      · exact absurd h (Nat.not_lt.mpr hle)
      · exact hk h
  · rw [buffer_eq, if_pos (.inl ⟨by rw [hflash]; nofun, hlt⟩)]
    exact ⟨rfl, rfl, (fullPoint_sb _).2⟩
  · rw [buffer_eq]
    have h := entries_acc w pc ls accs k (w.rewind != .full)
    split
    · rw [(fullPoint_sb _).1, List.map_append, h]
    · rw [List.map_append, h]

end Sys2Proof.Machine
end

section
/-! SUPPORT. What the moves of copies leave alone, and the lines that they leave (R194-R198, R200, R201). -/
namespace Sys2Proof.Machine

/-! ### Lines and their transactions stay -/

/-- From `s` to `t` no line, message or byte changes: warps, tail copies and the draw alone may. -/
def LinesStay (s t : State) : Prop := t = { s with cores := t.cores, fresh := t.fresh, queues := t.queues }

namespace LinesStay
variable {s t u : State}
theorem refl (s : State) : LinesStay s s := rfl
theorem trans (h : LinesStay s t) (k : LinesStay t u) : LinesStay s u := by
  unfold LinesStay at *
  rw [k, h]
theorem foldl {β : Type} {f : State → β → State} (h : ∀ s b, LinesStay s (f s b)) (l : List β) (s : State) : LinesStay s (l.foldl f s) :=
  foldl_keeps (LinesStay s) f (fun _ b ha => ha.trans (h _ b)) l s (refl s)
theorem fields (h : LinesStay s t) : t.fields = s.fields := by rw [h]
theorem field (h : LinesStay s t) (k : Nat) : t.field k = s.field k := by rw [State.field, h.fields]; rfl
theorem onWarp (s : State) (a b n : Nat) (f : Warp → Warp) : LinesStay s (s.onWarp a b n f) := by
  unfold State.onWarp
  split <;> rfl
theorem bindLost (s : State) (f line : Nat) : LinesStay s (s.bindLost f line) := by
  unfold State.bindLost
  split
  · refine trans (foldl (fun u x => ?_) s.allWarps s) rfl
    split
    · exact refl u
    · exact onWarp u _ _ _ _
  · exact refl s
theorem losing (s : State) (keep line : Nat) : LinesStay s (s.losing keep line) :=
  foldl (fun u f => by
    split
    · exact refl u
    · exact bindLost u f line) _ s
theorem loseTails (s : State) (line : Nat) : LinesStay s (s.loseTails line) := by
  unfold State.loseTails
  split <;> rfl
end LinesStay

/-! ### Copies move -/

/-- From `s` to `t` copies move at most: no byte, no message, no transaction and no answer to the host changes. -/
structure CopiesMove (s t : State) : Prop where
  mem : t.mem = s.mem
  undefined : t.undefined = s.undefined
  behind : t.behind = s.behind
  out : t.out = s.out
  buses : ∀ g, (t.cluster g).buses = (s.cluster g).buses
  txns : ∀ f, (t.field f).txns = (s.field f).txns

/-- And no entry of a directory. -/
structure CopiesKept (s t : State) : Prop extends CopiesMove s t where
  dir : ∀ f, (t.field f).dir = (s.field f).dir

theorem CopiesMove.trans {s t u : State} (h : CopiesMove s t) (k : CopiesMove t u) : CopiesMove s u :=
  ⟨k.mem.trans h.mem, k.undefined.trans h.undefined, k.behind.trans h.behind, k.out.trans h.out, fun g => (k.buses g).trans (h.buses g),
    fun f => (k.txns f).trans (h.txns f)⟩
theorem CopiesMove.sameBytes {s t : State} (h : CopiesMove s t) : SameBytes s t := ⟨h.mem, h.undefined⟩

namespace CopiesKept
variable {s t u : State}
theorem refl (s : State) : CopiesKept s s := ⟨⟨rfl, rfl, rfl, rfl, fun _ => rfl, fun _ => rfl⟩, fun _ => rfl⟩
theorem trans (h : CopiesKept s t) (k : CopiesKept t u) : CopiesKept s u := ⟨h.toCopiesMove.trans k.toCopiesMove, fun f => (k.dir f).trans (h.dir f)⟩
theorem foldl {β : Type} {f : State → β → State} (h : ∀ s b, CopiesKept s (f s b)) (l : List β) (s : State) : CopiesKept s (l.foldl f s) :=
  foldl_keeps (CopiesKept s) f (fun _ b ha => ha.trans (h _ b)) l s (refl s)
theorem dirEntry (h : CopiesKept s t) (l : Nat) : t.dirEntry l = s.dirEntry l := by rw [State.dirEntry, h.dir]; rfl
theorem ofStay (h : LinesStay s t) : CopiesKept s t := by
  rw [h]
  exact ⟨⟨rfl, rfl, rfl, rfl, fun _ => rfl, fun _ => rfl⟩, fun _ => rfl⟩
theorem setCluster (s : State) (g : Nat) {c : Cluster} (h : c.buses = (s.cluster g).buses) : CopiesKept s (s.setCluster g c) := by
  refine ⟨⟨rfl, rfl, rfl, rfl, fun n => ?_, fun _ => rfl⟩, fun _ => rfl⟩
  rw [State.cluster_setCluster]
  split
  · next hn => rw [hn, h]
  · rfl
theorem setField (s : State) (f : Nat) {x : Field} (ht : x.txns = (s.field f).txns) (hd : x.dir = (s.field f).dir) : CopiesKept s (s.setField f x) := by
  refine ⟨⟨rfl, rfl, rfl, rfl, fun _ => rfl, fun n => ?_⟩, fun n => ?_⟩
  all_goals
    rw [State.field_setField]
    split
    · next hn => rw [hn]; assumption
    · rfl
theorem putLine (s : State) (f : Nat) (x : L2Line) : CopiesKept s (s.setField f ((s.field f).putLine x)) := setField s f rfl rfl
theorem freeRev (s : State) (g line : Nat) : CopiesKept s (s.freeRev g line) := by
  unfold State.freeRev
  dsimp only
  split
  · exact refl s
  · refine trans (t := s.setCluster g _) (setCluster s g ?_) (foldl (fun u j => ?_) _ _)
    · rfl
    split
    · exact ofStay rfl
    · exact refl u
theorem backInvalidate (s : State) (f line : Nat) : CopiesKept s (s.backInvalidate f line none) := by
  unfold State.backInvalidate
  split
  · exact refl s
  · refine foldl (fun u k => ?_) _ s
    dsimp only
    split
    · refine (freeRev u (8 * f + k) line).trans ?_
      split
      · exact putLine _ _ _
      · exact refl _
    · exact refl u
theorem dropLine (s : State) (f line : Nat) : CopiesKept s (s.setField f ((s.field f).dropLine line)) := by
  unfold Field.dropLine
  split
  · exact setField s f rfl rfl
  · exact setField s f rfl rfl
theorem invalidate (s : State) (f line : Nat) : CopiesKept s (s.invalidate f line) := (backInvalidate s f line).trans (dropLine _ f line)
theorem invalidateOthers (s : State) (keep line : Nat) : CopiesKept s (s.invalidateOthers keep line) := by
  refine (foldl (fun u f => ?_) _ s).trans (ofStay (LinesStay.loseTails _ line))
  split
  · exact refl u
  · split
    · exact invalidate u f line
    · exact refl u
theorem askedBy (s : State) (f line g : Nat) : CopiesKept s (s.askedBy f line g) := by
  unfold State.askedBy
  split
  · split
    · exact refl s
    · exact putLine s f _
  · exact refl s
end CopiesKept

/-- The line that `setLine` puts. -/
def State.lineSet (s : State) (f line : Nat) (st : LineState) (ctx : Nat) (d0 d1 await : Bool) : L2Line :=
  match (s.field f).line line with
  | some x => { x with st := st, v0 := x.v0 && !await, v1 := x.v1 && !await, d0 := x.d0 || d0, d1 := x.d1 || d1, used := s.fresh }
  | none => { line := line, st := st, v0 := !await, v1 := !await, d0 := d0, d1 := d1, presence := s.presenceOf f line, ctx := ctx, way := 24, used := s.fresh }

theorem lineSet_line (s : State) (f line : Nat) (st : LineState) (ctx : Nat) (d0 d1 await : Bool) : (s.lineSet f line st ctx d0 d1 await).line = line := by
  unfold State.lineSet
  cases h : (s.field f).line line with
  | none => rfl
  | some x => exact (Field.line_line h :)
theorem setLine_eq (s : State) (f line : Nat) (st : LineState) (ctx : Nat) (d0 d1 await : Bool) :
    s.setLine f line st ctx d0 d1 await = s.setField f ((s.field f).putLine (s.lineSet f line st ctx d0 d1 await)) := by
  unfold State.setLine State.lineSet
  dsimp only
  cases (s.field f).line line with
  | none => rfl
  | some x => rfl
theorem CopiesKept.setLine (s : State) (f line : Nat) (st : LineState) (ctx : Nat) (d0 d1 await : Bool) : CopiesKept s (s.setLine f line st ctx d0 d1 await) := by
  rw [setLine_eq]
  exact putLine s f _

theorem CopiesMove.setDir (s : State) (line : Nat) (d : DirEntry) : CopiesMove s (s.setDir line d) := by
  refine ⟨rfl, rfl, rfl, rfl, fun _ => rfl, fun k => ?_⟩
  rw [State.setDir, State.field_setField]
  split
  · next h => rw [h]
  · rfl
theorem dirEntry_setDir (s : State) (line : Nat) (d : DirEntry) : (s.setDir line d).dirEntry line = d := by
  rw [State.dirEntry, State.setDir, State.field_setField, if_pos rfl]
  by_cases h : d = ⟨.uncached, .none⟩
  · simp [h]
  · simp [h]

/-! ### The lines that moves leave -/

theorem line_dropLine (f : Field) (line l : Nat) : (f.dropLine line).line l = if l = line then none else f.line l := by
  have hfilter : (f.l2.filter fun y => y.line ≠ line).find? (fun x => x.line == l) = if l = line then none else f.line l := by
    rw [List.find?_filter]
    by_cases h : l = line
    · rw [if_pos h, List.find?_eq_none]
      intro y _
      simp [h]
    · rw [if_neg h]
      refine congrArg (fun p => f.l2.find? p) (funext fun y => ?_)
      by_cases hy : y.line = l <;> simp [hy, h]
  unfold Field.dropLine
  cases hx : f.line line with
  | none =>
    by_cases h : l = line
    · rw [if_pos h, h]
      exact hx
    · exact (if_neg h).symm
  | some x => exact hfilter

theorem line_putLine_field (s : State) (f : Nat) (x : L2Line) (k l : Nat) :
    ((s.setField f ((s.field f).putLine x)).field k).line l = if k = f ∧ l = x.line then some x else (s.field k).line l := by
  rw [State.field_setField]
  by_cases hk : k = f
  · rw [if_pos hk, Field.line_putLine, hk]
    simp only [true_and]
  · rw [if_neg hk, if_neg fun h => hk h.1]

theorem field_freeRev (s : State) (g line k : Nat) : (s.freeRev g line).field k = s.field k := by
  unfold State.freeRev
  dsimp only
  split
  · rfl
  · refine foldl_keeps (fun t : State => t.field k = s.field k) _ (fun t j ht => ?_) _ _ rfl
    split
    · exact ht
    · exact ht

/-- A back-invalidation changes no other line. -/
theorem line_backInvalidate (s : State) (f line : Nat) {k l : Nat} (h : k ≠ f ∨ l ≠ line) :
    ((s.backInvalidate f line none).field k).line l = (s.field k).line l := by
  unfold State.backInvalidate
  split
  · rfl
  · refine foldl_keeps (fun t : State => (t.field k).line l = (s.field k).line l) _ (fun t j ht => ?_) _ _ rfl
    dsimp only
    split
    · split
      · next y hy =>
        rw [line_putLine_field, if_neg, field_freeRev, ht]
        rintro ⟨hk, hl⟩
        have hy : y.line = line := Field.line_line hy
        exact h.elim (fun h => h hk) fun h => h (hl.trans hy)
      · rw [field_freeRev, ht]
    · exact ht

theorem line_invalidate (s : State) (f line k l : Nat) :
    ((s.invalidate f line).field k).line l = if k = f ∧ l = line then none else (s.field k).line l := by
  unfold State.invalidate
  dsimp only
  rw [State.field_setField]
  by_cases hk : k = f
  · subst hk
    rw [if_pos rfl, line_dropLine]
    by_cases hl : l = line
    · rw [if_pos hl, if_pos ⟨rfl, hl⟩]
    · rw [if_neg hl, if_neg fun h => hl h.2, line_backInvalidate s k line (.inr hl)]
  · rw [if_neg hk, if_neg fun h => hk h.1, line_backInvalidate s f line (.inl hk)]

theorem line_invalidateOthers (s : State) (keep line k l : Nat) :
    ((s.invalidateOthers keep line).field k).line l = if k < 42 ∧ k ≠ keep ∧ l = line then none else (s.field k).line l := by
  have hone (u : State) (f : Nat) : (((if f = keep then u else if ((u.field f).line line).isSome then u.invalidate f line else u).field k).line l) =
      if k = f ∧ k ≠ keep ∧ l = line then none else (u.field k).line l := by
    split
    · next h => rw [if_neg]; rintro ⟨hk, hne, -⟩; exact hne (hk.trans h)
    · next h =>
      split
      · rw [line_invalidate]
        refine if_congr ⟨fun hc => ⟨hc.1, ?_, hc.2⟩, fun hc => ⟨hc.1, hc.2.2⟩⟩ rfl rfl
        rwa [hc.1]
      · next hn =>
        split
        · next hc => rw [hc.1, hc.2.2]; simpa using hn
        · rfl
  have hfold : ∀ (fs : List Nat) (u : State),
      ((fs.foldl (fun s f => if f = keep then s else if ((s.field f).line line).isSome then s.invalidate f line else s) u).field k).line l =
        if k ∈ fs ∧ k ≠ keep ∧ l = line then none else (u.field k).line l := by
    intro fs
    induction fs with
    | nil => intro u; simp
    | cons f fs ih =>
      intro u
      rw [List.foldl_cons, ih, hone]
      simp only [List.mem_cons]
      by_cases hfs : k ∈ fs ∧ k ≠ keep ∧ l = line
      · rw [if_pos hfs, if_pos ⟨.inr hfs.1, hfs.2⟩]
      · rw [if_neg hfs]
        exact if_congr ⟨fun h => ⟨.inl h.1, h.2⟩, fun h => ⟨h.1.resolve_right fun hm => hfs ⟨hm, h.2⟩, h.2⟩⟩ rfl rfl
  rw [State.invalidateOthers, (LinesStay.loseTails _ line).field, hfold]
  simp only [List.mem_range]

theorem line_setLine (s : State) (f line : Nat) (st : LineState) (ctx : Nat) (d0 d1 await : Bool) (k l : Nat) :
    ((s.setLine f line st ctx d0 d1 await).field k).line l = if k = f ∧ l = line then some (s.lineSet f line st ctx d0 d1 await) else (s.field k).line l := by
  rw [setLine_eq, line_putLine_field, lineSet_line]

theorem line_setDir (s : State) (line : Nat) (d : DirEntry) (k l : Nat) : ((s.setDir line d).field k).line l = (s.field k).line l := by
  rw [State.setDir, State.field_setField]
  split
  · next h => rw [h]; rfl
  · rfl

/-- Who asked for a line is noted until it has its way. -/
def L2Line.askedFrom (x : L2Line) (g : Nat) : L2Line := if x.way < 24 then x else { x with asked := g }
theorem line_askedBy (s : State) (f line g k l : Nat) :
    ((s.askedBy f line g).field k).line l = if k = f ∧ l = line then ((s.field f).line line).map (·.askedFrom g) else (s.field k).line l := by
  unfold State.askedBy
  cases hx : (s.field f).line line with
  | none =>
    by_cases h : k = f ∧ l = line
    · rw [if_pos h, h.1, h.2]
      exact hx
    · exact (if_neg h).symm
  | some x =>
    dsimp only [Option.map_some]
    unfold L2Line.askedFrom
    split
    · by_cases h : k = f ∧ l = line
      · rw [if_pos h, h.1, h.2, hx]
      · exact (if_neg h).symm
    · have hline : x.line = line := Field.line_line hx
      rw [line_putLine_field, hline]

end Sys2Proof.Machine
end

section
/-! SUPPORT. A message leaves its queue; transactions at their ordering point; the owner's data reaches home memory; a line takes its way (R197, R199, R201, R203). -/
namespace Sys2Proof.Machine

/-! ### A message leaves its queue -/

/-- The head of a bus queue has left it. -/
def State.popMsg (s : State) (g bus : Nat) (ms : List Msg) : State :=
  s.setCluster g { s.cluster g with buses := (s.cluster g).buses.put bus ms }

theorem takeMsg_turn {s : State} {g bus : Nat} {m : Msg} {ms : List Msg} (h : s.turn g bus m ms) :
    s.takeMsg g bus m.kind = some (m, s.popMsg g bus ms) := by
  obtain ⟨hq, hw⟩ := h
  unfold State.takeMsg
  simp only [hq, hw, Option.getD_some, and_self, if_true]
  rfl

theorem buses_popMsg (s : State) (g bus : Nat) (ms : List Msg) : ((s.popMsg g bus ms).cluster g).buses.find bus = some ms := by
  rw [State.popMsg, State.cluster_setCluster, if_pos rfl]
  simp

/-! ### Transactions -/

/-- From `s` to `t` transactions alone change. -/
structure TxnsMove (s t : State) : Prop where
  rest : t = { s with fields := t.fields }
  field : ∀ k, t.field k = { s.field k with txns := (t.field k).txns }

namespace TxnsMove
variable {s t u : State}
theorem line (h : TxnsMove s t) (k l : Nat) : (t.field k).line l = (s.field k).line l := by rw [h.field]; rfl
theorem dirEntry (h : TxnsMove s t) (l : Nat) : t.dirEntry l = s.dirEntry l := by rw [State.dirEntry, h.field]; rfl
theorem cluster (h : TxnsMove s t) (g : Nat) : t.cluster g = s.cluster g := by rw [h.rest]; rfl
theorem sameBytes (h : TxnsMove s t) : SameBytes s t := by
  rw [h.rest]
  exact ⟨rfl, rfl⟩
theorem markTxn (s : State) (f l : Nat) (g : Txn → Txn) : TxnsMove s (s.markTxn f l g) := by
  refine ⟨rfl, fun k => ?_⟩
  rw [State.markTxn, State.field_setField]
  split
  · next h => rw [h]
  · rfl
end TxnsMove

theorem txns_markTxn (s : State) (f l : Nat) (g : Txn → Txn) :
    ((s.markTxn f l g).field f).txns = (s.field f).txns.map fun x => if x.line = l then g x else x := by
  rw [State.markTxn, State.field_setField, if_pos rfl]

/-- What is left of a transaction when field `f` has its data of a line. -/
def Txn.freed (f l : Nat) (t : Txn) : Txn := if t.line = l ∧ t.after = some f then { t with after := none } else t
@[simp] theorem Txn.line_freed (f l : Nat) (t : Txn) : (t.freed f l).line = t.line := by
  unfold Txn.freed
  split <;> rfl

/-- What is left of the transactions of field `k` when field `f` has its data of a line. -/
def txnsLeft (f l k : Nat) (ts : List Txn) : List Txn := (if k = f then ts.filter fun t => t.line ≠ l else ts).map (Txn.freed f l)
@[simp] theorem txnsLeft_nil (f l k : Nat) : txnsLeft f l k [] = [] := by
  unfold txnsLeft
  split <;> rfl

theorem field_endTxn (s : State) (f l k : Nat) : (s.endTxn f l).field k = { s.field k with txns := txnsLeft f l k (s.field k).txns } := by
  have hfind : ∀ m : Table Field, (Table.find (m.map fun x : Nat × Field => (x.1, { x.2 with txns := txnsLeft f l x.1 x.2.txns })) k).getD Field.blank =
      { (m.find k).getD Field.blank with txns := txnsLeft f l k ((m.find k).getD Field.blank).txns } := by
    intro m
    induction m with
    | nil => exact (congrArg (fun ts => { Field.blank with txns := ts }) (txnsLeft_nil f l k)).symm
    | cons x m ih =>
      rw [List.map_cons, Table.find, Table.find]
      by_cases hk : x.1 = k
      · rw [if_pos hk, if_pos hk, hk]
        rfl
      · rw [if_neg hk, if_neg hk]
        exact ih
  exact hfind s.fields

theorem TxnsMove.endTxn (s : State) (f l : Nat) : TxnsMove s (s.endTxn f l) :=
  ⟨rfl, fun k => by rw [field_endTxn]⟩

theorem txns_endTxn (s : State) (f l : Nat) : ∀ t ∈ ((s.endTxn f l).field f).txns, t.line ≠ l := by
  intro t ht
  rw [field_endTxn, txnsLeft, if_pos rfl] at ht
  obtain ⟨u, hu, rfl⟩ := List.mem_map.mp ht
  rw [Txn.line_freed]
  simpa using (List.mem_filter.mp hu).2

/-- A transaction at its ordering point, before what waits for its line is served. -/
def State.settled (s : State) (f line : Nat) : State :=
  let waits := (s.field f).txns.any fun t => t.line == line && t.waitHost
  match (s.field f).line line with
  | some x => if x.awaiting || waits then s.markTxn f line fun t => { t with applied := true } else s.endTxn f line
  | none => s.endTxn f line

theorem ordered_eq (s : State) (f line : Nat) : s.ordered f line = (s.settled f line).serveLine f line := rfl

theorem settled_eq (s : State) (f line : Nat) :
    s.settled f line = s.markTxn f line (fun t => { t with applied := true }) ∨ s.settled f line = s.endTxn f line := by
  unfold State.settled
  dsimp only
  cases (s.field f).line line with
  | none => exact .inr rfl
  | some x =>
    dsimp only
    split
    · exact .inl rfl
    · exact .inr rfl

theorem TxnsMove.settled (s : State) (f line : Nat) : TxnsMove s (s.settled f line) := by
  obtain h | h := settled_eq s f line
  · rw [h]; exact markTxn s f line _
  · rw [h]; exact endTxn s f line

/-- What is left of the line's transactions has been ordered, and waits for the host as before. -/
theorem txns_settled (s : State) (f line : Nat) : ∀ y ∈ ((s.settled f line).field f).txns, y.line = line →
    y.applied = true ∧ ∃ y0 ∈ (s.field f).txns, y0.line = line ∧ y.waitHost = y0.waitHost := by
  intro y hy hl
  obtain h | h := settled_eq s f line
  · rw [h, txns_markTxn] at hy
    obtain ⟨y0, hy0, rfl⟩ := List.mem_map.mp hy
    by_cases h0 : y0.line = line
    · rw [if_pos h0]
      exact ⟨rfl, y0, hy0, h0, rfl⟩
    · rw [if_neg h0] at hl
      exact absurd hl h0
  · rw [h] at hy
    exact absurd hl (txns_endTxn s f line y hy)

/-! ### The owner's data reaches home memory -/

/-- A write back of the copy that a field has. -/
theorem cleanLine_eq {s : State} {f line : Nat} {x : L2Line} (h : (s.field f).line line = some x) (st : LineState) :
    s.cleanLine f line st = { s.setField f ((s.field f).putLine { x with st := st, d0 := false, d1 := false }) with
      behind := Sparse.clear (fun a => lineOf a == line) s.behind } := by
  unfold State.cleanLine
  dsimp only
  rw [h]

theorem cleanLine_none {s : State} {f line : Nat} (h : (s.field f).line line = none) (st : LineState) : s.cleanLine f line st = s := by
  unfold State.cleanLine
  dsimp only
  rw [h]

/-- What a write back keeps: everything but the copy and what home memory lags behind. -/
theorem cleanLine_keeps (s : State) (f line : Nat) (st : LineState) : CopiesKept { s with behind := (s.cleanLine f line st).behind } (s.cleanLine f line st) := by
  cases h : (s.field f).line line with
  | none =>
    rw [cleanLine_none h]
    exact CopiesKept.refl s
  | some x =>
    rw [cleanLine_eq h]
    exact CopiesKept.putLine { s with behind := Sparse.clear (fun a => lineOf a == line) s.behind } f { x with st := st, d0 := false, d1 := false }

theorem homeCurrent_clear {s : State} {line : Nat} {b : Memory} (h : s.behind = Sparse.clear (fun a => lineOf a == line) b) : s.homeCurrent line := by
  intro a ha
  rw [h, Sparse.get_clear]
  simp [ha]

theorem homeCurrent_cleanLine {s : State} {f line : Nat} {x : L2Line} (h : (s.field f).line line = some x) (st : LineState) :
    (s.cleanLine f line st).homeCurrent line := homeCurrent_clear (b := s.behind) (by rw [cleanLine_eq h])

theorem line_cleanLine {s : State} {f line : Nat} {x : L2Line} (h : (s.field f).line line = some x) (st : LineState) :
    ((s.cleanLine f line st).field f).line line = some { x with st := st, d0 := false, d1 := false } := by
  have hl : x.line = line := Field.line_line h
  rw [cleanLine_eq h]
  show ((s.setField f _).field f).line line = _
  rw [line_putLine_field, if_pos ⟨rfl, hl.symm⟩]

theorem lineState_of {s : State} {f line : Nat} {x : L2Line} (h : (s.field f).line line = some x) : s.lineState f line = x.st := by
  unfold State.lineState
  rw [h]

/-! ### A line takes its way -/

/-- From `s` to `t` neither a byte nor what home memory lags behind changes, nor a transaction or a directory entry. -/
structure HomeKept (s t : State) : Prop where
  mem : t.mem = s.mem
  undefined : t.undefined = s.undefined
  behind : t.behind = s.behind
  txns : ∀ f, (t.field f).txns = (s.field f).txns
  dir : ∀ f, (t.field f).dir = (s.field f).dir

theorem CopiesKept.homeKept {s t : State} (h : CopiesKept s t) : HomeKept s t := ⟨h.mem, h.undefined, h.behind, h.txns, h.dir⟩

namespace HomeKept
variable {s t u : State}
theorem refl (s : State) : HomeKept s s := (CopiesKept.refl s).homeKept
theorem trans (h : HomeKept s t) (k : HomeKept t u) : HomeKept s u :=
  ⟨k.mem.trans h.mem, k.undefined.trans h.undefined, k.behind.trans h.behind, fun f => (k.txns f).trans (h.txns f), fun f => (k.dir f).trans (h.dir f)⟩
theorem sameBytes (h : HomeKept s t) : SameBytes s t := ⟨h.mem, h.undefined⟩
theorem dirEntry (h : HomeKept s t) (l : Nat) : t.dirEntry l = s.dirEntry l := by rw [State.dirEntry, h.dir]; rfl
theorem fillLine (s : State) (f : Nat) (x : L2Line) (w : Nat) : HomeKept s (s.setField f ((s.field f).fillLine x w)) := (CopiesKept.setField s f (x := (s.field f).fillLine x w) rfl rfl).homeKept
theorem post (s : State) (g : Nat) (m : Msg) : HomeKept s (s.post g m) := ⟨rfl, rfl, rfl, fun _ => rfl, fun _ => rfl⟩
end HomeKept

/-- What taking a way can do: nothing, a way taken, a Put posted for the line that goes, or that line dropped and its way taken or left. -/
theorem giveWay_cases (s : State) (f line : Nat) : (s.giveWay f line = s) ∨
    (∃ x w, (s.field f).line line = some x ∧ s.giveWay f line = s.setField f ((s.field f).fillLine x w)) ∨
    (∃ g m, s.giveWay f line = s.post g m) ∨
    (∃ x w v, (s.field f).line line = some x ∧ ¬ x.way < 24 ∧ s.victim f line x.ctx = (w, some v) ∧
      ∀ u, u = s.invalidate f v.line →
        (∃ y, (u.field f).line line = some y ∧ s.giveWay f line = u.setField f ((u.field f).fillLine y w)) ∨
        ((u.field f).line line = none ∧ s.giveWay f line = u)) := by
  unfold State.giveWay
  cases hx : (s.field f).line line with
  | none => exact .inl rfl
  | some x =>
    dsimp only
    by_cases hw : (x.awaiting || decide (x.way < 24)) = true
    · rw [if_pos hw]
      exact .inl rfl
    · rw [if_neg hw]
      have hway : ¬ x.way < 24 := fun h => hw (by simp [h])
      rcases hv : s.victim f line x.ctx with ⟨w, _ | v⟩
      · dsimp only
        split
        · exact .inr (.inl ⟨x, w, rfl, rfl⟩)
        · exact .inl rfl
      · dsimp only
        split
        · split
          · exact .inl rfl
          · exact .inr (.inr (.inl ⟨_, _, rfl⟩))
        · refine .inr (.inr (.inr ⟨x, w, v, rfl, hway, hv, ?_⟩))
          rintro u rfl
          cases hy : ((s.invalidate f v.line).field f).line line with
          | none => exact .inr ⟨rfl, rfl⟩
          | some y => exact .inl ⟨y, rfl, rfl⟩

theorem HomeKept.giveWay (s : State) (f line : Nat) : HomeKept s (s.giveWay f line) := by
  obtain h | ⟨x, w, -, h⟩ | ⟨g, m, h⟩ | ⟨x, w, v, -, -, -, h⟩ := giveWay_cases s f line
  · rw [h]; exact refl s
  · rw [h]; exact fillLine s f x w
  · rw [h]; exact post s g m
  · have hu := (CopiesKept.invalidate s f v.line).homeKept
    obtain ⟨y, -, h⟩ | ⟨-, h⟩ := h _ rfl
    · rw [h]; exact hu.trans (fillLine _ f y w)
    · rw [h]; exact hu

theorem line_fillLine (s : State) (f : Nat) (x : L2Line) (w k l : Nat) :
    ((s.setField f ((s.field f).fillLine x w)).field k).line l = if k = f ∧ l = x.line then some { x with way := w } else (s.field k).line l := by
  rw [← line_putLine_field s f { x with way := w }]
  rw [State.field_setField, State.field_setField]
  split <;> rfl

/-- A line that a field does not hold, it does not come to hold. -/
theorem line_giveWay_none {s : State} {f l : Nat} (line : Nat) (hn : (s.field f).line l = none) : ((s.giveWay f line).field f).line l = none := by
  have hfill {u : State} {y : L2Line} (w : Nat) (hy : (u.field f).line line = some y) (hu : (u.field f).line l = none) :
      ((u.setField f ((u.field f).fillLine y w)).field f).line l = none := by
    have hl : y.line = line := Field.line_line hy
    rw [line_fillLine, if_neg, hu]
    rintro ⟨-, rfl⟩
    rw [hl, hy] at hu
    cases hu
  obtain h | ⟨x, w, hx, h⟩ | ⟨g, m, h⟩ | ⟨x, w, v, -, -, -, h⟩ := giveWay_cases s f line
  · rw [h]; exact hn
  · rw [h]; exact hfill w hx hn
  · rw [h]; exact hn
  · have hu : ((s.invalidate f v.line).field f).line l = none := by
      rw [line_invalidate]
      split
      · rfl
      · exact hn
    obtain ⟨y, hy, h⟩ | ⟨-, h⟩ := h _ rfl
    · rw [h]; exact hfill w hy hu
    · rw [h]; exact hu

theorem mem_of_lru {xs : List L2Line} {x : L2Line} (h : lru xs = some x) : x ∈ xs := by
  induction xs generalizing x with
  | nil => cases h
  | cons y ys ih =>
    rw [lru] at h
    cases hy : lru ys with
    | none =>
      rw [hy] at h
      cases h
      exact List.mem_cons_self
    | some z =>
      rw [hy] at h
      dsimp only at h
      split at h
      · cases h; exact List.mem_cons_self
      · cases h; exact List.mem_cons_of_mem _ (ih hy)

/-- The line that goes has a way. -/
theorem victim_has_way {s : State} {f line ctx w : Nat} {v : L2Line} (h : s.victim f line ctx = (w, some v)) : v ∈ (s.field f).l2 ∧ v.way < 24 := by
  have hsome {p : L2Line → Bool} {ys : List L2Line} (hv : v ∈ ys.filter p) : v ∈ ys := List.mem_of_mem_filter hv
  unfold State.victim at h
  extract_lets fd ways inSet foreign mine above at h
  have hin : v ∈ inSet → v ∈ fd.l2 ∧ v.way < 24 := by
    intro hv
    obtain ⟨hm, hp⟩ := List.mem_filter.mp hv
    simp only [Bool.and_eq_true, decide_eq_true_eq] at hp
    exact ⟨hm, hp.1.2⟩
  split at h
  · cases h
  · split at h
    · next x hx =>
      cases h
      obtain ⟨l, hl, hv⟩ := List.exists_of_findSome?_eq_some hx
      have hv := mem_of_lru hv
      simp only [List.mem_cons, List.not_mem_nil, or_false] at hl
      obtain rfl | rfl | rfl | rfl := hl
      · exact hin (hsome hv)
      · have : v ∈ inSet := by
          by_cases ho : fd.overLimit ctx = true
          · rw [show mine = _ from if_pos ho] at hv
            exact hsome hv
          · rw [show mine = _ from if_neg ho] at hv
            cases hv
        exact hin this
      · exact hin (hsome hv)
      · exact hin hv
    · cases h

/-- The line that has been put is the only one under its number. -/
theorem mem_putLine {f : Field} {x y : L2Line} (hy : y ∈ (f.putLine x).l2) (hl : y.line = x.line) : y = x := by
  unfold Field.putLine at hy
  dsimp only at hy
  split at hy
  · obtain ⟨z, -, rfl⟩ := List.mem_map.mp hy
    by_cases hz : z.line = x.line
    · rw [if_pos hz]
    · rw [if_neg hz] at hl
      exact absurd hl hz
  · next hn =>
    obtain hy | hy := List.mem_append.mp hy
    · exact absurd (List.any_eq_true.mpr ⟨y, hy, by simpa using hl⟩) hn
    · exact List.mem_singleton.mp hy

/-- A line that has been put and takes its way stays, but for the way. -/
theorem line_giveWay_put (s : State) (f : Nat) {x : L2Line} {line : Nat} (hl : x.line = line) :
    ∃ w, (((s.setField f ((s.field f).putLine x)).giveWay f line).field f).line line = some { x with way := w } := by
  subst hl
  have ht : ((s.setField f ((s.field f).putLine x)).field f).line x.line = some x := by
    rw [line_putLine_field, if_pos ⟨rfl, rfl⟩]
  have hfd : (s.setField f ((s.field f).putLine x)).field f = (s.field f).putLine x := by rw [State.field_setField, if_pos rfl]
  generalize hT : s.setField f ((s.field f).putLine x) = t at ht hfd ⊢
  obtain h | ⟨y, w, hy, h⟩ | ⟨g, m, h⟩ | ⟨y, w, v, hy, hway, hv, h⟩ := giveWay_cases t f x.line
  · exact ⟨x.way, by rw [h]; exact ht⟩
  · rw [ht] at hy
    cases hy
    exact ⟨w, by rw [h, line_fillLine, if_pos ⟨rfl, rfl⟩]⟩
  · exact ⟨x.way, by rw [h]; exact ht⟩
  · rw [ht] at hy
    cases hy
    obtain ⟨hmem, hlt⟩ := victim_has_way hv
    have hne : x.line ≠ v.line := by
      intro hl
      rw [hfd] at hmem
      rw [mem_putLine hmem hl.symm] at hlt
      exact hway hlt
    have hu : ((t.invalidate f v.line).field f).line x.line = some x := by
      rw [line_invalidate, if_neg fun h => hne h.2, ht]
    obtain ⟨y, hy, h⟩ | ⟨hn, -⟩ := h _ rfl
    · rw [hu] at hy
      cases hy
      exact ⟨w, by rw [h, line_fillLine, if_pos ⟨rfl, rfl⟩]⟩
    · rw [hu] at hn
      cases hn

end Sys2Proof.Machine
end

section
/-! SUPPORT. GetS, GetM, Put, Clean and Disc at their ordering points, line data and the host's answer (R195-R198, R201, R202, R205, R207, R208). -/
namespace Sys2Proof.Machine

/-! ### The host is asked -/

theorem askHost_of_needs {s : State} {line : Nat} {own : Bool} (h : s.hostNeeds line own = true) (f : Nat) :
    s.askHost f line own = { s.markTxn f line fun t => { t with waitHost := true } with
      out := s.out ++ [if isHost (256 * line) then .hostFetch line own else .backInvalidate line] } := by
  unfold State.askHost
  rw [if_pos h]

theorem askHost_of_not_needs {s : State} {line : Nat} {own : Bool} (h : s.hostNeeds line own = false) (f : Nat) : s.askHost f line own = s := by
  unfold State.askHost
  rw [if_neg (by rw [h]; decide)]

/-! ### A field is given a line -/

/-- The owner keeps its data beside other copies. -/
def State.ownerShares (s : State) (o line : Nat) : State :=
  match (s.field o).line line with
  | some x => s.setField o ((s.field o).putLine { x with st := .O })
  | none => s

theorem ownerShares_some {s : State} {o line : Nat} {x : L2Line} (h : (s.field o).line line = some x) :
    s.ownerShares o line = s.setField o ((s.field o).putLine { x with st := .O }) := by
  unfold State.ownerShares
  rw [h]

theorem ownerShares_none {s : State} {o line : Nat} (h : (s.field o).line line = none) : s.ownerShares o line = s := by
  unfold State.ownerShares
  rw [h]

theorem CopiesKept.ownerShares (s : State) (o line : Nat) : CopiesKept s (s.ownerShares o line) := by
  cases h : (s.field o).line line with
  | none => rw [ownerShares_none h]; exact refl s
  | some x => rw [ownerShares_some h]; exact putLine s o _

theorem cores_ownerShares (s : State) (o line : Nat) : (s.ownerShares o line).cores = s.cores := by
  cases h : (s.field o).line line with
  | none => rw [ownerShares_none h]
  | some x => rw [ownerShares_some h]; rfl

theorem field_ownerShares {s : State} {o k : Nat} (hk : k ≠ o) (line : Nat) : (s.ownerShares o line).field k = s.field k := by
  cases h : (s.field o).line line with
  | none => rw [ownerShares_none h]
  | some x => rw [ownerShares_some h, State.field_setField, if_neg hk]

theorem line_ownerShares {s : State} {o line : Nat} {x : L2Line} (h : (s.field o).line line = some x) :
    ((s.ownerShares o line).field o).line line = some { x with st := .O } := by
  have hl : x.line = line := Field.line_line h
  rw [ownerShares_some h, line_putLine_field, if_pos ⟨rfl, hl.symm⟩]

theorem applyGetS_uncached {s : State} {line : Nat} (h : (s.dirEntry line).st = .uncached) (f ctx : Nat) :
    s.applyGetS f line ctx = (s.setLine f line .E ctx false false true).setDir line ⟨.owned f, (s.dirEntry line).host⟩ := by
  unfold State.applyGetS
  dsimp only
  rw [h]

theorem applyGetS_shared {s : State} {line : Nat} (h : (s.dirEntry line).st = .shared) (f ctx : Nat) :
    s.applyGetS f line ctx = s.setLine f line .S ctx false false true := by
  unfold State.applyGetS
  dsimp only
  rw [h]

theorem applyGetS_own {s : State} {line f : Nat} (h : (s.dirEntry line).st = .owned f) (ctx : Nat) : s.applyGetS f line ctx = s := by
  unfold State.applyGetS
  dsimp only
  rw [h]
  exact if_pos rfl

theorem applyGetS_owned {s : State} {line o f : Nat} (h : (s.dirEntry line).st = .owned o) (hf : o ≠ f) (ctx : Nat) :
    s.applyGetS f line ctx = (s.ownerShares o line).setLine f line .S ctx false false true := by
  unfold State.applyGetS
  dsimp only
  rw [h]
  exact if_neg hf

theorem applyHostGetS_granted {s : State} {line : Nat} (hh : isHost (256 * line) = true) (hd : (s.dirEntry line).st = .uncached)
    (he : (s.dirEntry line).host ≠ .EM) (f ctx : Nat) :
    s.applyHostGetS f line ctx = (s.setLine f line .S ctx false false true).setDir line ⟨.shared, (s.dirEntry line).host⟩ := by
  unfold State.applyHostGetS
  exact if_pos ⟨hh, hd, he⟩

theorem applyHostGetS_eq {s : State} {line : Nat} (h : ¬(isHost (256 * line) = true ∧ (s.dirEntry line).st = .uncached ∧ (s.dirEntry line).host ≠ .EM))
    (f ctx : Nat) : s.applyHostGetS f line ctx = s.applyGetS f line ctx := by
  unfold State.applyHostGetS
  exact if_neg h

theorem CopiesMove.applyGetS (s : State) (f line ctx : Nat) : CopiesMove s (s.applyGetS f line ctx) := by
  cases h : (s.dirEntry line).st with
  | uncached =>
    rw [applyGetS_uncached h]
    exact (CopiesKept.setLine s f line _ _ _ _ _).toCopiesMove.trans (setDir _ line _)
  | shared =>
    rw [applyGetS_shared h]
    exact (CopiesKept.setLine s f line _ _ _ _ _).toCopiesMove
  | owned o =>
    by_cases ho : o = f
    · subst ho
      rw [applyGetS_own h]
      exact (CopiesKept.refl s).toCopiesMove
    · rw [applyGetS_owned h ho]
      exact ((CopiesKept.ownerShares s o line).trans (CopiesKept.setLine _ f line _ _ _ _ _)).toCopiesMove

theorem CopiesMove.applyHostGetS (s : State) (f line ctx : Nat) : CopiesMove s (s.applyHostGetS f line ctx) := by
  by_cases h : isHost (256 * line) = true ∧ (s.dirEntry line).st = .uncached ∧ (s.dirEntry line).host ≠ .EM
  · obtain ⟨hh, hd, he⟩ := h
    rw [applyHostGetS_granted hh hd he]
    exact (CopiesKept.setLine s f line _ _ _ _ _).toCopiesMove.trans (setDir _ line _)
  · rw [applyHostGetS_eq h]
    exact applyGetS s f line ctx

/-- The dirty bits of the owner's copy. -/
def State.ownerDirty (s : State) (line : Nat) : Bool × Bool :=
  match (s.dirEntry line).st with
  | .owned o => match (s.field o).line line with
    | some x => (x.d0, x.d1)
    | none => (false, false)
  | _ => (false, false)

theorem ownerDirty_of {s : State} {line o : Nat} {y : L2Line} (hd : (s.dirEntry line).st = .owned o) (hy : (s.field o).line line = some y) :
    s.ownerDirty line = (y.d0, y.d1) := by
  unfold State.ownerDirty
  rw [hd]
  dsimp only
  rw [hy]

/-- The copy that GetM makes. -/
def State.gotM (s : State) (f line ctx : Nat) : State :=
  (s.invalidateOthers f line).setLine f line .M ctx (s.ownerDirty line).1 (s.ownerDirty line).2 (!(((s.invalidateOthers f line).lineState f line).owner))

theorem applyGetM_eq (s : State) (f line ctx : Nat) : s.applyGetM f line ctx = (s.gotM f line ctx).setDir line { s.dirEntry line with st := .owned f } := rfl

theorem CopiesKept.gotM (s : State) (f line ctx : Nat) : CopiesKept s (s.gotM f line ctx) :=
  (invalidateOthers s f line).trans (setLine _ f line _ _ _ _ _)

theorem CopiesMove.applyGetM (s : State) (f line ctx : Nat) : CopiesMove s (s.applyGetM f line ctx) :=
  (CopiesKept.gotM s f line ctx).toCopiesMove.trans (setDir _ line _)

/-! ### A request at its ordering point -/

/-- A request of a line by a cluster of field `f` is ordered: who asked is noted, and the transaction goes on. -/
def State.requested (y : State) (f line g : Nat) : State := (y.askedBy f line g).settled f line

theorem cores_askedBy (s : State) (f line g : Nat) : (s.askedBy f line g).cores = s.cores := by
  unfold State.askedBy
  split
  · split <;> rfl
  · rfl

section
variable (y : State) (f line g : Nat)
theorem cores_requested : (y.requested f line g).cores = y.cores := by
  rw [State.requested, (TxnsMove.settled _ f line).rest]
  exact cores_askedBy y f line g
theorem cluster_requested (n : Nat) : (y.requested f line g).cluster n = (y.askedBy f line g).cluster n := (TxnsMove.settled _ f line).cluster n
theorem out_requested : (y.requested f line g).out = y.out := by
  rw [State.requested, (TxnsMove.settled _ f line).rest]
  exact (CopiesKept.askedBy y f line g).out
theorem behind_requested : (y.requested f line g).behind = y.behind := by
  rw [State.requested, (TxnsMove.settled _ f line).rest]
  exact (CopiesKept.askedBy y f line g).behind
theorem sameBytes_requested : SameBytes y (y.requested f line g) := by
  obtain ⟨hm, hu⟩ := (TxnsMove.settled (y.askedBy f line g) f line).sameBytes
  exact ⟨hm.trans (CopiesKept.askedBy y f line g).mem, hu.trans (CopiesKept.askedBy y f line g).undefined⟩
theorem buses_requested (n : Nat) : ((y.requested f line g).cluster n).buses = (y.cluster n).buses := by
  rw [cluster_requested]
  exact (CopiesKept.askedBy y f line g).buses n
theorem dirEntry_requested (l : Nat) : (y.requested f line g).dirEntry l = y.dirEntry l :=
  ((TxnsMove.settled _ f line).dirEntry l).trans ((CopiesKept.askedBy y f line g).dirEntry l)
theorem line_requested (k l : Nat) : ((y.requested f line g).field k).line l =
    if k = f ∧ l = line then ((y.field f).line line).map (·.askedFrom g) else (y.field k).line l := by
  rw [State.requested, (TxnsMove.settled _ f line).line, line_askedBy]
theorem txns_requested : ∀ t ∈ ((y.requested f line g).field f).txns, t.line = line →
    t.applied = true ∧ ∃ t0 ∈ (y.field f).txns, t0.line = line ∧ t.waitHost = t0.waitHost := by
  rw [← (CopiesKept.askedBy y f line g).txns f]
  exact txns_settled _ f line
end

/-- A line's transaction waits for the host's answer, and the host is asked for it. -/
theorem requested_asks {s y : State} {f line : Nat} {own : Bool} (h : s.hostNeeds line own = true) (hm : CopiesMove (s.askHost f line own) y) (g : Nat) :
    SameBytes s (y.requested f line g) ∧ (y.requested f line g).behind = s.behind ∧
      (y.requested f line g).out = s.out ++ [if isHost (256 * line) then .hostFetch line own else .backInvalidate line] ∧
      (∀ n, ((y.requested f line g).cluster n).buses = (s.cluster n).buses) ∧
      ∀ t ∈ ((y.requested f line g).field f).txns, t.line = line → t.waitHost = true ∧ t.applied = true := by
  rw [askHost_of_needs h] at hm
  obtain ⟨hb, hu⟩ := sameBytes_requested y f line g
  refine ⟨⟨hb.trans hm.mem, hu.trans hm.undefined⟩, (behind_requested y f line g).trans hm.behind, (out_requested y f line g).trans hm.out,
    fun n => (buses_requested y f line g n).trans (hm.buses n), fun t ht hl => ?_⟩
  obtain ⟨ha, t0, ht0, hl0, hw⟩ := txns_requested y f line g t ht hl
  rw [hm.txns f] at ht0
  have ht0 : t0 ∈ ((s.markTxn f line fun t => { t with waitHost := true }).field f).txns := ht0
  rw [txns_markTxn] at ht0
  obtain ⟨t1, -, rfl⟩ := List.mem_map.mp ht0
  refine ⟨hw.trans ?_, ha⟩
  by_cases h1 : t1.line = line
  · rw [if_pos h1]
  · rw [if_neg h1] at hl0
    exact absurd hl0 h1

/-! ### The messages -/

section
variable {s : State} {g bus : Nat} {m : Msg} {ms : List Msg}

/-- What follows a GetS or a GetM once its line is asked for: what waits for the line is served, and the owner whose data comes first is noted. -/
def State.follows (s u : State) (f line : Nat) : State := (u.serveLine f line).markTxn f line fun x => { x with after := s.awaitedOwner f line }

theorem awaitedOwner_popMsg (f line : Nat) : (s.popMsg g bus ms).awaitedOwner f line = s.awaitedOwner f line := rfl

theorem exec_gets (h : s.turn g bus m ms) (hk : m.kind = .getS) : exec (.gets g bus) s =
    .next (s.follows (((((s.popMsg g bus ms).askHost (g / 8) m.line false).applyHostGetS (g / 8) m.line m.ctx)).requested (g / 8) m.line g) (g / 8) m.line) := by
  show execGets g bus s = _
  unfold execGets
  rw [← hk, takeMsg_turn h]
  dsimp only
  rw [awaitedOwner_popMsg, ordered_eq]
  rfl

theorem exec_getm (h : s.turn g bus m ms) (hk : m.kind = .getM) : exec (.getm g bus) s =
    .next (s.follows ((((((s.popMsg g bus ms).askHost (g / 8) m.line true).losing (g / 8) m.line).applyGetM (g / 8) m.line m.ctx)).requested
      (g / 8) m.line g) (g / 8) m.line) := by
  show execGetm g bus s = _
  unfold execGetm
  rw [← hk, takeMsg_turn h]
  dsimp only
  rw [awaitedOwner_popMsg, ordered_eq]
  rfl

theorem exec_clean (h : s.turn g bus m ms) (hk : m.kind = .clean) : exec (.clean g bus) s = .next ((s.popMsg g bus ms).applyClean m.line) := by
  show execClean g bus s = _
  unfold execClean
  rw [← hk, takeMsg_turn h]
end

end Sys2Proof.Machine
end

section
/-! SUPPORT. What each message leaves at its ordering point, and the data and the host's answers that follow (R195-R198, R201, R202, R205, R207, R208). -/
namespace Sys2Proof.Machine

/-! ### The copy that a request makes -/

theorem lineSet_none {s : State} {f line : Nat} (h : (s.field f).line line = none) (st : LineState) (ctx : Nat) (d0 d1 await : Bool) :
    s.lineSet f line st ctx d0 d1 await =
      { line := line, st := st, v0 := !await, v1 := !await, d0 := d0, d1 := d1, presence := s.presenceOf f line, ctx := ctx, way := 24, used := s.fresh } := by
  unfold State.lineSet
  rw [h]

theorem lineSet_some {s : State} {f line : Nat} {x : L2Line} (h : (s.field f).line line = some x) (st : LineState) (ctx : Nat) (d0 d1 await : Bool) :
    s.lineSet f line st ctx d0 d1 await =
      { x with st := st, v0 := x.v0 && !await, v1 := x.v1 && !await, d0 := x.d0 || d0, d1 := x.d1 || d1, used := s.fresh } := by
  unfold State.lineSet
  rw [h]

section
variable (s : State) (f line : Nat) (st : LineState) (ctx : Nat) (d0 d1 await : Bool)
theorem st_lineSet : (s.lineSet f line st ctx d0 d1 await).st = st := by
  cases h : (s.field f).line line with
  | none => rw [lineSet_none h]
  | some x => rw [lineSet_some h]
theorem awaiting_lineSet : (s.lineSet f line st ctx d0 d1 true).awaiting = true := by
  cases h : (s.field f).line line with
  | none => rw [lineSet_none h]; rfl
  | some x => rw [lineSet_some h]; simp [L2Line.awaiting]
end

section
variable (x : L2Line) (g : Nat)
/-- Noting who asked changes nothing else. -/
theorem askedFrom_eq : x.askedFrom g = { x with asked := (x.askedFrom g).asked } := by
  unfold L2Line.askedFrom
  split <;> rfl
@[simp] theorem st_askedFrom : (x.askedFrom g).st = x.st := by rw [askedFrom_eq]
@[simp] theorem d0_askedFrom : (x.askedFrom g).d0 = x.d0 := by rw [askedFrom_eq]
@[simp] theorem d1_askedFrom : (x.askedFrom g).d1 = x.d1 := by rw [askedFrom_eq]
@[simp] theorem ctx_askedFrom : (x.askedFrom g).ctx = x.ctx := by rw [askedFrom_eq]
@[simp] theorem awaiting_askedFrom : (x.askedFrom g).awaiting = x.awaiting := by rw [askedFrom_eq]; rfl
end

/-! ### GetS -/

/-- Field `f` has a clean copy of a line in the state `st`, its data on the way; the directory has `d`; an owner has gone to O. -/
structure Given (s t : State) (f line ctx : Nat) (st : LineState) (d : DirEntry) : Prop where
  bytes : SameBytes s t
  behind : t.behind = s.behind
  cores : t.cores = s.cores
  buses : ∀ n, (t.cluster n).buses = (s.cluster n).buses
  dir : t.dirEntry line = d
  copy : ∃ x, (t.field f).line line = some x ∧ x.st = st ∧ x.awaiting = true ∧ x.d0 = false ∧ x.d1 = false ∧ x.ctx = ctx
  owner : ∀ o y, o ≠ f → (s.dirEntry line).st = .owned o → (s.field o).line line = some y → (t.field o).line line = some { y with st := .O }

theorem Given.requested {s t : State} {f line ctx : Nat} {st : LineState} {d : DirEntry} (h : Given s t f line ctx st d) (g : Nat) :
    Given s (t.requested f line g) f line ctx st d where
  bytes := ⟨(sameBytes_requested t f line g).1.trans h.bytes.1, (sameBytes_requested t f line g).2.trans h.bytes.2⟩
  behind := (behind_requested t f line g).trans h.behind
  cores := (cores_requested t f line g).trans h.cores
  buses n := (buses_requested t f line g n).trans (h.buses n)
  dir := (dirEntry_requested t f line g line).trans h.dir
  copy := by
    obtain ⟨x, hx, hst, ha, h0, h1, hc⟩ := h.copy
    refine ⟨x.askedFrom g, ?_, ?_⟩
    · rw [line_requested, if_pos ⟨rfl, rfl⟩, hx]
      rfl
    · simp [hst, ha, h0, h1, hc]
  owner o y ho hd hy := by
    rw [line_requested, if_neg fun k => ho k.1]
    exact h.owner o y ho hd hy

section
variable {s : State} {f line : Nat}

theorem copy_setLine {t : State} (hn : (t.field f).line line = none) (st : LineState) (ctx : Nat) :
    ∃ x, ((t.setLine f line st ctx false false true).field f).line line = some x ∧ x.st = st ∧ x.awaiting = true ∧ x.d0 = false ∧ x.d1 = false ∧ x.ctx = ctx := by
  refine ⟨_, (line_setLine t f line st ctx false false true f line).trans (if_pos ⟨rfl, rfl⟩), ?_⟩
  rw [lineSet_none hn]
  exact ⟨rfl, rfl, rfl, rfl, rfl⟩

theorem cores_setLine (s : State) (f line : Nat) (st : LineState) (ctx : Nat) (d0 d1 await : Bool) : (s.setLine f line st ctx d0 d1 await).cores = s.cores := by
  rw [setLine_eq]
  rfl

/-- A first copy, or one beside others that the device has: the directory is told. -/
theorem given_setLine_setDir (hn : (s.field f).line line = none) (ho : ∀ o, (s.dirEntry line).st ≠ .owned o) (ctx : Nat) (st : LineState) (d : DirEntry) :
    Given s ((s.setLine f line st ctx false false true).setDir line d) f line ctx st d where
  bytes := (CopiesKept.setLine s f line st ctx false false true).toCopiesMove.sameBytes
  behind := (CopiesKept.setLine s f line st ctx false false true).behind
  cores := cores_setLine s f line st ctx false false true
  buses := (CopiesKept.setLine s f line st ctx false false true).buses
  dir := dirEntry_setDir _ line d
  copy := by
    rw [line_setDir]
    exact copy_setLine hn st ctx
  owner o _ _ hd _ := absurd hd (ho o)

theorem given_shared (hn : (s.field f).line line = none) (hd : (s.dirEntry line).st = .shared) (ctx : Nat) :
    Given s (s.setLine f line .S ctx false false true) f line ctx .S (s.dirEntry line) where
  bytes := (CopiesKept.setLine s f line _ ctx false false true).toCopiesMove.sameBytes
  behind := (CopiesKept.setLine s f line _ ctx false false true).behind
  cores := cores_setLine s f line _ ctx false false true
  buses := (CopiesKept.setLine s f line _ ctx false false true).buses
  dir := (CopiesKept.setLine s f line _ ctx false false true).dirEntry line
  copy := copy_setLine hn .S ctx
  owner o _ _ ho _ := by rw [hd] at ho; cases ho

theorem given_owned {o : Nat} (hn : (s.field f).line line = none) (hd : (s.dirEntry line).st = .owned o) (ho : o ≠ f) (ctx : Nat) :
    Given s ((s.ownerShares o line).setLine f line .S ctx false false true) f line ctx .S (s.dirEntry line) := by
  have hk := (CopiesKept.ownerShares s o line).trans (CopiesKept.setLine _ f line .S ctx false false true)
  refine ⟨hk.toCopiesMove.sameBytes, hk.behind, (cores_setLine _ _ _ _ _ _ _ _).trans (cores_ownerShares s o line), hk.buses, hk.dirEntry line, ?_, ?_⟩
  · refine copy_setLine ?_ .S ctx
    rw [field_ownerShares ho.symm, hn]
  · intro o' y ho' hd' hy
    rw [hd] at hd'
    cases hd'
    rw [line_setLine, if_neg fun k => ho k.1, line_ownerShares hy]

/-- The four cases of a GetS by a field with no copy. -/
theorem given_applyHostGetS {st : LineState} {d' : DirEntry} (hn : (s.field f).line line = none) (ctx : Nat)
    (h : (isHost (256 * line) = true ∧ (s.dirEntry line).st = .uncached ∧ (s.dirEntry line).host ≠ .EM ∧ st = .S ∧ d' = ⟨.shared, (s.dirEntry line).host⟩) ∨
      (¬(isHost (256 * line) = true ∧ (s.dirEntry line).host ≠ .EM) ∧ (s.dirEntry line).st = .uncached ∧ st = .E ∧ d' = ⟨.owned f, (s.dirEntry line).host⟩) ∨
      ((s.dirEntry line).st = .shared ∧ st = .S ∧ d' = s.dirEntry line) ∨ (∃ o, o ≠ f ∧ (s.dirEntry line).st = .owned o ∧ st = .S ∧ d' = s.dirEntry line)) :
    Given s (s.applyHostGetS f line ctx) f line ctx st d' := by
  obtain ⟨hh, hd, he, rfl, rfl⟩ | ⟨hh, hd, rfl, rfl⟩ | ⟨hd, rfl, rfl⟩ | ⟨o, ho, hd, rfl, rfl⟩ := h
  · rw [applyHostGetS_granted hh hd he]
    exact given_setLine_setDir hn (fun o k => by rw [hd] at k; cases k) ctx .S _
  · rw [applyHostGetS_eq fun k => hh ⟨k.1, k.2.2⟩, applyGetS_uncached hd]
    exact given_setLine_setDir hn (fun o k => by rw [hd] at k; cases k) ctx .E _
  · rw [applyHostGetS_eq fun k => (by rw [hd] at k; cases k.2.1), applyGetS_shared hd]
    exact given_shared hn hd ctx
  · rw [applyHostGetS_eq fun k => (by rw [hd] at k; cases k.2.1), applyGetS_owned hd ho]
    exact given_owned hn hd ho ctx
end

/-! ### GetM -/

section
variable (s : State) (f line ctx : Nat)

theorem line_invalidateOthers_keep (l : Nat) : ((s.invalidateOthers f line).field f).line l = (s.field f).line l := by
  rw [line_invalidateOthers, if_neg fun h => h.2.1 rfl]

theorem lineState_congr {s t : State} {f line : Nat} (h : (t.field f).line line = (s.field f).line line) : t.lineState f line = s.lineState f line := by
  unfold State.lineState
  rw [h]

theorem line_gotM : ((s.gotM f line ctx).field f).line line = some ((s.invalidateOthers f line).lineSet f line .M ctx (s.ownerDirty line).1 (s.ownerDirty line).2
    (!((s.lineState f line).owner))) := by
  rw [State.gotM, line_setLine, if_pos ⟨rfl, rfl⟩, lineState_congr (line_invalidateOthers_keep s f line line)]

theorem line_gotM_other {k : Nat} (hk : k < 42) (hf : k ≠ f) : ((s.gotM f line ctx).field k).line line = none := by
  rw [State.gotM, line_setLine, if_neg fun h => hf h.1, line_invalidateOthers, if_pos ⟨hk, hf, rfl⟩]

/-- The copy of a field that is given M: the data comes unless the field owned the line; the owner's dirty bits are kept. -/
theorem copy_gotM : ∃ x, ((s.gotM f line ctx).field f).line line = some x ∧ x.st = .M ∧ ((s.lineState f line).owner = false → x.awaiting = true) ∧
    ((s.field f).line line = none → x.ctx = ctx) ∧
    ∀ o y, (s.dirEntry line).st = .owned o → (s.field o).line line = some y → (s.field f).line line = none ∨ o = f → x.d0 = y.d0 ∧ x.d1 = y.d1 := by
  refine ⟨_, line_gotM s f line ctx, st_lineSet _ _ _ _ _ _ _ _, fun ho => ?_, fun hn => ?_, fun o y hd hy hc => ?_⟩
  · rw [ho]
    exact awaiting_lineSet _ _ _ _ _ _ _
  · rw [← line_invalidateOthers_keep s f line line] at hn
    rw [lineSet_none hn]
  · rw [ownerDirty_of hd hy]
    cases hn : (s.field f).line line with
    | none =>
      rw [← line_invalidateOthers_keep s f line line] at hn
      rw [lineSet_none hn]
      exact ⟨rfl, rfl⟩
    | some z =>
      obtain rfl := hc.resolve_left (by rw [hn]; exact Option.some_ne_none z)
      rw [hy] at hn
      cases hn
      rw [← line_invalidateOthers_keep s o line line] at hy
      rw [lineSet_some hy]
      exact ⟨Bool.or_self _, Bool.or_self _⟩
end

theorem LinesStay.dirEntry {s t : State} (h : LinesStay s t) (l : Nat) : t.dirEntry l = s.dirEntry l := (CopiesKept.ofStay h).dirEntry l
theorem LinesStay.lineState {s t : State} (h : LinesStay s t) (f l : Nat) : t.lineState f l = s.lineState f l := lineState_congr (by rw [h.field])

/-- Field `f` has a line in M, no other field has it. -/
theorem gotM_losing (s : State) (f line ctx : Nat) : ∃ x, ((((s.losing f line).gotM f line ctx).field f).line line = some x ∧ x.st = .M ∧
    ((s.lineState f line).owner = false → x.awaiting = true) ∧ ((s.field f).line line = none → x.ctx = ctx) ∧
    ∀ o y, (s.dirEntry line).st = .owned o → (s.field o).line line = some y → (s.field f).line line = none ∨ o = f → x.d0 = y.d0 ∧ x.d1 = y.d1) := by
  have hs := LinesStay.losing s f line
  have := copy_gotM (s.losing f line) f line ctx
  rw [hs.dirEntry, hs.lineState] at this
  simpa only [hs.field] using this

/-! ### Put, Clean and Disc -/

/-- The owner's copy goes back; the device keeps no permission of a host line that it has no copy of. -/
def State.putBack (s : State) (f line : Nat) : State :=
  let u := s.applyPut f line
  if (s.dirEntry line).st = .owned f ∧ isHost (256 * line) = true ∧ (u.dirEntry line).st = .uncached then u.setDir line ⟨.uncached, .none⟩ else u

/-- The lines of a field with their data that wait for a way of a set. -/
def State.wayless (s : State) (f line : Nat) : List L2Line :=
  (s.field f).l2.filter fun x => x.way == 24 && !x.awaiting && x.line % 32768 == line % 32768

theorem exec_put {s : State} {g bus : Nat} {m : Msg} {ms : List Msg} (h : s.turn g bus m ms) (hk : m.kind = .put) : exec (.put g bus) s =
    .next ((((s.popMsg g bus ms).putBack (g / 8) m.line).wayless (g / 8) m.line).foldl (fun t x => t.giveWay (g / 8) x.line)
      ((s.popMsg g bus ms).putBack (g / 8) m.line)) := by
  show execPut g bus s = _
  unfold execPut State.putBack
  rw [← hk, takeMsg_turn h]
  simp only [beq_iff_eq]
  rfl

theorem HomeKept.foldl_giveWay (f : Nat) (lines : List L2Line) (s : State) : HomeKept s (lines.foldl (fun t x => t.giveWay f x.line) s) :=
  foldl_keeps (HomeKept s) _ (fun t x ht => ht.trans (HomeKept.giveWay t f x.line)) lines s (refl s)

theorem line_foldl_giveWay_none {s : State} {f l : Nat} (lines : List L2Line) (h : (s.field f).line l = none) :
    ((lines.foldl (fun t x => t.giveWay f x.line) s).field f).line l = none :=
  foldl_keeps (fun t : State => (t.field f).line l = none) _ (fun _ x ht => line_giveWay_none x.line ht) lines s h

theorem putBack_void {s : State} {f line : Nat} (h : (s.dirEntry line).st ≠ .owned f) : s.putBack f line = s := by
  unfold State.putBack State.applyPut
  dsimp only
  rw [if_neg h, if_neg fun k => h k.1]

theorem applyPut_owned {s : State} {f line : Nat} {x : L2Line} (h : (s.dirEntry line).st = .owned f) (hx : (s.field f).line line = some x) :
    s.applyPut f line = ((s.cleanLine f line x.st).invalidate f line).setDir line
      ⟨if x.st = .O then .shared else .uncached, (s.dirEntry line).host⟩ := by
  unfold State.applyPut
  dsimp only
  rw [if_pos h, lineState_of hx]

/-- No byte changes, home memory has a line's bytes, and a field has no copy of it. -/
structure Returned (s t : State) (f line : Nat) : Prop where
  bytes : SameBytes s t
  home : t.homeCurrent line
  gone : (t.field f).line line = none

theorem Returned.setDir {s t : State} {f line : Nat} (h : Returned s t f line) (d : DirEntry) : Returned s (t.setDir line d) f line :=
  ⟨h.bytes, h.home, (line_setDir t line d f line).trans h.gone⟩

theorem returned_invalidate {s : State} {f line : Nat} {x : L2Line} (hx : (s.field f).line line = some x) (st : LineState) :
    Returned s ((s.cleanLine f line st).invalidate f line) f line := by
  have hi := CopiesKept.invalidate (s.cleanLine f line st) f line
  obtain ⟨hm, hu⟩ := (cleanLine_keeps s f line st).toCopiesMove.sameBytes
  refine ⟨⟨hi.mem.trans hm, hi.undefined.trans hu⟩, ?_, ?_⟩
  · intro a ha
    rw [hi.behind]
    exact homeCurrent_cleanLine hx st a ha
  · rw [line_invalidate, if_pos ⟨rfl, rfl⟩]

theorem putBack_owned {s : State} {f line : Nat} {x : L2Line} (h : (s.dirEntry line).st = .owned f) (hx : (s.field f).line line = some x) :
    Returned s (s.putBack f line) f line ∧ (s.putBack f line).dirEntry line =
      if x.st = .O then ⟨.shared, (s.dirEntry line).host⟩ else ⟨.uncached, if isHost (256 * line) then .none else (s.dirEntry line).host⟩ := by
  have hr := returned_invalidate hx x.st
  unfold State.putBack
  rw [applyPut_owned h hx]
  dsimp only
  rw [dirEntry_setDir]
  by_cases ho : x.st = .O
  · rw [if_neg (by simp [ho])]
    exact ⟨hr.setDir _, by rw [dirEntry_setDir, if_pos ho, if_pos ho]⟩
  · by_cases hh : isHost (256 * line) = true
    · rw [if_pos ⟨h, hh, if_neg ho⟩, if_neg ho, if_pos hh]
      exact ⟨(hr.setDir _).setDir _, by rw [dirEntry_setDir, if_neg ho]⟩
    · rw [if_neg fun k => hh k.2.1, if_neg ho, if_neg hh, dirEntry_setDir, if_neg ho]
      exact ⟨hr.setDir _, rfl⟩

theorem applyClean_none {s : State} {line : Nat} (h : ∀ o, (s.dirEntry line).st ≠ .owned o) : s.applyClean line = s := by
  unfold State.applyClean State.ownerOf
  cases hd : (s.dirEntry line).st with
  | uncached => rfl
  | shared => rfl
  | owned o => exact absurd hd (h o)

theorem applyClean_owned {s : State} {line o : Nat} {x : L2Line} (h : (s.dirEntry line).st = .owned o) (hx : (s.field o).line line = some x) :
    s.applyClean line = s.cleanLine o line (if x.st = .M then .E else x.st) := by
  unfold State.applyClean State.ownerOf
  rw [h]
  dsimp only
  rw [lineState_of hx]

section
variable {s : State} {g bus : Nat} {m : Msg} {ms : List Msg}

theorem put_void (h : s.turn g bus m ms) (hk : m.kind = .put) (hd : (s.dirEntry m.line).st ≠ .owned (g / 8)) :
    ∃ t, exec (.put g bus) s = .next t ∧ SameBytes s t ∧ t.behind = s.behind ∧ t.dirEntry m.line = s.dirEntry m.line := by
  have hw := HomeKept.foldl_giveWay (g / 8) (((s.popMsg g bus ms).putBack (g / 8) m.line).wayless (g / 8) m.line) ((s.popMsg g bus ms).putBack (g / 8) m.line)
  refine ⟨_, exec_put h hk, ?_⟩
  rw [putBack_void (s := s.popMsg g bus ms) hd] at hw ⊢
  exact ⟨hw.sameBytes, hw.behind, hw.dirEntry m.line⟩

theorem put_owned (h : s.turn g bus m ms) (hk : m.kind = .put) {x : L2Line} (hd : (s.dirEntry m.line).st = .owned (g / 8))
    (hx : (s.field (g / 8)).line m.line = some x) :
    ∃ t, exec (.put g bus) s = .next t ∧ SameBytes s t ∧ t.homeCurrent m.line ∧ (t.field (g / 8)).line m.line = none ∧
      t.dirEntry m.line = if x.st = .O then ⟨.shared, (s.dirEntry m.line).host⟩ else ⟨.uncached, if isHost (256 * m.line) then .none else (s.dirEntry m.line).host⟩ := by
  obtain ⟨⟨⟨hm, hu⟩, hhome, hgone⟩, hdir⟩ := putBack_owned (s := s.popMsg g bus ms) hd hx
  refine ⟨_, exec_put h hk, ?_⟩
  generalize (s.popMsg g bus ms).putBack (g / 8) m.line = u at hm hu hhome hgone hdir
  have hw := HomeKept.foldl_giveWay (g / 8) (u.wayless (g / 8) m.line) u
  refine ⟨⟨hw.mem.trans hm, hw.undefined.trans hu⟩, fun a ha => ?_, line_foldl_giveWay_none _ hgone, (hw.dirEntry m.line).trans hdir⟩
  rw [hw.behind]
  exact hhome a ha

theorem clean_none (h : s.turn g bus m ms) (hk : m.kind = .clean) (hd : ∀ o, (s.dirEntry m.line).st ≠ .owned o) :
    exec (.clean g bus) s = .next (s.popMsg g bus ms) := by
  rw [exec_clean h hk, applyClean_none (s := s.popMsg g bus ms) hd]

theorem clean_owned (h : s.turn g bus m ms) (hk : m.kind = .clean) {o : Nat} {x : L2Line} (hd : (s.dirEntry m.line).st = .owned o)
    (hx : (s.field o).line m.line = some x) :
    ∃ t, exec (.clean g bus) s = .next t ∧ (t.cluster g).buses.find bus = some ms ∧ SameBytes s t ∧ t.homeCurrent m.line ∧
      t.dirEntry m.line = s.dirEntry m.line ∧ (t.field o).line m.line = some { x with st := if x.st = .M then .E else x.st, d0 := false, d1 := false } := by
  have hx' : ((s.popMsg g bus ms).field o).line m.line = some x := hx
  have hk' := cleanLine_keeps (s.popMsg g bus ms) o m.line (if x.st = .M then .E else x.st)
  refine ⟨_, exec_clean h hk, ?_⟩
  rw [applyClean_owned (s := s.popMsg g bus ms) hd hx']
  refine ⟨?_, hk'.toCopiesMove.sameBytes, homeCurrent_cleanLine hx' _, hk'.dirEntry m.line, line_cleanLine hx' _⟩
  rw [hk'.buses g]
  exact buses_popMsg s g bus ms
end

/-! ### Disc -/

section
variable {s : State} {g bus : Nat} {m : Msg} {ms : List Msg}

/-- Every byte of a line is undefined. -/
def State.discBytes (s : State) (line : Nat) : State :=
  { s with undefined := (s.undefined.filter fun a => !(lineOf a == line)) ++ (List.range 256).map (256 * line + ·) }

theorem mem_discBytes (s : State) (line a : Nat) : a ∈ (s.discBytes line).undefined ↔ lineOf a = line ∨ a ∈ s.undefined := by
  have hl : a ∈ (List.range 256).map (256 * line + ·) ↔ lineOf a = line := by
    rw [List.mem_map]
    unfold lineOf
    constructor
    · rintro ⟨i, hi, rfl⟩
      have := List.mem_range.mp hi
      omega
    · intro h
      exact ⟨a % 256, List.mem_range.mpr (Nat.mod_lt _ (by decide)), by omega⟩
  rw [State.discBytes, List.mem_append, hl, List.mem_filter]
  by_cases h : lineOf a = line <;> simp [h]

theorem exec_disc (h : s.turn g bus m ms) (hk : m.kind = .disc) :
    let t := (((s.popMsg g bus ms).discBytes m.line).losing 42 m.line).applyDisc m.line
    exec (.discMessage g bus) s =
      .next (if (!isHost (256 * m.line) && (s.dirEntry m.line).host != .none) = true then { t with out := t.out ++ [.backInvalidate m.line] } else t) := by
  show execDiscMessage g bus s = _
  unfold execDiscMessage
  rw [← hk, takeMsg_turn h]
  rfl
end

end Sys2Proof.Machine
end

section
/-! SUPPORT. Disc, the data of a line and the host's answer; what a message does at its ordering point (R195-R198, R201, R202, R205, R207, R208). -/
namespace Sys2Proof.Machine

/-! ### Disc -/

/-- A line whose copies have gone is discarded: home memory lags behind nothing, and every byte is undefined. -/
def State.discarded (s : State) (line : Nat) : State := { s.discBytes line with behind := Sparse.clear (fun a => lineOf a == line) s.behind }

theorem applyDisc_eq (s : State) (line : Nat) : s.applyDisc line = ((s.invalidateOthers 42 line).discarded line).setDir line ⟨.uncached, .none⟩ := by
  unfold State.applyDisc State.discarded State.discBytes
  generalize s.invalidateOthers 42 line = u
  rfl

/-- A line is discarded: no copy, no lag of home memory, every byte undefined, and no entry in the directory. -/
theorem applyDisc_spec (s : State) (line : Nat) : ∃ t, s.applyDisc line = t ∧
    t.mem = s.mem ∧ t.out = s.out ∧ t.undefined = (s.discBytes line).undefined ∧ t.homeCurrent line ∧ t.copyless line ∧ t.dirEntry line = ⟨.uncached, .none⟩ ∧
      ∀ g, (t.cluster g).buses = (s.cluster g).buses := by
  have hk := CopiesKept.invalidateOthers s 42 line
  have hl (f : Nat) (hf : f < 42) := (line_invalidateOthers s 42 line f line).trans (if_pos ⟨hf, Nat.ne_of_lt hf, rfl⟩)
  refine ⟨_, applyDisc_eq s line, ?_⟩
  generalize s.invalidateOthers 42 line = u at hk hl
  have hd := CopiesMove.setDir (u.discarded line) line ⟨.uncached, .none⟩
  have hu : (u.discarded line).undefined = (s.discBytes line).undefined := by
    rw [State.discarded, State.discBytes, State.discBytes, hk.undefined]
  refine ⟨hd.mem.trans hk.mem, hd.out.trans hk.out, hd.undefined.trans hu, homeCurrent_clear (b := u.behind) hd.behind, fun f hf => ?_,
    dirEntry_setDir _ line _, fun g => (hd.buses g).trans (hk.buses g)⟩
  exact (line_setDir _ line _ f line).trans (hl f hf)

theorem disc_spec {s : State} {g bus : Nat} {m : Msg} {ms : List Msg} (h : s.turn g bus m ms) (hk : m.kind = .disc) :
    ∃ t, exec (.discMessage g bus) s = .next t ∧ (t.cluster g).buses.find bus = some ms ∧ t.mem = s.mem ∧ t.homeCurrent m.line ∧ t.copyless m.line ∧
      t.dirEntry m.line = ⟨.uncached, .none⟩ ∧ (∀ a, a ∈ t.undefined ↔ lineOf a = m.line ∨ a ∈ s.undefined) ∧
      t.out = s.out ++ if isHost (256 * m.line) = false ∧ (s.dirEntry m.line).host ≠ .none then [.backInvalidate m.line] else [] := by
  have hl := CopiesKept.ofStay (LinesStay.losing ((s.popMsg g bus ms).discBytes m.line) 42 m.line)
  obtain ⟨t, ht, hm, ho, hu, hhome, hcopy, hdir, hbus⟩ := applyDisc_spec (((s.popMsg g bus ms).discBytes m.line).losing 42 m.line) m.line
  have he := exec_disc h hk
  dsimp only at he
  rw [ht] at he
  have hpop : (t.cluster g).buses.find bus = some ms := by
    rw [hbus, hl.buses]
    exact buses_popMsg s g bus ms
  have hund (a : Nat) : a ∈ t.undefined ↔ lineOf a = m.line ∨ a ∈ s.undefined := by
    rw [hu, mem_discBytes, hl.undefined, mem_discBytes]
    exact ⟨fun k => k.elim .inl id, .inr⟩
  have hout : t.out = s.out := ho.trans hl.out
  have hmem : t.mem = s.mem := hm.trans hl.mem
  by_cases hc : isHost (256 * m.line) = false ∧ (s.dirEntry m.line).host ≠ .none
  · rw [if_pos (by simp [hc.1, hc.2])] at he
    refine ⟨_, he, hpop, hmem, hhome, hcopy, hdir, hund, ?_⟩
    rw [if_pos hc, ← hout]
  · rw [if_neg (by simpa using hc)] at he
    refine ⟨_, he, hpop, hmem, hhome, hcopy, hdir, hund, ?_⟩
    rw [if_neg hc, hout, List.append_nil]

/-! ### The data of a line -/

theorem dataArrival_waits {s : State} {f line : Nat} {x : Txn} (h : ((s.field f).txns.find? fun t => t.line == line) = some x)
    (hw : x.applied = false ∨ x.waitHost = true ∨ x.after ≠ none) : exec (.dataArrival f line) s = .next s := by
  show execDataArrival f line s = _
  unfold execDataArrival
  rw [h]
  refine if_pos ?_
  obtain hw | hw | hw := hw
  · simp [hw]
  · simp [hw]
  · simp [Option.isSome_iff_ne_none.mpr hw]

theorem dataArrival_comes {s : State} {f line : Nat} {x : Txn} {y : L2Line} (h : ((s.field f).txns.find? fun t => t.line == line) = some x)
    (ha : x.applied = true) (hw : x.waitHost = false) (hf : x.after = none) (hy : (s.field f).line line = some y) :
    exec (.dataArrival f line) s = .next (((((s.endTxn f line).setField f (((s.endTxn f line).field f).putLine { y with v0 := true, v1 := true })).giveWay
      f line).serveLine f line).dataCame f line) := by
  have hy' := ((TxnsMove.endTxn s f line).line f line).trans hy
  show execDataArrival f line s = _
  unfold execDataArrival
  rw [h]
  dsimp only
  rw [if_neg (by simp [ha, hw, hf]), hy']

theorem dataArrival_spec {s : State} {f line : Nat} {x : Txn} {y : L2Line} (h : ((s.field f).txns.find? fun t => t.line == line) = some x)
    (ha : x.applied = true) (hw : x.waitHost = false) (hf : x.after = none) (hy : (s.field f).line line = some y) :
    ∃ (u : State) (z : L2Line), exec (.dataArrival f line) s = .next ((u.serveLine f line).dataCame f line) ∧ SameBytes s u ∧ u.behind = s.behind ∧
      (u.field f).line line = some z ∧ z.st = y.st ∧ z.awaiting = false ∧ ∀ t ∈ (u.field f).txns, t.line ≠ line := by
  have he := TxnsMove.endTxn s f line
  have hgone := txns_endTxn s f line
  have hx := dataArrival_comes h ha hw hf hy
  generalize s.endTxn f line = e at he hgone hx
  have hkept := (CopiesKept.putLine e f { y with v0 := true, v1 := true }).homeKept.trans (HomeKept.giveWay _ f line)
  obtain ⟨w, hz⟩ := line_giveWay_put e f (x := { y with v0 := true, v1 := true }) (Field.line_line hy :)
  refine ⟨_, _, hx, ⟨hkept.mem.trans he.sameBytes.1, hkept.undefined.trans he.sameBytes.2⟩, ?_, hz, rfl, rfl, ?_⟩
  · rw [hkept.behind, he.rest]
  · rw [hkept.txns]
    exact hgone

/-! ### The host's answer -/

/-- Bytes of a line put in memory, each at its own place. -/
def State.pokeLine (s : State) (line : Nat) (data : List (Nat × Byte)) : State := data.foldl (fun s b => s.pokeMem (256 * line + b.1) [b.2]) s

theorem pokeLine_cons (s : State) (line : Nat) (b : Nat × Byte) (data : List (Nat × Byte)) :
    s.pokeLine line (b :: data) = (s.pokeMem (256 * line + b.1) [b.2]).pokeLine line data := rfl

theorem pokeLine_eq (s : State) (line : Nat) (data : List (Nat × Byte)) :
    s.pokeLine line data = { s with mem := (s.pokeLine line data).mem, undefined := (s.pokeLine line data).undefined } :=
  foldl_keeps (fun t : State => t = { s with mem := t.mem, undefined := t.undefined }) _ (fun t b ht => by rw [ht]; rfl) data s rfl

theorem memByte_pokeByte (s : State) (pa : Nat) (b : Byte) (a : Nat) : (s.pokeMem pa [b]).memByte a = if a = pa then b else s.memByte a := by
  rw [memByte_pokeMem]
  by_cases h : a = pa
  · rw [if_pos h, if_pos (by simp [h]), h, Nat.sub_self]
    rfl
  · rw [if_neg h, if_neg]
    simp only [List.length_singleton]
    omega

/-- A byte that the list does not have stays as it was. -/
theorem memByte_pokeLine_other {line a : Nat} {data : List (Nat × Byte)} (h : ∀ b ∈ data, a ≠ 256 * line + b.1) (s : State) :
    (s.pokeLine line data).memByte a = s.memByte a := by
  induction data generalizing s with
  | nil => rfl
  | cons b data ih =>
    rw [pokeLine_cons, ih (fun x hx => h x (List.mem_cons_of_mem _ hx)), memByte_pokeByte, if_neg (h b List.mem_cons_self)]

/-- A byte of the list is in memory. -/
theorem memByte_pokeLine {line : Nat} {data : List (Nat × Byte)} (hnd : (data.map (·.1)).Nodup) {b : Nat × Byte} (hb : b ∈ data) (s : State) :
    (s.pokeLine line data).memByte (256 * line + b.1) = b.2 := by
  induction data generalizing s with
  | nil => cases hb
  | cons x data ih =>
    obtain ⟨hx, hnd⟩ := List.nodup_cons.mp hnd
    rw [pokeLine_cons]
    obtain rfl | hb := List.mem_cons.mp hb
    · rw [memByte_pokeLine_other, memByte_pokeByte, if_pos rfl]
      intro y hy heq
      exact hx (List.mem_map.mpr ⟨y, hy, (by omega : y.1 = b.1)⟩)
    · exact ih hnd hb _

/-- A byte that was undefined and that the list does not have stays undefined. -/
theorem undefined_pokeLine {line a : Nat} {data : List (Nat × Byte)} (h : ∀ b ∈ data, a ≠ 256 * line + b.1) {s : State} (ha : a ∈ s.undefined) :
    a ∈ (s.pokeLine line data).undefined := by
  induction data generalizing s with
  | nil => exact ha
  | cons b data ih =>
    refine ih (fun x hx => h x (List.mem_cons_of_mem _ hx)) (List.mem_filter.mpr ⟨ha, ?_⟩)
    have := h b List.mem_cons_self
    simp only [List.length_singleton, Bool.not_eq_true', Bool.and_eq_false_iff, decide_eq_false_iff_not]
    omega

/-- The fields that wait for the host's answer, each with its transaction. -/
def State.hostWaiters (s : State) (line : Nat) : List (Nat × Txn) :=
  s.fields.filterMap fun f => (f.2.txns.find? fun t => t.line == line && t.waitHost).map fun t => (f.1, t)

/-- What the host holds or grants once it has answered. -/
def State.hostLeft (s : State) (line : Nat) (ws : List (Nat × Txn)) : HostState :=
  if isHost (256 * line) then (if ws.any fun w => w.2.wantsM then .EM else if (s.dirEntry line).host = .EM then .EM else .S) else .none

theorem hostResponse_discarded {s : State} {line : Nat} (h : s.hostWaiters line = []) (data : List (Nat × Byte)) : exec (.hostResponse line data) s = .next s := by
  show execHostResponse line data s = _
  unfold execHostResponse
  dsimp only
  rw [show (s.fields.filterMap fun f => (f.2.txns.find? fun t => t.line == line && t.waitHost).map fun t => (f.1, t)) = [] from h]

theorem hostResponse_eq {s : State} {line : Nat} {data : List (Nat × Byte)} (h : s.hostWaiters line ≠ []) (hd : ∀ b ∈ data, b.1 < 256) :
    exec (.hostResponse line data) s =
      .next ((s.hostWaiters line).foldl (fun s w => (s.markTxn w.1 line fun t => { t with waitHost := false }).ordered w.1 line)
        ((s.pokeLine line data).setDir line { s.dirEntry line with host := s.hostLeft line (s.hostWaiters line) })) := by
  have hp : data.foldl (fun (s : State) b => if 256 ≤ b.1 then s else s.pokeMem (256 * line + b.1) [b.2]) s = s.pokeLine line data :=
    List.foldl_ext _ _ s fun t b hb => if_neg (Nat.not_le.mpr (hd b hb))
  have hdir : (s.pokeLine line data).dirEntry line = s.dirEntry line := by rw [pokeLine_eq]; rfl
  show execHostResponse line data s = _
  unfold execHostResponse
  rw [hp]
  change (match s.hostWaiters line with
    | [] => _
    | ws => _) = _
  dsimp only
  rw [hdir]
  cases hw : s.hostWaiters line with
  | nil => exact absurd hw h
  | cons w ws => rfl

theorem hostResponse_spec {s : State} {line : Nat} {data : List (Nat × Byte)} (h : s.hostWaiters line ≠ []) (hnd : (data.map (·.1)).Nodup)
    (hd : ∀ b ∈ data, b.1 < 256) : ∃ u : State, exec (.hostResponse line data) s =
        .next ((s.hostWaiters line).foldl (fun s w => (s.markTxn w.1 line fun t => { t with waitHost := false }).ordered w.1 line) u) ∧
      (∀ b ∈ data, u.memByte (256 * line + b.1) = b.2) ∧ (∀ a, (∀ b ∈ data, a ≠ 256 * line + b.1) → u.memByte a = s.memByte a) ∧
      (u.dirEntry line).st = (s.dirEntry line).st ∧
      (u.dirEntry line).host = (if isHost (256 * line) = false then .none
        else if (∃ w ∈ s.hostWaiters line, w.2.wantsM = true) ∨ (s.dirEntry line).host = .EM then .EM else .S) := by
  refine ⟨_, hostResponse_eq h hd, fun b hb => memByte_pokeLine hnd hb s, fun a ha => memByte_pokeLine_other ha s, ?_, ?_⟩
  · rw [dirEntry_setDir]
  · rw [dirEntry_setDir]
    show s.hostLeft line (s.hostWaiters line) = _
    unfold State.hostLeft
    by_cases hh : isHost (256 * line) = true
    · rw [if_pos hh, if_neg (show ¬ isHost (256 * line) = false by rw [hh]; decide)]
      by_cases hm : ∃ w ∈ s.hostWaiters line, w.2.wantsM = true
      · rw [if_pos (List.any_eq_true.mpr hm), if_pos (.inl hm)]
      · rw [if_neg fun k => hm (List.any_eq_true.mp k)]
        exact if_congr ⟨.inr, fun k => k.resolve_left hm⟩ rfl rfl
    · rw [if_neg hh, if_pos (by simpa using hh)]

/-! ### The messages -/

section
variable {s : State} {g bus : Nat} {m : Msg} {ms : List Msg}

theorem gets_asks (h : s.turn g bus m ms) (hk : m.kind = .getS) (hn : s.hostNeeds m.line false = true) :
    ∃ u, exec (.gets g bus) s = .next (s.follows u (g / 8) m.line) ∧ (u.cluster g).buses.find bus = some ms ∧ SameBytes s u ∧ u.behind = s.behind ∧
      u.out = s.out ++ [if isHost (256 * m.line) then .hostFetch m.line false else .backInvalidate m.line] ∧
      ∀ t ∈ (u.field (g / 8)).txns, t.line = m.line → t.waitHost = true ∧ t.applied = true := by
  obtain ⟨hb, hbe, ho, hbus, ht⟩ := requested_asks (s := s.popMsg g bus ms) hn (CopiesMove.applyHostGetS _ (g / 8) m.line m.ctx) g
  exact ⟨_, exec_gets h hk, (congrArg (·.find bus) (hbus g)).trans (buses_popMsg s g bus ms), hb, hbe, ho, ht⟩

theorem getm_asks (h : s.turn g bus m ms) (hk : m.kind = .getM) (hn : s.hostNeeds m.line true = true) :
    ∃ u, exec (.getm g bus) s = .next (s.follows u (g / 8) m.line) ∧ (u.cluster g).buses.find bus = some ms ∧ SameBytes s u ∧ u.behind = s.behind ∧
      u.out = s.out ++ [if isHost (256 * m.line) then .hostFetch m.line true else .backInvalidate m.line] ∧
      ∀ t ∈ (u.field (g / 8)).txns, t.line = m.line → t.waitHost = true ∧ t.applied = true := by
  obtain ⟨hb, hbe, ho, hbus, ht⟩ := requested_asks (s := s.popMsg g bus ms) hn
    ((CopiesKept.ofStay (LinesStay.losing _ (g / 8) m.line)).toCopiesMove.trans (CopiesMove.applyGetM _ (g / 8) m.line m.ctx)) g
  exact ⟨_, exec_getm h hk, (congrArg (·.find bus) (hbus g)).trans (buses_popMsg s g bus ms), hb, hbe, ho, ht⟩

/-- A field with no copy gets one, its transaction ordered. -/
theorem gets_gives (h : s.turn g bus m ms) (hk : m.kind = .getS) (hn : s.hostNeeds m.line false = false) (hnone : (s.field (g / 8)).line m.line = none)
    {st : LineState} {d' : DirEntry}
    (hc : (isHost (256 * m.line) = true ∧ (s.dirEntry m.line).st = .uncached ∧ (s.dirEntry m.line).host ≠ .EM ∧ st = .S ∧ d' = ⟨.shared, (s.dirEntry m.line).host⟩) ∨
      (¬(isHost (256 * m.line) = true ∧ (s.dirEntry m.line).host ≠ .EM) ∧ (s.dirEntry m.line).st = .uncached ∧ st = .E ∧
        d' = ⟨.owned (g / 8), (s.dirEntry m.line).host⟩) ∨
      ((s.dirEntry m.line).st = .shared ∧ st = .S ∧ d' = s.dirEntry m.line) ∨
      (∃ o, o ≠ g / 8 ∧ (s.dirEntry m.line).st = .owned o ∧ st = .S ∧ d' = s.dirEntry m.line)) :
    ∃ u, exec (.gets g bus) s = .next (s.follows u (g / 8) m.line) ∧ Given (s.popMsg g bus ms) u (g / 8) m.line m.ctx st d' ∧
      ∀ t ∈ (u.field (g / 8)).txns, t.line = m.line → t.applied = true := by
  refine ⟨_, exec_gets h hk, ?_⟩
  rw [askHost_of_not_needs (s := s.popMsg g bus ms) hn]
  exact ⟨(given_applyHostGetS (s := s.popMsg g bus ms) hnone m.ctx hc).requested g, fun t ht hl => (txns_requested _ _ _ g t ht hl).1⟩

theorem getm_gives (h : s.turn g bus m ms) (hk : m.kind = .getM) (hn : s.hostNeeds m.line true = false) :
    ∃ u x, exec (.getm g bus) s = .next (s.follows u (g / 8) m.line) ∧ (u.cluster g).buses.find bus = some ms ∧ SameBytes s u ∧ u.behind = s.behind ∧
      u.dirEntry m.line = { s.dirEntry m.line with st := .owned (g / 8) } ∧ (u.field (g / 8)).line m.line = some x ∧ x.st = .M ∧
      ((s.lineState (g / 8) m.line).owner = false → x.awaiting = true) ∧ ((s.field (g / 8)).line m.line = none → x.ctx = m.ctx) ∧
      (∀ o y, (s.dirEntry m.line).st = .owned o → (s.field o).line m.line = some y → (s.field (g / 8)).line m.line = none ∨ o = g / 8 → x.d0 = y.d0 ∧ x.d1 = y.d1) ∧
      (∀ k, k < 42 → k ≠ g / 8 → (u.field k).line m.line = none) ∧ ∀ t ∈ (u.field (g / 8)).txns, t.line = m.line → t.applied = true := by
  have hx := exec_getm h hk
  rw [askHost_of_not_needs (s := s.popMsg g bus ms) hn] at hx
  obtain ⟨x, hcopy, hst, haw, hctx, hdirty⟩ := gotM_losing (s.popMsg g bus ms) (g / 8) m.line m.ctx
  have hother {k : Nat} (hk : k < 42) (hf : k ≠ g / 8) := line_gotM_other ((s.popMsg g bus ms).losing (g / 8) m.line) (g / 8) m.line m.ctx hk hf
  have hls := LinesStay.losing (s.popMsg g bus ms) (g / 8) m.line
  have hmove := (CopiesKept.ofStay hls).toCopiesMove.trans (CopiesMove.applyGetM _ (g / 8) m.line m.ctx)
  have hy := applyGetM_eq ((s.popMsg g bus ms).losing (g / 8) m.line) (g / 8) m.line m.ctx
  rw [hls.dirEntry] at hy
  generalize (((s.popMsg g bus ms).losing (g / 8) m.line).gotM (g / 8) m.line m.ctx) = q at hcopy hother hy
  generalize (((s.popMsg g bus ms).losing (g / 8) m.line).applyGetM (g / 8) m.line m.ctx) = y at hx hmove hy
  have hline (k : Nat) : (y.field k).line m.line = (q.field k).line m.line := by rw [hy, line_setDir]
  obtain ⟨hbm, hbu⟩ := sameBytes_requested y (g / 8) m.line g
  refine ⟨_, x.askedFrom g, hx, ?_, ⟨hbm.trans hmove.mem, hbu.trans hmove.undefined⟩, (behind_requested _ _ _ _).trans hmove.behind, ?_, ?_,
    (st_askedFrom x g).trans hst, fun ho => (awaiting_askedFrom x g).trans (haw ho), fun hn => (ctx_askedFrom x g).trans (hctx hn), ?_, ?_,
    fun t ht hl => (txns_requested _ _ _ g t ht hl).1⟩
  · rw [buses_requested, hmove.buses]
    exact buses_popMsg s g bus ms
  · rw [dirEntry_requested, hy, dirEntry_setDir]
    rfl
  · rw [line_requested, if_pos ⟨rfl, rfl⟩, hline, hcopy]
    rfl
  · intro o z hd hz hc
    rw [d0_askedFrom, d1_askedFrom]
    exact hdirty o z hd hz hc
  · intro k hk hf
    rw [line_requested, if_neg fun c => hf c.1, hline]
    exact hother hk hf
end

/-! ### Settled -/

/-- Settles O40: each message through its equation at its ordering point, then the copy that it makes (`Given`, `copy_gotM`), returns (`Returned`) or discards; the
data of a line and the host's answer through theirs. -/
theorem busMessagesAndData : Obligations.BusMessagesAndData := by
  unfold Obligations.BusMessagesAndData
  refine ⟨fun s g bus m ms h => ⟨gets_asks h, getm_asks h, put_void h, fun hk hd => ?_, fun hk hn hnone st d' hc => ?_, fun hk hn _ => getm_gives h hk hn,
    fun hk x => put_owned h hk, fun hk o x => clean_owned h hk, disc_spec h⟩, fun s f line x hx => ⟨dataArrival_waits hx, fun ha hw hf y => dataArrival_spec hx ha hw hf⟩,
    fun s line data => ⟨fun h => hostResponse_discarded h data, hostResponse_spec⟩⟩
  · exact ⟨_, clean_none h hk hd, buses_popMsg s g bus ms, rfl⟩
  · obtain ⟨u, he, hg, ht⟩ := gets_gives h hk hn hnone hc
    obtain ⟨x, hx, hst, ha, h0, h1, hctx⟩ := hg.copy
    exact ⟨u, x, he, (congrArg (·.find bus) (hg.buses g)).trans (buses_popMsg s g bus ms), hg.bytes, hg.behind, hg.cores, hg.dir, hx, hst, ha, h0, h1, hctx, ht, hg.owner⟩

end Sys2Proof.Machine
end

section
/-! SUPPORT. The host's accesses to HBM lines and its snoops of host-region lines (R199, R206, R207, R378). -/
namespace Sys2Proof.Machine

/-! ### A message on behalf of the host -/

section
variable {s : State} {k : MsgKind} {line : Nat} {ms : List Msg}

theorem hostQueued_turn (h : s.hostTurn k line ms) : s.hostQueued k line = true := by
  unfold State.hostQueued
  rw [h.1]
  simp

theorem hostMessage_post (h : s.hostQueued k line = false) (eff : State → State) :
    s.hostMessage k line eff = s.post (8 * homeOf line) ⟨k, line, 0, none⟩ := by
  unfold State.hostMessage
  exact if_neg (by rw [h]; decide)

/-- The state in which a message on behalf of the host has its effect. -/
def State.hostPopped (s : State) (line : Nat) (ms : List Msg) : State := s.popMsg (8 * homeOf line) (busOf line) ms

theorem hostMessage_turn (h : s.hostTurn k line ms) (eff : State → State) : s.hostMessage k line eff = eff (s.hostPopped line ms) := by
  have ht : s.takeMsg (8 * homeOf line) (busOf line) k = some (_, s.hostPopped line ms) := takeMsg_turn h
  unfold State.hostMessage
  dsimp only
  rw [if_pos (hostQueued_turn h), h.1, Option.getD_some]
  dsimp only
  rw [if_pos rfl, ht]
end

/-! ### What the host's accesses leave -/

/-- No byte has changed, nothing has been answered, and no message has been posted or taken. -/
structure HostQuiet (s t : State) : Prop where
  bytes : SameBytes s t
  out : t.out = s.out
  buses : ∀ g, (t.cluster g).buses = (s.cluster g).buses

theorem HostQuiet.trans {s t u : State} (h : HostQuiet s t) (k : HostQuiet t u) : HostQuiet s u :=
  ⟨⟨k.bytes.1.trans h.bytes.1, k.bytes.2.trans h.bytes.2⟩, k.out.trans h.out, fun g => (k.buses g).trans (h.buses g)⟩
theorem CopiesMove.hostQuiet {s t : State} (h : CopiesMove s t) : HostQuiet s t := ⟨h.sameBytes, h.out, h.buses⟩

theorem memByte_of_defined {s t : State} (h : SameBytes s t) {a : Nat} (ha : a ∉ s.undefined) : t.memByte a = s.memByte a := by
  have hc : s.undefined.contains a = false := by simpa using ha
  rw [State.memByte, State.memByte, h.1, h.2, hc]
  rfl

theorem memBytes_of_sameBytes {s t : State} (h : SameBytes s t) (pa n : Nat) : t.memBytes pa n = ({ s with fresh := t.fresh } : State).memBytes pa n := by
  unfold State.memBytes
  exact List.map_congr_left fun i _ => State.memByte_congr (s := { s with fresh := t.fresh }) h.1 h.2 rfl _

/-- The host is answered with the line's bytes. -/
theorem out_answerHost {s t : State} (h : SameBytes s t) (ho : t.out = s.out) (line : Nat) :
    ∃ n, (t.answerHost line).out = s.out ++ [.hostRead line (({ s with fresh := n } : State).memBytes (256 * line) 256)] := by
  refine ⟨t.fresh, ?_⟩
  rw [State.answerHost, memBytes_of_sameBytes h, ho]

section
variable (s : State) (line : Nat) (left : LineState → LineState)

theorem ownerCleans_none (h : s.ownerOf line = none) : s.ownerCleans line left = s := by
  unfold State.ownerCleans
  rw [h]

theorem ownerCleans_some {o : Nat} (h : s.ownerOf line = some o) : s.ownerCleans line left = s.cleanLine o line (left (s.lineState o line)) := by
  unfold State.ownerCleans
  rw [h]

theorem ownerCleans_keeps : CopiesKept { s with behind := (s.ownerCleans line left).behind } (s.ownerCleans line left) := by
  cases h : s.ownerOf line with
  | none =>
    rw [ownerCleans_none s line left h]
    exact CopiesKept.refl s
  | some o =>
    rw [ownerCleans_some s line left h]
    exact cleanLine_keeps s o line _

theorem HostQuiet.ownerCleans : HostQuiet s (s.ownerCleans line left) :=
  let h := ownerCleans_keeps s line left
  ⟨h.toCopiesMove.sameBytes, h.out, h.buses⟩

/-- The owner's copy is clean, in the state left to it, and home memory has its bytes. -/
theorem cleaned_ownerCleans {o : Nat} {x : L2Line} (ho : s.ownerOf line = some o) (hx : (s.field o).line line = some x) :
    ((s.ownerCleans line left).field o).line line = some { x with st := left x.st, d0 := false, d1 := false } ∧ (s.ownerCleans line left).homeCurrent line := by
  rw [ownerCleans_some s line left ho, lineState_of hx]
  exact ⟨line_cleanLine hx _, homeCurrent_cleanLine hx _⟩

/-- The owner shares a line with the host. -/
def State.sharedOut (s : State) (line : Nat) : State := (s.ownerCleans line fun _ => .S).setDir line ⟨.shared, .S⟩

theorem HostQuiet.sharedOut : HostQuiet s (s.sharedOut line) := (ownerCleans s line _).trans (CopiesMove.setDir _ line _).hostQuiet

theorem cleaned_sharedOut {o : Nat} {x : L2Line} (ho : s.ownerOf line = some o) (hx : (s.field o).line line = some x) :
    ((s.sharedOut line).field o).line line = some { x with st := .S, d0 := false, d1 := false } ∧ (s.sharedOut line).homeCurrent line := by
  obtain ⟨hc, hh⟩ := cleaned_ownerCleans s line (fun _ => .S) ho hx
  exact ⟨(line_setDir _ line _ o line).trans hc, hh⟩

/-- Every copy of a line is called back. -/
def State.calledBack (s : State) (line : Nat) (d : DirEntry) : State := (((s.ownerCleans line id).losing 42 line).invalidateOthers 42 line).setDir line d

theorem HostQuiet.calledBack (d : DirEntry) : HostQuiet s (s.calledBack line d) :=
  (ownerCleans s line id).trans (((CopiesKept.ofStay (LinesStay.losing _ 42 line)).trans (CopiesKept.invalidateOthers _ 42 line)).toCopiesMove.trans
    (CopiesMove.setDir _ line d)).hostQuiet

theorem copyless_answerHost {t : State} (h : t.copyless line) : (t.answerHost line).copyless line := fun f hf => h f hf
theorem dirEntry_answerHost (l : Nat) : (s.answerHost line).dirEntry l = s.dirEntry l := rfl
theorem dirEntry_sharedOut : (s.sharedOut line).dirEntry line = ⟨.shared, .S⟩ := dirEntry_setDir _ line _
theorem dirEntry_calledBack (d : DirEntry) : (s.calledBack line d).dirEntry line = d := dirEntry_setDir _ line _

theorem copyless_calledBack (d : DirEntry) : (s.calledBack line d).copyless line := fun f hf =>
  (line_setDir _ line d f line).trans ((line_invalidateOthers _ 42 line f line).trans (if_pos ⟨hf, Nat.ne_of_lt hf, rfl⟩))
end

/-! ### The accesses and the snoops -/

theorem portServes_iff (s : State) (port line : Nat) : s.portServes port line = true ↔
    port < 8 ∧ s.boot.minimal = false ∧ s.boot.starting = false ∧ isHbm (256 * line) = true ∧
      let p := (s.ports.find port).getD (Port.blank port)
      p.up = true ∧ (∃ d ∈ p.decoders, d.2.2 ≤ 256 * line ∧ 256 * line + 256 ≤ d.2.2 + d.2.1) ∧
      ∃ r ∈ ((s.tenants.find (p.ctx / 64)).getD Tenant.blank).ranges, r.1 ≤ 256 * line ∧ 256 * line + 256 ≤ r.1 + r.2 := by
  unfold State.portServes Port.decodes
  simp only [Bool.and_eq_true, decide_eq_true_eq, Bool.not_eq_true', List.any_eq_true]
  tauto

section
variable {s : State} {port line : Nat} {wd : Option (List (Nat × Byte))} {ms : List Msg}

theorem hgets_posts (h : s.hostQueued (.hGetS port) line = false) : exec (.hgets port line) s =
    .next (if s.portServes port line then s.post (8 * homeOf line) ⟨.hGetS port, line, 0, none⟩ else { s with out := s.out ++ [.hostError line] }) := by
  show execHgets port line s = _
  unfold execHgets
  rw [h, hostMessage_post h]
  cases s.portServes port line <;> rfl

theorem hgetm_posts (h : s.hostQueued (.hGetM port wd) line = false) : exec (.hgetm port line wd) s =
    .next (if s.portServes port line then s.post (8 * homeOf line) ⟨.hGetM port wd, line, 0, none⟩ else { s with out := s.out ++ [.hostError line] }) := by
  show execHgetm port line wd s = _
  unfold execHgetm
  rw [h, hostMessage_post h]
  cases s.portServes port line <;> rfl

theorem hgets_turn (h : s.hostTurn (.hGetS port) line ms) : exec (.hgets port line) s = .next (((s.hostPopped line ms).sharedOut line).answerHost line) := by
  show execHgets port line s = _
  unfold execHgets
  rw [hostQueued_turn h, hostMessage_turn h, if_neg (by simp)]
  rfl

theorem hgetm_turn_read (h : s.hostTurn (.hGetM port none) line ms) :
    exec (.hgetm port line none) s = .next (((s.hostPopped line ms).calledBack line ⟨.uncached, .EM⟩).answerHost line) := by
  show execHgetm port line none s = _
  unfold execHgetm
  rw [hostQueued_turn h, hostMessage_turn h, if_neg (by simp)]
  rfl

theorem hgetm_turn_write {w : List (Nat × Byte)} (h : s.hostTurn (.hGetM port (some w)) line ms) (hw : ∀ b ∈ w, b.1 < 256) :
    let t := ((s.hostPopped line ms).calledBack line ⟨.uncached, .EM⟩).pokeLine line w
    exec (.hgetm port line (some w)) s = .next { t with out := t.out ++ [.hostDone line] } := by
  have hp (u : State) : w.foldl (fun s b => if b.1 < 256 then s.pokeMem (256 * line + b.1) [b.2] else s) u = u.pokeLine line w :=
    List.foldl_ext _ _ u fun t b hb => if_pos (hw b hb)
  show execHgetm port line (some w) s = _
  unfold execHgetm
  rw [hostQueued_turn h, hostMessage_turn h, if_neg (by simp)]
  dsimp only
  rw [hp]
  rfl

/-- A snoop's message, and its effect at its turn on a line that the device holds. -/
theorem exec_snoop {x : Instr × MsgKind} (hx : x ∈ ([(.snpdata line, .snpData), (.snpinv line, .snpInv), (.snpcur line, .snpCur)] : List (Instr × MsgKind))) :
    ∃ eff, exec x.1 s = .next (s.snooped x.2 line eff) := by
  simp only [List.mem_cons, List.not_mem_nil, or_false] at hx
  obtain rfl | rfl | rfl := hx
  · exact ⟨_, rfl⟩
  · exact ⟨_, rfl⟩
  · exact ⟨_, rfl⟩

theorem snooped_miss {k : MsgKind} (h : s.hostTurn k line ms) (hm : s.holdsLine line = false ∨ isHost (256 * line) = false) (eff : State → State) :
    s.snooped k line eff = { s.hostPopped line ms with out := s.out ++ [.snoopMiss line] } := by
  unfold State.snooped
  rw [hostMessage_turn h]
  exact if_pos hm

theorem snooped_hit {k : MsgKind} (h : s.hostTurn k line ms) (hl : s.holdsLine line = true) (hh : isHost (256 * line) = true) (eff : State → State) :
    s.snooped k line eff = (eff (s.hostPopped line ms)).answerHost line := by
  unfold State.snooped
  rw [hostMessage_turn h]
  refine if_neg ?_
  rintro (k | k)
  · exact Bool.false_ne_true (k.symm.trans hl)
  · exact Bool.false_ne_true (k.symm.trans hh)

theorem snpdata_turn (h : s.hostTurn .snpData line ms) (hl : s.holdsLine line = true) (hh : isHost (256 * line) = true) :
    exec (.snpdata line) s = .next (((s.hostPopped line ms).sharedOut line).answerHost line) := by
  show execSnpdata line s = _
  unfold execSnpdata
  rw [snooped_hit h hl hh]
  rfl

theorem snpinv_turn (h : s.hostTurn .snpInv line ms) (hl : s.holdsLine line = true) (hh : isHost (256 * line) = true) :
    exec (.snpinv line) s = .next (((s.hostPopped line ms).calledBack line ⟨.uncached, .none⟩).answerHost line) := by
  show execSnpinv line s = _
  unfold execSnpinv
  rw [snooped_hit h hl hh]
  rfl

theorem snpcur_turn (h : s.hostTurn .snpCur line ms) (hl : s.holdsLine line = true) (hh : isHost (256 * line) = true) :
    exec (.snpcur line) s = .next (((s.hostPopped line ms).ownerCleans line fun st => if st = .M then .E else st).answerHost line) := by
  show execSnpcur line s = _
  unfold execSnpcur
  rw [snooped_hit h hl hh]

theorem buses_hostPopped {t : State} (h : HostQuiet (s.hostPopped line ms) t) : (t.cluster (8 * homeOf line)).buses.find (busOf line) = some ms := by
  rw [h.buses]
  exact buses_popMsg s _ _ ms

/-- A write of the host at its turn: no copy is left, and its bytes alone are performed. -/
theorem hgetm_write_spec {w : List (Nat × Byte)} (h : s.hostTurn (.hGetM port (some w)) line ms) (hnd : (w.map (·.1)).Nodup) (hw : ∀ b ∈ w, b.1 < 256) :
    ∃ t, exec (.hgetm port line (some w)) s = .next t ∧ (t.cluster (8 * homeOf line)).buses.find (busOf line) = some ms ∧ t.copyless line ∧
      t.dirEntry line = ⟨.uncached, .EM⟩ ∧ t.out = s.out ++ [.hostDone line] ∧ (∀ b ∈ w, t.memByte (256 * line + b.1) = b.2) ∧
      ∀ a, (∀ b ∈ w, a ≠ 256 * line + b.1) → (a ∈ s.undefined → a ∈ t.undefined) ∧ (a ∉ s.undefined → t.memByte a = s.memByte a) := by
  have hq := HostQuiet.calledBack (s.hostPopped line ms) line ⟨.uncached, .EM⟩
  have hc := copyless_calledBack (s.hostPopped line ms) line ⟨.uncached, .EM⟩
  have hd := dirEntry_calledBack (s.hostPopped line ms) line ⟨.uncached, .EM⟩
  have he := hgetm_turn_write h hw
  dsimp only at he
  generalize (s.hostPopped line ms).calledBack line ⟨.uncached, .EM⟩ = u at hq hc hd he
  have hbus := buses_hostPopped hq
  have hp := pokeLine_eq u line w
  have hin {b : Nat × Byte} (hb : b ∈ w) := memByte_pokeLine (line := line) hnd hb u
  have hout {a : Nat} (ha : ∀ b ∈ w, a ≠ 256 * line + b.1) := memByte_pokeLine_other ha u
  have hund {a : Nat} (ha : ∀ b ∈ w, a ≠ 256 * line + b.1) (hm : a ∈ u.undefined) := undefined_pokeLine ha hm
  generalize u.pokeLine line w = v at he hp hin hout hund
  refine ⟨_, he, ?_, ?_, ?_, ?_, fun b hb => hin hb, fun a ha => ⟨fun hm => hund ha ?_, fun hm => ?_⟩⟩
  · rw [hp]
    exact hbus
  · rw [hp]
    exact hc
  · rw [hp]
    exact hd
  · rw [hp]
    exact congrArg (· ++ [Out.hostDone line]) hq.out
  · rw [hq.bytes.2]
    exact hm
  · exact (hout ha).trans (memByte_of_defined (s := s) hq.bytes hm)

/-- The host is answered at its turn: the message has left its queue, no byte has changed, and the line's bytes are the answer. -/
theorem answerHost_spec {t : State} (h : HostQuiet (s.hostPopped line ms) t) :
    ((t.answerHost line).cluster (8 * homeOf line)).buses.find (busOf line) = some ms ∧ SameBytes s (t.answerHost line) ∧
      ∃ n, (t.answerHost line).out = s.out ++ [.hostRead line (({ s with fresh := n } : State).memBytes (256 * line) 256)] :=
  ⟨(buses_hostPopped h :), h.bytes, out_answerHost (s := s) h.bytes h.out line⟩
end

/-- Settles O41: a message of the host is posted, or has its effect at its turn (`hostMessage_post`, `hostMessage_turn`); the effects are those of the owner's write back
(`cleaned_ownerCleans`) and of a call back (`copyless_calledBack`). -/
theorem hostAccesses : Obligations.HostAccesses := by
  unfold Obligations.HostAccesses
  intro s port line wd ms
  obtain ⟨hbs, hms, hns⟩ := answerHost_spec (HostQuiet.sharedOut (s.hostPopped line ms) line)
  have hback (d : DirEntry) := answerHost_spec (HostQuiet.calledBack (s.hostPopped line ms) line d)
  have hcopy (d : DirEntry) := copyless_answerHost line (copyless_calledBack (s.hostPopped line ms) line d)
  have hdir (d : DirEntry) := (dirEntry_answerHost _ line line).trans (dirEntry_calledBack (s.hostPopped line ms) line d)
  have hshare := dirEntry_sharedOut (s.hostPopped line ms) line
  have hclean (o : Nat) (x : L2Line) := cleaned_sharedOut (s.hostPopped line ms) line (o := o) (x := x)
  refine ⟨portServes_iff s port line, hgets_posts, hgetm_posts, fun x hx => ?_, fun h => ?_, fun h => ?_, fun w h hnd hw => hgetm_write_spec h hnd hw,
    fun hl hh => ⟨fun h => ?_, fun h => ?_, fun h => ?_⟩⟩
  · obtain ⟨eff, he⟩ := exec_snoop (s := s) hx
    rw [he]
    exact ⟨fun h => congrArg Host.Outcome.next (hostMessage_post h _),
      fun h hm => ⟨_, congrArg Host.Outcome.next (snooped_miss h hm eff), buses_popMsg s _ _ ms, ⟨rfl, rfl⟩, rfl, rfl⟩⟩
  · exact ⟨_, hgets_turn h, hbs, hms, hshare, hns, hclean⟩
  · obtain ⟨hb, hm, hn⟩ := hback ⟨.uncached, .EM⟩
    exact ⟨_, hgetm_turn_read h, hb, hm, hcopy ⟨.uncached, .EM⟩, hdir ⟨.uncached, .EM⟩, hn⟩
  · exact ⟨_, snpdata_turn h hl hh, hbs, hms, hshare, hns, hclean⟩
  · obtain ⟨hb, hm, hn⟩ := hback ⟨.uncached, .none⟩
    exact ⟨_, snpinv_turn h hl hh, hb, hm, hcopy ⟨.uncached, .none⟩, hdir ⟨.uncached, .none⟩, hn⟩
  · have he := snpcur_turn h hl hh
    have hclean (o : Nat) (x : L2Line) := cleaned_ownerCleans (s.hostPopped line ms) line (fun st => if st = .M then .E else st) (o := o) (x := x)
    have hdir := (ownerCleans_keeps (s.hostPopped line ms) line fun st => if st = .M then .E else st).dirEntry line
    obtain ⟨hb, hm, hn⟩ := answerHost_spec (HostQuiet.ownerCleans (s.hostPopped line ms) line fun st => if st = .M then .E else st)
    generalize (s.hostPopped line ms).ownerCleans line (fun st => if st = .M then .E else st) = u at he hclean hdir hb hm hn
    exact ⟨_, he, hb, hm, hdir, hn, hclean⟩

end Sys2Proof.Machine
end

section
/-! SUPPORT. PROBE, PGTAKE, MAPRQ and TRACE (R244-R246, R372). Settles O34. -/
namespace Sys2Proof.Machine

/-! ### A uniform register, and tables outside the cores -/

theorem View.writeUni_state (V : View) (s0 : State) (k : Nat) (x : Word) : View.writeUni { V with s := s0 } k x = { V.writeUni k x with s := s0 } := by
  unfold View.writeUni View.noteUni
  split <;> rfl

/-- A word that writes a uniform register, changes tables outside the cores, and retires. -/
theorem writesUni {i : Instr} {s s0 : State} {V : View} {d : BitVec 6} {x : Word} (h : Ready s (infoOf i) true V) (hi : (infoOf i).rc = false)
    (hc : s0.cores = s.cores) (he : exec i s = .next ((View.writeUni { V with s := s0 } d.toNat x).retire (infoOf i))) :
    DoesFrom i s s0 V V.w V.onward ⟨[], [(d.toNat, x)]⟩ := by
  rw [View.writeUni_state] at he
  have hb : Became V s0 V.w V.p { V.writeUni d.toNat x with s := s0 } :=
    ⟨by conv_lhs => rw [(RegsOnly.writeUni V d.toNat x).rest], hc.trans (congrArg State.cores (State.view_from h.1).state.symm), rfl, rfl, rfl⟩
  have := does_of h.1 he hb ((Effects.uni V d.toNat x d.isLt).congr rfl rfl rfl rfl)
  rwa [hi] at this

/-! ### PROBE -/

theorem probe_posts {s : State} {V : View} {d a : BitVec 6} {l : BitVec 4} (h : Ready s (infoOf (.probe d a l)) true V) (hroom : V.w.pendingCount + 1 ≤ 32) :
    let o : LongOp := { seq := V.w.seq, pc := V.p.pc, slot := V.kn, window := l.toNat + 1, uniform := true, dest := [d.toNat], kind := .probe
                        lanes := V.em, accs := [], vals := [(32, (s.probed V.w.ctx (V.uni64 a.toNat)).setWidth 128)], posted := false, at_ := 0 }
    Posts (.probe d a l) s s V { V.w with pend := V.w.pend ++ [o], seq := V.w.seq + 1 } true [d.toNat] := by
  intro o
  obtain rfl := (State.view_from h.1).state
  have hN := noted_noteUni V d.toNat
  refine posts_of_noted h.1 hN rfl ((issue_ready h _).trans ?_)
  rw [if_neg (by omega)]
  refine congrArg (fun W : View => Host.Outcome.next (W.retire _)) ?_
  rw [View.posted, hN.1]

/-! ### PGTAKE -/

/-- A PGTAKE that waits for no take yet, at its address. -/
def View.takeAt (V : View) (d a : BitVec 6) (va : Dword) : State :=
  if canonical va = false then V.pgtakeDone d a 2
  else match V.s.walk V.w.ctx va.toNat with
  | .leaf _ _ => V.pgtakeDone d a 3
  | .firstTouch z _ =>
    if V.s.takes.any fun t => t.2.ctx == V.w.ctx && t.2.va == va.toNat / pageSize z * pageSize z && t.2.result.isNone then V.hold 11
    else match V.s.startTake V.w.ctx V.w.launch va.toNat with
      | none => V.pgtakeDone d a 1
      | some s' => ({ V with s := s', p := { V.p with wait := .pgtake V.s.nextUid } } : View).put
  | _ => V.pgtakeDone d a 2

section
variable {s : State} {V : View} {d a : BitVec 6} (h : Ready s (infoOf (.pgtake d a)) true V)
include h

theorem pgtake_done {s0 : State} {x : Word} (hc : s0.cores = s.cores) (he : exec (.pgtake d a) s = .next (View.pgtakeDone { V with s := s0 } d a x)) :
    DoesFrom (.pgtake d a) s s0 V V.w V.onward ⟨[], [(d.toNat, x)]⟩ := writesUni h rfl hc he

theorem pgtake_answered {k : Nat} {t : Take} {x : Word} (hw : V.p.wait = .pgtake k) (ht : s.takes.find k = some t) (hx : t.result = some x) :
    DoesFrom (.pgtake d a) s { s with takes := s.takes.drop k } V V.w V.onward ⟨[], [(d.toNat, x)]⟩ := by
  obtain rfl := (State.view_from h.1).state
  refine pgtake_done h rfl ((issue_ready h _).trans ?_)
  simp only [hw, ht, hx, Option.bind_some]

theorem pgtake_computes {x : Word} (he : exec (.pgtake d a) s = .next (V.pgtakeDone d a x)) : Computes (.pgtake d a) s V ⟨[], [(d.toNat, x)]⟩ := by
  obtain rfl := (State.view_from h.1).state
  exact pgtake_done h rfl he

section
variable (hw : ∀ k, V.p.wait ≠ .pgtake k)
include hw

theorem exec_pgtake : exec (.pgtake d a) s = .next (V.takeAt d a (V.uni64 a.toNat)) := by
  refine (issue_ready h _).trans (congrArg _ ?_)
  split
  · next k hk => exact absurd hk (hw k)
  · rfl

theorem pgtake_bent (hc : canonical (V.uni64 a.toNat) = false) : Computes (.pgtake d a) s V ⟨[], [(d.toNat, 2#32)]⟩ :=
  pgtake_computes h ((exec_pgtake h hw).trans (congrArg _ (if_pos hc)))

section
variable (hc : canonical (V.uni64 a.toNat) = true)
include hc

theorem pgtake_mapped {z : Nat} {e : Dword} (hwalk : s.walk V.w.ctx (V.uni64 a.toNat).toNat = .leaf z e) :
    Computes (.pgtake d a) s V ⟨[], [(d.toNat, 3#32)]⟩ := by
  obtain rfl := (State.view_from h.1).state
  refine pgtake_computes h ((exec_pgtake h hw).trans ?_)
  simp only [View.takeAt, hc, hwalk, Bool.true_eq_false, if_false]
  rfl

theorem pgtake_unmapped (hwalk : s.walk V.w.ctx (V.uni64 a.toNat).toNat = .unmapped) : Computes (.pgtake d a) s V ⟨[], [(d.toNat, 2#32)]⟩ := by
  obtain rfl := (State.view_from h.1).state
  refine pgtake_computes h ((exec_pgtake h hw).trans ?_)
  simp only [View.takeAt, hc, hwalk, Bool.true_eq_false, if_false]
  rfl

/-- A first-touch page that no take is for begins one, if the pool holds enough (R238, R245). -/
theorem pgtake_firstTouch {z : Nat} {e : Dword} (hwalk : s.walk V.w.ctx (V.uni64 a.toNat).toNat = .firstTouch z e)
    (hidle : ∀ x ∈ s.takes, ¬ (x.2.ctx = V.w.ctx ∧ x.2.va = (V.uni64 a.toNat).toNat / pageSize z * pageSize z ∧ x.2.result = none)) :
    (s.startTake V.w.ctx V.w.launch (V.uni64 a.toNat).toNat = none → Computes (.pgtake d a) s V ⟨[], [(d.toNat, 1#32)]⟩) ∧
      ∀ s', s.startTake V.w.ctx V.w.launch (V.uni64 a.toNat).toNat = some s' →
        exec (.pgtake d a) s = .next ({ V with s := s', p := { V.p with wait := .pgtake s.nextUid } } : View).put := by
  obtain rfl := (State.view_from h.1).state
  have hnone : (V.s.takes.any fun t => t.2.ctx == V.w.ctx && t.2.va == (V.uni64 a.toNat).toNat / pageSize z * pageSize z && t.2.result.isNone) = false := by
    rw [List.any_eq_false]
    exact fun x hx hbusy => hidle x hx (by simpa [and_assoc] using hbusy)
  have he := exec_pgtake h hw
  simp only [View.takeAt, hc, hwalk, hnone, Bool.true_eq_false, Bool.false_eq_true, if_false] at he
  exact ⟨fun hpool => pgtake_computes h (he.trans (by rw [hpool]; rfl)), fun s' hpool => he.trans (by rw [hpool])⟩
end
end
end

/-! ### MAPRQ -/

theorem check_operands {V : View} {i : Info} (h : V.check i true = none) : V.check i false = some 0x002 := by
  simp only [View.check, noCause_iff] at h ⊢
  obtain ⟨hset, hpriv, -⟩ := h
  rw [if_neg hset, if_neg hpriv]
  rfl

/-- The address of record j of a MAPRQ. -/
def recordAt (va : Dword) (j : Nat) : Dword := va + BitVec.ofNat 64 (32 * j)

/-- The state in which a MAPRQ has posted its records. -/
def State.recordsPosted (s : State) (ctx : Nat) (va : Dword) (n : Nat) : State :=
  s.setCtx ctx { s.ctx ctx with mapq := (s.ctx ctx).mapq ++ (List.range n).map (recordAt va) }

/-- MAPRQ once its thread's earlier accesses are released. -/
def View.postRecords (V : View) (d a b : BitVec 6) (n : Nat) (va : Dword) : State :=
  if 256 ≤ (V.s.ctx V.w.ctx).mapq.length then (V.writeUni d.toNat 1).retire (Info.uniOfPair2 d a b)
  else match V.recordPlace va, V.recordPlace (recordAt va (n - 1)) with
  | .fault c, .fault e => if causeRank c ≤ causeRank e then V.laneFault c va V.em else V.laneFault e (recordAt va (n - 1)) V.em
  | .fault c, _ => V.laneFault c va V.em
  | _, .fault c => V.laneFault c (recordAt va (n - 1)) V.em
  | .migrating, _ => ({ V with s := V.s.startPull V.w.ctx va.toNat } : View).hold 11
  | _, .migrating => ({ V with s := V.s.startPull V.w.ctx (recordAt va (n - 1)).toNat } : View).hold 11
  | _, _ => (View.writeUni { V with s := V.s.recordsPosted V.w.ctx va n } d.toNat 0).retire (Info.uniOfPair2 d a b)

theorem View.released_idle {V : View} (hp : V.w.pend = []) (hs : V.w.sb = []) (eff : View → State) : V.released eff = eff V := by
  simp [View.released, Warp.outstanding, hp, hs]

section
variable {s : State} {V : View} {d a b : BitVec 6} (h : Ready s (infoOf (.maprq d a b)) true V)
include h

theorem maprq_refused (hn : (V.uni b.toNat).toNat = 0 ∨ 64 < (V.uni b.toNat).toNat) : exec (.maprq d a b) s = .next (V.fault 0x002 0#64 V.em) := by
  obtain ⟨hview, hbreak, hcheck, hscore, -⟩ := h
  refine (issueChecked_free hview hscore _).trans (issue_check hview hbreak ?_ _)
  rw [← check_operands hcheck]
  refine congrArg _ ?_
  rw [← Bool.decide_and, decide_eq_false]
  omega

section
variable {n : Nat} (hn : (V.uni b.toNat).toNat = n) (h1 : 1 ≤ n) (h64 : n ≤ 64)
include hn h1 h64

theorem exec_maprq : exec (.maprq d a b) s = .next (
    if !V.w.mgmt && !(canonical (V.uni64 a.toNat) && canonical (recordAt (V.uni64 a.toNat) (n - 1))) then V.fault 0x040 (V.uni64 a.toNat) V.em
    else if (V.uni64 a.toNat).toNat % 32 ≠ 0 then V.fault 0x041 (V.uni64 a.toNat) V.em
    else V.released fun W => W.postRecords d a b n (V.uni64 a.toNat)) := by
  subst hn
  refine (issueChecked_free h.1 h.2.2.2.1 _).trans ?_
  have hok : (decide (1 ≤ (V.uni b.toNat).toNat) && decide ((V.uni b.toNat).toNat ≤ 64)) = true := by simp [h1, h64]
  exact (congrArg (issue _ · _ _) hok).trans (issue_ready h _)

theorem maprq_bent (hm : V.w.mgmt = false) (hc : canonical (V.uni64 a.toNat) = false ∨ canonical (recordAt (V.uni64 a.toNat) (n - 1)) = false) :
    exec (.maprq d a b) s = .next (V.fault 0x040 (V.uni64 a.toNat) V.em) := by
  refine (exec_maprq h hn h1 h64).trans (congrArg _ (if_pos ?_))
  rcases hc with hc | hc <;> simp [hm, hc]

section
variable (hc : V.w.mgmt = true ∨ (canonical (V.uni64 a.toNat) = true ∧ canonical (recordAt (V.uni64 a.toNat) (n - 1)) = true))
include hc

theorem maprq_askew (ha : (V.uni64 a.toNat).toNat % 32 ≠ 0) : exec (.maprq d a b) s = .next (V.fault 0x041 (V.uni64 a.toNat) V.em) := by
  refine (exec_maprq h hn h1 h64).trans (congrArg _ ((if_neg ?_).trans (if_pos ha)))
  rcases hc with hc | ⟨hc, hc'⟩ <;> simp [*]

section
variable (ha : (V.uni64 a.toNat).toNat % 32 = 0) (hp : V.w.pend = []) (hs : V.w.sb = [])
include ha hp hs

/-- A MAPRQ that passes the checks of its address and has nothing to release. -/
theorem maprq_goes : exec (.maprq d a b) s = .next (V.postRecords d a b n (V.uni64 a.toNat)) := by
  refine (exec_maprq h hn h1 h64).trans (congrArg _ ((if_neg ?_).trans ((if_neg (not_not.mpr ha)).trans (View.released_idle hp hs _))))
  rcases hc with hc | ⟨hc, hc'⟩ <;> simp [*]

theorem maprq_full (hq : 256 ≤ (s.ctx V.w.ctx).mapq.length) : Computes (.maprq d a b) s V ⟨[], [(d.toNat, 1#32)]⟩ := by
  obtain rfl := (State.view_from h.1).state
  exact writesUni (s0 := V.s) h rfl rfl ((maprq_goes h hn h1 h64 hc ha hp hs).trans (congrArg _ (if_pos hq)))

section
variable (hq : (s.ctx V.w.ctx).mapq.length < 256)
include hq

theorem maprq_firstFails {c : Nat} (hf : V.recordPlace (V.uni64 a.toNat) = .fault c)
    (hl : ∀ e, V.recordPlace (recordAt (V.uni64 a.toNat) (n - 1)) = .fault e → causeRank c ≤ causeRank e) :
    exec (.maprq d a b) s = .next (V.laneFault c (V.uni64 a.toNat) V.em) := by
  obtain rfl := (State.view_from h.1).state
  refine (maprq_goes h hn h1 h64 hc ha hp hs).trans (congrArg _ ((if_neg (by omega)).trans ?_))
  rw [hf]
  cases hlast : V.recordPlace (recordAt (V.uni64 a.toNat) (n - 1)) with
  | fault e => exact if_pos (hl e hlast)
  | ok l => rfl
  | migrating => rfl

theorem maprq_lastFails {c : Nat} (hl : V.recordPlace (recordAt (V.uni64 a.toNat) (n - 1)) = .fault c)
    (hf : ∀ e, V.recordPlace (V.uni64 a.toNat) = .fault e → causeRank c < causeRank e) :
    exec (.maprq d a b) s = .next (V.laneFault c (recordAt (V.uni64 a.toNat) (n - 1)) V.em) := by
  obtain rfl := (State.view_from h.1).state
  refine (maprq_goes h hn h1 h64 hc ha hp hs).trans (congrArg _ ((if_neg (by omega)).trans ?_))
  rw [hl]
  cases hfirst : V.recordPlace (V.uni64 a.toNat) with
  | fault e => exact if_neg (Nat.not_le.mpr (hf e hfirst))
  | ok l => rfl
  | migrating => rfl

theorem maprq_posts {l1 l2 : Loc} (hf : V.recordPlace (V.uni64 a.toNat) = .ok l1) (hl : V.recordPlace (recordAt (V.uni64 a.toNat) (n - 1)) = .ok l2) :
    DoesFrom (.maprq d a b) s (s.recordsPosted V.w.ctx (V.uni64 a.toNat) n) V V.w V.onward ⟨[], [(d.toNat, 0#32)]⟩ := by
  obtain rfl := (State.view_from h.1).state
  refine writesUni h rfl rfl ((maprq_goes h hn h1 h64 hc ha hp hs).trans (congrArg _ ((if_neg (by omega)).trans ?_)))
  rw [hf, hl]
  rfl
end
end
end
end
end

/-! ### TRACE -/

section
variable {s : State} {V : View} {d : BitVec 6} {tag : BitVec 15} (h : Ready s (infoOf (.trace d tag)) true V)
include h

theorem trace_writes {f : State → State} (he : exec (.trace d tag) s = .next (f (V.retire (infoOf (.trace d tag))))) :
    DoesThen (.trace d tag) s s V V.w V.onward ⟨[], []⟩ f := by
  obtain ⟨hwarp, w, p, r, hsame, hp, hr, hrf, hundef, hranges, ht, hd⟩ := View.retire_frame (i := infoOf (.trace d tag)) (State.view_from h.1) (RegsOnly.refl V).became
  rw [(State.view_from h.1).state] at hwarp
  exact ⟨_, w, p, r, he, hwarp, hsame, hp, hr, (Effects.none V).holds hrf hundef hranges ht hd⟩

theorem trace_off (hoff : V.w.mgmt = true ∨ V.c.sampler.ctl.getLsbD 1 = false ∨ V.c.sampler.valid = false ∨ V.c.sampler.matches_ V.w.ctx = false) :
    Does (.trace d tag) s V V.w V.onward ⟨[], []⟩ := by
  refine trace_writes (f := id) h ((issue_ready h _).trans (congrArg _ (if_neg ?_)))
  rcases hoff with hoff | hoff | hoff | hoff <;> rw [hoff] <;> simp

theorem trace_on (hm : V.w.mgmt = false) (hctl : V.c.sampler.ctl.getLsbD 1 = true) (hv : V.c.sampler.valid = true) (hctx : V.c.sampler.matches_ V.w.ctx = true) :
    DoesThen (.trace d tag) s s V V.w V.onward ⟨[], []⟩ fun t => t.putRecord V.cn V.w.ctx (8 * V.c.cycle + 4 + V.qn % 4)
      (toLe V.c.cycle 4 ++ toLe (V.qn + 4 * V.wn + 64 * 3) 2 ++ toLe (V.w.ctx % 4096) 2 ++ toLe (tag.setWidth 32 : Word).toNat 4 ++
        toLe (V.uni d.toNat).toNat 4) :=
  trace_writes h ((issue_ready h _).trans (congrArg _ (if_pos (by simp [hm, hctl, hv, hctx]))))
end

/-- Settles O34: each word's case is its own lemma; the words that write one register outside a long latency do so by `writesUni`. -/
theorem pageAndTraceWords : Obligations.PageAndTraceWords := by
  unfold Obligations.PageAndTraceWords
  intro s V d a b l tag va
  refine ⟨fun h hroom => probe_posts h hroom, fun h hw => ⟨pgtake_bent h hw, fun hc z e => pgtake_mapped h hw hc, fun hc => pgtake_unmapped h hw hc,
    fun hc z e hwalk => pgtake_firstTouch h hw hc hwalk⟩, fun h k t x => pgtake_answered h, fun h => ?_, fun h => ⟨trace_off h, trace_on h⟩⟩
  intro n at_ last
  exact ⟨maprq_refused h, fun h1 h64 => maprq_bent h rfl h1 h64, fun h1 h64 => maprq_askew h rfl h1 h64,
    fun h1 h64 hc ha hp hs => ⟨maprq_full h rfl h1 h64 hc ha hp hs, fun c hq => maprq_firstFails h rfl h1 h64 hc ha hp hs hq,
      fun c hq => maprq_lastFails h rfl h1 h64 hc ha hp hs hq, fun l1 l2 hq => maprq_posts h rfl h1 h64 hc ha hp hs hq⟩⟩

end Sys2Proof.Machine
end

section
/-! SUPPORT. The in-lane supervisor handler (R146, R235, R237, R343). Settles O32. -/
namespace Sys2Proof.Machine

/-! ### A path that has left its run -/

/-- A path that has left its run, whatever the run waits for or marks. -/
def Path.offRun (p : Path) : Path := { p with run := none, wait := .none, ends := .plain, fetched := false }

theorem View.leaveRun_warp (V : View) (p : Path) : (V.leaveRun p).warp V.cn V.qn V.wn = some (V.warpWith (some p.offRun)) := View.warp_putWarp _ _

theorem View.leaveRun_rf (V : View) (p : Path) : (V.quadIn (V.leaveRun p)).rf = V.q.rf :=
  (congrArg Quadrant.rf (View.putWarp_quad _ _)).trans (V.q.vacated_rf V.wn V.kn)

/-! ### Entering the handler -/

theorem State.countFault_eq {s : State} {n : Nat} {L : Launch} (h : s.launches.find n = some L) :
    s.countFault n = { s with launches := s.launches.put n { L with faults := min 0xFFFFFFFF (L.faults + 1) } } := by
  rw [State.countFault, h]

/-- What the warp saves as a slot enters the handler for lanes that fail at an address. -/
def View.handlerEntered (V : View) : Handler :=
  { slot := V.kn, saved := (List.range 8).map fun i => Sparse.get 0#32 V.q.rf (V.uidx (48 + i)), entryEpc := pcVa V.p.pc, last := decide (V.r.words.length ≤ 2) }
def View.enteredWith (V : View) (eva : Dword) (m : Word) : View :=
  { V with w := { V.w.endWindows with handler := some V.handlerEntered
                                      trap := { V.w.trap.take (V.trapReq 0x049 eva m m) V.kn false with halted := false } } }
/-- The path of the handler: at the supervisor entry, the lanes that have not failed resting. -/
def View.handlerPath (V : View) (m : Word) : Path :=
  { V.p with pc := (V.s.ctx V.w.ctx).entry, replay := none, rest := V.p.rest ||| (V.p.mask &&& ~~~m) }

theorem View.laneFault_inLane {V : View} {m : Word} (hs : V.super = false) (hm : m ≠ 0#32) (eva : Dword) :
    V.laneFault 0x049 eva m = ((V.enteredWith eva m).leaveRun (V.handlerPath m)).countFault V.w.launch := if_pos ⟨rfl, hm, hs⟩

theorem laneFault_enters {s : State} {V : View} {eva : Dword} {m : Word} (hv : s.view = some V) (hs : V.super = false) (hm : m ≠ 0#32) :
    let t := V.laneFault 0x049 eva m
    ∃ w p h, V.warpIn t = some w ∧ w.handler = some h ∧ h.slot = V.kn ∧ h.entryEpc = V.p.pc.signExtend 64 ∧
      h.saved = (List.range 8).map (fun i => Sparse.get 0#32 V.q.rf (V.uidx (48 + i))) ∧ w.trap.cause = 0x049#9 ∧ w.trap.epc = V.p.pc.signExtend 64 ∧
      w.trap.eva = eva ∧ w.trap.fmask = m ∧ w.trap.halted = false ∧ w.div.slot V.kn = some p ∧ p.pc = (s.ctx V.w.ctx).entry ∧ p.mask = V.p.mask ∧
      p.rest = V.p.rest ||| (V.p.mask &&& ~~~m) ∧ p.run = none ∧ p.replay = none ∧ (V.quadIn t).rf = V.q.rf ∧
      t = { s with cores := t.cores, fresh := t.fresh, launches := t.launches } ∧
      ∀ L, s.launches.find V.w.launch = some L →
        t.launches = s.launches.put V.w.launch { L with faults := min 0xFFFFFFFF (L.faults + 1) } := by
  obtain rfl := (State.view_from hv).state
  intro t
  have ht : t = _ := View.laneFault_inLane hs hm eva
  clear_value t
  subst ht
  let W := V.enteredWith eva m
  have hrest := (W.leaveRun (V.handlerPath m)).countFault_rest V.w.launch
  have hcores : ((W.leaveRun (V.handlerPath m)).countFault V.w.launch).cores = (W.leaveRun (V.handlerPath m)).cores := by rw [hrest]
  refine ⟨W.warpWith (some (V.handlerPath m).offRun), (V.handlerPath m).offRun, V.handlerEntered, ?_, rfl, rfl, rfl, rfl, rfl, rfl, rfl, rfl, rfl,
    Div.slot_setSlot _ _ _, rfl, rfl, rfl, rfl, rfl, ?_, ?_, fun L hL => ?_⟩
  · exact (State.warp_of_cores hcores _ _ _).trans (W.leaveRun_warp _)
  · rw [View.quadIn, State.core_of_cores hcores]
    exact W.leaveRun_rf _
  · rw [hrest]
    rfl
  · rw [State.countFault_eq (s := W.leaveRun (V.handlerPath m)) hL]
    rfl

/-! ### Registers restored -/

theorem RegsOnly.foldl_writeUni (f : Nat → Word) (ks : List Nat) (V : View) : RegsOnly V (ks.foldl (fun V i => V.writeUni (48 + i) (f i)) V) := by
  induction ks generalizing V with
  | nil => exact RegsOnly.refl V
  | cons k ks ih => exact (RegsOnly.writeUni V _ _).trans (ih _)

theorem View.foldl_writeUni_rf (f : Nat → Word) (ks : List Nat) (V : View) : (ks.foldl (fun V i => V.writeUni (48 + i) (f i)) V).q.rf =
    ks.foldl (fun rf i => Sparse.set 0#32 rf (V.uidx (48 + i)) (f i)) V.q.rf := by
  induction ks generalizing V with
  | nil => rfl
  | cons k ks ih =>
    rw [List.foldl_cons, ih]
    have hu : ∀ j, (V.writeUni (48 + k) (f k)).uidx j = V.uidx j := (RegsOnly.writeUni V _ _).same.2.2.1
    simp only [hu]
    rfl

theorem View.restoreSaved_regs (V : View) (h : Handler) : RegsOnly V (V.restoreSaved h) := RegsOnly.foldl_writeUni _ _ V

/-- s48-s55 hold what was saved, and every other word of the register file is as it was (R237, R343). -/
theorem View.restoreSaved_rf (V : View) (h : Handler) :
    (∀ k, k < 8 → Sparse.get 0#32 (V.restoreSaved h).q.rf (V.uidx (48 + k)) = h.saved.getD k 0#32) ∧
      ∀ j, (∀ k, k < 8 → V.uidx (48 + k) ≠ j) → Sparse.get 0#32 (V.restoreSaved h).q.rf j = Sparse.get 0#32 V.q.rf j := by
  let idx (i : Nat) : Nat := V.w.ubase * 32 + (48 + i)
  have hidx : ∀ k, k < 8 → V.uidx (48 + k) = idx k := fun k hk => if_pos (show 48 + k < 56 by omega)
  have hrf : (V.restoreSaved h).q.rf = (List.range 8).foldl (fun rf i => Sparse.set 0#32 rf (idx i) (h.saved.getD i 0#32)) V.q.rf := by
    rw [View.restoreSaved, View.foldl_writeUni_rf]
    exact List.foldl_ext _ _ _ fun rf i hi => by rw [hidx i (List.mem_range.mp hi)]
  have hget (j : Nat) := get_foldl_set (idx := idx) (f := fun i => h.saved.getD i 0#32) (fun a b hab => by grind) (List.range 8) List.nodup_range V.q.rf j
  simp only [hrf, hget]
  constructor
  · intro k hk
    have hfound : (List.range 8).find? (fun i => idx i == V.uidx (48 + k)) = some k := by
      rw [List.find?_range_eq_some]
      refine ⟨by rw [hidx k hk, beq_self_eq_true], List.mem_range.mpr hk, fun i hi => ?_⟩
      rw [hidx k hk, Bool.not_eq_true', beq_eq_false_iff_ne]
      grind
    rw [hfound]
  · intro j hj
    have hnone : (List.range 8).find? (fun i => idx i == j) = none :=
      List.find?_eq_none.mpr fun i hi => by rw [← hidx i (List.mem_range.mp hi), beq_iff_eq]; exact hj i (List.mem_range.mp hi)
    rw [hnone]

/-! ### Leaving the handler -/

/-- The view that ERET leaves the handler with: its registers restored, its slot's windows over. -/
def View.handlerLeft (V : View) (h : Handler) : View :=
  { V.restoreSaved h with w := { (V.restoreSaved h).w.endSlotWindows V.kn with handler := none } }
/-- The path that ERET leaves, no lane of it resting. -/
def View.eretPath (V : View) : Path := { V.p with rest := 0#32, replay := none, after := V.c.cycle + 2 }
/-- Where the slot goes on: past the word, at the word again for the lanes of FMASK, or at the address that EPC gives (R343). -/
def View.eretOnward (V : View) (h : Handler) : Path :=
  let pc : Pc := V.w.trap.epc.extractLsb' 0 48
  if V.w.trap.epc = h.entryEpc ∧ V.w.trap.fmask = 0#32 then V.eretPath.past pc h.last
  else if V.w.trap.epc = h.entryEpc then { V.eretPath with pc := pc, replay := some V.w.trap.fmask }
  else { V.eretPath with pc := pc }
/-- The trap of a handler that escalates. -/
def View.escalation (V : View) (h : Handler) : TrapReq :=
  { cause := V.w.trap.cause.toNat, epc := V.w.trap.epc, eva := V.w.trap.eva, fmask := V.w.trap.fmask, replay := V.w.trap.fmask, again := true
    last := h.last, isDeferred := false, escalated := true, service := none }

section
variable {V : View} {h : Handler} (hh : V.w.handler = some h)
include hh

theorem View.eret_eq : V.eret =
    if V.w.trap.cause ≠ 0#9 ∧ V.w.trap.cause ≠ 0x049#9 then
      ((V.handlerLeft h).leaveRun { V.eretPath with pc := h.entryEpc.extractLsb' 0 48 }).mgmtTrap V.cn V.qn V.wn V.kn (V.escalation h)
    else if V.w.trap.fmask &&& ~~~V.p.mask ≠ 0#32 ∨ canonical V.w.trap.epc = false ∨ V.w.trap.epc.extractLsb' 0 2 ≠ 0#2 then
      ((V.handlerLeft h).leaveRun V.eretPath).mgmtTrap V.cn V.qn V.wn V.kn { V.trapReq 0x00B 0#64 V.em V.em with inHandler := true }
    else (V.handlerLeft h).leaveRun (V.eretOnward h) := by
  have ht : (V.restoreSaved h).w.trap = V.w.trap := by rw [(V.restoreSaved_regs h).rest]
  have hp : (V.restoreSaved h).p = V.p := by rw [(V.restoreSaved_regs h).rest]
  simp only [View.eret, hh, View.handlerLeft]
  generalize V.restoreSaved h = V1 at ht hp
  simp only [ht, hp, View.eretPath]
  split
  · rfl
  · split
    · rfl
    · unfold View.eretOnward
      dsimp only
      split
      · rfl
      · split <;> rfl
end

theorem settle_halted {s : State} {cn qn wn : Nat} {w : Warp} (hw : s.warp cn qn wn = some w) (hh : w.trap.halted = true) : s.settle cn qn wn = s := by
  simp [State.settle, State.settleFrom, hw, hh]

/-- A trap of a word of the handler halts its warp, and gives no service (R334, R337). -/
theorem mgmtTrap_inHandler {s : State} {cn qn wn : Nat} {w : Warp} (hw : s.warp cn qn wn = some w) (kn : Nat) {r : TrapReq} (hr : r.inHandler = true) :
    (s.mgmtTrap cn qn wn kn r).warp cn qn wn = some (w.trapped kn r none true) := by
  rw [State.mgmtTrap, hw]
  simp only [hr, Bool.true_or, if_true]
  rw [State.warp_of_cores (State.accountTrap_cores _ _ _ _ _ _ _), State.warp, State.quad_setQuad, Quadrant.deselectWarp_warps, Quadrant.find_setWarp, if_pos rfl]
  rfl

/-! ### ERET -/

/-- The view from which ERET leaves: the word has been issued, and its path has not gone on. -/
def View.atEret (V : View) : View := { V.advance (infoOf .eret) with p := V.p, r := V.r }

/-- What ERET leaves: the warp outside its handler with its path off its run, the registers that were saved, and nothing else changed but the core. -/
theorem View.leftRun_spec (W : View) (h : Handler) (p : Path) :
    ((W.handlerLeft h).leaveRun p).warp W.cn W.qn W.wn =
        some { W.w.endSlotWindows W.kn with handler := none, undef := (W.restoreSaved h).w.undef, tstRanges := (W.restoreSaved h).w.tstRanges
                                            div := W.w.div.setSlot W.kn (some p.offRun) } ∧
      (W.quadIn ((W.handlerLeft h).leaveRun p)).rf = (W.restoreSaved h).q.rf ∧
      (W.handlerLeft h).leaveRun p = { W.s with cores := ((W.handlerLeft h).leaveRun p).cores, fresh := ((W.handlerLeft h).leaveRun p).fresh } := by
  obtain ⟨hV1⟩ := W.restoreSaved_regs h
  unfold View.handlerLeft
  generalize W.restoreSaved h = V1 at hV1
  generalize V1.q.rf = rf, V1.w.undef = un, V1.w.tstRanges = tr, V1.r.tdef = td, V1.r.wdef = wd at hV1 ⊢
  subst hV1
  exact ⟨View.leaveRun_warp _ _, View.leaveRun_rf _ _, rfl⟩

/-- Wherever the slot goes on, its path keeps its lanes, none of them resting. -/
theorem View.eretOnward_keeps (W : View) (h : Handler) :
    (W.eretOnward h).rest = 0#32 ∧ (W.eretOnward h).mask = W.p.mask ∧ (W.eretOnward h).depth = W.p.depth ∧ (W.eretOnward h).parked = W.p.parked := by
  unfold View.eretOnward
  dsimp only
  split
  · exact ⟨rfl, rfl, rfl, rfl⟩
  · split <;> exact ⟨rfl, rfl, rfl, rfl⟩

theorem View.eretOnward_elsewhere (W : View) {h : Handler} (he : W.w.trap.epc ≠ h.entryEpc) :
    W.eretOnward h = { W.eretPath with pc := W.w.trap.epc.extractLsb' 0 48 } := (if_neg fun hn => he hn.1).trans (if_neg he)

theorem View.eretOnward_again (W : View) {h : Handler} (he : W.w.trap.epc = h.entryEpc) (hf : W.w.trap.fmask ≠ 0#32) :
    W.eretOnward h = { W.eretPath with pc := W.w.trap.epc.extractLsb' 0 48, replay := some W.w.trap.fmask } := (if_neg fun hn => hf hn.2).trans (if_pos he)

theorem View.eretOnward_past (W : View) {h : Handler} (he : W.w.trap.epc = h.entryEpc) (hf : W.w.trap.fmask = 0#32) :
    W.eretOnward h = W.eretPath.past (W.w.trap.epc.extractLsb' 0 48) h.last := if_pos ⟨he, hf⟩

section
variable {s : State} {V : View} {h : Handler} (hr : Ready s (infoOf .eret) true V) (hh : V.w.handler = some h)
include hr hh

/-- The state in which ERET has left the handler: the slot goes on, and its warp's paths settle from here (R146, R343). -/
theorem eret_returns (hc : V.w.trap.cause = 0#9 ∨ V.w.trap.cause = 0x049#9) (hm : V.w.trap.fmask &&& ~~~V.p.mask = 0#32)
    (hcan : canonical V.w.trap.epc = true) (hal : V.w.trap.epc.extractLsb' 0 2 = 0#2) :
    exec .eret s = .next (((V.atEret.handlerLeft h).leaveRun (V.atEret.eretOnward h)).settle V.cn V.qn V.wn) := by
  refine (issue_ready hr _).trans (congrArg (fun t : State => Host.Outcome.next (t.settle V.cn V.qn V.wn)) ?_)
  refine (View.eret_eq (V := V.atEret) hh).trans ((if_neg ?_).trans (if_neg ?_))
  · exact fun hn => hc.elim hn.1 hn.2
  · rintro (hn | hn | hn)
    · exact hn hm
    · exact Bool.false_ne_true (hn.symm.trans hcan)
    · exact hn hal

theorem eret_refused (hc : V.w.trap.cause = 0#9 ∨ V.w.trap.cause = 0x049#9)
    (hbad : V.w.trap.fmask &&& ~~~V.p.mask ≠ 0#32 ∨ canonical V.w.trap.epc = false ∨ V.w.trap.epc.extractLsb' 0 2 ≠ 0#2) :
    ∃ t w, exec .eret s = .next t ∧ V.warpIn t = some w ∧ w.handler = none ∧ w.trap.halted = true ∧ w.trap.cause = 0x00B#9 ∧
      w.trap.epc = V.p.pc.signExtend 64 ∧ w.trap.fmask = V.em ∧ w.trap.inHandler = true := by
  have hw := mgmtTrap_inHandler (V.atEret.leftRun_spec h V.atEret.eretPath).1 V.kn (r := { V.atEret.trapReq 0x00B 0#64 V.em V.em with inHandler := true }) rfl
  have he : V.atEret.eret = _ := (View.eret_eq (V := V.atEret) hh).trans ((if_neg fun hn => hc.elim hn.1 hn.2).trans (if_pos hbad))
  refine ⟨_, _, (issue_ready hr _).trans (congrArg Host.Outcome.next ?_), hw, rfl, rfl, rfl, rfl, rfl, rfl⟩
  exact (congrArg (State.settle · V.cn V.qn V.wn) he).trans (settle_halted hw rfl)

theorem eret_escalates (h0 : V.w.trap.cause ≠ 0#9) (h49 : V.w.trap.cause ≠ 0x049#9) :
    ∃ t w p, exec .eret s = .next t ∧ V.warpIn t = some w ∧ w.handler = none ∧ w.trap.halted = true ∧ w.trap.escalated = true ∧
      w.trap.cause = V.w.trap.cause ∧ w.trap.epc = V.w.trap.epc ∧ w.trap.eva = V.w.trap.eva ∧ w.trap.fmask = V.w.trap.fmask ∧
      w.div.slot V.kn = some p ∧ p.pc = h.entryEpc.extractLsb' 0 48 := by
  obtain ⟨service, inHandler, hw, -⟩ :=
    mgmtTrap_takes (V.atEret.leftRun_spec h { V.atEret.eretPath with pc := h.entryEpc.extractLsb' 0 48 }).1 V.kn (V.atEret.escalation h)
  have he : V.atEret.eret = _ := (View.eret_eq (V := V.atEret) hh).trans (if_pos ⟨h0, h49⟩)
  refine ⟨_, _, _, (issue_ready hr _).trans (congrArg Host.Outcome.next ?_), hw, rfl, rfl, rfl,
    (BitVec.ofNat_toNat 9 V.w.trap.cause).trans (BitVec.setWidth_eq _), rfl, rfl, rfl, Div.slot_setSlot _ _ _, rfl⟩
  exact (congrArg (State.settle · V.cn V.qn V.wn) he).trans (settle_halted hw rfl)

end

/-- Settles O32: a slot enters the handler by `laneFault_enters`; ERET returns, is refused or escalates by its own lemmas, the registers come back by
`View.restoreSaved_rf`. -/
theorem inLaneHandler : Obligations.InLaneHandler := by
  unfold Obligations.InLaneHandler
  refine ⟨fun s V eva m => laneFault_enters, fun s V h hr hh _ => ?_⟩
  intro tr
  refine ⟨fun hc hm hcan hal => ?_, eret_refused hr hh, eret_escalates hr hh⟩
  obtain ⟨hw, hrf, hrest⟩ := V.atEret.leftRun_spec h (V.atEret.eretOnward h)
  obtain ⟨hresting, hmask, hdepth, hparked⟩ := V.atEret.eretOnward_keeps h
  obtain ⟨hsaved, hothers⟩ := V.atEret.restoreSaved_rf h
  refine ⟨_, _, (V.atEret.eretOnward h).offRun, eret_returns hr hh hc hm hcan hal, fun hother hn hpark hk => ?_, hw, rfl, rfl, Div.slot_setSlot _ _ _,
    hresting, rfl, hmask, hdepth, fun he => ?_, fun he hf => ?_, fun he hf hl => ?_, fun he hf hl => ?_, ?_, ?_, ?_⟩
  · cases hhalt : V.w.trap.halted with
    | true => exact settle_halted hw hhalt
    | false =>
      exact settle_single hw hhalt hk (Div.slot_setSlot _ _ _) ((Div.slot_other_setSlot _ _ _).trans hother) ((Div.setSlot_n _ _ _).trans hn)
        (hparked.trans hpark)
  · rw [V.atEret.eretOnward_elsewhere he]
    exact ⟨rfl, rfl⟩
  · rw [V.atEret.eretOnward_again he hf]
    exact ⟨rfl, rfl⟩
  · rw [V.atEret.eretOnward_past he hf, hl]
    exact ⟨rfl, rfl⟩
  · rw [V.atEret.eretOnward_past he hf, hl]
    exact ⟨rfl, rfl⟩
  · intro k hk
    exact (congrArg (Sparse.get 0#32 · _) hrf).trans (hsaved k hk)
  · intro j hj
    exact (congrArg (Sparse.get 0#32 · _) hrf).trans (hothers j hj)
  · rw [hrest]
    obtain rfl := (State.view_from hr.1).state
    rfl

end Sys2Proof.Machine
end

section
/-! SUPPORT. Page tables as firmware writes them (R233, R240): the cells that walks pass, nodes that are made, and what one leaf changes. -/
namespace Sys2Proof.Machine

/-! ### Memory under firmware's own writes -/

theorem memNat_congr {s t : State} {a n : Nat} (h : ∀ i, i < n → t.memByte (a + i) = s.memByte (a + i)) : t.memNat a n = s.memNat a n :=
  congrArg leNat (List.map_congr_left fun i hi => h i (List.mem_range.mp hi))

theorem memNat_lt (s : State) (a : Nat) : s.memNat a 8 < 2 ^ 64 := by
  have h := leNat_lt (s.memBytes a 8)
  rwa [State.memBytes, List.length_map, List.length_range] at h

theorem memByte_wipe (s : State) (pa n a : Nat) : (s.wipe pa n).memByte a = if pa ≤ a ∧ a < pa + n then 0#8 else s.memByte a := by
  have hget : Sparse.get 0#8 (s.wipe pa n).mem a = if pa ≤ a ∧ a < pa + n then 0#8 else Sparse.get 0#8 s.mem a := by
    simp [State.wipe, Sparse.get_clear]
  have hund : (s.wipe pa n).undefined.contains a = (s.undefined.contains a && !(decide (pa ≤ a) && decide (a < pa + n))) := by
    rw [Bool.eq_iff_iff]
    simp [State.wipe, List.mem_filter]
  unfold State.memByte
  rw [hund, hget]
  by_cases h : pa ≤ a ∧ a < pa + n
  · simp [h]
  · have : (decide (pa ≤ a) && decide (a < pa + n)) = false := by simpa using h
    simp only [this, h, if_false, Bool.not_false, Bool.and_true]
    rfl

theorem memByte_putEntry_other (s : State) {pa a : Nat} (e : Nat) (h : a < pa ∨ pa + 8 ≤ a) : (s.putEntry pa e).memByte a = s.memByte a := by
  rw [State.putEntry, memByte_pokeMem, length_toLe, if_neg (by omega)]

theorem memNat_putEntry_other (s : State) {pa a : Nat} (e : Nat) (h : a + 8 ≤ pa ∨ pa + 8 ≤ a) : (s.putEntry pa e).memNat a 8 = s.memNat a 8 :=
  memNat_congr fun i hi => memByte_putEntry_other s e (by omega)

theorem memNat_putEntry_same (s : State) (pa : Nat) {e : Nat} (he : e < 2 ^ 64) : (s.putEntry pa e).memNat pa 8 = e := by
  have hbytes : (s.putEntry pa e).memBytes pa 8 = toLe e 8 := by
    refine List.ext_getElem (by simp [State.memBytes, length_toLe]) fun i hi hi' => ?_
    have h8 : i < 8 := by simpa [length_toLe] using hi'
    simp only [State.memBytes, List.getElem_map, List.getElem_range]
    rw [State.putEntry, memByte_pokeMem, length_toLe, if_pos (by omega), Nat.add_sub_cancel_left, List.getD_eq_getElem _ _ hi']
  rw [State.memNat, hbytes, leNat_toLe]
  exact Nat.mod_eq_of_lt (by simpa using he)

theorem memNat_wipe_inside (s : State) {pa n a : Nat} (h : pa ≤ a) (h' : a + 8 ≤ pa + n) : (s.wipe pa n).memNat a 8 = 0 := by
  have hb : (s.wipe pa n).memBytes a 8 = List.replicate 8 0#8 := by
    refine List.eq_replicate_iff.mpr ⟨by simp [State.memBytes], fun b hb => ?_⟩
    obtain ⟨i, hi, rfl⟩ := List.mem_map.mp hb
    have := List.mem_range.mp hi
    rw [memByte_wipe, if_pos (by omega)]
  rw [State.memNat, hb]
  rfl

theorem memNat_wipe_outside (s : State) {pa n a : Nat} (h : a + 8 ≤ pa ∨ pa + n ≤ a) : (s.wipe pa n).memNat a 8 = s.memNat a 8 :=
  memNat_congr fun i hi => by rw [memByte_wipe, if_neg (by omega)]

/-! ### One cell of a walk -/

/-- What a walk finds at an entry of a level; `none` where it goes on to the next node (R233). -/
def readEntry (level : Nat) (e : Dword) : Option Walk :=
  if e.extractLsb' 48 16 ≠ 0#16 then some .error
  else if !e.getLsbD 0 then
    if e.extractLsb' 5 3 = 0#3 then some .unmapped
    else if !leafOk level e then some .error
    else if e.getLsbD 6 then some (.poisoned level e)
    else if e.getLsbD 5 then some (.firstTouch level e)
    else some (.migrating level e)
  else if e.getLsbD 1 then
    if !leafOk level e || e.getLsbD 5 || e.getLsbD 7 then some .error
    else if e.getLsbD 6 then some (.poisoned level e)
    else some (.leaf level e)
  else if !nodeOk level e then some .error
  else none

/-- What a walk finds at the cell of a level, with the memory that it stands in. -/
def State.look (s : State) (level a : Nat) : Option Walk :=
  if s.unreadable.contains (lineOf a) then some .error else readEntry level (BitVec.ofNat 64 (s.memNat a 8))
/-- The cell of a node that stands for an address. -/
def cellOf (level node va : Nat) : Nat := node + 8 * nodeIndex level va
/-- The node that the entry of a cell points to. -/
def State.nextNode (s : State) (a : Nat) : Nat := s.memNat a 8 / 256 % 2 ^ 40 * 256

theorem toNat_entry (s : State) (a : Nat) : (BitVec.ofNat 64 (s.memNat a 8)).toNat = s.memNat a 8 := by
  rw [BitVec.toNat_ofNat, Nat.mod_eq_of_lt (memNat_lt s a)]

theorem State.walkFrom_look (s : State) (va level node : Nat) : s.walkFrom va level node =
    (s.look level (cellOf level node va)).getD (match level with
      | 0 => .error
      | l + 1 => s.walkFrom va l (s.nextNode (cellOf (l + 1) node va))) := by
  cases level with
  | zero =>
    conv_lhs => unfold State.walkFrom
    dsimp only [State.look, readEntry, cellOf]
    generalize s.unreadable.contains _ = u, BitVec.ofNat 64 _ = e
    cases u with
    | true => rfl
    | false =>
      simp only [Bool.false_eq_true, false_or, if_false]
      split_ifs <;> rfl
  | succ l =>
    conv_lhs => unfold State.walkFrom
    dsimp only [State.look, readEntry, cellOf, State.nextNode]
    rw [toNat_entry]
    generalize s.walkFrom va l _ = k
    generalize s.unreadable.contains _ = u, BitVec.ofNat 64 _ = e
    cases u with
    | true => rfl
    | false =>
      simp only [Bool.false_eq_true, false_or, if_false]
      split_ifs <;> rfl

theorem walkFrom_some {s : State} {va level node : Nat} {w : Walk} (h : s.look level (cellOf level node va) = some w) : s.walkFrom va level node = w := by
  rw [State.walkFrom_look, h]
  rfl

theorem walkFrom_none {s : State} {va l node : Nat} (h : s.look (l + 1) (cellOf (l + 1) node va) = none) :
    s.walkFrom va (l + 1) node = s.walkFrom va l (s.nextNode (cellOf (l + 1) node va)) := by
  rw [State.walkFrom_look, h]
  rfl

end Sys2Proof.Machine
end

section
/-! SUPPORT. The nodes that a walk goes through, and what a change of one cell does to walks (R233). -/
namespace Sys2Proof.Machine

/-! ### Entries -/

theorem readEntry_none_pointer {l : Nat} {e : Dword} (h : readEntry l e = none) : e.toNat % 4 = 1 := by
  have hbits : e.getLsbD 0 = true ∧ e.getLsbD 1 = false := by
    unfold readEntry at h
    split_ifs at h
    simp_all
  obtain ⟨h0, h1⟩ := hbits
  simp only [BitVec.getLsbD, Nat.testBit_eq_decide_div_mod_eq, decide_eq_true_eq, decide_eq_false_iff_not] at h0 h1
  omega

/-- An empty cell. -/
theorem readEntry_zero (l : Nat) : readEntry l 0#64 = some .unmapped := by
  unfold readEntry
  simp

theorem look_pointer {s : State} {l a : Nat} (h : s.look l a = none) : s.memNat a 8 % 4 = 1 := by
  unfold State.look at h
  split_ifs at h
  rw [← toNat_entry]
  exact readEntry_none_pointer h

theorem look_congr {s t : State} {a : Nat} (l : Nat) (hm : t.memNat a 8 = s.memNat a 8) (hu : t.unreadable = s.unreadable) : t.look l a = s.look l a := by
  unfold State.look
  rw [hm, hu]

theorem nextNode_congr {s t : State} {a : Nat} (hm : t.memNat a 8 = s.memNat a 8) : t.nextNode a = s.nextNode a := by
  unfold State.nextNode
  rw [hm]

/-! ### Cells -/

theorem cellsFrom_last {s : State} {v l node : Nat} (h : s.memNat (cellOf l node v) 8 % 4 ≠ 1) : s.cellsFrom v l node = [(l, cellOf l node v)] := by
  unfold State.cellsFrom
  exact congrArg (List.cons (l, cellOf l node v)) (if_neg h)

theorem cellsFrom_next {s : State} {v l node : Nat} (h : s.memNat (cellOf (l + 1) node v) 8 % 4 = 1) :
    s.cellsFrom v (l + 1) node = (l + 1, cellOf (l + 1) node v) :: s.cellsFrom v l (s.nextNode (cellOf (l + 1) node v)) := by
  conv_lhs => unfold State.cellsFrom
  exact congrArg (List.cons (l + 1, cellOf (l + 1) node v)) (if_pos h)

theorem cellsFrom_zero {s : State} {v node : Nat} : s.cellsFrom v 0 node = [(0, cellOf 0 node v)] := by
  unfold State.cellsFrom
  exact congrArg (List.cons (0, cellOf 0 node v)) (ite_self _)

theorem cellsFrom_head (s : State) (v l node : Nat) : (l, cellOf l node v) ∈ s.cellsFrom v l node := by
  by_cases h : s.memNat (cellOf l node v) 8 % 4 = 1
  · cases l with
    | zero => simp [cellsFrom_zero]
    | succ l => simp [cellsFrom_next h]
  · simp [cellsFrom_last h]

/-- Walks and their cells depend only on the cells passed. -/
theorem walkFrom_congr {s t : State} {v : Nat} (hu : t.unreadable = s.unreadable) : ∀ {l node : Nat},
    (∀ d ∈ s.cellsFrom v l node, t.memNat d.2 8 = s.memNat d.2 8) → t.walkFrom v l node = s.walkFrom v l node ∧ t.cellsFrom v l node = s.cellsFrom v l node := by
  intro l
  induction l with
  | zero =>
    intro node h
    have hc : t.memNat (cellOf 0 node v) 8 = s.memNat (cellOf 0 node v) 8 := h (0, cellOf 0 node v) (cellsFrom_head s v 0 node)
    rw [State.walkFrom_look, State.walkFrom_look s, look_congr 0 hc hu, cellsFrom_zero, cellsFrom_zero]
    exact ⟨rfl, rfl⟩
  | succ l ih =>
    intro node h
    have hc : t.memNat (cellOf (l + 1) node v) 8 = s.memNat (cellOf (l + 1) node v) 8 := h (l + 1, cellOf (l + 1) node v) (cellsFrom_head s v (l + 1) node)
    have hnext := nextNode_congr hc
    rw [State.walkFrom_look, State.walkFrom_look s, look_congr (l + 1) hc hu]
    dsimp only
    by_cases hp : s.memNat (cellOf (l + 1) node v) 8 % 4 = 1
    · obtain ⟨hw, hcs⟩ := ih (node := s.nextNode (cellOf (l + 1) node v)) fun d hd => h d (by rw [cellsFrom_next hp]; exact List.mem_cons_of_mem _ hd)
      rw [cellsFrom_next (by rw [hc, hp]), cellsFrom_next hp, hnext, hw, hcs]
      exact ⟨rfl, rfl⟩
    · rw [cellsFrom_last (by rwa [hc]), cellsFrom_last hp]
      refine ⟨?_, rfl⟩
      cases hl : s.look (l + 1) (cellOf (l + 1) node v) with
      | none => exact absurd (look_pointer hl) hp
      | some w => rfl

theorem walk_cells_congr {s t : State} {ctx v : Nat} (hu : t.unreadable = s.unreadable) (hr : (t.ctx ctx).root = (s.ctx ctx).root)
    (h : ∀ d ∈ s.cells ctx v, t.memNat d.2 8 = s.memNat d.2 8) : t.walk ctx v = s.walk ctx v ∧ t.cells ctx v = s.cells ctx v := by
  unfold State.walk State.cells
  rw [hr]
  cases hroot : (s.ctx ctx).root with
  | none => exact ⟨rfl, rfl⟩
  | some r => exact walkFrom_congr hu fun d hd => h d (by rwa [State.cells, hroot])

/-! ### The way of a walk -/

/-- A walk to an address comes from a root to a node of a level. -/
inductive State.Leads (s : State) (root va : Nat) : Nat → Nat → Prop where
  | root : State.Leads s root va 3 root
  | down {l node : Nat} : State.Leads s root va (l + 1) node → s.look (l + 1) (cellOf (l + 1) node va) = none →
      State.Leads s root va l (s.nextNode (cellOf (l + 1) node va))

namespace State.Leads
variable {s t : State} {root v x l node : Nat}

theorem level_le (h : s.Leads root v l node) : l ≤ 3 := by
  induction h with
  | root => exact Nat.le_refl 3
  | down _ _ ih => omega

theorem walkFrom (h : s.Leads root v l node) : s.walkFrom v 3 root = s.walkFrom v l node := by
  induction h with
  | root => rfl
  | down _ hl ih => rw [ih, walkFrom_none hl]

theorem cells (h : s.Leads root v l node) : ∀ d ∈ s.cellsFrom v l node, d ∈ s.cellsFrom v 3 root := by
  induction h with
  | root => exact fun _ hd => hd
  | down _ hl ih => exact fun d hd => ih d (by rw [cellsFrom_next (look_pointer hl)]; exact List.mem_cons_of_mem _ hd)

theorem cell (h : s.Leads root v l node) : (l, cellOf l node v) ∈ s.cellsFrom v 3 root := h.cells _ (cellsFrom_head s v l node)

/-- An address with the same indices above the level comes to the same node. -/
theorem shared (h : s.Leads root v l node) : (∀ k, l < k → k ≤ 3 → nodeIndex k x = nodeIndex k v) → s.Leads root x l node := by
  induction h with
  | root => exact fun _ => .root
  | @down l node hv hl ih =>
    intro hi
    have hc : cellOf (l + 1) node x = cellOf (l + 1) node v := by rw [cellOf, cellOf, hi (l + 1) (Nat.lt_succ_self l) hv.level_le]
    rw [← hc]
    exact .down (ih fun k hk => hi k (by omega)) (hc ▸ hl)

/-- The way is the same in a state that keeps the cells above its end, and the cells of the whole walk are those above with those of the rest. -/
theorem moved (h : s.Leads root v l node) (hu : t.unreadable = s.unreadable) :
    (∀ d ∈ s.cellsFrom v 3 root, l < d.1 → t.memNat d.2 8 = s.memNat d.2 8) →
      t.Leads root v l node ∧ ∀ d ∈ t.cellsFrom v 3 root, d ∈ s.cellsFrom v 3 root ∨ d ∈ t.cellsFrom v l node := by
  induction h with
  | root => exact fun _ => ⟨.root, fun _ hd => .inr hd⟩
  | @down l node hv hl ih =>
    intro hm
    obtain ⟨hway, hcells⟩ := ih fun d hd hlt => hm d hd (by omega)
    have hc := hm _ hv.cell (Nat.lt_succ_self l)
    have hl' : t.look (l + 1) (cellOf (l + 1) node v) = none := (look_congr (l + 1) hc hu).trans hl
    rw [← nextNode_congr hc]
    refine ⟨.down hway hl', fun d hd => ?_⟩
    rcases hcells d hd with hd | hd
    · exact .inl hd
    · rw [cellsFrom_next (look_pointer hl')] at hd
      rcases List.mem_cons.mp hd with rfl | hd
      · exact .inl hv.cell
      · exact .inr hd

end State.Leads

end Sys2Proof.Machine
end

section
/-! SUPPORT. Tables that stand in firmware's memory stay so, and a write of one cell changes the walks through it alone (R233, R240). -/
namespace Sys2Proof.Machine

/-! ### Spans -/

/-- Two addresses stand under one cell of a level. -/
def SameSpan (l x v : Nat) : Prop := x % 2 ^ 48 / 2 ^ spanBits l = v % 2 ^ 48 / 2 ^ spanBits l

theorem SameSpan.refl (l x : Nat) : SameSpan l x x := rfl

theorem SameSpan.index {l x v : Nat} (h : SameSpan l x v) (hl : l ≤ 3) (k : Nat) (hlk : l ≤ k) (hk : k ≤ 3) : nodeIndex k x = nodeIndex k v := by
  unfold SameSpan spanBits at h
  unfold nodeIndex
  interval_cases l <;> interval_cases k <;> norm_num at h ⊢ <;> omega

theorem SameSpan.below {l x v : Nat} (hl : l < 3) (h : SameSpan (l + 1) x v) (hi : nodeIndex l x = nodeIndex l v) : SameSpan l x v := by
  unfold SameSpan spanBits at *
  unfold nodeIndex at hi
  interval_cases l <;> norm_num at h hi ⊢ <;> omega

theorem sameSpan_root {x v : Nat} (h : nodeIndex 3 x = nodeIndex 3 v) : SameSpan 3 x v := by
  unfold SameSpan spanBits
  unfold nodeIndex at h
  norm_num at h ⊢
  omega

theorem sameSpan_page {z x v : Nat} (hz : z ≤ 2) : SameSpan z x v ↔ x % 2 ^ 48 / pageSize z = v % 2 ^ 48 / pageSize z := by
  unfold SameSpan spanBits pageSize
  interval_cases z <;> norm_num

theorem nodeIndex_lt (l v : Nat) : nodeIndex l v < 512 := by
  unfold nodeIndex
  split_ifs <;> omega

/-! ### Soundness -/

theorem State.tablesSound.low {s : State} {ctx n : Nat} (h : s.tablesSound ctx n) : 0x03EF00000000 ≤ s.nodeNext := And.left h
theorem State.tablesSound.aligned {s : State} {ctx n : Nat} (h : s.tablesSound ctx n) : s.nodeNext % 4096 = 0 := by
  obtain ⟨-, hal, -⟩ := h
  exact hal
theorem State.tablesSound.readable {s : State} {ctx n : Nat} (h : s.tablesSound ctx n) : ∀ l ∈ s.unreadable, 256 * l < 0x03EF00000000 := by
  obtain ⟨-, -, -, hread, -⟩ := h
  exact hread

theorem State.tablesSound.mono {s : State} {ctx m n : Nat} (h : s.tablesSound ctx n) (hmn : m ≤ n) : s.tablesSound ctx m := by
  obtain ⟨hlow, hal, hroom, hrest⟩ := h
  exact ⟨hlow, hal, by omega, hrest⟩

theorem readable_of_high {s : State} (h : ∀ l ∈ s.unreadable, 256 * l < 0x03EF00000000) {a : Nat} (ha : 0x03EF00000000 ≤ a) :
    s.unreadable.contains (lineOf a) = false := by
  rw [Bool.eq_false_iff]
  intro hc
  have := h _ (List.contains_iff_mem.mp hc)
  unfold lineOf at this
  omega

/-- What a walk finds at a cell of firmware's memory is its entry. -/
theorem look_nodes {s : State} (h : ∀ l ∈ s.unreadable, 256 * l < 0x03EF00000000) {a : Nat} (ha : 0x03EF00000000 ≤ a) (l : Nat) :
    s.look l a = readEntry l (BitVec.ofNat 64 (s.memNat a 8)) := by
  rw [State.look, if_neg (by rw [readable_of_high h ha]; decide)]

/-- Tables whose cells are among those of sound tables are sound. -/
theorem tablesSound_of_cells {s t : State} {ctx n : Nat} (h : s.tablesSound ctx n) (hn : t.nodeNext = s.nodeNext) (hu : t.unreadable = s.unreadable)
    (hc : ∀ v, ∀ d ∈ t.cells ctx v, d ∈ s.cells ctx v) : t.tablesSound ctx n := by
  obtain ⟨hlow, hal, hroom, hread, hin, hapart⟩ := h
  unfold State.tablesSound
  rw [hn, hu]
  exact ⟨hlow, hal, hroom, hread, fun v c hv => hin v c (hc v c hv), fun v w c hv d hw => hapart v w c (hc v c hv) d (hc w d hw)⟩

theorem State.Leads.cellOf_shared {s : State} {root va l node x : Nat} (hl : s.Leads root va l node) (hx : SameSpan l x va) : cellOf l node x = cellOf l node va := by
  rw [cellOf, cellOf, hx.index hl.level_le l (Nat.le_refl l) hl.level_le]

/-! ### One cell written -/

/-- A state whose memory differs from another's, among the cells that tables have, in one cell alone. -/
structure CellWritten (s t : State) (ctx root c : Nat) : Prop where
  rooted : (s.ctx ctx).root = some root
  rooted' : (t.ctx ctx).root = some root
  unreadable : t.unreadable = s.unreadable
  others : ∀ a, 0x03EF00000000 ≤ a → a + 8 ≤ s.nodeNext → (a + 8 ≤ c ∨ c + 8 ≤ a) → t.memNat a 8 = s.memNat a 8

namespace CellWritten
variable {s t : State} {ctx root va l node n : Nat} (h : CellWritten s t ctx root (cellOf l node va)) (hs : s.tablesSound ctx n)
  (hl : s.Leads root va l node)
include h hs hl

/-- A cell of a walk is the written one, of its level and of an address that shares it, or it is as it was. -/
theorem kept_or_shared (x : Nat) {d : Nat × Nat} (hd : d ∈ s.cells ctx x) :
    t.memNat d.2 8 = s.memNat d.2 8 ∨ d = (l, cellOf l node va) ∧ SameSpan l x va := by
  obtain ⟨-, -, -, -, hin, hapart⟩ := hs
  have hc : (l, cellOf l node va) ∈ s.cells ctx va := by
    rw [State.cells, h.rooted]
    exact hl.cell
  obtain ⟨hbase, hend⟩ := hin x d hd
  by_cases hov : d.2 < cellOf l node va + 8 ∧ cellOf l node va < d.2 + 8
  · obtain ⟨rfl, hspan⟩ := hapart x va d hd _ hc hov.1 hov.2
    exact .inr ⟨rfl, hspan⟩
  · exact .inl (h.others _ hbase hend (by omega))

theorem apart {x : Nat} (hx : ¬ SameSpan l x va) : t.walk ctx x = s.walk ctx x ∧ t.cells ctx x = s.cells ctx x :=
  walk_cells_congr h.unreadable (h.rooted'.trans h.rooted.symm) fun _ hd => (h.kept_or_shared hs hl x hd).resolve_right fun hn => hx hn.2

theorem leads {x : Nat} (hx : SameSpan l x va) : s.Leads root x l node ∧ t.Leads root x l node ∧
    ∀ d ∈ t.cells ctx x, d ∈ s.cells ctx x ∨ d ∈ t.cellsFrom x l node := by
  have hxs : s.Leads root x l node := hl.shared fun k hlk hk => hx.index hl.level_le k (by omega) hk
  have hmoved := hxs.moved h.unreadable fun d hd hlt => (h.kept_or_shared hs hl x (by rwa [State.cells, h.rooted])).resolve_right fun hn => by
    rw [hn.1] at hlt
    exact Nat.lt_irrefl l hlt
  refine ⟨hxs, hmoved.1, ?_⟩
  rw [State.cells, h.rooted', State.cells, h.rooted]
  exact hmoved.2

/-- What a walk finds through the written cell is what it finds from there on. -/
theorem walk_shared {x : Nat} (hx : SameSpan l x va) : t.walk ctx x = t.walkFrom x l node ∧ s.walk ctx x = s.walkFrom x l node := by
  obtain ⟨hxs, hxt, -⟩ := h.leads hs hl hx
  rw [State.walk, State.walk, h.rooted, h.rooted']
  exact ⟨hxt.walkFrom, hxs.walkFrom⟩

/-- The tables stay sound where the cell points nowhere. -/
theorem sound_of_leaf (hn : t.nodeNext = s.nodeNext) (he : t.memNat (cellOf l node va) 8 % 4 ≠ 1) : t.tablesSound ctx n := by
  refine tablesSound_of_cells hs hn h.unreadable fun v d hd => ?_
  by_cases hv : SameSpan l v va
  · obtain ⟨hvs, -, hcells⟩ := h.leads hs hl hv
    refine (hcells d hd).elim id fun hd => ?_
    rw [cellsFrom_last (by rwa [hl.cellOf_shared hv])] at hd
    rw [List.mem_singleton.mp hd, State.cells, h.rooted]
    exact hvs.cell
  · rwa [(h.apart hs hl hv).2] at hd

end CellWritten

end Sys2Proof.Machine
end

section
/-! SUPPORT. Nodes that firmware makes, and the leaf that it sets (R233, R240). -/
namespace Sys2Proof.Machine

/-! ### Entries that firmware writes -/

theorem written_bit {pa f : Nat} (hpa : pa % 256 = 0) {i : Nat} (hi : i < 8) : (BitVec.ofNat 64 (pa + f)).getLsbD i = (BitVec.ofNat 8 f).getLsbD i := by
  have hmod : (pa + f) % 2 ^ 8 = f % 2 ^ 8 := by omega
  have hbit := congrArg (Nat.testBit · i) hmod
  simp only [Nat.testBit_mod_two_pow, hi, decide_true, Bool.true_and] at hbit
  simp only [BitVec.getLsbD_ofNat, hi, Nat.lt_of_lt_of_le hi (by decide : 8 ≤ 64), decide_true, Bool.true_and, hbit]

theorem written_low {pa f : Nat} (hpa : pa % 256 = 0) {k m : Nat} (hkm : k + m ≤ 8) :
    (BitVec.ofNat 64 (pa + f)).extractLsb' k m = (BitVec.ofNat 8 f).extractLsb' k m := by
  apply BitVec.eq_of_getLsbD_eq
  intro i hi
  rw [BitVec.getLsbD_extractLsb', BitVec.getLsbD_extractLsb', written_bit hpa (by omega)]

section
variable {pa f : Nat} (hpa : pa % 256 = 0) (hlt : pa < 2 ^ 48) (hf : f < 256)
include hpa hlt hf

theorem toNat_written : (BitVec.ofNat 64 (pa + f)).toNat = pa + f := by
  rw [BitVec.toNat_ofNat]
  omega

theorem written_high : (BitVec.ofNat 64 (pa + f)).extractLsb' 48 16 = 0#16 := by
  apply BitVec.eq_of_toNat_eq
  rw [BitVec.extractLsb'_toNat, toNat_written hpa hlt hf, Nat.shiftRight_eq_div_pow]
  simp only [BitVec.toNat_ofNat]
  omega

theorem written_address : (BitVec.ofNat 64 (pa + f)).toNat / 256 % 2 ^ 40 * 256 = pa := by
  rw [toNat_written hpa hlt hf]
  omega

end

/-- A pointer to an aligned node lets the walk go on. -/
theorem readEntry_pointer {n l : Nat} (hal : n % 4096 = 0) (hlt : n < 2 ^ 48) : readEntry (l + 1) (BitVec.ofNat 64 (n + 1)) = none := by
  have h8 : n % 256 = 0 := by omega
  have hnode : n % nodeAlign (l + 1) = 0 := by
    unfold nodeAlign
    split_ifs <;> omega
  unfold readEntry nodeOk
  rw [written_high h8 hlt (by decide), written_address h8 hlt (by decide), written_bit h8 (show 0 < 8 by decide),
    written_bit h8 (show 1 < 8 by decide), written_low h8 (show 2 + 6 ≤ 8 by decide), hnode]
  simp

/-! ### A node made -/

/-- A zeroed node of firmware's memory, with an entry of a cell that points to it. -/
def State.addNode (s : State) (c : Nat) : State := { (s.wipe s.nodeNext 4096).putEntry c (s.nodeNext + 1) with nodeNext := s.nodeNext + 4096 }

theorem addNode_written {s : State} {ctx root : Nat} (hroot : (s.ctx ctx).root = some root) (c : Nat) : CellWritten s (s.addNode c) ctx root c where
  rooted := hroot
  rooted' := hroot
  unreadable := rfl
  others _ _ hend hapart := (memNat_putEntry_other (s.wipe s.nodeNext 4096) _ hapart).trans (memNat_wipe_outside s (.inl hend))

theorem addNode_pointer {s : State} {ctx n : Nat} (hs : s.tablesSound ctx (n + 1)) (c : Nat) : (s.addNode c).memNat c 8 = s.nodeNext + 1 := by
  obtain ⟨-, -, hroom, -⟩ := hs
  exact memNat_putEntry_same (s.wipe s.nodeNext 4096) c (by omega)

theorem addNode_next {s : State} {ctx n : Nat} (hs : s.tablesSound ctx (n + 1)) (c : Nat) : (s.addNode c).nextNode c = s.nodeNext := by
  rw [State.nextNode, addNode_pointer hs]
  obtain ⟨-, hal, hroom, -⟩ := hs
  omega

section
variable {s : State} {ctx root va l node n : Nat} (hs : s.tablesSound ctx n) (hroot : (s.ctx ctx).root = some root) (hl : s.Leads root va l node)
include hs hroot hl

theorem cell_in_nodes : 0x03EF00000000 ≤ cellOf l node va ∧ cellOf l node va + 8 ≤ s.nodeNext := by
  obtain ⟨-, -, -, -, hin, -⟩ := hs
  exact hin va (l, cellOf l node va) (by rw [State.cells, hroot]; exact hl.cell)
end

section
variable {s : State} {ctx root va l node n : Nat} (hs : s.tablesSound ctx (n + 1)) (hroot : (s.ctx ctx).root = some root)
  (hl : s.Leads root va (l + 1) node)
include hs hroot hl

theorem addNode_empty (k x : Nat) : (s.addNode (cellOf (l + 1) node va)).memNat (cellOf k s.nodeNext x) 8 = 0 := by
  obtain ⟨hbase, hend⟩ := cell_in_nodes hs hroot hl
  have hi := nodeIndex_lt k x
  refine (memNat_putEntry_other (s.wipe s.nodeNext 4096) (s.nodeNext + 1) (.inr ?_)).trans (memNat_wipe_inside s ?_ ?_) <;> unfold cellOf at * <;> omega

/-- An empty node answers with no page. -/
theorem addNode_look (k x : Nat) : (s.addNode (cellOf (l + 1) node va)).look k (cellOf k s.nodeNext x) = some .unmapped := by
  have hempty := addNode_empty hs hroot hl k x
  obtain ⟨hlow, -, -, hread, -⟩ := hs
  have hhigh : 0x03EF00000000 ≤ cellOf k s.nodeNext x := hlow.trans (Nat.le_add_right _ _)
  rw [look_nodes (s := s.addNode _) hread hhigh, hempty]
  exact readEntry_zero k

theorem addNode_leads {x : Nat} (hx : SameSpan (l + 1) x va) : (s.addNode (cellOf (l + 1) node va)).Leads root x l s.nodeNext := by
  have hptr := addNode_pointer hs (cellOf (l + 1) node va)
  have hnext := addNode_next hs (cellOf (l + 1) node va)
  obtain ⟨-, hway, -⟩ := (addNode_written hroot _).leads hs hl hx
  have hshared := hl.cellOf_shared hx
  obtain ⟨hbase, -⟩ := cell_in_nodes hs hroot hl
  obtain ⟨-, hal, hroom, hread, -⟩ := hs
  have hlook' : (s.addNode (cellOf (l + 1) node va)).look (l + 1) (cellOf (l + 1) node x) = none := by
    rw [hshared, look_nodes (s := s.addNode _) hread hbase, hptr]
    exact readEntry_pointer hal (by omega)
  have hdown := State.Leads.down hway hlook'
  rwa [hshared, hnext] at hdown

theorem addNode_walk (hlook : s.look (l + 1) (cellOf (l + 1) node va) = some .unmapped) (x : Nat) :
    (s.addNode (cellOf (l + 1) node va)).walk ctx x = s.walk ctx x := by
  have hw := addNode_written hroot (cellOf (l + 1) node va)
  by_cases hx : SameSpan (l + 1) x va
  · have hnew : (s.addNode (cellOf (l + 1) node va)).walk ctx x = .unmapped := by
      rw [State.walk, hw.rooted', ← walkFrom_some (addNode_look hs hroot hl l x)]
      exact (addNode_leads hs hroot hl hx).walkFrom
    rw [hnew, (hw.walk_shared hs hl hx).2, walkFrom_some (by rw [hl.cellOf_shared hx]; exact hlook)]
  · exact (hw.apart hs hl hx).1

/-- The cells of a walk after a node has been made: those that there were, and one of the new node under the cell that points to it. -/
theorem addNode_cells (x : Nat) {d : Nat × Nat} (hd : d ∈ (s.addNode (cellOf (l + 1) node va)).cells ctx x) :
    d ∈ s.cells ctx x ∨ d = (l, cellOf l s.nodeNext x) ∧ SameSpan (l + 1) x va := by
  have hw := addNode_written hroot (cellOf (l + 1) node va)
  by_cases hx : SameSpan (l + 1) x va
  · obtain ⟨hxs, -, hcells⟩ := hw.leads hs hl hx
    refine (hcells d hd).elim .inl fun hd => ?_
    have hptr := addNode_pointer hs (cellOf (l + 1) node va)
    have hnext := addNode_next hs (cellOf (l + 1) node va)
    have hmod : (s.nodeNext + 1) % 4 = 1 := by
      have := hs.aligned
      omega
    rw [cellsFrom_next (by rw [hl.cellOf_shared hx, hptr, hmod]), hl.cellOf_shared hx, hnext, cellsFrom_last (by rw [addNode_empty hs hroot hl]; decide)] at hd
    rcases List.mem_cons.mp hd with rfl | hd
    · left
      rw [State.cells, hroot, ← hl.cellOf_shared hx]
      exact hxs.cell
    · exact .inr ⟨List.mem_singleton.mp hd, hx⟩
  · exact .inl ((hw.apart hs hl hx).2 ▸ hd)

/-- The tables are sound with the node, for which there was room. -/
theorem addNode_sound : (s.addNode (cellOf (l + 1) node va)).tablesSound ctx n := by
  have hcells := fun x d => addNode_cells hs hroot hl x (d := d)
  have hlevel := hl.level_le
  obtain ⟨hlow, hal, hroom, hread, hin, hapart⟩ := hs
  have hnext : (s.addNode (cellOf (l + 1) node va)).nodeNext = s.nodeNext + 4096 := rfl
  have hnew (x : Nat) : s.nodeNext ≤ cellOf l s.nodeNext x ∧ cellOf l s.nodeNext x + 8 ≤ s.nodeNext + 4096 := by
    have := nodeIndex_lt l x
    unfold cellOf
    omega
  unfold State.tablesSound
  rw [hnext]
  refine ⟨hlow.trans (Nat.le_add_right _ _), by omega, by omega, hread, fun v c hc => ?_, fun v w c hc d hd hcd hdc => ?_⟩
  · have := hnew v
    rcases hcells v c hc with hc | ⟨rfl, -⟩
    · have := hin v c hc
      omega
    · dsimp only
      omega
  · have hv := hnew v
    have hw := hnew w
    rcases hcells v c hc with hc | ⟨rfl, hvs⟩ <;> rcases hcells w d hd with hd | ⟨rfl, hws⟩
    · exact hapart v w c hc d hd hcd hdc
    · have := hin v c hc
      dsimp only at hdc
      omega
    · have := hin w d hd
      dsimp only at hcd
      omega
    · have hi : nodeIndex l v = nodeIndex l w := by
        unfold cellOf at hcd hdc
        dsimp only at hcd hdc
        omega
      exact ⟨by rw [cellOf, cellOf, hi], SameSpan.below (by omega) (hvs.trans hws.symm) hi⟩
end

/-! ### The node of a level -/

end Sys2Proof.Machine
end

section
/-! SUPPORT. The walk down to a level with the nodes made on the way, and a context's root (R233, R240). -/
namespace Sys2Proof.Machine

/-! ### What entries answer -/

/-- The level and entry of a page that a walk finds, mapped or promised. -/
def Walk.page : Walk → Option (Nat × Dword)
  | .leaf z e => some (z, e)
  | .firstTouch z e => some (z, e)
  | .poisoned z e => some (z, e)
  | .migrating z e => some (z, e)
  | .unmapped => none
  | .error => none

theorem State.pageAt_eq (s : State) (ctx va : Nat) : s.pageAt ctx va = (s.walk ctx va).page := by
  unfold State.pageAt
  cases s.walk ctx va <;> rfl

theorem readEntry_page {l z : Nat} {e d : Dword} {w : Walk} (h : readEntry l e = some w) (hp : w.page = some (z, d)) : z = l ∧ d = e := by
  unfold readEntry at h
  split_ifs at h <;> cases h <;> cases hp <;> exact ⟨rfl, rfl⟩

/-- A page's entry points to no node. -/
theorem readEntry_page_low {l : Nat} {e : Dword} {w : Walk} {p : Nat × Dword} (h : readEntry l e = some w) (hp : w.page = some p) : e.toNat % 4 ≠ 1 := by
  have hbits : e.getLsbD 0 = false ∨ e.getLsbD 1 = true := by
    unfold readEntry at h
    split_ifs at h <;> cases h <;> cases hp <;> simp_all
  simp only [BitVec.getLsbD, Nat.testBit_eq_decide_div_mod_eq, decide_eq_true_eq, decide_eq_false_iff_not] at hbits
  omega

theorem readEntry_unmapped {l : Nat} {e : Dword} (h : readEntry l e = some .unmapped) : e.getLsbD 0 = false := by
  unfold readEntry at h
  split_ifs at h <;> simp_all

theorem look_page {s : State} {l a z : Nat} {d : Dword} {w : Walk} (h : s.look l a = some w) (hp : w.page = some (z, d)) :
    z = l ∧ readEntry l d = some w := by
  unfold State.look at h
  split_ifs at h
  · cases h
    cases hp
  · obtain ⟨hz, rfl⟩ := readEntry_page h hp
    exact ⟨hz, h⟩

theorem look_unmapped {s : State} {l a : Nat} (h : s.look l a = some .unmapped) : s.memNat a 8 % 4 ≠ 1 := by
  unfold State.look at h
  split_ifs at h
  · cases h
  have h0 := readEntry_unmapped h
  rw [BitVec.getLsbD, toNat_entry, Nat.testBit_zero, decide_eq_false_iff_not] at h0
  omega

/-! ### Walks kept -/

/-- Firmware's own memory has changed, and no walk of a context's table with it. -/
structure Renoded (ctx : Nat) (s t : State) : Prop where
  walk : ∀ x, t.walk ctx x = s.walk ctx x
  low : ∀ a, a < 0x03EF00000000 → t.memByte a = s.memByte a

theorem Renoded.refl (ctx : Nat) (s : State) : Renoded ctx s s := ⟨fun _ => rfl, fun _ _ => rfl⟩
theorem Renoded.trans {ctx : Nat} {s t u : State} (h : Renoded ctx s t) (k : Renoded ctx t u) : Renoded ctx s u :=
  ⟨fun x => (k.walk x).trans (h.walk x), fun a ha => (k.low a ha).trans (h.low a ha)⟩

theorem addNode_renoded {s : State} {ctx root va l node n : Nat} (hs : s.tablesSound ctx (n + 1)) (hroot : (s.ctx ctx).root = some root)
    (hl : s.Leads root va (l + 1) node) (hlook : s.look (l + 1) (cellOf (l + 1) node va) = some .unmapped) : Renoded ctx s (s.addNode (cellOf (l + 1) node va)) where
  walk := addNode_walk hs hroot hl hlook
  low a ha := by
    obtain ⟨hbase, -⟩ := cell_in_nodes hs hroot hl
    have hnext := hs.low
    refine (memByte_putEntry_other (s.wipe s.nodeNext 4096) (s.nodeNext + 1) (by omega)).trans ?_
    rw [memByte_wipe, if_neg (by omega)]

/-! ### The node of a level -/

/-- The page of an address may be set at a level: none is there, or one of that level. -/
def State.opens (s : State) (ctx va z : Nat) : Prop := s.walk ctx va = .unmapped ∨ ∃ e, (s.walk ctx va).page = some (z, e)

theorem State.opens.congr {s t : State} {ctx va z : Nat} (h : s.opens ctx va z) (hw : t.walk ctx va = s.walk ctx va) : t.opens ctx va z := by
  unfold State.opens
  rwa [hw]

theorem nodeFor_stop (s : State) (va l node : Nat) : s.nodeFor va (l + 1) (l + 1) node = (s, node) := by
  unfold State.nodeFor
  exact if_pos rfl

theorem nodeFor_pointer {s : State} {va stop l node : Nat} (hne : l + 1 ≠ stop) (hp : s.memNat (cellOf (l + 1) node va) 8 % 4 = 1) :
    s.nodeFor va stop (l + 1) node = s.nodeFor va stop l (s.nextNode (cellOf (l + 1) node va)) := by
  conv_lhs => unfold State.nodeFor
  rw [if_neg hne]
  exact if_pos hp

theorem nodeFor_made {s : State} {va stop l node : Nat} (hne : l + 1 ≠ stop) (hp : s.memNat (cellOf (l + 1) node va) 8 % 4 ≠ 1) :
    s.nodeFor va stop (l + 1) node = (s.addNode (cellOf (l + 1) node va)).nodeFor va stop l s.nodeNext := by
  conv_lhs => unfold State.nodeFor
  rw [if_neg hne]
  exact if_neg hp

/-- Where a walk is open at a level, firmware comes to the level's node for it: walks stay as they were, and the tables sound. -/
theorem nodeFor_spec {ctx root va stop n : Nat} : ∀ {l : Nat} {s : State} {node : Nat}, stop ≤ l → s.tablesSound ctx (n + l) → (s.ctx ctx).root = some root →
    s.Leads root va l node → s.opens ctx va stop →
    Renoded ctx s (s.nodeFor va stop l node).1 ∧ (s.nodeFor va stop l node).1.tablesSound ctx n ∧ ((s.nodeFor va stop l node).1.ctx ctx).root = some root ∧
      (s.nodeFor va stop l node).1.Leads root va stop (s.nodeFor va stop l node).2 := by
  intro l
  induction l with
  | zero =>
    intro s node hstop hs hroot hl _
    obtain rfl : stop = 0 := by omega
    exact ⟨.refl ctx s, hs, hroot, hl⟩
  | succ l ih =>
    intro s node hstop hs hroot hl hopen
    by_cases hne : l + 1 = stop
    · subst hne
      rw [nodeFor_stop]
      exact ⟨.refl ctx s, hs.mono (Nat.le_add_right _ _), hroot, hl⟩
    · have hstop' : stop ≤ l := by omega
      cases hlook : s.look (l + 1) (cellOf (l + 1) node va) with
      | none =>
        rw [nodeFor_pointer hne (look_pointer hlook)]
        exact ih hstop' (hs.mono (Nat.le_succ _)) hroot (.down hl hlook) hopen
      | some w =>
        have hw : s.walk ctx va = w := by
          rw [State.walk, hroot]
          exact hl.walkFrom.trans (walkFrom_some hlook)
        have hun : w = .unmapped := by
          rcases hopen with h | ⟨e, he⟩
          · exact hw.symm.trans h
          · rw [hw] at he
            exact absurd (look_page hlook he).1.symm hne
        subst hun
        rw [nodeFor_made hne (look_unmapped hlook)]
        have hren := addNode_renoded hs hroot hl hlook
        obtain ⟨hren', hsound, hroot', hleads⟩ := ih hstop' (addNode_sound hs hroot hl) hroot (addNode_leads hs hroot hl (SameSpan.refl _ _))
          (hopen.congr (hren.walk va))
        exact ⟨hren.trans hren', hsound, hroot', hleads⟩

/-! ### A root made -/

/-- A context that had no table has an empty one. -/
def State.addRoot (s : State) (ctx : Nat) : State :=
  State.setCtx { s.wipe s.nodeNext 4096 with nodeNext := s.nodeNext + 4096 } ctx { s.ctx ctx with root := some s.nodeNext }

section
variable {s : State} {ctx n : Nat}

theorem addRoot_root (s : State) (ctx : Nat) : ((s.addRoot ctx).ctx ctx).root = some s.nodeNext := by
  rw [State.addRoot, State.ctx_setCtx, if_pos rfl]

theorem addRoot_empty (s : State) (ctx x : Nat) : (s.addRoot ctx).memNat (cellOf 3 s.nodeNext x) 8 = 0 := by
  have := nodeIndex_lt 3 x
  exact memNat_wipe_inside s (Nat.le_add_right _ _) (by unfold cellOf; omega)

theorem addRoot_cells (s : State) (ctx x : Nat) : (s.addRoot ctx).cells ctx x = [(3, cellOf 3 s.nodeNext x)] := by
  rw [State.cells, addRoot_root]
  exact cellsFrom_last (by rw [addRoot_empty]; decide)

theorem addRoot_renoded (hs : s.tablesSound ctx n) (hroot : (s.ctx ctx).root = none) : Renoded ctx s (s.addRoot ctx) where
  walk x := by
    obtain ⟨hlow, -, -, hread, -⟩ := hs
    have hlook : (s.addRoot ctx).look 3 (cellOf 3 s.nodeNext x) = some .unmapped := by
      have hhigh : 0x03EF00000000 ≤ cellOf 3 s.nodeNext x := hlow.trans (Nat.le_add_right _ _)
      rw [look_nodes (s := s.addRoot ctx) hread hhigh, addRoot_empty]
      exact readEntry_zero 3
    rw [State.walk, addRoot_root, State.walk, hroot]
    exact walkFrom_some hlook
  low a ha := by
    have hnext := hs.low
    exact (memByte_wipe s s.nodeNext 4096 a).trans (if_neg (by omega))

theorem addRoot_sound (hs : s.tablesSound ctx (n + 1)) : (s.addRoot ctx).tablesSound ctx n := by
  obtain ⟨hlow, hal, hroom, hread, -⟩ := hs
  have hnext : (s.addRoot ctx).nodeNext = s.nodeNext + 4096 := rfl
  unfold State.tablesSound
  simp only [addRoot_cells, List.mem_singleton, hnext]
  refine ⟨hlow.trans (Nat.le_add_right _ _), by omega, by omega, hread, ?_, ?_⟩
  · rintro v _ rfl
    have := nodeIndex_lt 3 v
    dsimp only [cellOf]
    omega
  · rintro v w _ rfl _ rfl hcd hdc
    have hi : nodeIndex 3 v = nodeIndex 3 w := by
      dsimp only [cellOf] at hcd hdc
      omega
    exact ⟨by rw [cellOf, cellOf, hi], sameSpan_root hi⟩
end

/-! ### A leaf set -/

theorem setLeaf_rooted {s : State} {ctx root : Nat} (hroot : (s.ctx ctx).root = some root) (va z e : Nat) :
    s.setLeaf ctx va z e = (s.nodeFor va z 3 root).1.putEntry (cellOf z (s.nodeFor va z 3 root).2 va) e := by
  unfold State.setLeaf
  rw [hroot]
  rfl

theorem setLeaf_addRoot {s : State} {ctx : Nat} (hroot : (s.ctx ctx).root = none) (va z e : Nat) : s.setLeaf ctx va z e = (s.addRoot ctx).setLeaf ctx va z e := by
  rw [setLeaf_rooted (addRoot_root s ctx)]
  unfold State.setLeaf
  rw [hroot]
  rfl

/-- A page's walks come to an entry of its level, other walks go as they went. -/
structure PageSet (ctx va z e : Nat) (s t : State) : Prop where
  other : ∀ x, ¬ SameSpan z x va → t.walk ctx x = s.walk ctx x
  page : ∀ x, SameSpan z x va → readEntry z (BitVec.ofNat 64 e) = some (t.walk ctx x)
  low : ∀ a, a < 0x03EF00000000 → t.memByte a = s.memByte a

theorem Renoded.pageSet {ctx va z e : Nat} {s t u : State} (h : Renoded ctx s t) (k : PageSet ctx va z e t u) : PageSet ctx va z e s u :=
  ⟨fun x hx => (k.other x hx).trans (h.walk x), k.page, fun a ha => (k.low a ha).trans (h.low a ha)⟩

section
variable {s : State} {ctx root va z e n : Nat} (he : e < 2 ^ 64) (hleaf : e % 4 ≠ 1)
include he hleaf

theorem putEntry_spec {node : Nat} (hs : s.tablesSound ctx n) (hroot : (s.ctx ctx).root = some root) (hl : s.Leads root va z node) :
    PageSet ctx va z e s (s.putEntry (cellOf z node va) e) ∧ (s.putEntry (cellOf z node va) e).tablesSound ctx n := by
  have hw : CellWritten s (s.putEntry (cellOf z node va) e) ctx root (cellOf z node va) :=
    ⟨hroot, hroot, rfl, fun _ _ _ hapart => memNat_putEntry_other s e hapart⟩
  have hsame := memNat_putEntry_same s (cellOf z node va) he
  obtain ⟨hbase, -⟩ := cell_in_nodes hs hroot hl
  refine ⟨⟨fun x hx => (hw.apart hs hl hx).1, fun x hx => ?_, fun a ha => memByte_putEntry_other s e (.inl (by omega))⟩,
    hw.sound_of_leaf hs hl rfl (by rwa [hsame])⟩
  have hlook : (s.putEntry (cellOf z node va) e).look z (cellOf z node x) = readEntry z (BitVec.ofNat 64 e) := by
    rw [hl.cellOf_shared hx, look_nodes (s := s.putEntry _ e) hs.readable hbase, hsame]
  rw [(hw.walk_shared hs hl hx).1]
  cases hr : readEntry z (BitVec.ofNat 64 e) with
  | none =>
    have hptr := readEntry_none_pointer hr
    rw [BitVec.toNat_ofNat, Nat.mod_eq_of_lt he] at hptr
    exact absurd hptr hleaf
  | some w => rw [walkFrom_some (hlook.trans hr)]

/-- There is room in sound tables for `k` more leaves to be set, each with three nodes on its way, and for a root where there is none. -/
def State.room (s : State) (ctx k : Nat) : Prop := s.tablesSound ctx (3 * k + if (s.ctx ctx).root.isNone then 1 else 0)

/-- A leaf set where its walk is open at its level changes the walks of its page alone. -/
theorem setLeaf_spec {k : Nat} (hz : z ≤ 2) (hs : s.room ctx (k + 1)) (hopen : s.opens ctx va z) :
    PageSet ctx va z e s (s.setLeaf ctx va z e) ∧ (s.setLeaf ctx va z e).room ctx k := by
  have hrooted {u : State} {root : Nat} (hroot : (u.ctx ctx).root = some root) (hs : u.tablesSound ctx (3 * k + 3)) (hopen : u.opens ctx va z) :
      PageSet ctx va z e u (u.setLeaf ctx va z e) ∧ (u.setLeaf ctx va z e).room ctx k := by
    obtain ⟨hren, hsound, hroot', hleads⟩ := nodeFor_spec (by omega) hs hroot .root hopen
    obtain ⟨hset, hsound'⟩ := putEntry_spec he hleaf hsound hroot' hleads
    rw [setLeaf_rooted hroot]
    refine ⟨hren.pageSet hset, ?_⟩
    rw [State.room, show ((State.putEntry _ _ e).ctx ctx).root = some root from hroot']
    exact hsound'
  unfold State.room at hs
  cases hroot : (s.ctx ctx).root with
  | some root => exact hrooted hroot (hs.mono (by omega)) hopen
  | none =>
    rw [hroot] at hs
    have hren := addRoot_renoded hs hroot
    rw [setLeaf_addRoot hroot]
    obtain ⟨hset, hroom⟩ := hrooted (addRoot_root s ctx) (addRoot_sound hs) (hopen.congr (hren.walk va))
    exact ⟨hren.pageSet hset, hroom⟩
end

end Sys2Proof.Machine
end

section
/-! SUPPORT. The entries that firmware writes, and what a list of pages that change one by one comes to (R233, R240). -/
namespace Sys2Proof.Machine

/-! ### Entries read back -/

theorem pageSize_mod (z : Nat) : pageSize z % 256 = 0 := by
  unfold pageSize
  split_ifs <;> rfl

theorem mod_of_page {pa z : Nat} (h : pa % pageSize z = 0) : pa % 256 = 0 :=
  Nat.mod_eq_zero_of_dvd ((Nat.dvd_of_mod_eq_zero (pageSize_mod z)).trans (Nat.dvd_of_mod_eq_zero h))

theorem written_leafOk {pa f z : Nat} (hz : z ≤ 2) (hpa : pa % pageSize z = 0) (hlt : pa < 2 ^ 48) (hf : f < 256) (h1 : (BitVec.ofNat 8 f).getLsbD 1 = true) :
    leafOk z (BitVec.ofNat 64 (pa + f)) = true := by
  have h8 := mod_of_page hpa
  unfold leafOk
  rw [written_address h8 hlt hf, written_bit h8 (show 1 < 8 by decide), h1, hpa]
  simp
  omega

section
variable {z perm : Nat} (hz : z ≤ 2) (hperm : perm < 8)
include hz hperm

theorem readEntry_leaf {pa : Nat} (hpa : pa % pageSize z = 0) (hlt : pa < 2 ^ 48) :
    readEntry z (BitVec.ofNat 64 (pa + (3 + 4 * perm))) = some (.leaf z (BitVec.ofNat 64 (pa + (3 + 4 * perm)))) := by
  have h8 := mod_of_page hpa
  have hf : 3 + 4 * perm < 256 := by omega
  have hok : (BitVec.ofNat 8 (3 + 4 * perm)).getLsbD 1 = true := by interval_cases perm <;> rfl
  unfold readEntry
  rw [written_high h8 hlt hf, written_leafOk hz hpa hlt hf hok]
  simp only [written_bit h8 (show 0 < 8 by decide), written_bit h8 (show 1 < 8 by decide), written_bit h8 (show 5 < 8 by decide),
    written_bit h8 (show 6 < 8 by decide), written_bit h8 (show 7 < 8 by decide)]
  interval_cases perm <;> rfl

theorem readEntry_firstTouch : readEntry z (BitVec.ofNat 64 (0x22 + 4 * perm)) = some (.firstTouch z (BitVec.ofNat 64 (0x22 + 4 * perm))) := by
  interval_cases z <;> interval_cases perm <;> rfl

theorem readEntry_migrating : readEntry z (BitVec.ofNat 64 (0x82 + 4 * perm)) = some (.migrating z (BitVec.ofNat 64 (0x82 + 4 * perm))) := by
  interval_cases z <;> interval_cases perm <;> rfl
end

theorem perms_written {pa perm : Nat} (hpa : pa % 256 = 0) (hperm : perm < 8) : (BitVec.ofNat 64 (pa + (3 + 4 * perm))).extractLsb' 2 3 = BitVec.ofNat 3 perm := by
  rw [written_low hpa (show 2 + 3 ≤ 8 by decide)]
  interval_cases perm <;> rfl

theorem perms_firstTouch {perm : Nat} (hperm : perm < 8) : (BitVec.ofNat 64 (0x22 + 4 * perm)).extractLsb' 2 3 = BitVec.ofNat 3 perm := by
  interval_cases perm <;> rfl

theorem perms_migrating {perm : Nat} (hperm : perm < 8) : (BitVec.ofNat 64 (0x82 + 4 * perm)).extractLsb' 2 3 = BitVec.ofNat 3 perm := by
  interval_cases perm <;> rfl

theorem leafPa_written {pa f z : Nat} (hpa : pa % pageSize z = 0) (hlt : pa < 2 ^ 48) (hf : f < 256) (x : Nat) :
    leafPa z (BitVec.ofNat 64 (pa + f)) x = pa + x % pageSize z := by
  have h8 := mod_of_page hpa
  rw [leafPa, written_address h8 hlt hf, Nat.div_mul_cancel (Nat.dvd_of_mod_eq_zero hpa)]

/-! ### Permissions changed -/

/-- An entry with other permissions (R240). -/
def permsChanged (perm : Nat) (e : Dword) : Dword := (e &&& ~~~0x1C#64) ||| BitVec.ofNat 64 (4 * perm)

/-- What a walk finds at its page's entry with other permissions. -/
def Walk.changed (perm : Nat) : Walk → Walk
  | .leaf z e => .leaf z (permsChanged perm e)
  | .firstTouch z e => .firstTouch z (permsChanged perm e)
  | .poisoned z e => .poisoned z (permsChanged perm e)
  | .migrating z e => .migrating z (permsChanged perm e)
  | .unmapped => .unmapped
  | .error => .error

/-- A number of three bits, put at bits 2 to 4, has no other bit. -/
theorem quad_bit {c i : Nat} (hc : c < 8) (hi : i < 2 ∨ 5 ≤ i) : (BitVec.ofNat 64 (4 * c)).getLsbD i = false := by
  rcases hi with hi | hi
  · interval_cases i <;> interval_cases c <;> rfl
  · rw [BitVec.getLsbD_ofNat, Nat.testBit_lt_two_pow (Nat.lt_of_lt_of_le (by omega) (Nat.pow_le_pow_right Nat.two_pos hi)), Bool.and_false]

section
variable {perm : Nat} (hperm : perm < 8) (e : Dword)
include hperm

theorem permsChanged_bit {i : Nat} (hi : i < 2 ∨ 5 ≤ i) : (permsChanged perm e).getLsbD i = e.getLsbD i := by
  by_cases h64 : i < 64
  · rw [permsChanged, BitVec.getLsbD_or, BitVec.getLsbD_and, BitVec.getLsbD_not, quad_bit hperm hi, quad_bit (c := 7) (by decide) hi]
    simp [h64]
  · simp [BitVec.getLsbD_of_ge _ _ (Nat.le_of_not_lt h64)]

theorem permsChanged_extract {k m : Nat} (hk : 5 ≤ k) : (permsChanged perm e).extractLsb' k m = e.extractLsb' k m := by
  apply BitVec.eq_of_getLsbD_eq
  intro i hi
  rw [BitVec.getLsbD_extractLsb', BitVec.getLsbD_extractLsb', permsChanged_bit hperm e (.inr (by omega))]

theorem permsChanged_toNat : (e &&& ~~~0x1C#64).toNat + 4 * perm = (permsChanged perm e).toNat := by
  have hnone : ~~~0x1C#64 &&& BitVec.ofNat 64 (4 * perm) = 0#64 := by interval_cases perm <;> rfl
  have hapart : (e &&& ~~~0x1C#64) &&& BitVec.ofNat 64 (4 * perm) = 0#64 := by rw [BitVec.and_assoc, hnone, BitVec.and_zero]
  rw [permsChanged, ← BitVec.add_eq_or_of_and_eq_zero _ _ hapart, BitVec.toNat_add_of_and_eq_zero hapart, BitVec.toNat_ofNat]
  omega

theorem permsChanged_address : (permsChanged perm e).toNat / 256 = e.toNat / 256 := by
  have h := congrArg BitVec.toNat (permsChanged_extract hperm e (k := 8) (m := 56) (by decide))
  simp only [BitVec.extractLsb'_toNat, Nat.shiftRight_eq_div_pow] at h
  omega

theorem permsChanged_leafOk (z : Nat) : leafOk z (permsChanged perm e) = leafOk z e := by
  rw [leafOk, leafOk, permsChanged_bit hperm e (.inl (by decide)), permsChanged_address hperm e]

theorem permsChanged_low : (permsChanged perm e).toNat % 4 = e.toNat % 4 := by
  have h0 := permsChanged_bit hperm e (i := 0) (.inl (by decide))
  have h1 := permsChanged_bit hperm e (i := 1) (.inl (by decide))
  simp only [BitVec.getLsbD, Nat.testBit_eq_decide_div_mod_eq, decide_eq_decide] at h0 h1
  omega

theorem readEntry_changed {z : Nat} {w : Walk} {p : Nat × Dword} (h : readEntry z e = some w) (hp : w.page = some p) :
    readEntry z (permsChanged perm e) = some (w.changed perm) := by
  unfold readEntry at h ⊢
  rw [permsChanged_extract hperm e (by decide), permsChanged_extract hperm e (by decide), permsChanged_leafOk hperm e,
    permsChanged_bit hperm e (.inl (by decide : 0 < 2)), permsChanged_bit hperm e (.inl (by decide : 1 < 2)), permsChanged_bit hperm e (.inr (by decide : 5 ≤ 5)),
    permsChanged_bit hperm e (.inr (by decide : 5 ≤ 6)), permsChanged_bit hperm e (.inr (by decide : 5 ≤ 7))]
  split_ifs at h ⊢ <;> cases h <;> cases hp <;> rfl
end

end Sys2Proof.Machine
end

section
/-! SUPPORT. Walks after the changes that map requests make page by page (R240). -/
namespace Sys2Proof.Machine

/-! ### Walks of one page -/

/-- A walk that finds a page comes to its level, and finds the same for every address of the page. -/
theorem walkFrom_page {s : State} {v x z : Nat} {e : Dword} (hi : ∀ k, z ≤ k → k ≤ 3 → nodeIndex k x = nodeIndex k v) :
    ∀ {l node : Nat}, l ≤ 3 → (s.walkFrom v l node).page = some (z, e) →
      z ≤ l ∧ readEntry z e = some (s.walkFrom v l node) ∧ s.walkFrom x l node = s.walkFrom v l node := by
  intro l
  induction l with
  | zero =>
    intro node _ hp
    cases hlook : s.look 0 (cellOf 0 node v) with
    | none =>
      rw [State.walkFrom_look, hlook] at hp
      cases hp
    | some w =>
      rw [walkFrom_some hlook] at hp ⊢
      obtain ⟨rfl, hread⟩ := look_page hlook hp
      refine ⟨Nat.le_refl _, hread, walkFrom_some ?_⟩
      rwa [cellOf, hi 0 (Nat.le_refl 0) (by decide)]
  | succ l ih =>
    intro node hl hp
    cases hlook : s.look (l + 1) (cellOf (l + 1) node v) with
    | none =>
      rw [walkFrom_none hlook] at hp ⊢
      obtain ⟨hz, hread, hw⟩ := ih (by omega) hp
      have hcell : cellOf (l + 1) node x = cellOf (l + 1) node v := by rw [cellOf, cellOf, hi (l + 1) (by omega) hl]
      exact ⟨by omega, hread, by rw [walkFrom_none (hcell ▸ hlook), hcell, hw]⟩
    | some w =>
      rw [walkFrom_some hlook] at hp ⊢
      obtain ⟨rfl, hread⟩ := look_page hlook hp
      refine ⟨Nat.le_refl _, hread, walkFrom_some ?_⟩
      rwa [cellOf, hi (l + 1) (Nat.le_refl _) hl]

/-- What a walk finds of a page is its entry's, the same for every address of the page. -/
theorem walk_page {s : State} {ctx v x z : Nat} {e : Dword} (hz : z ≤ 2) (hx : SameSpan z x v) (hp : (s.walk ctx v).page = some (z, e)) :
    readEntry z e = some (s.walk ctx v) ∧ s.walk ctx x = s.walk ctx v := by
  unfold State.walk at hp ⊢
  cases hroot : (s.ctx ctx).root with
  | none =>
    rw [hroot] at hp
    cases hp
  | some root =>
    rw [hroot] at hp
    exact (walkFrom_page (fun k hk hk3 => hx.index (by omega) k hk hk3) (Nat.le_refl 3) hp).2

/-! ### Pages changed one by one -/

/-- The walks of one page change as `g` says, and no others. -/
structure PageStep (ctx va z : Nat) (g : Walk → Walk) (s t : State) : Prop where
  other : ∀ x, ¬ SameSpan z x va → t.walk ctx x = s.walk ctx x
  page : ∀ x, SameSpan z x va → t.walk ctx x = g (s.walk ctx x)

/-- Changes of pages that lie apart come to the change of each. -/
theorem foldl_pages {ctx z : Nat} {f : State → Nat → State} {g : Nat → Walk → Walk} : ∀ {vas : List Nat} {s : State},
    vas.Pairwise (fun v w => ¬ SameSpan z v w) → s.room ctx vas.length →
    (∀ k u, ∀ v ∈ vas, u.room ctx (k + 1) → u.walk ctx v = s.walk ctx v → PageStep ctx v z (g v) u (f u v) ∧ (f u v).room ctx k) →
    (vas.foldl f s).room ctx 0 ∧ (∀ x, (∀ v ∈ vas, ¬ SameSpan z x v) → (vas.foldl f s).walk ctx x = s.walk ctx x) ∧
      ∀ v ∈ vas, ∀ x, SameSpan z x v → (vas.foldl f s).walk ctx x = g v (s.walk ctx x) := by
  intro vas
  induction vas with
  | nil => exact fun _ hroom _ => ⟨hroom, fun _ _ => rfl, fun _ hv => absurd hv List.not_mem_nil⟩
  | cons v vas ih =>
    intro s hapart hroom hstep
    obtain ⟨hv, hvas⟩ := List.pairwise_cons.mp hapart
    obtain ⟨hfirst, hroom'⟩ := hstep vas.length s v List.mem_cons_self hroom rfl
    obtain ⟨hend, hother, hpage⟩ := ih hvas hroom' fun k u w hw hu hwalk =>
      hstep k u w (List.mem_cons_of_mem v hw) hu (hwalk.trans (hfirst.other w fun h => hv w hw h.symm))
    refine ⟨hend, fun x hx => ?_, fun w hw x hx => ?_⟩
    · exact (hother x fun w hw => hx w (List.mem_cons_of_mem v hw)).trans (hfirst.other x (hx v List.mem_cons_self))
    · rcases List.mem_cons.mp hw with rfl | hw
      · exact (hother x fun w' hw' h => hv w' hw' (hx.symm.trans h)).trans (hfirst.page x hx)
      · rw [List.foldl_cons, hpage w hw x hx, hfirst.other x fun h => hv w hw (h.symm.trans hx)]

/-! ### The pages of a request -/

/-- What a request that is not refused keeps to (R240). -/
structure MapReq.Fits (r : MapReq) : Prop where
  op : r.op ≤ 6
  perm : r.perm < 8
  size : r.size ≤ 2
  start : r.va.toNat % pageSize r.size = 0
  whole : r.len % pageSize r.size = 0
  len : r.len ≤ 2 ^ 47
  some : r.len ≠ 0
  windows : r.op = 5 → r.size = 1 ∧ r.len % 0x400000 = 0
  broadcast : r.op = 6 → r.size = 1 ∧ r.len = 0x1000000 ∧ r.arg < 4096

theorem fits_of_not_refused {r : MapReq} (hm : r.malformed = false) (hf : r.misfit = false) : r.Fits := by
  simp only [MapReq.malformed, Bool.or_eq_false_iff, decide_eq_false_iff_not, Nat.not_lt, Nat.not_le] at hm
  simp only [MapReq.misfit, Bool.or_eq_false_iff, decide_eq_false_iff_not, Nat.not_lt, bne_eq_false_iff_eq] at hf
  obtain ⟨⟨⟨hop, hperm⟩, -⟩, harg⟩ := hm
  obtain ⟨⟨⟨⟨⟨⟨⟨⟨hsize, hsome⟩, hva⟩, hlen⟩, hmax⟩, -⟩, -⟩, -⟩, hkind⟩ := hf
  refine ⟨hop, hperm, hsize, hva, hlen, hmax, by simpa using hsome, fun h5 => ?_, fun h6 => ?_⟩
  · simpa [h5] using hkind
  · simp [h6] at hkind harg
    exact ⟨hkind.1.1, hkind.1.2, harg⟩

theorem mapRefusal_none {s : State} {ctx : Nat} {r : MapReq} (h : s.mapRefusal ctx r = none) : r.Fits ∧
    (r.op = 5 → ∀ i, i < r.len / 0x400000 → s.tenantCore (ctx / 64) (r.arg + i) = true) ∧
    (r.op = 1 ∨ r.op = 2 → s.rangeSized ctx r = true ∧ s.rangeMapped ctx r = true) ∧ (r.op ≠ 1 → r.op ≠ 2 → s.rangeFree ctx r = true) := by
  unfold State.mapRefusal at h
  have hcores {p q : Prop} (hg : ¬ (p ∨ (r.op = 5 ∧ (!(List.range (r.len / 0x400000)).all fun i => s.tenantCore (ctx / 64) (r.arg + i)) = true) ∨ q))
      (h5 : r.op = 5) (i : Nat) (hi : i < r.len / 0x400000) : s.tenantCore (ctx / 64) (r.arg + i) = true := by
    by_contra hc
    exact hg (.inr (.inl ⟨h5, by simpa using ⟨i, hi, by simpa using hc⟩⟩))
  split_ifs at h with hm hf hpeer hgiven hold hsized hmapped hfree hgrant
  · exact ⟨fits_of_not_refused (Bool.not_eq_true _ ▸ hm) (Bool.not_eq_true _ ▸ hf), hcores hgiven, fun _ => ⟨by simpa using hsized, by simpa using hmapped⟩,
      fun h1 h2 => absurd hold (by simp [h1, h2])⟩
  · exact ⟨fits_of_not_refused (Bool.not_eq_true _ ▸ hm) (Bool.not_eq_true _ ▸ hf), hcores hgiven, fun h12 => absurd h12 hold, fun _ _ => by simpa using hfree⟩

theorem pageSize_pos (z : Nat) : 0 < pageSize z := by
  unfold pageSize
  split_ifs <;> decide

theorem pageSize_cases {z : Nat} (hz : z ≤ 2) : pageSize z = 0x10000 ∨ pageSize z = 0x200000 ∨ pageSize z = 0x40000000 := by
  interval_cases z
  · exact .inl rfl
  · exact .inr (.inl rfl)
  · exact .inr (.inr rfl)

section
variable {r : MapReq} (hr : r.Fits)
include hr

theorem page_aligned {v : Nat} (hv : v ∈ r.pages) : v % pageSize r.size = 0 := by
  obtain ⟨i, -, rfl⟩ := List.mem_map.mp hv
  rw [Nat.add_mul_mod_self_right]
  exact hr.start

theorem pages_apart : r.pages.Pairwise fun v w => ¬ SameSpan r.size v w := by
  refine List.pairwise_map.mpr (List.Pairwise.imp_of_mem ?_ List.pairwise_lt_range)
  intro i j hi hj hij hspan
  rw [sameSpan_page hr.size] at hspan
  have hj := List.mem_range.mp hj
  have hlen := hr.len
  have hstart := hr.start
  rcases pageSize_cases hr.size with h | h | h <;> rw [h] at hspan hj hstart <;> omega

/-- An address of a page of the request shares its span. -/
theorem page_span {v x : Nat} (hv : v ∈ r.pages) (hx : v ≤ x) (hx' : x < v + pageSize r.size) : SameSpan r.size x v := by
  rw [sameSpan_page hr.size]
  have hal := page_aligned hr hv
  rcases pageSize_cases hr.size with h | h | h <;> rw [h] at hal hx' ⊢ <;> omega

/-- A page of the request begins at one of the places that are looked at where it is checked. -/
theorem page_checked {v : Nat} (hv : v ∈ r.pages) : ∃ i, i < r.len / 0x10000 ∧ v = r.va.toNat + i * 0x10000 := by
  obtain ⟨i, hi, rfl⟩ := List.mem_map.mp hv
  have hi := List.mem_range.mp hi
  refine ⟨i * (pageSize r.size / 0x10000), ?_, ?_⟩
  all_goals rcases pageSize_cases hr.size with h | h | h <;> rw [h] at hi ⊢ <;> omega

end

end Sys2Proof.Machine
end

section
/-! SUPPORT. What each map request does to the walks of its pages (R240). -/
namespace Sys2Proof.Machine

/-! ### States with the same tables -/

theorem Caches.shootDown (s : State) (ctx va n : Nat) : Caches s (s.shootDown ctx va n) := by
  unfold State.shootDown
  dsimp only
  refine Caches.trans ?_ (Caches.foldl ?_ _ _)
  · exact ⟨rfl, fun _ => rfl⟩
  · exact fun u g => Caches.dropNames u g.1 _

/-- Firmware's own memory is as it was, with the root of a context. -/
structure SameNodes (ctx : Nat) (s t : State) : Prop where
  memNat : ∀ a, 0x03EF00000000 ≤ a → t.memNat a 8 = s.memNat a 8
  unreadable : t.unreadable = s.unreadable
  nodeNext : t.nodeNext = s.nodeNext
  root : (t.ctx ctx).root = (s.ctx ctx).root

namespace SameNodes
variable {ctx : Nat} {s t u : State}

theorem of_mem (hm : t.mem = s.mem) (hu : t.undefined = s.undefined) (hf : t.fresh = s.fresh) (hun : t.unreadable = s.unreadable)
    (hn : t.nodeNext = s.nodeNext) (hr : (t.ctx ctx).root = (s.ctx ctx).root) : SameNodes ctx s t :=
  ⟨fun _ _ => memNat_congr fun _ _ => State.memByte_congr hm hu hf _, hun, hn, hr⟩

theorem refl (ctx : Nat) (s : State) : SameNodes ctx s s := ⟨fun _ _ => rfl, rfl, rfl, rfl⟩
theorem trans (h : SameNodes ctx s t) (k : SameNodes ctx t u) : SameNodes ctx s u :=
  ⟨fun a ha => (k.memNat a ha).trans (h.memNat a ha), k.unreadable.trans h.unreadable, k.nodeNext.trans h.nodeNext, k.root.trans h.root⟩

theorem foldl {f : State → Nat → State} (h : ∀ u v, SameNodes ctx u (f u v)) (vas : List Nat) (s : State) : SameNodes ctx s (vas.foldl f s) :=
  foldl_keeps (SameNodes ctx s) f (fun u v hu => hu.trans (h u v)) vas s (refl ctx s)

theorem walk_cells (h : SameNodes ctx s t) {k : Nat} (hs : s.room ctx k) (x : Nat) : t.walk ctx x = s.walk ctx x ∧ t.cells ctx x = s.cells ctx x := by
  obtain ⟨-, -, -, -, hin, -⟩ := hs
  exact walk_cells_congr h.unreadable h.root fun d hd => h.memNat d.2 (hin x d hd).1

theorem room (h : SameNodes ctx s t) {k : Nat} (hs : s.room ctx k) : t.room ctx k := by
  unfold State.room
  rw [h.root]
  exact tablesSound_of_cells hs h.nodeNext h.unreadable fun v d hd => by rwa [(h.walk_cells hs v).2] at hd

theorem wipe_low (ctx : Nat) (s : State) {pa n : Nat} (h : pa + n ≤ 0x03EF00000000) : SameNodes ctx s (s.wipe pa n) :=
  ⟨fun _ ha => memNat_wipe_outside s (.inr (h.trans ha)), rfl, rfl, rfl⟩

theorem of_caches (ctx : Nat) (h : Caches s t) : SameNodes ctx s t := by
  obtain ⟨hrest, -⟩ := h
  rw [hrest]
  exact of_mem rfl rfl rfl rfl rfl rfl

theorem startPull (ctx : Nat) (s : State) (c va : Nat) : SameNodes ctx s (s.startPull c va) := by
  unfold State.startPull
  split
  · dsimp only
    split_ifs
    · exact refl ctx s
    · exact of_mem rfl rfl rfl rfl rfl rfl
  · exact refl ctx s

end SameNodes

namespace PageStep
variable {ctx va z : Nat} {g : Walk → Walk} {s t u : State}

theorem then_same (h : PageStep ctx va z g s t) {k : Nat} (ht : t.room ctx k) (hu : SameNodes ctx t u) : PageStep ctx va z g s u :=
  ⟨fun x hx => (hu.walk_cells ht x).1.trans (h.other x hx), fun x hx => (hu.walk_cells ht x).1.trans (h.page x hx)⟩

theorem after_same (ht : SameNodes ctx s t) {k : Nat} (hs : s.room ctx k) (h : PageStep ctx va z g t u) : PageStep ctx va z g s u :=
  ⟨fun x hx => (h.other x hx).trans (ht.walk_cells hs x).1, fun x hx => (ht.walk_cells hs x).1 ▸ h.page x hx⟩

end PageStep

/-! ### One page -/

/-- A page of a context has no source, and no pull of it goes on. -/
def State.unsourced (s : State) (ctx va : Nat) : State :=
  { s.setCtx ctx { s.ctx ctx with sources := (s.ctx ctx).sources.filter fun y => y.1 ≠ va } with
    pulls := s.pulls.filter fun p => !(p.2.ctx == ctx && p.2.va == va) }

theorem SameNodes.unsourced (s : State) (ctx va : Nat) : SameNodes ctx s (s.unsourced ctx va) := by
  refine .of_mem rfl rfl rfl rfl rfl ?_
  change ((s.setCtx ctx _).ctx ctx).root = _
  rw [State.ctx_setCtx, if_pos rfl]

/-- Device memory of a page is zeroed, and returns to the grant it was drawn from. -/
def State.freed (s : State) (ctx z pa : Nat) : State :=
  { (s.wipe pa (pageSize z)).setTenant (ctx / 64) { s.tenant (ctx / 64) with
      grant := if s.undrawn.contains pa then (s.tenant (ctx / 64)).grant else (s.tenant (ctx / 64)).grant + pageUnits z } with
    frames := s.frames.filter fun f => f.2.1 ≠ pa, undrawn := s.undrawn.filter (· ≠ pa) }

theorem SameNodes.freed (ctx : Nat) (s : State) (c : Nat) {z pa : Nat} (h : pa + pageSize z ≤ 0x03EF00000000) : SameNodes ctx s (s.freed c z pa) := by
  obtain ⟨hmem, -⟩ := SameNodes.wipe_low ctx s h
  exact ⟨hmem, rfl, rfl, rfl⟩

/-- A page is unmapped: its entry is cleared, and device memory of a mapped page freed. -/
theorem unmapPage_cases (s : State) (ctx va z : Nat) : s.unmapPage ctx va z = (s.unsourced ctx va).setLeaf ctx va z 0 ∨
    ∃ z' e, (s.unsourced ctx va).walk ctx va = .leaf z' e ∧ isHbm (leafPa z e va) = true ∧
      s.unmapPage ctx va z = ((s.unsourced ctx va).setLeaf ctx va z 0).freed ctx z (leafPa z e va) := by
  unfold State.unmapPage
  dsimp only
  split
  · next z' e hleaf =>
    by_cases hhbm : isHbm (leafPa z e va) = true
    · exact .inr ⟨z', e, hleaf, hhbm, if_pos hhbm⟩
    · exact .inl (if_neg hhbm)
  · exact .inl rfl

section
variable {s : State} {ctx v z k : Nat} (hz : z ≤ 2) (hs : s.room ctx (k + 1))
include hz hs

/-- An entry set where a page is of its level, or none, is what walks of the page find. -/
theorem setLeaf_step {e : Nat} {w : Walk} (hopen : s.opens ctx v z) (he : e < 2 ^ 64) (hleaf : e % 4 ≠ 1) (hread : readEntry z (BitVec.ofNat 64 e) = some w) :
    PageStep ctx v z (fun _ => w) s (s.setLeaf ctx v z e) ∧ (s.setLeaf ctx v z e).room ctx k := by
  obtain ⟨hset, hroom⟩ := setLeaf_spec he hleaf hz hs hopen
  exact ⟨⟨hset.other, fun x hx => Option.some.inj ((hset.page x hx).symm.trans hread)⟩, hroom⟩

theorem protect_step {perm : Nat} {e : Dword} (hperm : perm < 8) (hp : (s.walk ctx v).page = some (z, e)) :
    PageStep ctx v z (Walk.changed perm) s (s.setLeaf ctx v z ((e &&& ~~~0x1C#64).toNat + 4 * perm)) ∧
      (s.setLeaf ctx v z ((e &&& ~~~0x1C#64).toNat + 4 * perm)).room ctx k := by
  have hread := (walk_page hz (SameSpan.refl z v) hp).1
  have hleaf : (permsChanged perm e).toNat % 4 ≠ 1 := by
    rw [permsChanged_low hperm e]
    exact readEntry_page_low hread hp
  rw [permsChanged_toNat hperm e]
  obtain ⟨⟨hother, hpage⟩, hroom⟩ := setLeaf_step hz hs (.inr ⟨e, hp⟩) (permsChanged perm e).isLt hleaf
    (by rw [BitVec.ofNat_toNat, BitVec.setWidth_eq]; exact readEntry_changed hperm e hread hp)
  exact ⟨⟨hother, fun x hx => by rw [hpage x hx, (walk_page hz hx hp).2]⟩, hroom⟩

theorem unmapPage_step {e : Dword} (hv : v % pageSize z = 0) (hp : (s.walk ctx v).page = some (z, e))
    (hlow : ∀ e, s.walk ctx v = .leaf z e → isHbm (leafPa z e v) = true → leafPa z e v + 1 ≤ 0x03EF00000000) :
    PageStep ctx v z (fun _ => .unmapped) s (s.unmapPage ctx v z) ∧ (s.unmapPage ctx v z).room ctx k := by
  have hend {e : Dword} (h : leafPa z e v + 1 ≤ 0x03EF00000000) : leafPa z e v + pageSize z ≤ 0x03EF00000000 := by
    have hpa : leafPa z e v % pageSize z = 0 := by rw [leafPa, Nat.mul_add_mod_self_right, Nat.mod_mod, hv]
    rcases pageSize_cases hz with h | h | h <;> rw [h] at hpa ⊢ <;> omega
  have hu := SameNodes.unsourced s ctx v
  have hwalk := (hu.walk_cells hs v).1
  obtain ⟨hpage, hroom⟩ := setLeaf_step hz (hu.room hs) (.inr ⟨e, (congrArg Walk.page hwalk).trans hp⟩) (e := 0) (by decide) (by decide) (readEntry_zero z)
  have hdone : SameNodes ctx ((s.unsourced ctx v).setLeaf ctx v z 0) (s.unmapPage ctx v z) := by
    rcases unmapPage_cases s ctx v z with h | ⟨z', e', hleaf, hhbm, h⟩
    · rw [h]
      exact .refl ctx _
    · rw [hwalk] at hleaf
      rw [hleaf] at hp
      cases hp
      rw [h]
      exact .freed ctx _ ctx (hend (hlow e hleaf hhbm))
  exact ⟨.after_same hu hs (hpage.then_same hroom hdone), hdone.room hroom⟩
end

end Sys2Proof.Machine
end

section
/-! SUPPORT. Walks after each map request (R240, R243). -/
namespace Sys2Proof.Machine

/-! ### Requests that set an entry for each page -/

/-- The walks of a request's pages change as `g` says, page by page, and no others. -/
structure Changed (ctx : Nat) (r : MapReq) (g : Nat → Walk → Walk) (s t : State) : Prop where
  room : t.room ctx 0
  other : ∀ x, (∀ v ∈ r.pages, ¬ SameSpan r.size x v) → t.walk ctx x = s.walk ctx x
  page : ∀ v ∈ r.pages, ∀ x, SameSpan r.size x v → t.walk ctx x = g v (s.walk ctx x)

theorem Changed.then_same {ctx : Nat} {r : MapReq} {g : Nat → Walk → Walk} {s t u : State} (h : Changed ctx r g s t) (hu : SameNodes ctx t u) : Changed ctx r g s u :=
  ⟨hu.room h.room, fun x hx => (hu.walk_cells h.room x).1.trans (h.other x hx), fun v hv x hx => (hu.walk_cells h.room x).1.trans (h.page v hv x hx)⟩

/-- A window's physical address for a page of a request: aligned, and within the windows. -/
theorem window_place {r : MapReq} (hsize : r.size = 1) {base : Nat} (hbase : base % 0x200000 = 0) (hend : base + r.len ≤ 2 ^ 48) {v : Nat}
    (hv : v ∈ r.pages) : (base + (v - r.va.toNat)) % pageSize 1 = 0 ∧ base + (v - r.va.toNat) < 2 ^ 48 := by
  obtain ⟨i, hi, rfl⟩ := List.mem_map.mp hv
  have hi := List.mem_range.mp hi
  rw [hsize] at hi ⊢
  rw [show pageSize 1 = 0x200000 from rfl] at hi ⊢
  omega

theorem room_of_sound {s : State} {ctx n : Nat} (hs : s.tablesSound ctx (3 * n + 1)) : s.room ctx n := by
  unfold State.room
  split_ifs
  · exact hs
  · exact hs.mono (Nat.le_succ _)

section
variable {s : State} {ctx : Nat} {r : MapReq} (hm : s.mapRefusal ctx r = none) (hs : s.tablesSound ctx (3 * r.pages.length + 1))
include hm hs

theorem changed_of_steps {f : State → Nat → State} {g : Nat → Walk → Walk}
    (hstep : ∀ k u, ∀ v ∈ r.pages, u.room ctx (k + 1) → u.walk ctx v = s.walk ctx v → PageStep ctx v r.size (g v) u (f u v) ∧ (f u v).room ctx k) :
    Changed ctx r g s (r.pages.foldl f s) := by
  obtain ⟨hr, -⟩ := mapRefusal_none hm
  obtain ⟨hroom, hother, hpage⟩ := foldl_pages (pages_apart hr) (room_of_sound hs) hstep
  exact ⟨hroom, hother, hpage⟩

omit hs in
theorem page_free (h1 : r.op ≠ 1) (h2 : r.op ≠ 2) {v : Nat} (hv : v ∈ r.pages) : s.walk ctx v = .unmapped := by
  obtain ⟨hr, -, -, hfree⟩ := mapRefusal_none hm
  obtain ⟨i, hi, rfl⟩ := page_checked hr hv
  exact of_decide_eq_true (List.all_eq_true.mp (hfree h1 h2) i (List.mem_range.mpr hi))

omit hs in
theorem page_there (h12 : r.op = 1 ∨ r.op = 2) {v : Nat} (hv : v ∈ r.pages) : ∃ e, (s.walk ctx v).page = some (r.size, e) := by
  obtain ⟨hr, -, hold, -⟩ := mapRefusal_none hm
  obtain ⟨hsized, hmapped⟩ := hold h12
  obtain ⟨i, hi, rfl⟩ := page_checked hr hv
  have hs := List.all_eq_true.mp hsized i (List.mem_range.mpr hi)
  have hp := List.all_eq_true.mp hmapped i (List.mem_range.mpr hi)
  rw [State.pageAt_eq] at hs hp
  obtain ⟨⟨z, e⟩, he⟩ := Option.isSome_iff_exists.mp hp
  rw [he] at hs ⊢
  exact ⟨e, by rw [show z = r.size from by simpa using hs]⟩

/-- Entries set in pages of a range that was free. -/
theorem changed_of_entries (h1 : r.op ≠ 1) (h2 : r.op ≠ 2) {entry : Nat → Nat} {w : Nat → Walk}
    (he : ∀ v ∈ r.pages, entry v < 2 ^ 64 ∧ readEntry r.size (BitVec.ofNat 64 (entry v)) = some (w v) ∧ ∃ p, (w v).page = some p) :
    Changed ctx r (fun v _ => w v) s (r.pages.foldl (fun s va => s.setLeaf ctx va r.size (entry va)) s) := by
  refine changed_of_steps hm hs fun k u v hv hroom hwalk => ?_
  obtain ⟨hr, -⟩ := mapRefusal_none hm
  obtain ⟨hlt, hread, p, hp⟩ := he v hv
  have hlow := readEntry_page_low hread hp
  rw [BitVec.toNat_ofNat, Nat.mod_eq_of_lt hlt] at hlow
  exact setLeaf_step hr.size hroom (.inl (hwalk.trans (page_free hm h1 h2 hv))) hlt hlow hread

theorem firstTouch_changed (h3 : r.op = 3) (pa : Nat) :
    Changed ctx r (fun _ _ => .firstTouch r.size (BitVec.ofNat 64 (0x22 + 4 * r.perm))) s (s.mapApply ctx pa r) := by
  obtain ⟨hr, -⟩ := mapRefusal_none hm
  have happly : s.mapApply ctx pa r = r.pages.foldl (fun s va => s.setLeaf ctx va r.size (0x22 + 4 * r.perm)) s := by
    simp only [State.mapApply, h3, Nat.mod_eq_of_lt hr.perm]
  rw [happly]
  refine changed_of_entries hm hs (by omega) (by omega) fun v _ => ⟨?_, readEntry_firstTouch hr.size hr.perm, _, rfl⟩
  have := hr.perm
  omega

theorem migrating_changed (h4 : r.op = 4) (pa : Nat) :
    Changed ctx r (fun _ _ => .migrating r.size (BitVec.ofNat 64 (0x82 + 4 * r.perm))) s (s.mapApply ctx pa r) := by
  obtain ⟨hr, -⟩ := mapRefusal_none hm
  have hset : Changed ctx r (fun _ _ => .migrating r.size (BitVec.ofNat 64 (0x82 + 4 * r.perm))) s
      (r.pages.foldl (fun s va => s.setLeaf ctx va r.size (0x82 + 4 * r.perm)) s) := by
    refine changed_of_entries hm hs (by omega) (by omega) fun v _ => ⟨?_, readEntry_migrating hr.size hr.perm, _, rfl⟩
    have := hr.perm
    omega
  refine hset.then_same ?_
  simp only [State.mapApply, h4, Nat.mod_eq_of_lt hr.perm]
  generalize r.pages.foldl (fun s va => s.setLeaf ctx va r.size (0x82 + 4 * r.perm)) s = u
  refine SameNodes.trans (t := u.setCtx ctx _) (.of_mem rfl rfl rfl rfl rfl ?_) (.foldl (fun w v => ?_) _ _)
  · rw [State.ctx_setCtx, if_pos rfl]
  · split_ifs
    · exact .startPull ctx w ctx v
    · exact .refl ctx w

/-- Windows of cores or of a group, one behind the other from a physical base. -/
theorem windows_changed {base : Nat} (h1 : r.op ≠ 1) (h2 : r.op ≠ 2) (hsize : r.size = 1) (hbase : base % 0x200000 = 0) (hend : base + r.len ≤ 2 ^ 48) :
    Changed ctx r (fun v _ => .leaf 1 (BitVec.ofNat 64 (base + (v - r.va.toNat) + (3 + 4 * r.perm)))) s
      (r.pages.foldl (fun s va => s.setLeaf ctx va 1 (base + (va - r.va.toNat) + (3 + 4 * r.perm))) s) := by
  obtain ⟨hr, -⟩ := mapRefusal_none hm
  have hperm := hr.perm
  rw [← hsize]
  refine changed_of_entries hm hs h1 h2 fun v hv => ?_
  obtain ⟨hal, hin⟩ := window_place hsize hbase hend hv
  exact ⟨by omega, readEntry_leaf hr.size hperm (by rwa [hsize]) (by omega), _, rfl⟩

theorem unmapped_changed (h1 : r.op = 1) (hhbm : ∀ v z e, s.walk ctx v = .leaf z e → isHbm (leafPa z e v) = true → leafPa z e v + 1 ≤ 0x03EF00000000) (pa : Nat) :
    Changed ctx r (fun _ _ => .unmapped) s (s.mapApply ctx pa r) := by
  obtain ⟨hr, -⟩ := mapRefusal_none hm
  simp only [State.mapApply, h1]
  refine Changed.then_same (changed_of_steps hm hs fun k u v hv hroom hwalk => ?_) (.of_caches ctx (Caches.shootDown _ _ _ _))
  obtain ⟨e, he⟩ := page_there hm (.inl h1) hv
  exact unmapPage_step hr.size hroom (page_aligned hr hv) (hwalk ▸ he) fun e hleaf => hhbm v r.size e (hwalk ▸ hleaf)

theorem protected_changed (h2 : r.op = 2) (pa : Nat) : Changed ctx r (fun _ => Walk.changed r.perm) s (s.mapApply ctx pa r) := by
  obtain ⟨hr, -⟩ := mapRefusal_none hm
  simp only [State.mapApply, h2, Nat.mod_eq_of_lt hr.perm]
  refine Changed.then_same (changed_of_steps hm hs fun k u v hv hroom hwalk => ?_) (.of_caches ctx (Caches.shootDown _ _ _ _))
  obtain ⟨e, he⟩ := page_there hm (.inr h2) hv
  rw [← hwalk] at he
  rw [State.pageAt_eq, he]
  exact protect_step hr.size hroom hr.perm he
end

end Sys2Proof.Machine
end

section
/-! SUPPORT. Fresh memory mapped (R238, R240). -/
namespace Sys2Proof.Machine

/-! ### What a change of a table leaves unchanged -/

/-- From `s` to `t` only a context's table has changed: memory, the next node, and the context's root. -/
structure TableStep (ctx : Nat) (s t : State) : Prop where
  rest : t = { s with mem := t.mem, behind := t.behind, undefined := t.undefined, nodeNext := t.nodeNext, contexts := t.contexts }
  ctx : t.ctx ctx = { s.ctx ctx with root := (t.ctx ctx).root }

namespace TableStep
variable {ctx : Nat} {s t u : State}

theorem refl (ctx : Nat) (s : State) : TableStep ctx s s := ⟨rfl, rfl⟩
theorem trans (h : TableStep ctx s t) (k : TableStep ctx t u) : TableStep ctx s u := by
  obtain ⟨hr, hc⟩ := h
  obtain ⟨kr, kc⟩ := k
  exact ⟨by rw [kr, hr], by rw [kc, hc]⟩
theorem foldl {f : State → Nat → State} (h : ∀ u v, TableStep ctx u (f u v)) (vas : List Nat) (s : State) : TableStep ctx s (vas.foldl f s) :=
  foldl_keeps (TableStep ctx s) f (fun u v hu => hu.trans (h u v)) vas s (refl ctx s)

theorem wipe (ctx : Nat) (s : State) (pa n : Nat) : TableStep ctx s (s.wipe pa n) := ⟨rfl, rfl⟩
theorem putEntry (ctx : Nat) (s : State) (pa e : Nat) : TableStep ctx s (s.putEntry pa e) := ⟨rfl, rfl⟩
theorem addNode (ctx : Nat) (s : State) (c : Nat) : TableStep ctx s (s.addNode c) := ⟨rfl, rfl⟩
theorem addRoot (s : State) (ctx : Nat) : TableStep ctx s (s.addRoot ctx) := by
  refine ⟨rfl, ?_⟩
  rw [addRoot_root, State.addRoot, State.ctx_setCtx, if_pos rfl]

theorem nodeFor (ctx : Nat) {va stop : Nat} : ∀ {l : Nat} {s : State} {node : Nat}, TableStep ctx s (s.nodeFor va stop l node).1 := by
  intro l
  induction l with
  | zero => exact fun {s node} => refl ctx s
  | succ l ih =>
    intro s node
    by_cases hne : l + 1 = stop
    · subst hne
      rw [nodeFor_stop]
      exact refl ctx s
    · by_cases hp : s.memNat (cellOf (l + 1) node va) 8 % 4 = 1
      · rw [nodeFor_pointer hne hp]
        exact ih
      · rw [nodeFor_made hne hp]
        exact (addNode ctx s _).trans ih

theorem setLeaf (s : State) (ctx va z e : Nat) : TableStep ctx s (s.setLeaf ctx va z e) := by
  have hrooted {u : State} {root : Nat} (hroot : (u.ctx ctx).root = some root) : TableStep ctx u (u.setLeaf ctx va z e) := by
    rw [setLeaf_rooted hroot]
    exact (nodeFor ctx).trans (putEntry ctx _ _ _)
  cases hroot : (s.ctx ctx).root with
  | some root => exact hrooted hroot
  | none =>
    rw [setLeaf_addRoot hroot]
    exact (addRoot s ctx).trans (hrooted (addRoot_root s ctx))

theorem frames (h : TableStep ctx s t) : t.frames = s.frames := by rw [h.rest]
theorem tenants (h : TableStep ctx s t) : t.tenants = s.tenants := by rw [h.rest]
end TableStep

/-! ### Where fresh memory is -/

theorem freshPlace_spec {s : State} {tenant pa n z : Nat} (h : s.freshPlace tenant pa n z = true) :
    pa % pageSize z = 0 ∧ pa + n ≤ 0x03EF00000000 ∧ ∀ f ∈ s.frames, pa + n ≤ f.2.1 ∨ f.2.1 + f.2.2 ≤ pa := by
  simp only [State.freshPlace, Bool.and_eq_true, decide_eq_true_eq, List.all_eq_true, Bool.or_eq_true] at h
  obtain ⟨⟨⟨hal, hend⟩, -⟩, hframes⟩ := h
  exact ⟨hal, hend, hframes⟩

/-- The places that firmware may choose depend on the pages mapped and the tenant's ranges. -/
theorem placeFrom_congr {s t : State} {tenant : Nat} (hf : t.frames = s.frames) (hr : (t.tenant tenant).ranges = (s.tenant tenant).ranges) (pa z : Nat) :
    t.placeFrom tenant pa z = s.placeFrom tenant pa z := by
  unfold State.tenant at hr
  unfold State.placeFrom State.freshPlace
  rw [hf, hr]

theorem mapFrame_frames (s : State) (ctx va z pa perm : Nat) : (s.mapFrame ctx va z pa perm).frames = s.frames ++ [(ctx / 64, pa, pageSize z)] :=
  congrArg (· ++ [(ctx / 64, pa, pageSize z)]) (TableStep.setLeaf (s.wipe pa (pageSize z)) ctx va z (pa + 3 + 4 * perm)).frames

theorem mapFrame_tenants (s : State) (ctx va z pa perm : Nat) : (s.mapFrame ctx va z pa perm).tenants = s.tenants :=
  (TableStep.setLeaf (s.wipe pa (pageSize z)) ctx va z (pa + 3 + 4 * perm)).tenants

theorem mapFresh_cons {s t : State} {ctx z pa perm va : Nat} {vas : List Nat} (h : s.mapFresh ctx z pa perm (va :: vas) = some t) :
    ∃ a, s.placeFrom (ctx / 64) pa z = some a ∧ (s.mapFrame ctx va z a perm).mapFresh ctx z (a + pageSize z) perm vas = some t := by
  rw [State.mapFresh] at h
  split at h
  · cases h
  · next a ha => exact ⟨a, ha, h⟩

theorem mapFresh_congr {ctx z perm : Nat} : ∀ {vas : List Nat} {s t : State} {pa : Nat}, t.frames = s.frames →
    (t.tenant (ctx / 64)).ranges = (s.tenant (ctx / 64)).ranges → (t.mapFresh ctx z pa perm vas).isSome = (s.mapFresh ctx z pa perm vas).isSome := by
  intro vas
  induction vas with
  | nil => exact fun _ _ => rfl
  | cons va vas ih =>
    intro s t pa hf hr
    rw [State.mapFresh, State.mapFresh, placeFrom_congr hf hr]
    cases s.placeFrom (ctx / 64) pa z with
    | none => rfl
    | some a =>
      refine ih (by rw [mapFrame_frames, mapFrame_frames, hf]) ?_
      rw [State.tenant, mapFrame_tenants, State.tenant, mapFrame_tenants]
      exact hr

theorem mapFresh_tenants {ctx z perm : Nat} : ∀ {vas : List Nat} {s t : State} {pa : Nat}, s.mapFresh ctx z pa perm vas = some t →
    t.tenants = s.tenants ∧ t.ctx ctx = { s.ctx ctx with root := (t.ctx ctx).root } := by
  intro vas
  induction vas with
  | nil =>
    intro s t pa h
    cases h
    exact ⟨rfl, rfl⟩
  | cons va vas ih =>
    intro s t pa h
    obtain ⟨a, -, h⟩ := mapFresh_cons h
    obtain ⟨ht, hc⟩ := ih h
    have hframe : (s.mapFrame ctx va z a perm).ctx ctx = { s.ctx ctx with root := ((s.mapFrame ctx va z a perm).ctx ctx).root } :=
      (TableStep.setLeaf (s.wipe a (pageSize z)) ctx va z (a + 3 + 4 * perm)).ctx
    exact ⟨ht.trans (mapFrame_tenants s ctx va z a perm), by rw [hc, hframe]⟩

/-! ### One page of fresh memory -/

section
variable {s : State} {ctx v z a perm k : Nat} (hz : z ≤ 2) (hperm : perm < 8) (hplace : s.freshPlace (ctx / 64) a (pageSize z) z = true)
include hz hperm hplace

theorem mapFrame_step (hs : s.room ctx (k + 1)) (hopen : s.walk ctx v = .unmapped) :
    PageStep ctx v z (fun _ => .leaf z (BitVec.ofNat 64 (a + (3 + 4 * perm)))) s (s.mapFrame ctx v z a perm) ∧ (s.mapFrame ctx v z a perm).room ctx k ∧
      ∀ b, b < 0x03EF00000000 → (s.mapFrame ctx v z a perm).memByte b = if a ≤ b ∧ b < a + pageSize z then 0#8 else s.memByte b := by
  obtain ⟨hal, hend, -⟩ := freshPlace_spec hplace
  have hwiped := SameNodes.wipe_low ctx s hend
  have hread := readEntry_leaf (perm := perm) hz hperm hal (by omega)
  have hlow : (a + (3 + 4 * perm)) % 4 ≠ 1 := by
    have := mod_of_page hal
    omega
  obtain ⟨hset, hroom⟩ := setLeaf_spec (e := a + (3 + 4 * perm)) (by omega) hlow hz (hwiped.room hs) (.inl ((hwiped.walk_cells hs v).1.trans hopen))
  obtain ⟨hother, hpage, hbytes⟩ := hset
  have hsame : SameNodes ctx ((s.wipe a (pageSize z)).setLeaf ctx v z (a + (3 + 4 * perm))) (s.mapFrame ctx v z a perm) := by
    rw [← Nat.add_assoc]
    exact .of_mem rfl rfl rfl rfl rfl rfl
  have hstep : PageStep ctx v z (fun _ => .leaf z (BitVec.ofNat 64 (a + (3 + 4 * perm)))) (s.wipe a (pageSize z)) _ :=
    ⟨hother, fun x hx => Option.some.inj ((hpage x hx).symm.trans hread)⟩
  refine ⟨.after_same hwiped hs (hstep.then_same hroom hsame), hsame.room hroom, fun b hb => ?_⟩
  rw [← memByte_wipe, ← hbytes b hb, ← Nat.add_assoc]
  rfl
end

/-! ### Pages of fresh memory -/

/-- A page of fresh memory: where it is, what walks of it find, and its bytes, which are zero. -/
def FreshPage (ctx z perm : Nat) (t : State) (v : Nat) : Prop :=
  ∃ a, a % pageSize z = 0 ∧ a + pageSize z ≤ 0x03EF00000000 ∧ (∀ x, SameSpan z x v → t.walk ctx x = .leaf z (BitVec.ofNat 64 (a + (3 + 4 * perm)))) ∧
    ∀ b, a ≤ b → b < a + pageSize z → t.memByte b = 0#8

theorem mapFresh_spec {ctx z perm : Nat} (hz : z ≤ 2) (hperm : perm < 8) : ∀ {vas : List Nat} {s t : State} {pa : Nat},
    vas.Pairwise (fun v w => ¬ SameSpan z v w) → s.room ctx vas.length → (∀ v ∈ vas, s.walk ctx v = .unmapped) → s.mapFresh ctx z pa perm vas = some t →
    (∀ x, (∀ v ∈ vas, ¬ SameSpan z x v) → t.walk ctx x = s.walk ctx x) ∧ (∀ v ∈ vas, FreshPage ctx z perm t v) ∧
      ∀ f ∈ s.frames, ∀ b, f.2.1 ≤ b → b < f.2.1 + f.2.2 → b < 0x03EF00000000 → t.memByte b = s.memByte b := by
  intro vas
  induction vas with
  | nil =>
    intro s t pa _ _ _ h
    cases h
    exact ⟨fun _ _ => rfl, fun _ hv => absurd hv List.not_mem_nil, fun _ _ _ _ _ _ => rfl⟩
  | cons v vas ih =>
    intro s t pa hapart hroom hfree h
    obtain ⟨hv, hvas⟩ := List.pairwise_cons.mp hapart
    obtain ⟨a, ha, h⟩ := mapFresh_cons h
    have hplace : s.freshPlace (ctx / 64) a (pageSize z) z = true :=
      List.find?_some (p := fun a => s.freshPlace (ctx / 64) a (pageSize z) z) ha
    obtain ⟨hal, hend, hclear⟩ := freshPlace_spec hplace
    obtain ⟨hstep, hroom', hbytes⟩ := mapFrame_step hz hperm hplace hroom (hfree v List.mem_cons_self)
    obtain ⟨hother, hpages, hkept⟩ := ih hvas hroom' (fun w hw => (hstep.other w fun hn => hv w hw hn.symm).trans (hfree w (List.mem_cons_of_mem v hw))) h
    rw [mapFrame_frames] at hkept
    refine ⟨fun x hx => ?_, fun w hw => ?_, fun f hf b hfb hbf hb => ?_⟩
    · exact (hother x fun w hw => hx w (List.mem_cons_of_mem v hw)).trans (hstep.other x (hx v List.mem_cons_self))
    · rcases List.mem_cons.mp hw with rfl | hw
      · refine ⟨a, hal, hend, fun x hx => ?_, fun b hab hba => ?_⟩
        · exact (hother x fun w' hw' hn => hv w' hw' (hx.symm.trans hn)).trans (hstep.page x hx)
        · rw [hkept _ (List.mem_append_right _ (List.mem_singleton_self _)) b hab hba (by omega), hbytes b (by omega), if_pos ⟨hab, hba⟩]
      · exact hpages w hw
    · have := hclear f hf
      rw [hkept f (List.mem_append_left _ hf) b hfb hbf hb, hbytes b hb, if_neg (by omega)]

end Sys2Proof.Machine
end

section
/-! SUPPORT. What walks find after a map request: the second part of O46 (R233, R240, R243). -/
namespace Sys2Proof.Machine

theorem tenantCore_lt {s : State} {t cn : Nat} (h : s.tenantCore t cn = true) : cn < 2688 := by
  unfold State.tenantCore at h
  split at h
  · cases h
  · exact of_decide_eq_true (Bool.and_eq_true_iff.mp h).1

theorem tenant_setTenant_same (s : State) (t : Nat) (x : Tenant) : (s.setTenant t x).tenant t = x := by
  simp [State.tenant, State.setTenant, Table.find_put]

/-- The grant of a context's tenant pays for a number of pages (R238). -/
def State.drawn (s : State) (ctx units : Nat) : State :=
  s.setTenant (ctx / 64) { s.tenant (ctx / 64) with grant := (s.tenant (ctx / 64)).grant - units }

theorem mapApply_op0 (s : State) (ctx pa : Nat) {r : MapReq} (h0 : r.op = 0) :
    s.mapApply ctx pa r = ((s.drawn ctx r.units).mapFresh ctx r.size pa (r.perm % 8) r.pages).getD (s.drawn ctx r.units) := by
  simp only [State.mapApply, h0]
  rfl

/-- Map requests for fresh memory that find places, drawn from the grant (R238, R240). -/
theorem fresh_changed {s : State} {ctx pa : Nat} {r : MapReq} (hm : s.mapRefusal ctx r = none) (hs : s.tablesSound ctx (3 * r.pages.length + 1)) (h0 : r.op = 0)
    (hfresh : s.mapFresh ctx r.size pa r.perm r.pages ≠ none) :
    (∀ x, (∀ v ∈ r.pages, ¬ SameSpan r.size x v) → (s.mapApply ctx pa r).walk ctx x = s.walk ctx x) ∧
      ∀ v ∈ r.pages, FreshPage ctx r.size r.perm (s.mapApply ctx pa r) v := by
  obtain ⟨hr, -⟩ := mapRefusal_none hm
  have hu : SameNodes ctx s (s.drawn ctx r.units) := .of_mem rfl rfl rfl rfl rfl rfl
  have hroom := room_of_sound hs
  have hranges : ((s.drawn ctx r.units).tenant (ctx / 64)).ranges = (s.tenant (ctx / 64)).ranges := by
    rw [State.drawn, tenant_setTenant_same]
  have hsome : ((s.drawn ctx r.units).mapFresh ctx r.size pa r.perm r.pages).isSome = true := by
    rw [mapFresh_congr (s := s) (t := s.drawn ctx r.units) rfl hranges]
    exact Option.isSome_iff_ne_none.mpr hfresh
  obtain ⟨t, ht⟩ := Option.isSome_iff_exists.mp hsome
  have happly : s.mapApply ctx pa r = t := by
    rw [mapApply_op0 s ctx pa h0, Nat.mod_eq_of_lt hr.perm, ht, Option.getD_some]
  rw [happly]
  obtain ⟨hother, hpages, -⟩ := mapFresh_spec hr.size hr.perm (pages_apart hr) (hu.room hroom)
    (fun v hv => (hu.walk_cells hroom v).1.trans (page_free hm (by omega) (by omega) hv)) ht
  exact ⟨fun x hx => (hother x hx).trans (hu.walk_cells hroom x).1, hpages⟩

section
variable {s : State} {ctx pa : Nat} {r : MapReq} (hm : s.mapRefusal ctx r = none) (hs : s.tablesSound ctx (3 * r.pages.length + 1))
include hm hs

theorem coreWindows_changed (h5 : r.op = 5) :
    (0x800000000000 + 0x400000 * r.arg) + r.len ≤ 2 ^ 48 ∧ r.size = 1 ∧
    Changed ctx r (fun v _ => .leaf 1 (BitVec.ofNat 64 (0x800000000000 + 0x400000 * r.arg + (v - r.va.toNat) + (3 + 4 * r.perm)))) s (s.mapApply ctx pa r) := by
  obtain ⟨hr, hcores, -⟩ := mapRefusal_none hm
  obtain ⟨hsize, hlen⟩ := hr.windows h5
  have hend : (0x800000000000 + 0x400000 * r.arg) + r.len ≤ 2 ^ 48 := by
    have hsome := hr.some
    have hlast := tenantCore_lt (hcores h5 (r.len / 0x400000 - 1) (by omega))
    omega
  refine ⟨hend, hsize, ?_⟩
  have h := windows_changed hm hs (by omega) (by omega) hsize (by omega) hend
  simp only [← Nat.add_assoc] at h ⊢
  simpa only [State.mapApply, h5, Nat.mod_eq_of_lt hr.perm] using h

theorem broadcastWindow_changed (h6 : r.op = 6) :
    (0xA00000000000 + 0x1000000 * r.arg) + r.len ≤ 2 ^ 48 ∧ r.size = 1 ∧
    Changed ctx r (fun v _ => .leaf 1 (BitVec.ofNat 64 (0xA00000000000 + 0x1000000 * r.arg + (v - r.va.toNat) + (3 + 4 * r.perm)))) s (s.mapApply ctx pa r) := by
  obtain ⟨hr, -⟩ := mapRefusal_none hm
  obtain ⟨hsize, hlen, harg⟩ := hr.broadcast h6
  have hend : (0xA00000000000 + 0x1000000 * r.arg) + r.len ≤ 2 ^ 48 := by omega
  refine ⟨hend, hsize, ?_⟩
  have h := windows_changed hm hs (by omega) (by omega) hsize (by omega) hend
  simp only [← Nat.add_assoc] at h ⊢
  simpa only [State.mapApply, h6, Nat.mod_eq_of_lt hr.perm] using h

omit hs in
/-- The physical addresses of a window's page follow its virtual ones. -/
theorem window_leafPa {base v x : Nat} (hsize : r.size = 1) (hbase : base % 0x200000 = 0) (hend : base + r.len ≤ 2 ^ 48) (hv : v ∈ r.pages)
    (hx : v ≤ x) (hx' : x < v + pageSize r.size) :
    (BitVec.ofNat 64 (base + (v - r.va.toNat) + (3 + 4 * r.perm))).extractLsb' 2 3 = BitVec.ofNat 3 r.perm ∧
      leafPa 1 (BitVec.ofNat 64 (base + (v - r.va.toNat) + (3 + 4 * r.perm))) x = base + (x - r.va.toNat) := by
  obtain ⟨hr, -⟩ := mapRefusal_none hm
  obtain ⟨hal, hlt⟩ := window_place hsize hbase hend hv
  have hperm := hr.perm
  have hva := page_aligned hr hv
  obtain ⟨i, -, rfl⟩ := List.mem_map.mp hv
  refine ⟨perms_written (mod_of_page hal) hperm, ?_⟩
  rw [leafPa_written hal hlt (by omega)]
  have hps : pageSize r.size = 0x200000 := by
    rw [hsize]
    rfl
  rw [show pageSize 1 = 0x200000 from rfl]
  rw [hps] at hva hx hx' ⊢
  omega

/-- A walk to any other address finds what it found. -/
theorem mapApply_other (hhbm : ∀ v z e, s.walk ctx v = .leaf z e → isHbm (leafPa z e v) = true → leafPa z e v + 1 ≤ 0x03EF00000000)
    (hfresh : r.op = 0 → s.mapFresh ctx r.size pa r.perm r.pages ≠ none) {x : Nat} (hx : ∀ v ∈ r.pages, ¬ SameSpan r.size x v) :
    (s.mapApply ctx pa r).walk ctx x = s.walk ctx x := by
  obtain ⟨hr, -⟩ := mapRefusal_none hm
  have hop := hr.op
  interval_cases h : r.op
  · exact (fresh_changed hm hs h (hfresh rfl)).1 x hx
  · exact (unmapped_changed hm hs h hhbm pa).other x hx
  · exact (protected_changed hm hs h pa).other x hx
  · exact (firstTouch_changed hm hs h pa).other x hx
  · exact (migrating_changed hm hs h pa).other x hx
  · obtain ⟨-, -, hset⟩ := coreWindows_changed (pa := pa) hm hs h
    exact hset.other x hx
  · obtain ⟨-, -, hset⟩ := broadcastWindow_changed (pa := pa) hm hs h
    exact hset.other x hx
end

/-- Fresh memory answers with the permissions asked for, and with zeros. -/
theorem FreshPage.reads {ctx z perm v x : Nat} {t : State} (h : FreshPage ctx z perm t v) (hperm : perm < 8) (hx : SameSpan z x v) :
    ∃ e, t.walk ctx x = .leaf z e ∧ e.extractLsb' 2 3 = BitVec.ofNat 3 perm ∧ t.memByte (leafPa z e x) = 0#8 := by
  obtain ⟨a, hal, hend, hwalk, hzero⟩ := h
  have hin := Nat.mod_lt x (pageSize_pos z)
  refine ⟨_, hwalk x hx, perms_written (mod_of_page hal) hperm, ?_⟩
  rw [leafPa_written hal (by omega) (by omega)]
  exact hzero _ (Nat.le_add_right _ _) (by omega)

/-- What walks find after a map request, by its op (R240). -/
theorem walks_after_mapApply (s : State) (ctx pa : Nat) (r : MapReq) (hs : s.tablesSound ctx (3 * r.pages.length + 1)) (hm : s.mapRefusal ctx r = none)
    (hhbm : ∀ v z e, s.walk ctx v = .leaf z e → isHbm (leafPa z e v) = true → leafPa z e v + 1 ≤ 0x03EF00000000)
    (hfresh : r.op = 0 → s.mapFresh ctx r.size pa r.perm r.pages ≠ none) :
    let t := s.mapApply ctx pa r
    let page (x : Nat) := x % 2 ^ 48 / pageSize r.size
    let perms (e : Dword) : Prop := e.extractLsb' 2 3 = BitVec.ofNat 3 r.perm
    let changed (e : Dword) : Dword := (e &&& ~~~0x1C#64) ||| BitVec.ofNat 64 (4 * r.perm)
    (∀ x, (∀ v ∈ r.pages, page x ≠ page v) → t.walk ctx x = s.walk ctx x) ∧
    (∀ v ∈ r.pages, ∀ x, v ≤ x → x < v + pageSize r.size →
      (r.op = 0 → ∃ e, t.walk ctx x = .leaf r.size e ∧ perms e ∧ t.memByte (leafPa r.size e x) = 0#8) ∧
      (r.op = 1 → t.walk ctx x = .unmapped) ∧
      (r.op = 2 → (∀ z e, s.walk ctx x = .leaf z e → t.walk ctx x = .leaf z (changed e)) ∧
        (∀ z e, s.walk ctx x = .firstTouch z e → t.walk ctx x = .firstTouch z (changed e)) ∧
        (∀ z e, s.walk ctx x = .poisoned z e → t.walk ctx x = .poisoned z (changed e)) ∧
        ∀ z e, s.walk ctx x = .migrating z e → t.walk ctx x = .migrating z (changed e)) ∧
      (r.op = 3 → ∃ e, t.walk ctx x = .firstTouch r.size e ∧ perms e) ∧
      (r.op = 4 → ∃ e, t.walk ctx x = .migrating r.size e ∧ perms e) ∧
      (r.op = 5 → ∃ e, t.walk ctx x = .leaf 1 e ∧ perms e ∧ leafPa 1 e x = 0x800000000000 + 0x400000 * r.arg + (x - r.va.toNat)) ∧
      (r.op = 6 → ∃ e, t.walk ctx x = .leaf 1 e ∧ perms e ∧ leafPa 1 e x = 0xA00000000000 + 0x1000000 * r.arg + (x - r.va.toNat))) := by
  obtain ⟨hr, -⟩ := mapRefusal_none hm
  intro t page perms changed
  refine ⟨fun x hx => mapApply_other hm hs hhbm hfresh fun v hv hn => hx v hv ((sameSpan_page hr.size).mp hn), fun v hv x hvx hxv => ?_⟩
  have hspan := page_span hr hv hvx hxv
  refine ⟨fun h0 => ?_, fun h1 => ?_, fun h2 => ?_, fun h3 => ?_, fun h4 => ?_, fun h5 => ?_, fun h6 => ?_⟩
  · exact ((fresh_changed hm hs h0 (hfresh h0)).2 v hv).reads hr.perm hspan
  · exact (unmapped_changed hm hs h1 hhbm pa).page v hv x hspan
  · have hw : t.walk ctx x = (s.walk ctx x).changed r.perm := (protected_changed hm hs h2 pa).page v hv x hspan
    rw [hw]
    refine ⟨?_, ?_, ?_, ?_⟩ <;> (intro z e he; rw [he]; rfl)
  · exact ⟨_, (firstTouch_changed hm hs h3 pa).page v hv x hspan, perms_firstTouch hr.perm⟩
  · exact ⟨_, (migrating_changed hm hs h4 pa).page v hv x hspan, perms_migrating hr.perm⟩
  · obtain ⟨hend, hsize, hset⟩ := coreWindows_changed (pa := pa) hm hs h5
    exact ⟨_, hset.page v hv x hspan, window_leafPa hm hsize (by omega) hend hv hvx hxv⟩
  · obtain ⟨hend, hsize, hset⟩ := broadcastWindow_changed (pa := pa) hm hs h6
    exact ⟨_, hset.page v hv x hspan, window_leafPa hm hsize (by omega) hend hv hvx hxv⟩

end Sys2Proof.Machine
end

section
/-! SUPPORT. Firmware takes the map requests of a context: the first part of O46 (R240, R241). -/
namespace Sys2Proof.Machine

/-! ### What writes and changes of tables keep of a context -/

theorem writeLine_keeps (s : State) (f : Nat) (who : Option Nat) (pa : Nat) (bs : List Byte) :
    (s.writeLine f who pa bs).contexts = s.contexts ∧ (s.writeLine f who pa bs).tenants = s.tenants := by
  obtain ⟨u, ⟨hrest, -⟩, qs, fs, b, hw⟩ := writeLine_spec s f who pa bs
  rw [hw, hrest]
  exact ⟨rfl, rfl⟩

theorem engineWriteFrom_keeps (f : Nat) : ∀ (fuel : Nat) (s : State) (pa : Nat) (bs : List Byte),
    (s.engineWriteFrom f fuel pa bs).contexts = s.contexts ∧ (s.engineWriteFrom f fuel pa bs).tenants = s.tenants := by
  intro fuel
  induction fuel with
  | zero => exact fun _ _ _ => ⟨rfl, rfl⟩
  | succ fuel ih =>
    intro s pa bs
    rw [State.engineWriteFrom]
    split_ifs
    · exact ⟨rfl, rfl⟩
    · obtain ⟨hc, ht⟩ := writeLine_keeps s f none pa (bs.take (256 - pa % 256))
      obtain ⟨hc', ht'⟩ := ih (s.writeLine f none pa (bs.take (256 - pa % 256))) (pa + (256 - pa % 256)) (bs.drop (256 - pa % 256))
      exact ⟨hc'.trans hc, ht'.trans ht⟩

/-- A write by firmware changes no context, and no tenant. -/
theorem writeVa_keeps {s u : State} {cn ctx va : Nat} {mgmt : Bool} {bs : List Byte} (h : s.writeVa cn mgmt ctx va bs = .done u) :
    u.contexts = s.contexts ∧ u.tenants = s.tenants := by
  unfold State.writeVa at h
  split at h
  · cases h
  · split at h
    · cases h
    · cases h
      refine foldl_keeps (fun u => u.contexts = s.contexts ∧ u.tenants = s.tenants) _ ?_ _ s ⟨rfl, rfl⟩
      rintro u x ⟨hcu, htu⟩
      obtain ⟨hc, ht⟩ := engineWriteFrom_keeps (fieldOf cn) ([x.2].length / 256 + 2) u x.1 [x.2]
      exact ⟨hc.trans hcu, ht.trans htu⟩

/-- Of a context's record only its root and the sources of its pages have changed. -/
def Remapped (ctx : Nat) (s t : State) : Prop := t.ctx ctx = { s.ctx ctx with root := (t.ctx ctx).root, sources := (t.ctx ctx).sources }

namespace Remapped
variable {ctx : Nat} {s t u : State}

theorem refl (ctx : Nat) (s : State) : Remapped ctx s s := rfl
theorem trans (h : Remapped ctx s t) (k : Remapped ctx t u) : Remapped ctx s u := by
  unfold Remapped at h k ⊢
  rw [k, h]
theorem foldl {f : State → Nat → State} (h : ∀ u v, Remapped ctx u (f u v)) (vas : List Nat) (s : State) : Remapped ctx s (vas.foldl f s) :=
  foldl_keeps (Remapped ctx s) f (fun u v hu => hu.trans (h u v)) vas s (refl ctx s)
theorem of_contexts (h : t.contexts = s.contexts) : Remapped ctx s t := by
  have hc : t.ctx ctx = s.ctx ctx := by rw [State.ctx, h, State.ctx]
  unfold Remapped
  rw [hc]
theorem of_table (h : TableStep ctx s t) : Remapped ctx s t := by
  unfold Remapped
  rw [h.ctx]
theorem of_caches (h : Caches s t) : Remapped ctx s t := of_contexts (by rw [h.rest])
theorem setSources (s : State) (ctx : Nat) (l : List (Nat × Nat × Nat)) : Remapped ctx s (s.setCtx ctx { s.ctx ctx with sources := l }) := by
  unfold Remapped
  rw [State.ctx_setCtx, if_pos rfl]

theorem unmapPage (s : State) (ctx va z : Nat) : Remapped ctx s (s.unmapPage ctx va z) := by
  have hsources : Remapped ctx s (s.unsourced ctx va) := setSources s ctx _
  have hu := hsources.trans (of_table (.setLeaf (s.unsourced ctx va) ctx va z 0))
  rcases unmapPage_cases s ctx va z with h | ⟨_, e, -, -, h⟩
  · rwa [h]
  · rw [h]
    exact hu.trans (of_contexts rfl)
end Remapped

theorem startPull_keeps (s : State) (ctx va : Nat) : (s.startPull ctx va).contexts = s.contexts ∧ (s.startPull ctx va).tenants = s.tenants := by
  unfold State.startPull
  split
  · dsimp only
    split_ifs <;> exact ⟨rfl, rfl⟩
  · exact ⟨rfl, rfl⟩

theorem foldl_startPull_contexts (ctx : Nat) (vas : List Nat) (s : State) :
    (vas.foldl (fun s va => if Config.freeNat s.fresh va % 2 = 1 then s.startPull ctx va else s) s).contexts = s.contexts := by
  refine foldl_keeps (fun u => u.contexts = s.contexts) _ (fun u va hu => ?_) vas s rfl
  split_ifs
  · exact (startPull_keeps u ctx va).1.trans hu
  · exact hu

/-! ### Requests carried out -/

/-- Entries set for the pages of a list change a context's table alone. -/
theorem foldl_setLeaf (ctx z : Nat) (entry : Nat → Nat) (vas : List Nat) (s : State) :
    TableStep ctx s (vas.foldl (fun s va => s.setLeaf ctx va z (entry va)) s) :=
  .foldl (fun u v => .setLeaf u ctx v z (entry v)) vas s

theorem foldl_protect (ctx perms : Nat) (vas : List Nat) (s : State) :
    TableStep ctx s (vas.foldl (fun s va => match s.pageAt ctx va with
      | some (z, e) => s.setLeaf ctx va z ((e &&& ~~~0x1C#64).toNat + perms)
      | none => s) s) := by
  refine .foldl (fun u v => ?_) vas s
  cases u.pageAt ctx v with
  | none => exact .refl ctx u
  | some p => exact .setLeaf u ctx v p.1 _

section
variable (s : State) (ctx pa : Nat) {r : MapReq}

theorem mapApply_fresh (h0 : r.op = 0) : Remapped ctx s (s.mapApply ctx pa r) ∧ (s.mapApply ctx pa r).tenants = (s.drawn ctx r.units).tenants := by
  have hdrawn : Remapped ctx s (s.drawn ctx r.units) := .of_contexts rfl
  rw [mapApply_op0 s ctx pa h0]
  cases h : (s.drawn ctx r.units).mapFresh ctx r.size pa (r.perm % 8) r.pages with
  | none => exact ⟨hdrawn, rfl⟩
  | some t =>
    obtain ⟨ht, hc⟩ := mapFresh_tenants h
    have hmapped : Remapped ctx (s.drawn ctx r.units) t := by
      unfold Remapped
      rw [hc]
    exact ⟨hdrawn.trans hmapped, ht⟩

theorem mapApply_unmap (h1 : r.op = 1) : Remapped ctx s (s.mapApply ctx pa r) := by
  simp only [State.mapApply, h1]
  exact (Remapped.foldl (fun u v => .unmapPage u ctx v r.size) _ _).trans (.of_caches (Caches.shootDown _ _ _ _))

theorem mapApply_migrate (h4 : r.op = 4) : Remapped ctx s (s.mapApply ctx pa r) ∧
    ((s.mapApply ctx pa r).ctx ctx).sources = ((s.ctx ctx).sources.filter fun y => !r.pages.contains y.1) ++ r.pages.map fun v => (v, r.arg, r.perm) := by
  simp only [State.mapApply, h4]
  have hset := foldl_setLeaf ctx r.size (fun _ => 0x82 + 4 * (r.perm % 8)) r.pages s
  generalize r.pages.foldl (fun s va => s.setLeaf ctx va r.size (0x82 + 4 * (r.perm % 8))) s = u at hset ⊢
  have hpulls := foldl_startPull_contexts ctx r.pages
    (u.setCtx ctx { u.ctx ctx with sources := ((u.ctx ctx).sources.filter fun y => !r.pages.contains y.1) ++ r.pages.map fun va => (va, r.arg, r.perm) })
  refine ⟨((Remapped.of_table hset).trans (.setSources u ctx _)).trans (.of_contexts hpulls), ?_⟩
  have hsources : (u.ctx ctx).sources = (s.ctx ctx).sources := by rw [hset.ctx]
  rw [State.ctx, hpulls, ← State.ctx, State.ctx_setCtx, if_pos rfl, hsources]

/-- Requests that set or change entries alone leave the tenants as they are. -/
theorem mapApply_entries (h : r.op = 2 ∨ r.op = 3 ∨ r.op = 5 ∨ r.op = 6) : Remapped ctx s (s.mapApply ctx pa r) ∧ (s.mapApply ctx pa r).tenants = s.tenants := by
  rcases h with h | h | h | h <;> simp only [State.mapApply, h]
  · have hset := foldl_protect ctx (4 * (r.perm % 8)) r.pages s
    generalize List.foldl _ s r.pages = u at hset ⊢
    have hcaches := Caches.shootDown u ctx r.va.toNat r.len
    exact ⟨(Remapped.of_table hset).trans (.of_caches hcaches), (by rw [hcaches.rest] : (u.shootDown ctx r.va.toNat r.len).tenants = u.tenants).trans hset.tenants⟩
  · have hset := foldl_setLeaf ctx r.size (fun _ => 0x22 + 4 * (r.perm % 8)) r.pages s
    exact ⟨.of_table hset, hset.tenants⟩
  · have hset := foldl_setLeaf ctx 1 (fun va => 0x800000000000 + 0x400000 * r.arg + (va - r.va.toNat) + 3 + 4 * (r.perm % 8)) r.pages s
    exact ⟨.of_table hset, hset.tenants⟩
  · have hset := foldl_setLeaf ctx 1 (fun va => 0xA00000000000 + 0x1000000 * r.arg + (va - r.va.toNat) + 3 + 4 * (r.perm % 8)) r.pages s
    exact ⟨.of_table hset, hset.tenants⟩
end

end Sys2Proof.Machine
end

section
/-! SUPPORT. Firmware's steps on a context's map requests: the first part of O46 (R240, R241). -/
namespace Sys2Proof.Machine

/-! ### Steps -/

section
variable {s u : State} {ctx op p : Nat} {va : Dword} {vas : List Dword} {f : List Byte}

theorem mapTake_idle (h : (s.ctx ctx).mapq = []) : s.mapTake ctx op p = s := by
  unfold State.mapTake
  rw [h]

theorem mapTake_new (h : (s.ctx ctx).mapq = va :: vas) (ha : (s.ctx ctx).accepted = none) : s.mapTake ctx op p = s.mapAccept ctx op va := by
  unfold State.mapTake
  rw [h, ha]

theorem mapTake_accepted (h : (s.ctx ctx).mapq = va :: vas) (ha : (s.ctx ctx).accepted = some f) :
    s.mapTake ctx op p = s.mapFinish ctx op p va (mapReqOf f) := by
  unfold State.mapTake
  rw [h, ha]

theorem mapStatus_done {x : Nat} (h : s.writeVa 0 false ctx (va.toNat + 28) (toLe x 4) = .done u) (goes : State → State) : s.mapStatus ctx va x goes = goes u := by
  unfold State.mapStatus
  rw [h]

theorem mapPop_ctx (s : State) (ctx : Nat) : (s.mapPop ctx).ctx ctx = { s.ctx ctx with mapq := (s.ctx ctx).mapq.tail, accepted := none } := by
  rw [State.mapPop, State.ctx_setCtx, if_pos rfl]

/-- A record that is skipped leaves the queue, and nothing else. -/
theorem mapPop_new (h : (s.ctx ctx).mapq = va :: vas) (ha : (s.ctx ctx).accepted = none) : s.mapPop ctx = s.setCtx ctx { s.ctx ctx with mapq := vas } := by
  refine congrArg (s.setCtx ctx) ?_
  dsimp only
  rw [h, ha]
  rfl

theorem takenBy_iff {r : MapReq} : r.takenBy op = true ↔ r.op = op ∨ 6 < r.op := by
  rw [MapReq.takenBy, Bool.or_eq_true, beq_iff_eq, decide_eq_true_eq]

/-- A record that can be read is skipped, left to another step, or accepted (R240). -/
theorem mapAccept_read (h : s.fetchVa ctx va.toNat 32 = .ok f) : s.mapAccept ctx op va =
    if follows (mapReqOf f).seqNo (s.ctx ctx).lastSeq = false then s.mapPop ctx
    else if ¬ ((mapReqOf f).op = op ∨ 6 < (mapReqOf f).op) then s
    else s.mapStatus ctx va 1 fun s => { s.setCtx ctx { s.ctx ctx with lastSeq := (mapReqOf f).seqNo, accepted := some f } with fresh := s.fresh + 1 } := by
  unfold State.mapAccept
  rw [h]
  simp only [← takenBy_iff, Bool.not_eq_true', Bool.not_eq_true]

theorem mapAccept_accepts (h : s.fetchVa ctx va.toNat 32 = .ok f) (hf : follows (mapReqOf f).seqNo (s.ctx ctx).lastSeq = true)
    (hop : (mapReqOf f).op = op ∨ 6 < (mapReqOf f).op) (hw : s.writeVa 0 false ctx (va.toNat + 28) (toLe 1 4) = .done u) :
    (s.mapAccept ctx op va).mem = u.mem ∧ (s.mapAccept ctx op va).tenants = s.tenants ∧
      (s.mapAccept ctx op va).ctx ctx = { s.ctx ctx with lastSeq := (mapReqOf f).seqNo, accepted := some f } := by
  obtain ⟨hc, ht⟩ := writeVa_keeps hw
  have hctx : u.ctx ctx = s.ctx ctx := by rw [State.ctx, hc, State.ctx]
  rw [mapAccept_read h, if_neg (by rw [hf]; decide), if_neg (not_not.mpr hop), mapStatus_done hw]
  refine ⟨rfl, ht, ?_⟩
  change (u.setCtx ctx _).ctx ctx = _
  rw [State.ctx_setCtx, if_pos rfl, hctx]

theorem mapFinish_refuses {r : MapReq} {c : Nat} (hop : r.op = op ∨ 6 < r.op) (hm : s.mapRefusal ctx r = some c)
    (hw : s.writeVa 0 false ctx (va.toNat + 28) (toLe (0x80000000 + c) 4) = .done u) : s.mapFinish ctx op p va r = u.mapPop ctx := by
  unfold State.mapFinish
  rw [if_neg (by rw [takenBy_iff.mpr hop]; decide), hm]
  exact mapStatus_done hw _

theorem mapFinish_waits {r : MapReq} (hop : r.op = op ∨ 6 < r.op) (hm : s.mapRefusal ctx r = none)
    (hwait : (r.op = 0 ∧ s.mapFresh ctx r.size p (r.perm % 8) r.pages = none) ∨ ((r.op = 1 ∨ r.op = 2) ∧ s.rangeBusy ctx r = true)) :
    s.mapFinish ctx op p va r = s := by
  unfold State.mapFinish
  rw [if_neg (by rw [takenBy_iff.mpr hop]; decide), hm]
  exact if_pos hwait

theorem mapFinish_applies {r : MapReq} (hop : r.op = op ∨ 6 < r.op) (hm : s.mapRefusal ctx r = none)
    (hgoes : ¬ ((r.op = 0 ∧ s.mapFresh ctx r.size p (r.perm % 8) r.pages = none) ∨ ((r.op = 1 ∨ r.op = 2) ∧ s.rangeBusy ctx r = true)))
    (hw : s.writeVa 0 false ctx (va.toNat + 28) (toLe 2 4) = .done u) : s.mapFinish ctx op p va r = (u.mapApply ctx p r).mapPop ctx := by
  unfold State.mapFinish
  rw [if_neg (by rw [takenBy_iff.mpr hop]; decide), hm]
  exact (if_neg hgoes).trans (mapStatus_done hw _)

/-- A request of an op that is known keeps all of its context's record but its root and sources. -/
theorem mapApply_remapped (s : State) (ctx p : Nat) {r : MapReq} (hop : r.op ≤ 6) : Remapped ctx s (s.mapApply ctx p r) := by
  interval_cases h : r.op
  · exact (mapApply_fresh s ctx p h).1
  · exact mapApply_unmap s ctx p h
  · exact (mapApply_entries s ctx p (.inl h)).1
  · exact (mapApply_entries s ctx p (.inr (.inl h))).1
  · exact (mapApply_migrate s ctx p h).1
  · exact (mapApply_entries s ctx p (.inr (.inr (.inl h)))).1
  · exact (mapApply_entries s ctx p (.inr (.inr (.inr h)))).1

/-- A request is done: its queue goes on, and its grant, tenants and sources are those of its op. -/
theorem applied_record {r : MapReq} (hc : u.contexts = s.contexts) (ht : u.tenants = s.tenants) (hop : r.op ≤ 6) (hq : (s.ctx ctx).mapq = va :: vas) :
    let t := (u.mapApply ctx p r).mapPop ctx
    (t.ctx ctx).mapq = vas ∧ (t.ctx ctx).lastSeq = (s.ctx ctx).lastSeq ∧ (t.ctx ctx).accepted = none ∧
      (r.op = 0 → (t.tenant (ctx / 64)).grant = (s.tenant (ctx / 64)).grant - r.len / 0x10000) ∧
      (r.op = 2 ∨ r.op = 3 ∨ r.op = 5 ∨ r.op = 6 → t.tenants = s.tenants) ∧
      (r.op = 4 → (t.ctx ctx).sources = ((s.ctx ctx).sources.filter fun y => !r.pages.contains y.1) ++ r.pages.map fun v => (v, r.arg, r.perm)) := by
  intro t
  have hctx : u.ctx ctx = s.ctx ctx := by rw [State.ctx, hc, State.ctx]
  have hpop : t.ctx ctx = _ := mapPop_ctx (u.mapApply ctx p r) ctx
  have hmapped := mapApply_remapped u ctx p hop
  unfold Remapped at hmapped
  have htenants : t.tenants = (u.mapApply ctx p r).tenants := rfl
  refine ⟨?_, ?_, ?_, fun h0 => ?_, fun h => ?_, fun h4 => ?_⟩
  · rw [hpop, hmapped, hctx, hq]
    rfl
  · rw [hpop, hmapped, hctx]
  · rw [hpop]
  · have hdrawn := (mapApply_fresh u ctx p h0).2
    rw [State.tenant, htenants, hdrawn, ← State.tenant, State.drawn, tenant_setTenant_same, State.tenant, ht]
    rfl
  · rw [htenants, (mapApply_entries u ctx p h).2, ht]
  · rw [hpop, (mapApply_migrate u ctx p h4).2, hctx]
end

end Sys2Proof.Machine
end

section
/-! SUPPORT. Pulls, takes and peers' pulls (R238, R243, R245), and the map requests' events. Settles O46. -/
namespace Sys2Proof.Machine

/-! ### Bytes that came -/

/-- A page's bytes that came, put where the page is mapped; bytes beyond it are dropped. -/
def State.pokeAll (s : State) (pa n : Nat) (data : List (Nat × Byte)) : State :=
  data.foldl (fun (u : State) (b : Nat × Byte) => if b.1 < n then u.pokeMem (pa + b.1) [b.2] else u) s

theorem pokeAll_cons (s : State) (pa n : Nat) (b : Nat × Byte) (data : List (Nat × Byte)) :
    s.pokeAll pa n (b :: data) = (if b.1 < n then s.pokeMem (pa + b.1) [b.2] else s).pokeAll pa n data := rfl

theorem memByte_pokeAll_other {pa n a : Nat} : ∀ {data : List (Nat × Byte)} {s : State},
    (∀ b ∈ data, pa + b.1 ≠ a) → (s.pokeAll pa n data).memByte a = s.memByte a := by
  intro data
  induction data with
  | nil => exact fun _ => rfl
  | cons b data ih =>
    intro s h
    rw [pokeAll_cons, ih fun c hc => h c (List.mem_cons_of_mem b hc)]
    split_ifs
    · rw [memByte_pokeByte, if_neg (h b List.mem_cons_self).symm]
    · rfl

theorem memByte_pokeAll_same {pa n : Nat} {b : Nat × Byte} : ∀ {data : List (Nat × Byte)} {s : State}, (data.map (·.1)).Nodup → b ∈ data → b.1 < n →
    (s.pokeAll pa n data).memByte (pa + b.1) = b.2 := by
  intro data
  induction data with
  | nil => exact fun _ hb => absurd hb List.not_mem_nil
  | cons c data ih =>
    intro s hnd hb hlt
    obtain ⟨hc, hnd⟩ := List.nodup_cons.mp hnd
    rw [pokeAll_cons]
    rcases List.mem_cons.mp hb with rfl | hb
    · rw [memByte_pokeAll_other fun d hd hn => hc (List.mem_map.mpr ⟨d, hd, Nat.add_left_cancel hn⟩), if_pos hlt, memByte_pokeByte, if_pos rfl]
    · exact ih hnd hb hlt

/-! ### Pulls -/

theorem mapFrame_undrawn (s : State) (ctx va z pa perm : Nat) : { s.mapFrame ctx va z pa perm with undrawn := s.undrawn ++ [pa] } =
    { (s.wipe pa (pageSize z)).setLeaf ctx va z (pa + 3 + 4 * perm) with frames := s.frames ++ [(ctx / 64, pa, pageSize z)], undrawn := s.undrawn ++ [pa] } := by
  rw [← mapFrame_frames s ctx va z pa perm]
  rfl

section
variable {s : State} {k pa z : Nat} {p : Pull} {e : Dword} {data : List (Nat × Byte)} (hp : s.pulls.find k = some p)
include hp

theorem pull_stays (h : s.reaches p.ctx p.device = false ∨ s.freshPlace (p.ctx / 64) pa (pageSize p.size) p.size = false) :
    exec (.pagePullComplete k pa data) s = .next s := by
  change execPagePullComplete k pa data s = _
  unfold execPagePullComplete
  rw [hp]
  exact if_pos (by rcases h with h | h <;> simp [h])

theorem pull_completes (hw : s.walk p.ctx p.va = .migrating z e) (hr : s.reaches p.ctx p.device = true)
    (hf : s.freshPlace (p.ctx / 64) pa (pageSize p.size) p.size = true) : exec (.pagePullComplete k pa data) s =
      .next ((State.pokeAll { (s.wipe pa (pageSize z)).setLeaf p.ctx p.va z (pa + 3 + 4 * (e.extractLsb' 2 3).toNat) with
        frames := s.frames ++ [(p.ctx / 64, pa, pageSize z)], undrawn := s.undrawn ++ [pa] } pa (pageSize z) data).endPull k p) := by
  change execPagePullComplete k pa data s = _
  unfold execPagePullComplete
  rw [hp]
  refine (if_neg (by simp [hr, hf])).trans ?_
  dsimp only
  rw [hw]
  exact congrArg (fun u : State => Host.Outcome.next ((u.pokeAll pa (pageSize z) data).endPull k p)) 
    (mapFrame_undrawn s p.ctx p.va z pa (e.extractLsb' 2 3).toNat)

theorem pull_fails (hw : s.walk p.ctx p.va = .migrating z e) :
    exec (.pagePullTimeout k) s = .next ((s.setLeaf p.ctx p.va z (0x42 + 4 * (e.extractLsb' 2 3).toNat)).endPull k p) := by
  change execPagePullTimeout k s = _
  unfold execPagePullTimeout
  rw [hp]
  dsimp only
  rw [hw]
end

theorem endPull_over (s : State) (k : Nat) (p : Pull) : (s.endPull k p).pulls.find k = none := by
  simp [State.endPull, Table.find_drop]

theorem endPull_sources (s : State) (k : Nat) (p : Pull) : ∀ y ∈ ((s.endPull k p).ctx p.ctx).sources, y.1 ≠ p.va := by
  intro y hy
  change y ∈ ((s.setCtx p.ctx _).ctx p.ctx).sources at hy
  rw [State.ctx_setCtx, if_pos rfl] at hy
  simpa using (List.mem_filter.mp hy).2

/-! ### Takes -/

/-- A take ends with a result: for the PGTAKE that waits, or with none. -/
def State.endTake (s : State) (k : Nat) (x : Take) (c : Word) : State :=
  if s.takeAwaited k then { s with takes := s.takes.put k { x with result := some c } } else { s with takes := s.takes.drop k }

theorem endTake_spec (s : State) (k : Nat) (x : Take) (c : Word) : s.endTake k x c = { s with takes := (s.endTake k x c).takes } ∧
    (s.takeAwaited k = true → (s.endTake k x c).takes.find k = some { x with result := some c }) ∧
    (s.takeAwaited k = false → (s.endTake k x c).takes.find k = none) := by
  unfold State.endTake
  split
  · next h => exact ⟨rfl, fun _ => by simp, fun hn => absurd (h.symm.trans hn) (by decide)⟩
  · next h => exact ⟨rfl, fun hn => absurd hn h, fun _ => by simp [Table.find_drop]⟩

section
variable {s : State} {k pa z : Nat} {x : Take} {e : Dword} (hx : s.takes.find k = some x) (hopen : x.result = none)
include hx hopen

theorem take_eq : exec (.pageTakeComplete k pa) s = .next (match s.walk x.ctx x.va with
    | .firstTouch z e =>
      if z ≠ x.size then (s.refundTake x).endTake k x 2
      else if s.freshPlace (x.ctx / 64) pa (pageSize z) z then (s.takePage x.ctx x.va z e pa).endTake k x 0
      else s
    | .leaf _ _ => (s.refundTake x).endTake k x 3
    | _ => (s.refundTake x).endTake k x 2) := by
  change execPageTakeComplete k pa s = _
  unfold execPageTakeComplete
  rw [hx]
  exact if_neg (by simp [hopen])
end

/-! ### Peers' pulls -/

section
variable {s : State} {device ctx va z : Nat} {e : Dword}

theorem peerPull_refused (h : canonical (BitVec.ofNat 64 va) = false ∨ s.walk ctx va = .unmapped) :
    exec (.peerPullRequest device ctx va) s = .next { s with out := s.out ++ [.pageRefused device va] } := by
  change execPeerPullRequest device ctx va s = _
  unfold execPeerPullRequest
  refine congrArg Host.Outcome.next ?_
  by_cases hc : canonical (BitVec.ofNat 64 va) = false
  · exact if_pos hc
  · refine (if_neg hc).trans ?_
    rw [h.resolve_left hc]

theorem peerPull_leaf (hc : canonical (BitVec.ofNat 64 va) = true) (hw : s.walk ctx va = .leaf z e) :
    let p := leafPa z e (va / pageSize z * pageSize z)
    (permits e .read = true → isHbm p = true → s.claimRead 0 ctx (linesFrom p (pageSize z)) = none → exec (.peerPullRequest device ctx va) s =
      .next { s with out := s.out ++ [.pageData device va (s.rangeBytes p (pageSize z))], fresh := s.fresh + 1 }) ∧
    (permits e .read = false ∨ isHbm p = false → exec (.peerPullRequest device ctx va) s = .next { s with out := s.out ++ [.pageRefused device va] }) := by
  intro p
  have hc' : ¬ canonical (BitVec.ofNat 64 va) = false := by rw [hc]; decide
  refine ⟨fun hread hhbm hclaim => ?_, fun h => ?_⟩ <;> change execPeerPullRequest device ctx va s = _ <;> unfold execPeerPullRequest
  · refine congrArg Host.Outcome.next ((if_neg hc').trans ?_)
    rw [hw]
    refine (if_pos (by rw [Bool.and_eq_true_iff]; exact ⟨hread, hhbm⟩)).trans ?_
    rw [hclaim]
  · refine congrArg Host.Outcome.next ((if_neg hc').trans ?_)
    rw [hw]
    exact if_neg (by rw [Bool.and_eq_true_iff]; grind)
end

/-! ### The events -/

/-- A step on the map requests of a context, by the op that it takes and the place that it is given. -/
theorem exec_mapTake {ctx pa : Nat} (s : State) {e : Instr × Nat × Nat} (he : e ∈ ([(.mapMemory ctx pa, 0, pa), (.unmap ctx, 1, 0), (.protect ctx, 2, 0),
    (.grantFirstTouch ctx, 3, 0), (.migrateIn ctx, 4, 0), (.mapCoreWindows ctx, 5, 0), (.mapBroadcastWindow ctx, 6, 0)] : List (Instr × Nat × Nat))) :
    exec e.1 s = .next (s.mapTake ctx e.2.1 e.2.2) ∧ (e.2.1 = 0 → e.2.2 = pa) := by
  fin_cases he
  · exact ⟨rfl, fun _ => rfl⟩
  all_goals exact ⟨rfl, nofun⟩

/-- Settles O46: map requests go by the lemmas on `mapTake`'s steps, walks after them by `walks_after_mapApply`, pulls and takes by theirs. -/
theorem pageEvents : Obligations.PageEvents := by
  unfold Obligations.PageEvents
  refine ⟨fun s ctx pa va vas f e he => ?requests, walks_after_mapApply, fun s k pa => ⟨fun p z e data hp hw => ?pulls, fun x z e hx hopen => ?takes,
    fun device ctx va z e hc hw => peerPull_leaf hc hw, fun device ctx va h => peerPull_refused h⟩⟩
  case requests =>
    obtain ⟨hexec, hplace⟩ := exec_mapTake s he
    intro x r wrote
    rw [hexec]
    refine ⟨fun hq => ?_, fun hq ha hbad => ?_, fun hq ha hok => ⟨fun hf => ?_, fun hf hop hne => ?_, fun u hf hop hw => ?_⟩,
      fun hq ha hop => ⟨fun c u hm hw => ?_, fun hm h12 hbusy => ?_, fun hm h0 hnone hpa => ?_, fun u hm hfresh hidle hw => ?_⟩⟩
    · rw [mapTake_idle hq]
    · rw [mapTake_new hq ha, State.mapAccept, hbad]
    · rw [mapTake_new hq ha, mapAccept_read hok, if_pos hf, mapPop_new hq ha]
    · rw [mapTake_new hq ha, mapAccept_read hok, if_neg (by rw [hf]; decide), if_pos fun h => h.elim hne (Nat.not_lt.mpr hop)]
    · rw [mapTake_new hq ha]
      exact ⟨_, rfl, mapAccept_accepts hok hf hop hw⟩
    · obtain ⟨hc, ht⟩ := writeVa_keeps hw
      have hctx : u.ctx ctx = s.ctx ctx := by rw [State.ctx, hc, State.ctx]
      rw [mapTake_accepted hq ha, mapFinish_refuses hop hm hw]
      refine ⟨_, rfl, rfl, ht, ?_⟩
      rw [mapPop_ctx, hctx, hq]
      rfl
    · rw [mapTake_accepted hq ha, mapFinish_waits hop hm (.inr ⟨h12, hbusy⟩)]
    · rw [mapTake_accepted hq ha, mapFinish_waits hop hm (.inl ⟨h0, hpa ▸ hnone⟩)]
    · obtain ⟨hr, -⟩ := mapRefusal_none hm
      obtain ⟨hc, ht⟩ := writeVa_keeps hw
      have hgoes : ¬ ((r.op = 0 ∧ s.mapFresh ctx r.size e.2.2 (r.perm % 8) r.pages = none) ∨ ((r.op = 1 ∨ r.op = 2) ∧ s.rangeBusy ctx r = true)) := by
        rintro (⟨h0, hnone⟩ | ⟨h12, hbusy⟩)
        · have hpa := hplace (by omega)
          exact hfresh h0 (hpa ▸ hnone)
        · exact Bool.false_ne_true ((hidle h12).symm.trans hbusy)
      rw [mapTake_accepted hq ha, mapFinish_applies hop hm hgoes hw]
      exact ⟨_, rfl, rfl, applied_record hc ht hr.op hq⟩
  case pulls =>
    intro poked
    refine ⟨pull_stays hp, fun hr hf => ⟨_, pull_completes hp hw hr hf, rfl, endPull_over _ k p, endPull_sources _ k p,
      fun u => ⟨fun hnd b hb hlt => ?_, fun a ha => ?_⟩,
      fun j hj => ?_, fun a ha => ?_⟩, _, pull_fails hp hw, rfl, endPull_over _ k p⟩
    · exact memByte_pokeAll_same hnd hb hlt
    · exact memByte_pokeAll_other ha
    · rw [memByte_wipe, if_pos (by omega)]
    · rw [memByte_wipe, if_neg (by omega)]
  case takes =>
    intro ends
    have hends {u : State} {c : Word} (h : exec (.pageTakeComplete k pa) s = .next (u.endTake k x c)) : ends u c := ⟨_, h, endTake_spec u k x c⟩
    have hexec := take_eq (pa := pa) hx hopen
    refine ⟨fun hw hz hf => hends ?_, fun hw hz => hends ?_, fun hw => hends ?_, fun hw => hends ?_⟩ <;> rw [hexec, hw]
    · exact congrArg Host.Outcome.next ((if_neg (not_not.mpr hz)).trans (if_pos hf))
    · exact congrArg Host.Outcome.next (if_pos hz)

end Sys2Proof.Machine
end
